-- ==== Sys2Proof/Word.lean ====
section
/-!
DEFINITION. The word types of the model and its one sparse-map type.
Bit 0 is the least significant bit of every field, and register and memory contents are little-endian (R15).
-/
namespace Sys2Proof

/-- A byte. -/
abbrev Byte := BitVec 8
/-- A 32-bit register or detail-record value. -/
abbrev Word32 := BitVec 32
/-- A 64-bit register value. -/
abbrev Word64 := BitVec 64
/-- The 64 bytes of one line; byte `k` is bits `8k+7:8k`. -/
abbrev LineData := BitVec 512
/-- One bit per byte of a line: byte enables and byte masks. -/
abbrev LineMask := BitVec 64
/-- The 80 bytes a line occupies in DRAM with its check symbols (R234). -/
abbrev RawLine := BitVec 640

/-- A sparse map: pairs of key and value with keys strictly rising, in which no pair holds the map's default value.
`smGet` and `smSet` of `Machine/Bits.lean` are the only operations that read and write one. -/
abbrev SMap (α : Type) := List (Nat × α)

/-- A sparse map with a fill value that an operation can change for every key at once (a Blank Map set all blank). -/
structure FMap (α : Type) where
  fill : α
  ex   : SMap α
deriving DecidableEq, Repr

end Sys2Proof
end

