-- ==== Sys2Proof/Types/Req.lean ====
section
/-!
DEFINITION. Requests, completions and the state of the Fabric Request Ports, the notice channel, admission and the
Transaction Table (02_request_ports.md, 04_admission.md).
-/
namespace Sys2Proof

/-- A memory operation that can wait for admission (R53). -/
inductive MemOp where
  | rdLine | rdPart | wrLine | wrPart | add8 | cas8 | trim | prefetch
deriving DecidableEq, Repr

/-- Completion codes (R57). -/
inductive Code where
  | ok | poison | errRange | errLock | errFenced | errPower | cureDegraded
deriving DecidableEq, Repr

/-- Cure modes (R39). -/
inductive CureMode where
  | sync | epoch | loc
deriving DecidableEq, Repr

/-- Who takes the data and the completion of a request: a port's endpoint; the Tenon job of a received segment, with
the index of the line within it; a Joiner's staging; the copy of a line by a move, by the move's number; a Rasp fill of a
panel's line; a Casting transfer; the Armature; or nobody. -/
inductive Dest where
  | port (p : Fin 8) (tag : Nat)
  | tenon (eng : Fin 8) (job line : Nat)
  | joiner (eng : Fin 4) (line : Nat)
  | move (num line : Nat)
  | rasp (eng : Fin 4) (line : Nat)
  | casting (eng : Fin 2) (line : Nat)
  | arm (line : Nat)
  | drop
deriving DecidableEq, Repr

/-- What a Rasp engine's request is for (R106, R252 to R256, R265, R320): the map word a scrub slice asks for; a line of the
slice; a line of a diagnostic pass read, and whether it is compared; a line of it written; a Blank Map line that init
writes, or rebuild reads; a Recast copy, with the DAS address of its line. -/
inductive RaspWork where
  | map
  | scrub
  | diagRead (cmp : Bool)
  | diagWrite
  | init
  | rebuild
  | recast (das : Nat)
deriving DecidableEq, Repr

/-- What kind of request it is: an access; a zero-fill write (R92); a frame access of a request to a moving panel, with
the DAS address of its line and the request it belongs to (R343); a raw access of the code unit (R263); or a Rasp engine's
access to the DAS. -/
inductive ReqKind where
  | access
  | fill
  | frame (das parent : Nat)
  | raw
  | rasp (w : RaspWork)
deriving DecidableEq, Repr

/-- A request that waits for admission, is admitted, or is being served. -/
structure Req where
  /-- identity, given at acceptance and never reused -/
  rid     : Nat
  /-- requester index (R110) -/
  src     : Fin 20
  /-- engine within the requester -/
  eng     : Nat
  op      : MemOp
  addr    : BitVec 48
  /-- byte mask of RD_PART, byte enables of WR_PART -/
  mask    : LineMask
  data    : LineData
  /-- the write data is present (R51) -/
  hasData : Bool
  poison  : Bool
  mid     : BitVec 12
  qos     : Fin 4
  rt      : Bool
  lock    : Bool
  lockEnd : Bool
  /-- pool that admits it (R109) -/
  pool    : Fin 16
  dest    : Dest
  kind    : ReqKind
  /-- FCLK from which it has been eligible and not selected (ADM.MAXWAIT, ADM.WAIT_ALARM) -/
  since   : Option Nat
deriving DecidableEq, Repr

/-- Port states (R69). -/
inductive PortMode where
  | down | quiesce | up
deriving DecidableEq, Repr

/-- Lock states of a port (R121). -/
inductive LockMode where
  | idle | inLock | spent
deriving DecidableEq, Repr

/-- Lock state of a port: the sequence's pool once fixed, whether the pool is held, the request count, the MID of the
first request, and the request selected while the lock stood (R121 to R125). -/
structure LockSt where
  mode  : LockMode
  pool  : Option (Fin 16)
  held  : Bool
  count : Nat
  mid   : BitVec 12
deriving DecidableEq, Repr

/-- A port outside any sequence. -/
def LockSt.idle : LockSt := { mode := .idle, pool := none, held := false, count := 0, mid := 0 }

/-- One beat of write data (R50). -/
structure WdBeat where
  data : LineData
  be   : LineMask
deriving DecidableEq, Repr

/-- One read-data beat in the return buffer (R58). -/
structure RdBeat where
  tag    : Nat
  data   : LineData
  poison : Bool
deriving DecidableEq, Repr

/-- One completion in the return buffer (R57). -/
structure Cmp where
  tag  : Nat
  code : Code
deriving DecidableEq, Repr

/-- The epoch of an admitted write or TRIM that still holds its TT entry, and whether its region is mirrored. -/
structure OpenEp where
  rid   : Nat
  epoch : BitVec 32
  mir   : Bool
deriving DecidableEq, Repr

/-- A fence that waits (R63): its tag, the accepted writes not yet admitted, those admitted that may still end in an error,
the latest epoch among those that have ended without one, and the latest among these of mirrored regions (R302). -/
structure FenceWait where
  tag   : Nat
  waits : List Nat
  eps   : List OpenEp
  epoch : Option (BitVec 32)
  mirEp : Option (BitVec 32)
deriving DecidableEq, Repr

/-- A completion of a request that holds no TT entry and for which the return buffer has no room yet (R52). -/
structure PortDue where
  tag  : Nat
  read : Bool
  code : Code
  data : LineData
deriving DecidableEq, Repr

/-- A NOP that waits for the requests accepted before it on its port (R53): its tag and those requests' tags. -/
structure NopWait where
  tag  : Nat
  tags : List Nat
deriving DecidableEq, Repr

/-- One Fabric Request Port. -/
structure Port where
  mode    : PortMode
  /-- FRPn_LIVE as seen after synchronisation (FRP.STATUS.live) -/
  live    : Bool
  /-- WD credits granted and not consumed (FRP.STATUS.wd_cred) -/
  creds   : Nat
  /-- outstanding tags, in acceptance order (R60) -/
  tags    : List Nat
  /-- write-class requests whose beat has not come, in REQ order: the request's rid, or none where the beat is to be
  discarded (R51) -/
  wdWait  : List (Option Nat)
  /-- beats that came before their request (R51) -/
  wdBuf   : List WdBeat
  /-- requests accepted and not yet admitted or completed (R52) -/
  places  : Nat
  rdBuf   : List RdBeat
  cmpBuf  : List Cmp
  due     : List PortDue
  fences  : List FenceWait
  nops    : List NopWait
  /-- epochs of the port's admitted writes and TRIMs that hold their TT entries, and the latest among those that have left
  without an error (R63) -/
  eps     : List OpenEp
  lastEp  : Option (BitVec 32)
  lastMir : Option (BitVec 32)
  lock    : LockSt
  /-- a discard of R71 has been reported since entry to QUIESCE -/
  discSeen : Bool
  /-- PFAIL_N has fallen and no ERR_POWER completion has been reported since (R77) -/
  pwrArm : Bool
deriving DecidableEq, Repr

/-- A port after reset: DOWN, with nothing outstanding (R69). -/
def Port.reset : Port :=
  { mode := .down, live := false, creds := 0, tags := [], wdWait := [], wdBuf := [], places := 0, rdBuf := [],
    cmpBuf := [], due := [], fences := [], nops := [], eps := [],
    lastEp := none, lastMir := none, lock := .idle, discSeen := false, pwrArm := false }

/-- A notice message (R74). -/
structure Notice where
  overflow : Bool
  ring     : Fin 32
  ownerMid : BitVec 12
  srcDev   : BitVec 16
  index    : BitVec 16
  imm      : Word32
  conn     : BitVec 16
deriving DecidableEq, Repr

/-- Which TT entries a request was given (R130). A lending access has released its TT entry and holds a lending slot of a
Tenon engine (R43); it is kept in the same list. -/
inductive TtClass where
  | shared | reserve
  | slot (eng : Fin 8)
deriving DecidableEq, Repr

/-- Where an admitted request stands while its record is kept (R128): its Veneer stage to come; waiting in a miss buffer
entry; waiting for the channel's read data; waiting to enter a channel queue; waiting for a Fill Table entry or a panel
operation; waiting for a lending slot; sent to a lender or to a frame of a moving panel; waiting to be forwarded; forwarded
to the twin; and left: its data is delivered or has left. -/
inductive TtStage where
  | start
  | miss
  | chanRead
  | queue
  | fillWait
  | panelWait
  | slotWait
  | lent
  | fwdWait
  | twinWait
  | left
deriving DecidableEq, Repr

/-- What Casting captures of a write (R304): bytes with their mask; a poison descriptor; a panel descriptor. -/
inductive MirWhat where
  | bytes (mask : LineMask) (data : LineData)
  | poison
  | trim
deriving DecidableEq, Repr

/-- A completion due to a requester and not yet placed: its code, the data of a read, and the epoch it waits for in
Sync mode (R301). -/
structure CmpDue where
  code : Code
  data : LineData
  sync : Option (BitVec 32)
deriving DecidableEq, Repr

/-- One TT entry. `das` is the DAS address of its line while the line is local; `capt` tells that Casting has captured it
or has nothing to capture (R304). -/
structure TtEntry where
  req   : Req
  cls   : TtClass
  /-- epoch tag of a write or TRIM (R295) -/
  epoch : Option (BitVec 32)
  mode  : CureMode
  stage : TtStage
  /-- tick of admission, FCLK / 8 (R145) -/
  stamp : Nat
  das   : Option Nat
  cmp   : Option CmpDue
  capt  : Bool
  /-- what is to be captured, once known: an atomic's result is known when it is performed -/
  mir   : Option MirWhat
  /-- acknowledgements its local durability still waits for (R43, R343) -/
  parts : Nat
  /-- a durable write's completion, held until then -/
  held  : Option CmpDue
  /-- the line that a lending write which waits for a lending slot has made, and its poison (R43) -/
  full  : Option (LineData × Bool)
deriving DecidableEq, Repr

/-- A result delivered to an engine: whose it is, its code and its data. -/
structure EngRes where
  dest : Dest
  code : Code
  data : LineData
deriving DecidableEq, Repr

/-- A Sync completion in the cure wait list (R129). -/
structure CureWait where
  epoch : BitVec 32
  dest  : Dest
  read  : Bool
  code  : Code
  data  : LineData
deriving DecidableEq, Repr

/-- Admission. -/
structure AdmSt where
  /-- requests waiting for admission, oldest first; a requester's queue for a pool is its part of the list (R111) -/
  wait    : List Req
  /-- round-robin pointer of each pool (R114) -/
  rr      : Vector Nat 16
  /-- round-robin pointer of each requester's engines (R110) -/
  engRr   : Vector Nat 20
  /-- requesters masked at the last edge (R119) -/
  masked  : BitVec 20
  /-- TT_FULL and POOL_AT_CAP have been raised and their conditions have not cleared (R132) -/
  fullSeen : Bool
  capSeen : BitVec 16
  /-- identity of the next request -/
  nextRid : Nat
  /-- highest TT use (ADM.TT_STATUS.high) -/
  high    : Nat
deriving DecidableEq, Repr

/-- Admission after reset (ADM.MASK reads 0 as its reset column says; eligibility asks R119 itself). -/
def AdmSt.reset : AdmSt :=
  { wait := [], rr := Vector.replicate 16 0, engRr := Vector.replicate 20 0, masked := 0, fullSeen := false,
    capSeen := 0, nextRid := 0, high := 0 }

end Sys2Proof
end

