-- ==== Sys2Proof/Types/Out.lean ====
section
/-!
DEFINITION. Segments the Shuzer's own engines hand to Tenon: the mirror stream, accesses forwarded to the twin, repairs, and
lending segments (R303 to R307, R312, R316, R350).
-/
namespace Sys2Proof

/-- Opcodes of the segments the engines originate. -/
inductive SegOp where
  | write | readReq | add8 | cas8
deriving DecidableEq, Repr

/-- Why a segment was sent, which says what its acknowledgement or answer does: the mirror stream; a MARK of an epoch; an
access forwarded to the twin; a repair by its number; the attach push of a panel, with its last segment; the re-send of a
panel; a lending access of a request; a lending read that fills a line of a slice; a lending write of a line that a fill
merged, and which counts for a request; a frame sought from a lender by a move, by its number; a lending write of a line that
a move copies; a frame returned; a round-trip probe. -/
inductive Why where
  | mirror
  | mark (e : BitVec 32)
  | fwd (rid : Nat)
  | repair (n : Nat)
  | push (panel : Nat) (last : Bool)
  | resend
  | lend (rid : Nat)
  | lendFill (slice : Fin 16) (line : Nat)
  | alloc (num : Nat)
  | copy (num line : Nat)
  | free
  | probe
deriving DecidableEq, Repr

/-- A segment an engine hands to Tenon. `kind` is bits 31:28 of the descriptor in the region key field (R305, R350), `imm`
the immediate field, `lines` the payload lines, none for a line sent marked, `len` the lines covered, `mask` the byte mask
of a MASKED segment, and `operand` the operand words of an atomic. -/
structure OutSeg where
  op      : SegOp
  kind    : BitVec 4
  addr    : BitVec 48
  len     : Nat
  lines   : List (Option LineData)
  mask    : LineMask
  imm     : Word32
  operand : BitVec 128
  why     : Why
deriving DecidableEq, Repr

/-- What comes back for a segment: an acknowledgement; the lines of a READ_RESP, none for a marked line, with its
immediate; an atomic's old value; a NAK with its syndrome; or nothing, because the connection has failed. -/
inductive SegAns where
  | acked
  | lines (ls : List (Option LineData)) (imm : Word32)
  | old (v : Word64)
  | nak (syn : BitVec 8)
  | failed
deriving DecidableEq, Repr

end Sys2Proof
end

