-- ==== Sys2Proof/Types/Conn.lean ====
section
/-!
DEFINITION. State of Tenon: Segment Ports, segments, connections with their contexts and keys, engines, region keys and
notice rings (12_tenon_transport.md, 13_tenon_connections.md).
-/
namespace Sys2Proof

/-! Segments on the wire (R368 to R371). -/

/-- The fields of a segment header (R370), zero-field bits included. -/
structure SegHdr where
  version : BitVec 4
  typ     : BitVec 4
  try_    : BitVec 4
  solicit : Bool
  /-- the header's zero fields: byte 1 bits 2:0 and bytes 30 and 31 -/
  zero    : BitVec 19
  dstConn : BitVec 16
  psn     : BitVec 24
  opcode  : BitVec 8
  ackPsn  : BitVec 24
  keyGen  : BitVec 8
  rkey    : Word32
  offset  : BitVec 48
  length  : BitVec 16
  imm     : Word32
  srcDev  : BitVec 16
deriving DecidableEq, Repr

/-- A datagram on a Segment Port: its IP and UDP fields, the header, and the bytes after the header with the trailer (R9, R368).
`frag`: it is a fragment; `ext`: it has IPv4 options or IPv6 extension headers; `proto` is the IPv4 protocol or the IPv6 next
header; `ipSum` is the IPv4 header checksum. -/
structure Datagram where
  v6      : Bool
  ecn     : BitVec 2
  df      : Bool
  ident   : BitVec 16
  frag    : Bool
  ext     : Bool
  proto   : BitVec 8
  ipSum   : BitVec 16
  srcIp   : BitVec 128
  dstIp   : BitVec 128
  ttl     : BitVec 8
  dscp    : BitVec 6
  flow    : BitVec 20
  nh      : BitVec 8
  srcPort : BitVec 16
  dstPort : BitVec 16
  udpLen  : Nat
  udpSum  : BitVec 16
  hdr     : SegHdr
  body    : List Byte
  tag     : BitVec 128
deriving DecidableEq, Repr

/-- How a received datagram's beats end (R365, R366): whole; a beat met a full buffer; FCS or length error; or a SOP before the
EOP. -/
inductive RxBeats where
  | whole | full | err | sop
deriving DecidableEq, Repr

/-- A segment past the checks of R376 steps 1 to 6: its header and plaintext, and the wrap count of its psn. -/
structure Seg where
  hdr  : SegHdr
  data : List Byte
  wrap : Nat
  /-- a duplicate request executed again (R378) -/
  dup  : Bool
deriving DecidableEq, Repr

/-- A received segment that waits in a pending buffer (R401), with the UDP source port of its datagram. -/
structure PendSeg where
  hdr     : SegHdr
  body    : List Byte
  tag     : BitVec 128
  srcPort : BitVec 16
deriving DecidableEq, Repr

/-! Connections (R393 to R405). -/

/-- Connection states (R394). -/
inductive ConnMode where
  | free | opened | error
deriving DecidableEq, Repr

/-- Connection kinds (R393). -/
inductive ConnKind where
  | data | mirror | lending
deriving DecidableEq, Repr

/-- Causes of ERROR, as TEN.CONN_STATUS.cause numbers them. -/
inductive ErrCause where
  | none | retry | nakSent | nakRecv | psn | load | command
deriving DecidableEq, Repr

/-- Key slot states (R403). -/
inductive KeyMode where
  | empty | ready | active | draining
deriving DecidableEq, Repr

/-- A key slot. -/
structure KeySlot where
  mode : KeyMode
  key  : BitVec 256
  salt : Word32
  gen  : BitVec 8
deriving DecidableEq, Repr

/-- An empty key slot. -/
def KeySlot.empty : KeySlot := { mode := .empty, key := 0, salt := 0, gen := 0 }

/-- A 24-bit sequence with its wrap count (R373, R377). -/
structure SeqNo where
  n    : BitVec 24
  wrap : Nat
deriving DecidableEq, Repr

/-- An initiator request sent and not retired: its psn and wrap, transmissions made, the segment, whether a cumulative
acknowledgement has covered it while its answer is awaited (R378), and whether it waits to be transmitted again (R386). -/
structure OutReq where
  psn   : BitVec 24
  wrap  : Nat
  tries : Nat
  seg   : OutSeg
  acked : Bool
  retx  : Bool
deriving DecidableEq, Repr

/-- One connection: its context (R397), and what its engine holds while the context is cached. -/
structure Conn where
  mode    : ConnMode
  kind    : ConnKind
  v6      : Bool
  pin     : Bool
  port    : Fin 4
  cause   : ErrCause
  peerDev : BitVec 16
  peerConn : BitVec 16
  peerIp  : BitVec 128
  nh      : BitVec 8
  dscp    : BitVec 6
  /-- retired generations, older first -/
  retired : List (BitVec 8)
  slot0   : KeySlot
  slot1   : KeySlot
  txSlot  : Bool
  nsn     : SeqNo
  una     : BitVec 24
  epsn    : SeqNo
  ctlTx   : SeqNo
  ctlRx   : SeqNo
  /-- timeout in force in µs -/
  rto     : Nat
  /-- last cumulative point acknowledged, and the degraded bit (R380) -/
  ackPt   : BitVec 24
  degr    : Bool
  /-- outstanding requests in psn order -/
  outst   : List OutReq
  /-- the retransmit timer is armed -/
  timer   : Bool
  /-- FCLK of the last acknowledgement, answer or NAK applied, and of the last segment received: which timeout expires in that
  FCLK (R22, R387) -/
  ackAt   : Option Nat
  rxAt    : Option Nat
  /-- transmission has stopped at a CONTEXT_NOT_READY naming this psn (R386) -/
  stopAt  : Option (BitVec 24)
  /-- a NAK SEQ has been sent since epsn advanced (R378) -/
  nakSeq  : Bool
  /-- an acknowledgement is owed: requests covered since the last one sent, and whether one asked for it at once (R381) -/
  owed    : Nat
  owedNow : Bool
  /-- latest epoch among the mirrored lines of the writes acknowledged (R380) -/
  lastMir : Option (BitVec 32)
deriving DecidableEq, Repr

/-- A free connection. -/
def Conn.none : Conn :=
  { mode := .free, kind := .data, v6 := false, pin := false, port := 0, cause := .none, peerDev := 0, peerConn := 0,
    peerIp := 0, nh := 0, dscp := 0, retired := [], slot0 := .empty, slot1 := .empty, txSlot := false, nsn := ⟨0, 0⟩,
    una := 0, epsn := ⟨0, 0⟩, ctlTx := ⟨0, 0⟩, ctlRx := ⟨0, 0⟩, rto := 0, ackPt := 0, degr := false, outst := [],
    timer := false, ackAt := .none, rxAt := .none, stopAt := .none, nakSeq := false, owed := 0, owedNow := false, lastMir := .none }

/-! Region keys (R406 to R410). -/

/-- Region key entry states (R407). -/
inductive RkeyMode where
  | invalid | valid | revoking
deriving DecidableEq, Repr

/-- An entry of the region key table. -/
structure Rkey where
  mode : RkeyMode
  perm : BitVec 4
  ring : Fin 32
  gen  : BitVec 8
  peer : BitVec 16
  base : Nat
  size : Nat
deriving DecidableEq, Repr

/-- An entry of zeros. -/
def Rkey.zero : Rkey := { mode := .invalid, perm := 0, ring := 0, gen := 0, peer := 0, base := 0, size := 0 }

/-! Engines (R376, R384, R399, R401, R410). -/

/-- What a job waits for beyond its lines: nothing; a notice to post on a ring; a notice to queue, once its ring entry is
admitted and the queue has room (R75, R390); the cured epoch (R380); the data of a READ_RESP; an atomic's old value. -/
inductive JobWait where
  | lines
  | notice (ring : Fin 32)
  | posting (n : Notice)
  | cure
  | read
  | atomic
deriving DecidableEq, Repr

/-- A request being executed by an engine: its number, its connection, the segment, the region key index it bears, the rids
of its lines not yet admitted, the results received by line, how many lines it has, the latest epoch of its lines and
earlier writes, and whether its condition has been met and its answer sent (R380, R410). -/
structure Job where
  num   : Nat
  /-- when it began, in the order of all requests -/
  stamp : Nat
  conn  : BitVec 16
  seg   : Seg
  rkey  : Option Nat
  rids  : List Nat
  lines : Nat
  res   : List (Nat × Code × LineData)
  epoch : Option (BitVec 32)
  wait  : JobWait
  met   : Bool
  /-- a revoke's snapshot holds it (R410) -/
  snap  : Bool
  /-- its connection has entered ERROR: no answer is sent (R405) -/
  mute  : Bool
deriving DecidableEq, Repr

/-- A stored atomic result (R384). -/
structure AtomRes where
  conn : BitVec 16
  psn  : BitVec 24
  wrap : Nat
  old  : Word64
deriving DecidableEq, Repr

/-- A context in an engine's cache (R399, R400): its connection, a load still running, and changed since its load. -/
structure CtxEnt where
  conn  : BitVec 16
  load  : Bool
  dirty : Bool
deriving DecidableEq, Repr

/-- A region key entry in an engine's cache (R407): its index, and a load still running. -/
structure RkeyEnt where
  idx  : Nat
  load : Bool
  val  : Rkey
deriving DecidableEq, Repr

/-- What a received segment is, and so which command carries it out. -/
inductive TenRow where
  | write | writeImm | readReq | readResp | add8 | cas8 | cureWrite | ack | nak | notReady
  | mirror (kind : Nat)
  | lendAccess | lendAlloc | lendFree
  | invalid
deriving DecidableEq, Repr

/-- An answer or control segment an engine is to send (R364): its connection, opcode, psn with wrap and try, ack_psn,
descriptor, immediate, offset and payload; a CONTEXT_NOT_READY holds the peer's connection in the immediate. -/
structure TxAns where
  conn   : BitVec 16
  opcode : BitVec 8
  psn    : BitVec 24
  wrap   : Nat
  try_   : BitVec 4
  ackPsn : BitVec 24
  rkey   : Word32
  imm    : Word32
  offset : BitVec 48
  data   : List Byte
deriving DecidableEq, Repr

/-- One Tenon engine. -/
structure Engine where
  /-- segments past step 7 that wait to be executed, oldest first -/
  exec   : List (BitVec 16 × Seg)
  jobs   : List Job
  nextJob : Nat
  /-- pending buffer, at most 64, oldest first (R401) -/
  pend   : List PendSeg
  /-- context cache, least recently used first (R399, R400) -/
  ctx    : List CtxEnt
  /-- region key cache, least recently used first (R407) -/
  rkeys  : List RkeyEnt
  /-- stored atomic results, oldest first, at most 1,024 (R384) -/
  atoms  : List AtomRes
  /-- control segments and responses to send, oldest first -/
  txCtl  : List TxAns
  txRsp  : List TxAns
  /-- the connection whose request was sent last -/
  rrConn : Nat
deriving DecidableEq, Repr

/-- An idle engine. -/
def Engine.idle : Engine :=
  { exec := [], jobs := [], nextJob := 0, pend := [], ctx := [], rkeys := [], atoms := [], txCtl := [], txRsp := [],
    rrConn := 0 }

/-! Rings and ports. -/

/-- A notice ring's producer (R388 to R390). -/
structure Ring where
  prod  : Nat
  phase : Bool
  cons  : Nat
deriving DecidableEq, Repr

/-- A ring after reset (TEN.RING_C). -/
def Ring.reset : Ring := { prod := 0, phase := true, cons := 0 }

/-- A Segment Port (R366): up, live after synchronisation, the round-robin pointer of its transmitter, and the datagram it
sent last. -/
structure SegPort where
  up   : Bool
  live : Bool
  rr   : Nat
  sent : Option Datagram
deriving DecidableEq, Repr

/-- A Segment Port after reset. -/
def SegPort.reset : SegPort := { up := false, live := false, rr := 0, sent := none }

/-- Tenon. -/
structure TenSt where
  segs    : Vector SegPort 4
  engines : Vector Engine 8
  rings   : Vector Ring 32
  /-- TEN.CONN_CMD.result, TEN.RKEY_CMD.result, TEN.CONN_STATUS, TEN.RKEY_VAL -/
  connRes : BitVec 3
  rkeyRes : BitVec 2
  connStat : Word64
  rkeyVal : Word32
  /-- the entries whose revoke snapshots wait, and the entry TEN.RKEY_STATUS reports -/
  revoke  : List Nat
  rkeyLast : Option Nat
  /-- key words staged since the last command, and their values (R395) -/
  keyGot  : BitVec 4
  keyVal  : BitVec 256
  /-- a close that waits for its connection's executing segments (R394) -/
  closing : List (BitVec 16)
  /-- how many keys of R398 and R406 have been derived: each reset derives new ones -/
  keyEra  : Nat
  /-- bytes sent in the current window of 64 KiB, and of them Casting's, by port (R309) -/
  winAll  : Vector Nat 4
  winCast : Vector Nat 4
deriving DecidableEq, Repr

/-- Tenon after reset. -/
def TenSt.reset : TenSt :=
  { segs := Vector.replicate 4 .reset, engines := Vector.replicate 8 .idle, rings := Vector.replicate 32 .reset,
    connRes := 0, rkeyRes := 0, connStat := 0, rkeyVal := 0, revoke := [], rkeyLast := none, keyGot := 0, keyVal := 0,
    closing := [], keyEra := 0, winAll := Vector.replicate 4 0,
    winCast := Vector.replicate 4 0 }

end Sys2Proof
end

