-- ==== Sys2Proof/Types/Events.lean ====
section
/-!
DEFINITION. State of the Beat unit (01_architecture.md), the event and fault collector and the Event Journal
(16_events_faults_journal.md).
-/
namespace Sys2Proof

/-- Level of an event source (R470), encoded 0, 1, 2 as in FLT.LEVEL. -/
inductive Level where
  | normal | serious | severe
deriving DecidableEq, Repr

/-- Count window of one source (R470): events in the current window, saturating at 255 as FLT.WIN_VIEW shows it, the
run `r` of completed windows that reached N (0–3), and the level. -/
structure WinRec where
  count : Nat
  run   : Nat
  level : Level
deriving DecidableEq, Repr

/-- Kind of address a first-error capture holds (FLT.FEC_INFO.kind). -/
inductive AddrKind where
  | none | lms | das | dram
deriving DecidableEq, Repr

/-- What an event tells the first-error capture (R477): the address with its kind, the MID, and the access type as
FLT.FEC_INFO.type encodes it. -/
structure EvtOrigin where
  kind : AddrKind
  addr : Word64
  mid  : BitVec 12
  typ  : BitVec 4
deriving DecidableEq, Repr

/-- An event that does not arise from a request and records no address. -/
def EvtOrigin.none : EvtOrigin := { kind := .none, addr := 0, mid := 0, typ := 0 }

/-- One first-error capture (R477, FLT.FEC_BEAT, FLT.FEC_ADDR, FLT.FEC_INFO). -/
structure FecRec where
  valid  : Bool
  src    : BitVec 5
  beat   : Word64
  origin : EvtOrigin
  more   : BitVec 8
deriving DecidableEq, Repr

/-- A capture group that holds nothing. -/
def FecRec.empty : FecRec := { valid := false, src := 0, beat := 0, origin := .none, more := 0 }

/-- A hardware request for a channel fence that has not been carried out: the channel, the trigger code and the
triggering event (R314). -/
structure FenceTrig where
  chan : Fin 16
  code : Nat
  evt  : Nat
deriving DecidableEq, Repr

/-- An event's records on their way to the journal (R478, R481): Beat, level, forced flag, source, SQ count after the
event, and detail records. -/
structure JrnEvt where
  beat    : Word64
  level   : Level
  forced  : Bool
  src     : BitVec 10
  count   : BitVec 8
  details : List Word32
deriving DecidableEq, Repr

/-- The event and fault collector. -/
structure EvtSt where
  /-- SQ records by source (R454) -/
  sq       : SMap Word32
  /-- interrupt pending bits (R476) -/
  ipend    : BitVec 1024
  /-- count windows and levels by source (R470) -/
  win      : SMap WinRec
  /-- first-error captures by group (R477) -/
  fec      : SMap FecRec
  /-- FAULT_SEVERE and the first source to assert it since the last clear (R475) -/
  severe   : Bool
  sevSrc   : Option (BitVec 10)
  /-- FLT.STATUS.failover and fo_refused (R474) -/
  failover : Bool
  foRefused : Bool
  /-- fences the collector and the error rules have asked for, oldest first (R314, R473) -/
  trigs    : List FenceTrig
deriving DecidableEq, Repr

/-- The default of `EvtSt.win`. -/
def WinRec.empty : WinRec := { count := 0, run := 0, level := .normal }

/-- The collector after reset (R454, R475). -/
def EvtSt.reset : EvtSt :=
  { sq := [], ipend := 0, win := [], fec := [], severe := false, sevSrc := none, failover := false,
    foRefused := false, trigs := [] }

/-- One stage of the fall-through chain (R478): a record, and on the first record of an event that event. -/
structure ChainRec where
  word  : Word32
  start : Option JrnEvt
  last  : Bool
deriving DecidableEq, Repr

/-- Close causes of R479. -/
inductive CloseCause where
  | full | time | level | flush
deriving DecidableEq, Repr

/-- The open packet: the ring slot reserved for its length word, the records not yet assembled into a word, the full
words written, the records taken, the highest level, whether its event records are partly taken, a close that waits
for the event's last record, Beat[63:42] of its last ANCHOR, and the Beat of its opening (R479, R480, R482). -/
structure OpenPkt where
  start   : Nat
  part    : List Word32
  words   : Nat
  records : Nat
  level   : Level
  midEvt  : Bool
  closing : Option CloseCause
  anchor  : Nat
  opened  : Word64
deriving DecidableEq, Repr

/-- A complete packet in the ring: its first slot and its length in words, and how many of them have been returned. -/
structure Pkt where
  start : Nat
  words : Nat
  read  : Nat
  records : Nat
  /-- its length word was read uncorrectable (R485) -/
  lenBad : Bool
deriving DecidableEq, Repr

/-- The Event Journal. -/
structure JrnSt where
  /-- events waiting for the chain, at most 64, oldest first (R478) -/
  queue  : List JrnEvt
  /-- an event was dropped since the previous packet (R478, R480) -/
  drop   : Bool
  /-- the 16-stage chain, head first (R478) -/
  chain  : List ChainRec
  /-- the ring of 4,096 words of 128 bits (R479), and the next slot to write -/
  ring   : SMap (BitVec 128)
  wptr   : Nat
  /-- complete packets, oldest first (R479, R484) -/
  pkts   : List Pkt
  /-- the open packet -/
  cur    : Option OpenPkt
  /-- sequence number of the next packet (R480) -/
  seq    : BitVec 16
  /-- packets were freed since the previous pop (R484) -/
  lost   : Bool
  /-- JRN.WORD0–3, the word latched by the last pop, and the tag it returned -/
  latch  : BitVec 128
  tag    : Word32
deriving DecidableEq, Repr

/-- The journal after reset: empty (R479). -/
def JrnSt.reset : JrnSt :=
  { queue := [], drop := false, chain := [], ring := [], wptr := 0, pkts := [], cur := none, seq := 0, lost := false,
    latch := 0, tag := 0 }

/-- The Beat unit (R31 to R35). The internal Beat is kept in units of 0.5 ns. -/
structure BeatSt where
  /-- internal Beat in half nanoseconds; 0 while invalid -/
  half    : Nat
  valid   : Bool
  freerun : Bool
  /-- half nanoseconds the internal Beat still holds after a small backward difference (R32) -/
  holdFor : Nat
  /-- TOP.BEAT_STATUS.diff -/
  diff    : BitVec 16
  /-- the internal Beat, in half nanoseconds, at the last pulse accepted (R34) -/
  sync    : Nat
  /-- FCLK edges since reset release -/
  fclk    : Nat
deriving DecidableEq, Repr

/-- The Beat unit after reset (R35). -/
def BeatSt.reset : BeatSt := { half := 0, valid := false, freerun := false, holdFor := 0, diff := 0, sync := 0, fclk := 0 }

end Sys2Proof
end

