-- ==== Sys2Proof/Types/Map.lean ====
section
/-!
DEFINITION. State of the address decode, Blank Map, Fill Table, Placement Map and Reserve (03_address_space.md).
-/
namespace Sys2Proof

/-- Classes of R88: filling, with the line's valid bit; blank; written. -/
inductive PanelClass where
  | filling (valid : Bool)
  | blank
  | written
deriving DecidableEq, Repr

/-- A Fill Table entry (R91, R92, R95): the panel and the valid bit of each of its 1,024 lines. -/
structure FillEnt where
  panel : Nat
  valid : BitVec 1024
deriving DecidableEq, Repr

/-- What of a channel's DRAM reads as zero since firmware wrote zeros to the Reserve (R420): from a row and logical rank up
to the row `top`. -/
structure ZeroSpan where
  row  : Nat
  rank : Nat
  top  : Nat
deriving DecidableEq, Repr

/-- Which MAP.BCMD command runs (R106). -/
inductive BcmdRun where
  | init | rebuild
deriving DecidableEq, Repr

/-- Address decode and maps. The maps of the Reserve are held as maps, not as bytes of the Reserve's lines. -/
structure MapSt where
  /-- MAP.DAS.das_size and MAP.EXCL.excl_base in 64 KiB units (R86) -/
  das     : Nat
  excl    : Nat
  /-- Blank Map, Blank Summary, Stale Map: true is a bit of 1 (R89, R102) -/
  blank   : FMap Bool
  summary : FMap Bool
  stale   : FMap Bool
  /-- Placement Map entries by panel (R100) -/
  pmap    : FMap Word64
  /-- Frame Map: true is a frame in use (11_tiering_and_jigs.md) -/
  frames  : FMap Bool
  /-- Fill Table, oldest first, at most 256 (R91, R94) -/
  fill    : List FillEnt
  /-- FILL_FULL has been raised and an entry has not been freed since -/
  fillFullSeen : Bool
  /-- Placement Cache: by set, the map lines held, each with its recently-used bit (R101) -/
  pcache  : SMap (List (Nat × Bool))
  bcmd    : Option BcmdRun
  bprog   : Nat
  /-- by Rasp engine, the lines of the scrub slice whose map word it has asked for (R254) -/
  slices  : Vector (List Nat) 4
  /-- panels with a TRIM admitted whose step 5 has not ended (R96) -/
  trims   : List Nat
  /-- damaged map lines found (R99): panels served from the twin -/
  damaged : List Nat
deriving DecidableEq, Repr

/-- The decode after PORST_N. -/
def MapSt.reset : MapSt :=
  { das := 0, excl := 0, blank := ⟨false, []⟩, summary := ⟨false, []⟩, stale := ⟨false, []⟩, pmap := ⟨0, []⟩,
    frames := ⟨false, []⟩, fill := [], fillFullSeen := false, pcache := [], bcmd := none, bprog := 0,
    slices := Vector.replicate 4 [], trims := [],
    damaged := [] }

end Sys2Proof
end

