-- ==== Sys2Proof/Types/Chan.lean ====
section
/-!
DEFINITION. State of one channel: scheduler and Hold (05_channel_scheduler.md), refresh and row disturbance
(06_refresh_and_disturbance.md), PHY, Keeper, probing and sideband (07_phy_and_training.md), and symbol code, Glue-up
buffer, scrub, Inlay Map and repair (08_symbol_code_and_repair.md).
-/
namespace Sys2Proof

/-- DRAM coordinates of a line (R81 to R85), after the bank hash. -/
structure Coord where
  chan : Nat
  sub  : Nat
  rank : Nat
  bg   : Nat
  ba   : Nat
  row  : Nat
  col  : Nat
deriving DecidableEq, Repr

/-- Where a read's data goes: to the TT entry of a request that bypasses the Veneer, to a miss buffer entry of a slice,
to a Glue-up entry's merge, to patrol scrub (`newer`: a write to the line has reached the queues since), to a diagnostic pass
(`cmp`: it is compared with the address pattern), or to the code unit undecoded. -/
inductive RdDest where
  | tt (rid : Nat)
  | fill (slice : Fin 16) (line : Nat)
  | merge (gid : Nat)
  | scrub (rid : Nat) (newer : Bool)
  | diag (rid : Nat) (cmp : Bool)
  | raw (rid : Nat)
deriving DecidableEq, Repr

/-- Whose latency target a read is measured against: its requester, and for a port its REQ_QOS (R144, R146). -/
structure Requester where
  src : Fin 20
  qos : Fin 4
deriving DecidableEq, Repr

/-- A read queue entry. `coord` is the position after the Inlay remap (R153); `arr` is its arrival number;
`noProbe`: it is reissued unprobed (R222). -/
structure RdEnt where
  arr    : Nat
  coord  : Coord
  das    : Nat
  dest   : RdDest
  stamp  : Nat
  who    : Requester
  urg    : Nat
  rt     : Bool
  noProbe : Bool
deriving DecidableEq, Repr

/-- A write queue entry: one encoded line (R135, R233). -/
structure WrEnt where
  arr      : Nat
  coord    : Coord
  das      : Nat
  raw      : RawLine
  promoted : Bool
  rt       : Bool
deriving DecidableEq, Repr

/-- A Glue-up buffer entry (R248). `full`: a full-line write has joined; `byRead`: a read closed it (R150);
`repair`: its merge waits for Casting to repair the line from the twin (R251). `arr` is the arrival number of the write
that opened it. -/
structure GlueEnt where
  gid    : Nat
  arr    : Nat
  coord  : Coord
  das    : Nat
  lms    : BitVec 48
  data   : LineData
  mask   : LineMask
  poison : Bool
  full   : Bool
  closed : Bool
  issued : Bool
  byRead : Bool
  repair : Bool
  stamp  : Nat
  who    : Requester
  rt     : Bool
deriving DecidableEq, Repr

/-- A partial write on its way to the Glue-up buffer. -/
structure PartWr where
  coord  : Coord
  das    : Nat
  lms    : BitVec 48
  data   : LineData
  mask   : LineMask
  poison : Bool
  full   : Bool
  stamp  : Nat
  who    : Requester
  rt     : Bool
deriving DecidableEq, Repr

/-- A request on its way from the TT path to a channel queue, with the TT entry it holds until it enters (R136). `shut`: it is a
partial write that found the Glue-up buffer full and has closed the oldest entry (R249). -/
structure Arrival where
  rid  : Option Nat
  what : RdEnt ⊕ WrEnt ⊕ PartWr
  shut : Bool
deriving DecidableEq, Repr

/-- Write-path states (R139). -/
inductive WState where
  | read | drain | flush
deriving DecidableEq, Repr

/-- A break-in on a subchannel in DRAIN (R141): of the reads at urgency 3, or of the read with an arrival number, behind which
every write waits. -/
inductive BreakIn where
  | urgent
  | blocked (arr : Nat)
deriving DecidableEq, Repr

/-- Hold states (R162). -/
inductive HoldMode where
  | run | holding | held | releasing
deriving DecidableEq, Repr

/-- Rank power states (SCH.RANK_PWR). -/
inductive RankPwr where
  | active | powerDown | selfRefresh
deriving DecidableEq, Repr

/-- Channel self-refresh states (R159). -/
inductive SrMode where
  | active | entry | selfRefresh
deriving DecidableEq, Repr

/-- One bank: its open row, the column commands the open row has taken, the DRAM-clock times of its last ACT, PRE, read
and write, and whether it is in strict order (R152). -/
structure BankSt where
  row    : Option Nat
  streak : Nat
  act    : Option Nat
  pre    : Option Nat
  rd     : Option Nat
  wr     : Option Nat
  strict : Bool
deriving DecidableEq, Repr

/-- A bank with no history. -/
def BankSt.idle : BankSt :=
  { row := none, streak := 0, act := none, pre := none, rd := none, wr := none, strict := false }

/-- One logical rank: its power state, whether a refresh has taken it out of power-down, to which it then returns (R158), the
DRAM-clock time from which it takes commands and reads, and the times of its last four ACTs on each subchannel, newest first. -/
structure RankSt where
  pwr    : RankPwr
  back   : Bool
  ready  : Nat
  rdReady : Nat
  actsA  : List Nat
  actsB  : List Nat
deriving DecidableEq, Repr

/-- A rank with no history. -/
def RankSt.idle : RankSt := { pwr := .active, back := false, ready := 0, rdReady := 0, actsA := [], actsB := [] }

/-- A replay log entry (R213): a column command with the data of a write, or the read; `due` is the FCLK count at which
it leaves the log. -/
structure LogEnt where
  due : Nat
  cmd : RdEnt ⊕ WrEnt
deriving DecidableEq, Repr

/-- The next DRAM command a queued request needs. -/
inductive NextCmd where
  | col
  | act
  | pre
deriving DecidableEq, Repr

/-- A queued request: a read or a write. -/
inductive QReq where
  | rd (e : RdEnt)
  | wr (e : WrEnt)
deriving DecidableEq, Repr

/-- A read whose column command has been issued and whose data has not been decoded: the symbols DRAM held at its issue;
`probe` is the probed chip. `again`: it is to be reissued and waits for the read queue to have room (R136, R222). -/
structure Flight where
  ent   : RdEnt
  probe : Option Nat
  raw   : RawLine
  again : Bool
deriving DecidableEq, Repr

/-- Channel scheduler. -/
structure SchedSt where
  hold    : HoldMode
  lastEnd : Nat
  inDev   : Bool
  /-- TOP.HOLD was written while the channel was RELEASING: it is held when it returns to RUN (R167) -/
  devNext : Bool
  arrive  : List Arrival
  rq      : List RdEnt
  wq      : List WrEnt
  glue    : List GlueEnt
  nextArr : Nat
  nextGid : Nat
  wstate  : WState
  /-- column commands left in the present FLUSH run of each subchannel, and whether it is a run of writes (R140) -/
  runA    : Nat
  runB    : Nat
  wrRunA  : Bool
  wrRunB  : Bool
  /-- the break-in in progress on the subchannel, and the arrival number of the write for which a row has been opened or closed
  and whose column command has not been issued (R141) -/
  breakA  : Option BreakIn
  breakB  : Option BreakIn
  wrNowA  : Option Nat
  wrNowB  : Option Nat
  /-- the subchannel issues idle writes (R142) -/
  idleA   : Bool
  idleB   : Bool
  mclk    : Nat
  /-- command slots that sequencer commands take next on the subchannel (R137) -/
  seqA    : Nat
  seqB    : Nat
  banks   : SMap BankSt
  ranks   : SMap RankSt
  sr      : SrMode
  /-- logical ranks whose SRE has been committed in the present entry -/
  sreDone : Nat
  flight  : List Flight
  log     : List LogEnt
  /-- the channel's scheduler has stopped on an uncorrectable on-die word (R264) -/
  stopped : Bool
deriving DecidableEq, Repr

/-- The scheduler after reset. -/
def SchedSt.reset : SchedSt :=
  { hold := .run, lastEnd := 0, inDev := false, devNext := false, arrive := [], rq := [], wq := [], glue := [], nextArr := 0,
    nextGid := 0, wstate := .read, runA := 0, runB := 0, wrRunA := false, wrRunB := false, breakA := none,
    breakB := none, wrNowA := none, wrNowB := none, idleA := false, idleB := false, mclk := 0, seqA := 0, seqB := 0, banks := [], ranks := [], sr := .active,
    sreDone := 0, flight := [], log := [], stopped := false }

/-- A retraining window or probe dwell request that waits for its start (R186): Beat, length in ns. -/
structure WinReq where
  start : Nat
  len   : Nat
deriving DecidableEq, Repr

/-- One set of the activation counter table (R189): up to 8 rows with counts, lowest way first, and the spill value. -/
structure DstSet where
  ways  : List (Nat × Nat)
  spill : Nat
deriving DecidableEq, Repr

/-- A row that waits for its neighbour refresh (R191). -/
structure NbrRow where
  sub  : Nat
  rank : Nat
  bg   : Nat
  ba   : Nat
  row  : Nat
deriving DecidableEq, Repr

/-- An ACT of a neighbour refresh (R191): its subchannel, rank and bank group, and its DRAM-clock time. -/
structure NbrAct where
  sub  : Nat
  rank : Nat
  bg   : Nat
  time : Nat
deriving DecidableEq, Repr

/-- Refresh and row disturbance. Targets are keyed by logical rank × 4 + bank index. -/
structure RefSt where
  /-- temperature multiplier in force, and a change that waits for its slot (R176, R177) -/
  m        : Nat
  mNext    : Option Nat
  /-- consecutive polls that gave a lower multiplier, and that multiplier -/
  lowPolls : Nat
  lowM     : Nat
  /-- granularity in force, encoded as REF.CFG.gran, and a committed change that waits (R178) -/
  gran     : Nat
  granNext : Option Nat
  owed     : SMap Nat
  debit    : SMap Int
  /-- REF_POSTPONE_LIMIT has been raised in the present burst of the target (R181) -/
  limSeen  : SMap Bool
  gen      : BitVec 16
  /-- no slot has come since the reset: REF.STATUS.gran reads its reset value until the first slot -/
  first    : Bool
  /-- slots before this Beat have been stepped over; start of the last slot run; DRAM-clock time before which no slot runs after
  a self-refresh exit (R33, R183) -/
  since    : Nat
  lastSlot : Int
  xsUntil  : Nat
  /-- the slot last decided on, and its postponed targets (R179) -/
  decided  : Option (Int × List Nat)
  /-- DRAM-clock time of the last refresh command (R174) -/
  lastRef  : Nat
  nextRetrain : Option WinReq
  /-- a probe dwell that waits for its start -/
  nextDwell : Option WinReq
  /-- DRAM-clock time until which a target refreshes -/
  busy     : SMap Nat
  /-- targets the backstop must refresh (R182) -/
  backstop : List Nat
  sets     : SMap DstSet
  lfsr     : Word32
  nbrQ     : List NbrRow
  nbrActs  : List NbrAct
  raa      : SMap Nat
  rfmReq   : Bool
  raaimt   : Nat
  raammt   : Nat
  /-- banks whose spill response or RFM is due -/
  rfmDue   : List Nat
  /-- banks on which an ACT waits at raammt -/
  rfmWait  : List Nat
  stallSeen : Bool
deriving DecidableEq, Repr

/-- Refresh after reset: m is 4 and the granularity reads same-bank (REF.STATUS, R176). -/
def RefSt.reset : RefSt :=
  { m := 4, mNext := none, lowPolls := 0, lowM := 4, gran := 2, granNext := none, owed := [], debit := [],
    limSeen := [], gen := 0, first := true, since := 0, lastSlot := -1, xsUntil := 0, decided := none, lastRef := 0,
    nextRetrain := none, nextDwell := none, busy := [], backstop := [], sets := [], lfsr := 0, nbrQ := [], nbrActs := [], raa := [], rfmReq := false, raaimt := 0, raammt := 0, rfmDue := [], rfmWait := [],
    stallSeen := false }

/-- Training modes (R208). -/
inductive TrainMode where
  | cold | warm | retrain
deriving DecidableEq, Repr

/-- PHY.STATUS.train. -/
inductive TrainState where
  | untrained | training | trained | failed
deriving DecidableEq, Repr

/-- PHY.TRAIN_STATUS without busy. -/
structure TrainInfo where
  fail  : Bool
  step  : BitVec 4
  prank : BitVec 2
  subch : Bool
  chip  : BitVec 4
deriving DecidableEq, Repr

/-- Settings of one lane on one package rank (R199, R200, R211, R220): trained and applied read and write delays, host
DFE taps, edge estimates, and a pending recentring. -/
structure LaneSt where
  rdTrain : Nat
  wrTrain : Nat
  rdDly   : Nat
  wrDly   : Nat
  dfe1    : BitVec 4
  dfe2    : BitVec 4
  eL      : Int
  eR      : Int
  recen   : Int
deriving DecidableEq, Repr

/-- A lane before training. -/
def LaneSt.zero : LaneSt :=
  { rdTrain := 0, wrTrain := 0, rdDly := 0, wrDly := 0, dfe1 := 0, dfe2 := 0, eL := 0, eR := 0, recen := 0 }

/-- A probe target (R219): package rank, subchannel, chip, edge (true: right). -/
structure ProbeTgt where
  prank : Nat
  sub   : Nat
  chip  : Nat
  right : Bool
deriving DecidableEq, Repr

/-- The Keeper's registers of one channel (PHY.KEEP_STATUS). -/
structure KeepSt where
  owner     : Bool
  retained  : Bool
  lost      : Bool
  handovers : BitVec 16
deriving DecidableEq, Repr

/-- A sideband transfer in progress (SBI.CMD) with the retries made (R229). -/
structure SbXfer where
  write : Bool
  slot  : Bool
  lid   : BitVec 4
  len   : BitVec 2
  addr  : BitVec 11
  tries : Nat
deriving DecidableEq, Repr

/-- One sideband bus (R226 to R229): the boot ROM has enabled it; SBb_SEG; the segments whose hubs use I3C; the channel whose
transfer is on the bus, and the channel served last. -/
structure SbBus where
  on   : Bool
  seg  : Bool
  i3c  : BitVec 2
  cur  : Option (Fin 16)
  last : Fin 16
deriving DecidableEq, Repr

/-- PHY, probing and sideband. Lanes are keyed by (package rank × 2 + subchannel) × 40 + lane. `target` is the dwell
group's target. -/
structure PhySt where
  pllLock  : Bool
  train    : TrainState
  run      : Option TrainMode
  info     : TrainInfo
  pranks   : BitVec 4
  lanes    : SMap LaneSt
  /-- Vref per nibble: trained and applied, keyed by (package rank × 2 + subchannel) × 10 + nibble -/
  vrefT    : SMap Nat
  vrefA    : SMap Nat
  /-- user trims in force, by nibble as for Vref (R201) -/
  utrim    : SMap Word64
  /-- consecutive alerts without an alert-free log window between, and the FCLK count of the last alert (R216) -/
  streak   : Nat
  lastAlert : Option Nat
  /-- retraining window in progress: its package rank -/
  window   : Option Nat
  nextPrank : Nat
  /-- consecutive windows with a failed oscillator read or sweep, by package rank (R218) -/
  oscFail  : SMap Nat
  /-- carry of the write-delay change not yet applied, by device (R217) -/
  carry    : SMap Int
  /-- dwell in progress, the target, the dwell index in its group, and bits and mismatches summed over the group for the
  four lanes of the chip (R223) -/
  dwelling : Bool
  target   : ProbeTgt
  dwell    : Nat
  bits     : Vector Nat 4
  misses   : Vector Nat 4
  /-- this dwell's own counts -/
  dBits    : Vector Nat 4
  dMisses  : Vector Nat 4
  sb       : Option SbXfer
  sbResult : BitVec 3
deriving DecidableEq, Repr

/-- The PHY after reset. -/
def PhySt.reset : PhySt :=
  { pllLock := false, train := .untrained, run := none, info := ⟨false, 0, 0, false, 0⟩, pranks := 0, lanes := [],
    vrefT := [], vrefA := [], utrim := [], streak := 0, lastAlert := none, window := none, nextPrank := 0, oscFail := [], carry := [],
    dwelling := false, target := ⟨0, 0, 0, true⟩, dwell := 0, bits := Vector.replicate 4 0,
    misses := Vector.replicate 4 0, dBits := Vector.replicate 4 0, dMisses := Vector.replicate 4 0, sb := none,
    sbResult := 0 }

/-- A sideband bus after reset (R226); its round robin begins with the bus's first channel. -/
def SbBus.reset (b : Fin 2) : SbBus := { on := false, seg := false, i3c := 0, cur := none, last := if b = 0 then 7 else 15 }

/-- A chip mark: chip number, and whether hardware set it (CODE.MARK m_src). -/
structure Mark where
  chip : Nat
  hw   : Bool
deriving DecidableEq, Repr

/-- The two mark slots of one package rank and subchannel (R240). -/
structure MarkPair where
  m0 : Option Mark
  m1 : Option Mark
deriving DecidableEq, Repr

/-- An x8 trial that waits (R244). -/
structure TrialReq where
  rank : Nat
  sub  : Nat
  bg   : Nat
  ba   : Nat
deriving DecidableEq, Repr

/-- What a poll read from one device's ECS (R257). -/
structure EcsRec where
  count  : Word32
  maxCnt : BitVec 8
  row    : BitVec 18
  bg     : BitVec 3
  ba     : BitVec 2
  polled : Bool
deriving DecidableEq, Repr

/-- An Inlay Map entry (R258). -/
structure InlEnt where
  valid  : Bool
  active : Bool
  copy   : Bool
  sub    : Nat
  rank   : Nat
  bg     : Nat
  ba     : Nat
  row    : Nat
  spare  : Nat
deriving DecidableEq, Repr

/-- An invalid Inlay Map entry. -/
def InlEnt.none : InlEnt :=
  { valid := false, active := false, copy := false, sub := 0, rank := 0, bg := 0, ba := 0, row := 0, spare := 0 }

/-- A row copy in progress (R261) and the Inlay entry it activates. -/
structure RowCopy where
  sub   : Nat
  rank  : Nat
  bg    : Nat
  ba    : Nat
  src   : Nat
  dst   : Nat
  entry : Option Nat
deriving DecidableEq, Repr

/-- A diagnostic pass in progress (R265): op, next DAS line, lines found bad. -/
structure DiagRun where
  op   : Nat
  pos  : Nat
  bad  : Bool
deriving DecidableEq, Repr

/-- A raw access in progress (R263): its DAS line, whether it writes, and the 80 bytes it writes. -/
structure RawRun where
  das   : Nat
  write : Bool
  raw   : RawLine
deriving DecidableEq, Repr

/-- A post-package repair in progress (R262). -/
structure PprRun where
  hard : Bool
  sub  : Nat
  rank : Nat
  bg   : Nat
  ba   : Nat
  row  : Nat
deriving DecidableEq, Repr

/-- Symbol code, scrub, Inlay Map and repair. -/
structure CodeSt where
  /-- CODE.MARK, by package rank × 2 + subchannel -/
  marks    : Vector MarkPair 8
  /-- corrections in the present window, by CODE.CHIPCE index (R242) -/
  winCnt   : SMap Nat
  trials   : List TrialReq
  /-- FCLK of the last trial of a package rank and subchannel (R244) -/
  lastTrial : SMap (Option Nat)
  ecs      : SMap EcsRec
  /-- slices owed, whether one was dropped in this pass, next slice, Beat at which the pass began (none before the first
  slice falls due), and SCR.LAST_PASS (R253, R256) -/
  owed     : Nat
  late     : Bool
  cursor   : Nat
  passBeat : Option Nat
  lastPass : Nat
  diag     : Option DiagRun
  diagRes  : BitVec 3
  raw      : Option RawRun
  rawRes   : BitVec 3
  inl      : SMap InlEnt
  copy     : Option RowCopy
  copyRes  : BitVec 2
  ppr      : Option PprRun
  pprRes   : BitVec 3
deriving DecidableEq, Repr

/-- The default of `CodeSt.ecs`. -/
def EcsRec.none : EcsRec := { count := 0, maxCnt := 0, row := 0, bg := 0, ba := 0, polled := false }

/-- The code unit after PORST_N. -/
def CodeSt.reset : CodeSt :=
  { marks := Vector.replicate 8 ⟨none, none⟩, winCnt := [], trials := [], lastTrial := [], ecs := [], owed := 0,
    late := false, cursor := 0, passBeat := none, lastPass := 0, diag := none, diagRes := 0, raw := none,
    rawRes := 0, inl := [],
    copy := none, copyRes := 0, ppr := none, pprRes := 0 }

/-- One channel. -/
structure ChanSt where
  sch  : SchedSt
  ref  : RefSt
  phy  : PhySt
  keep : KeepSt
  code : CodeSt
deriving DecidableEq, Repr

/-- A channel after PORST_N with VKEEP just up (PHY.KEEP_STATUS 0xA000_0000). -/
def ChanSt.reset : ChanSt :=
  { sch := .reset, ref := .reset, phy := .reset, keep := ⟨true, false, true, 0⟩, code := .reset }

end Sys2Proof
end

