-- ==== Sys2Proof/Types/Veneer.lean ====
section
/-!
DEFINITION. State of the Veneer (09_veneer_cache.md).
-/
namespace Sys2Proof

/-- One way of a set that holds a line: the LMS line number as tag, the stored codewords, dirty and pin bits, the 2-bit
age (R268), and the DAS line it belongs to while its panel is local. -/
structure VLine where
  tag   : Nat
  raw   : RawLine
  dirty : Bool
  pin   : Bool
  age   : Nat
  das   : Option Nat
deriving DecidableEq, Repr

/-- A way: empty, disabled by an uncorrectable tag or state word (R270), or holding a line. -/
inductive VWay where
  | empty
  | off
  | line (l : VLine)
deriving DecidableEq, Repr

/-- An access that waits in a miss buffer entry (R271): the request, and the attribute in force at its lookup (R273). -/
structure MissWait where
  rid  : Nat
  attr : Nat
deriving DecidableEq, Repr

/-- The effect of one access on a line (R55, R56, R61): the line afterwards, whether it was written, whether the whole line
was, and what the access returns. -/
structure Applied where
  data   : LineData
  poison : Bool
  wrote  : Bool
  full   : Bool
  rd     : Option (Code × LineData)
deriving DecidableEq, Repr

/-- How a fill is installed (R273, R278). -/
inductive Install where
  | byAttr
  | pinned
  | streaming
deriving DecidableEq, Repr

/-- A miss buffer entry (R271): the line, the waiting accesses in admission order, whether the fill is in the snapshot
of a range operation (R287), the data once the fill has returned (with its poison), whether its decode was uncorrectable
and its line is being repaired (R312), and how it is installed. -/
structure MissEnt where
  line  : Nat
  das   : Option Nat
  waits : List MissWait
  snap  : Bool
  data  : Option (LineData × Bool)
  repair : Bool
  how   : Install
deriving DecidableEq, Repr

/-- A victim buffer entry: the line and its stored codewords (R271). -/
structure VictEnt where
  line : Nat
  das  : Nat
  raw  : RawLine
deriving DecidableEq, Repr

/-- One slice. Sets are keyed by set index; a set that is not listed has 16 empty ways. -/
structure VSlice where
  sets  : SMap (List VWay)
  miss  : List MissEnt
  vict  : List VictEnt
  /-- cleaner pointer (R282) -/
  clean : Nat
deriving DecidableEq, Repr

/-- A slice that holds nothing. -/
def VSlice.empty : VSlice := { sets := [], miss := [], vict := [], clean := 0 }

/-- Veneer states (R290). -/
inductive VnrMode where
  | disabled | enabled | draining | clearing
deriving DecidableEq, Repr

/-- Range operations (R285). -/
inductive RopOp where
  | clean | cleanInv | inv | unpin
deriving DecidableEq, Repr

/-- A range operation or drain walk in progress (R286, R291): its operation, bounds as LMS line numbers, whether it walks
by set, whether it is a drain walk, whether it is aborted, and the lines it waits at, by slice, set and LMS line number. -/
structure RopRun where
  op    : RopOp
  lo    : Nat
  hi    : Nat
  bySet : Bool
  drain : Bool
  abort : Bool
  left  : List (Fin 16 × Nat × Nat)
deriving DecidableEq, Repr

/-- The Veneer. -/
structure VnrSt where
  mode    : VnrMode
  slices  : Vector VSlice 16
  /-- c of R280 -/
  charge  : Nat
  rop     : Option RopRun
  ropRes  : BitVec 3
  ropMeth : Bool
  ropPos  : Nat
  /-- DIRTY_OVER has been raised and charged dirty bytes have not been below the budget since (R281) -/
  overSeen : Bool
  /-- set walk position of the cleaner and drain -/
  walk    : Nat
deriving DecidableEq, Repr

/-- The Veneer after reset: Clearing (R290). -/
def VnrSt.reset : VnrSt :=
  { mode := .clearing, slices := Vector.replicate 16 .empty, charge := 16, rop := none, ropRes := 0,
    ropMeth := false, ropPos := 0, overSeen := false, walk := 0 }

end Sys2Proof
end

