-- ==== Sys2Proof/Types/Wire.lean ====
section
/-!
DEFINITION. Operands of the commands: what the chip, the DRAM, the DIMMs, the neighbours, the firmware and the pins
present with a command.
-/
namespace Sys2Proof

/-- The request signals of an FRP (R48), without the opcode. -/
structure FrpReq where
  tag     : Fin 1024
  addr    : BitVec 48
  mask    : LineMask
  mid     : BitVec 12
  qos     : Fin 4
  rt      : Bool
  lock    : Bool
  lockEnd : Bool
  poison  : Bool
deriving DecidableEq, Repr

/-- A DRAM bank of a channel. -/
structure BankId where
  sub  : Fin 2
  rank : Fin 32
  bg   : Fin 8
  ba   : Fin 4
deriving DecidableEq, Repr

/-- A refresh target: a logical rank, and in same-bank granularity a bank index (R171). -/
structure RefTgt where
  rank : Fin 32
  bank : Fin 4
deriving DecidableEq, Repr

/-- A sideband transfer of a poll that failed after its retries (R229, R230): DIMM slot, device type code, and the
result code 1 NACK or 2 timeout. -/
structure SbFail where
  slot : Bool
  lid  : BitVec 4
  code : BitVec 3
deriving DecidableEq, Repr

/-- What a rank's MR4 asks for (R176): the refresh multiplier JESD79-5 assigns to its value, or a rate beyond 4 or a temperature
beyond the DRAM's operating limit. -/
inductive Mr4 where
  | x1 | x2 | x4 | beyond
deriving DecidableEq, Repr

/-- What one poll of R176 reads: MR4 of the logical ranks, the DIMM thermal sensors in °C, the sideband transfers made, and the
sensor polls that failed. -/
structure PollRead where
  mr4   : List Mr4
  temps : List Nat
  xfers : Nat
  fails : List SbFail
deriving DecidableEq, Repr

/-- What training finds for one lane (R208 steps 10 to 12). -/
structure LaneFound where
  prank : Fin 4
  sub   : Fin 2
  lane  : Fin 40
  rd    : Fin 1024
  wr    : Fin 1024
  dfe1  : BitVec 4
  dfe2  : BitVec 4
  eL    : Fin 64
  eR    : Fin 64
deriving DecidableEq, Repr

/-- What training finds for one nibble's reference voltage (R208 step 11). -/
structure VrefFound where
  prank  : Fin 4
  sub    : Fin 2
  nibble : Fin 10
  vref   : BitVec 8
deriving DecidableEq, Repr

/-- How a training run ends: the values found by the steps it completed, the failing step if
one failed, with its package rank, subchannel and chip, the package ranks trained before it, the sideband transfers of step 4
(R229), and the RFM needs the DIMM's mode registers report (R192). -/
structure TrainEnd where
  fail   : Option TrainInfo
  pranks : BitVec 4
  xfers  : Nat
  lanes  : List LaneFound
  vrefs  : List VrefFound
  rfmReq : Bool
  raaimt : BitVec 8
  raammt : BitVec 9
deriving DecidableEq, Repr

/-- What a retraining window reads for one x4 nibble or x8 device (R217): the change of write delay in steps. -/
structure OscRead where
  sub    : Fin 2
  nibble : Fin 10
  delta  : Int
deriving DecidableEq, Repr

/-- A read-sweep result of one lane (R217 step 6): bits compared and mismatches on one edge. -/
structure SweepRead where
  sub    : Fin 2
  lane   : Fin 40
  right  : Bool
  bits   : Nat
  misses : Nat
deriving DecidableEq, Repr

/-- How a sideband transfer ends (R229). -/
inductive SbEnd where
  | ok (data : Word32)
  | nack
  | timeout
  | absent
deriving DecidableEq, Repr

/-- Causes that abort a dwell (R222), in the order of the table. -/
inductive PrbCause where
  | decode | marked | backstop | alert | pfail | notRun
deriving DecidableEq, Repr

/-- What a poll of R257 reads from one device. -/
structure EcsRead where
  rank : Fin 32
  sub  : Fin 2
  chip : Fin 10
  val  : EcsRec
deriving DecidableEq, Repr

/-- The structures of R264, in the order of the rule. -/
inductive SramWhere where
  | readQueue | writeQueue | glue | replay | inlay | actTable
deriving DecidableEq, Repr

/-- How a PPR ends (R262). -/
inductive PprEnd where
  | ok | noResource | dramFail
deriving DecidableEq, Repr

/-- What the rest of the world presents with a register access whose effect reads it: lines of the LMS held at a neighbour or
the twin, by line number (jig lists, reclaim); the frames a reclaim takes; and
whether the journal word popped reads corrected (1) or uncorrectable (2). -/
structure RegEnv where
  far    : List (Nat × LineData)
  frames : List Nat
  bad    : Fin 3
deriving DecidableEq, Repr

end Sys2Proof
end

