-- ==== Sys2Proof/Syntax.lean ====
section
/-!
DEFINITION. The commands: one constructor per row of spec/opcode_table.json, those with operands before those without, each in
the table's order. The docstring of each names its rule.
-/
namespace Sys2Proof

/-- The commands of the block. -/
inductive Instr where
  /-- NOP (R53). FRP NOP request accepted; completes OK once every earlier request of the port has completed. -/
  | nop (p : Fin 8) (q : FrpReq)
  /-- RD_LINE (R53). FRP full-line read accepted on REQ, decoded and queued for admission, or refused. -/
  | rdLine (p : Fin 8) (q : FrpReq) (mapErr : RawLine)
  /-- RD_PART (R55). FRP masked read accepted; unselected bytes return zero and an all-zero mask completes OK with no memory access. -/
  | rdPart (p : Fin 8) (q : FrpReq) (mapErr : RawLine)
  /-- WR_LINE (R53). FRP full-line write accepted; it waits in the port for its WD beat before admission. -/
  | wrLine (p : Fin 8) (q : FrpReq)
  /-- WR_PART (R55). FRP partial write accepted with byte enables; with no enables and no poison it completes OK with no effect. -/
  | wrPart (p : Fin 8) (q : FrpReq)
  /-- ATOM_ADD8 (R55). FRP 8-byte fetch-add accepted; it returns the old value and writes the sum. -/
  | atomAdd8 (p : Fin 8) (q : FrpReq)
  /-- ATOM_CAS8 (R55). FRP 8-byte compare-swap accepted; it swaps if the compare value matches and returns the old value. -/
  | atomCas8 (p : Fin 8) (q : FrpReq)
  /-- TRIM (R96). FRP TRIM accepted; once admitted it makes the whole panel blank through the panel steps. -/
  | trim (p : Fin 8) (q : FrpReq)
  /-- CURE_FENCE (R63). FRP fence accepted; it completes once every covered write is admitted and the cured epoch reaches their latest epoch. -/
  | cureFence (p : Fin 8) (q : FrpReq)
  /-- PREFETCH (R55). FRP prefetch hint accepted; it completes OK at acceptance and may allocate the line. -/
  | prefetch (p : Fin 8) (q : FrpReq) (mapErr : RawLine)
  /-- RESERVED_OPCODE (R53). Request with a reserved opcode completes ERR_RANGE and raises PROTOCOL_ERR bad_opcode. -/
  | reservedOpcode (p : Fin 8) (op : Fin 6) (q : FrpReq)
  /-- WD_BEAT (R51). Write data beat taken on WD against a credit and matched in order to its write-class request. -/
  | wdBeat (p : Fin 8) (d : LineData) (be : LineMask)
  /-- RD_BEAT_TRANSFER (R58). An RD beat transfers when RD_VALID and RD_READY are both 1. -/
  | rdBeatTransfer (p : Fin 8)
  /-- CMP_TRANSFER (R57). A completion transfers on CMP and its tag becomes free. -/
  | cmpTransfer (p : Fin 8)
  /-- FRP_LIVE_LOW (R70). FRPn_LIVE seen low after synchronisation; the port enters QUIESCE and its requester is masked. -/
  | frpLiveLow (p : Fin 8)
  /-- FRP_LIVE_HIGH (R69). FRPn_LIVE seen high with en and Ready; a DOWN port enters UP and its credit grant begins. -/
  | frpLiveHigh (p : Fin 8)
  /-- PORT_QUIESCE_DONE (R69). No request of a QUIESCE port remains inside the Shuzer; the port enters DOWN. -/
  | portQuiesceDone (p : Fin 8)
  /-- FRP_CTL_WRITE (R76). Write of FRP.CTL; en = 0 moves the port from UP to QUIESCE as though LIVE fell. -/
  | frpCtlWrite (p : Fin 8) (mid : BitVec 12) (v : Word32)
  /-- POOL_SELECT (R114). At each FCLK edge a pool selects at most one eligible request by rank and round robin and writes it into the TT at the next edge. -/
  | poolSelect (pool : Fin 16) (err mapErr : RawLine)
  /-- LOCK_CEILING (R125). Lock time ceiling max_time × 16 FCLK expires; the lock ends and waiting sequence requests complete ERR_LOCK. -/
  | lockCeiling (p : Fin 8)
  /-- PREFETCH_DROP (R113). PREFETCH not granted within 64 FCLK of becoming eligible is dropped. -/
  | prefetchDrop (r : Fin 20) (pool : Fin 16)
  /-- WAIT_LONG (R133). A request stays eligible ADM.WAIT_ALARM FCLK without selection and WAIT_LONG is raised. -/
  | waitLong (r : Fin 20) (pool : Fin 16)
  /-- SCHED_ISSUE (R147). At each MCLK the scheduler issues one command per subchannel by urgency, row hit and age under timing. -/
  | schedIssue (c : Fin 16)
  /-- WDRAIN_EVAL (R140). Write-path state READ, DRAIN or FLUSH is re-evaluated from write queue occupancy at each MCLK edge. -/
  | wdrainEval (c : Fin 16)
  /-- URGENCY_TICK (R145). At each 4 ns tick queued reads gain urgency when elapsed ticks reach their thresholds. -/
  | urgencyTick (c : Fin 16)
  /-- IDLE_WRITE (R142). A subchannel without reads for idle_wr MCLK starts issuing idle writes. -/
  | idleWrite (c : Fin 16) (sub : Fin 2)
  /-- PAGE_IDLE_CLOSE (R149). Adaptive policy closes a row whose bank had no column command for idle_mclk MCLK. -/
  | pageIdleClose (c : Fin 16) (b : BankId)
  /-- QUEUE_ENTRY (R136). A request leaving the TT path enters the read queue, write queue or Glue-up buffer, or waits until an entry frees. -/
  | queueEntry (c : Fin 16)
  /-- RANK_POWER_DOWN (R158). A rank idle for pd_idle × 8 ns enters power-down. -/
  | rankPowerDown (c : Fin 16) (rank : Fin 32)
  /-- CHANNEL_SR_ENTRY (R159). A channel idle for sr_idle µs in RUN enters SR_ENTRY and SRE is issued to every rank. -/
  | channelSrEntry (c : Fin 16)
  /-- SR_WAKE (R160). A request reaching the sequencer during or after self-refresh entry abandons the entry or exits every rank. -/
  | srWake (c : Fin 16)
  /-- CH_HOLD (R163). SCH.HOLD.hold written 1; a channel in RUN enters HOLDING. -/
  | chHold (c : Fin 16)
  /-- CH_HOLD_RELEASE (R163). SCH.HOLD.release written 1; the channel leaves HOLDING to RUN or HELD to RELEASING. -/
  | chHoldRelease (c : Fin 16)
  /-- CH_HELD (R162). A HOLDING channel's drain completes and it enters HELD. -/
  | chHeld (c : Fin 16)
  /-- HOLD_EXPIRED (R164). The 10 ms Held ceiling expires; pending values are discarded and the channel releases. -/
  | holdExpired (c : Fin 16)
  /-- CH_RELEASED (R164). A RELEASING channel applies or discards its pending values and returns to RUN. -/
  | chReleased (c : Fin 16)
  /-- REFRESH_SLOT (R174). A slot starts at its Beat; lead precharge and refresh commands are issued to each rank, or postponed under RT. -/
  | refreshSlot (c : Fin 16) (k : Nat)
  /-- CATCHUP_REFRESH (R180). Owed refreshes are issued back to back once the target has no RT request and no window runs. -/
  | catchupRefresh (c : Fin 16) (t : RefTgt)
  /-- BACKSTOP_TICK (R182). The MCLK debit counter d of a target increments at each backstop tick. -/
  | backstopTick (c : Fin 16) (t : RefTgt)
  /-- REF_BACKSTOP (R182). d reaches L + 1 and the backstop issues a refresh ahead of every scheduler request. -/
  | refBackstop (c : Fin 16) (t : RefTgt)
  /-- TEMP_POLL (R176). MR4 and thermal sensors are polled every poll_ms and the multiplier m is recomputed. -/
  | tempPoll (c : Fin 16) (r : PollRead)
  /-- TEMP_RATE (R177). A change of m takes effect at the next qualifying slot. -/
  | tempRate (c : Fin 16)
  /-- GRAN_CHANGED (R178). A committed granularity change is applied at the first slot where no refresh is owed. -/
  | granChanged (c : Fin 16)
  /-- WINDOW_START (R186). A sequencer window starts at the first Beat whose span overlaps no quiet window, or is refused. -/
  | windowStart (c : Fin 16) (beat : Nat) (len : Nat) (probe : Bool)
  /-- NEIGHBOUR_REFRESH (R191). A waiting neighbour refresh activates and precharges the four adjacent rows. -/
  | neighbourRefresh (c : Fin 16)
  /-- DST_TABLE_CLEAR (R189). Every 8,192 backstop ticks the activation counts and spill values are cleared. -/
  | dstTableClear (c : Fin 16)
  /-- RFM_ISSUE (R192). RFM is issued to a bank whose RAA reaches raaimt. -/
  | rfmIssue (c : Fin 16) (b : BankId)
  /-- TRAIN_COLD (R208). PHY.TRAIN go with mode cold runs every training step with DRAM initialisation. -/
  | trainCold (c : Fin 16)
  /-- TRAIN_WARM (R208). PHY.TRAIN go with mode warm exits self-refresh and retrains without initialisation. -/
  | trainWarm (c : Fin 16)
  /-- TRAIN_RETRAIN (R208). PHY.TRAIN go with mode retrain retrains an active channel while HELD. -/
  | trainRetrain (c : Fin 16)
  /-- TRAIN_DONE (R209). A training run ends, trained or failed, with the outcome of its mode and failing step. -/
  | trainDone (c : Fin 16) (e : TrainEnd)
  /-- TRAIN_ABORT (R210). A retrain run is aborted at the end of its step when its channel leaves HELD. -/
  | trainAbort (c : Fin 16) (step : BitVec 4) (lanes : List LaneFound) (vrefs : List VrefFound)
  /-- HANDOVER (R203). PHY.KEEP_CTL.handover moves the pins to the Keeper after tCKLCS and 32 MCLK. -/
  | handover (c : Fin 16)
  /-- TAKEBACK (R205). PHY.KEEP_CTL.takeback returns the pins from the Keeper to the PHY. -/
  | takeback (c : Fin 16)
  /-- DISCARD (R206). PHY.KEEP_CTL.discard clears retained while the device is HELD and raises KEEP_GUARD. -/
  | discard (c : Fin 16)
  /-- CLR_LOST (R204). PHY.KEEP_CTL.clr_lost clears vkeep_lost. -/
  | clrLost (c : Fin 16)
  /-- PHY_ALERT (R214). CHn_ALERT_N seen low; the channel stops, clears the error, precharges and replays its log. -/
  | phyAlert (c : Fin 16) (crc : Bool)
  /-- RETRAIN_WINDOW (R217). Every interval_us a retraining window adjusts write delays, applies recentrings and user trims. -/
  | retrainWindow (c : Fin 16) (osc : List OscRead) (sweep : List SweepRead) (failed cut : Bool)
  /-- PROBE_DWELL (R225). A probe dwell starts gap µs after the last and offsets one chip's read sampling toward an edge. -/
  | probeDwell (c : Fin 16)
  /-- PROBE_DWELL_END (R223). A dwell ends; at the end of its group each lane's edge estimate is decided. -/
  | probeDwellEnd (c : Fin 16)
  /-- PRB_ABORT (R222). A dwell is aborted by an uncorrectable probed read, a mark, refresh, alert or power fail. -/
  | prbAbort (c : Fin 16) (cause : PrbCause)
  /-- SB_TRANSFER (R229). SBI.CMD go starts a sideband read or write to a DIMM hub. -/
  | sbTransfer (c : Fin 16) (mid : BitVec 12) (v : Word32)
  /-- SB_DONE (R229). A sideband transfer completes, retries, or fails after three retries with SB_ERR. -/
  | sbDone (c : Fin 16) (e : SbEnd)
  /-- MARK_SLOT_SET (R241). Write of a chip and valid = 1 to a free CODE.MARK slot sets a chip mark. -/
  | markSlotSet (c : Fin 16) (k : Fin 8) (slot : Fin 2) (chip : Fin 16)
  /-- MARK_SLOT_CLEAR (R241). Write of valid = 0 to a CODE.MARK slot while HELD clears the mark. -/
  | markSlotClear (c : Fin 16) (k : Fin 8) (slot : Fin 2)
  /-- CE_WINDOW_END (R242). A correction-count window ends and every chip count restarts. -/
  | ceWindowEnd (c : Fin 16)
  /-- DRAM_DECODE (R238). Read data returns and both codewords are decoded into clean, corrected, poisoned or uncorrectable. -/
  | dramDecode (c : Fin 16) (err : RawLine)
  /-- X8_TRIAL (R244). A queued x8 trial writes and reads patterns on a training row to locate a failed chip. -/
  | x8Trial (c : Fin 16) (errA : RawLine) (errB : RawLine)
  /-- GLUE_WINDOW_END (R249). A Glue-up entry's window ends and it closes into a full write or a merge read. -/
  | glueWindowEnd (c : Fin 16) (gid : Nat)
  /-- GLUE_MERGE (R250). Merge read data is decoded and merged with the entry and the full line enters the write queue. -/
  | glueMerge (c : Fin 16) (gid : Nat) (err : RawLine)
  /-- RASP_UNIT (R252). A free Rasp engine takes its next 16-line unit from the highest-priority ready class. -/
  | raspUnit (eng : Fin 4)
  /-- SCRUB_SLICE_DUE (R253). Every SCR.INTERVAL ns a channel owes one more scrub slice. -/
  | scrubSliceDue (c : Fin 16)
  /-- ECS_POLL (R257). Every poll_s the sequencer reads each device's ECS counts. -/
  | ecsPoll (c : Fin 16) (r : List EcsRead)
  /-- INLAY_ENTRY_WRITE (R259). Write of an INL.ENTRY user entry validates it, optionally after a row copy, or is ignored with INLAY_REWRITE. -/
  | inlayEntryWrite (c : Fin 16) (k : Fin 4096) (mid : BitVec 12) (v : Word64)
  /-- INL_COPY (R261). INL.COPY go copies one row to another row. -/
  | inlCopy (c : Fin 16) (v : Word64)
  /-- ROW_COPY_DONE (R261). A row copy ends and a pending Inlay entry becomes active. -/
  | rowCopyDone (c : Fin 16) (errs : List (Nat × RawLine))
  /-- INL_PPR (R262). INL.PPR go runs an hPPR or sPPR on one row. -/
  | inlPpr (c : Fin 16) (v : Word64)
  /-- PPR_DONE (R262). A PPR ends with OK, no resource or DRAM failure. -/
  | pprDone (c : Fin 16) (e : PprEnd)
  /-- RAW_READ (R263). CODE.RAW_CMD op raw read returns one line with check symbols undecoded. -/
  | rawRead (c : Fin 16)
  /-- RAW_WRITE (R263). CODE.RAW_CMD op raw write stores 80 bytes unchanged. -/
  | rawWrite (c : Fin 16)
  /-- SRAM_ERR (R264). An on-die word checker reports a corrected or uncorrectable word. -/
  | sramErr (c : Fin 16) (w : SramWhere) (uncorr : Bool)
  /-- DIAG_READ (R265). Diagnostic pass op 0b00 reads and decodes a DAS range. -/
  | diagRead (c : Fin 16)
  /-- DIAG_WRITE_ZERO (R265). Diagnostic pass op 0b01 writes zeros with correct checks. -/
  | diagWriteZero (c : Fin 16)
  /-- DIAG_WRITE_ADDR (R265). Diagnostic pass op 0b10 writes the address pattern. -/
  | diagWriteAddr (c : Fin 16)
  /-- DIAG_COMPARE (R265). Diagnostic pass op 0b11 compares lines with the address pattern. -/
  | diagCompare (c : Fin 16)
  /-- VNR_FILL_LAND (R271). A fill returns, waiting accesses are applied and the line is installed or dropped. -/
  | vnrFillLand (sl : Fin 16)
  /-- VNR_SRAM_ERR (R270). A tag or state word reports an error; an uncorrectable word disables its way. -/
  | vnrSramErr (sl : Fin 16) (st : Fin 8192) (way : Fin 16) (uncorr : Bool)
  /-- CLEANER (R282). A slice cleaner uses a free lookup to write back dirty lines over the clean threshold. -/
  | cleaner (sl : Fin 16)
  /-- VICTIM_WRITEBACK (R271). A dirty victim leaves the victim buffer when its write-back enters the write queue. -/
  | victimWriteback (sl : Fin 16)
  /-- VNR_CTL_EN_WRITE (R290). Write of VNR.CTL.en enables the Veneer or starts Draining. -/
  | vnrCtlEnWrite (en : Bool)
  /-- TWIN_SILENT (R310). No MARK acknowledged for silent_us while one is outstanding; MIRRORED enters STALLED. -/
  | twinSilent (k : Fin 8)
  /-- STALE_SIDE_WRITE (R310). Write of CUR.CTL.stale_side in DETACHED. -/
  | staleSideWrite (v : Bool)
  /-- ATTACH_PUSH (R311). Casting pushes the next stale panel to the twin during ATTACHING. -/
  | attachPush (far : List (Nat × LineData))
  /-- MIRROR_RESEND (R529). A reopened mirror connection re-sends its Pending Table panels before buffered segments. -/
  | mirrorResend (k : Fin 8) (far : List (Nat × LineData))
  /-- FENCE_CMD_FENCE (R314). CUR.FENCE_CMD op fence fences a channel. -/
  | fenceCmdFence (c : Fin 16)
  /-- CH_FENCED (R315). A channel is fenced: queues are forwarded or discarded and the fence sweep starts. -/
  | chFenced (c : Fin 16)
  /-- FENCE_SWEEP_DONE (R315). The fence sweep of a fenced channel's slices ends. -/
  | fenceSweepDone (c : Fin 16)
  /-- UNFENCE_STALE (R319). CUR.FENCE_CMD op unfence-stale moves a FENCED channel to RECOVERING or IN_SERVICE. -/
  | unfenceStale (c : Fin 16)
  /-- UNFENCE_FULL (R319). CUR.FENCE_CMD op unfence-full moves a FENCED channel to RECOVERING with every written panel stale. -/
  | unfenceFull (c : Fin 16)
  /-- RECAST_PANEL (R320). Casting copies the next stale panel back from the twin and clears its Stale Map bit. -/
  | recastPanel (lines : List (Option LineData))
  /-- EPOCH_SET (R330). Write of CUR.EPOCH_SET before Ready sets E, Lc, T and C. -/
  | epochSet (mid : BitVec 12) (v : Word32)
  /-- MIRROR_LINES (R305). Inbound LINES mirror segment writes full lines at the twin. -/
  | mirrorLines (e : Fin 8)
  /-- MIRROR_MASKED (R305). Inbound MASKED mirror segment performs a partial write at the twin. -/
  | mirrorMasked (e : Fin 8)
  /-- MIRROR_POISON (R305). Inbound POISON mirror segment writes the line poisoned. -/
  | mirrorPoison (e : Fin 8)
  /-- MIRROR_TRIM (R305). Inbound TRIM mirror segment trims the panel at the twin. -/
  | mirrorTrim (e : Fin 8)
  /-- MIRROR_MARK (R305). Inbound MARK mirror segment closes an epoch on the connection. -/
  | mirrorMark (e : Fin 8)
  /-- MIRROR_LINES_MARKED (R305). Inbound LINES_MARKED segment writes unmarked lines and poisons marked ones. -/
  | mirrorLinesMarked (e : Fin 8)
  /-- PROMOTION (R341). A Joiner engine moves a REMOTE panel to a local frame. -/
  | promotion (e : Fin 4)
  /-- DEMOTION (R342). A LOCAL panel is remapped or copied to a lender's frame. -/
  | demotion (e : Fin 4)
  /-- MOVE_STEP_DONE (R341). A move's copy and acknowledgements complete and its final panel operation runs. -/
  | moveStepDone (p : BitVec 32)
  /-- MOVE_ABANDON (R347). A move is abandoned on a fence, power fail or lost lender. -/
  | moveAbandon (p : BitVec 32)
  /-- NBR_RTT_PROBE (R348). A neighbour without lending reads for 1 ms is probed by a header-frame ACCESS read. -/
  | nbrRttProbe (j : Fin 32) (frame : BitVec 28)
  /-- NBR_STATE_CHANGE (R348). A neighbour entry moves between OK, FAR and LOST. -/
  | nbrStateChange (j : Fin 32) (sample : Option (BitVec 16))
  /-- LEND_ACCESS (R351). A lender serves an ACCESS read, write or atomic to a granted frame. -/
  | lendAccess (e : Fin 8)
  /-- LEND_ALLOC (R350). A lender takes a frame from the grant chain and returns it, or NAKs. -/
  | lendAlloc (e : Fin 8)
  /-- LEND_FREE (R350). A lender pushes a freed frame onto the grant chain. -/
  | lendFree (e : Fin 8)
  /-- GRANT_ENABLE (R352). Write of TIR.GRANT_A.en = 1 builds the free chain and sets ready, or is refused. -/
  | grantEnable (g : Fin 32) (v : Word64)
  /-- GRANT_DISABLE (R352). Write of en = 0 with every frame free clears the range's Frame Map bits. -/
  | grantDisable (g : Fin 32)
  /-- GRANT_HOLD (R352). Write of hold makes ALLOC and FREE answer NAK. -/
  | grantHold (g : Fin 32) (hold : Bool)
  /-- GRANT_RELOAD (R352). Write of reload = 1 re-reads the grant header. -/
  | grantReload (g : Fin 32)
  /-- RECLAIM_CMD (R354). TIR.RECLAIM_CMD go recovers every panel of a LOST neighbour from the twin. -/
  | reclaimCmd (j : Fin 32) (twin : List (Nat × LineData)) (frames : List Nat)
  /-- RECLAIM_DONE (R354). The reclaim walk ends. -/
  | reclaimDone (twin : List (Nat × LineData)) (frames : List Nat)
  /-- MOVE_CMD (R340). TIR.MOVE_CMD go starts a firmware promotion or demotion. -/
  | moveCmd (v : Word64)
  /-- JIG_GO (R357). TIR.JIG_CMD go starts an engine on its jig list. -/
  | jigGo (e : Fin 4) (far : List (Nat × LineData))
  /-- JIG_STOP (R360). TIR.JIG_CMD stop ends the list after the panel in progress. -/
  | jigStop (e : Fin 4)
  /-- JIG_STEP_START (R358). A staging step starts at its deadline minus lead or when the previous step is staged. -/
  | jigStepStart (e : Fin 4)
  /-- JIG_STEP_STAGED (R358). Every panel of a staging step is staged. -/
  | jigStepStaged (e : Fin 4) (far : List (Nat × LineData))
  /-- JIG_LATE (R359). The Beat reaches a step's deadline before it is staged. -/
  | jigLate (e : Fin 4)
  /-- JIG_UNPIN_STEP (R358). At an Unpin step's deadline an Unpin range operation is issued. -/
  | jigUnpinStep (e : Fin 4)
  /-- JIG_DONE (R360). The last step is staged and the list ends with done. -/
  | jigDone (e : Fin 4)
  /-- SEG_LIVE_CHANGE (R366). SEGn_LIVE seen changed; the port enters UP or DOWN and cuts datagrams in progress. -/
  | segLiveChange (n : Fin 4) (live : Bool)
  /-- SEG_CTL_WRITE (R366). Write of TEN.SEG_CTL en holds a Segment Port DOWN or lets it come UP. -/
  | segCtlWrite (n : Fin 4) (en : Bool)
  /-- TX_DATAGRAM (R364). A port transmits one whole datagram from the engines under the Casting share. -/
  | txDatagram (n : Fin 4) (far : List (Nat × LineData))
  /-- RX_DATAGRAM (R376). A received datagram passes the receive steps and is dispatched to its engine. -/
  | rxDatagram (n : Fin 4) (b : RxBeats) (d : Datagram)
  /-- TENON_WRITE (R382). Received WRITE request is split into line writes. -/
  | tenonWrite (e : Fin 8)
  /-- TENON_WRITE_IMM (R390). Received WRITE_IMM is written and then posts a notice ring entry. -/
  | tenonWriteImm (e : Fin 8)
  /-- TENON_READ_REQ (R382). Received READ_REQ reads the lines and answers one READ_RESP. -/
  | tenonReadReq (e : Fin 8)
  /-- TENON_READ_RESP (R382). Received READ_RESP is matched to an outstanding request. -/
  | tenonReadResp (e : Fin 8)
  /-- TENON_ATOM_ADD8 (R384). Received ATOM_ADD8 is performed and its old value returned. -/
  | tenonAtomAdd8 (e : Fin 8)
  /-- TENON_ATOM_CAS8 (R384). Received ATOM_CAS8 is performed and its old value returned. -/
  | tenonAtomCas8 (e : Fin 8)
  /-- TENON_CURE_WRITE (R380). Received CURE_WRITE is written and acknowledged once cured. -/
  | tenonCureWrite (e : Fin 8)
  /-- TENON_ACK (R378). Received ACK retires requests cumulatively. -/
  | tenonAck (e : Fin 8)
  /-- TENON_NAK (R379). Received NAK retransmits, retires with status or enters Error. -/
  | tenonNak (e : Fin 8)
  /-- TENON_CONTEXT_NOT_READY (R386). Received CONTEXT_NOT_READY stops transmission until the next timer expiry. -/
  | tenonContextNotReady (e : Fin 8)
  /-- ACK_SEND (R381). The responder sends an ACK on solicit, count or coalescing timeout. -/
  | ackSend (c : BitVec 16) (late : Bool)
  /-- RTO_EXPIRY (R385). A connection's retransmit timer expires and a go-back-N round starts. -/
  | rtoExpiry (c : BitVec 16)
  /-- NOTICE_POST (R390). The ring producer writes an entry and queues IMM_POSTED, or queues RING_OVERFLOW. -/
  | noticePost (r : Fin 32) (far : List (Nat × LineData))
  /-- RING_A_WRITE (R388). Write of TEN.RING_A en = 1 enables a ring with prod 0 and phase 1. -/
  | ringAWrite (r : Fin 32) (v : Word64)
  /-- CONN_ERROR (R405). A connection enters ERROR and its outstanding requests complete FLUSHED. -/
  | connError (c : BitVec 16) (cause : ErrCause)
  /-- CTX_LOAD_DONE (R399). A context or region key load completes and its pending segments proceed, or fails. -/
  | ctxLoadDone (e : Fin 8)
  /-- CTX_EVICT (R400). A victim context is written back wrapped and freed. -/
  | ctxEvict (e : Fin 8)
  /-- ARM_DIVERGE (R414). The lockstep comparator finds a mismatch and halts the pair. -/
  | armDiverge (unit : Fin 3) (pc : BitVec 48)
  /-- ARM_TCM_ERR (R414). An uncorrectable TCM word halts the pair. -/
  | armTcmErr (uncorr : Bool) (pc : BitVec 48)
  /-- MBX_RING (R425). MBX.DOORBELL.ring moves a mailbox to PENDING, or raises MBX_OVERRUN. -/
  | mbxRing (m : Fin 4)
  /-- MBX_ACK (R425). MBX.DOORBELL.ack moves a DONE mailbox to IDLE. -/
  | mbxAck (m : Fin 4)
  /-- MBX_RESPOND (R425). Firmware writes the response and the mailbox enters DONE. -/
  | mbxRespond (m : Fin 4)
  /-- IDENTIFY (R428). Mailbox command returning device ID, svn, version, profile and state. -/
  | identify (m : Fin 4)
  /-- GET_STATE (R428). Mailbox command returning Beat, cure, fence and Veneer status and flags. -/
  | getState (m : Fin 4)
  /-- SET_DEVICE_ID (R428). Mailbox command setting the Device ID before Ready. -/
  | setDeviceId (m : Fin 4)
  /-- SET_PROFILE (R437). Mailbox command applying a profile in one commit. -/
  | setProfile (m : Fin 4)
  /-- IMG_UPDATE (R428). Mailbox command that responds OK and starts an update restart. -/
  | imgUpdate (m : Fin 4)
  /-- SVN_ADVANCE (R418). Mailbox command raising ARM.SVN. -/
  | svnAdvance (m : Fin 4)
  /-- SET_ACCESS (R426). Mailbox command setting a mailbox's group mask. -/
  | setAccess (m : Fin 4)
  /-- IMGKEY_PROGRAM (R428). Mailbox command programming an image key slot. -/
  | imgkeyProgram (m : Fin 4)
  /-- IMGKEY_REVOKE (R428). Mailbox command revoking an image key slot. -/
  | imgkeyRevoke (m : Fin 4)
  /-- GET_CONFIG (R429). Mailbox command returning the decode configuration. -/
  | getConfig (m : Fin 4)
  /-- SET_LAYOUT (R429). Mailbox command setting mode and lms_top under a device Hold. -/
  | setLayout (m : Fin 4)
  /-- SET_TIMING (R429). Mailbox command changing a channel's timing under a channel Hold. -/
  | setTiming (m : Fin 4)
  /-- SET_REGION (R429). Mailbox command setting a region's attribute, bounds and cure mode. -/
  | setRegion (m : Fin 4)
  /-- GET_REGION (R429). Mailbox command returning a region descriptor and mode. -/
  | getRegion (m : Fin 4)
  /-- SET_RANKS (R429). Mailbox command committing admission ranks. -/
  | setRanks (m : Fin 4)
  /-- SET_QOS (R429). Mailbox command committing a port's latency targets. -/
  | setQos (m : Fin 4)
  /-- GET_FORECAST (R429). Mailbox command returning Quiet Window Forecast entries. -/
  | getForecast (m : Fin 4)
  /-- SET_CHOREO (R429). Mailbox command committing refresh phase, choreography and granularity. -/
  | setChoreo (m : Fin 4)
  /-- GET_HEALTH (R430). Mailbox command returning a channel's marks and error counts. -/
  | getHealth (m : Fin 4)
  /-- SET_MARK (R430). Mailbox command setting a chip mark. -/
  | setMark (m : Fin 4)
  /-- CLEAR_MARK (R430). Mailbox command clearing a chip mark within a channel Hold. -/
  | clearMark (m : Fin 4)
  /-- INLAY_ADD (R430). Mailbox command writing an Inlay entry. -/
  | inlayAdd (m : Fin 4)
  /-- PPR_SCHEDULE (R442). Mailbox command recording a pending PPR. -/
  | pprSchedule (m : Fin 4)
  /-- SET_SCRUB (R430). Mailbox command setting the patrol scrub pass time. -/
  | setScrub (m : Fin 4)
  /-- DIAG_PASS (R430). Mailbox command starting or querying a diagnostic pass. -/
  | diagPass (m : Fin 4)
  /-- RANGE_OP (R431). Mailbox command starting a Veneer range operation. -/
  | rangeOp (m : Fin 4)
  /-- VNR_ENABLE (R431). Mailbox command enabling or disabling the Veneer. -/
  | vnrEnable (m : Fin 4)
  /-- VNR_STATUS (R431). Mailbox command returning Veneer status. -/
  | vnrStatus (m : Fin 4)
  /-- SET_DIRTY_BUDGET (R437). Mailbox command setting the Dirty Budget within the hold-up limit. -/
  | setDirtyBudget (m : Fin 4)
  /-- SET_TWIN (R432). Mailbox command setting twin, predecessor, silent time and Twin Timeout. -/
  | setTwin (m : Fin 4)
  /-- ATTACH (R432). Mailbox command writing attach once the outbound mirror connections are OPEN. -/
  | attach (m : Fin 4)
  /-- DEGRADE (R432). Mailbox command writing degrade. -/
  | degrade (m : Fin 4)
  /-- GET_CURE (R432). Mailbox command returning epochs and cure status. -/
  | getCure (m : Fin 4)
  /-- FENCE (R432). Mailbox command fencing or unfencing a channel. -/
  | fence (m : Fin 4)
  /-- SET_CURE (R432). Mailbox command committing cure interval, share, mode and Recast rate. -/
  | setCure (m : Fin 4)
  /-- BLANK_LINE_GET (R432). Mailbox command returning the Blank Map line covering an address. -/
  | blankLineGet (m : Fin 4)
  /-- MAP_REPAIR (R440). Mailbox command restoring a damaged Blank or Placement Map line. -/
  | mapRepair (m : Fin 4)
  /-- SET_TIER (R433). Mailbox command committing tiering settings. -/
  | setTier (m : Fin 4)
  /-- SET_NEIGHBOUR (R433). Mailbox command committing a neighbour entry. -/
  | setNeighbour (m : Fin 4)
  /-- SET_GRANT (R433). Mailbox command enabling, disabling or holding a grant. -/
  | setGrant (m : Fin 4)
  /-- MOVE (R433). Mailbox command starting a firmware move. -/
  | move (m : Fin 4)
  /-- JIG_START (R433). Mailbox command starting a jig list. -/
  | jigStart (m : Fin 4) (far : List (Nat × LineData))
  /-- JIG_STATUS (R433). Mailbox command returning a jig engine's status. -/
  | jigStatus (m : Fin 4)
  /-- RECLAIM (R433). Mailbox command starting a reclaim. -/
  | reclaim (m : Fin 4) (twin : List (Nat × LineData)) (frames : List Nat)
  /-- FRAME_AUDIT (R443). Mailbox command repairing the Frame Map from the Placement Map and grants. -/
  | frameAudit (m : Fin 4)
  /-- HELD_LIST (R443). Mailbox command returning frames held at a neighbour. -/
  | heldList (m : Fin 4)
  /-- GRANT_AUDIT (R443). Mailbox command applying a borrower bitmap to a grant and rebuilding its chain. -/
  | grantAudit (m : Fin 4)
  /-- CONN_OPEN (R434). Mailbox command staging and opening a connection. -/
  | connOpen (m : Fin 4)
  /-- CONN_CLOSE (R434). Mailbox command closing a connection. -/
  | connClose (m : Fin 4)
  /-- KEY_INSTALL (R434). Mailbox command installing a connection key. -/
  | keyInstall (m : Fin 4)
  /-- KEY_SWITCH (R434). Mailbox command switching connection keys. -/
  | keySwitch (m : Fin 4)
  /-- KEY_RETIRE (R434). Mailbox command retiring a connection key. -/
  | keyRetire (m : Fin 4)
  /-- CONN_QUERY (R434). Mailbox command returning a connection's status. -/
  | connQuery (m : Fin 4)
  /-- RKEY_CREATE (R434). Mailbox command creating a region key. -/
  | rkeyCreate (m : Fin 4)
  /-- RKEY_REVOKE (R434). Mailbox command revoking a region key, answered at Invalid or TIMEOUT. -/
  | rkeyRevoke (m : Fin 4) (late : Bool)
  /-- RING_SET (R434). Mailbox command configuring a notice ring. -/
  | ringSet (m : Fin 4)
  /-- SEG_SET (R434). Mailbox command configuring a Segment Port. -/
  | segSet (m : Fin 4)
  /-- SET_HOLDUP (R435). Mailbox command giving the appliance warning time. -/
  | setHoldup (m : Fin 4)
  /-- PWR_STATE_MBX (R435). Mailbox command PWR_STATE requesting a power state. -/
  | pwrStateMbx (m : Fin 4)
  /-- PWR_STATUS (R435). Mailbox command returning retention and Keeper masks. -/
  | pwrStatus (m : Fin 4)
  /-- REG_READ (R436). Mailbox command reading a register. -/
  | regRead (m : Fin 4) (bad : Fin 3)
  /-- REG_WRITE (R436). Mailbox command writing a register. -/
  | regWrite (m : Fin 4) (env : RegEnv)
  /-- EVENT_FORCE (R436). Mailbox command setting a source's force bit. -/
  | eventForce (m : Fin 4)
  /-- JOURNAL_READ (R436). Mailbox command returning journal words. -/
  | journalRead (m : Fin 4) (bads : List (Fin 3))
  /-- SNAPSHOT (R436). Mailbox command taking a counter snapshot. -/
  | snapshot (m : Fin 4)
  /-- ECHO (R436). Mailbox command returning its argument bytes. -/
  | echo (m : Fin 4)
  /-- BAD_OPCODE (R436). Mailbox request with an unlisted opcode is answered BAD_OPCODE. -/
  | badOpcode (m : Fin 4)
  /-- REGISTER_WRITE (R451). Write to a register with no row of its own, by its access type. -/
  | registerWrite (mid : BitVec 12) (off : BitVec 24) (v : Word64) (env : RegEnv)
  /-- RC_READ (R453). Read of an RC register returns and clears the bits read. -/
  | rcRead (off : BitVec 24)
  /-- SQ_ACK (R454). Write of seq to an SQ record clears pending and count when it matches. -/
  | sqAck (src : Fin 1024) (v : Word32)
  /-- REG_PORT_ACCESS (R449). The register port accepts an access and responds in order. -/
  | regPortAccess (wr : Bool) (addr : BitVec 22) (v : Word32) (env : RegEnv)
  /-- COMMIT_NOW (R458). TOP.COMMIT with at = 0 applies the masked groups at once. -/
  | commitNow (mask : BitVec 16)
  /-- COMMIT_SCHEDULE (R458). TOP.COMMIT with at = 1 schedules the masked groups at TOP.COMMIT_AT. -/
  | commitSchedule (mask : BitVec 16)
  /-- COMMIT_CANCEL (R459). TOP.COMMIT with cancel = 1 removes groups from the schedule. -/
  | commitCancel (mask : BitVec 16)
  /-- BEAT_SYNC (R32). A BEAT_SYNC pulse is sampled and the internal Beat holds, steps or rejects it. -/
  | beatSync (v : Word64)
  /-- EVENT_SIGNAL (R467). A source signals an event; its record, count, level and reactions are updated. -/
  | eventSignal (src : Fin 1024) (ds : List Word32) (o : EvtOrigin) (uncorr : Bool)
  /-- FAULT_WINDOW_END (R470). A source's count window ends and its run and level are updated. -/
  | faultWindowEnd (src : Fin 1024)
  /-- EVT_FORCE (R469). Write of 1 to an EVT.FORCE bit signals a forced event. -/
  | evtForce (src : Fin 1024) (mid : BitVec 12)
  /-- LEVEL_CLR (R471). FLT.LEVEL_CLR returns a named or every Severe source to Normal. -/
  | levelClr (all go : Bool) (src : Fin 1024)
  /-- FEC_CLR (R477). FLT.FEC_CLR open reopens a group's first-error capture. -/
  | fecClr (g : Fin 32)
  /-- JRN_POP (R484). Read of JRN.POP latches the next word of a complete packet and advances. -/
  | jrnPop (bad : Fin 3)
  /-- CURE_WAIT_END (R499). The requested drain's cure wait ends by cure, timeout or degraded state. -/
  | cureWaitEnd (late : Bool)
  /-- RESET_RELEASE (R502). A reset pin is released and the Shuzer leaves reset. -/
  | resetRelease (pfail : Bool)
  /-- FW_HALT (R28). Firmware halts itself, ARM.STATUS reads halted, the management plane stops and the Armature requester is masked. -/
  | fwHalt (code : Word32)
  /-- PLL_LOCK_LOSS (R205). The PHY PLL loses lock, PHY.STATUS.pll_lock falls to 0 and take-backs are refused until a training run relocks it. -/
  | pllLockLoss (c : Fin 16)
  /-- RETRAINING_WINDOW_END (R217). A retraining window's len × 4 ns expires; the scheduler may again command the package rank, and a probe dwell due during the window is requested again. -/
  | retrainingWindowEnd (c : Fin 16)
  /-- NTC_TRANSFER (R73). A queued notice message transfers to the chip on NTC. -/
  | ntcTransfer
  /-- HW_CLR (R133). Write of 1 to ADM.CTL.hw_clr sets TT_STATUS.high to the entries in use. -/
  | hwClr
  /-- DEV_HOLD (R167). TOP.HOLD.hold written 1; every populated channel enters HOLDING. -/
  | devHold
  /-- DEV_RELEASE (R167). TOP.HOLD.release written 1; every pending SCH, PHY and MAP value is checked and applied at one edge. -/
  | devRelease
  /-- ROP_CLEAN (R285). Range operation Clean writes back dirty lines of the range. -/
  | ropClean
  /-- ROP_CLEAN_INVALIDATE (R285). Range operation Clean and invalidate writes back and invalidates the range with a fill snapshot. -/
  | ropCleanInvalidate
  /-- ROP_INVALIDATE (R285). Range operation Invalidate discards lines of the range without write-back. -/
  | ropInvalidate
  /-- ROP_UNPIN (R285). Range operation Unpin clears the pins of the range. -/
  | ropUnpin
  /-- ROP_REFUSED (R285). A range command with a reserved op or in a forbidden state is refused. -/
  | ropRefused
  /-- ROP_DONE (R289). The walk, its write-backs and snapshot fills complete and busy clears. -/
  | ropDone
  /-- VNR_CLEARING_DONE (R290). Every tag is cleared 8,192 FCLK after reset and the Veneer enters Enabled or Disabled. -/
  | vnrClearingDone
  /-- VNR_DRAIN_DONE (R291). The drain walk ends and the Veneer enters Disabled. -/
  | vnrDrainDone
  /-- EPOCH_ADVANCE (R295). The epoch interval expires and E advances and MARKs are queued. -/
  | epochAdvance
  /-- FENCE_EPOCH_ADVANCE (R295). A fence waiting on E triggers an epoch advance, at most one per 32 FCLK. -/
  | fenceEpochAdvance
  /-- MIRROR_CAPTURE (R304). A mirrored write is captured into the mirror buffer and Pending Table, or waits for room. -/
  | mirrorCapture
  /-- CUR_ATTACH (R310). CUR.CTL.attach written 1 enters ATTACHING or raises ATTACH_REFUSED. -/
  | curAttach
  /-- CUR_DEGRADE (R310). CUR.CTL.degrade written 1 enters DEGRADED and releases waiting completions, or is refused. -/
  | curDegrade
  /-- MIRROR_ATTACHED (R311). The attach push completes and MIRRORED is entered. -/
  | mirrorAttached
  /-- REPAIR_ANSWER (R313). The twin's answer, or a connection Error, resolves a repair and its waiting accesses. -/
  | repairAnswer
  /-- RECAST_DONE (R321). The Recast walk ends and the channel returns to IN_SERVICE. -/
  | recastDone
  /-- DRAIN_START (R322). PFAIL_N first seen low starts the power-fail drain. -/
  | drainStart
  /-- DRAIN_RECORDS (R322). Write queues empty and the Fill Record, Inlay Image and Cure Record are written. -/
  | drainRecords
  /-- DRAIN_COMPLETE (R322). Every channel is handed to the Keeper and DRAIN_DONE is asserted. -/
  | drainComplete
  /-- HEAT_DECAY (R336). Every decay_us a sweep halves every heat. -/
  | heatDecay
  /-- DEMOTION_HAND_STEP (R338). The demotion hand examines the next Placement Map entry every 8 FCLK. -/
  | demotionHandStep (mapErr : RawLine)
  /-- FRAME_REFILL (R332). The allocator refills its free-frame cache by scanning the Frame Map. -/
  | frameRefill
  /-- FRAME_CMD (R333). TIR.FRAME_CMD go allocates one local frame above the floor. -/
  | frameCmd
  /-- CONN_CMD_OPEN (R395). TEN.CONN_CMD OPEN establishes a connection with its staged key and sequences. -/
  | connCmdOpen
  /-- CONN_CMD_CLOSE (R394). TEN.CONN_CMD CLOSE frees a connection once no segment executes. -/
  | connCmdClose
  /-- CONN_CMD_INSTALL (R404). TEN.CONN_CMD INSTALL places a staged key in the empty slot as READY. -/
  | connCmdInstall
  /-- CONN_CMD_SWITCH (R404). TEN.CONN_CMD SWITCH makes the READY key ACTIVE. -/
  | connCmdSwitch
  /-- CONN_CMD_RETIRE (R404). TEN.CONN_CMD RETIRE erases the DRAINING key. -/
  | connCmdRetire
  /-- CONN_CMD_ERROR (R394). TEN.CONN_CMD ERROR puts the connection in ERROR. -/
  | connCmdError
  /-- CONN_CMD_QUERY (R411). TEN.CONN_CMD QUERY writes TEN.CONN_STATUS. -/
  | connCmdQuery
  /-- RKEY_CMD_CREATE (R409). TEN.RKEY_CMD CREATE writes a region key entry and yields its key. -/
  | rkeyCmdCreate
  /-- RKEY_CMD_REVOKE (R410). TEN.RKEY_CMD REVOKE sets the entry Revoking and snapshots in-flight segments. -/
  | rkeyCmdRevoke
  /-- RKEY_CMD_QUERY (R411). TEN.RKEY_CMD QUERY reports the entry's state and key. -/
  | rkeyCmdQuery
  /-- REGION_REVOKED (R410). The revoke snapshot count reaches 0 and the entry becomes Invalid. -/
  | regionRevoked
  /-- IMG_BLOCK_DONE (R419). Boot agent writes ARM.IMG_REQ.done and the next block is requested. -/
  | imgBlockDone
  /-- IMG_FETCH_TIMEOUT (R419). done is not written within 100 ms and the fetch fails with boot_err 1. -/
  | imgFetchTimeout
  /-- BOOT_ROM_START (R420). After reset the boot ROM fetches, checks and loads the image and starts firmware. -/
  | bootRomStart
  /-- ARM_RESTART (R422). ARM.CTL.restart runs a resume restart of the boot ROM. -/
  | armRestart
  /-- ARM_UPDATE (R422). ARM.CTL.update from MID 0x800 runs an update restart. -/
  | armUpdate
  /-- ARM_READY (R420). ARM.CTL.ready written 1 declares Ready. -/
  | armReady
  /-- MBX_TAKE (R425). Firmware takes a pending request and the mailbox enters BUSY. -/
  | mbxTake
  /-- TWIN_TIMEOUT (R439). The firmware Twin Timeout after TWIN_SILENT expires and firmware writes degrade. -/
  | twinTimeout
  /-- COMMIT_APPLIED (R457). A scheduled commit's Beat is reached and its groups apply at one edge. -/
  | commitApplied
  /-- TOP_SNAPSHOT (R460). TOP.SNAPSHOT go copies every counter to its holding register. -/
  | topSnapshot
  /-- CNT_CLR (R460). TOP.CNT_CLR go clears every counter. -/
  | cntClr
  /-- BEAT_FREERUN (R34). No pulse for 16 µs; the Shuzer enters Beat free-run. -/
  | beatFreerun
  /-- SEV_CLR (R475). FLT.CTL.sev_clr deasserts FAULT_SEVERE. -/
  | sevClr
  /-- FO_CLR (R489). FLT.CTL.fo_clr clears failover and fo_refused. -/
  | foClr
  /-- JOURNAL_RECORD (R478). A queued event's records enter the chain once enough stages are free. -/
  | journalRecord
  /-- PACKET_CLOSE_TIME (R479). close_us expires and the open journal packet closes. -/
  | packetCloseTime
  /-- JRN_FLUSH (R479). JRN.CTL.flush closes the open packet. -/
  | jrnFlush
  /-- JRN_CLEAR (R487). JRN.CTL.clear discards every packet. -/
  | jrnClear
  /-- STATE_CMD_ACTIVE (R498). PWR.STATE_CMD requests Active. -/
  | stateCmdActive
  /-- STATE_CMD_POWER_DOWN (R498). PWR.STATE_CMD requests Power-down. -/
  | stateCmdPowerDown
  /-- STATE_CMD_SELF_REFRESH (R498). PWR.STATE_CMD requests Self-refresh. -/
  | stateCmdSelfRefresh
  /-- STATE_CMD_OFF_RETENTION (R499). PWR.STATE_CMD requests Off-with-retention and starts a requested drain. -/
  | stateCmdOffRetention
  /-- PFAIL_RETURN (R510). PFAIL_N seen high after a drain started; the Shuzer stays in its drain. -/
  | pfailReturn
  /-- PORST_ASSERT (R503). PORST_N asserts and the core domains reset. -/
  | porstAssert
  /-- SRST_ASSERT (R503). SRST_N asserts and the system resets, keeping counters and Inlay entries. -/
  | srstAssert
  /-- VKEEP_FAIL (R496). VKEEP leaves its range with the core powered and KEEP_OK falls. -/
  | vkeepFail
  /-- VKEEP_POWER_UP (R202). VKEEP comes up and the Keeper takes every channel's pins. -/
  | vkeepPowerUp
  /-- CORE_POWER_LOSS (R204). VDD_CORE falls while the PHY owns pins; the Keeper takes them at once. -/
  | corePowerLoss
  /-- BCMD_INIT (R106). MAP.BCMD.init sets every Blank Map and Blank Summary bit to 1 through a Rasp engine before Ready, or is ignored. -/
  | bcmdInit
  /-- BCMD_REBUILD (R106). MAP.BCMD.rebuild recomputes the Blank Summary from the Blank Map; every Summary bit reads 0 until it finishes with SUMMARY_READY. -/
  | bcmdRebuild
  /-- BCMD_PC_INV (R101). MAP.BCMD.pc_inv clears the Placement Cache once every outstanding miss has returned. -/
  | bcmdPcInv
deriving DecidableEq, Repr

end Sys2Proof
end

