-- ==== Sys2Proof/Config.lean ====
section
/-!
DEFINITION. What an implementation fixes and the values the spec leaves open. Each is an opaque constant: nothing can be
proved of its value.
-/
namespace Sys2Proof.Config

/-- A value the spec leaves open, drawn fresh: the `n`-th draw of width `w`. -/
opaque freeValue : (w n : Nat) → BitVec w

/-- A byte of DRAM whose contents were lost: which loss, and the byte's address in the model's map of DRAM. -/
opaque lostByte : (loss addr : Nat) → BitVec 8

/-- The JESD79-5 minimum self-refresh residency for a speed grade, in nCK (R160). -/
opaque srMin : (grade : Nat) → Nat

/-- The JESD79-5 minimum of a timing field for a speed grade, in nCK (R156). Fields are numbered as SCH.REL_ERR.check
numbers them, 1 to 21. -/
opaque jedecMin : (grade field : Nat) → Nat

/-- The JESD79-5 read-to-write turnaround of one rank, before trtw_add, in nCK (R155). -/
opaque rtwMin : (grade : Nat) → Nat

/-- The segments that the queues of a Tenon engine hold, one at least (R132). -/
opaque engineSegs : Nat

/-- The factory minimum of REF.TRFC for a speed grade (R193): 0 tRFC1, 1 tRFC2, 2 tRFCsb. -/
opaque trfcMin : (grade field : Nat) → Nat

/-- Whether a DIMM supports RFM (R189). -/
opaque rfmSupported : (chan : Nat) → Bool

/-- The key-encryption key of connection contexts, by how many resets have derived one (R398). -/
opaque kek : (era : Nat) → BitVec 256

/-- The check of a region key's index and generation under the device check key (R406). -/
opaque rkeyCheck : (era : Nat) → (idx gen : Nat) → BitVec 9

/-- The SHA-384 of Dradom's image key, held in image key slot 0 from the factory (R417). -/
opaque factoryKeyHash : BitVec 384

/-- Dradom's microcode key, a point of P-384 as X then Y, by which the boot ROM checks a microcode signature (R416). -/
opaque ucodeKey : BitVec 768

end Sys2Proof.Config
end

