-- ==== Sys2Proof/Machine/Bits.lean ====
section
/-!
DEFINITION. Bit fields, saturation, byte order and the sparse-map operations.
-/
namespace Sys2Proof.Machine
open Sys2Proof

/-- Field `[hi:lo]` of a value, as a number (R15). -/
def fieldOf {w : Nat} (v : BitVec w) (hi lo : Nat) : Nat :=
  (v.toNat >>> lo) % 2 ^ (hi + 1 - lo)

/-- Bit `i` of a value. -/
def bitOf {w : Nat} (v : BitVec w) (i : Nat) : Bool :=
  v.getLsbD i

/-- A mask with ones in `[hi:lo]`. -/
def fieldMask (hi lo : Nat) : Word64 :=
  BitVec.ofNat 64 ((2 ^ (hi + 1 - lo) - 1) <<< lo)

/-- The value with field `[hi:lo]` replaced. -/
def putField (v : Word64) (hi lo x : Nat) : Word64 :=
  (v &&& ~~~ fieldMask hi lo) ||| BitVec.ofNat 64 ((x % 2 ^ (hi + 1 - lo)) <<< lo)

/-- A register value from its fields, each given with its lowest bit. -/
def packFields (fs : List (Nat × Nat)) : Word64 :=
  fs.foldl (fun acc f => acc ||| BitVec.ofNat 64 (f.2 <<< f.1)) 0

/-- 1 for true, 0 for false. -/
def flag (b : Bool) : Nat := if b then 1 else 0

/-- A count that stops at `m`. -/
def satInc (m x : Nat) : Nat := min m (x + 1)

/-- Byte `k` of a line. -/
def lineByte (d : LineData) (k : Nat) : Byte := (d >>> (8 * k)).setWidth 8

/-- The 512-bit mask of a byte mask: byte `k` is all ones where bit `k` is set. -/
def maskBits (m : LineMask) : LineData :=
  (List.range 64).foldl
    (fun acc k => if m.getLsbD k then acc ||| (0xFF#512 <<< (8 * k)) else acc) 0

/-- `new` in the bytes the mask selects, `old` elsewhere. -/
def mergeLine (m : LineMask) (new old : LineData) : LineData :=
  (new &&& maskBits m) ||| (old &&& ~~~ maskBits m)

/-- The aligned 8-byte word `k` (0–7) of a line, little-endian (R15). -/
def lineWord (d : LineData) (k : Nat) : Word64 := (d >>> (64 * k)).setWidth 64

/-- The line with its 8-byte word `k` replaced. -/
def setLineWord (d : LineData) (k : Nat) (v : Word64) : LineData :=
  (d &&& ~~~ (0xFFFF_FFFF_FFFF_FFFF#512 <<< (64 * k))) ||| (v.setWidth 512 <<< (64 * k))

/-- Low and high 32-bit detail records of a value wider than 32 bits, low word first (R468). -/
def detail64 (v : Nat) : List Word32 := [BitVec.ofNat 32 v, BitVec.ofNat 32 (v >>> 32)]

/-- One 32-bit detail record (R468). -/
def detail32 (v : Nat) : List Word32 := [BitVec.ofNat 32 v]

/-! Sparse maps. -/

/-- The value at a key; the default where the key is not listed. -/
def smGet {α : Type} (d : α) : SMap α → Nat → α
  | [], _ => d
  | (k, v) :: m, i => if i = k then v else smGet d m i

/-- The map with `v` at key `i`, in canonical form: the default is never listed and keys rise. -/
def smSet {α : Type} [DecidableEq α] (d : α) : SMap α → Nat → α → SMap α
  | [], i, v => if v = d then [] else [(i, v)]
  | (k, w) :: m, i, v =>
    if i < k then (if v = d then (k, w) :: m else (i, v) :: (k, w) :: m)
    else if i = k then (if v = d then m else (k, v) :: m)
    else (k, w) :: smSet d m i v

/-- Every key of the map is greater than `b`, keys rise, and no value is the default. -/
def smWfFrom {α : Type} [DecidableEq α] (d : α) (b : Option Nat) : SMap α → Bool
  | [] => true
  | (k, v) :: m =>
    (match b with | none => true | some x => decide (x < k)) && decide (v ≠ d) && smWfFrom d (some k) m

/-- The canonical form of a sparse map. -/
def smWf {α : Type} [DecidableEq α] (d : α) (m : SMap α) : Bool := smWfFrom d none m

/-- The value at a key of a filled map. -/
def fmGet {α : Type} (m : FMap α) (i : Nat) : α := smGet m.fill m.ex i

/-- The filled map with `v` at key `i`. -/
def fmSet {α : Type} [DecidableEq α] (m : FMap α) (i : Nat) (v : α) : FMap α :=
  { m with ex := smSet m.fill m.ex i v }

/-- The filled map with `v` at every key. -/
def fmFill {α : Type} (v : α) : FMap α := ⟨v, []⟩

/-- The list with the first element that meets `p` removed. -/
def eraseFirst {α : Type} (p : α → Bool) : List α → List α
  | [] => []
  | x :: xs => if p x then xs else x :: eraseFirst p xs

/-- The list with `f` applied to the first element that meets `p`. -/
def modFirst {α : Type} (p : α → Bool) (f : α → α) : List α → List α
  | [] => []
  | x :: xs => if p x then f x :: xs else x :: modFirst p f xs

end Sys2Proof.Machine
end

