-- ==== Sys2Proof/Types/Csr.lean ====
section
/-!
DEFINITION. The register fabric's state (15_register_conventions.md): access types, register descriptions, the values in
force, shadows, pending Held values, commit schedule, counter snapshot and the register port.
-/
namespace Sys2Proof

/-- The access types of R18 and R451. A bit of a register that no field covers is RP. -/
inductive Acc where
  | ro | rw | rws | rwh | rc | sq | cnt | wt | lk | otp
deriving DecidableEq, Repr

/-- One field of a register: its bits, access type, and the smallest and largest value that is not reserved. -/
structure FieldDesc where
  hi  : Nat
  lo  : Nat
  acc : Acc
  min : Nat
  max : Nat
deriving DecidableEq, Repr

/-- One register heading of the spec: offset, two strides with their counts, width, commit group, reset value,
counter index with its stride (R461), and fields. -/
structure RegDesc where
  name   : String
  base   : Nat
  s1     : Nat
  c1     : Nat
  s2     : Nat
  c2     : Nat
  wide   : Bool
  group  : Option Nat
  rst    : Word64
  cnt    : Option (Nat × Nat)
  fields : List FieldDesc
deriving DecidableEq, Repr

/-- A reference to one register: its offset and its reset value. -/
structure RegRef where
  off : Nat
  rst : Word64
deriving DecidableEq, Repr

/-- One response of the register port (R449). -/
structure RegRsp where
  rdata : Word32
  err   : Bool
deriving DecidableEq, Repr

/-- State of the register fabric. `val` holds each register's value in force exclusive-or its reset value, so that a
register at its reset value is not listed. -/
structure CsrSt where
  /-- value in force of each register, by offset, exclusive-or its reset value (R19, R451) -/
  val      : SMap Word64
  /-- shadow values written since the group's last apply (R457) -/
  shadow   : SMap (Option Word64)
  /-- pending RWH values (R166) -/
  pendH    : SMap (Option Word64)
  /-- TOP.COMMIT_STATUS.pending -/
  grpPend  : BitVec 16
  /-- scheduled commits: group to Beat (R459) -/
  sched    : SMap (Option Word64)
  /-- counter holding registers by index (R460) -/
  holdReg  : SMap Word64
  /-- the latch of R450 for the register port and for the Armature: offset of the low word and the high word -/
  portLat  : Option (Nat × Word32)
  armLat   : Option (Nat × Word32)
  /-- the write buffer of R450: offset of the low word and its value -/
  portBuf  : Option (Nat × Word32)
  armBuf   : Option (Nat × Word32)
  /-- responses of the register port in order, oldest first (R449) -/
  portRsp  : List RegRsp
deriving DecidableEq, Repr

/-- The register fabric after reset. -/
def CsrSt.reset : CsrSt :=
  { val := [], shadow := [], pendH := [], grpPend := 0, sched := [], holdReg := [], portLat := none,
    armLat := none, portBuf := none, armBuf := none, portRsp := [] }

end Sys2Proof
end

