-- ==== Sys2Proof/Machine/Regs.lean ====
section
/-!
DEFINITION. A reference (offset and reset value) to every register the spec names, written from the register headings and
tables of the chapters, with the reset values of FLT.CFG (R491). A per-channel register takes the channel as `n`.
-/
namespace Sys2Proof.Machine
open Sys2Proof

/-- The positions within a channel's events that reset with reactions jrn and irq (R491): TIMING_FLOOR, HOLD_EXPIRED,
TEMP_OVER, TRAIN_FAIL and LINK_FAIL. -/
def fltIrqChan : List Nat := [2, 3, 9, 15, 17]

/-- The other sources that reset with reactions jrn and irq (R491). -/
def fltIrqIds : List Nat :=
  [4, 7, 768, 769, 770, 771, 773, 782, 785, 833, 834, 992, 993, 994]

/-- FLT.CFG of source `i` after reset (R491), as its bits: n 63:56, win_ms 55:40, sev 14:10, ser 9:5, not 4:0. -/
def fltCfgReset (i : Nat) : Nat :=
  let mk (n sev ser not : Nat) : Nat := n <<< 56 + 1000 <<< 40 + sev <<< 10 + ser <<< 5 + not
  if 192 ≤ i ∧ i ≤ 703 then
    let k := (i - 192) % 32
    if k = 23 then mk 16 7 3 1
    else if k = 26 then mk 0 0 0 7
    else if k = 31 then mk 0 7 0 1
    else if k ∈ fltIrqChan then mk 0 0 0 3
    else mk 0 0 0 1
  else if i = 714 then mk 0 19 0 1
  else if i ∈ fltIrqIds then mk 0 0 0 3
  else mk 0 0 0 1

/-- TOP.IDENT (15_register_conventions.md). -/
def rTopIdent : RegRef := ⟨0, 0xDA31610⟩

/-- TOP.DEVICE_ID (15_register_conventions.md). -/
def rTopDeviceId : RegRef := ⟨4, 0⟩

/-- TOP.BEAT (15_register_conventions.md). -/
def rTopBeat : RegRef := ⟨0x10, 0⟩

/-- TOP.BEAT_STATUS (15_register_conventions.md). -/
def rTopBeatStatus : RegRef := ⟨0x18, 0⟩

/-- TOP.COMMIT_AT (15_register_conventions.md). -/
def rTopCommitAt : RegRef := ⟨0x20, 0⟩

/-- TOP.COMMIT (15_register_conventions.md). -/
def rTopCommit : RegRef := ⟨0x28, 0⟩

/-- TOP.COMMIT_STATUS (15_register_conventions.md). -/
def rTopCommitStatus : RegRef := ⟨0x2C, 0⟩

/-- TOP.COMMIT_LAST (15_register_conventions.md). -/
def rTopCommitLast : RegRef := ⟨0x30, 0⟩

/-- TOP.COMMIT_BEAT (15_register_conventions.md). -/
def rTopCommitBeat : RegRef := ⟨0x38, 0⟩

/-- TOP.HOLD (05_channel_scheduler.md). -/
def rTopHold : RegRef := ⟨0x40, 0⟩

/-- TOP.HOLD_STATUS (05_channel_scheduler.md). -/
def rTopHoldStatus : RegRef := ⟨0x44, 0⟩

/-- TOP.SNAPSHOT (15_register_conventions.md). -/
def rTopSnapshot : RegRef := ⟨0x48, 0⟩

/-- TOP.SNAP_STATUS (15_register_conventions.md). -/
def rTopSnapStatus : RegRef := ⟨0x4C, 0⟩

/-- TOP.SNAP_BEAT (15_register_conventions.md). -/
def rTopSnapBeat : RegRef := ⟨0x50, 0⟩

/-- TOP.CNT_CLR (15_register_conventions.md). -/
def rTopCntClr : RegRef := ⟨0x58, 0⟩

/-- TOP.LOCKV_INFO (15_register_conventions.md). -/
def rTopLockvInfo : RegRef := ⟨0x60, 0⟩

/-- TOP.RP_INFO (15_register_conventions.md). -/
def rTopRpInfo : RegRef := ⟨0x68, 0⟩

/-- TOP.FWG (15_register_conventions.md). -/
def rTopFwg (i : Nat) (j : Nat) : RegRef := ⟨0x100 + 4 * i + 0x20 * j, 0⟩

/-- TOP.COMMIT_CNT (15_register_conventions.md). -/
def rTopCommitCnt : RegRef := ⟨0x200, 0⟩

/-- TOP.REFUSE_CNT (15_register_conventions.md). -/
def rTopRefuseCnt : RegRef := ⟨0x208, 0⟩

/-- TOP.LOCKV_CNT (15_register_conventions.md). -/
def rTopLockvCnt : RegRef := ⟨0x210, 0⟩

/-- TOP.BEAT_STEP_CNT (15_register_conventions.md). -/
def rTopBeatStepCnt : RegRef := ⟨0x218, 0⟩

/-- TOP.SNAP_CNT (15_register_conventions.md). -/
def rTopSnapCnt : RegRef := ⟨0x220, 0⟩

/-- EVT.SQ (16_events_faults_journal.md). -/
def rEvtSq (i : Nat) : RegRef := ⟨0x10000 + 4 * i, 0⟩

/-- EVT.PEND (16_events_faults_journal.md). -/
def rEvtPend (i : Nat) : RegRef := ⟨0x11000 + 4 * i, 0⟩

/-- EVT.IPEND (16_events_faults_journal.md). -/
def rEvtIpend (i : Nat) : RegRef := ⟨0x11080 + 4 * i, 0⟩

/-- EVT.FORCE (16_events_faults_journal.md). -/
def rEvtForce (i : Nat) : RegRef := ⟨0x11100 + 4 * i, 0⟩

/-- EVT.ROUTE (16_events_faults_journal.md). -/
def rEvtRoute (i : Nat) : RegRef := ⟨0x11200 + 4 * i, 0xCCCCCCCC⟩

/-- EVT.LINE_EN (16_events_faults_journal.md). -/
def rEvtLineEn : RegRef := ⟨0x11400, 0x1F⟩

/-- EVT.LINE_STATUS (16_events_faults_journal.md). -/
def rEvtLineStatus : RegRef := ⟨0x11404, 0⟩

/-- EVT.EVENT_CNT (16_events_faults_journal.md). -/
def rEvtEventCnt : RegRef := ⟨0x11800, 0⟩

/-- EVT.FORCE_CNT (16_events_faults_journal.md). -/
def rEvtForceCnt : RegRef := ⟨0x11808, 0⟩

/-- EVT.IRQ_CNT (16_events_faults_journal.md). -/
def rEvtIrqCnt : RegRef := ⟨0x11810, 0⟩

/-- FLT.CFG (16_events_faults_journal.md). -/
def rFltCfg (i : Nat) : RegRef := ⟨0x20000 + 8 * i, BitVec.ofNat 64 (fltCfgReset i)⟩

/-- FLT.FEC_BEAT (16_events_faults_journal.md). -/
def rFltFecBeat (i : Nat) : RegRef := ⟨0x22000 + 0x20 * i, 0⟩

/-- FLT.FEC_ADDR (16_events_faults_journal.md). -/
def rFltFecAddr (i : Nat) : RegRef := ⟨0x22008 + 0x20 * i, 0⟩

/-- FLT.FEC_INFO (16_events_faults_journal.md). -/
def rFltFecInfo (i : Nat) : RegRef := ⟨0x22010 + 0x20 * i, 0⟩

/-- FLT.FEC_CLR (16_events_faults_journal.md). -/
def rFltFecClr (i : Nat) : RegRef := ⟨0x22014 + 0x20 * i, 0⟩

/-- FLT.LEVEL (16_events_faults_journal.md). -/
def rFltLevel (i : Nat) : RegRef := ⟨0x22400 + 4 * i, 0⟩

/-- FLT.LEVEL_CLR (16_events_faults_journal.md). -/
def rFltLevelClr : RegRef := ⟨0x22500, 0⟩

/-- FLT.CTL (16_events_faults_journal.md). -/
def rFltCtl : RegRef := ⟨0x22504, 0⟩

/-- FLT.STATUS (16_events_faults_journal.md). -/
def rFltStatus : RegRef := ⟨0x22508, 0⟩

/-- FLT.WIN_SEL (16_events_faults_journal.md). -/
def rFltWinSel : RegRef := ⟨0x22510, 0⟩

/-- FLT.WIN_VIEW (16_events_faults_journal.md). -/
def rFltWinView : RegRef := ⟨0x22514, 0⟩

/-- FLT.SERIOUS_CNT (16_events_faults_journal.md). -/
def rFltSeriousCnt : RegRef := ⟨0x22600, 0⟩

/-- FLT.SEVERE_CNT (16_events_faults_journal.md). -/
def rFltSevereCnt : RegRef := ⟨0x22608, 0⟩

/-- FLT.FENCE_CNT (16_events_faults_journal.md). -/
def rFltFenceCnt : RegRef := ⟨0x22610, 0⟩

/-- FLT.FAILOVER_CNT (16_events_faults_journal.md). -/
def rFltFailoverCnt : RegRef := ⟨0x22618, 0⟩

/-- JRN.CFG (16_events_faults_journal.md). -/
def rJrnCfg : RegRef := ⟨0x30000, 0x80400064⟩

/-- JRN.STATUS (16_events_faults_journal.md). -/
def rJrnStatus : RegRef := ⟨0x30004, 0⟩

/-- JRN.POP (16_events_faults_journal.md). -/
def rJrnPop : RegRef := ⟨0x30008, 0⟩

/-- JRN.WORD (16_events_faults_journal.md). -/
def rJrnWord (i : Nat) : RegRef := ⟨0x30010 + 4 * i, 0⟩

/-- JRN.CTL (16_events_faults_journal.md). -/
def rJrnCtl : RegRef := ⟨0x30020, 0⟩

/-- JRN.NOTICE (16_events_faults_journal.md). -/
def rJrnNotice : RegRef := ⟨0x30024, 0xC⟩

/-- JRN.PKT_CNT (16_events_faults_journal.md). -/
def rJrnPktCnt : RegRef := ⟨0x30100, 0⟩

/-- JRN.LOST_CNT (16_events_faults_journal.md). -/
def rJrnLostCnt : RegRef := ⟨0x30108, 0⟩

/-- JRN.DROP_CNT (16_events_faults_journal.md). -/
def rJrnDropCnt : RegRef := ⟨0x30110, 0⟩

/-- JRN.CE_CNT (16_events_faults_journal.md). -/
def rJrnCeCnt : RegRef := ⟨0x30118, 0⟩

/-- JRN.UE_CNT (16_events_faults_journal.md). -/
def rJrnUeCnt : RegRef := ⟨0x30120, 0⟩

/-- ADM.RANK0 (04_admission.md). -/
def rAdmRank0 : RegRef := ⟨0x40000, 0x24924924⟩

/-- ADM.RANK1 (04_admission.md). -/
def rAdmRank1 : RegRef := ⟨0x40004, 0x376A4924⟩

/-- ADM.TT_CAP (04_admission.md). -/
def rAdmTtCap : RegRef := ⟨0x40010, 0x400⟩

/-- ADM.TT_RES (04_admission.md). -/
def rAdmTtRes : RegRef := ⟨0x40014, 0x402010⟩

/-- ADM.LOCK_CFG (04_admission.md). -/
def rAdmLockCfg : RegRef := ⟨0x40018, 0xFA0100⟩

/-- ADM.TT_STATUS (04_admission.md). -/
def rAdmTtStatus : RegRef := ⟨0x4001C, 0⟩

/-- ADM.CTL (04_admission.md). -/
def rAdmCtl : RegRef := ⟨0x40020, 0⟩

/-- ADM.MASK (04_admission.md). -/
def rAdmMask : RegRef := ⟨0x40024, 0⟩

/-- ADM.WAIT_ALARM (04_admission.md). -/
def rAdmWaitAlarm : RegRef := ⟨0x40028, 0x2000⟩

/-- ADM.POOL_STATUS (04_admission.md). -/
def rAdmPoolStatus (i : Nat) : RegRef := ⟨0x40100 + 4 * i, 0⟩

/-- ADM.POOL_WAIT (04_admission.md). -/
def rAdmPoolWait (i : Nat) : RegRef := ⟨0x40140 + 4 * i, 0⟩

/-- ADM.LOCK_STATUS (04_admission.md). -/
def rAdmLockStatus (i : Nat) : RegRef := ⟨0x40180 + 4 * i, 0⟩

/-- ADM.MAXWAIT (04_admission.md). -/
def rAdmMaxwait (i : Nat) : RegRef := ⟨0x40200 + 4 * i, 0⟩

/-- ADM.GRANT_CNT (04_admission.md). -/
def rAdmGrantCnt (i : Nat) : RegRef := ⟨0x41000 + 8 * i, 0⟩

/-- ADM.WAIT_CNT (04_admission.md). -/
def rAdmWaitCnt (i : Nat) : RegRef := ⟨0x41100 + 8 * i, 0⟩

/-- ADM.LOCK_CNT (04_admission.md). -/
def rAdmLockCnt : RegRef := ⟨0x41200, 0⟩

/-- ADM.LOCK_ERR_CNT (04_admission.md). -/
def rAdmLockErrCnt : RegRef := ⟨0x41208, 0⟩

/-- ADM.WDRAW_CNT (04_admission.md). -/
def rAdmWdrawCnt : RegRef := ⟨0x41210, 0⟩

/-- ADM.PF_DROP_CNT (04_admission.md). -/
def rAdmPfDropCnt : RegRef := ⟨0x41218, 0⟩

/-- FRP.CTL (02_request_ports.md). -/
def rFrpCtl (i : Nat) : RegRef := ⟨0x48000 + 0x100 * i, 0x4005⟩

/-- FRP.STATUS (02_request_ports.md). -/
def rFrpStatus (i : Nat) : RegRef := ⟨0x48004 + 0x100 * i, 0⟩

/-- FRP.PERR (02_request_ports.md). -/
def rFrpPerr (i : Nat) : RegRef := ⟨0x48008 + 0x100 * i, 0⟩

/-- FRP.REQ_CNT (02_request_ports.md). -/
def rFrpReqCnt (i : Nat) : RegRef := ⟨0x48010 + 0x100 * i, 0⟩

/-- FRP.WD_CNT (02_request_ports.md). -/
def rFrpWdCnt (i : Nat) : RegRef := ⟨0x48018 + 0x100 * i, 0⟩

/-- FRP.RD_CNT (02_request_ports.md). -/
def rFrpRdCnt (i : Nat) : RegRef := ⟨0x48020 + 0x100 * i, 0⟩

/-- FRP.ERR_CNT (02_request_ports.md). -/
def rFrpErrCnt (i : Nat) : RegRef := ⟨0x48028 + 0x100 * i, 0⟩

/-- FRP.DISCARD_CNT (02_request_ports.md). -/
def rFrpDiscardCnt (i : Nat) : RegRef := ⟨0x48030 + 0x100 * i, 0⟩

/-- NTC.STATUS (02_request_ports.md). -/
def rNtcStatus : RegRef := ⟨0x48800, 0⟩

/-- NTC.MSG_CNT (02_request_ports.md). -/
def rNtcMsgCnt : RegRef := ⟨0x48808, 0⟩

/-- NTC.FULL_CNT (02_request_ports.md). -/
def rNtcFullCnt : RegRef := ⟨0x48810, 0⟩

/-- MAP.CFG (03_address_space.md). -/
def rMapCfg : RegRef := ⟨0x50000, 6⟩

/-- MAP.GEOM (03_address_space.md). -/
def rMapGeom : RegRef := ⟨0x50004, 0x7E10010⟩

/-- MAP.CHASH (03_address_space.md). -/
def rMapChash (i : Nat) : RegRef := ⟨0x50010 + 8 * i, BitVec.ofNat 64 (0x20202 <<< i)⟩

/-- MAP.DAS (03_address_space.md). -/
def rMapDas : RegRef := ⟨0x50030, 0⟩

/-- MAP.EXCL (03_address_space.md). -/
def rMapExcl : RegRef := ⟨0x50034, 0⟩

/-- MAP.LMS_TOP (03_address_space.md). -/
def rMapLmsTop : RegRef := ⟨0x50038, 0⟩

/-- MAP.RSV_BASE (03_address_space.md). -/
def rMapRsvBase : RegRef := ⟨0x5003C, 0⟩

/-- MAP.RB (03_address_space.md). -/
def rMapRb (i : Nat) : RegRef := ⟨0x50040 + 4 * i, 0⟩

/-- MAP.FILLCFG (03_address_space.md). -/
def rMapFillcfg : RegRef := ⟨0x50070, 0xA⟩

/-- MAP.FILL_STATUS (03_address_space.md). -/
def rMapFillStatus : RegRef := ⟨0x50074, 0⟩

/-- MAP.BCMD (03_address_space.md). -/
def rMapBcmd : RegRef := ⟨0x50078, 0⟩

/-- MAP.BPROG (03_address_space.md). -/
def rMapBprog : RegRef := ⟨0x5007C, 0⟩

/-- MAP.BLANK_RD_CNT (03_address_space.md). -/
def rMapBlankRdCnt : RegRef := ⟨0x50100, 0⟩

/-- MAP.FILL_ALLOC_CNT (03_address_space.md). -/
def rMapFillAllocCnt : RegRef := ⟨0x50108, 0⟩

/-- MAP.FILL_DONE_CNT (03_address_space.md). -/
def rMapFillDoneCnt : RegRef := ⟨0x50110, 0⟩

/-- MAP.FILL_WAIT_CNT (03_address_space.md). -/
def rMapFillWaitCnt : RegRef := ⟨0x50118, 0⟩

/-- MAP.TRIM_CNT (03_address_space.md). -/
def rMapTrimCnt : RegRef := ⟨0x50120, 0⟩

/-- MAP.PC_HIT_CNT (03_address_space.md). -/
def rMapPcHitCnt : RegRef := ⟨0x50128, 0⟩

/-- MAP.PC_MISS_CNT (03_address_space.md). -/
def rMapPcMissCnt : RegRef := ⟨0x50130, 0⟩

/-- MAP.RANGE_ERR_CNT (03_address_space.md). -/
def rMapRangeErrCnt : RegRef := ⟨0x50138, 0⟩

/-- VNR.CTL (09_veneer_cache.md). -/
def rVnrCtl : RegRef := ⟨0x60000, 0⟩

/-- VNR.STATUS (09_veneer_cache.md). -/
def rVnrStatus : RegRef := ⟨0x60004, 0xC0100000⟩

/-- VNR.DIRTY (09_veneer_cache.md). -/
def rVnrDirty : RegRef := ⟨0x60008, 0x40004B⟩

/-- VNR.PIN (09_veneer_cache.md). -/
def rVnrPin : RegRef := ⟨0x6000C, 8⟩

/-- VNR.DIRTY_STATUS (09_veneer_cache.md). -/
def rVnrDirtyStatus : RegRef := ⟨0x60010, 0⟩

/-- VNR.PIN_STATUS (09_veneer_cache.md). -/
def rVnrPinStatus : RegRef := ⟨0x60014, 0⟩

/-- VNR.ROP_START (09_veneer_cache.md). -/
def rVnrRopStart : RegRef := ⟨0x60020, 0⟩

/-- VNR.ROP_END (09_veneer_cache.md). -/
def rVnrRopEnd : RegRef := ⟨0x60028, 0⟩

/-- VNR.ROP_CMD (09_veneer_cache.md). -/
def rVnrRopCmd : RegRef := ⟨0x60030, 0⟩

/-- VNR.ROP_STATUS (09_veneer_cache.md). -/
def rVnrRopStatus : RegRef := ⟨0x60034, 0⟩

/-- VNR.ROP_PROG (09_veneer_cache.md). -/
def rVnrRopProg : RegRef := ⟨0x60038, 0⟩

/-- VNR.HIT_CNT (09_veneer_cache.md). -/
def rVnrHitCnt : RegRef := ⟨0x60100, 0⟩

/-- VNR.MISS_CNT (09_veneer_cache.md). -/
def rVnrMissCnt : RegRef := ⟨0x60108, 0⟩

/-- VNR.FILL_CNT (09_veneer_cache.md). -/
def rVnrFillCnt : RegRef := ⟨0x60110, 0⟩

/-- VNR.WB_CNT (09_veneer_cache.md). -/
def rVnrWbCnt : RegRef := ⟨0x60118, 0⟩

/-- VNR.WT_FORCE_CNT (09_veneer_cache.md). -/
def rVnrWtForceCnt : RegRef := ⟨0x60120, 0⟩

/-- VNR.FILL_DROP_CNT (09_veneer_cache.md). -/
def rVnrFillDropCnt : RegRef := ⟨0x60128, 0⟩

/-- VNR.CE_CNT (09_veneer_cache.md). -/
def rVnrCeCnt : RegRef := ⟨0x60130, 0⟩

/-- VNR.UE_CNT (09_veneer_cache.md). -/
def rVnrUeCnt : RegRef := ⟨0x60138, 0⟩

/-- VNR.PIN_REFUSE_CNT (09_veneer_cache.md). -/
def rVnrPinRefuseCnt : RegRef := ⟨0x60140, 0⟩

/-- VNR.RGN_A (09_veneer_cache.md). -/
def rVnrRgnA (i : Nat) : RegRef := ⟨0x61000 + 0x10 * i, BitVec.ofNat 64 (if i = 63 then 0x8000000000000000 else 0)⟩

/-- VNR.RGN_B (09_veneer_cache.md). -/
def rVnrRgnB (i : Nat) : RegRef := ⟨0x61008 + 0x10 * i, BitVec.ofNat 64 (if i = 63 then 0x400000000000 else 0)⟩

/-- CUR.CFG (10_cure_and_mirroring.md). -/
def rCurCfg : RegRef := ⟨0x70000, 0x7D03202⟩

/-- CUR.TWIN (10_cure_and_mirroring.md). -/
def rCurTwin : RegRef := ⟨0x70004, 0x64⟩

/-- CUR.RECAST_CFG (10_cure_and_mirroring.md). -/
def rCurRecastCfg : RegRef := ⟨0x70008, 0x14⟩

/-- CUR.CTL (10_cure_and_mirroring.md). -/
def rCurCtl : RegRef := ⟨0x7000C, 0⟩

/-- CUR.FENCE_CMD (10_cure_and_mirroring.md). -/
def rCurFenceCmd : RegRef := ⟨0x70010, 0⟩

/-- CUR.STATUS (10_cure_and_mirroring.md). -/
def rCurStatus : RegRef := ⟨0x70014, 0⟩

/-- CUR.FENCE_STATUS (10_cure_and_mirroring.md). -/
def rCurFenceStatus : RegRef := ⟨0x70018, 0⟩

/-- CUR.EPOCH (10_cure_and_mirroring.md). -/
def rCurEpoch : RegRef := ⟨0x70020, 1⟩

/-- CUR.LOCAL (10_cure_and_mirroring.md). -/
def rCurLocal : RegRef := ⟨0x70024, 0⟩

/-- CUR.TWIN_ACK (10_cure_and_mirroring.md). -/
def rCurTwinAck : RegRef := ⟨0x70028, 0⟩

/-- CUR.CURED (10_cure_and_mirroring.md). -/
def rCurCured : RegRef := ⟨0x7002C, 0⟩

/-- CUR.EPOCH_SET (10_cure_and_mirroring.md). -/
def rCurEpochSet : RegRef := ⟨0x70030, 0⟩

/-- CUR.PEND_STATUS (10_cure_and_mirroring.md). -/
def rCurPendStatus : RegRef := ⟨0x70034, 0⟩

/-- CUR.RECAST_PROG (10_cure_and_mirroring.md). -/
def rCurRecastProg : RegRef := ⟨0x70038, 0⟩

/-- CUR.RGN_MODE (10_cure_and_mirroring.md). -/
def rCurRgnMode (i : Nat) : RegRef := ⟨0x70040 + 4 * i, 0⟩

/-- CUR.FENCE_OK_CNT (10_cure_and_mirroring.md). -/
def rCurFenceOkCnt : RegRef := ⟨0x70100, 0⟩

/-- CUR.DEGR_CNT (10_cure_and_mirroring.md). -/
def rCurDegrCnt : RegRef := ⟨0x70108, 0⟩

/-- CUR.MIR_LINE_CNT (10_cure_and_mirroring.md). -/
def rCurMirLineCnt : RegRef := ⟨0x70110, 0⟩

/-- CUR.MARK_CNT (10_cure_and_mirroring.md). -/
def rCurMarkCnt : RegRef := ⟨0x70118, 0⟩

/-- CUR.RETX_LINE_CNT (10_cure_and_mirroring.md). -/
def rCurRetxLineCnt : RegRef := ⟨0x70120, 0⟩

/-- CUR.REPAIR_CNT (10_cure_and_mirroring.md). -/
def rCurRepairCnt : RegRef := ⟨0x70128, 0⟩

/-- CUR.REPAIR_FAIL_CNT (10_cure_and_mirroring.md). -/
def rCurRepairFailCnt : RegRef := ⟨0x70130, 0⟩

/-- CUR.FWD_CNT (10_cure_and_mirroring.md). -/
def rCurFwdCnt : RegRef := ⟨0x70138, 0⟩

/-- CUR.RECAST_LINE_CNT (10_cure_and_mirroring.md). -/
def rCurRecastLineCnt : RegRef := ⟨0x70140, 0⟩

/-- CUR.PUSH_LINE_CNT (10_cure_and_mirroring.md). -/
def rCurPushLineCnt : RegRef := ⟨0x70148, 0⟩

/-- CUR.RSV_DROP_CNT (10_cure_and_mirroring.md). -/
def rCurRsvDropCnt : RegRef := ⟨0x70150, 0⟩

/-- CUR.STALL_CNT (10_cure_and_mirroring.md). -/
def rCurStallCnt : RegRef := ⟨0x70158, 0⟩

/-- CUR.PEND_WAIT_CNT (10_cure_and_mirroring.md). -/
def rCurPendWaitCnt : RegRef := ⟨0x70160, 0⟩

/-- TIR.CTL (11_tiering_and_jigs.md). -/
def rTirCtl : RegRef := ⟨0x80000, 0x20⟩

/-- TIR.THRESH (11_tiering_and_jigs.md). -/
def rTirThresh : RegRef := ⟨0x80004, 0x1800020⟩

/-- TIR.HEAT_CFG (11_tiering_and_jigs.md). -/
def rTirHeatCfg : RegRef := ⟨0x80008, 0x3E80021⟩

/-- TIR.FRAME_FLOOR (11_tiering_and_jigs.md). -/
def rTirFrameFloor : RegRef := ⟨0x8000C, 0x400⟩

/-- TIR.NLB (11_tiering_and_jigs.md). -/
def rTirNlb : RegRef := ⟨0x80010, 0x14⟩

/-- TIR.FRAME_STATUS (11_tiering_and_jigs.md). -/
def rTirFrameStatus : RegRef := ⟨0x80014, 0⟩

/-- TIR.MOVE_STATUS (11_tiering_and_jigs.md). -/
def rTirMoveStatus : RegRef := ⟨0x80018, 0⟩

/-- TIR.HAND (11_tiering_and_jigs.md). -/
def rTirHand : RegRef := ⟨0x80020, 0⟩

/-- TIR.MOVE_CMD (11_tiering_and_jigs.md). -/
def rTirMoveCmd : RegRef := ⟨0x80028, 0x800000000000⟩

/-- TIR.RECLAIM_CMD (11_tiering_and_jigs.md). -/
def rTirReclaimCmd : RegRef := ⟨0x80030, 0⟩

/-- TIR.FRAME_CMD (11_tiering_and_jigs.md). -/
def rTirFrameCmd : RegRef := ⟨0x80034, 0⟩

/-- TIR.NBR (11_tiering_and_jigs.md). -/
def rTirNbr (i : Nat) : RegRef := ⟨0x80100 + 8 * i, 0⟩

/-- TIR.NBR_USE (11_tiering_and_jigs.md). -/
def rTirNbrUse (i : Nat) : RegRef := ⟨0x80200 + 4 * i, 0⟩

/-- TIR.GRANT_A (11_tiering_and_jigs.md). -/
def rTirGrantA (i : Nat) : RegRef := ⟨0x80300 + 0x10 * i, 0⟩

/-- TIR.GRANT_B (11_tiering_and_jigs.md). -/
def rTirGrantB (i : Nat) : RegRef := ⟨0x80308 + 0x10 * i, 0⟩

/-- TIR.JIG_ADDR (11_tiering_and_jigs.md). -/
def rTirJigAddr (i : Nat) : RegRef := ⟨0x80600 + 0x10 * i, 0⟩

/-- TIR.JIG_CMD (11_tiering_and_jigs.md). -/
def rTirJigCmd (i : Nat) : RegRef := ⟨0x80608 + 0x10 * i, 0⟩

/-- TIR.JIG_LATE (11_tiering_and_jigs.md). -/
def rTirJigLate (i : Nat) : RegRef := ⟨0x8060C + 0x10 * i, 0⟩

/-- TIR.PROMOTE_CNT (11_tiering_and_jigs.md). -/
def rTirPromoteCnt : RegRef := ⟨0x80800, 0⟩

/-- TIR.DEMOTE_CNT (11_tiering_and_jigs.md). -/
def rTirDemoteCnt : RegRef := ⟨0x80808, 0⟩

/-- TIR.REMAP_CNT (11_tiering_and_jigs.md). -/
def rTirRemapCnt : RegRef := ⟨0x80810, 0⟩

/-- TIR.DEFER_CNT (11_tiering_and_jigs.md). -/
def rTirDeferCnt : RegRef := ⟨0x80818, 0⟩

/-- TIR.ABANDON_CNT (11_tiering_and_jigs.md). -/
def rTirAbandonCnt : RegRef := ⟨0x80820, 0⟩

/-- TIR.HEAT_DROP_CNT (11_tiering_and_jigs.md). -/
def rTirHeatDropCnt : RegRef := ⟨0x80828, 0⟩

/-- TIR.FRAME_WAIT_CNT (11_tiering_and_jigs.md). -/
def rTirFrameWaitCnt : RegRef := ⟨0x80830, 0⟩

/-- TIR.LEND_RD_CNT (11_tiering_and_jigs.md). -/
def rTirLendRdCnt : RegRef := ⟨0x80838, 0⟩

/-- TIR.LEND_WR_CNT (11_tiering_and_jigs.md). -/
def rTirLendWrCnt : RegRef := ⟨0x80840, 0⟩

/-- TIR.LEND_DENY_CNT (11_tiering_and_jigs.md). -/
def rTirLendDenyCnt : RegRef := ⟨0x80848, 0⟩

/-- TIR.STAGE_LINE_CNT (11_tiering_and_jigs.md). -/
def rTirStageLineCnt : RegRef := ⟨0x80850, 0⟩

/-- TIR.JIG_LATE_CNT (11_tiering_and_jigs.md). -/
def rTirJigLateCnt : RegRef := ⟨0x80858, 0⟩

/-- TEN.UDP (12_tenon_transport.md). -/
def rTenUdp : RegRef := ⟨0x90000, 0x40D5A0⟩

/-- TEN.RTO (12_tenon_transport.md). -/
def rTenRto : RegRef := ⟨0x90004, 0x708⟩

/-- TEN.ACK (12_tenon_transport.md). -/
def rTenAck : RegRef := ⟨0x90008, 0x1001F4⟩

/-- TEN.SEG_CTL (12_tenon_transport.md). -/
def rTenSegCtl (i : Nat) : RegRef := ⟨0x90010 + 4 * i, 1⟩

/-- TEN.SEG_STATUS (12_tenon_transport.md). -/
def rTenSegStatus (i : Nat) : RegRef := ⟨0x90020 + 4 * i, 0⟩

/-- TEN.SEG_IP4 (12_tenon_transport.md). -/
def rTenSegIp4 (i : Nat) : RegRef := ⟨0x90030 + 4 * i, 0⟩

/-- TEN.SEG_IP6H (12_tenon_transport.md). -/
def rTenSegIp6h (i : Nat) : RegRef := ⟨0x90040 + 0x10 * i, 0⟩

/-- TEN.SEG_IP6L (12_tenon_transport.md). -/
def rTenSegIp6l (i : Nat) : RegRef := ⟨0x90048 + 0x10 * i, 0⟩

/-- TEN.TX_CNT (12_tenon_transport.md). -/
def rTenTxCnt (i : Nat) : RegRef := ⟨0x90100 + 8 * i, 0⟩

/-- TEN.RX_CNT (12_tenon_transport.md). -/
def rTenRxCnt (i : Nat) : RegRef := ⟨0x90120 + 8 * i, 0⟩

/-- TEN.RX_DROP_CNT (12_tenon_transport.md). -/
def rTenRxDropCnt (i : Nat) : RegRef := ⟨0x90140 + 8 * i, 0⟩

/-- TEN.AUTH_FAIL_CNT (12_tenon_transport.md). -/
def rTenAuthFailCnt : RegRef := ⟨0x90160, 0⟩

/-- TEN.HDR_DROP_CNT (12_tenon_transport.md). -/
def rTenHdrDropCnt : RegRef := ⟨0x90168, 0⟩

/-- TEN.RETX_CNT (12_tenon_transport.md). -/
def rTenRetxCnt : RegRef := ⟨0x90170, 0⟩

/-- TEN.RTO_CNT (12_tenon_transport.md). -/
def rTenRtoCnt : RegRef := ⟨0x90178, 0⟩

/-- TEN.DUP_CNT (12_tenon_transport.md). -/
def rTenDupCnt : RegRef := ⟨0x90180, 0⟩

/-- TEN.NAK_TX_CNT (12_tenon_transport.md). -/
def rTenNakTxCnt : RegRef := ⟨0x90188, 0⟩

/-- TEN.NAK_RX_CNT (12_tenon_transport.md). -/
def rTenNakRxCnt : RegRef := ⟨0x90190, 0⟩

/-- TEN.CNR_TX_CNT (12_tenon_transport.md). -/
def rTenCnrTxCnt : RegRef := ⟨0x90198, 0⟩

/-- TEN.CNR_RX_CNT (12_tenon_transport.md). -/
def rTenCnrRxCnt : RegRef := ⟨0x901A0, 0⟩

/-- TEN.RING_A (12_tenon_transport.md). -/
def rTenRingA (i : Nat) : RegRef := ⟨0x90800 + 0x20 * i, 4⟩

/-- TEN.RING_B (12_tenon_transport.md). -/
def rTenRingB (i : Nat) : RegRef := ⟨0x90808 + 0x20 * i, 0⟩

/-- TEN.RING_C (12_tenon_transport.md). -/
def rTenRingC (i : Nat) : RegRef := ⟨0x90810 + 0x20 * i, 0x100000000⟩

/-- TEN.CONN_SEL (13_tenon_connections.md). -/
def rTenConnSel : RegRef := ⟨0x91000, 0⟩

/-- TEN.CONN_CFG0 (13_tenon_connections.md). -/
def rTenConnCfg0 : RegRef := ⟨0x91008, 0⟩

/-- TEN.CONN_IPH (13_tenon_connections.md). -/
def rTenConnIph : RegRef := ⟨0x91010, 0⟩

/-- TEN.CONN_IPL (13_tenon_connections.md). -/
def rTenConnIpl : RegRef := ⟨0x91018, 0⟩

/-- TEN.CONN_TXSEQ (13_tenon_connections.md). -/
def rTenConnTxseq : RegRef := ⟨0x91020, 0⟩

/-- TEN.CONN_RXSEQ (13_tenon_connections.md). -/
def rTenConnRxseq : RegRef := ⟨0x91028, 0⟩

/-- TEN.KEY_STAGE (13_tenon_connections.md). -/
def rTenKeyStage (i : Nat) : RegRef := ⟨0x91040 + 8 * i, 0⟩

/-- TEN.KEY_CFG (13_tenon_connections.md). -/
def rTenKeyCfg : RegRef := ⟨0x91060, 0⟩

/-- TEN.CONN_CMD (13_tenon_connections.md). -/
def rTenConnCmd : RegRef := ⟨0x91068, 0⟩

/-- TEN.CONN_STATUS (13_tenon_connections.md). -/
def rTenConnStatus : RegRef := ⟨0x91070, 0⟩

/-- TEN.CTX_STATUS (13_tenon_connections.md). -/
def rTenCtxStatus : RegRef := ⟨0x91078, 0⟩

/-- TEN.PEND_STATUS (13_tenon_connections.md). -/
def rTenPendStatus (i : Nat) : RegRef := ⟨0x91080 + 4 * i, 0⟩

/-- TEN.RKEY_SEL (13_tenon_connections.md). -/
def rTenRkeySel : RegRef := ⟨0x91100, 0⟩

/-- TEN.RKEY_BASE (13_tenon_connections.md). -/
def rTenRkeyBase : RegRef := ⟨0x91108, 0⟩

/-- TEN.RKEY_SIZE (13_tenon_connections.md). -/
def rTenRkeySize : RegRef := ⟨0x91110, 0⟩

/-- TEN.RKEY_ATTR (13_tenon_connections.md). -/
def rTenRkeyAttr : RegRef := ⟨0x91118, 0xFFFF0000⟩

/-- TEN.RKEY_CMD (13_tenon_connections.md). -/
def rTenRkeyCmd : RegRef := ⟨0x91120, 0⟩

/-- TEN.RKEY_VAL (13_tenon_connections.md). -/
def rTenRkeyVal : RegRef := ⟨0x91124, 0⟩

/-- TEN.RKEY_STATUS (13_tenon_connections.md). -/
def rTenRkeyStatus : RegRef := ⟨0x91128, 0⟩

/-- TEN.CTX_HIT_CNT (13_tenon_connections.md). -/
def rTenCtxHitCnt : RegRef := ⟨0x91200, 0⟩

/-- TEN.CTX_MISS_CNT (13_tenon_connections.md). -/
def rTenCtxMissCnt : RegRef := ⟨0x91208, 0⟩

/-- TEN.CTX_WB_CNT (13_tenon_connections.md). -/
def rTenCtxWbCnt : RegRef := ⟨0x91210, 0⟩

/-- TEN.RKEY_DENY_CNT (13_tenon_connections.md). -/
def rTenRkeyDenyCnt : RegRef := ⟨0x91218, 0⟩

/-- TEN.CONN_ERR_CNT (13_tenon_connections.md). -/
def rTenConnErrCnt : RegRef := ⟨0x91220, 0⟩

/-- TEN.FLUSH_CNT (13_tenon_connections.md). -/
def rTenFlushCnt : RegRef := ⟨0x91228, 0⟩

/-- TEN.RETIRED_GEN_CNT (13_tenon_connections.md). -/
def rTenRetiredGenCnt : RegRef := ⟨0x91230, 0⟩

/-- TEN.ERR_DROP_CNT (13_tenon_connections.md). -/
def rTenErrDropCnt : RegRef := ⟨0x91238, 0⟩

/-- ARM.CTL (14_armature_and_mailboxes.md). -/
def rArmCtl : RegRef := ⟨0xA0000, 0⟩

/-- ARM.STATUS (14_armature_and_mailboxes.md). -/
def rArmStatus : RegRef := ⟨0xA0004, 0⟩

/-- ARM.IMG_REQ (14_armature_and_mailboxes.md). -/
def rArmImgReq : RegRef := ⟨0xA0008, 0⟩

/-- ARM.SVN (14_armature_and_mailboxes.md). -/
def rArmSvn : RegRef := ⟨0xA000C, 0⟩

/-- ARM.IKEY_STATE (14_armature_and_mailboxes.md). -/
def rArmIkeyState : RegRef := ⟨0xA0010, 1⟩

/-- ARM.FW_VER (14_armature_and_mailboxes.md). -/
def rArmFwVer : RegRef := ⟨0xA0014, 0⟩

/-- ARM.DIV_INFO (14_armature_and_mailboxes.md). -/
def rArmDivInfo : RegRef := ⟨0xA0018, 0⟩

/-- ARM.IKEY_HASH (14_armature_and_mailboxes.md). -/
def rArmIkeyHash (i : Nat) (j : Nat) : RegRef := ⟨0xA0040 + 8 * i + 0x40 * j, 0⟩

/-- ARM.TCM_CE_CNT (14_armature_and_mailboxes.md). -/
def rArmTcmCeCnt : RegRef := ⟨0xA0200, 0⟩

/-- ARM.RESTART_CNT (14_armature_and_mailboxes.md). -/
def rArmRestartCnt : RegRef := ⟨0xA0208, 0⟩

/-- MBX.CMD_CNT (14_armature_and_mailboxes.md). -/
def rMbxCmdCnt (i : Nat) : RegRef := ⟨0xA0210 + 8 * i, 0⟩

/-- MBX.REQ (14_armature_and_mailboxes.md). -/
def rMbxReq (i : Nat) (j : Nat) : RegRef := ⟨0xA1000 + 4 * i + 0x400 * j, 0⟩

/-- MBX.RSP (14_armature_and_mailboxes.md). -/
def rMbxRsp (i : Nat) (j : Nat) : RegRef := ⟨0xA1100 + 4 * i + 0x400 * j, 0⟩

/-- MBX.DOORBELL (14_armature_and_mailboxes.md). -/
def rMbxDoorbell (i : Nat) : RegRef := ⟨0xA1200 + 0x400 * i, 0⟩

/-- MBX.STATUS (14_armature_and_mailboxes.md). -/
def rMbxStatus (i : Nat) : RegRef := ⟨0xA1204 + 0x400 * i, 0x20000000⟩

/-- ARM.IMG_WIN (14_armature_and_mailboxes.md). -/
def rArmImgWin (i : Nat) : RegRef := ⟨0xA8000 + 4 * i, 0⟩

/-- PWR.STATE_CMD (17_power_reset_startup.md). -/
def rPwrStateCmd : RegRef := ⟨0xB0000, 0⟩

/-- PWR.CFG (17_power_reset_startup.md). -/
def rPwrCfg : RegRef := ⟨0xB0004, 0x103E8⟩

/-- PWR.STATUS (17_power_reset_startup.md). -/
def rPwrStatus : RegRef := ⟨0xB0008, 0⟩

/-- PWR.DRAIN_LOG (17_power_reset_startup.md). -/
def rPwrDrainLog : RegRef := ⟨0xB0010, 0⟩

/-- PWR.KEEP_LOG (17_power_reset_startup.md). -/
def rPwrKeepLog : RegRef := ⟨0xB0018, 0⟩

/-- PWR.TRANS_CNT (17_power_reset_startup.md). -/
def rPwrTransCnt : RegRef := ⟨0xB0100, 0⟩

/-- PWR.PFAIL_CNT (17_power_reset_startup.md). -/
def rPwrPfailCnt : RegRef := ⟨0xB0108, 0⟩

/-- SCH.CTL (05_channel_scheduler.md). -/
def rSchCtl (n : Nat) : RegRef := ⟨0x100000 + 0x40000 * n, 0x120⟩

/-- SCH.WDRAIN (05_channel_scheduler.md). -/
def rSchWdrain (n : Nat) : RegRef := ⟨0x100004 + 0x40000 * n, 0x480018⟩

/-- SCH.URG (05_channel_scheduler.md). -/
def rSchUrg (n : Nat) : RegRef := ⟨0x100008 + 0x40000 * n, 0x644B32⟩

/-- SCH.PAGE (05_channel_scheduler.md). -/
def rSchPage (n : Nat) : RegRef := ⟨0x10000C + 0x40000 * n, 0x104002⟩

/-- SCH.PWR (05_channel_scheduler.md). -/
def rSchPwr (n : Nat) : RegRef := ⟨0x100010 + 0x40000 * n, 0xFA⟩

/-- SCH.SRIDLE (05_channel_scheduler.md). -/
def rSchSridle (n : Nat) : RegRef := ⟨0x100014 + 0x40000 * n, 0⟩

/-- SCH.TGT_FRP (05_channel_scheduler.md). -/
def rSchTgtFrp (n : Nat) (i : Nat) : RegRef := ⟨0x100040 + 8 * i + 0x40000 * n, 0x32006400FA0000⟩

/-- SCH.TGT_ENG (05_channel_scheduler.md). -/
def rSchTgtEng (n : Nat) (i : Nat) : RegRef := ⟨0x100080 + 4 * i + 0x40000 * n, BitVec.ofNat 64 (if i < 4 then 0xFA00FA else if i = 4 then 0 else 0xFA007D)⟩

/-- SCH.SPEED (05_channel_scheduler.md). -/
def rSchSpeed (n : Nat) : RegRef := ⟨0x100100 + 0x40000 * n, 0⟩

/-- SCH.TIM0 (05_channel_scheduler.md). -/
def rSchTim0 (n : Nat) : RegRef := ⟨0x100110 + 0x40000 * n, 0xFFFFFFFF⟩

/-- SCH.TIM1 (05_channel_scheduler.md). -/
def rSchTim1 (n : Nat) : RegRef := ⟨0x100114 + 0x40000 * n, 0x1FFFFFF⟩

/-- SCH.TIM2 (05_channel_scheduler.md). -/
def rSchTim2 (n : Nat) : RegRef := ⟨0x100118 + 0x40000 * n, 0xFFFFFFFF⟩

/-- SCH.TIM3 (05_channel_scheduler.md). -/
def rSchTim3 (n : Nat) : RegRef := ⟨0x10011C + 0x40000 * n, 0xFFFFFFFF⟩

/-- SCH.TIM4 (05_channel_scheduler.md). -/
def rSchTim4 (n : Nat) : RegRef := ⟨0x100120 + 0x40000 * n, 0xFFFFFFFF⟩

/-- SCH.TIM5 (05_channel_scheduler.md). -/
def rSchTim5 (n : Nat) : RegRef := ⟨0x100124 + 0x40000 * n, 0xFFF0FFF⟩

/-- SCH.FLR0 (05_channel_scheduler.md). -/
def rSchFlr0 (n : Nat) : RegRef := ⟨0x100130 + 0x40000 * n, 0⟩

/-- SCH.FLR1 (05_channel_scheduler.md). -/
def rSchFlr1 (n : Nat) : RegRef := ⟨0x100134 + 0x40000 * n, 0⟩

/-- SCH.FLR2 (05_channel_scheduler.md). -/
def rSchFlr2 (n : Nat) : RegRef := ⟨0x100138 + 0x40000 * n, 0⟩

/-- SCH.FLR3 (05_channel_scheduler.md). -/
def rSchFlr3 (n : Nat) : RegRef := ⟨0x10013C + 0x40000 * n, 0⟩

/-- SCH.FLR4 (05_channel_scheduler.md). -/
def rSchFlr4 (n : Nat) : RegRef := ⟨0x100140 + 0x40000 * n, 0⟩

/-- SCH.FLR5 (05_channel_scheduler.md). -/
def rSchFlr5 (n : Nat) : RegRef := ⟨0x100144 + 0x40000 * n, 0⟩

/-- SCH.HOLD (05_channel_scheduler.md). -/
def rSchHold (n : Nat) : RegRef := ⟨0x100200 + 0x40000 * n, 0⟩

/-- SCH.HOLD_STATUS (05_channel_scheduler.md). -/
def rSchHoldStatus (n : Nat) : RegRef := ⟨0x100204 + 0x40000 * n, 0⟩

/-- SCH.REL_ERR (05_channel_scheduler.md). -/
def rSchRelErr (n : Nat) : RegRef := ⟨0x100208 + 0x40000 * n, 0⟩

/-- SCH.QSTATUS (05_channel_scheduler.md). -/
def rSchQstatus (n : Nat) : RegRef := ⟨0x10020C + 0x40000 * n, 0⟩

/-- SCH.RANK_PWR (05_channel_scheduler.md). -/
def rSchRankPwr (n : Nat) : RegRef := ⟨0x100210 + 0x40000 * n, 0⟩

/-- SCH.RD_CNT (05_channel_scheduler.md). -/
def rSchRdCnt (n : Nat) : RegRef := ⟨0x100300 + 0x40000 * n, 0⟩

/-- SCH.WR_CNT (05_channel_scheduler.md). -/
def rSchWrCnt (n : Nat) : RegRef := ⟨0x100308 + 0x40000 * n, 0⟩

/-- SCH.ACT_CNT (05_channel_scheduler.md). -/
def rSchActCnt (n : Nat) : RegRef := ⟨0x100310 + 0x40000 * n, 0⟩

/-- SCH.ROWHIT_CNT (05_channel_scheduler.md). -/
def rSchRowhitCnt (n : Nat) : RegRef := ⟨0x100318 + 0x40000 * n, 0⟩

/-- SCH.DRAIN_CNT (05_channel_scheduler.md). -/
def rSchDrainCnt (n : Nat) : RegRef := ⟨0x100320 + 0x40000 * n, 0⟩

/-- SCH.BREAKIN_CNT (05_channel_scheduler.md). -/
def rSchBreakinCnt (n : Nat) : RegRef := ⟨0x100328 + 0x40000 * n, 0⟩

/-- SCH.URG3_CNT (05_channel_scheduler.md). -/
def rSchUrg3Cnt (n : Nat) : RegRef := ⟨0x100330 + 0x40000 * n, 0⟩

/-- SCH.HAZARD_CNT (05_channel_scheduler.md). -/
def rSchHazardCnt (n : Nat) : RegRef := ⟨0x100338 + 0x40000 * n, 0⟩

/-- SCH.PDX_CNT (05_channel_scheduler.md). -/
def rSchPdxCnt (n : Nat) : RegRef := ⟨0x100340 + 0x40000 * n, 0⟩

/-- SCH.SRX_CNT (05_channel_scheduler.md). -/
def rSchSrxCnt (n : Nat) : RegRef := ⟨0x100348 + 0x40000 * n, 0⟩

/-- SCH.SRE_ABANDON_CNT (05_channel_scheduler.md). -/
def rSchSreAbandonCnt (n : Nat) : RegRef := ⟨0x100350 + 0x40000 * n, 0⟩

/-- REF.CFG (06_refresh_and_disturbance.md). -/
def rRefCfg (n : Nat) : RegRef := ⟨0x100400 + 0x40000 * n, 0x40000⟩

/-- REF.PERIOD (06_refresh_and_disturbance.md). -/
def rRefPeriod (n : Nat) : RegRef := ⟨0x100404 + 0x40000 * n, 0x78783C0⟩

/-- REF.PHASE (06_refresh_and_disturbance.md). -/
def rRefPhase (n : Nat) : RegRef := ⟨0x100408 + 0x40000 * n, 0⟩

/-- REF.RT (06_refresh_and_disturbance.md). -/
def rRefRt (n : Nat) : RegRef := ⟨0x10040C + 0x40000 * n, 0x108⟩

/-- REF.TEMP (06_refresh_and_disturbance.md). -/
def rRefTemp (n : Nat) : RegRef := ⟨0x100410 + 0x40000 * n, 0x5504⟩

/-- REF.STATUS (06_refresh_and_disturbance.md). -/
def rRefStatus (n : Nat) : RegRef := ⟨0x100414 + 0x40000 * n, 0xA4000000⟩

/-- REF.ERR (06_refresh_and_disturbance.md). -/
def rRefErr (n : Nat) : RegRef := ⟨0x100418 + 0x40000 * n, 0⟩

/-- REF.QWF_GEN (06_refresh_and_disturbance.md). -/
def rRefQwfGen (n : Nat) : RegRef := ⟨0x10041C + 0x40000 * n, 0⟩

/-- REF.TRFC (06_refresh_and_disturbance.md). -/
def rRefTrfc (n : Nat) : RegRef := ⟨0x100420 + 0x40000 * n, 0xFFFFFFFFF⟩

/-- REF.TRFC_FLR (06_refresh_and_disturbance.md). -/
def rRefTrfcFlr (n : Nat) : RegRef := ⟨0x100428 + 0x40000 * n, 0⟩

/-- REF.OWED0 (06_refresh_and_disturbance.md). -/
def rRefOwed0 (n : Nat) : RegRef := ⟨0x100430 + 0x40000 * n, 0⟩

/-- REF.OWED1 (06_refresh_and_disturbance.md). -/
def rRefOwed1 (n : Nat) : RegRef := ⟨0x100438 + 0x40000 * n, 0⟩

/-- REF.NEXT_RETRAIN (06_refresh_and_disturbance.md). -/
def rRefNextRetrain (n : Nat) : RegRef := ⟨0x100440 + 0x40000 * n, 0⟩

/-- DST.CFG (06_refresh_and_disturbance.md). -/
def rDstCfg (n : Nat) : RegRef := ⟨0x100480 + 0x40000 * n, 0x80800⟩

/-- DST.STATUS (06_refresh_and_disturbance.md). -/
def rDstStatus (n : Nat) : RegRef := ⟨0x100484 + 0x40000 * n, 0⟩

/-- REF.REF_CNT (06_refresh_and_disturbance.md). -/
def rRefRefCnt (n : Nat) : RegRef := ⟨0x100500 + 0x40000 * n, 0⟩

/-- REF.POST_CNT (06_refresh_and_disturbance.md). -/
def rRefPostCnt (n : Nat) : RegRef := ⟨0x100508 + 0x40000 * n, 0⟩

/-- REF.CATCHUP_CNT (06_refresh_and_disturbance.md). -/
def rRefCatchupCnt (n : Nat) : RegRef := ⟨0x100510 + 0x40000 * n, 0⟩

/-- REF.BACKSTOP_CNT (06_refresh_and_disturbance.md). -/
def rRefBackstopCnt (n : Nat) : RegRef := ⟨0x100518 + 0x40000 * n, 0⟩

/-- REF.SLIP_CNT (06_refresh_and_disturbance.md). -/
def rRefSlipCnt (n : Nat) : RegRef := ⟨0x100520 + 0x40000 * n, 0⟩

/-- DST.NREF_CNT (06_refresh_and_disturbance.md). -/
def rDstNrefCnt (n : Nat) : RegRef := ⟨0x100528 + 0x40000 * n, 0⟩

/-- DST.SPILL_CNT (06_refresh_and_disturbance.md). -/
def rDstSpillCnt (n : Nat) : RegRef := ⟨0x100530 + 0x40000 * n, 0⟩

/-- DST.RFM_CNT (06_refresh_and_disturbance.md). -/
def rDstRfmCnt (n : Nat) : RegRef := ⟨0x100538 + 0x40000 * n, 0⟩

/-- DST.RFM_WAIT_CNT (06_refresh_and_disturbance.md). -/
def rDstRfmWaitCnt (n : Nat) : RegRef := ⟨0x100540 + 0x40000 * n, 0⟩

/-- REF.QWF (06_refresh_and_disturbance.md). -/
def rRefQwf (n : Nat) (i : Nat) : RegRef := ⟨0x100600 + 8 * i + 0x40000 * n, 0x8000⟩

/-- PHY.CFG (07_phy_and_training.md). -/
def rPhyCfg (n : Nat) : RegRef := ⟨0x101000 + 0x40000 * n, 0x18⟩

/-- PHY.STATUS (07_phy_and_training.md). -/
def rPhyStatus (n : Nat) : RegRef := ⟨0x101004 + 0x40000 * n, 0x10000000⟩

/-- PHY.TRAIN (07_phy_and_training.md). -/
def rPhyTrain (n : Nat) : RegRef := ⟨0x101008 + 0x40000 * n, 0⟩

/-- PHY.TRAIN_STATUS (07_phy_and_training.md). -/
def rPhyTrainStatus (n : Nat) : RegRef := ⟨0x10100C + 0x40000 * n, 0⟩

/-- PHY.ALERT_CFG (07_phy_and_training.md). -/
def rPhyAlertCfg (n : Nat) : RegRef := ⟨0x101010 + 0x40000 * n, 0x350⟩

/-- PHY.ALERT_STATUS (07_phy_and_training.md). -/
def rPhyAlertStatus (n : Nat) : RegRef := ⟨0x101014 + 0x40000 * n, 0⟩

/-- PHY.RT_CFG (07_phy_and_training.md). -/
def rPhyRtCfg (n : Nat) : RegRef := ⟨0x101018 + 0x40000 * n, 0x83E8003C⟩

/-- PHY.LSEL (07_phy_and_training.md). -/
def rPhyLsel (n : Nat) : RegRef := ⟨0x10101C + 0x40000 * n, 0⟩

/-- PHY.LDATA (07_phy_and_training.md). -/
def rPhyLdata (n : Nat) : RegRef := ⟨0x101020 + 0x40000 * n, 0⟩

/-- PHY.FTRIM (07_phy_and_training.md). -/
def rPhyFtrim (n : Nat) (i : Nat) : RegRef := ⟨0x101040 + 4 * i + 0x40000 * n, 0⟩

/-- PHY.UTRIM (07_phy_and_training.md). -/
def rPhyUtrim (n : Nat) (i : Nat) : RegRef := ⟨0x101090 + 4 * i + 0x40000 * n, 0⟩

/-- PRB.CFG (07_phy_and_training.md). -/
def rPrbCfg (n : Nat) : RegRef := ⟨0x101100 + 0x40000 * n, 0xC020F00A⟩

/-- PRB.LIM (07_phy_and_training.md). -/
def rPrbLim (n : Nat) : RegRef := ⟨0x101104 + 0x40000 * n, 0x10000020⟩

/-- PRB.STATUS (07_phy_and_training.md). -/
def rPrbStatus (n : Nat) : RegRef := ⟨0x101108 + 0x40000 * n, 0⟩

/-- PRB.ESEL (07_phy_and_training.md). -/
def rPrbEsel (n : Nat) : RegRef := ⟨0x10110C + 0x40000 * n, 0⟩

/-- PRB.EDATA (07_phy_and_training.md). -/
def rPrbEdata (n : Nat) : RegRef := ⟨0x101110 + 0x40000 * n, 0⟩

/-- PHY.KEEP_STATUS (07_phy_and_training.md). -/
def rPhyKeepStatus (n : Nat) : RegRef := ⟨0x101180 + 0x40000 * n, 0xA0000000⟩

/-- PHY.KEEP_CTL (07_phy_and_training.md). -/
def rPhyKeepCtl (n : Nat) : RegRef := ⟨0x101184 + 0x40000 * n, 0⟩

/-- SBI.CFG (07_phy_and_training.md). -/
def rSbiCfg (n : Nat) : RegRef := ⟨0x101200 + 0x40000 * n, BitVec.ofNat 64 (0x1100 * (n % 8))⟩

/-- SBI.CMD (07_phy_and_training.md). -/
def rSbiCmd (n : Nat) : RegRef := ⟨0x101204 + 0x40000 * n, 0⟩

/-- SBI.DATA (07_phy_and_training.md). -/
def rSbiData (n : Nat) : RegRef := ⟨0x101208 + 0x40000 * n, 0⟩

/-- SBI.STATUS (07_phy_and_training.md). -/
def rSbiStatus (n : Nat) : RegRef := ⟨0x10120C + 0x40000 * n, 0⟩

/-- PHY.ALERT_CNT (07_phy_and_training.md). -/
def rPhyAlertCnt (n : Nat) : RegRef := ⟨0x101300 + 0x40000 * n, 0⟩

/-- PHY.REPLAY_CNT (07_phy_and_training.md). -/
def rPhyReplayCnt (n : Nat) : RegRef := ⟨0x101308 + 0x40000 * n, 0⟩

/-- PHY.RT_CNT (07_phy_and_training.md). -/
def rPhyRtCnt (n : Nat) : RegRef := ⟨0x101310 + 0x40000 * n, 0⟩

/-- PHY.RT_CUT_CNT (07_phy_and_training.md). -/
def rPhyRtCutCnt (n : Nat) : RegRef := ⟨0x101318 + 0x40000 * n, 0⟩

/-- PRB.DWELL_CNT (07_phy_and_training.md). -/
def rPrbDwellCnt (n : Nat) : RegRef := ⟨0x101320 + 0x40000 * n, 0⟩

/-- PRB.ABORT_CNT (07_phy_and_training.md). -/
def rPrbAbortCnt (n : Nat) : RegRef := ⟨0x101328 + 0x40000 * n, 0⟩

/-- PRB.THIN_CNT (07_phy_and_training.md). -/
def rPrbThinCnt (n : Nat) : RegRef := ⟨0x101330 + 0x40000 * n, 0⟩

/-- PRB.BIT_CNT (07_phy_and_training.md). -/
def rPrbBitCnt (n : Nat) : RegRef := ⟨0x101338 + 0x40000 * n, 0⟩

/-- PRB.MISS_CNT (07_phy_and_training.md). -/
def rPrbMissCnt (n : Nat) : RegRef := ⟨0x101340 + 0x40000 * n, 0⟩

/-- PRB.REREAD_CNT (07_phy_and_training.md). -/
def rPrbRereadCnt (n : Nat) : RegRef := ⟨0x101348 + 0x40000 * n, 0⟩

/-- SBI.XFER_CNT (07_phy_and_training.md). -/
def rSbiXferCnt (n : Nat) : RegRef := ⟨0x101350 + 0x40000 * n, 0⟩

/-- SBI.ERR_CNT (07_phy_and_training.md). -/
def rSbiErrCnt (n : Nat) : RegRef := ⟨0x101358 + 0x40000 * n, 0⟩

/-- CODE.CFG (08_symbol_code_and_repair.md). -/
def rCodeCfg (n : Nat) : RegRef := ⟨0x102000 + 0x40000 * n, 0x110FA⟩

/-- CODE.MARK (08_symbol_code_and_repair.md). -/
def rCodeMark (n : Nat) (i : Nat) : RegRef := ⟨0x102010 + 4 * i + 0x40000 * n, 0⟩

/-- CODE.CHIPCE (08_symbol_code_and_repair.md). -/
def rCodeChipce (n : Nat) (i : Nat) : RegRef := ⟨0x102040 + 4 * i + 0x40000 * n, 0⟩

/-- CODE.ECS_CFG (08_symbol_code_and_repair.md). -/
def rCodeEcsCfg (n : Nat) : RegRef := ⟨0x102180 + 0x40000 * n, 0x1003C⟩

/-- CODE.ECS_SEL (08_symbol_code_and_repair.md). -/
def rCodeEcsSel (n : Nat) : RegRef := ⟨0x102184 + 0x40000 * n, 0⟩

/-- CODE.ECS_DATA (08_symbol_code_and_repair.md). -/
def rCodeEcsData (n : Nat) : RegRef := ⟨0x102188 + 0x40000 * n, 0⟩

/-- GLU.CFG (08_symbol_code_and_repair.md). -/
def rGluCfg (n : Nat) : RegRef := ⟨0x102200 + 0x40000 * n, 0x20⟩

/-- SCR.CFG (08_symbol_code_and_repair.md). -/
def rScrCfg (n : Nat) : RegRef := ⟨0x102300 + 0x40000 * n, 0⟩

/-- SCR.INTERVAL (08_symbol_code_and_repair.md). -/
def rScrInterval (n : Nat) : RegRef := ⟨0x102304 + 0x40000 * n, 0xF4240⟩

/-- SCR.STATUS (08_symbol_code_and_repair.md). -/
def rScrStatus (n : Nat) : RegRef := ⟨0x102308 + 0x40000 * n, 0⟩

/-- SCR.CURSOR (08_symbol_code_and_repair.md). -/
def rScrCursor (n : Nat) : RegRef := ⟨0x102310 + 0x40000 * n, 0⟩

/-- SCR.LAST_PASS (08_symbol_code_and_repair.md). -/
def rScrLastPass (n : Nat) : RegRef := ⟨0x102318 + 0x40000 * n, 0⟩

/-- SCR.DIAG_START (08_symbol_code_and_repair.md). -/
def rScrDiagStart (n : Nat) : RegRef := ⟨0x102320 + 0x40000 * n, 0⟩

/-- SCR.DIAG_END (08_symbol_code_and_repair.md). -/
def rScrDiagEnd (n : Nat) : RegRef := ⟨0x102328 + 0x40000 * n, 0⟩

/-- SCR.DIAG_CMD (08_symbol_code_and_repair.md). -/
def rScrDiagCmd (n : Nat) : RegRef := ⟨0x102330 + 0x40000 * n, 0⟩

/-- SCR.DIAG_MISS (08_symbol_code_and_repair.md). -/
def rScrDiagMiss (n : Nat) : RegRef := ⟨0x102334 + 0x40000 * n, 0⟩

/-- CODE.RAW_ADDR (08_symbol_code_and_repair.md). -/
def rCodeRawAddr (n : Nat) : RegRef := ⟨0x102500 + 0x40000 * n, 0⟩

/-- CODE.RAW_DATA (08_symbol_code_and_repair.md). -/
def rCodeRawData (n : Nat) (i : Nat) : RegRef := ⟨0x102508 + 8 * i + 0x40000 * n, 0⟩

/-- CODE.RAW_CMD (08_symbol_code_and_repair.md). -/
def rCodeRawCmd (n : Nat) : RegRef := ⟨0x102560 + 0x40000 * n, 0⟩

/-- INL.STATUS (08_symbol_code_and_repair.md). -/
def rInlStatus (n : Nat) : RegRef := ⟨0x102600 + 0x40000 * n, 0⟩

/-- INL.COPY (08_symbol_code_and_repair.md). -/
def rInlCopy (n : Nat) : RegRef := ⟨0x102608 + 0x40000 * n, 0⟩

/-- INL.PPR (08_symbol_code_and_repair.md). -/
def rInlPpr (n : Nat) : RegRef := ⟨0x102610 + 0x40000 * n, 0⟩

/-- CODE.CE_CNT (08_symbol_code_and_repair.md). -/
def rCodeCeCnt (n : Nat) : RegRef := ⟨0x102700 + 0x40000 * n, 0⟩

/-- CODE.UE_CNT (08_symbol_code_and_repair.md). -/
def rCodeUeCnt (n : Nat) : RegRef := ⟨0x102708 + 0x40000 * n, 0⟩

/-- CODE.POISON_CNT (08_symbol_code_and_repair.md). -/
def rCodePoisonCnt (n : Nat) : RegRef := ⟨0x102710 + 0x40000 * n, 0⟩

/-- GLU.FULL_CNT (08_symbol_code_and_repair.md). -/
def rGluFullCnt (n : Nat) : RegRef := ⟨0x102718 + 0x40000 * n, 0⟩

/-- GLU.MERGE_CNT (08_symbol_code_and_repair.md). -/
def rGluMergeCnt (n : Nat) : RegRef := ⟨0x102720 + 0x40000 * n, 0⟩

/-- GLU.HALF_CNT (08_symbol_code_and_repair.md). -/
def rGluHalfCnt (n : Nat) : RegRef := ⟨0x102728 + 0x40000 * n, 0⟩

/-- SCR.LINE_CNT (08_symbol_code_and_repair.md). -/
def rScrLineCnt (n : Nat) : RegRef := ⟨0x102730 + 0x40000 * n, 0⟩

/-- SCR.FIX_CNT (08_symbol_code_and_repair.md). -/
def rScrFixCnt (n : Nat) : RegRef := ⟨0x102738 + 0x40000 * n, 0⟩

/-- SCR.PASS_CNT (08_symbol_code_and_repair.md). -/
def rScrPassCnt (n : Nat) : RegRef := ⟨0x102740 + 0x40000 * n, 0⟩

/-- INL.HIT_CNT (08_symbol_code_and_repair.md). -/
def rInlHitCnt (n : Nat) : RegRef := ⟨0x102748 + 0x40000 * n, 0⟩

/-- CODE.SRAM_CE_CNT (08_symbol_code_and_repair.md). -/
def rCodeSramCeCnt (n : Nat) : RegRef := ⟨0x102750 + 0x40000 * n, 0⟩

/-- INL.ENTRY (08_symbol_code_and_repair.md). -/
def rInlEntry (n : Nat) (i : Nat) : RegRef := ⟨0x108000 + 8 * i + 0x40000 * n, 0⟩


end Sys2Proof.Machine
end

