-- ==== Sys2Proof/Types/Cure.lean ====
section
/-!
DEFINITION. State of the cure unit, the mirror and the fences (10_cure_and_mirroring.md).
-/
namespace Sys2Proof

/-- Mirror states (R310). -/
inductive MState where
  | detached | attaching | mirrored | stalled | degraded
deriving DecidableEq, Repr

/-- Service states of a channel (R314 to R321). -/
inductive ChFence where
  | inService | fenced | recovering
deriving DecidableEq, Repr

/-- What waits for a repair (R312): the miss buffer entry of a slice's line, a Glue-up merge, or patrol scrub. -/
inductive RepWho where
  | fill (slice : Fin 16) (line : Nat)
  | merge (c : Fin 16) (gid : Nat)
  | scrub
deriving DecidableEq, Repr

/-- The outcome of a repair (R313): the twin's line, a marked line, or none. -/
inductive RepAns where
  | line (d : LineData)
  | marked
  | failed
deriving DecidableEq, Repr

/-- A repair in progress (R312): its number, the line's LMS and DAS addresses, who waits, and the outcome once known. -/
structure Repair where
  num : Nat
  lms : Nat
  das : Nat
  who : RepWho
  ans : Option RepAns
deriving DecidableEq, Repr

/-- A Recast in progress (R319, R320): its channel, the next panel of the walk, whether unfence-full takes as stale every panel
whose Blank Map bit is 0, and the panel being copied. -/
structure RecastRun where
  chan  : Fin 16
  next  : Nat
  full  : Bool
  panel : Option Nat
deriving DecidableEq, Repr

/-- An overflow entry of the Cure Record (R322, R325): a first write that waited for a Fill Table entry. -/
structure OverEnt where
  panel : Nat
  valid : BitVec 1024
deriving DecidableEq, Repr

/-- Stages of the power-fail drain (R322): none; started; records written; complete. -/
inductive DrainSt where
  | none | started | recorded | complete
deriving DecidableEq, Repr

/-- Cure unit. -/
structure CureSt where
  mstate : MState
  /-- current epoch E (R295) -/
  e      : BitVec 32
  /-- latest acknowledged MARK of each outbound connection (R298) -/
  marks  : Vector (BitVec 32) 8
  /-- A of R299, and C while DETACHED -/
  attachE : BitVec 32
  cDet   : BitVec 32
  /-- C_D of R302 -/
  cD     : BitVec 32
  /-- cure wait list, at most 8,192 (R129) -/
  waits  : List CureWait
  fence  : Vector ChFence 16
  /-- fence sweeps that run (R315) -/
  sweep  : Vector Bool 16
  /-- CUR.STATUS.stale_side: true is twin (R310) -/
  staleSide : Bool
  /-- Pending Table: panel and latest epoch, by panel, at most 16,384 (R304) -/
  pend   : List (Nat × BitVec 32)
  pendSeen : Bool
  /-- segments the engines have queued on a connection and Tenon has not taken, oldest first (R303, R305, R350) -/
  out    : SMap (List OutSeg)
  /-- the MARK outstanding on each outbound connection, and the last epoch marked there (R305) -/
  markOut : Vector (Option (BitVec 32)) 8
  markSent : Vector (BitVec 32) 8
  /-- FCLK of the last acknowledgement of a MARK on each outbound connection (R22) -/
  markAt : Vector (Option Nat) 8
  /-- outbound connections on which a MARK sent after the attach write has been acknowledged (R311) -/
  attachAck : BitVec 8
  /-- outbound connections on which a MARK has been acknowledged since STALLED was entered (R310) -/
  stallAck : BitVec 8
  /-- writes that wait to be captured and have been counted (CUR.PEND_WAIT_CNT) -/
  capWait : List Nat
  /-- outbound connections whose lost data is to be re-sent once they are OPEN (R529) -/
  resend : BitVec 8
  repairs : List Repair
  nextRep : Nat
  recast : Option RecastRun
  /-- next panel of the attach push, and the panel whose segments wait for their acknowledgement (R311) -/
  pushPos : Nat
  pushWait : Option Nat
  /-- EPOCH_STALL has been raised and the span has not fallen since -/
  stallSeen : Bool
  /-- CUR.FENCE_CMD.result -/
  cmdRes : BitVec 3
  drain  : DrainSt
  drainBeat : Nat
  overs  : List OverEnt
deriving DecidableEq, Repr

/-- The cure unit after reset (R310, CUR.EPOCH). -/
def CureSt.reset : CureSt :=
  { mstate := .detached, e := 1, marks := Vector.replicate 8 0, attachE := 0, cDet := 0, cD := 0, waits := [],
    fence := Vector.replicate 16 .inService, sweep := Vector.replicate 16 false, staleSide := false, pend := [],
    pendSeen := false, out := [], markOut := Vector.replicate 8 none, markSent := Vector.replicate 8 0,
    markAt := Vector.replicate 8 none, attachAck := 0, stallAck := 0, capWait := [],
    resend := 0, repairs := [], nextRep := 0, recast := none, pushPos := 0, pushWait := none, stallSeen := false,
    cmdRes := 0, drain := .none, drainBeat := 0, overs := [] }

end Sys2Proof
end

