-- ==== Sys2Proof/Types/Power.lean ====
section
/-!
DEFINITION. State of the power states, the resets and the drain (17_power_reset_startup.md, R322), and of the Armature, its
firmware and the mailboxes (14_armature_and_mailboxes.md).
-/
namespace Sys2Proof

/-- Power states (R497). -/
inductive PwrState where
  | active | powerDown | selfRefresh | off
deriving DecidableEq, Repr

/-- The reset pins (R502). -/
inductive RstPin where
  | porst | srst
deriving DecidableEq, Repr

/-- Power control. -/
structure PwrSt where
  state  : PwrState
  /-- PFAIL_N is seen low now, and has been seen low since the last reset (PWR.STATUS) -/
  pfail  : Bool
  seen   : Bool
  /-- a reset pin is low -/
  rst    : Option RstPin
  /-- VKEEP within range (R496) -/
  vkeep  : Bool
  /-- the drain in progress was requested (R499), waits for the cured epoch, and E at its step 1 -/
  asked  : Bool
  cureWait : Bool
  e1     : BitVec 32
  cureMet : Bool
  /-- FCLK of the drain's start, and charged dirty MiB then (PWR.DRAIN_LOG) -/
  start  : Nat
  charged : Nat
  /-- PWR.STATE_CMD.result and reason -/
  cmdRes : BitVec 3
  cmdWhy : BitVec 4
  /-- FCLK from which a channel's idle time counts in a power state (R498) -/
  idleFrom : Nat
deriving DecidableEq, Repr

/-- Power control after reset (R497). -/
def PwrSt.reset : PwrSt :=
  { state := .active, pfail := false, seen := false, rst := none, vkeep := true, asked := false, cureWait := false,
    e1 := 0, cureMet := false, start := 0, charged := 0, cmdRes := 0, cmdWhy := 0, idleFrom := 0 }

/-! The Armature (R413 to R422). -/

/-- ARM.STATUS.state. -/
inductive ArmMode where
  | bootRom | running | diverged | tcmError | halted | bootFailed
deriving DecidableEq, Repr

/-- ARM.STATUS.reason. -/
inductive ArmWhy where
  | cold | warm | resume | update
deriving DecidableEq, Repr

/-- A boot ROM run (R419, R422): its reason, its pass (1 or 2), the block requested, the bytes fetched in this pass,
whether the data plane keeps running, and the FCLK of the request in progress (R22). -/
structure BootRun where
  why     : ArmWhy
  pass    : Nat
  block   : Nat
  bytes   : List Byte
  restart : Bool
  asked   : Nat
deriving DecidableEq, Repr

/-- The image that runs: svn, version, key slot, and the digests of its five microcode components (R416, R422). -/
structure ImgInfo where
  svn   : Nat
  ver   : Word32
  slot  : Nat
  ucode : List (BitVec 384)
deriving DecidableEq, Repr

/-- The Armature. -/
structure ArmSt where
  mode    : ArmMode
  why     : ArmWhy
  bootErr : Nat
  boot    : Option BootRun
  img     : Option ImgInfo
  /-- the window of R419, by byte -/
  win     : SMap Byte
  /-- TCM holds the firmware; a boot ROM run clears it first (R503) -/
  tcm     : Bool
  /-- channels whose retained read 0 when the boot ROM started, and whether firmware treats a warm start as cold (R420, R505) -/
  unret   : BitVec 16
  asCold  : Bool
deriving DecidableEq, Repr

/-- The Armature after reset. -/
def ArmSt.reset : ArmSt :=
  { mode := .bootRom, why := .cold, bootErr := 0, boot := none, img := none, win := [], tcm := false, unret := 0, asCold := false }

/-! Mailboxes and firmware (R423 to R443). -/

/-- Mailbox states (R425). -/
inductive MbxMode where
  | idle | pending | busy | done
deriving DecidableEq, Repr

/-- A mailbox: its buffers by byte, the request taken and not yet answered with the steps firmware has made of it, and the
response made and not yet written. -/
structure Mbx where
  mode    : MbxMode
  overrun : Bool
  tag     : BitVec 8
  req     : SMap Byte
  rsp     : SMap Byte
  cur     : Option (List Byte)
  step    : Nat
  ans     : Option (List Byte)
  doneAt  : Nat
deriving DecidableEq, Repr

/-- A mailbox after reset. -/
def Mbx.reset : Mbx :=
  { mode := .idle, overrun := false, tag := 0, req := [], rsp := [], cur := none, step := 0, ans := none, doneAt := 0 }

/-- A firmware record of a post package repair (R442). -/
structure PprRec where
  kind : Nat
  chan : Fin 16
  sub  : Nat
  rank : Nat
  bg   : Nat
  ba   : Nat
  idx  : Nat
  row  : Nat
  beat : Word64
deriving DecidableEq, Repr

/-- What the reference firmware keeps (R426, R428, R432, R437, R439, R441, R442). -/
structure FwSt where
  /-- profile 0 to 3, or 4 Custom -/
  profile : Nat
  /-- appliance warning W in µs, and Twin Timeout in ms -/
  warn    : Nat
  twinMs  : Nat
  /-- group masks of mailboxes 0, 1 and 3, bit g for group g -/
  masks   : Vector (BitVec 16) 4
  /-- the predecessor's Device ID (R307, R432) -/
  pred    : BitVec 16
  /-- the double-fault flag of GET_STATE -/
  double  : Bool
  /-- between step 8 of R420 and Ready -/
  waitMir : Bool
  pprs    : List PprRec
  /-- frames the chunks of a GRANT_AUDIT have reported held (R443) -/
  held    : List Nat
  mbx     : Vector Mbx 4
  /-- the mailbox served last (R425) -/
  rr      : Fin 4
deriving DecidableEq, Repr

/-- Firmware's state before the first image runs (R426, R432, R437). -/
def FwSt.reset : FwSt :=
  { profile := 0, warn := 245, twinMs := 1000, masks := #v[0x01FE, 0x010A, 0, 0x8000], pred := 0, double := false,
    waitMir := false, pprs := [], held := [], mbx := Vector.replicate 4 .reset, rr := 3 }

end Sys2Proof
end

