-- ==== Sys2Proof/Types/Tier.lean ====
section
/-!
DEFINITION. State of panel tiering, lending and jig lists (11_tiering_and_jigs.md).
-/
namespace Sys2Proof

/-- A Heat Ledger entry (R334). -/
structure HeatEnt where
  tag  : Nat
  heat : Nat
  jig  : Option (Fin 4)
deriving DecidableEq, Repr

/-- A Return Table entry (R346). -/
structure RetEnt where
  panel : Nat
  nbr   : Fin 32
  frame : Nat
  dirty : Bool
deriving DecidableEq, Repr

/-- Who asked for a move (R340, R345): the policy, firmware, or a jig engine. -/
inductive MoveWho where
  | policy | firmware | jig (e : Fin 4)
deriving DecidableEq, Repr

/-- A decision to move a panel: up is a promotion. -/
structure MoveDec where
  up  : Bool
  who : MoveWho
  nbr : Option (Fin 32)
deriving DecidableEq, Repr

/-- Where a move stands (R341, R342): decided and not started; at step 1, remapping to the copy its lender holds; waiting for
a lender's answer to ALLOC; holding the lender's frame, its step 3 to come; at step 3, its lines being cleaned; copying. -/
inductive MoveStage where
  | decided | remap | alloc | begin | flush | copy
deriving DecidableEq, Repr

/-- A move record (R340): its number, which is never reused, its engine, the local frame, the neighbour and its frame, the
neighbour asked for by firmware, the neighbours that refused ALLOC, the lines of the copy not read yet and those whose lending
write is not yet acknowledged, and the deferred decision. -/
structure MoveRec where
  num    : Nat
  panel  : Nat
  up     : Bool
  who    : MoveWho
  eng    : Fin 4
  stage  : MoveStage
  pick   : Option (Fin 32)
  tried  : List (Fin 32)
  left   : List Nat
  acks   : List Nat
  lframe : Nat
  nbr    : Fin 32
  rframe : Nat
  defer  : Option MoveDec
deriving DecidableEq, Repr

/-- Neighbour states (R348). -/
inductive NbrMode where
  | off | ok | far | lost
deriving DecidableEq, Repr

/-- A neighbour entry's own state: its state, the measured round trip in 16 ns units, the frames held there, the Beat of
its last refused ALLOC, and the Beat of its last lending read. -/
structure NbrSt where
  mode  : NbrMode
  rtt   : Nat
  use   : Nat
  nakAt : Option Nat
  rdAt  : Nat
deriving DecidableEq, Repr

/-- A step of a jig list (R356). -/
structure JigStep where
  panel : Nat
  count : Nat
  tgt   : Nat
  rel   : Bool
  dl    : Nat
  ok    : Bool
deriving DecidableEq, Repr

/-- A jig engine (R356 to R360): busy, result, the list's address and step count, the steps read so far, absolute deadlines,
the deadline of the last step read and whether each passed its check, the step being staged,
whether its staging has started and the next panel to stage, steps already found late, and Unpin steps issued. -/
structure JigSt where
  busy   : Bool
  result : BitVec 3
  lead   : Nat
  addr   : Nat
  count  : Nat
  prev   : Nat
  good   : Bool
  steps  : List JigStep
  step   : Nat
  begun  : Bool
  pos    : Nat
  lateK  : List Nat
  unpins : List Nat
  late   : Nat
  stop   : Bool
deriving DecidableEq, Repr

/-- A jig engine at rest. -/
def JigSt.idle : JigSt :=
  { busy := false, result := 0, lead := 0, addr := 0, count := 0, prev := 0, good := true, steps := [], step := 0, begun := false, pos := 0, lateK := [], unpins := [],
    late := 0, stop := false }

/-- A reclaim in progress (R354): the neighbour, and the next panel of its walk. -/
structure ReclaimRun where
  nbr  : Fin 32
  next : Nat
deriving DecidableEq, Repr

/-- Tiering. -/
structure TierSt where
  /-- free frames held by the allocator, and its rotating pointer (R332) -/
  cache   : List Nat
  ptr     : Nat
  lowSeen : Bool
  /-- first writes that wait for a frame and have been counted (R333) -/
  waited  : List Nat
  /-- Heat Ledger by set (R334) -/
  heat    : SMap (List HeatEnt)
  /-- the last FCLK with an update of the ledger, and the pools and banks that posted one in it (R335) -/
  heatAt  : Nat
  heatUsed : List (Nat × Nat)
  promoQ  : List Nat
  moves   : List MoveRec
  /-- Return Table by set, oldest first (R346) -/
  ret     : SMap (List RetEnt)
  hand    : Nat
  handOff : Bool
  nbrs    : Vector NbrSt 32
  reclaim : Option ReclaimRun
  reclRes : BitVec 2
  moveRes : BitVec 3
  frameRes : BitVec 2
  frameVal : Nat
  /-- TIR.GRANT_A.en and ready, and the free count and head of GRANT_B, by grant (R352) -/
  grantEn : BitVec 32
  grantRdy : BitVec 32
  grantFree : Vector Nat 32
  grantHead : Vector Nat 32
  jigs    : Vector JigSt 4
deriving DecidableEq, Repr

/-- Tiering after reset. -/
def TierSt.reset : TierSt :=
  { cache := [], ptr := 0, lowSeen := false, waited := [], heat := [], heatAt := 0, heatUsed := [], promoQ := [], moves := [], ret := [],
    hand := 0, handOff := false, nbrs := Vector.replicate 32 ⟨.off, 0, 0, none, 0⟩, reclaim := none, reclRes := 0,
    moveRes := 0, frameRes := 0, frameVal := 0, grantEn := 0, grantRdy := 0, grantFree := Vector.replicate 32 0,
    grantHead := Vector.replicate 32 0, jigs := Vector.replicate 4 .idle }

end Sys2Proof
end

