-- ==== Sys2Proof/Machine/State.lean ====
section
/-!
DEFINITION. The machine's state: everything the spec gives the block, as plain data, the queue of commands that wait, and
the state right after reset.
-/
namespace Sys2Proof.Machine
open Sys2Proof

/-- Faults. The block has none: every command the spec gives an effect completes, and an address that does not exist is
answered ERR_RANGE (R54) or REG_RSP_ERR (R447). -/
inductive Fault where
deriving DecidableEq, Repr

/-- Refusals. -/
inductive Refusal where
  /-- A command with no meaning in this model. Raised by `exec` alone. Safe. -/
  | notModelled (mnemonic : String)
deriving DecidableEq, Repr

/-- The state of the block. -/
structure State where
  /-- commands waiting, first in first out -/
  pending : List Instr
  /-- Beat unit and FCLK count (R31 to R35) -/
  beat  : BeatSt
  /-- register fabric (15_register_conventions.md) -/
  csr   : CsrSt
  /-- event and fault collector (16_events_faults_journal.md) -/
  evt   : EvtSt
  /-- Event Journal -/
  jrn   : JrnSt
  /-- Fabric Request Ports (02_request_ports.md) -/
  ports : Vector Port 8
  /-- notices queued, oldest first, at most 256 (R75) -/
  ntc   : List Notice
  /-- admission and Transaction Table (04_admission.md) -/
  adm   : AdmSt
  tt    : List TtEntry
  /-- results of engine requests that their engines have not taken yet -/
  results : List EngRes
  /-- address decode and Reserve maps (03_address_space.md) -/
  map   : MapSt
  /-- Veneer (09_veneer_cache.md) -/
  vnr   : VnrSt
  /-- the sixteen channels (05 to 08) -/
  chans : Vector ChanSt 16
  /-- the two sideband buses (R226 to R229) -/
  sbus  : Vector SbBus 2
  /-- TOP.HOLD_STATUS.last_end: how the last device Hold ended (R167) -/
  devEnd : Nat
  /-- cure unit, mirror and fences (10_cure_and_mirroring.md) -/
  cure  : CureSt
  /-- tiering, lending and jig lists (11_tiering_and_jigs.md) -/
  tier  : TierSt
  /-- Tenon connections by ID (13_tenon_connections.md) -/
  conns : SMap Conn
  /-- Tenon (12_tenon_transport.md, 13_tenon_connections.md) -/
  ten   : TenSt
  /-- Armature, firmware and mailboxes (14_armature_and_mailboxes.md) -/
  arm   : ArmSt
  fw    : FwSt
  /-- power states, resets and drain (17_power_reset_startup.md) -/
  pwr   : PwrSt
  /-- DRAM contents: byte k of the 80 bytes of the line at coordinate index x is at address 80 × x + k; held exclusive-or
  what an unlisted byte reads as, which is 0 until the channel's contents are lost -/
  dram  : List Host.Cell
  /-- the model's own: for a channel whose DRAM contents were lost, which open contents it holds (not the spec's) -/
  dramGen : SMap Nat
  /-- the model's own: the part of a channel's DRAM that firmware has zeroed and nothing has written since (not the
  spec's) -/
  dramZero : SMap (Option ZeroSpan)
  /-- the model's own counter of free values drawn (not the spec's) -/
  fresh : Nat
deriving DecidableEq, Repr

/-- The block right after PORST_N. -/
def State.reset : State :=
  { pending := [], beat := .reset, csr := .reset, evt := .reset, jrn := .reset, ports := Vector.replicate 8 .reset,
    ntc := [], adm := .reset, tt := [], results := [], map := .reset, vnr := .reset,
    chans := Vector.replicate 16 .reset, sbus := Vector.ofFn SbBus.reset, devEnd := 0, cure := .reset, tier := .reset, conns := [], ten := .reset, arm := .reset,
    fw := .reset, pwr := .reset, dram := [], dramGen := [], dramZero := [], fresh := 0 }

end Sys2Proof.Machine
end

