-- ==== Sys2Proof/Machine/Ops.lean ====
section
/-!
DEFINITION. The named operations that read and write registers, counters, ports, channels and free values.
-/
namespace Sys2Proof.Machine
open Sys2Proof

/-- The value in force of a register. -/
def getReg (s : State) (r : RegRef) : Word64 := smGet 0 s.csr.val r.off ^^^ r.rst

/-- The state with a register's value in force replaced. -/
def setReg (s : State) (r : RegRef) (v : Word64) : State :=
  { s with csr := { s.csr with val := smSet 0 s.csr.val r.off (v ^^^ r.rst) } }

/-- Field `[hi:lo]` of a register, as a number. -/
def fld (s : State) (r : RegRef) (hi lo : Nat) : Nat := fieldOf (getReg s r) hi lo

/-- Bit `i` of a register. -/
def rbit (s : State) (r : RegRef) (i : Nat) : Bool := bitOf (getReg s r) i

/-- The state with field `[hi:lo]` of a register replaced. -/
def setFld (s : State) (r : RegRef) (hi lo x : Nat) : State := setReg s r (putField (getReg s r) hi lo x)

/-- A counter advanced by `k`, modulo 2^64 (R463). -/
def cntAdd (s : State) (r : RegRef) (k : Nat) : State := setReg s r (getReg s r + BitVec.ofNat 64 k)

/-- A counter advanced by one. -/
def cntInc (s : State) (r : RegRef) : State := cntAdd s r 1

/-- A 32-bit RC count advanced by `k`, saturating at 0xFFFF_FFFF. -/
def rcAdd (s : State) (r : RegRef) (k : Nat) : State :=
  setReg s r (BitVec.ofNat 64 (min 0xFFFF_FFFF ((getReg s r).toNat + k)))

/-- A leaf status register with bits set (R453). -/
def rcOr (s : State) (r : RegRef) (v : Word64) : State := setReg s r (getReg s r ||| v)

/-- A port. -/
def port (s : State) (p : Fin 8) : Port := s.ports[p]

/-- The state with one port changed. -/
def modPort (s : State) (p : Fin 8) (f : Port → Port) : State :=
  { s with ports := s.ports.set p (f s.ports[p]) }

/-- A channel. -/
def chan (s : State) (c : Fin 16) : ChanSt := s.chans[c]

/-- The state with one channel changed. -/
def modChan (s : State) (c : Fin 16) (f : ChanSt → ChanSt) : State :=
  { s with chans := s.chans.set c (f s.chans[c]) }

/-- The state with one channel's scheduler changed. -/
def modSch (s : State) (c : Fin 16) (f : SchedSt → SchedSt) : State :=
  modChan s c (fun x => { x with sch := f x.sch })

/-- The state with one channel's refresh state changed. -/
def modRef (s : State) (c : Fin 16) (f : RefSt → RefSt) : State :=
  modChan s c (fun x => { x with ref := f x.ref })

/-- The state with one channel's PHY changed. -/
def modPhy (s : State) (c : Fin 16) (f : PhySt → PhySt) : State :=
  modChan s c (fun x => { x with phy := f x.phy })

/-- The state with one channel's Keeper state changed. -/
def modKeep (s : State) (c : Fin 16) (f : KeepSt → KeepSt) : State :=
  modChan s c (fun x => { x with keep := f x.keep })

/-- The state with one channel's code unit changed. -/
def modCode (s : State) (c : Fin 16) (f : CodeSt → CodeSt) : State :=
  modChan s c (fun x => { x with code := f x.code })

/-- The internal Beat in ns; 0 while invalid (R31, TOP.BEAT). -/
def beatNs (s : State) : Nat := if s.beat.valid then s.beat.half / 2 else 0

/-- The tick of R145: FCLK / 8. -/
def tick (s : State) : Nat := s.beat.fclk / 8

/-- The next state of a command that completes. -/
def ok (s : State) : Host.Outcome State Fault Refusal := .next s

/-- Populated channels: 16, or 8 (MAP.CFG.chan16, R107). -/
def chanCount (s : State) : Nat := if rbit s rMapCfg 1 then 16 else 8

/-- Ready has been declared (ARM.CTL.ready). -/
def isReady (s : State) : Bool := rbit s rArmCtl 31

/-- The power-fail drain has begun, or PFAIL_N is seen low (R65, R322, R499). -/
def inDrain (s : State) : Bool := s.pwr.pfail || decide (s.cure.drain ≠ .none)

/-- Every channel number. -/
def allChans : List (Fin 16) := List.finRange 16

/-- The state with `f` done for each element of a list, in order. -/
def forEach {α : Type} (xs : List α) (s : State) (f : State → α → State) : State := xs.foldl f s

/-- A change of state done only where a condition holds. -/
def doIf (b : Bool) (f : State → State) (s : State) : State := if b then f s else s

/-- A free value of the spec drawn, and the state that counts the draw. -/
def drawFree (w : Nat) (s : State) : BitVec w × State :=
  (Config.freeValue w s.fresh, { s with fresh := s.fresh + 1 })

/-- The level encoding of FLT.LEVEL. -/
def levelCode : Level → Nat
  | .normal => 0
  | .serious => 1
  | .severe => 2

end Sys2Proof.Machine
end

