-- ==== Sys2Proof/Machine/Collect.lean ====
section
/-!
DEFINITION. The event and fault collector (16_events_faults_journal.md): the event IDs, and signalling an event with its
record, window count, level, first-error capture and reactions.
-/
namespace Sys2Proof.Machine
open Sys2Proof

/-- Event `k` of channel `c` (R466). -/
def chEv (c : Fin 16) (k : Nat) : Nat := 192 + 32 * c.val + k

/-- Event `k` of port `p` (R77). -/
def portEv (p : Fin 8) (k : Nat) : Nat := 64 + 6 * p.val + k

/-- The IDs the chapters give an event; an unused ID never signals (R466). -/
def evtUsed (id : Nat) : Bool :=
  decide (id ≤ 7) || (decide (32 ≤ id) && decide (id ≤ 37)) || (decide (64 ≤ id) && decide (id ≤ 113))
  || (decide (128 ≤ id) && decide (id ≤ 136)) || (decide (192 ≤ id) && decide (id ≤ 714))
  || (decide (768 ≤ id) && decide (id ≤ 787)) || (decide (832 ≤ id) && decide (id ≤ 838))
  || (decide (840 ≤ id) && decide (id ≤ 853)) || (decide (896 ≤ id) && decide (id ≤ 904))
  || (decide (912 ≤ id) && decide (id ≤ 920)) || (decide (992 ≤ id) && decide (id ≤ 1007))

/-- Detail records of the channel events, k = 0 to 31, by the "Raised when" columns of R170, R194, R232 and R267. -/
def chDetails : List Nat :=
  [0, 1, 0, 1, 0, 0, 1, 0, 1, 0, 1, 0, 0, 0, 1, 1, 1, 0, 1, 1, 0, 2, 0, 5, 1, 3, 0, 2, 0, 2, 3, 2]

/-- The other events that record values, with their detail counts (R468). -/
def evtDetails : List (Nat × Nat) :=
  [ (0, 2), (4, 2), (5, 2), (6, 2), (7, 2), (32, 1), (33, 1), (35, 1)
  , (129, 2), (132, 1), (133, 1), (134, 1), (135, 2)
  , (707, 2), (709, 1), (710, 4), (713, 2), (714, 4)
  , (769, 1), (773, 3), (777, 2), (779, 2), (787, 2)
  , (843, 1), (844, 1), (845, 1), (846, 1), (847, 2), (848, 2), (850, 2)
  , (896, 1), (897, 1), (898, 2), (899, 2), (900, 1), (901, 3), (902, 1), (903, 1)
  , (912, 2), (913, 1), (914, 1), (915, 2), (917, 1), (918, 3), (919, 1), (920, 1)
  , (992, 3), (994, 1), (995, 1), (997, 1), (1006, 1), (1007, 1) ]

/-- The detail count of a source (R468). -/
def detailCount (id : Nat) : Nat :=
  if 192 ≤ id ∧ id ≤ 703 then chDetails.getD ((id - 192) % 32) 0
  else ((evtDetails.find? (fun e => e.1 = id)).map Prod.snd).getD 0

/-- SQ record fields (R454). -/
def sqPending (v : Word32) : Bool := bitOf v 31
def sqCount (v : Word32) : Nat := fieldOf v 23 16
def sqSeq (v : Word32) : Nat := fieldOf v 15 0

/-- An SQ record after one more event (R454). -/
def sqAdvance (v : Word32) : Word32 :=
  BitVec.ofNat 32 (2 ^ 31 + (satInc 255 (sqCount v)) <<< 16 + (sqSeq v + 1) % 2 ^ 16)

/-- The window record after one more event, and whether the level changed (R470 to R472). `n` is the threshold;
`kill` is a hardware event of kind uncorrectable (R472). -/
def winAdvance (n : Nat) (kill : Bool) (w : WinRec) : WinRec × Bool :=
  let c := satInc 255 w.count
  let hit : Bool := decide (0 < n ∧ w.count < n ∧ c = n)
  if kill && decide (w.level ≠ .severe) then ({ w with count := c, level := .severe }, true)
  else
    match w.level with
    | .normal => if hit then ({ w with count := c, level := .serious }, true) else ({ w with count := c }, false)
    | .serious =>
      if hit && decide (w.run = 3) then ({ w with count := c, level := .severe }, true)
      else ({ w with count := c }, false)
    | .severe => ({ w with count := c }, false)

/-- The reaction mask of an event (R473): not_react, and at a level change the mask of the level entered. -/
def reactMask (cfg : Word64) (changed : Bool) (l : Level) : Nat :=
  let add := if changed then
      match l with
      | .serious => fieldOf cfg 9 5
      | .severe => fieldOf cfg 14 10
      | .normal => 0
    else 0
  fieldOf cfg 4 0 ||| add

/-- The capture of the group after an event (R477). -/
def fecAdvance (id : Nat) (beat : Word64) (o : EvtOrigin) (f : FecRec) : FecRec :=
  if f.valid then { f with more := BitVec.ofNat 8 (satInc 255 f.more.toNat) }
  else { valid := true, src := BitVec.ofNat 5 id, beat := beat, origin := o, more := 0 }

/-- An event's records sent to the journal's queue, or dropped while 64 wait (R478). -/
def jrnEnqueue (s : State) (e : JrnEvt) : State :=
  if s.jrn.queue.length < 64 then { s with jrn := { s.jrn with queue := s.jrn.queue ++ [e] } }
  else cntInc { s with jrn := { s.jrn with drop := true } } rJrnDropCnt

/-- A fence asked for (R314). -/
def askFence (s : State) (c : Fin 16) (code evt : Nat) : State :=
  { s with evt := { s.evt with trigs := s.evt.trigs ++ [⟨c, code, evt⟩] } }

/-- A twin failover request (R474). -/
def failover (s : State) (id : Nat) : State :=
  if s.cure.mstate = .mirrored then
    let s := forEach allChans s (fun s c =>
      if s.cure.fence[c] = .inService ∧ c.val < chanCount s then askFence s c 3 id else s)
    cntInc { s with evt := { s.evt with failover := true } } rFltFailoverCnt
  else { s with evt := { s.evt with foRefused := true } }

/-- The sev reaction (R475). -/
def assertSevere (s : State) (id : Nat) : State :=
  { s with evt := { s.evt with severe := true, sevSrc := s.evt.sevSrc.orElse (fun _ => some (BitVec.ofNat 10 id)) } }

/-- The reactions of an event (R473). `act` lets fence, failover and sev take effect (R469). -/
def react (s : State) (id mask : Nat) (act : Bool) (e : JrnEvt) : State :=
  let s := doIf (mask.testBit 0 && rbit s rJrnCfg 31) (fun s => jrnEnqueue s e) s
  let s := doIf (mask.testBit 1) (fun s =>
    cntInc { s with evt := { s.evt with ipend := s.evt.ipend ||| ((1 : BitVec 1024) <<< id) } } rEvtIrqCnt) s
  let s := doIf (mask.testBit 2 && act && decide (192 ≤ id ∧ id ≤ 703)) (fun s =>
    cntInc (askFence s (Fin.ofNat 16 ((id - 192) / 32)) 2 id) rFltFenceCnt) s
  let s := doIf (mask.testBit 3 && act) (fun s => failover s id) s
  doIf (mask.testBit 4 && act) (fun s => assertSevere s id) s

/-- SRAM_ERR of a channel, or VNR_SRAM_ERR (R472). -/
def wordChecker (id : Nat) : Bool := decide (id = 714) || (decide (192 ≤ id ∧ id ≤ 703) && decide ((id - 192) % 32 = 31))

/-- One event of source `id` (R467 to R477), with its detail records, origin, and for SRAM_ERR and VNR_SRAM_ERR whether
it is of kind uncorrectable. -/
def raiseEvt (s : State) (id : Nat) (ds : List Word32) (o : EvtOrigin) (uncorr forced : Bool) : State :=
  if evtUsed id then
    let rec' := sqAdvance (smGet 0 s.evt.sq id)
    let beat := BitVec.ofNat 64 (beatNs s)
    let cfg := getReg s (rFltCfg id)
    let (w, changed) := winAdvance (fieldOf cfg 63 56) (uncorr && !forced && wordChecker id) (smGet WinRec.empty s.evt.win id)
    let fec := fecAdvance id beat o (smGet FecRec.empty s.evt.fec (id / 32))
    let s := { s with evt := { s.evt with
      sq := smSet 0 s.evt.sq id rec'
      win := smSet WinRec.empty s.evt.win id w
      fec := smSet FecRec.empty s.evt.fec (id / 32) fec } }
    let s := cntInc s rEvtEventCnt
    let s := doIf forced (fun s => cntInc s rEvtForceCnt) s
    let s := doIf (changed && decide (w.level = .serious)) (fun s => cntInc s rFltSeriousCnt) s
    let s := doIf (changed && decide (w.level = .severe)) (fun s => cntInc s rFltSevereCnt) s
    react s id (reactMask cfg changed w.level) (!forced || rbit s rFltCtl 2)
      { beat := beat, level := w.level, forced := forced, src := BitVec.ofNat 10 id,
        count := BitVec.ofNat 8 (sqCount rec'), details := ds.take 8 }
  else s

/-- A hardware event without details or origin. -/
def ev (s : State) (id : Nat) : State := raiseEvt s id [] .none false false

/-- A hardware event with detail records. -/
def evd (s : State) (id : Nat) (ds : List Word32) : State := raiseEvt s id ds .none false false

/-- A hardware event with detail records and the address and request it arises from. -/
def evo (s : State) (id : Nat) (ds : List Word32) (o : EvtOrigin) : State := raiseEvt s id ds o false false

/-- LOCK_VIOLATION with the offset and the MID, which TOP.LOCKV_INFO keeps (R455). -/
def lockViolation (s : State) (off : Nat) (mid : BitVec 12) : State :=
  let s := setReg s rTopLockvInfo (packFields [(63, 1), (48, mid.toNat), (0, off)])
  evo (cntInc s rTopLockvCnt) 4 [BitVec.ofNat 32 off, BitVec.ofNat 32 mid.toNat] { EvtOrigin.none with mid := mid }

/-- The window record of a source. -/
def winOf (s : State) (id : Nat) : WinRec := smGet WinRec.empty s.evt.win id

/-- A source signals an event (R467). -/
def execEventSignal (src : Fin 1024) (ds : List Word32) (o : EvtOrigin) (uncorr : Bool) (s : State) :
    Host.Outcome State Fault Refusal :=
  ok (raiseEvt s src.val ds o uncorr false)

/-- The current window of a source ends (R470, R471); no window ends while the Beat is invalid (R35). -/
def faultWindowEnd (s : State) (src : Nat) : State :=
  if s.beat.valid then
    let n := fld s (rFltCfg src) 63 56
    let w := winOf s src
    let reached : Bool := decide (0 < n ∧ n ≤ w.count)
    let w' : WinRec :=
      if reached then { w with count := 0, run := min 3 (w.run + 1) }
      else { count := 0, run := 0, level := if w.level = .serious then .normal else w.level }
    { s with evt := { s.evt with win := smSet WinRec.empty s.evt.win src w' } }
  else s

def execFaultWindowEnd (src : Fin 1024) (s : State) : Host.Outcome State Fault Refusal :=
  ok (faultWindowEnd s src.val)

/-- A forced event (R469): detail records zero, the MID of the forcing write. -/
def evtForce (s : State) (src : Nat) (mid : BitVec 12) : State :=
  raiseEvt s src (List.replicate (detailCount src) 0) { EvtOrigin.none with mid := mid } false true

def execEvtForce (src : Fin 1024) (mid : BitVec 12) (s : State) : Host.Outcome State Fault Refusal :=
  ok (evtForce s src.val mid)

/-- A Severe source returned to Normal (R471). -/
def levelClear (w : WinRec) : WinRec :=
  if w.level = .severe then { w with level := .normal, run := 0 } else w

/-- FLT.LEVEL_CLR (R471): the named source, or every source. -/
def levelClr (s : State) (all go : Bool) (src : Nat) : State :=
  let win := if all then
      s.evt.win.foldl (fun m e => smSet WinRec.empty m e.1 (levelClear e.2)) s.evt.win
    else if go then smSet WinRec.empty s.evt.win src (levelClear (winOf s src))
    else s.evt.win
  { s with evt := { s.evt with win := win } }

def execLevelClr (all go : Bool) (src : Fin 1024) (s : State) : Host.Outcome State Fault Refusal :=
  ok (levelClr s all go src.val)

/-- FLT.CTL.sev_clr (R475): FAULT_SEVERE falls, and the next source to assert it is recorded. -/
def sevClr (s : State) : State := { s with evt := { s.evt with severe := false, sevSrc := none } }

def execSevClr (s : State) : Host.Outcome State Fault Refusal := ok (sevClr s)

/-- FLT.CTL.fo_clr (R489). -/
def foClr (s : State) : State := { s with evt := { s.evt with failover := false, foRefused := false } }

def execFoClr (s : State) : Host.Outcome State Fault Refusal := ok (foClr s)

/-- FLT.FEC_CLR.open (R477). -/
def fecClr (s : State) (g : Nat) : State :=
  { s with evt := { s.evt with fec := smSet FecRec.empty s.evt.fec g FecRec.empty } }

def execFecClr (g : Fin 32) (s : State) : Host.Outcome State Fault Refusal := ok (fecClr s g.val)

/-- A write to an SQ record (R454, R476): a matching sequence clears pending, count and the interrupt pending bit. -/
def sqAck (s : State) (src : Nat) (v : Word32) : State :=
  let r := smGet 0 s.evt.sq src
  if fieldOf v 15 0 = sqSeq r then
    { s with evt := { s.evt with
        sq := smSet 0 s.evt.sq src (BitVec.ofNat 32 (sqSeq r))
        ipend := s.evt.ipend &&& ~~~ ((1 : BitVec 1024) <<< src) } }
  else s

def execSqAck (src : Fin 1024) (v : Word32) (s : State) : Host.Outcome State Fault Refusal :=
  ok (sqAck s src.val v)

end Sys2Proof.Machine
end

