-- ==== Sys2Proof/Types/Code.lean ====
section
/-!
DEFINITION. Outcomes of the symbol decoder (R237, R238).
-/
namespace Sys2Proof

/-- How a codeword or a line decodes. -/
inductive DecKind where
  | clean | corrected | poison | uncorr
deriving DecidableEq, Repr

/-- A decoded codeword: its outcome, the 32 data symbols, and the positions of the corrected unknown symbols. -/
structure CwRes where
  kind : DecKind
  data : List Nat
  unk  : List Nat
deriving DecidableEq, Repr

/-- A decoded line: its outcome, its data, the chips that take an attribution (R236), and each codeword's outcome. -/
structure LineRes where
  kind  : DecKind
  data  : LineData
  chips : List Nat
  k0    : DecKind
  k1    : DecKind
deriving DecidableEq, Repr

end Sys2Proof
end

