-- ==== Sys2Proof/Machine/Rs.lean ====
section
/-!
DEFINITION. The RS(40,32) code over GF(2^8) (R233 to R238) and the poison pattern (R246). Symbols are numbers below 256.
-/
namespace Sys2Proof.Machine
open Sys2Proof

/-- Multiplication by α = 0x02 modulo x^8 + x^4 + x^3 + x^2 + 1 (R233). -/
def gfX (a : Nat) : Nat :=
  let b := a <<< 1
  if b < 256 then b else b ^^^ 0x11D

/-- Multiplication in GF(2^8), bit by bit of the second factor. -/
def gfMulAux : Nat → Nat → Nat → Nat
  | 0, _, _ => 0
  | n + 1, a, b => (if b % 2 = 1 then a else 0) ^^^ gfMulAux n (gfX a) (b / 2)

/-- Multiplication in GF(2^8). -/
def gfMul (a b : Nat) : Nat := gfMulAux 8 a b

/-- α to a power. -/
def gfPow : Nat → Nat
  | 0 => 1
  | n + 1 => gfX (gfPow n)

/-- The inverse of a nonzero element: its 254th power. -/
def gfInv (a : Nat) : Nat :=
  let sq (x : Nat) := gfMul x x
  let a2 := sq a
  let a3 := gfMul a2 a
  let a12 := sq (sq a3)
  let a15 := gfMul a12 a3
  let a240 := sq (sq (sq (sq a15)))
  let a252 := gfMul a240 a12
  gfMul a252 a2

/-- Sum of two symbol lists, the shorter one padded with zeros. -/
def gfAdd : List Nat → List Nat → List Nat
  | [], ys => ys
  | xs, [] => xs
  | x :: xs, y :: ys => (x ^^^ y) :: gfAdd xs ys

/-- A polynomial, highest coefficient first, times (x + a). -/
def polyMulRoot (p : List Nat) (a : Nat) : List Nat := gfAdd (p ++ [0]) (0 :: p.map (gfMul a))

/-- The generator g(x), highest coefficient first (R233). -/
def rsGen : List Nat := (List.range 8).foldl (fun p i => polyMulRoot p (gfPow i)) [1]

/-- One step of the division by g(x): the eight remainder coefficients, highest first, after one more data symbol. -/
def rsStep (reg : List Nat) (d : Nat) : List Nat :=
  let fb := d ^^^ reg.headD 0
  gfAdd (reg.tail ++ [0]) (rsGen.tail.map (gfMul fb))

/-- The check symbols p0 to p7 of 32 data symbols (R233). -/
def rsChecks (ds : List Nat) : List Nat := ds.foldl rsStep (List.replicate 8 0)

/-- Syndrome j of 40 symbols: the codeword polynomial at α^j. -/
def rsSyn (cw : List Nat) (j : Nat) : Nat :=
  let x := gfPow j
  cw.foldl (fun acc s => gfMul acc x ^^^ s) 0

/-- The eight syndromes. -/
def rsSyns (cw : List Nat) : List Nat := (List.range 8).map (rsSyn cw)

/-- The locator α^(39 − i) of symbol i. -/
def rsLoc (i : Nat) : Nat := gfPow (39 - i)

/-- Syndromes of error values `ys` at locators `xs`. -/
def rsSynOf (xs ys : List Nat) (j : Nat) : Nat :=
  (List.zip xs ys).foldl (fun acc p => acc ^^^ (Nat.repeat (gfMul p.1) j p.2)) 0

/-- The only error values at the given locators that the first syndromes allow. -/
def rsValues (syn xs : List Nat) : List Nat :=
  (List.range xs.length).map fun i =>
    let xi := xs.getD i 0
    let others := xs.eraseIdx i
    let lam := others.foldl polyMulRoot [1]
    let low := lam.reverse
    let num := (List.zip low syn).foldl (fun acc p => acc ^^^ gfMul p.1 p.2) 0
    let den := lam.foldl (fun acc c => gfMul acc xi ^^^ c) 0
    gfMul num (gfInv den)

/-- The error values at positions `ps` that explain all eight syndromes, if any. -/
def rsSolve (syn ps : List Nat) : Option (List Nat) :=
  let xs := ps.map rsLoc
  let ys := rsValues syn xs
  if (List.range 8).all (fun j => rsSynOf xs ys j = syn.getD j 0) then some ys else none

/-- Up to two error positions from four consecutive syndromes of the unknown errors. -/
def rsLocate (t : List Nat) : List Nat :=
  let t0 := t.getD 0 0
  let t1 := t.getD 1 0
  let t2 := t.getD 2 0
  let t3 := t.getD 3 0
  let det := gfMul t1 t1 ^^^ gfMul t0 t2
  if det = 0 then
    if t0 = 0 then []
    else
      let x := gfMul t1 (gfInv t0)
      (List.range 40).filter (fun i => rsLoc i = x)
  else
    let di := gfInv det
    let s1 := gfMul (gfMul t1 t2 ^^^ gfMul t0 t3) di
    let s2 := gfMul (gfMul t2 t2 ^^^ gfMul t1 t3) di
    (List.range 40).filter (fun i => let x := rsLoc i; gfMul x x ^^^ gfMul s1 x ^^^ s2 = 0)

/-- Syndromes freed of the erasures at `es`: each erasure takes one off the number left. -/
def rsFree (syn es : List Nat) : List Nat :=
  es.foldl (fun t e =>
    let x := rsLoc e
    (List.range (t.length - 1)).map (fun j => t.getD (j + 1) 0 ^^^ gfMul x (t.getD j 0))) syn

/-- The codeword with values added at positions. -/
def rsApply (cw ps ys : List Nat) : List Nat :=
  (List.zip ps ys).foldl (fun c p => c.set p.1 (c.getD p.1 0 ^^^ p.2)) cw

/-- The corrected codeword with the unknown positions, where the erasures and at most `maxU` unknown errors explain the
syndromes. -/
def rsTry (cw syn es : List Nat) (maxU : Nat) : Option (List Nat × List Nat) :=
  let us := if maxU = 0 then [] else rsLocate (rsFree syn es)
  let us := us.filter (fun u => u ∉ es)
  if us.length ≤ maxU then
    (rsSolve syn (es ++ us)).map fun ys =>
      (rsApply cw (es ++ us) ys, us.filter (fun u => (List.zip (es ++ us) ys).any (fun p => p.1 = u && p.2 ≠ 0)))
  else none

/-- The symbols a chip contributes to a codeword (R235): four for x4, eight for x8. -/
def chipSyms (x8 : Bool) (c : Nat) : List Nat :=
  if x8 then (List.range 8).map (fun i => 8 * c + i) else (List.range 4).map (fun i => 4 * c + i)

/-- The chip of a symbol (R235). -/
def symChip (x8 : Bool) (i : Nat) : Nat := if x8 then i / 8 else i / 4

/-- The poison pattern p0 to p7 (R246). -/
def poisonPat : List Nat := [0xB5, 0x3A, 0x6E, 0xD1, 0x47, 0x9C, 0x28, 0xF3]

/-- A correction inside the bounds of R236: the width, the erased chips, and how many unknown symbols are accepted. -/
def rsBounded (x8 : Bool) (marks : List Nat) (cw : List Nat) : Option (List Nat × List Nat) :=
  let syn := rsSyns cw
  let es := (marks.map (chipSyms x8)).flatten
  if x8 then
    if marks.isEmpty then rsTry cw syn [] 2 else rsTry cw syn es 0
  else
    match marks.length with
    | 0 =>
      match rsTry cw syn [] 2 with
      | some r => some r
      | none =>
        (List.range 10).findSome? fun c =>
          (rsSolve syn (chipSyms false c)).map fun ys =>
            (rsApply cw (chipSyms false c) ys,
              ((List.zip (chipSyms false c) ys).filter (fun p => p.2 ≠ 0)).map Prod.fst)
    | 1 => rsTry cw syn es 2
    | _ => rsTry cw syn es 0

/-- Poison is recognised while a check is left: not with two x4 marks or one x8 mark (R237). The data are those of the decode
that recognises it. -/
def poisonSeen (x8 : Bool) (marks : List Nat) (cw : List Nat) : Option (List Nat × List Nat) :=
  let cw' := gfAdd cw (List.replicate 32 0 ++ poisonPat)
  let syn := rsSyns cw'
  match x8, marks.length with
  | _, 0 => rsTry cw' syn [] 2
  | false, 1 => rsTry cw' syn ((marks.map (chipSyms false)).flatten) 0
  | _, _ => none

/-- One codeword decoded (R236, R237). `marks` are the chips taken as erasures. -/
def decodeCw (x8 : Bool) (marks : List Nat) (cw : List Nat) : CwRes :=
  match rsBounded x8 marks cw with
  | some (c, us) =>
    { kind := if us.isEmpty then .clean else .corrected, data := c.take 32, unk := us }
  | none =>
    match poisonSeen x8 marks cw with
    | some (c, _) => { kind := .poison, data := c.take 32, unk := [] }
    | none => { kind := .uncorr, data := cw.take 32, unk := [] }

/-- Byte `k` of a raw line. -/
def rawByte (r : RawLine) (k : Nat) : Nat := (r >>> (8 * k)).toNat % 256

/-- The 40 symbols of codeword `w` of a raw line: data bytes 32w to 32w + 31, checks 64 + 8w to 71 + 8w (R234, R263). -/
def rawCw (r : RawLine) (w : Nat) : List Nat :=
  (List.range 32).map (fun i => rawByte r (32 * w + i)) ++ (List.range 8).map (fun j => rawByte r (64 + 8 * w + j))

/-- Bytes, lowest first, as one number. -/
def bytesNat (bs : List Nat) : Nat := bs.foldr (fun b acc => acc * 256 + b) 0

/-- A raw line of 64 data bytes and the checks of its two codewords. -/
def mkRaw (d0 d1 p0 p1 : List Nat) : RawLine := BitVec.ofNat 640 (bytesNat (d0 ++ d1 ++ p0 ++ p1))

/-- Bytes 32w to 32w + 31 of a line. -/
def halfBytes (d : LineData) (w : Nat) : List Nat := (List.range 32).map (fun i => (lineByte d (32 * w + i)).toNat)

/-- A line encoded (R233, R234); poisoned, its checks carry the poison pattern (R246). -/
def encodeLine (d : LineData) (poison : Bool) : RawLine :=
  let a := halfBytes d 0
  let b := halfBytes d 1
  let pat := if poison then poisonPat else []
  mkRaw a b (gfAdd (rsChecks a) pat) (gfAdd (rsChecks b) pat)

/-- The chip a corrected codeword is attributed to, if its corrected symbols all lie in one chip (R236). -/
def attributed (x8 : Bool) (r : CwRes) : List Nat :=
  match r.kind, r.unk with
  | .corrected, u :: us => if us.all (fun v => symChip x8 v = symChip x8 u) then [symChip x8 u] else []
  | _, _ => []

/-- A line's outcome from its two codewords (R238). -/
def lineKind (a b : DecKind) : DecKind :=
  if a = .poison ∨ b = .poison then .poison
  else if a = .uncorr ∨ b = .uncorr then .uncorr
  else if a = .corrected ∨ b = .corrected then .corrected
  else .clean

/-- A raw line decoded with the chips `marks` as erasures (R236 to R238). -/
def decodeLine (x8 : Bool) (marks : List Nat) (r : RawLine) : LineRes :=
  let a := decodeCw x8 marks (rawCw r 0)
  let b := decodeCw x8 marks (rawCw r 1)
  { kind := lineKind a.kind b.kind, data := BitVec.ofNat 512 (bytesNat (a.data ++ b.data)),
    chips := attributed x8 a ++ attributed x8 b, k0 := a.kind, k1 := b.kind }

/-- A stored line of the Veneer decoded: no erasures, and at most 2 unknown symbols in each codeword (R269). -/
def decodeStored (r : RawLine) : LineRes := decodeLine true [] r

end Sys2Proof.Machine
end

