-- ==== Sys2Proof/Machine/Address.lean ====
section
/-!
DEFINITION. Address decode, the Reserve and the maps it holds (03_address_space.md), and reads and writes of DRAM lines.
-/
namespace Sys2Proof.Machine
open Sys2Proof

/-! Geometry (R83, R85, MAP.GEOM). -/

def colBits (s : State) : Nat := fld s rMapGeom 27 24
def bgBits (s : State) : Nat := fld s rMapGeom 23 22
def baBits (s : State) : Nat := fld s rMapGeom 21 20
def cidBits (s : State) : Nat := fld s rMapGeom 19 18
def prankBits (s : State) : Nat := fld s rMapGeom 17 16
def dimmBit (s : State) : Nat := fld s rMapGeom 15 15
def rowBits (s : State) : Nat := fld s rMapGeom 4 0
/-- Bits of the logical rank field (R83). -/
def rankBits (s : State) : Nat := cidBits s + prankBits s + dimmBit s
/-- Tiered mode (MAP.CFG.mode). -/
def tiered (s : State) : Bool := rbit s rMapCfg 0
/-- Channel line index values of one channel (R86). -/
def chanLines (s : State) : Nat := 2 ^ (colBits s + bgBits s + baBits s + rankBits s + rowBits s)
/-- DAS size in 64 KiB units (R86). -/
def dasUnits (s : State) : Nat := chanCount s * chanLines s * 128 / 65536
/-- First excluded-row address in 64 KiB units: the 18 highest row values are excluded (R84, R86). -/
def exclUnits (s : State) : Nat :=
  chanCount s * (chanLines s / 2 ^ rowBits s) * (2 ^ rowBits s - 18) * 128 / 65536
/-- Channel line index values below the excluded rows. -/
def usedLines (s : State) : Nat := chanLines s / 2 ^ rowBits s * (2 ^ rowBits s - 18)
/-- Whether an entry names fields inside MAP.GEOM. -/
def rankOk (s : State) (rank : Nat) : Bool := decide (rank < 2 ^ rankBits s)
/-- Package rank of a logical rank: the rank field above the chip ID (R85). -/
def prankOf (s : State) (rank : Nat) : Nat := rank >>> cidBits s

/-! Decode (R81 to R84). -/

/-- Parity of a number below 2^64. -/
def parity (x : Nat) : Nat :=
  (List.range 64).foldl (fun acc i => acc ^^^ (x >>> i) % 2) 0

/-- The hash added to channel bit `i` of an address (R82). -/
def chanHash (s : State) (a i : Nat) : Nat :=
  let mask := fld s (rMapChash i) 36 0
  let mask := if chanCount s = 16 then mask / 2 * 2 else mask
  if chanCount s = 8 ∧ i = 3 then 0 else parity ((a >>> 11) &&& mask)

/-- Channel of an address (R82). -/
def chanOf (s : State) (a : Nat) : Fin 16 :=
  let n := if chanCount s = 16 then 4 else 3
  Fin.ofNat 16 ((List.range n).foldl (fun acc i => acc + ((a >>> (8 + i)) % 2 ^^^ chanHash s a i) <<< i) 0)

/-- Channel line index of an address (R81). -/
def lineIdxOf (s : State) (a : Nat) : Nat :=
  let up := if chanCount s = 16 then a >>> 12 else a >>> 11
  2 * up + (a >>> 7) % 2

/-- DRAM coordinates of a DAS address (R81 to R84). -/
def coordOf (s : State) (a : Nat) : Coord :=
  let cl := lineIdxOf s a
  let col := cl % 2 ^ colBits s
  let cl := cl >>> colBits s
  let bg := cl % 2 ^ bgBits s
  let cl := cl >>> bgBits s
  let ba := cl % 2 ^ baBits s
  let cl := cl >>> baBits s
  let rank := cl % 2 ^ rankBits s
  let row := (cl >>> rankBits s) % 2 ^ rowBits s
  let h := rbit s rMapCfg 2
  { chan := (chanOf s a).val, sub := (a >>> 6) % 2, rank := rank, row := row, col := col
    bg := if h then bg ^^^ row % 2 ^ bgBits s else bg
    ba := if h then ba ^^^ (row >>> bgBits s) % 2 ^ baBits s else ba }

/-- DAS address of a line of a channel line index (the inverse of R81 and R82). -/
def dasOfLine (s : State) (c : Fin 16) (sub cl : Nat) : Nat :=
  let n := if chanCount s = 16 then 4 else 3
  let base := (cl / 2) <<< (8 + n) + (cl % 2) <<< 7 + sub <<< 6
  (List.range n).foldl (fun acc i => acc + ((c.val >>> i) % 2 ^^^ chanHash s base i) <<< (8 + i)) base

/-- Channel line index and subchannel of a row position: the inverse of R83 and R84. -/
def dasOfCoord (s : State) (c : Fin 16) (k : Coord) : Nat :=
  let h := rbit s rMapCfg 2
  let bg := if h then k.bg ^^^ k.row % 2 ^ bgBits s else k.bg
  let ba := if h then k.ba ^^^ (k.row >>> bgBits s) % 2 ^ baBits s else k.ba
  let cl := (((k.row <<< rankBits s + k.rank) <<< baBits s + ba) <<< bgBits s + bg) <<< colBits s + k.col
  dasOfLine s c k.sub cl

/-- The coordinate index of a line: the layout of FLT.FEC_ADDR for kind DRAM. -/
def coordKey (k : Coord) : Nat :=
  k.chan <<< 36 + k.sub <<< 35 + k.rank <<< 30 + k.bg <<< 27 + k.ba <<< 25 + k.row <<< 7 + k.col

/-- The bank key within a channel: subchannel, rank, bank group, bank. -/
def bankKey (k : Coord) : Nat := ((k.sub * 32 + k.rank) * 8 + k.bg) * 4 + k.ba

/-- A coordinate with the excluded-row test of R84. -/
def isExcluded (s : State) (das : Nat) : Bool := decide (s.map.excl * 65536 ≤ das)

/-! Panels (R87). -/

def panelOf (a : Nat) : Nat := a >>> 16
def panelLine (a : Nat) : Nat := (a >>> 6) % 1024
def regionOf16 (p : Nat) : Nat := p / 256

/-- LMS size in bytes (R79). -/
def lmsTop (s : State) : Nat := fld s rMapLmsTop 22 0 <<< 24
/-- Reserve base in bytes (R78). -/
def rsvBase (s : State) : Nat := fld s rMapRsvBase 20 0 <<< 24
/-- DAS size in bytes. -/
def dasTop (s : State) : Nat := s.map.das * 65536
/-- Number of local frames F (R102). -/
def frameCount (s : State) : Nat := fld s rMapRsvBase 20 0 * 256
/-- Panels the maps are sized for, N of R102. -/
def mapPanels (s : State) : Nat := if tiered s then fld s rMapLmsTop 22 0 * 256 else s.map.das

/-- The components of R102 by MAP.RB index: 0 Blank Map, 1 Stale Map, 2 Placement Map, 3 Frame Map, 4 Fill Record,
5 connection contexts, 6 region keys, 7 Repair Record, 8 firmware data. Sizes in bytes; 0 where not in use. -/
def roundMiB (x : Nat) : Nat := (x + 2 ^ 20 - 1) / 2 ^ 20 * 2 ^ 20
def compSize (s : State) (i : Nat) : Nat :=
  match i with
  | 0 => roundMiB ((mapPanels s + 7) / 8)
  | 1 => roundMiB ((mapPanels s + 7) / 8)
  | 2 => if tiered s then mapPanels s * 8 else 0
  | 3 => if tiered s then roundMiB ((frameCount s + 7) / 8) else 0
  | 4 => 2 ^ 20
  | 5 => 2 ^ 24
  | 6 => 2 ^ 21
  | 7 => 2 ^ 20
  | _ => 2 ^ 28
def compBase (s : State) (i : Nat) : Nat := fld s (rMapRb i) 24 0 <<< 20

/-- Byte offset of a DAS address inside component `i`, if it lies there. -/
def inComp (s : State) (i das : Nat) : Option Nat :=
  if compBase s i ≤ das ∧ das < compBase s i + compSize s i then some (das - compBase s i) else none

/-! Placement Map entries (R100). -/

def peState (e : Word64) : Nat := fieldOf e 63 60
def peOwner (e : Word64) : Nat := fieldOf e 59 44
def peFrame (e : Word64) : Nat := fieldOf e 43 16
/-- An entry with state, owner and frame replaced and the spare field kept (R100). -/
def pePut (e : Word64) (st owner frame : Nat) : Word64 :=
  putField (putField (putField e 63 60 st) 59 44 owner) 43 16 frame
/-- Placement Map entry of a panel. -/
def pmapGet (s : State) (p : Nat) : Word64 := fmGet s.map.pmap p
def pmapSet (s : State) (p : Nat) (e : Word64) : State :=
  { s with map := { s.map with pmap := fmSet s.map.pmap p e } }
/-- This Shuzer's Device ID. -/
def deviceId (s : State) : Nat := fld s rTopDeviceId 15 0

/-! Map lines as the lines of the Reserve (R89, R100, R102). -/

/-- 64 bytes of a bit map from bit `b`. -/
def bitsLine (m : FMap Bool) (b : Nat) : LineData :=
  let fillV : LineData := if m.fill then BitVec.allOnes 512 else 0
  m.ex.foldl (fun acc e =>
    if b ≤ e.1 ∧ e.1 < b + 512 then
      (if e.2 then acc ||| ((1 : LineData) <<< (e.1 - b)) else acc &&& ~~~ ((1 : LineData) <<< (e.1 - b)))
    else acc) fillV

/-- A bit map with 512 bits from `b` replaced. -/
def setBitsLine (m : FMap Bool) (b : Nat) (d : LineData) : FMap Bool :=
  (List.range 512).foldl (fun m i => fmSet m (b + i) (d.getLsbD i)) m

/-- The map line a DAS address holds, if it lies in a map of the Reserve. -/
def mapLineAt (s : State) (das : Nat) : Option LineData :=
  match inComp s 0 das with
  | some o => some (bitsLine s.map.blank (o / 64 * 512))
  | none =>
    match inComp s 1 das with
    | some o => some (bitsLine s.map.stale (o / 64 * 512))
    | none =>
      match inComp s 2 das with
      | some o => some ((List.range 8).foldl (fun d k => setLineWord d k (pmapGet s (o / 64 * 8 + k))) 0)
      | none => (inComp s 3 das).map (fun o => bitsLine s.map.frames (o / 64 * 512))

/-- A map line replaced by a write to its DAS address, and its Placement Cache entry dropped (R80). -/
def setMapLine (s : State) (das : Nat) (d : LineData) : State :=
  let drop (n : Nat) (m : MapSt) : MapSt :=
    { m with pcache := smSet [] m.pcache (n % 4096) ((smGet [] m.pcache (n % 4096)).filter (fun e => e.1 ≠ n)) }
  match inComp s 0 das with
  | some o => { s with map := drop (o / 64) { s.map with blank := setBitsLine s.map.blank (o / 64 * 512) d } }
  | none =>
    match inComp s 1 das with
    | some o => { s with map := drop (o / 64) { s.map with stale := setBitsLine s.map.stale (o / 64 * 512) d } }
    | none =>
      match inComp s 2 das with
      | some o =>
        let s := (List.range 8).foldl (fun s k => pmapSet s (o / 64 * 8 + k) (lineWord d k)) s
        { s with map := drop (o / 64) { s.map with damaged := s.map.damaged.filter (fun n => n ≠ o / 64) } }
      | none =>
        match inComp s 3 das with
        | some o => { s with map := { s.map with frames := setBitsLine s.map.frames (o / 64 * 512) d } }
        | none => s

/-! DRAM lines. -/

/-- A line of DRAM, by its coordinate index, lies in the part of its channel that firmware has zeroed. -/
def inZero (s : State) (x : Nat) : Bool :=
  match smGet none s.dramZero (x / 2 ^ 36) with
  | none => false
  | some z =>
    let row := x / 2 ^ 7 % 2 ^ 18
    decide (row < z.top) && (decide (z.row < row) || (decide (row = z.row) && decide (z.rank ≤ x / 2 ^ 30 % 32)))

/-- What a byte of DRAM reads as while nothing is listed for it: 0, or an open value after a loss of contents. -/
def dramRest (s : State) (a : Nat) : Byte :=
  match smGet 0 s.dramGen (a / 80 / 2 ^ 36) with
  | 0 => 0
  | g => if inZero s (a / 80) then 0 else Config.lostByte g a

/-- One byte of DRAM. -/
def dramByte (s : State) (a : Nat) : Byte := smGet 0 s.dram a ^^^ dramRest s a

/-- The 80 bytes stored at a coordinate. -/
def dramLine (s : State) (k : Coord) : RawLine :=
  BitVec.ofNat 640 (bytesNat ((List.range 80).map (fun i => (dramByte s (80 * coordKey k + i)).toNat)))

/-- The 80 bytes at a coordinate replaced. -/
def setDramLine (s : State) (k : Coord) (r : RawLine) : State :=
  let put (m : SMap Byte) (i : Nat) : SMap Byte :=
    smSet 0 m (80 * coordKey k + i) (BitVec.ofNat 8 (rawByte r i) ^^^ dramRest s (80 * coordKey k + i))
  { s with dram := (List.range 80).foldl put s.dram }

/-- The symbols of a line as stored: a line of a map of the Reserve is the encoding of the map's contents. -/
def memRaw (s : State) (das : Nat) (k : Coord) : RawLine :=
  match mapLineAt s das with
  | some d => encodeLine d false
  | none => dramLine s k

/-- A line written: its symbols at its coordinate, and the map it belongs to. -/
def memWrite (s : State) (das : Nat) (k : Coord) (r : RawLine) : State :=
  let s := setDramLine s k r
  match mapLineAt s das with
  | some _ => setMapLine s das (decodeStored r).data
  | none => s

/-- A write of a map line of the Reserve on its way to the channel: decode and cache hold the new bytes from then on (R80). -/
def mapWrite (s : State) (das : Nat) (mask : LineMask) (d : LineData) : State :=
  match mapLineAt s das with
  | some old => setMapLine s das (mergeLine mask d old)
  | none => s

/-! Blank state (R88, R89). -/

/-- The Placement Cache lookup of map line `n` (R101): hit or miss counted, not-recently-used replacement. Of several ways not
recently used the one cached first is replaced (DESIGN CHOICE, log entry 81: R101 names none). -/
def pcLookup (s : State) (n : Nat) : State :=
  let set := smGet [] s.map.pcache (n % 4096)
  let mark (l : List (Nat × Bool)) : List (Nat × Bool) :=
    let l := l.map (fun e => if e.1 = n then (n, true) else e)
    if l.all Prod.snd then l.map (fun e => (e.1, decide (e.1 = n))) else l
  if set.any (fun e => e.1 = n) then
    cntInc { s with map := { s.map with pcache := smSet [] s.map.pcache (n % 4096) (mark set) } } rMapPcHitCnt
  else
    let set := if set.length < 16 then set else eraseFirst (fun e => !e.2) set
    let set := if set.length < 16 then set else set.tail
    cntInc { s with map := { s.map with
      pcache := smSet [] s.map.pcache (n % 4096) (mark (set ++ [(n, false)])) } } rMapPcMissCnt

/-- The fill entry of a panel. -/
def fillOf (s : State) (p : Nat) : Option FillEnt := s.map.fill.find? (fun e => e.panel = p)

/-- The Blank Summary bit of a panel's region; 0 while a rebuild runs (R106). -/
def summaryBit (s : State) (p : Nat) : Bool :=
  decide (s.map.bcmd ≠ some .rebuild) && fmGet s.map.summary (regionOf16 p)

/-- The Placement Map gives no placement for a panel: its line is damaged, or its state is reserved (R99). -/
def placeBad (s : State) (p : Nat) : Bool :=
  tiered s && (s.map.damaged.contains (p / 8) || decide (4 < peState (pmapGet s p)))

/-- A panel's class as seen by an access to a line (R88); a panel without a placement is served as R99 says. -/
def classOf (s : State) (a : Nat) : PanelClass :=
  let p := panelOf a
  match fillOf s p with
  | some f => .filling (f.valid.getLsbD (panelLine a))
  | none =>
    if summaryBit s p then .blank
    else if tiered s then (if peState (pmapGet s p) = 0 ∧ !placeBad s p then .blank else .written)
    else if fmGet s.map.blank p then .blank else .written

/-- The Placement Cache access that step 4 of R88 makes. -/
def classLookup (s : State) (a : Nat) : State :=
  let p := panelOf a
  if (fillOf s p).isSome ∨ summaryBit s p then s
  else pcLookup s (if tiered s then p / 8 else p / 512)

/-- Blank Map bit of a panel set to `v` with the Blank Summary kept (R91 step 4, R96 step 5). -/
def setBlank (s : State) (p : Nat) (v : Bool) : State :=
  let b := fmSet s.map.blank p v
  let g := regionOf16 p
  let all := (List.range 256).all (fun i => fmGet b (256 * g + i))
  { s with map := { s.map with blank := b, summary := fmSet s.map.summary g (v && all) } }

/-! Requests (R54, R79, R80). -/

/-- MIDs that may use the aperture (R80). -/
def mayAperture (mid : BitVec 12) : Bool :=
  decide (0x800 ≤ mid.toNat ∧ mid.toNat ≤ 0x80A) || decide (0x810 ≤ mid.toNat ∧ mid.toNat ≤ 0x817)

/-- Whether a request takes the Reserve aperture. -/
def isAperture (mid : BitVec 12) (a : BitVec 48) : Bool := mayAperture mid && a.getLsbD 47

/-- DAS address of an aperture access. -/
def apertureDas (a : BitVec 48) : Nat := a.toNat % 2 ^ 47

/-- The DAS address of a written or filling panel's line while the panel is local (R41, R81). -/
def dasOf (s : State) (a : Nat) : Option Nat :=
  if tiered s then
    let e := pmapGet s (panelOf a)
    if peState e = 1 ∨ peState e = 4 then some (peFrame e * 65536 + a % 65536) else none
  else some a

/-- A line's address. -/
def lineAddr (a : Nat) : Nat := a / 64 * 64

end Sys2Proof.Machine
end

