-- ==== Sys2Proof/Machine/Phy.lean ====
section
/-!
DEFINITION. PHY, Keeper, training, alert replay, retraining, probing and sideband (07_phy_and_training.md).
-/
namespace Sys2Proof.Machine
open Sys2Proof

/-! Clocks. -/

/-- Data rate of a channel in MT/s (SCH.SPEED). -/
def dataRate (s : State) (c : Fin 16) : Nat := 4800 + 400 * fld s (rSchSpeed c.val) 3 0
/-- Nanoseconds as DRAM clocks, rounded up. -/
def nsToCk (s : State) (c : Fin 16) (ns : Nat) : Nat := (ns * dataRate s c + 1999) / 2000
/-- DRAM clocks as nanoseconds, rounded up. -/
def ckToNs (s : State) (c : Fin 16) (ck : Nat) : Nat := (ck * 2000 + dataRate s c - 1) / dataRate s c
/-- DRAM-clock time of the present MCLK edge; one MCLK is four DRAM clocks (R137). -/
def nowCk (s : State) (c : Fin 16) : Nat := 4 * (chan s c).sch.mclk
/-- Logical ranks of a channel (R175). -/
def rankCount (s : State) : Nat := 2 ^ rankBits s

/-! Lanes (R196, R199, R200). -/

def laneKey (prank sub lane : Nat) : Nat := (prank * 2 + sub) * 40 + lane
def nibKey (prank sub nib : Nat) : Nat := (prank * 2 + sub) * 10 + nib
def laneGet (p : PhySt) (k : Nat) : LaneSt := smGet LaneSt.zero p.lanes k
def laneSet (p : PhySt) (k : Nat) (l : LaneSt) : PhySt := { p with lanes := smSet LaneSt.zero p.lanes k l }

/-- A signed 8-bit field of a trim register. -/
def trimFld (v : Word64) (hi lo : Nat) : Int := (BitVec.ofNat 8 (fieldOf v hi lo)).toInt

/-- Trim sum of a nibble's field on a package rank: factory plus the user trim in force (R200, R201). -/
def trimSum (s : State) (c : Fin 16) (prank sub nib hi lo : Nat) : Int :=
  trimFld (getReg s (rPhyFtrim c.val (10 * sub + nib))) hi lo
    + trimFld (smGet 0 (chan s c).phy.utrim (nibKey prank sub nib)) hi lo

/-- PHY.UTRIM comes into force on a package rank (R201). -/
def takeTrims (s : State) (c : Fin 16) (prank : Nat) : State :=
  modPhy s c fun p => { p with
    utrim := (List.range 20).foldl (fun m i =>
      smSet 0 m (nibKey prank (i / 10) (i % 10)) (getReg s (rPhyUtrim c.val i) &&& 0xFFFFFF)) p.utrim }

/-- A value clamped to 0 to `m` (R200). -/
def clampTo (m : Nat) (x : Int) : Nat := min m x.toNat

/-- Whether the clamp changes the value. -/
def clamps (m : Nat) (x : Int) : Bool := decide (x < 0) || decide ((m : Int) < x)

/-- The applied settings of one lane and, with lane 0 of its nibble, of the nibble's Vref (R200). -/
def applyLane (s : State) (c : Fin 16) (prank sub lane : Nat) : State :=
  let nib := lane / 4
  let k := laneKey prank sub lane
  let l := laneGet (chan s c).phy k
  let rd := (l.rdTrain : Int) + trimSum s c prank sub nib 7 0
  let wr := (l.wrTrain : Int) + trimSum s c prank sub nib 15 8
  let vk := nibKey prank sub nib
  let vr := ((smGet 0 (chan s c).phy.vrefT vk : Nat) : Int) + trimSum s c prank sub nib 23 16
  let s := modPhy s c fun p =>
    let p := laneSet p k { l with rdDly := clampTo 1023 rd, wrDly := clampTo 1023 wr }
    { p with vrefA := smSet 0 p.vrefA vk (clampTo 255 vr) }
  let sat := clamps 1023 rd || clamps 1023 wr || (decide (lane % 4 = 0) && clamps 255 vr)
  doIf sat (fun s => evd s (chEv c 19) (detail32 lane)) s

/-- The applied settings of a package rank (R200, R201). -/
def applyPrank (s : State) (c : Fin 16) (prank : Nat) : State :=
  forEach (List.range 2) s fun s sub => forEach (List.range 40) s fun s lane => applyLane s c prank sub lane

/-! Keeper (R203 to R206). -/

/-- Every rank of the channel is in self-refresh. -/
def allSr (s : State) (c : Fin 16) : Bool := decide ((chan s c).sch.sr = .selfRefresh)

/-- Steps 2 to 4 of a hand-over (R203). -/
def handoverSteps (s : State) (c : Fin 16) (keep : Bool) : State :=
  modKeep s c fun k => { k with owner := true, handovers := k.handovers + 1, retained := keep }

/-- PHY.KEEP_CTL.handover (R203). -/
def handover (s : State) (c : Fin 16) : State :=
  if allSr s c && !(chan s c).keep.owner then handoverSteps s c true else s

def execHandover (c : Fin 16) (s : State) : Host.Outcome State Fault Refusal := ok (handover s c)

/-- PHY.KEEP_CTL.takeback (R205). -/
def takeback (s : State) (c : Fin 16) : State :=
  if (chan s c).phy.pllLock then modKeep s c fun k => { k with owner := false } else s

def execTakeback (c : Fin 16) (s : State) : Host.Outcome State Fault Refusal := ok (takeback s c)

/-- Every populated channel is HELD under a device Hold (TOP.HOLD_STATUS.state). -/
def devHeld (s : State) : Bool :=
  (allChans.any fun c => decide (c.val < chanCount s) && ((chan s c).sch.inDev || (chan s c).sch.devNext)) &&
    allChans.all fun c => decide (chanCount s ≤ c.val) || decide ((chan s c).sch.hold = .held)

/-- PHY.KEEP_CTL.discard (R206). -/
def discard (s : State) (c : Fin 16) : State :=
  if devHeld s then ev (modKeep s c fun k => { k with retained := false }) (chEv c 20) else s

def execDiscard (c : Fin 16) (s : State) : Host.Outcome State Fault Refusal := ok (discard s c)

/-- PHY.KEEP_CTL.clr_lost. -/
def clrLost (s : State) (c : Fin 16) : State := modKeep s c fun k => { k with lost := false }

def execClrLost (c : Fin 16) (s : State) : Host.Outcome State Fault Refusal := ok (clrLost s c)

/-- The PHY PLL loses lock (R205). -/
def pllLoss (s : State) (c : Fin 16) : State := modPhy s c fun p => { p with pllLock := false }

def execPllLockLoss (c : Fin 16) (s : State) : Host.Outcome State Fault Refusal := ok (pllLoss s c)

/-! Training (R207 to R210). -/

/-- PHY.STATUS.train encoding. -/
def trainCode : TrainState → Nat
  | .untrained => 0
  | .training => 1
  | .trained => 2
  | .failed => 3

/-- PHY.TRAIN_STATUS. -/
def trainStatus (p : PhySt) : Word64 :=
  packFields [(31, flag p.run.isSome), (30, flag p.info.fail), (26, p.info.step.toNat), (24, p.info.prank.toNat),
    (23, flag p.info.subch), (19, p.info.chip.toNat)]

/-- A run fails at a step: TRAIN_FAIL with PHY.TRAIN_STATUS (R209). -/
def trainFail (s : State) (c : Fin 16) (i : TrainInfo) : State :=
  let s := modPhy s c fun p => { p with train := .failed, run := none, info := { i with fail := true } }
  evd s (chEv c 15) [(trainStatus (chan s c).phy).setWidth 32]

/-- A hardware fence of a channel in service (R314). -/
def fenceIfInService (s : State) (c : Fin 16) (code : Nat) : State :=
  if s.cure.fence[c] = .inService then askFence s c code 0xFFFF_FFFF else s

/-- PHY.TRAIN.go is accepted before Ready and while the channel is HELD, and not while PFAIL_N is seen low (R208, R507). -/
def trainAccepted (s : State) (c : Fin 16) : Bool :=
  !s.pwr.pfail && (!isReady s || decide ((chan s c).sch.hold = .held)) && (chan s c).phy.run.isNone

/-- Steps 1 and 2 of a cold or warm run: the PLL locks and the PHY takes the pins back (R205, R208). They come with the run's
go (log entry 87). -/
def trainOpen (s : State) (c : Fin 16) : State :=
  modKeep (modPhy s c fun p => { p with pllLock := true }) c fun k => { k with owner := false }

/-- PHY.TRAIN.go with a mode (R208). In cold mode with retained data the run takes the pins back and fails at step 3
(R206). -/
def trainGo (s : State) (c : Fin 16) (m : TrainMode) : State :=
  if trainAccepted s c then
    let s := if m = .retrain then s else trainOpen s c
    if m = .cold ∧ (chan s c).keep.retained then ev (trainFail s c ⟨true, 3, 0, false, 15⟩) (chEv c 20)
    else modPhy s c fun p => { p with
      run := some m, train := .training, info := ⟨false, if m = .retrain then 5 else 3, 0, false, 15⟩ }
  else s

def execTrainCold (c : Fin 16) (s : State) : Host.Outcome State Fault Refusal := ok (trainGo s c .cold)
def execTrainWarm (c : Fin 16) (s : State) : Host.Outcome State Fault Refusal := ok (trainGo s c .warm)
def execTrainRetrain (c : Fin 16) (s : State) : Host.Outcome State Fault Refusal := ok (trainGo s c .retrain)

/-- Package ranks of a channel. -/
def prankCount (s : State) : Nat := 2 ^ (prankBits s + dimmBit s)

/-- What a run found for one lane: the read delay and the host taps at step 11, the write delay at step 12, and at step 14 the
edges of the eye; `n` is the first step not completed (R208, R211, R220). -/
def laneFound (rdfe : Bool) (reach : Int) (n : Nat) (f : LaneFound) (l : LaneSt) : LaneSt :=
  let l := if 11 < n then { l with
      rdTrain := f.rd.val, dfe1 := if rdfe then f.dfe1 else 0, dfe2 := if rdfe then f.dfe2 else 0 } else l
  let l := if 12 < n then { l with wrTrain := f.wr.val } else l
  if 14 < n then { l with eL := -(min (f.eL.val : Int) reach), eR := min (f.eR.val : Int) reach, recen := 0 } else l

/-- The values that the steps before step `n` of a run found, put in force on every package rank; at the end of a run that
succeeds with retraining windows off, the user trims too (R200, R201, R208, R211, R220). -/
def trainApply (s : State) (c : Fin 16) (n : Nat) (lanes : List LaneFound) (vrefs : List VrefFound) : State :=
  let reach := (fld s (rPrbLim c.val) 5 0 : Int)
  let rdfe := rbit s (rPhyCfg c.val) 4
  let s := forEach lanes s fun s f => modPhy s c fun p =>
    let k := laneKey f.prank.val f.sub.val f.lane.val
    laneSet p k (laneFound rdfe reach n f (laneGet p k))
  let s := forEach (if 11 < n then vrefs else []) s fun s v => modPhy s c fun p =>
    { p with vrefT := smSet 0 p.vrefT (nibKey v.prank.val v.sub.val v.nibble.val) v.vref.toNat }
  forEach (List.range (prankCount s)) s fun s pr =>
    applyPrank (doIf (decide (14 < n) && !rbit s (rPhyRtCfg c.val) 31) (fun s => takeTrims s c pr) s) c pr

/-- Every rank active, with the timing of a self-refresh exit (R160), and p and d restarted (R183). -/
def ranksUp (s : State) (c : Fin 16) : State :=
  let s := modSch s c fun q => { q with
    sr := .active, sreDone := 0, banks := [],
    ranks := (List.range (2 ^ rankBits s)).foldl (fun m r => smSet RankSt.idle m r
      { RankSt.idle with ready := 4 * q.mclk + fld s (rSchTim5 c.val) 27 16
                         rdReady := 4 * q.mclk + fld s (rSchTim5 c.val) 11 0 }) [] }
  modRef s c fun r => { r with
    owed := [], debit := [], limSeen := [], backstop := [], gen := r.gen + 1
    xsUntil := 4 * (chan s c).sch.mclk + fld s (rSchTim5 c.val) 27 16 }

/-- DRAM contents of a channel that are no longer guaranteed become values the spec leaves open. -/
def loseDram (s : State) (c : Fin 16) : State :=
  { s with
    dram := s.dram.filter (fun e => e.1 / 80 / 2 ^ 36 ≠ c.val)
    dramGen := smSet 0 s.dramGen c.val (s.fresh + 1)
    dramZero := smSet none s.dramZero c.val none
    fresh := s.fresh + 1 }

/-- What the completed steps of a run did to lock, pins, DRAM and retained data: `n` is the first step not completed. A run
that fails at step 1 has not locked the PLL, and one that fails at step 1 or 2 leaves the pins with the Keeper (R209). -/
def trainSteps (s : State) (c : Fin 16) (m : TrainMode) (n : Nat) : State :=
  let s := if m ≠ .retrain ∧ n ≤ 1 then modPhy s c fun p => { p with pllLock := false } else s
  let s := if m ≠ .retrain ∧ n ≤ 2 then modKeep s c fun k => { k with owner := true } else s
  match m with
  | .retrain => s
  | .cold => doIf (decide (7 < n)) (fun s => ranksUp s c) (doIf (decide (2 < n)) (fun s => loseDram s c) s)
  | .warm =>
    if n ≤ 2 then s
    else if n ≤ 6 then handoverSteps s c (chan s c).keep.retained
    else ranksUp (modKeep s c fun k => { k with retained := false }) c

/-- A training run ends (R209): the steps it completed, then trained with the estimators loaded, or failed with the
outcome of its mode and step. -/
def trainDone (s : State) (c : Fin 16) (e : TrainEnd) : State :=
  match (chan s c).phy.run with
  | none => s
  | some m =>
    let n := match e.fail with | some i => i.step.toNat | none => 15
    let s := cntAdd (trainSteps s c m n) (rSbiXferCnt c.val) e.xfers
    let s := trainApply s c n e.lanes e.vrefs
    let s := doIf (decide (m ≠ .retrain) && decide (7 < n)) (fun s => modRef s c fun r =>
      { r with rfmReq := e.rfmReq, raaimt := e.raaimt.toNat, raammt := e.raammt.toNat, raa := [] }) s
    match e.fail with
    | none => modPhy s c fun p =>
        { p with run := none, train := .trained, pranks := BitVec.ofNat 4 (2 ^ prankCount s - 1), streak := 0, oscFail := [], carry := []
                 info := ⟨false, 14, 0, false, 15⟩ }
    | some i =>
      let s := trainFail (modPhy s c fun p => { p with
        pranks := e.pranks &&& BitVec.ofNat 4 (2 ^ prankCount s - 1) }) c i
      if m = .retrain ∨ (m = .warm ∧ 7 ≤ n) then fenceIfInService s c 1 else s

def execTrainDone (c : Fin 16) (e : TrainEnd) (s : State) : Host.Outcome State Fault Refusal := ok (trainDone s c e)

/-- A retrain run whose channel has left HELD ends at the end of its current step; what the completed steps found is in force
(R210). -/
def trainAbort (s : State) (c : Fin 16) (step : BitVec 4) (lanes : List LaneFound) (vrefs : List VrefFound) : State :=
  if (chan s c).phy.run = some .retrain ∧ (chan s c).sch.hold ≠ .held then
    let s := trainApply s c (min 14 (step.toNat + 1)) lanes vrefs
    fenceIfInService (trainFail s c ⟨true, step, 0, false, 15⟩) c 1
  else s

def execTrainAbort (c : Fin 16) (step : BitVec 4) (lanes : List LaneFound) (vrefs : List VrefFound) (s : State) :
    Host.Outcome State Fault Refusal :=
  ok (trainAbort s c step lanes vrefs)

/-! Alerts (R213 to R216). -/

/-- LINK_FAIL: the channel reads failed, and a channel in service is fenced (R216, R314). -/
def linkFail (s : State) (c : Fin 16) : State :=
  let s := modPhy s c fun p => { p with train := .failed }
  let s := rcOr s (rPhyAlertStatus c.val) (packFields [(28, 1)])
  let s := ev s (chEv c 17)
  fenceIfInService s c 0

/-- Entries of the replay log whose alert window has not passed (R213). -/
def liveLog (s : State) (c : Fin 16) : List LogEnt := (chan s c).sch.log.filter (fun e => s.beat.fclk < e.due)

/-- The alert window in FCLK. -/
def alertFclk (s : State) (c : Fin 16) : Nat := 2 * fld s (rPhyAlertCfg c.val) 7 0

/-- Whether a logged read still waits for its data. -/
def logPending (s : State) (c : Fin 16) (e : LogEnt) : Bool :=
  match e.cmd with
  | .inl r => (chan s c).sch.flight.any (fun f => f.ent.arr = r.arr)
  | .inr _ => true

/-- A dwell aborted for a cause (R222). -/
def probeAbort (s : State) (c : Fin 16) (cause : Nat) : State :=
  if (chan s c).phy.dwelling then
    let z : Vector Nat 4 := Vector.replicate 4 0
    let s := modPhy s c fun p =>
      { p with dwelling := false, dwell := 0, bits := z, misses := z, dBits := z, dMisses := z }
    evd (cntInc s (rPrbAbortCnt c.val)) (chEv c 18) (detail32 cause)
  else s

/-- CHn_ALERT_N seen low (R214): precharge, then every logged write and every logged read without data reissued. While the Keeper
owns the pins the alert is ignored (R202). -/
def phyAlert (s : State) (c : Fin 16) (crc : Bool) : State :=
  if (chan s c).keep.owner then s else
  let s := probeAbort s c 4
  let log := (liveLog s c).filter (logPending s c)
  let s := modSch s c fun q => { q with
    banks := q.banks.map fun e => (e.1, { e.2 with row := none, streak := 0, pre := some (4 * q.mclk) })
    log := log.map fun e => { e with due := s.beat.fclk + alertFclk s c } }
  let s := forEach log s fun s e =>
    match e.cmd with
    | .inr w => setDramLine s w.coord w.raw
    | .inl r => modSch s c fun q => { q with
        flight := q.flight.map fun f => if f.ent.arr = r.arr then
            { f with probe := none, raw := memRaw s f.ent.das f.ent.coord, again := false } else f }
  let p := (chan s c).phy
  let again : Bool := match p.lastAlert with
    | some t => decide (s.beat.fclk < t + alertFclk s c + alertFclk s c)
    | none => false
  let n := if again then p.streak + 1 else 1
  let s := modPhy s c fun p => { p with streak := n, lastAlert := some s.beat.fclk }
  let s := cntInc (cntAdd s (rPhyReplayCnt c.val) log.length) (rPhyAlertCnt c.val)
  let old := fld s (rPhyAlertStatus c.val) 3 0
  let s := rcOr s (rPhyAlertStatus c.val) (packFields [(31, 1), (30, flag crc), (29, flag !crc)])
  let s := setFld s (rPhyAlertStatus c.val) 3 0 (max old (min 15 n))
  let s := evd s (chEv c 16) (detail32 (flag crc))
  if fld s (rPhyAlertCfg c.val) 11 8 ≤ n then linkFail s c else s

def execPhyAlert (c : Fin 16) (crc : Bool) (s : State) : Host.Outcome State Fault Refusal := ok (phyAlert s c crc)

/-! Retraining windows (R217, R218). -/

/-- A retraining window or a dwell is in progress on the channel. -/
def windowOn (s : State) (c : Fin 16) : Bool :=
  (chan s c).phy.window.isSome || (chan s c).phy.dwelling

/-- The window in progress is cut by a backstop refresh (R187, R218). -/
def cutWindow (s : State) (c : Fin 16) : State :=
  if (chan s c).phy.window.isSome then
    cntInc (modPhy s c fun p => { p with window := none }) (rPhyRtCutCnt c.val)
  else s

/-- Lanes of a device: the nibble, or with x8 devices the two nibbles of the device. -/
def devLanes (x8 : Bool) (nib : Nat) : List Nat :=
  if x8 then (List.range 8).map (fun i => 8 * (nib / 2) + i) else (List.range 4).map (fun i => 4 * nib + i)

/-- The write-delay change of one device: at most two steps, the rest carried (R217 step 3). -/
def applyOsc (x8 : Bool) (prank : Nat) (p : PhySt) (o : OscRead) : PhySt :=
  let nib := if x8 then o.nibble.val / 2 * 2 else o.nibble.val
  let ck := nibKey prank o.sub.val nib
  let total := smGet 0 p.carry ck + o.delta
  let step := max (-2) (min 2 total)
  let p := { p with carry := smSet 0 p.carry ck (total - step) }
  (devLanes x8 nib).foldl (fun p lane =>
    let k := laneKey prank o.sub.val lane
    let l := laneGet p k
    laneSet p k { l with wrTrain := clampTo 1023 ((l.wrTrain : Int) + step) }) p

/-- The pending recentring of one lane (R217 step 4, R224). -/
def applyRecen (l : LaneSt) : LaneSt :=
  { l with rdTrain := clampTo 1023 ((l.rdTrain : Int) + l.recen), eL := l.eL - l.recen, eR := l.eR - l.recen
           recen := 0 }

/-- One lane decided on its bits and mismatches on an edge (R223, R224); the flag tells a decision skipped as thin. -/
def decideLane (minBits errHi reach : Nat) (right : Bool) (bits misses : Nat) (l : LaneSt) : LaneSt × Bool :=
  if bits < minBits then (l, true)
  else
    let away : Int := if right then 1 else -1
    let e := if right then l.eR else l.eL
    let e' := if errHi ≤ misses then e - e.sign
      else if misses = 0 then (if (reach : Int) ≤ e * away then e else e + away)
      else e
    let l := if right then { l with eR := e' } else { l with eL := e' }
    let sum := l.eL + l.eR
    ({ l with recen := if 2 ≤ sum then 1 else if sum ≤ -2 then -1 else 0 }, false)

/-- A decision of one lane of the channel, with PRB.THIN_CNT. -/
def decideAt (s : State) (c : Fin 16) (key : Nat) (right : Bool) (bits misses : Nat) : State :=
  let (l, thin) := decideLane (fld s (rPrbLim c.val) 31 16) (fld s (rPrbCfg c.val) 26 19) (fld s (rPrbLim c.val) 5 0)
    right bits misses (laneGet (chan s c).phy key)
  let s := modPhy s c fun p => laneSet p key l
  doIf thin (fun s => cntInc s (rPrbThinCnt c.val)) s

/-- A chip of the subchannel is marked in some package rank (R240). -/
def subMarked (s : State) (c : Fin 16) (sub : Nat) : Bool :=
  (List.range 4).any fun pr =>
    let m := (chan s c).code.marks.getD (pr * 2 + sub) ⟨none, none⟩
    m.m0.isSome || m.m1.isSome

/-- Probing is excluded on a subchannel (R217 step 6, R219): x8 devices, probing off, or a mark. -/
def probeExcluded (s : State) (c : Fin 16) (sub : Nat) : Bool :=
  !rbit s (rPrbCfg c.val) 31 || rbit s (rPhyCfg c.val) 0 || subMarked s c sub

/-- A retraining window opens on a package rank: its banks are precharged, and a failed read is counted (R217). -/
def retrainOpen (s : State) (c : Fin 16) (failed : Bool) : State :=
  let pr := (chan s c).phy.nextPrank
  let s := modPhy s c fun p => { p with window := some pr, nextPrank := (pr + 1) % prankCount s }
  let s := modRef s c fun r => { r with nextRetrain := none, gen := r.gen + 1 }
  let s := modSch s c fun q => { q with
    banks := q.banks.map fun e => if prankOf s (e.1 / 32 % 32) = pr then
      (e.1, { e.2 with row := none, streak := 0, pre := some (4 * q.mclk) }) else e }
  let n := if failed then smGet 0 (chan s c).phy.oscFail pr + 1 else 0
  modPhy s c fun p => { p with oscFail := smSet 0 p.oscFail pr n }

/-- The adjustments of a retraining window: the oscillator readings, the recentring carried, and the read sweep. -/
def retrainAdjust (s : State) (c : Fin 16) (pr : Nat) (osc : List OscRead) (sweep : List SweepRead) : State :=
  let x8 := rbit s (rPhyCfg c.val) 0
  let s := modPhy s c fun p => osc.foldl (applyOsc x8 pr) p
  let s := modPhy s c fun p => (List.range 80).foldl (fun p i =>
    let k := laneKey pr (i / 40) (i % 40)
    laneSet p k (applyRecen (laneGet p k))) p
  let s := applyPrank (takeTrims s c pr) c pr
  forEach sweep s fun s w =>
    if probeExcluded s c w.sub.val then
      decideAt s c (laneKey pr w.sub.val w.lane.val) w.right w.bits w.misses
    else s

/-- A retraining window's length expires (R217). -/
def retrainEnd (s : State) (c : Fin 16) : State :=
  if (chan s c).phy.window.isSome then
    cntInc (modPhy s c fun p => { p with window := none }) (rPhyRtCnt c.val)
  else s

def execRetrainingWindowEnd (c : Fin 16) (s : State) : Host.Outcome State Fault Refusal := ok (retrainEnd s c)

/-! Probing (R219 to R225). -/

/-- Position of a target in the order of R225. -/
def tgtIdx (t : ProbeTgt) : Nat := ((t.prank * 2 + t.sub) * 10 + t.chip) * 2 + if t.right then 0 else 1

/-- The target at a position of the order. -/
def tgtOf (i : Nat) : ProbeTgt := ⟨i / 40, i / 20 % 2, i / 2 % 10, decide (i % 2 = 0)⟩

/-- Whether a target may be probed (R219). -/
def tgtOk (s : State) (c : Fin 16) (t : ProbeTgt) : Bool :=
  decide (t.prank < prankCount s) && !probeExcluded s c t.sub

/-- The conditions of R219 that hold for the whole channel: it is in RUN, not in self-refresh or its entry, and in no
retraining window. -/
def probeRun (s : State) (c : Fin 16) : Bool :=
  decide ((chan s c).sch.hold = .run) && decide ((chan s c).sch.sr = .active) && (chan s c).phy.window.isNone

/-- The first permitted target at or after a position, going round (R225). -/
def tgtFrom (s : State) (c : Fin 16) (i : Nat) : Option ProbeTgt :=
  ((List.range 160).map (fun j => tgtOf ((i + j) % 160))).find? (tgtOk s c)

/-- Two vectors of four counts added. -/
def addV (a b : Vector Nat 4) : Vector Nat 4 := Vector.ofFn fun i => a[i] + b[i]

/-- A dwell ends; the last dwell of its group decides the lanes of the chip (R223). -/
def probeDwellEnd (s : State) (c : Fin 16) : State :=
  let p := (chan s c).phy
  if p.dwelling then
    let z : Vector Nat 4 := Vector.replicate 4 0
    let bits := addV p.bits p.dBits
    let misses := addV p.misses p.dMisses
    let s := cntInc s (rPrbDwellCnt c.val)
    if fld s (rPrbCfg c.val) 30 27 ≤ p.dwell + 1 then
      let s := forEach (List.finRange 4) s fun s j =>
        decideAt s c (laneKey p.target.prank p.target.sub (4 * p.target.chip + j.val)) p.target.right bits[j] misses[j]
      modPhy s c fun q => { q with
        dwelling := false, dwell := 0, bits := z, misses := z, dBits := z, dMisses := z
        target := tgtOf ((tgtIdx p.target + 1) % 160) }
    else modPhy s c fun q => { q with
        dwelling := false, dwell := p.dwell + 1, bits := bits, misses := misses, dBits := z, dMisses := z }
  else s

def execProbeDwellEnd (c : Fin 16) (s : State) : Host.Outcome State Fault Refusal := ok (probeDwellEnd s c)

/-- The causes of R222 in the order of its table, from 1. -/
def causeNo : PrbCause → Nat
  | .decode => 1
  | .marked => 2
  | .backstop => 3
  | .alert => 4
  | .pfail => 5
  | .notRun => 6

def execPrbAbort (c : Fin 16) (cause : PrbCause) (s : State) : Host.Outcome State Fault Refusal :=
  ok (probeAbort s c (causeNo cause))

/-! Sideband (R226 to R230). -/

/-- The sideband bus of a channel (R227). -/
def busOf (c : Fin 16) : Fin 2 := if c.val < 8 then 0 else 1

def modBus (s : State) (b : Fin 2) (f : SbBus → SbBus) : State := { s with sbus := s.sbus.set b (f s.sbus[b]) }

/-- SBI.CFG.seg_en of a bus, kept by its first channel (R231). -/
def segEn (s : State) (b : Fin 2) : Bool := rbit s (rSbiCfg (8 * b.val)) 4

/-- The channels of a bus in the order of its round robin. -/
def busOrder (s : State) (b : Fin 2) : List (Fin 16) :=
  (List.range 8).map fun i => Fin.ofNat 16 (8 * b.val + (s.sbus[b].last.val + 1 + i) % 8)

/-- A free bus takes the transfer of the next channel that has one: SBb_SEG selects its slot, between transfers (R227, R229). -/
def busPump (s : State) (b : Fin 2) : State :=
  if s.sbus[b].on ∧ s.sbus[b].cur = none then
    match (busOrder s b).find? fun c => (chan s c).phy.sb.isSome with
    | some c =>
      let slot := ((chan s c).phy.sb.map SbXfer.slot).getD false
      cntInc (modBus s b fun x => { x with cur := some c, last := c, seg := segEn s b && slot }) (rSbiXferCnt c.val)
    | none => s
  else s

/-- The bus is free again after a transfer of a channel. -/
def busFree (s : State) (c : Fin 16) : State := busPump (modBus s (busOf c) fun x => { x with cur := none }) (busOf c)

/-- The boot ROM enables a bus: the hubs of its segments are discovered with I2C-compatible transfers and switched to I3C
(R226, R228). -/
def busEnable (s : State) (b : Fin 2) : State :=
  if s.sbus[b].on then s
  else busPump (modBus s b fun x => { x with on := true, i3c := if segEn s b then 3 else 1 }) b

/-- A transfer that failed after its retries. -/
def sbFailed (s : State) (c : Fin 16) (code : BitVec 3) (slot : Bool) (lid : BitVec 4) : State :=
  let s := cntInc (modPhy s c fun p => { p with sbResult := code }) (rSbiErrCnt c.val)
  evd s (chEv c 21) [BitVec.ofNat 32 (flag slot), BitVec.ofNat 32 lid.toNat]

/-- Whether SBI.CMD may make an access: the hub registers, and the SPD bytes for reading (R229). -/
def sbAllowed (write : Bool) (addr : Nat) : Bool :=
  decide (addr < 0x80) || (!write && decide (0x400 ≤ addr ∧ addr < 0x800))

/-- A write of SBI.CMD with go (R229): ignored while a transfer runs; a reserved length starts nothing (R20). The transfer waits
for its turn on the bus. -/
def sbTransfer (s : State) (c : Fin 16) (v : Word32) : State :=
  if (chan s c).phy.sb.isSome ∨ !bitOf v 31 ∨ fieldOf v 24 23 = 3 then s
  else
    let w := bitOf v 30
    let addr := fieldOf v 10 0
    if sbAllowed w addr then
      let x : SbXfer :=
        { write := w, slot := bitOf v 29, lid := BitVec.ofNat 4 (fieldOf v 28 25), len := BitVec.ofNat 2 (fieldOf v 24 23),
          addr := BitVec.ofNat 11 addr, tries := 0 }
      busPump (modPhy s c fun p => { p with sb := some x }) (busOf c)
    else modPhy s c fun p => { p with sbResult := 3 }

/-- The transfer of SBI.CMD that is on the bus ends, or fails and is retried up to three times in its next turns (R229). -/
def sbDone (s : State) (c : Fin 16) (e : SbEnd) : State :=
  match (chan s c).phy.sb.filter fun _ => decide (s.sbus[busOf c].cur = some c) with
  | none => s
  | some x =>
    let stop (s : State) (code : BitVec 3) : State := modPhy s c fun p => { p with sb := none, sbResult := code }
    let again (s : State) (code : BitVec 3) : State :=
      if x.tries < 3 then modPhy s c fun p => { p with sb := some { x with tries := x.tries + 1 } }
      else sbFailed (stop s code) c code x.slot x.lid
    let s := match e with
      | .ok d =>
        let s := stop s 0
        let m : Word64 := match x.len with
          | 0 => 0xFF
          | 1 => 0xFFFF
          | _ => 0xFFFF_FFFF
        if x.write then s else setReg s (rSbiData c.val) (d.setWidth 64 &&& m)
      | .absent => stop s 4
      | .nack => again s 1
      | .timeout => again s 2
    busFree s c

def execSbDone (c : Fin 16) (e : SbEnd) (s : State) : Host.Outcome State Fault Refusal := ok (sbDone s c e)

/-- PHY.CFG checks of R198 over the values in force, for the populated channels. -/
def phyCfgOk (s : State) : Bool :=
  (allChans.filter (fun c => c.val < chanCount s)).all fun c =>
    let v := getReg s (rPhyCfg c.val)
    let dpc2 := bitOf v 1
    let grade := fld s (rSchSpeed c.val) 3 0
    decide (bitOf v 0 = rbit s (rPhyCfg 0) 0) && decide (bitOf v 0 = decide (colBits s = 6))
      && decide (dpc2 = decide (dimmBit s = 1))
      && (!dpc2 || decide (grade ≤ if cidBits s = 3 then 4 else 6))

end Sys2Proof.Machine
end

