-- ==== Sys2Proof/Machine/Timing.lean ====
section
/-!
DEFINITION. DRAM command timing of a channel (R155, R212) and the command slots that the sequencer takes (R137).
-/
namespace Sys2Proof.Machine
open Sys2Proof

/-! Bank keys. -/

/-- Subchannel, rank, bank group and bank of a bank key. -/
def keySub (b : Nat) : Nat := b / 1024
def keyRank (b : Nat) : Nat := b / 32 % 32
def keyBg (b : Nat) : Nat := b / 4 % 8
def keyBa (b : Nat) : Nat := b % 4

def bankAt (s : State) (c : Fin 16) (b : Nat) : BankSt := smGet BankSt.idle (chan s c).sch.banks b
def rankAt (s : State) (c : Fin 16) (r : Nat) : RankSt := smGet RankSt.idle (chan s c).sch.ranks r

/-- A bank changed. -/
def modBank (s : State) (c : Fin 16) (b : Nat) (f : BankSt → BankSt) : State :=
  modSch s c fun q => { q with banks := smSet BankSt.idle q.banks b (f (smGet BankSt.idle q.banks b)) }

/-- A rank changed. -/
def modRank (s : State) (c : Fin 16) (r : Nat) (f : RankSt → RankSt) : State :=
  modSch s c fun q => { q with ranks := smSet RankSt.idle q.ranks r (f (smGet RankSt.idle q.ranks r)) }

/-! Timings, in DRAM clocks (R155). -/

def tCl (s : State) (c : Fin 16) : Nat := fld s (rSchTim0 c.val) 31 24
def tRcd (s : State) (c : Fin 16) : Nat := fld s (rSchTim0 c.val) 23 16
def tRp (s : State) (c : Fin 16) : Nat := fld s (rSchTim0 c.val) 15 8
def tRas (s : State) (c : Fin 16) : Nat := fld s (rSchTim0 c.val) 7 0
def tRc (s : State) (c : Fin 16) : Nat := fld s (rSchTim1 c.val) 24 16
def tWr (s : State) (c : Fin 16) : Nat := fld s (rSchTim1 c.val) 15 8
def tRtp (s : State) (c : Fin 16) : Nat := fld s (rSchTim1 c.val) 7 0
def tRrdS (s : State) (c : Fin 16) : Nat := fld s (rSchTim2 c.val) 31 24
def tRrdL (s : State) (c : Fin 16) : Nat := fld s (rSchTim2 c.val) 23 16
def tFaw (s : State) (c : Fin 16) : Nat := fld s (rSchTim2 c.val) 15 8
def tCcdS (s : State) (c : Fin 16) : Nat := fld s (rSchTim2 c.val) 7 0
def tCcdL (s : State) (c : Fin 16) : Nat := fld s (rSchTim3 c.val) 31 24
def tCcdLWr (s : State) (c : Fin 16) : Nat := fld s (rSchTim3 c.val) 23 16
def tWtrS (s : State) (c : Fin 16) : Nat := fld s (rSchTim3 c.val) 15 8
def tWtrL (s : State) (c : Fin 16) : Nat := fld s (rSchTim3 c.val) 7 0
def tRtwAdd (s : State) (c : Fin 16) : Nat := fld s (rSchTim4 c.val) 31 24
def tR2r (s : State) (c : Fin 16) : Nat := fld s (rSchTim4 c.val) 23 16
def tXp (s : State) (c : Fin 16) : Nat := fld s (rSchTim4 c.val) 15 8
def tXs (s : State) (c : Fin 16) : Nat := fld s (rSchTim5 c.val) 27 16
def tXsDll (s : State) (c : Fin 16) : Nat := fld s (rSchTim5 c.val) 11 0
/-- CWL = cl − 2 (R155). -/
def tCwl (s : State) (c : Fin 16) : Nat := tCl s c - 2
/-- A BL16 write burst takes 8 DRAM clocks, 9 with write CRC (R137, R212). -/
def wBurst (s : State) (c : Fin 16) : Nat := if rbit s (rPhyCfg c.val) 2 then 9 else 8
/-- Gap from a read to a write column command of one subchannel: the JESD79-5 turnaround and trtw_add. -/
def tRtw (s : State) (c : Fin 16) : Nat := Config.rtwMin (fld s (rSchSpeed c.val) 3 0) + tRtwAdd s c

/-- The time `gap` after an event, if it happened. -/
def after (t : Option Nat) (gap : Nat) : Nat := match t with | some x => x + gap | none => 0

/-- Earliest PRE of a bank. -/
def earliestPre (s : State) (c : Fin 16) (b : Nat) : Nat :=
  let x := bankAt s c b
  max (max (after x.act (tRas s c)) (after x.rd (tRtp s c)))
    (max (after x.wr (tCwl s c + wBurst s c + tWr s c)) (rankAt s c (keyRank b)).ready)

/-- Times of ACTs of neighbour refreshes on a rank of a subchannel, with the least gap from each to an ACT of a bank group. -/
def nbrTimes (s : State) (c : Fin 16) (k : Coord) : List (Nat × Nat) :=
  ((chan s c).ref.nbrActs.filter fun a => decide (a.sub = k.sub ∧ a.rank = k.rank)).map fun a =>
    (a.time, if a.bg = k.bg then tRrdL s c else tRrdS s c)

/-- Whether `n` ACTs of a bank, tRC apart from time `t` on, keep tRRD to the ACTs of neighbour refreshes and four in tFAW. -/
def actFits (s : State) (c : Fin 16) (k : Coord) (n t : Nat) : Bool :=
  let nbr := nbrTimes s c k
  let r := rankAt s c k.rank
  let mine := (List.range n).map fun i => t + i * tRc s c
  let all := mine ++ (if k.sub = 0 then r.actsA else r.actsB) ++ nbr.map Prod.fst
  mine.all (fun m => nbr.all fun u => decide (m + u.2 ≤ u.1 ∨ u.1 + u.2 ≤ m))
    && all.all fun u => decide (all.countP (fun v => decide (u ≤ v ∧ v < u + tFaw s c)) ≤ 4)

/-- The time of the next ACT to a bank, the first of `n` that are tRC apart, no earlier than `from'`. -/
def actTime (s : State) (c : Fin 16) (k : Coord) (n from' : Nat) : Nat :=
  let b := bankKey k
  let x := bankAt s c b
  let r := rankAt s c k.rank
  let own := max (max from' r.ready) (max (after x.pre (tRp s c)) (after x.act (tRc s c)))
  let base := (chan s c).sch.banks.foldl (fun m e =>
    if keySub e.1 = k.sub ∧ keyRank e.1 = k.rank ∧ e.1 ≠ b then
      max m (after e.2.act (if keyBg e.1 = k.bg then tRrdL s c else tRrdS s c))
    else m) own
  let ends := (nbrTimes s c k).flatMap (fun u => [u.1 + u.2, u.1 + tFaw s c])
    ++ (if k.sub = 0 then r.actsA else r.actsB).map (· + tFaw s c)
  (ends.filter fun t => decide (base ≤ t) && actFits s c k n t).foldl min
    (if actFits s c k n base then base else base + 4 * (tFaw s c + tRc s c) + 64)

/-- Earliest column command to an open row; tr2r separates ranks, and a read and a later write keep the turnaround. -/
def earliestCol (s : State) (c : Fin 16) (k : Coord) (read : Bool) : Nat :=
  let x := bankAt s c (bankKey k)
  let r := rankAt s c k.rank
  let base := max (after x.act (tRcd s c)) (if read then max r.ready r.rdReady else r.ready)
  (chan s c).sch.banks.foldl (fun m e =>
    if keySub e.1 = k.sub then
      let same : Bool := decide (keyBg e.1 = k.bg)
      let mine : Bool := decide (keyRank e.1 = k.rank)
      let rd := if read then (if mine then (if same then tCcdL s c else tCcdS s c) else tR2r s c)
        else max (tRtw s c) (if mine then 0 else tR2r s c)
      let wr := if read then
          (if mine then tCwl s c + wBurst s c + (if same then tWtrL s c else tWtrS s c) else tR2r s c)
        else max (wBurst s c) (if mine then (if same then tCcdLWr s c else tCcdS s c) else tR2r s c)
      max m (max (after e.2.rd rd) (after e.2.wr wr))
    else m) base

/-! Sequencer commands (R137). -/

/-- The sequencer takes `n` command slots of a subchannel. -/
def seqTake (s : State) (c : Fin 16) (sub n : Nat) : State :=
  modSch s c fun q => if sub = 0 then { q with seqA := q.seqA + n } else { q with seqB := q.seqB + n }

/-- The sequencer takes `n` command slots of both subchannels. -/
def seqBoth (s : State) (c : Fin 16) (n : Nat) : State := seqTake (seqTake s c 0 n) c 1 n

/-- A sequencer command waits for a rank whose pins are the Keeper's or whose channel trains (R202, R207). -/
def seqRuns (s : State) (c : Fin 16) : Bool := (chan s c).phy.run.isNone && !(chan s c).keep.owner

/-- Open banks are precharged as soon as timing allows. -/
def closeBanks (s : State) (c : Fin 16) (p : Nat → Bool) : State :=
  modSch s c fun q => { q with banks := q.banks.map fun e => if p e.1 && e.2.row.isSome then
    (e.1, { e.2 with row := none, streak := 0, pre := some (max (nowCk s c) (earliestPre s c e.1)) }) else e }

end Sys2Proof.Machine
end

