-- ==== Sys2Proof/Machine/Refresh.lean ====
section
/-!
DEFINITION. Refresh Choreography and row disturbance (06_refresh_and_disturbance.md).
-/
namespace Sys2Proof.Machine
open Sys2Proof

/-! The grid (R171 to R175). -/

/-- Postponement limit L of a granularity (R171). -/
def refL (gran : Nat) : Nat := if gran = 1 then 8 else 4
/-- Largest period setting of a granularity (R171). -/
def refMaxPeriod (s : State) (gran : Nat) : Nat :=
  match gran with
  | 0 => 975
  | 1 => 487
  | _ => if baBits s = 2 then 121 else 243
/-- Period setting of a granularity, in 4 ns units (REF.PERIOD). -/
def refPeriod4 (s : State) (c : Fin 16) (gran : Nat) : Nat :=
  match gran with
  | 0 => fld s (rRefPeriod c.val) 9 0
  | 1 => fld s (rRefPeriod c.val) 19 10
  | _ => fld s (rRefPeriod c.val) 29 20
/-- P in ns of the granularity in force. -/
def refP (s : State) (c : Fin 16) : Nat := 4 * refPeriod4 s c (chan s c).ref.gran
/-- Q in ns (R173). -/
def refQ (s : State) (c : Fin 16) : Nat := refP s c / (chan s c).ref.m
/-- tRFC in DRAM clocks of a granularity (R174). -/
def trfcCk (s : State) (c : Fin 16) (gran : Nat) : Nat :=
  match gran with
  | 0 => fld s (rRefTrfc c.val) 11 0
  | 1 => fld s (rRefTrfc c.val) 23 12
  | _ => fld s (rRefTrfc c.val) 35 24
/-- REF.CFG.lead in ns. -/
def refLead (s : State) (c : Fin 16) : Nat := fld s (rRefCfg c.val) 19 12
/-- off(n) of R173. -/
def refOff (s : State) (c : Fin 16) : Nat :=
  if rbit s (rRefCfg c.val) 8 then c.val * (refP s c / chanCount s) else 0
/-- The Beat of slot 0: dev_phase + off(n). -/
def slotBase (s : State) (c : Fin 16) : Nat := fld s (rRefPhase c.val) 11 0 + refOff s c
/-- S(n, k) of R173. -/
def slotStart (s : State) (c : Fin 16) (k : Int) : Int := (slotBase s c : Int) + k * (refQ s c : Int)
/-- The first slot at or after a Beat. -/
def slotAt (s : State) (c : Fin 16) (b : Nat) : Int := -(((slotBase s c : Int) - (b : Int)) / (refQ s c : Int))
/-- Length of the quiet window of a slot, in ns, rounded up to 4 ns (R175). -/
def quietLen (s : State) (c : Fin 16) : Nat :=
  let w := refLead s c + (rankCount s - 1) * fld s (rRefCfg c.val) 29 20
    + ckToNs s c (trfcCk s c (chan s c).ref.gran)
  (w + 3) / 4 * 4

/-- A target's key: logical rank × 4 + bank index, 0 in all-bank granularity. -/
def refKey (gran rank bank : Nat) : Nat := 4 * rank + if gran = 2 then bank else 0

/-! Refresh commands. -/

/-- Whether a coordinate belongs to a refresh target. -/
def inTarget (gran key : Nat) (k : Coord) : Bool :=
  decide (k.rank = key / 4) && (decide (gran ≠ 2) || decide (k.ba = key % 4))

/-- Whether an RT request for a target is queued (R179). -/
def rtQueued (s : State) (c : Fin 16) (key : Nat) : Bool :=
  let q := (chan s c).sch
  let g := (chan s c).ref.gran
  q.rq.any (fun e => e.rt && inTarget g key e.coord) || q.wq.any (fun e => e.rt && inTarget g key e.coord)
    || q.glue.any (fun e => e.rt && inTarget g key e.coord)

/-- Whether a bank key belongs to a refresh target. -/
def bankInTarget (gran key b : Nat) : Bool :=
  decide (keyRank b = key / 4) && (decide (gran ≠ 2) || decide (keyBa b = key % 4))

/-- A rank in power-down leaves it for a sequencer command, and returns to it afterwards if it is still idle (R158). -/
def rankWake (s : State) (c : Fin 16) (rank : Nat) : State :=
  if (rankAt s c rank).pwr = .powerDown then
    seqBoth (modRank s c rank fun x => { x with pwr := .active, back := true, ready := max x.ready (nowCk s c + tXp s c) }) c 1
  else s

/-- Open banks of a refresh target are precharged (R174). -/
def closeTarget (s : State) (c : Fin 16) (key : Nat) : State :=
  let g := (chan s c).ref.gran
  if (chan s c).sch.banks.any (fun e => bankInTarget g key e.1 && e.2.row.isSome) then
    seqBoth (closeBanks s c (bankInTarget g key)) c 1
  else s

/-- The MCLK edge of a refresh of a target planned for a time: the first at or after it at which its banks are precharged, its
rank is up and refreshes no more, and an MCLK has passed since the last refresh command (R174). -/
def refreshTime (s : State) (c : Fin 16) (key planned : Nat) : Nat :=
  let r := (chan s c).ref
  let t := max (max planned (nowCk s c)) (max (rankAt s c (key / 4)).ready (r.lastRef + 4))
  let t := r.busy.foldl (fun t e => if e.1 / 4 = key / 4 then max t e.2 else t) t
  let t := (chan s c).sch.banks.foldl (fun t e =>
    if bankInTarget r.gran key e.1 then max t (after e.2.pre (tRp s c)) else t) t
  (t + 3) / 4 * 4

/-- Banks on which an ACT no longer waits for RFM leave the list of those that do (R192). -/
def rfmWaitKeep (r : RefSt) : RefSt :=
  { r with rfmWait := r.rfmWait.filter fun b => decide (r.raammt ≤ smGet 0 r.raa b) }

/-- A refresh command to a target, planned for a DRAM-clock time: its rank is out of power-down, its banks are precharged, it is
unavailable for `len` from the command on, and the RAA counters of its banks fall (R158, R174, R192). -/
def refreshBusy (s : State) (c : Fin 16) (key planned len : Nat) : State :=
  let s := closeTarget (rankWake s c (key / 4)) c key
  let g := (chan s c).ref.gran
  let t := refreshTime s c key planned
  modRef (seqBoth s c 1) c fun r => rfmWaitKeep { r with
    lastRef := t
    busy := smSet 0 r.busy key (t + len)
    raa := r.raa.foldl (fun m e => smSet 0 m e.1 (if bankInTarget g key e.1 then e.2 - r.raaimt else e.2)) r.raa }

/-- A slot, catch-up or backstop refresh of a target: it is unavailable for tRFC, and its debit falls to no less than −1
(R174, R182). -/
def refreshTarget (s : State) (c : Fin 16) (key planned : Nat) : State :=
  let s := refreshBusy s c key planned (trfcCk s c (chan s c).ref.gran)
  modRef s c fun r => { r with debit := smSet 0 r.debit key (max (-1) (smGet 0 r.debit key - 1)) }

/-- An extra REFab to a rank (R189). -/
def refreshRank (s : State) (c : Fin 16) (rank : Nat) : State :=
  let g := (chan s c).ref.gran
  forEach (List.range (if g = 2 then 2 ^ baBits s else 1)) s fun s b =>
    refreshBusy s c (refKey g rank b) (nowCk s c) (trfcCk s c (if g = 2 then 0 else g))

/-- Slots are carried out while the Beat is valid and the channel is not in self-refresh (R159, R183). -/
def slotsRun (s : State) (c : Fin 16) : Bool :=
  s.beat.valid && decide ((chan s c).sch.sr = .active)

/-- After a self-refresh exit slots resume once tXS has passed (R183). -/
def slotsNow (s : State) (c : Fin 16) : Bool := slotsRun s c && decide ((chan s c).ref.xsUntil ≤ nowCk s c)

/-- The refresh of a target in a slot is to be postponed: RT postponement is permitted, an RT request for it is queued, and its
owed count is below the limit (R179). -/
def postpones (s : State) (c : Fin 16) (key : Nat) : Bool :=
  rbit s (rRefRt c.val) 8 && rtQueued s c key
    && decide (smGet 0 (chan s c).ref.owed key < min (fld s (rRefRt c.val) 3 0) (refL (chan s c).ref.gran))

/-- The refresh targets of slot `k`. -/
def slotKeys (s : State) (c : Fin 16) (k : Int) : List Nat :=
  (List.range (rankCount s)).map fun r => refKey (chan s c).ref.gran r (k % (2 ^ baBits s : Nat)).toNat

/-- The slot whose quiet window is in progress (R175): its number. A slot that a step of the Beat has passed has none. -/
def quietSlot (s : State) (c : Fin 16) : Option Int :=
  let b : Int := (beatNs s : Nat)
  let k := (b - (slotBase s c : Nat) + (refLead s c : Nat)) / ((refQ s c : Nat) : Int)
  let t := slotStart s c k
  if slotsNow s c && decide (b < t - (refLead s c : Nat) + (quietLen s c : Nat))
      && decide (((chan s c).ref.since : Int) ≤ t) then some k else none

/-- The postponed targets of slot `k`, as decided when its quiet window opened (R179). -/
def slotPostponed (s : State) (c : Fin 16) (k : Int) : List Nat :=
  match (chan s c).ref.decided with
  | some (t, ks) => if t = slotStart s c k then ks else (slotKeys s c k).filter (postpones s c)
  | none => (slotKeys s c k).filter (postpones s c)

/-- Which refreshes of slot `k` are postponed is decided; the open banks of its other targets are precharged (R174, R179). -/
def slotDecide (s : State) (c : Fin 16) (k : Int) : State :=
  let t := slotStart s c k
  if ((chan s c).ref.decided.map Prod.fst) = some t then s
  else
    let ks := slotPostponed s c k
    let s := modRef s c fun r => { r with decided := some (t, ks) }
    forEach ((slotKeys s c k).filter fun x => decide (x ∉ ks)) s fun s x => closeTarget s c x

/-- In the quiet window of a slot its targets take no scheduler command, but for those whose refresh is postponed
(R174, R175). -/
def quietAt (s : State) (c : Fin 16) (k : Coord) : Bool :=
  match quietSlot s c with
  | none => false
  | some n =>
    let key := refKey (chan s c).ref.gran k.rank k.ba
    decide (key ∈ slotKeys s c n) && !decide (key ∈ slotPostponed s c n)

/-- A burst has ended on the targets for which no RT request is queued (R181). -/
def rtNote (s : State) (c : Fin 16) : State :=
  let seen := (chan s c).ref.limSeen.filter fun e => rtQueued s c e.1
  modRef s c fun r => { r with limSeen := seen }

/-- One target's part of a slot (R174, R179, R181). -/
def slotTarget (s : State) (c : Fin 16) (post : Bool) (key planned : Nat) : State :=
  let r := (chan s c).ref
  let p := smGet 0 r.owed key
  let lim := min (fld s (rRefRt c.val) 3 0) (refL r.gran)
  if post then
    cntInc (modRef s c fun r => { r with owed := smSet 0 r.owed key (p + 1) }) (rRefPostCnt c.val)
  else
    let s := if rbit s (rRefRt c.val) 8 && rtQueued s c key && decide (lim ≤ p) && !(smGet false r.limSeen key) then
        ev (modRef s c fun r => { r with limSeen := smSet false r.limSeen key true }) (chEv c 7)
      else s
    cntInc (refreshTarget s c key planned) (rRefRefCnt c.val)

/-- The first slot puts the granularity of REF.CFG in force (REF.STATUS.gran). -/
def firstSlot (s : State) (c : Fin 16) : State :=
  let r := (chan s c).ref
  let g := fld s (rRefCfg c.val) 1 0
  if r.first then
    modRef s c fun r => { r with first := false, gran := g, gen := if g = r.gran then r.gen else r.gen + 1 }
  else s

/-- Slot `k` of a channel may be carried out: its time has come, no step of the Beat has passed it, and no later slot nor it
itself has been (R33, R173, R183). -/
def slotDue (s : State) (c : Fin 16) (k : Nat) : Bool :=
  let t := slotStart s c k
  let r := (chan s c).ref
  slotsNow s c && decide ((r.since : Int) ≤ t) && decide (t ≤ (beatNs s : Nat)) && decide (r.lastSlot < t)

/-- Slot `k` of a channel (R173, R174). -/
def refreshSlot (s : State) (c : Fin 16) (k : Nat) : State :=
  let s' := firstSlot s c
  if slotDue s' c k then
    let s := rtNote s' c
    let post := slotPostponed s c k
    let t := slotStart s c k
    let s := slotDecide s c k
    let s := modRef s c fun r => { r with lastSlot := t }
    forEach (slotKeys s c k) s fun s key =>
      let at' := t + (key / 4 * fld s (rRefCfg c.val) 29 20 : Nat) - (beatNs s : Nat)
      slotTarget s c (decide (key ∈ post)) key (nowCk s c + nsToCk s c at'.toNat)
  else s

def execRefreshSlot (c : Fin 16) (k : Nat) (s : State) : Host.Outcome State Fault Refusal := ok (refreshSlot s c k)

/-- The key a command's target names under the granularity in force. -/
def tgtKey (s : State) (c : Fin 16) (t : RefTgt) : Nat := refKey (chan s c).ref.gran t.rank.val t.bank.val

/-- One catch-up refresh (R180, R187). -/
def catchup (s : State) (c : Fin 16) (t : RefTgt) : State :=
  let key := tgtKey s c t
  let p := smGet 0 (chan s c).ref.owed key
  if 0 < p ∧ !rtQueued s c key ∧ !windowOn s c then
    let s := refreshTarget s c key (nowCk s c)
    cntInc (modRef s c fun r => { r with owed := smSet 0 r.owed key (p - 1) }) (rRefCatchupCnt c.val)
  else s

def execCatchupRefresh (c : Fin 16) (t : RefTgt) (s : State) : Host.Outcome State Fault Refusal := ok (catchup s c t)

/-- A backstop tick: d rises by one; the backstop is due where d reaches L + 1, or 1 while the Beat is not valid
(R182, R183). -/
def backstopTick (s : State) (c : Fin 16) (t : RefTgt) : State :=
  let key := tgtKey s c t
  modRef s c fun r =>
    let d := smGet 0 r.debit key + 1
    let due : Int := if s.beat.valid then refL r.gran + 1 else 1
    { r with
      debit := smSet 0 r.debit key d
      backstop := if due ≤ d ∧ key ∉ r.backstop then r.backstop ++ [key] else r.backstop }

def execBackstopTick (c : Fin 16) (t : RefTgt) (s : State) : Host.Outcome State Fault Refusal :=
  ok (backstopTick s c t)

/-- The backstop's refresh (R182). A window or dwell in progress ends at once (R187, R222). -/
def refBackstop (s : State) (c : Fin 16) (t : RefTgt) : State :=
  let key := tgtKey s c t
  if key ∈ (chan s c).ref.backstop then
    let s := probeAbort (cutWindow s c) c 3
    let s := refreshTarget s c key (nowCk s c)
    let s := modRef s c fun r => { r with backstop := r.backstop.filter (fun x => x ≠ key) }
    evd (cntInc s (rRefBackstopCnt c.val)) (chEv c 6) (detail32 t.rank.val)
  else s

def execRefBackstop (c : Fin 16) (t : RefTgt) (s : State) : Host.Outcome State Fault Refusal := ok (refBackstop s c t)

/-! Temperature and granularity (R176 to R178). -/

/-- The refresh multiplier of an MR4 reading (R176). -/
def mr4M : Mr4 → Nat
  | .x1 => 1
  | .x2 => 2
  | .x4 | .beyond => 4

/-- The multiplier a poll gives (R176); a sensor whose poll fails counts as hot (R230). -/
def pollM (hot : Nat) (r : PollRead) : Nat :=
  let h : Bool := r.temps.any (fun t => decide (hot ≤ t)) || !r.fails.isEmpty
  (r.mr4.map mr4M).foldl max (if h then 2 else 1)

/-- The change of m that a poll asks for (R177). -/
def pollNext (r : RefSt) (m : Nat) : RefSt :=
  if r.m < m then { r with mNext := some m, lowPolls := 0 }
  else if m < r.m then
    let n := if r.lowM = m ∧ 0 < r.lowPolls then r.lowPolls + 1 else 1
    { r with lowPolls := n, lowM := m, mNext := if 2 ≤ n then some m else none }
  else { r with mNext := none, lowPolls := 0 }

/-- One poll (R176): its sideband transfers and their failures (R229), TEMP_OVER, and the change of m it asks for. A bus that the
boot ROM has not enabled makes no transfer. -/
def tempPoll (s : State) (c : Fin 16) (r : PollRead) : State :=
  let r := if s.sbus[busOf c].on then r else { r with temps := [], xfers := 0, fails := [] }
  let s := cntAdd s (rSbiXferCnt c.val) r.xfers
  let s := forEach r.fails s fun s f => sbFailed s c f.code f.slot f.lid
  let s := doIf (r.mr4.contains .beyond) (fun s => ev s (chEv c 9)) s
  let m := pollM (fld s (rRefTemp c.val) 15 8) r
  modRef s c fun x => pollNext x m

def execTempPoll (c : Fin 16) (r : PollRead) (s : State) : Host.Outcome State Fault Refusal := ok (tempPoll s c r)

/-- REF.STATUS.m encoding. -/
def mCode (m : Nat) : Nat := if m = 4 then 2 else m - 1

/-- The next change of m takes effect (R177). -/
def tempRate (s : State) (c : Fin 16) : State :=
  match (chan s c).ref.mNext with
  | none => s
  | some m =>
    let s := modRef s c fun r => { r with m := m, mNext := none, lowPolls := 0, gen := r.gen + 1 }
    evd s (chEv c 8) (detail32 (mCode m))

def execTempRate (c : Fin 16) (s : State) : Host.Outcome State Fault Refusal := ok (tempRate s c)

/-- A committed granularity is applied at the first slot at which no target owes a refresh (R178). -/
def granChanged (s : State) (c : Fin 16) : State :=
  match (chan s c).ref.granNext with
  | none => s
  | some g =>
    if (chan s c).ref.owed.isEmpty then
      ev (modRef s c fun r => { r with gran := g, granNext := none, owed := [], gen := r.gen + 1 }) (chEv c 13)
    else s

def execGranChanged (c : Fin 16) (s : State) : Host.Outcome State Fault Refusal := ok (granChanged s c)

/-! Sequencer windows (R186). -/

/-- REF.ERR takes the first refusal since its last read. -/
def refErr (s : State) (c : Fin 16) (reason : Nat) : State :=
  if rbit s (rRefErr c.val) 31 then s
  else setReg s (rRefErr c.val) (packFields [(31, 1), (0, reason)])

/-- The first start at or after Beat `b` at which a window of `d` ns overlaps no quiet window. -/
def windowAt (s : State) (c : Fin 16) (b d : Nat) : Nat :=
  let q := refQ s c
  let w := quietLen s c
  let x := (((b : Int) - (slotBase s c : Int) + (refLead s c : Int)) % (q : Int)).toNat
  if x < w then b + (w - x) else if q < x + d then b + (q - x) + w else b

/-- A window that has slipped: REF.SLIP_CNT counts it, and it waits for its new start (R186). -/
def windowSlip (s : State) (c : Fin 16) (w : WinReq) (probe : Bool) : State :=
  modRef (cntInc s (rRefSlipCnt c.val)) c fun r =>
    if probe then { r with nextDwell := some w } else { r with nextRetrain := some w, gen := r.gen + 1 }

/-- A window requested at a Beat: it is refused where it can never fit, and slips past quiet windows (R186). -/
def windowStart (s : State) (c : Fin 16) (b d : Nat) (probe : Bool) : State :=
  if refQ s c < d + quietLen s c then ev (refErr s c 5) (chEv c 12)
  else
    let start := windowAt s c b d
    let w : WinReq := ⟨start, d⟩
    if start ≠ b then windowSlip s c w probe
    else modRef s c fun r =>
      if probe then { r with nextDwell := some w }
      else if r.nextRetrain = some w then r else { r with nextRetrain := some w, gen := r.gen + 1 }

def execWindowStart (c : Fin 16) (beat : Nat) (len : Nat) (probe : Bool) (s : State) :
    Host.Outcome State Fault Refusal :=
  ok (windowStart s c beat len probe)

/-! The windows themselves (R186, R217, R219, R225). -/

/-- A window that begins now is checked again: a request that waits for its start is not due, a window that can never fit is
refused, and one that meets a quiet window slips, to the start in `next` (R186). The flag tells that it may begin. -/
def windowCheck (s : State) (c : Fin 16) (d : Nat) (wait : Option WinReq) (probe : Bool) : Bool × State :=
  let b := beatNs s
  if (wait.map fun w => decide (b < w.start)).getD false then (false, s)
  else if refQ s c < d + quietLen s c then (false, ev (refErr s c 5) (chEv c 12))
  else
    let start := windowAt s c b d
    if start = b then (true, s) else (false, windowSlip s c ⟨start, d⟩ probe)

/-- A retraining window (R217). `osc` are the oscillator readings as changes of write delay, `sweep` the read-sweep
results, `failed` tells a failed read or sweep, and `cut` a backstop refresh inside the window before its adjustments
are applied (R218). -/
def retrainWindow (s : State) (c : Fin 16) (osc : List OscRead) (sweep : List SweepRead) (failed cut : Bool) : State :=
  if s.beat.valid && rbit s (rPhyRtCfg c.val) 31 && decide ((chan s c).sch.sr = .active) && !windowOn s c then
    let (go, s) := windowCheck s c (4 * fld s (rPhyRtCfg c.val) 9 0) (chan s c).ref.nextRetrain false
    if go then
      let pr := (chan s c).phy.nextPrank
      let s := retrainOpen s c failed
      let n := smGet 0 (chan s c).phy.oscFail pr
      let s := if cut then cutWindow s c else retrainAdjust s c pr osc sweep
      if n = 3 then linkFail s c else s
    else s
  else s

def execRetrainWindow (c : Fin 16) (osc : List OscRead) (sweep : List SweepRead) (failed cut : Bool) (s : State) :
    Host.Outcome State Fault Refusal :=
  ok (retrainWindow s c osc sweep failed cut)

/-- A dwell starts (R220, R225). -/
def probeDwell (s : State) (c : Fin 16) : State :=
  if s.beat.valid && probeRun s c && !(chan s c).phy.dwelling then
    let p := (chan s c).phy
    let keep : Bool := decide (0 < p.dwell) && tgtOk s c p.target
    match if keep then some p.target else tgtFrom s c (tgtIdx p.target) with
    | none => s
    | some t =>
      let (go, s) := windowCheck s c (4 * fld s (rPrbCfg c.val) 18 10) (chan s c).ref.nextDwell true
      if go then
        let z : Vector Nat 4 := Vector.replicate 4 0
        let s := modRef s c fun r => { r with nextDwell := none }
        modPhy s c fun p =>
          if keep then { p with dwelling := true, dBits := z, dMisses := z }
          else { p with dwelling := true, target := t, dwell := 0, bits := z, misses := z, dBits := z, dMisses := z }
      else s
  else s

def execProbeDwell (c : Fin 16) (s : State) : Host.Outcome State Fault Refusal := ok (probeDwell s c)

/-! Row disturbance (R188 to R192). -/

/-- DST.CFG.thresh. -/
def dstThresh (s : State) (c : Fin 16) : Nat := fld s (rDstCfg c.val) 15 0

/-- A row queued for a neighbour refresh. -/
def queueNbr (s : State) (c : Fin 16) (k : Coord) : State :=
  modRef s c fun r => { r with nbrQ := r.nbrQ ++ [⟨k.sub, k.rank, k.bg, k.ba, k.row⟩] }

/-- Position of the lowest-count way at or below the spill value; ties go to the lowest way. -/
def dstVictim (ways : List (Nat × Nat)) (spill : Nat) : Option Nat :=
  ((List.range ways.length).filter (fun i => (ways.getD i (0, 0)).2 ≤ spill)).foldl
    (fun best i => match best with
      | none => some i
      | some j => if (ways.getD i (0, 0)).2 < (ways.getD j (0, 0)).2 then some i else some j) none

/-- One ACT counted in a set, with whether the row's count and the spill value rose (R189). -/
def dstAct (d : DstSet) (row : Nat) : DstSet × Option Nat × Option Nat :=
  match d.ways.find? (fun w => w.1 = row) with
  | some w => ({ d with ways := d.ways.map (fun x => if x.1 = row then (row, w.2 + 1) else x) }, some (w.2 + 1), none)
  | none =>
    if d.ways.length < 8 then ({ d with ways := d.ways ++ [(row, d.spill + 1)] }, some (d.spill + 1), none)
    else
      match dstVictim d.ways d.spill with
      | some i => ({ d with ways := d.ways.set i (row, d.spill + 1) }, some (d.spill + 1), none)
      | none => ({ d with spill := d.spill + 1 }, none, some (d.spill + 1))

/-- Set index of R189: subchannel, rank[2:0], bg, ba. -/
def dstIdx (k : Coord) : Nat := k.sub * 256 + k.rank % 8 * 32 + k.bg * 4 + k.ba

/-- An ACT issued by the scheduler is counted or drawn (R189, R190), and counted in RAA (R192). -/
def countAct (s : State) (c : Fin 16) (k : Coord) : State :=
  let b := bankKey k
  let s := modRef s c fun r => if r.rfmReq then { r with raa := smSet 0 r.raa b (smGet 0 r.raa b + 1) } else r
  if rankCount s ≤ 8 then
    let (d, cnt, sp) := dstAct (smGet ⟨[], 0⟩ (chan s c).ref.sets (dstIdx k)) k.row
    let s := modRef s c fun r => { r with sets := smSet ⟨[], 0⟩ r.sets (dstIdx k) d }
    let th := dstThresh s c
    let s := match cnt with
      | some n => if n % th = 0 then queueNbr s c k else s
      | none => s
    match sp with
    | some n =>
      if n % th = 0 then
        let s := modRef s c fun r => { r with rfmDue := r.rfmDue ++ [b] }
        evd (cntInc s (rDstSpillCnt c.val)) (chEv c 10) (detail32 (dstIdx k))
      else s
    | none => s
  else
    let (v, s) := drawFree 32 s
    let s := modRef s c fun r => { r with lfsr := v }
    if v.toNat % 2 ^ fld s (rDstCfg c.val) 19 16 = 0 then queueNbr s c k else s

/-- A mitigation of a bank may start: the rank neither refreshes nor is due to, no quiet or retraining window holds it, and
the sequencer has the pins (R187, R207, R217). -/
def mitigates (s : State) (c : Fin 16) (k : Coord) : Bool :=
  let r := (chan s c).ref
  seqRuns s c && decide ((chan s c).sch.sr = .active) && !quietAt s c k
    && decide ((chan s c).phy.window ≠ some (prankOf s k.rank))
    && r.busy.all (fun e => decide (e.1 / 4 ≠ k.rank) || decide (e.2 ≤ nowCk s c))
    && r.backstop.all fun x => decide (x / 4 ≠ k.rank)

/-- An ACT would take a bank's RAA above raammt; it waits for an RFM (R192). -/
def raaFull (s : State) (c : Fin 16) (b : Nat) : Bool :=
  let r := (chan s c).ref
  r.rfmReq && decide (r.raammt ≤ smGet 0 r.raa b)

/-- A neighbour refresh of a row with `n` neighbours: its ACTs, tRC apart, from the first time that timing allows (R191). -/
def nbrStart (s : State) (c : Fin 16) (k : Coord) (n : Nat) : State :=
  let b := bankKey k
  let s := closeBanks (rankWake s c k.rank) c (· = b)
  let t := actTime s c k n (nowCk s c)
  let last := t + (n - 1) * tRc s c
  let s := modBank s c b fun x => { x with act := some last, pre := some (last + tRas s c) }
  let s := modRef s c fun r => { r with
    raa := if r.rfmReq then smSet 0 r.raa b (smGet 0 r.raa b + n) else r.raa
    nbrActs := r.nbrActs.filter (fun a => decide (nowCk s c < a.time + tFaw s c))
      ++ (List.range n).map fun i => ⟨k.sub, k.rank, k.bg, t + i * tRc s c⟩ }
  cntInc (seqTake s c k.sub (2 * n)) (rDstNrefCnt c.val)

/-- The oldest waiting neighbour refresh whose bank can take it: the rows two below to two above that exist (R187, R191). -/
def neighbourRefresh (s : State) (c : Fin 16) : State :=
  let at' (x : NbrRow) : Coord := ⟨c.val, x.sub, x.rank, x.bg, x.ba, x.row, 0⟩
  match (chan s c).ref.nbrQ.find? fun x => mitigates s c (at' x) && !raaFull s c (bankKey (at' x)) with
  | none => s
  | some x =>
    let n := ([-2, -1, 1, 2] : List Int).countP (fun o =>
      decide (0 ≤ (x.row : Int) + o ∧ (x.row : Int) + o < (2 ^ rowBits s : Int)))
    nbrStart (modRef s c fun r => { r with nbrQ := eraseFirst (fun y => y = x) r.nbrQ }) c (at' x) n

def execNeighbourRefresh (c : Fin 16) (s : State) : Host.Outcome State Fault Refusal := ok (neighbourRefresh s c)

/-- Every count and spill value cleared (R189). -/
def dstTableClear (s : State) (c : Fin 16) : State :=
  modRef s c fun r => { r with sets := [], stallSeen := false }

def execDstTableClear (c : Fin 16) (s : State) : Host.Outcome State Fault Refusal := ok (dstTableClear s c)

/-- One RFM to a bank, unavailable for tRFCsb (R192). -/
def rfmBank (s : State) (c : Fin 16) (b : Nat) : State :=
  let s := closeBanks (rankWake s c (keyRank b)) c (· = b)
  let x := bankAt s c b
  let t := max (max (nowCk s c) (rankAt s c (keyRank b)).ready) (after x.pre (tRp s c))
  let s := modBank s c b fun x => { x with pre := some (t + trfcCk s c 2 - tRp s c) }
  let s := modRef s c fun r => rfmWaitKeep { r with raa := smSet 0 r.raa b (smGet 0 r.raa b - r.raaimt) }
  cntInc (seqTake s c (keySub b) 1) (rDstRfmCnt c.val)

/-- RFM to a bank whose RAA has reached raaimt or whose spill response is due; where the DIMM does not support RFM the
spill response is an extra REFab to the rank (R187, R189, R192). -/
def rfmIssue (s : State) (c : Fin 16) (b : BankId) : State :=
  let k : Coord := ⟨c.val, b.sub.val, b.rank.val, b.bg.val, b.ba.val, 0, 0⟩
  let key := bankKey k
  let r := (chan s c).ref
  let spill : Bool := decide (key ∈ r.rfmDue)
  let due : Bool := r.rfmReq && decide (r.raaimt ≤ smGet 0 r.raa key)
  if (spill || due) && mitigates s c k then
    let s := modRef s c fun r => { r with rfmDue := eraseFirst (fun x => x = key) r.rfmDue }
    if Config.rfmSupported c.val || r.rfmReq then rfmBank s c key else refreshRank s c b.rank.val
  else s

def execRfmIssue (c : Fin 16) (b : BankId) (s : State) : Host.Outcome State Fault Refusal := ok (rfmIssue s c b)

/-! Commit and Release checks. -/

/-- First failing check of R172 on the values in force, as REF.ERR.reason. -/
def refCommitErr (s : State) (c : Fin 16) : Option Nat :=
  let bad (g : Nat) : Bool := refPeriod4 s c g = 0 || decide (refMaxPeriod s g < refPeriod4 s c g)
  if bad 0 || bad 1 || bad 2 then some 1
  else if refP s c / 4 ≤ quietLen s c then some 2
  else if 15 < fld s (rRefRt c.val) 3 0 then some 4
  else none

/-- Floor of a REF.TRFC field (R193): the factory minimum for the speed grade. -/
def trfcFloor (s : State) (c : Fin 16) (g : Nat) : Nat := Config.trfcMin (fld s (rSchSpeed c.val) 3 0) g

/-- Whether REF.TRFC in force is at or above its floors (R193). -/
def trfcOk (s : State) (c : Fin 16) : Bool :=
  (List.range 3).all (fun g => trfcFloor s c g ≤ trfcCk s c g)

/-- p and d of every target restart at self-refresh exit (R183), and the forecast changes (R185). -/
def refSrExit (s : State) (c : Fin 16) : State :=
  modRef s c fun r => { r with owed := [], debit := [], limSeen := [], backstop := [], gen := r.gen + 1 }

end Sys2Proof.Machine
end

