-- ==== Sys2Proof/Machine/Tt.lean ====
section
/-!
DEFINITION. Transaction Table entries, epochs in force, and placing completions in return buffers, in the cure wait list or
with the engines (R52, R57 to R60, R71, R128, R129, R295 to R299).
-/
namespace Sys2Proof.Machine
open Sys2Proof

/-! Epochs. -/

/-- Epoch `a` is at or before epoch `b` in serial arithmetic (R296). -/
def epLe (a b : BitVec 32) : Bool := decide ((b - a).toNat < 2 ^ 31)

/-- The earlier of two epochs. -/
def epMin (a b : BitVec 32) : BitVec 32 := if epLe a b then a else b

/-- The later of two epochs. -/
def epMax (a b : BitVec 32) : BitVec 32 := if epLe a b then b else a

/-- A panel whose writes go to a lender: REMOTE or being moved (R42). -/
def lending (s : State) (p : Nat) : Bool :=
  tiered s && decide (2 ≤ peState (pmapGet s p) ∧ peState (pmapGet s p) ≤ 4)

/-- Whether an admitted write is not yet locally durable: forwarded, or waiting for a lender's acknowledgement or a frame
access, the lending read before it included (R43, R297, R343). -/
def notDurable (s : State) (t : TtEntry) : Bool :=
  t.epoch.isSome && (decide (t.stage = .twinWait) || decide (t.stage = .fwdWait) || decide (t.stage = .slotWait)
    || decide (t.stage = .lent) || (decide (t.stage = .miss) && lending s (panelOf t.req.addr.toNat)))

/-- Lc (R297). -/
def curLc (s : State) : BitVec 32 :=
  (s.tt.filter (notDurable s)).foldl (fun acc t => match t.epoch with | some e => epMin acc (e - 1) | none => acc)
    (s.cure.e - 1)

/-- T (R298). -/
def curT (s : State) : BitVec 32 := s.cure.marks.toList.foldl epMin s.cure.marks[0]

/-- C (R299). -/
def curC (s : State) : BitVec 32 :=
  match s.cure.mstate with
  | .mirrored | .stalled => epMin (curLc s) (curT s)
  | .attaching => epMin (epMin (curLc s) (curT s)) (s.cure.attachE - 1)
  | .degraded => curLc s
  | .detached => s.cure.cDet

/-! TT entries. -/

def ttFind (s : State) (rid : Nat) : Option TtEntry := s.tt.find? (fun t => t.req.rid = rid)

def ttMod (s : State) (rid : Nat) (f : TtEntry → TtEntry) : State :=
  { s with tt := s.tt.map fun t => if t.req.rid = rid then f t else t }

/-- Whether a record holds a TT entry: a lending access holds a slot instead (R43). -/
def inTt (t : TtEntry) : Bool := match t.cls with | .slot _ => false | _ => true

/-- Shared entries of a pool in use. -/
def poolUsed (s : State) (pool : Nat) : Nat := s.tt.countP (fun t => t.req.pool.val = pool && decide (t.cls = .shared))

/-- Shared entries: 4,096 less the reserves (R130). -/
def ttShared (s : State) : Nat :=
  4096 - fld s rAdmTtRes 23 16 - fld s rAdmTtRes 15 8 - fld s rAdmTtRes 7 0

/-- Shared entries in use. -/
def ttSharedUsed (s : State) : Nat := s.tt.countP (fun t => t.cls = .shared)

/-- TT_FULL and POOL_AT_CAP may be raised again where their conditions have cleared (R132). -/
def ttClear (s : State) : State :=
  let caps : BitVec 16 := (List.range 16).foldl (fun m p =>
    if poolUsed s p < fld s rAdmTtCap 12 0 then m &&& ~~~ ((1 : BitVec 16) <<< p) else m) s.adm.capSeen
  { s with adm := { s.adm with
      fullSeen := s.adm.fullSeen && decide (ttShared s ≤ ttSharedUsed s)
      capSeen := caps } }

/-- The later of two epochs, where there are any. -/
def epJoin (a b : Option (BitVec 32)) : Option (BitVec 32) :=
  match a, b with
  | some x, some y => some (epMax x y)
  | some x, none => some x
  | none, y => y

/-- Epochs of writes that still hold their TT entries, one of which has ended without an error: those left, and the latest
with it. -/
def epsFold (rid : Nat) (mirOnly : Bool) (eps : List OpenEp) (e : Option (BitVec 32)) : Option (BitVec 32) :=
  (eps.filter fun x => decide (x.rid = rid) && (x.mir || !mirOnly)).foldl (fun a x => epJoin a (some x.epoch)) e

/-- A write has ended without an error: its epoch stays among those its port's fences cover (R63). -/
def fenceFold (s : State) (p : Fin 8) (rid : Nat) : State :=
  let out (l : List OpenEp) : List OpenEp := l.filter fun x => x.rid ≠ rid
  modPort s p fun x => { x with
    lastEp := epsFold rid false x.eps x.lastEp
    lastMir := epsFold rid true x.eps x.lastMir
    eps := out x.eps
    fences := x.fences.map fun f => { f with
      epoch := epsFold rid false f.eps f.epoch
      mirEp := epsFold rid true f.eps f.mirEp
      eps := out f.eps } }

/-- An entry released. -/
def ttDrop (s : State) (rid : Nat) : State :=
  let s := match (ttFind s rid).map fun t => t.req.dest with
    | some (.port p _) => fenceFold s p rid
    | _ => s
  ttClear { s with tt := s.tt.filter (fun t => t.req.rid ≠ rid) }

/-! Completions on a port. -/

/-- Code encodings of R57. -/
def codeNo : Code → Nat
  | .ok => 0
  | .poison => 1
  | .errRange => 2
  | .errLock => 3
  | .errFenced => 4
  | .errPower => 5
  | .cureDegraded => 6

/-- Whether a read-class completion brings an RD beat (R58). -/
def hasBeat (read : Bool) (code : Code) : Bool := read && (decide (code = .ok) || decide (code = .poison))

/-- A completion that leaves a port in QUIESCE or DOWN is discarded and counted (R71). -/
def portDiscard (s : State) (p : Fin 8) (n : Nat) : State :=
  let s := cntAdd s (rFrpDiscardCnt p.val) n
  if (port s p).discSeen || decide ((port s p).mode ≠ .quiesce) then s
  else ev (modPort s p fun x => { x with discSeen := true }) (portEv p 3)

/-- Room in the return buffer for a completion and its beat (R52). -/
def portRoom (s : State) (p : Fin 8) (beat : Bool) : Bool :=
  decide ((port s p).cmpBuf.length < 128) && (!beat || decide ((port s p).rdBuf.length < 64))

/-- A completion placed in the return buffer: beat first, then the completion; errors counted (R57 to R59). -/
def portPlace (s : State) (p : Fin 8) (tag : Nat) (read : Bool) (code : Code) (data : LineData) : State :=
  let s := doIf (decide (code ≠ .ok)) (fun s => cntInc s (rFrpErrCnt p.val)) s
  let s := if code = .errPower ∧ (port s p).pwrArm then
      ev (modPort s p fun x => { x with pwrArm := false }) (portEv p 5)
    else s
  modPort s p fun x => { x with
    rdBuf := if hasBeat read code then
        x.rdBuf ++ [⟨tag, if code = .poison then 0 else data, decide (code = .poison)⟩]
      else x.rdBuf
    cmpBuf := x.cmpBuf ++ [⟨tag, code⟩]
    nops := x.nops.map fun n => { n with tags := n.tags.filter (fun t => t ≠ tag) } }

/-- Completions of NOPs whose earlier requests have all completed, while the return buffer has room (R53, R68). -/
def nopPump (s : State) (p : Fin 8) : State :=
  forEach (port s p).nops s fun s n =>
    match (port s p).nops.find? (fun m => m.tag = n.tag) with
    | some m =>
      if m.tags.isEmpty ∧ portRoom s p false then
        portPlace (modPort s p fun x => { x with nops := x.nops.filter (fun k => k.tag ≠ n.tag) }) p n.tag false .ok 0
      else s
    | none => s

/-- A request of a port completes: placed, or discarded in QUIESCE and DOWN. The flag tells that it has left. -/
def portComplete (s : State) (p : Fin 8) (tag : Nat) (read : Bool) (code : Code) (data : LineData) : Bool × State :=
  if (port s p).mode ≠ .up then
    let s := modPort s p fun x => { x with
      tags := x.tags.filter (fun t => t ≠ tag)
      nops := x.nops.map fun n => { n with tags := n.tags.filter (fun t => t ≠ tag) } }
    (true, portDiscard s p (if hasBeat read code then 2 else 1))
  else if portRoom s p (hasBeat read code) then (true, nopPump (portPlace s p tag read code data) p)
  else (false, s)

/-- Whether an operation is read-class (R53). -/
def isReadOp : MemOp → Bool
  | .rdLine | .rdPart | .add8 | .cas8 => true
  | _ => false

/-- Whether an operation is write-class (R53). -/
def isWriteOp : MemOp → Bool
  | .wrLine | .wrPart | .add8 | .cas8 => true
  | _ => false

/-- A completion delivered to whoever waits for it. The flag tells that it has left. -/
def deliver (s : State) (d : Dest) (read : Bool) (code : Code) (data : LineData) : Bool × State :=
  match d with
  | .port p tag => portComplete s p tag read code data
  | .drop | .joiner _ _ => (true, s)
  | .move n k => (true, if s.tier.moves.any fun m => decide (m.num = n) then
      { s with results := s.results ++ [⟨.move n k, code, if code = .poison then 0 else data⟩] } else s)
  | d => (true, { s with results := s.results ++ [⟨d, code, if code = .poison then 0 else data⟩] })

/-- A completion due of one entry is placed if it can be: in Sync mode before its epoch is cured it goes to the cure
wait list, which holds 8,192 (R129, R301). In DEGRADED it waits for no epoch. A request of an engine is acknowledged by its engine's own rules (R380). -/
def placeDue (s : State) (t : TtEntry) (x : CmpDue) : Bool × State :=
  let atPort : Bool := match t.req.dest with | .port _ _ => true | _ => false
  let wait : Option (BitVec 32) := match x.sync.filter fun _ => atPort with
    | some e =>
      if decide (s.cure.mstate = .degraded) || (epLe e (curC s) && decide (s.cure.mstate ≠ .detached)) then none else some e
    | none => none
  match wait with
  | none =>
    let code := if x.sync.isSome && decide (s.cure.mstate = .degraded) then Code.cureDegraded else x.code
    let (gone, s) := deliver s t.req.dest (isReadOp t.req.op) code x.data
    (gone, doIf (gone && decide (code = .cureDegraded)) (fun s => cntInc s rCurDegrCnt) s)
  | some e =>
    if s.cure.waits.length < 8192 then
      let s := { s with cure := { s.cure with
        waits := s.cure.waits ++ [⟨e, t.req.dest, isReadOp t.req.op, x.code, x.data⟩] } }
      (true, doIf (decide (s.cure.waits.length = 8192)) (fun s => ev s 136) s)
    else (false, s)

/-- An entry's completion placed where possible, and the entry released once nothing holds it (R128, R304). -/
def ttSettle (s : State) (rid : Nat) : State :=
  match ttFind s rid with
  | none => s
  | some t =>
    let (s, due) := match t.cmp with
      | none => (s, false)
      | some x =>
        let (gone, s) := placeDue s t x
        if gone then (ttMod s rid fun t => { t with cmp := none }, false) else (s, true)
    if t.stage = .left ∧ t.capt ∧ !due then ttDrop s rid else s

/-- An entry's data has been delivered or has left, with the completion it makes due. -/
def ttLeave (s : State) (rid : Nat) (cmp : Option CmpDue) : State :=
  ttSettle (ttMod s rid fun t => { t with stage := .left, cmp := t.cmp.orElse (fun _ => cmp) }) rid

/-- A completion becomes due while the entry's data is still on its way (R39: Epoch and Local modes). -/
def ttDue (s : State) (rid : Nat) (x : CmpDue) : State :=
  ttSettle (ttMod s rid fun t => { t with cmp := some x }) rid

/-- Entries whose completion could not be placed are tried again. -/
def ttPump (s : State) : State :=
  forEach (s.tt.filter (fun t => t.cmp.isSome)) s fun s t => ttSettle s t.req.rid

/-- Sync completions whose epoch is cured, or all of them in DEGRADED, move to their return buffers (R129, R301). -/
def waitPump (s : State) : State :=
  forEach s.cure.waits s fun s w =>
    if s.cure.mstate ≠ .detached ∧ (epLe w.epoch (curC s) ∨ s.cure.mstate = .degraded) then
      let code := if s.cure.mstate = .degraded then Code.cureDegraded else w.code
      let (gone, s) := deliver s w.dest w.read code w.data
      if gone then
        let s := doIf (decide (code = .cureDegraded)) (fun s => cntInc s rCurDegrCnt) s
        { s with cure := { s.cure with waits := eraseFirst (fun v => v = w) s.cure.waits } }
      else s
    else s

/-! Completions without a TT entry (R52, R54, R63, R90). -/

/-- A request that holds no TT entry completes: placed, or kept by the port until its return buffer has room. -/
def portDone (s : State) (p : Fin 8) (tag : Nat) (read : Bool) (code : Code) (data : LineData) : State :=
  let (gone, s) := portComplete s p tag read code data
  if gone then s else modPort s p fun x => { x with due := x.due ++ [⟨tag, read, code, data⟩] }

/-- The latest epoch a fence covers, and the latest of a mirrored region. -/
def fenceEpoch (f : FenceWait) : Option (BitVec 32) := f.eps.foldl (fun a x => epJoin a (some x.epoch)) f.epoch
def fenceMir (f : FenceWait) : Option (BitVec 32) :=
  (f.eps.filter fun x => x.mir).foldl (fun a x => epJoin a (some x.epoch)) f.mirEp

/-- What a fence's completion is, once it is due (R63, R302): its covered requests are admitted, and the cured epoch, or in
DEGRADED the local epoch, has reached the latest of their epochs. -/
def fenceCode (s : State) (f : FenceWait) : Option Code :=
  if f.waits.isEmpty then
    match fenceEpoch f with
    | none => some .ok
    | some e =>
      match s.cure.mstate with
      | .detached => none
      | .degraded =>
        if epLe e (curLc s) then
          match fenceMir f with
          | none => some .ok
          | some m => some (if epLe m s.cure.cD then .ok else .cureDegraded)
        else none
      | _ => if epLe e (curC s) then some .ok else none
  else none

/-- The fences of a port whose condition holds complete (R63). -/
def fencePump (s : State) (p : Fin 8) : State :=
  forEach (port s p).fences s fun s f =>
    match fenceCode s f with
    | some code =>
      let s := modPort s p fun x => { x with fences := x.fences.filter (fun g => g ≠ f) }
      let s := match code with
        | .ok => cntInc s rCurFenceOkCnt
        | _ => cntInc s rCurDegrCnt
      portDone s p f.tag false code 0
    | none => s

/-- Every completion that an epoch, an acknowledgement or a change of the mirror state has made due. -/
def curePump (s : State) : State :=
  forEach (List.finRange 8) (waitPump (ttPump s)) fencePump

/-- What a port can place once its return buffer has room (R52, R53). -/
def portPump (s : State) (p : Fin 8) : State :=
  let due := (port s p).due
  let s := modPort s p fun x => { x with due := [] }
  let s := forEach due s fun s d => portDone s p d.tag d.read d.code d.data
  nopPump (waitPump (ttPump s)) p

/-- A request of a port no longer waits for admission, or ends in an error: its port and the fences that cover it note its
epoch, or that it has none (R63). `mir`: its region is mirrored. -/
def fenceNote (s : State) (p : Fin 8) (rid : Nat) (e : Option (BitVec 32)) (mir : Bool) : State :=
  let put (l : List OpenEp) : List OpenEp :=
    (l.filter fun x => x.rid ≠ rid) ++ (e.map fun x => OpenEp.mk rid x mir).toList
  let s := modPort s p fun x => { x with
    eps := put x.eps
    fences := x.fences.map fun f =>
      if f.waits.contains rid || f.eps.any (fun x => x.rid = rid) then
        { f with waits := f.waits.filter (fun r => r ≠ rid), eps := put f.eps }
      else f }
  fencePump s p

end Sys2Proof.Machine
end

