-- ==== Sys2Proof/Machine/Sched.lean ====
section
/-!
DEFINITION. Channel scheduler: queue entry, hazards, write drain, urgency, command issue and low-power states
(05_channel_scheduler.md).
-/
namespace Sys2Proof.Machine
open Sys2Proof

/-! Positions (R153, R258). -/

/-- Whether an Inlay entry names a row position. -/
def inlHits (e : InlEnt) (k : Coord) : Bool :=
  e.valid && e.active && decide (e.sub = k.sub ∧ e.rank = k.rank ∧ e.bg = k.bg ∧ e.ba = k.ba ∧ e.row = k.row)

/-- The position after the Inlay remap: spare `s` is row 2^row_bits − 18 + s (R258). -/
def inlMap (s : State) (c : Fin 16) (k : Coord) : Coord :=
  match (chan s c).code.inl.find? (fun e => inlHits e.2 k) with
  | some e => { k with row := 2 ^ rowBits s - 18 + e.2.spare }
  | none => k

/-- Position of a DAS address on its channel after the Inlay remap. -/
def posOf (s : State) (das : Nat) : Coord := inlMap s (chanOf s das) (coordOf s das)

/-- The requests of a channel take their positions anew once an Inlay Map entry becomes active (R153, R259). -/
def remapQueues (s : State) (c : Fin 16) : State :=
  let rd (e : RdEnt) : RdEnt := { e with coord := posOf s e.das }
  let wr (w : WrEnt) : WrEnt := { w with coord := posOf s w.das }
  modSch s c fun q => { q with
    rq := q.rq.map rd
    wq := q.wq.map wr
    glue := q.glue.map fun g => { g with coord := posOf s g.das }
    flight := q.flight.map fun f => if f.again then { f with ent := rd f.ent } else f
    arrive := q.arrive.map fun a => { a with what := match a.what with
      | .inl e => .inl (rd e)
      | .inr (.inl w) => .inr (.inl (wr w))
      | .inr (.inr w) => .inr (.inr { w with coord := posOf s w.das }) } }

/-- Whether a row is one of the spare rows. -/
def isSpareRow (s : State) (row : Nat) : Bool := decide (2 ^ rowBits s ≤ row + 18) && decide (row + 2 < 2 ^ rowBits s)

/-! Urgency (R144 to R146). -/

/-- Latency target of a requester, by REQ_QOS for a port (R144). -/
def targetOf (s : State) (c : Fin 16) (src : Fin 20) (qos : Fin 4) : Nat :=
  if src.val < 8 then fld s (rSchTgtFrp c.val src.val) (16 * qos.val + 15) (16 * qos.val)
  else
    let i := src.val - 8
    fld s (rSchTgtEng c.val (i / 2)) (16 * (i % 2) + 15) (16 * (i % 2))

/-- Tick threshold t_k (R145). -/
def urgTicks (s : State) (c : Fin 16) (target k : Nat) : Nat :=
  target * (match k with
    | 1 => fld s (rSchUrg c.val) 6 0
    | 2 => fld s (rSchUrg c.val) 14 8
    | _ => fld s (rSchUrg c.val) 22 16) / 100

/-- Urgency of a read at a tick, by the target in force, never below what it has (R145, R146). -/
def urgAt (s : State) (c : Fin 16) (now : Nat) (e : RdEnt) : Nat :=
  let target := targetOf s c e.who.src e.who.qos
  if target = 0 then e.urg
  else
    let el := now - e.stamp
    let u := if urgTicks s c target 3 ≤ el then 3 else if urgTicks s c target 2 ≤ el then 2
      else if urgTicks s c target 1 ≤ el then 1 else 0
    max e.urg u

/-- Urgency evaluated at a tick (R145); reads reaching 3 are counted. -/
def urgencyTick (s : State) (c : Fin 16) : State :=
  let now := tick s
  let n := (chan s c).sch.rq.countP (fun e => decide (e.urg < 3) && decide (urgAt s c now e = 3))
  let s := modSch s c fun q => { q with rq := q.rq.map fun e => { e with urg := urgAt s c now e } }
  cntAdd s (rSchUrg3Cnt c.val) n

def execUrgencyTick (c : Fin 16) (s : State) : Host.Outcome State Fault Refusal := ok (urgencyTick s c)

/-! Write queue and promotion (R150, R151). -/

/-- WQ_FULL where the write queue has just reached 96 (R170). -/
def wqCheck (s : State) (c : Fin 16) : State :=
  if (chan s c).sch.wq.length = 96 then ev s (chEv c 5) else s

/-- Every queued write to a line that a read waits for is promoted and counted (R151). -/
def promoteLine (s : State) (c : Fin 16) (k : Coord) (arr : Nat) : State :=
  let hit (w : WrEnt) : Bool := decide (w.coord = k ∧ w.arr < arr) && !w.promoted
  let n := (chan s c).sch.wq.countP hit
  let s := modSch s c fun q => { q with wq := q.wq.map fun w => if hit w then { w with promoted := true } else w }
  cntAdd s (rSchHazardCnt c.val) n

/-- A request arriving for a bank that already holds one with the same row puts the bank in strict order, also while the channel
trains (R152, R207). -/
def strictOnArrival (s : State) (c : Fin 16) (k : Coord) : State :=
  let q := (chan s c).sch
  let same (x : Coord) : Bool := decide (bankKey x = bankKey k ∧ x.row = k.row)
  if (rbit s (rSchCtl c.val) 8 || (chan s c).phy.run.isSome)
      && (q.rq.any (fun e => same e.coord) || q.wq.any (fun e => same e.coord)) then
    modBank s c (bankKey k) fun x => { x with strict := true }
  else s

/-- Reads of patrol scrub to a line take note that a newer write has reached the queues, and a repair that patrol scrub asked
for is dropped (R255). -/
def noteScrub (s : State) (c : Fin 16) (k : Coord) : State :=
  let f (e : RdEnt) : RdEnt := match e.dest with
    | .scrub rid _ => if e.coord = k then { e with dest := .scrub rid true } else e
    | _ => e
  let s := modSch s c fun q => { q with
    rq := q.rq.map f
    flight := q.flight.map fun x => { x with ent := f x.ent }
    arrive := q.arrive.map fun a => match a.what with
      | .inl e => { a with what := .inl (f e) }
      | _ => a }
  { s with cure := { s.cure with repairs := s.cure.repairs.filter fun r => decide (r.who ≠ .scrub) || decide (posOf s r.das ≠ k) } }

/-- A write put in the write queue. -/
def pushWrite (s : State) (c : Fin 16) (w : WrEnt) : State :=
  let s := strictOnArrival s c w.coord
  wqCheck (modSch s c fun q => { q with wq := q.wq ++ [w] }) c

/-- The full line of a Glue-up entry put in the write queue; the write is promoted where a read waits for it (R151). -/
def pushGlue (s : State) (c : Fin 16) (g : GlueEnt) (raw : RawLine) : State :=
  let s := pushWrite s c ⟨g.arr, g.coord, g.das, raw, g.byRead, g.rt⟩
  doIf g.byRead (fun s => cntInc s (rSchHazardCnt c.val)) s

/-! Glue-up buffer (R248 to R250, R154). -/

/-- An entry leaves as one full-line write without a read. -/
def glueFull (g : GlueEnt) : Bool := g.full || g.poison

/-- Whether a merge read of an entry is queued. -/
def mergeQueued (q : SchedSt) (gid : Nat) : Bool := q.rq.any (fun e => e.dest = .merge gid)

/-- The read queue has room for a read that has not been issued yet; one that is to be reissued goes before it (R136, R222). -/
def rqRoom (q : SchedSt) : Bool := decide (q.rq.length < 128) && q.flight.all fun f => !f.again

/-- One closed entry moves on: to the write queue, or its merge read to the read queue, where there is room (R154). -/
def glueStep (s : State) (c : Fin 16) (g : GlueEnt) : State :=
  let q := (chan s c).sch
  if !g.closed || g.issued then s
  else if glueFull g then
    if q.wq.length < 96 then
      let s := modSch s c fun q => { q with glue := q.glue.filter (fun x => x.gid ≠ g.gid) }
      cntInc (pushGlue s c g (encodeLine g.data g.poison)) (rGluFullCnt c.val)
    else s
  else if mergeQueued q g.gid then s
  else if rqRoom q then
    let e : RdEnt := ⟨g.arr, g.coord, g.das, .merge g.gid, g.stamp, g.who, 0, g.rt, false⟩
    let s := promoteLine s c g.coord g.arr
    let s := strictOnArrival s c g.coord
    cntInc (modSch s c fun q => { q with rq := q.rq ++ [e] }) (rGluMergeCnt c.val)
  else s

/-- Every closed entry moves on where it can, oldest first. -/
def glueAdvance (s : State) (c : Fin 16) : State := forEach (chan s c).sch.glue s fun s g => glueStep s c g

/-- Entries that meet a condition close at once (R249). Where a read closes them, the write that results from an entry whose merge
read has been issued is promoted too (R151). -/
def glueClose (s : State) (c : Fin 16) (p : GlueEnt → Bool) (byRead : Bool) : State :=
  glueAdvance (modSch s c fun q => { q with
    glue := q.glue.map fun g => if p g then { g with closed := true, byRead := g.byRead || byRead } else g }) c

/-- The entry a write to a line joins: its merge read has not been issued (R154, R248). -/
def joinable (k : Coord) (g : GlueEnt) : Bool := decide (g.coord = k) && !g.issued

/-- A write of bytes joined to an entry: later bytes overwrite earlier ones (R248); a poisoned write poisons the line, and
a full-line write supplies all of it (R249, R250). -/
def glueJoin (s : State) (w : PartWr) (g : GlueEnt) : GlueEnt × State :=
  if w.full then
    ({ g with data := w.data, mask := BitVec.allOnes 64, poison := w.poison, full := true, closed := true }, s)
  else if w.poison then
    ({ g with data := mergeLine w.mask w.data g.data, mask := g.mask ||| w.mask, poison := true, closed := true }, s)
  else
    let m := g.mask ||| w.mask
    ({ g with data := mergeLine w.mask w.data g.data, mask := m, closed := g.closed || decide (m = BitVec.allOnes 64) }, s)

/-- Bytes of a poisoned line that no write supplied, which the spec leaves open. -/
def fillOpen (s : State) (g : GlueEnt) : GlueEnt × State :=
  if g.poison && !g.full then
    let (v, s) := drawFree 512 s
    ({ g with data := mergeLine g.mask g.data v, mask := BitVec.allOnes 64 }, s)
  else (g, s)

/-- A partial write enters the Glue-up buffer: it joins the line's entry or opens one; where the buffer is full the oldest
entry closes and the write waits (R248, R249). -/
def gluePut (s : State) (c : Fin 16) (w : PartWr) : Option State :=
  let q := (chan s c).sch
  match q.glue.find? (joinable w.coord) with
  | some g =>
    let (g', s) := glueJoin s w g
    let (g', s) := fillOpen s g'
    some (glueAdvance (modSch s c fun q => { q with
      glue := q.glue.map fun x => if x.gid = g.gid then g' else x }) c)
  | none =>
    if q.glue.length < 64 then
      let win := fld s (rGluCfg c.val) 7 0
      let g : GlueEnt :=
        { gid := q.nextGid, arr := q.nextArr, coord := w.coord, das := w.das, lms := w.lms, data := 0, mask := 0,
          poison := false, full := false,
          closed := decide (win = 0) || decide (q.hold ≠ .run) || decide (q.wstate = .flush),
          issued := false, byRead := false, repair := false, stamp := w.stamp, who := w.who, rt := w.rt }
      let (g, s) := glueJoin s w g
      let (g, s) := fillOpen s g
      some (glueAdvance (modSch s c fun q => { q with
        glue := q.glue ++ [g], nextGid := q.nextGid + 1, nextArr := q.nextArr + 1 }) c)
    else none

/-! Queue entry (R136). -/

/-- The line an arrival is for. -/
def arrivalCoord (a : Arrival) : Coord :=
  match a.what with
  | .inl e => e.coord
  | .inr (.inl w) => w.coord
  | .inr (.inr w) => w.coord

/-- A read enters the read queue (R150): writes to its line are promoted and its line's Glue-up entry closes. -/
def enterRead (s : State) (c : Fin 16) (e : RdEnt) : Option State :=
  let q := (chan s c).sch
  if rqRoom q then
    let n := q.nextArr
    let s := strictOnArrival s c e.coord
    let s := modSch s c fun q => { q with rq := q.rq ++ [{ e with arr := n }], nextArr := n + 1 }
    let s := promoteLine s c e.coord n
    some (glueClose s c (fun g => g.coord = e.coord) true)
  else none

/-- A full-line write enters the write queue, or joins the line's Glue-up entry (R249). -/
def enterWrite (s : State) (c : Fin 16) (w : WrEnt) : Option State :=
  let q := (chan s c).sch
  let s := noteScrub s c w.coord
  if q.glue.any (joinable w.coord) then
    let d := decodeStored w.raw
    gluePut s c ⟨w.coord, w.das, 0, d.data, BitVec.allOnes 64, decide (d.kind = .poison), true, 0, ⟨0, 0⟩, w.rt⟩
  else if q.wq.length < 96 then
    some (pushWrite (modSch s c fun q => { q with nextArr := q.nextArr + 1 }) c { w with arr := q.nextArr })
  else none

/-- One arrival enters its queue if there is room. -/
def enterOne (s : State) (c : Fin 16) (a : Arrival) : Option State :=
  match a.what with
  | .inl e => enterRead s c e
  | .inr (.inl w) => enterWrite s c w
  | .inr (.inr w) => gluePut (noteScrub s c w.coord) c w

/-- The data of an arrival has left its TT entry: a write's entry may be released, a read's waits for its data. -/
def arrivalLeft (s : State) (a : Arrival) : State :=
  match a.rid with
  | none => s
  | some rid =>
    match a.what with
    | .inl _ => ttMod s rid fun t => { t with stage := .chanRead }
    | _ => ttLeave s rid none

/-- A partial write that finds the Glue-up buffer full closes its oldest open entry, once (R249). -/
def glueShut (s : State) (c : Fin 16) (a : Arrival) : State :=
  match a.what with
  | .inr (.inr _) =>
    if a.shut then s
    else
      let s := modSch s c fun q => { q with arrive := q.arrive.map fun x => if x = a then { x with shut := true } else x }
      match (chan s c).sch.glue.find? (fun g => !g.closed) with
      | some g => glueClose s c (fun x => x.gid = g.gid) false
      | none => s
  | _ => s

/-- The oldest arrival that fits enters its queue; two requests to one line keep their order (R136). -/
def queueEntryFrom (s : State) (c : Fin 16) : List Arrival → List Coord → State
  | [], _ => s
  | a :: rest, seen =>
    if arrivalCoord a ∈ seen then queueEntryFrom s c rest seen
    else
      match enterOne s c a with
      | some s' =>
        let s' := modSch s' c fun q => { q with arrive := eraseFirst (fun x => x = a) q.arrive }
        arrivalLeft s' a
      | none => queueEntryFrom (glueShut s c a) c rest (arrivalCoord a :: seen)

/-- QUEUE_ENTRY (R136). -/
def queueEntry (s : State) (c : Fin 16) : State := queueEntryFrom s c (chan s c).sch.arrive []

def execQueueEntry (c : Fin 16) (s : State) : Host.Outcome State Fault Refusal := ok (queueEntry s c)

/-! Write-path state (R140) and idle writes (R142). -/

/-- The next write-path state (R140). `pfail`: PFAIL_N is low. -/
def wstateNext (w : WState) (occ hi lo : Nat) (holding pfail queuesEmpty running : Bool) : WState :=
  match w with
  | .flush =>
    if holding || !running || pfail then .flush
    else if queuesEmpty || decide (occ < hi) then .read else .flush
  | .drain => if holding || pfail then .flush else if occ ≤ lo then .read else .drain
  | .read => if holding || pfail then .flush else if hi ≤ occ then .drain else .read

/-- WDRAIN_EVAL: the write-path state evaluated (R140); entries to DRAIN are counted, and an entry to FLUSH closes every
gathering window (R249). -/
def wdrainEval (s : State) (c : Fin 16) : State :=
  let q := (chan s c).sch
  let w := wstateNext q.wstate q.wq.length (fld s (rSchWdrain c.val) 22 16) (fld s (rSchWdrain c.val) 6 0)
    (decide (q.hold = .holding)) (inDrain s) (q.wq.isEmpty && q.glue.isEmpty) (decide (q.hold = .run))
  if w = q.wstate then s
  else
    let s := modSch s c fun q => { q with
      wstate := w, runA := 0, runB := 0, breakA := none, breakB := none, wrNowA := none, wrNowB := none, idleA := false, idleB := false }
    match w with
    | .drain => cntInc s (rSchDrainCnt c.val)
    | .flush => glueClose s c (fun _ => true) false
    | .read => s

def execWdrainEval (c : Fin 16) (s : State) : Host.Outcome State Fault Refusal := ok (wdrainEval s c)

/-- A read is queued for a subchannel. -/
def readQueued (s : State) (c : Fin 16) (sub : Nat) : Bool := (chan s c).sch.rq.any (fun e => e.coord.sub = sub)

/-- IDLE_WRITE: a subchannel without reads starts issuing idle writes (R142). -/
def idleWrite (s : State) (c : Fin 16) (sub : Fin 2) : State :=
  if decide ((chan s c).sch.wstate = .read) && decide (0 < fld s (rSchCtl c.val) 7 0) && !readQueued s c sub.val then
    modSch s c fun q => if sub = 0 then { q with idleA := true } else { q with idleB := true }
  else s

def execIdleWrite (c : Fin 16) (sub : Fin 2) (s : State) : Host.Outcome State Fault Refusal := ok (idleWrite s c sub)

/-! Choosing a command (R141, R147 to R152). -/

def qCoord : QReq → Coord
  | .rd e => e.coord
  | .wr e => e.coord

def qArr : QReq → Nat
  | .rd e => e.arr
  | .wr e => e.arr

def isRd : QReq → Bool
  | .rd _ => true
  | .wr _ => false

/-- Whether a bank may take a scheduler command now: its target does not refresh, is in no quiet window and its refresh is not
due, no neighbour refresh waits for it, its package rank is in no retraining window, and its rank is active (R158, R174, R175,
R182, R191, R217). -/
def bankFree (s : State) (c : Fin 16) (k : Coord) (t : Nat) : Bool :=
  let r := (chan s c).ref
  let key := refKey r.gran k.rank k.ba
  decide (smGet 0 r.busy key ≤ t) && decide (key ∉ r.backstop) && !quietAt s c k
    && !r.nbrQ.any (fun n => decide (n.sub = k.sub ∧ n.rank = k.rank ∧ n.bg = k.bg ∧ n.ba = k.ba))
    && decide ((chan s c).phy.window ≠ some (prankOf s k.rank))
    && decide ((rankAt s c k.rank).pwr = .active)

/-- The rows of a row copy in progress are held (R261). -/
def rowHeld (s : State) (c : Fin 16) (k : Coord) : Bool :=
  match (chan s c).code.copy with
  | some x => decide (x.sub = k.sub ∧ x.rank = k.rank ∧ x.bg = k.bg ∧ x.ba = k.ba) && decide (k.row = x.src ∨ k.row = x.dst)
  | none => false

/-- A rank under post-package repair is out of service (R262). -/
def pprHeld (s : State) (c : Fin 16) (k : Coord) : Bool :=
  match (chan s c).code.ppr with
  | some x => decide (x.rank = k.rank)
  | none => false

/-- The reads that wait for their column command: those queued, and those to be reissued. -/
def waitReads (q : SchedSt) : List RdEnt := q.rq ++ (q.flight.filter fun f => f.again).map Flight.ent

/-- In strict order a bank issues in arrival order (R152). -/
def strictOk (q : SchedSt) (k : Coord) (arr : Nat) : Bool :=
  !(smGet BankSt.idle q.banks (bankKey k)).strict
    || (!(waitReads q).any (fun e => bankKey e.coord = bankKey k && decide (e.arr < arr))
      && !q.wq.any (fun e => bankKey e.coord = bankKey k && decide (e.arr < arr)))

/-- A Glue-up entry older than a request holds its line (R150). -/
def glueBefore (q : SchedSt) (k : Coord) (arr : Nat) : Bool := q.glue.any (fun g => decide (g.coord = k ∧ g.arr < arr))

/-- An older write to the line is queued. -/
def writeBefore (q : SchedSt) (k : Coord) (arr : Nat) : Bool := q.wq.any (fun w => decide (w.coord = k ∧ w.arr < arr))

/-- An older read of the line is queued. -/
def readBefore (q : SchedSt) (k : Coord) (arr : Nat) : Bool := (waitReads q).any (fun e => decide (e.coord = k ∧ e.arr < arr))

/-- Whether a request is eligible under the line rules and strict order (R148, R150, R152). -/
def qEligible (q : SchedSt) (r : QReq) : Bool :=
  let k := qCoord r
  let n := qArr r
  !writeBefore q k n && !glueBefore q k n && strictOk q k n && (isRd r || !readBefore q k n)

/-- A write held back only because it waits behind a queued read of its line or, in strict order, of its bank (R141). -/
def heldByRead (q : SchedSt) (w : WrEnt) : Bool :=
  !writeBefore q w.coord w.arr && !glueBefore q w.coord w.arr
    && (readBefore q w.coord w.arr
      || ((smGet BankSt.idle q.banks (bankKey w.coord)).strict
        && q.rq.any (fun e => bankKey e.coord = bankKey w.coord && decide (e.arr < w.arr))))

/-- The oldest read that holds back a write of a subchannel (R141). -/
def blockingRead (q : SchedSt) (sub : Nat) : Option RdEnt :=
  let ws := q.wq.filter (fun w => w.coord.sub = sub)
  if ws.isEmpty ∨ ws.any (fun w => qEligible q (.wr w)) then none
  else
    (q.rq.filter (fun e => e.coord.sub = sub && ws.any (fun w => heldByRead q w && decide (e.arr < w.arr)
        && (decide (e.coord = w.coord) || decide (bankKey e.coord = bankKey w.coord))))).foldl
      (fun m e => match m with | none => some e | some x => if e.arr < x.arr then some e else some x) none

/-- The next command a request needs. -/
def nextCmd (s : State) (c : Fin 16) (k : Coord) : NextCmd :=
  match (bankAt s c (bankKey k)).row with
  | none => .act
  | some r => if r = k.row then .col else .pre

/-- An older request waits for another row of the bank (R149). -/
def olderOther (q : SchedSt) (k : Coord) (arr : Nat) : Bool :=
  q.rq.any (fun e => bankKey e.coord = bankKey k && decide (e.coord.row ≠ k.row) && decide (e.arr < arr))
    || q.wq.any (fun e => bankKey e.coord = bankKey k && decide (e.coord.row ≠ k.row) && decide (e.arr < arr))

/-- The open row of a bank has used up its streak (R149; not in the Closed policy). -/
def streakSpent (s : State) (c : Fin 16) (k : Coord) : Bool :=
  let n := fld s (rSchPage c.val) 23 16
  decide (fld s (rSchPage c.val) 1 0 ≠ 1) && decide (0 < n) && decide (n ≤ (bankAt s c (bankKey k)).streak)

/-- A request of the same kind, no less urgent, hits the bank's open row and has not used up the streak. -/
def rowWanted (s : State) (c : Fin 16) (r : QReq) : Bool :=
  let q := (chan s c).sch
  let k := qCoord r
  let open' := (bankAt s c (bankKey k)).row
  let hit (x : Coord) : Bool := decide (bankKey x = bankKey k) && decide (open' = some x.row)
  match r with
  | .rd e => q.rq.any (fun x => hit x.coord && decide (e.urg ≤ x.urg) && qEligible q (.rd x))
  | .wr _ => q.wq.any (fun x => hit x.coord && qEligible q (.wr x))

/-- The time at which a request's next command can issue within this MCLK, if it can (R137, R155). -/
def issueAt (s : State) (c : Fin 16) (r : QReq) : Option (NextCmd × Nat) :=
  let k := qCoord r
  let q := (chan s c).sch
  let now := nowCk s c
  if !bankFree s c k now || rowHeld s c k || pprHeld s c k || !qEligible q r then none
  else
    let at' (cmd : NextCmd) (t : Nat) : Option (NextCmd × Nat) := if t ≤ now + 3 then some (cmd, max t now) else none
    match nextCmd s c k with
    | .col =>
      if streakSpent s c k && olderOther q k (qArr r) then none else at' .col (earliestCol s c k (isRd r))
    | .act =>
      if 16 ≤ (chan s c).ref.nbrQ.length ∨ raaFull s c (bankKey k) then none else at' .act (actTime s c k 1 now)
    | .pre =>
      if rowWanted s c r && !streakSpent s c k then none else at' .pre (earliestPre s c (bankKey k))

/-- The order of R147 and R148: a higher class, then a column command, then the older. -/
def better (a b : Nat × Bool × Nat) : Bool :=
  decide (b.1 < a.1) || (decide (a.1 = b.1) && ((a.2.1 && !b.2.1) || (decide (a.2.1 = b.2.1) && decide (a.2.2 < b.2.2))))

/-- The best of the requests that can issue, ranked by a class; `col` permits column commands. -/
def pickBest (s : State) (c : Fin 16) (col : Bool) (cls : QReq → Nat) (rs : List QReq) : Option (QReq × NextCmd × Nat) :=
  rs.foldl (fun m r =>
    match (issueAt s c r).filter fun x => col || decide (x.1 ≠ .col) with
    | none => m
    | some (cmd, t) =>
      let key := (cls r, decide (cmd = .col), qArr r)
      match m with
      | none => some (r, cmd, t)
      | some (r', cmd', t') =>
        if better key (cls r', decide (cmd' = .col), qArr r') then some (r, cmd, t) else some (r', cmd', t')) none

/-- Class of a read: its urgency (R147). -/
def rdClass : QReq → Nat
  | .rd e => e.urg
  | .wr _ => 0

/-- Class of a write: promoted first (R148). -/
def wrClass : QReq → Nat
  | .wr w => flag w.promoted
  | .rd _ => 0

/-- Per-subchannel flags of the write path. -/
def runOf (q : SchedSt) (sub : Nat) : Nat := if sub = 0 then q.runA else q.runB
def wrRunOf (q : SchedSt) (sub : Nat) : Bool := if sub = 0 then q.wrRunA else q.wrRunB
def breakOf (q : SchedSt) (sub : Nat) : Option BreakIn := if sub = 0 then q.breakA else q.breakB
def seqOf (q : SchedSt) (sub : Nat) : Nat := if sub = 0 then q.seqA else q.seqB
def idleOf (q : SchedSt) (sub : Nat) : Bool := if sub = 0 then q.idleA else q.idleB
def setRun (q : SchedSt) (sub n : Nat) (w : Bool) : SchedSt :=
  if sub = 0 then { q with runA := n, wrRunA := w } else { q with runB := n, wrRunB := w }
def setBreak (q : SchedSt) (sub : Nat) (b : Option BreakIn) : SchedSt :=
  if sub = 0 then { q with breakA := b } else { q with breakB := b }
def setWrNow (q : SchedSt) (sub : Nat) (w : Option Nat) : SchedSt :=
  if sub = 0 then { q with wrNowA := w } else { q with wrNowB := w }
def setSeq (q : SchedSt) (sub n : Nat) : SchedSt := if sub = 0 then { q with seqA := n } else { q with seqB := n }
def setIdle (q : SchedSt) (sub : Nat) (b : Bool) : SchedSt :=
  if sub = 0 then { q with idleA := b } else { q with idleB := b }

/-- The reads and writes queued for a subchannel. -/
def subReads (q : SchedSt) (sub : Nat) : List QReq := (q.rq.filter (fun e => e.coord.sub = sub)).map QReq.rd
def subWrites (q : SchedSt) (sub : Nat) : List QReq := (q.wq.filter (fun e => e.coord.sub = sub)).map QReq.wr

/-- First of several choices. -/
def orElse' {α : Type} (a b : Option α) : Option α := match a with | some x => some x | none => b

/-- The write in progress on a subchannel: a row has been opened or closed for it, and it is still queued (R141). -/
def wrNowOf (q : SchedSt) (sub : Nat) : Option WrEnt :=
  q.wq.find? fun w => (if sub = 0 then q.wrNowA else q.wrNowB) = some w.arr

/-- A read of a subchannel at urgency 3 that waits for no write (R141). -/
def urgentRead (q : SchedSt) (r : QReq) : Bool := decide (rdClass r = 3) && qEligible q r

/-- The break-in that is wanted on a subchannel in DRAIN; one for urgency does not start while the write queue is full (R141). -/
def breakWant (q : SchedSt) (sub : Nat) : Option BreakIn :=
  match blockingRead q sub with
  | some e => some (.blocked e.arr)
  | none => if (subReads q sub).any (urgentRead q) ∧ q.wq.length ≠ 96 then some .urgent else none

/-- Whether a read belongs to a break-in. -/
def inBreak (q : SchedSt) (b : BreakIn) (r : QReq) : Bool :=
  urgentRead q r || match b with
    | .urgent => false
    | .blocked n => decide (qArr r = n)

/-- Whether a break-in goes on: it has a read left. -/
def breakGoes (q : SchedSt) (sub : Nat) (b : BreakIn) : Bool :=
  match b with
  | .urgent => (subReads q sub).any (urgentRead q)
  | .blocked n => q.rq.any fun e => e.arr = n

/-- A break-in starts once the write in progress has been issued, goes on, or ends (R141). -/
def breakUpdate (s : State) (c : Fin 16) (sub : Nat) : State :=
  let q := (chan s c).sch
  match breakOf q sub with
  | some b => if breakGoes q sub b then s else modSch s c fun q => setBreak q sub none
  | none =>
    match breakWant q sub with
    | some b =>
      if (wrNowOf q sub).isSome then s
      else cntInc (modSch s c fun q => setBreak q sub (some b)) (rSchBreakinCnt c.val)
    | none => s

/-- The promoted writes of a subchannel that can be issued; while there is one it is the next column command, but for reads at
urgency 3 (R151). -/
def promotedWrites (s : State) (c : Fin 16) (sub : Nat) : List QReq :=
  let q := (chan s c).sch
  (subWrites q sub).filter fun r =>
    decide (wrClass r = 1) && qEligible q r && !rowHeld s c (qCoord r) && !pprHeld s c (qCoord r)

/-- The reads and writes of a subchannel in their orders, promoted writes before reads below urgency 3 (R147, R148, R151). -/
def pickReads (s : State) (c : Fin 16) (sub : Nat) : Option (QReq × NextCmd × Nat) :=
  let rds := subReads (chan s c).sch sub
  let pw := promotedWrites s c sub
  orElse' (pickBest s c true rdClass (rds.filter fun r => rdClass r = 3))
    (orElse' (pickBest s c true wrClass pw) (pickBest s c pw.isEmpty rdClass rds))

def pickWrites (s : State) (c : Fin 16) (sub : Nat) : Option (QReq × NextCmd × Nat) :=
  let pw := promotedWrites s c sub
  orElse' (pickBest s c true wrClass pw) (pickBest s c pw.isEmpty wrClass (subWrites (chan s c).sch sub))

/-- The open row of a bank that has used up its streak is closed for an older request that waits for another row, while younger
requests want it (R149). -/
def pickStreak (s : State) (c : Fin 16) (sub : Nat) : Option (QReq × NextCmd × Nat) :=
  let q := (chan s c).sch
  let now := nowCk s c
  let all := subReads q sub ++ subWrites q sub
  let closes (r : QReq) : Bool :=
    let k := qCoord r
    let row := (bankAt s c (bankKey k)).row
    decide (nextCmd s c k = .pre) && streakSpent s c k && bankFree s c k now
      && decide (earliestPre s c (bankKey k) ≤ now + 3)
      && all.any fun x => decide (bankKey (qCoord x) = bankKey k) && decide (row = some (qCoord x).row)
        && decide (qArr r < qArr x)
  (all.find? closes).map fun r => (r, .pre, max now (earliestPre s c (bankKey (qCoord r))))

/-- The command that the order of the write-path state gives a subchannel (R139 to R142). -/
def pickOrder (s : State) (c : Fin 16) (sub : Nat) : Option (QReq × NextCmd × Nat) :=
  let q := (chan s c).sch
  let rds := subReads q sub
  match q.wstate with
  | .read =>
    let idle := if idleOf q sub && decide (0 < fld s (rSchCtl c.val) 7 0) && rds.isEmpty then pickWrites s c sub else none
    orElse' (pickReads s c sub) idle
  | .drain =>
    match breakOf q sub with
    | some b => pickBest s c true rdClass (rds.filter (inBreak q b))
    | none =>
      match breakWant q sub, wrNowOf q sub with
      | some _, some w => pickBest s c true wrClass [.wr w]
      | _, _ => pickWrites s c sub
  | .flush =>
    let a := if wrRunOf q sub then pickWrites s c sub else pickReads s c sub
    let b := if wrRunOf q sub then pickReads s c sub else pickWrites s c sub
    if 0 < runOf q sub then orElse' a b else orElse' b a

/-- The command a subchannel issues in this MCLK: where the order gives no column command, a row that has used up its streak is
closed first (R149). -/
def pickCmd (s : State) (c : Fin 16) (sub : Nat) : Option (QReq × NextCmd × Nat) :=
  match pickOrder s c sub with
  | some (r, .col, t) => some (r, .col, t)
  | x => orElse' (pickStreak s c sub) x

/-! Issuing a command. -/

/-- A column command to the row is the last one that any queued request wants (Closed policy, R149). -/
def rowDone (q : SchedSt) (k : Coord) : Bool :=
  !(waitReads q).any (fun e => bankKey e.coord = bankKey k && decide (e.coord.row = k.row))
    && !q.wq.any (fun e => bankKey e.coord = bankKey k && decide (e.coord.row = k.row))

/-- The replay log takes a column command, keeping the last 64 of each subchannel whose alert window has not passed
(R213). -/
def logCmd (s : State) (c : Fin 16) (cmd : RdEnt ⊕ WrEnt) : State :=
  let subOf (x : RdEnt ⊕ WrEnt) : Nat := match x with | .inl e => e.coord.sub | .inr w => w.coord.sub
  let log : List LogEnt := liveLog s c ++ [⟨s.beat.fclk + alertFclk s c, cmd⟩]
  let mine := log.filter (fun e => subOf e.cmd = subOf cmd)
  let log := if 64 < mine.length then eraseFirst (fun e => subOf e.cmd = subOf cmd) log else log
  modSch s c fun q => { q with log := log }

/-- A bank with no queued request leaves strict order (R152). -/
def strictEnd (s : State) (c : Fin 16) (b : Nat) : State :=
  let q := (chan s c).sch
  if (waitReads q).any (fun e => bankKey e.coord = b) || q.wq.any (fun e => bankKey e.coord = b) then s
  else modBank s c b fun x => { x with strict := false }

/-- The chip a read probes: its package rank and subchannel are those of the dwell in progress (R220). -/
def probedChip (s : State) (c : Fin 16) (k : Coord) : Option Nat :=
  let p := (chan s c).phy
  if p.dwelling && decide (p.target.prank = prankOf s k.rank ∧ p.target.sub = k.sub) then some p.target.chip else none

/-- The write in progress on a subchannel in DRAIN after a command (R141). -/
def noteWrNow (q : SchedSt) (sub : Nat) (r : QReq) (cmd : NextCmd) : SchedSt :=
  match r with
  | .rd _ => q
  | .wr w => if q.wstate = .drain then setWrNow q sub (if cmd = .col then none else some w.arr) else q

/-- The FLUSH run of a subchannel after a column command: a promoted write issued within a run of reads leaves it (R140, R151). -/
def noteRun (q : SchedSt) (sub : Nat) (r : QReq) : SchedSt :=
  let isW := !isRd r
  if q.wstate ≠ .flush then q
  else if wrRunOf q sub ≠ isW ∧ 0 < runOf q sub ∧ wrClass r = 1 then q
  else setRun q sub (if wrRunOf q sub = isW ∧ 0 < runOf q sub then runOf q sub - 1 else 15) isW

/-- The effect of a column command (R138): the entry leaves its queue; a read is in flight, a write reaches DRAM. -/
def issueCol (s : State) (c : Fin 16) (r : QReq) (t : Nat) : State :=
  let k := qCoord r
  let b := bankKey k
  let s := doIf (decide (0 < (bankAt s c b).streak)) (fun s => cntInc s (rSchRowhitCnt c.val)) s
  let s := match r with
    | .rd e =>
      let s := modSch s c fun q => { q with
        rq := q.rq.filter (fun x => x ≠ e)
        flight := q.flight ++ [⟨e, if e.noProbe then none else probedChip s c k, memRaw s e.das e.coord, false⟩]
        glue := q.glue.map fun g => if e.dest = .merge g.gid then { g with issued := true } else g }
      cntInc (logCmd (modBank s c b fun x => { x with rd := some t, streak := x.streak + 1 }) c (.inl e)) (rSchRdCnt c.val)
    | .wr w =>
      let s := modSch s c fun q => { q with wq := q.wq.filter (fun x => x ≠ w) }
      let s := setDramLine s w.coord w.raw
      cntInc (logCmd (modBank s c b fun x => { x with wr := some t, streak := x.streak + 1 }) c (.inr w)) (rSchWrCnt c.val)
  let s := if fld s (rSchPage c.val) 1 0 = 1 ∧ rowDone (chan s c).sch k then
      modBank s c b fun x => { x with
        row := none, streak := 0
        pre := some (if isRd r then t + tRtp s c else t + tCwl s c + wBurst s c + tWr s c) }
    else s
  strictEnd s c b

/-- The effect of an ACT: the row opens, and the ACT is counted (R189, INL.HIT_CNT). -/
def issueAct (s : State) (c : Fin 16) (k : Coord) (t : Nat) : State :=
  let s := modBank s c (bankKey k) fun x => { x with row := some k.row, streak := 0, act := some t }
  let s := modSch s c fun q =>
    let r := smGet RankSt.idle q.ranks k.rank
    let r := if k.sub = 0 then { r with actsA := (t :: r.actsA).take 4 } else { r with actsB := (t :: r.actsB).take 4 }
    { q with ranks := smSet RankSt.idle q.ranks k.rank r }
  let s := doIf (isSpareRow s k.row) (fun s => cntInc s (rInlHitCnt c.val)) s
  countAct (cntInc s (rSchActCnt c.val)) c k

/-- The effect of a command on a request's bank. -/
def issueCmd (s : State) (c : Fin 16) (r : QReq) (cmd : NextCmd) (t : Nat) : State :=
  match cmd with
  | .col => issueCol s c r t
  | .act => issueAct s c (qCoord r) t
  | .pre => modBank s c (bankKey (qCoord r)) fun x => { x with row := none, streak := 0, pre := some t }

/-- An ACT that waits at raammt, of a request or of a neighbour refresh, is counted once, and RFM_STALL raised at the first wait of
a table window (R192). -/
def noteRfmWait (s : State) (c : Fin 16) : State :=
  let q := (chan s c).sch
  let ks := ((q.rq.map (fun e => e.coord)) ++ (q.wq.map (fun e => e.coord))).filter fun k => decide (nextCmd s c k = .act)
  let nbr := (chan s c).ref.nbrQ.map fun x => bankKey ⟨c.val, x.sub, x.rank, x.bg, x.ba, x.row, 0⟩
  forEach (ks.map bankKey ++ nbr) s fun s b =>
    if raaFull s c b && decide (b ∉ (chan s c).ref.rfmWait) then
      let s := cntInc (modRef s c fun r => { r with rfmWait := r.rfmWait ++ [b] }) (rDstRfmWaitCnt c.val)
      if (chan s c).ref.stallSeen then s
      else ev (modRef s c fun r => { r with stallSeen := true }) (chEv c 11)
    else s

/-- A request is queued for a rank. -/
def rankWanted (q : SchedSt) (r : Nat) : Bool := (waitReads q).any (fun e => e.coord.rank = r) || q.wq.any (fun e => e.coord.rank = r)

/-- A rank in power-down that holds a request exits, with tXP before its next command (R158). The command takes the slot of both
subchannels; the flag tells that one was issued. -/
def exitPowerDown (s : State) (c : Fin 16) : Bool × State :=
  let q := (chan s c).sch
  match q.ranks.find? fun e => decide (e.2.pwr = .powerDown) && rankWanted q e.1 && decide (e.2.ready ≤ nowCk s c + 3)
      && decide ((chan s c).phy.window ≠ some (prankOf s e.1)) with
  | some e =>
    if q.seqA = 0 ∧ q.seqB = 0 then
      (true, cntInc (modRank s c e.1 fun x => { x with pwr := .active, ready := nowCk s c + tXp s c }) (rSchPdxCnt c.val))
    else (false, s)
  | none => (false, s)

/-- A rank enters power-down; it takes no command for tCPDED (R155, R158). -/
def enterPowerDown (s : State) (c : Fin 16) (rank : Nat) : State :=
  seqBoth (modRank s c rank fun x => { x with
    pwr := .powerDown, back := false, ready := max x.ready (nowCk s c + fld s (rSchTim4 c.val) 7 0) }) c 1

/-- A rank refreshes. -/
def rankBusy (s : State) (c : Fin 16) (rank : Nat) : Bool :=
  (chan s c).ref.busy.any fun e => decide (e.1 / 4 = rank) && decide (nowCk s c < e.2)

/-- Ranks that a sequencer command took out of power-down return to it once it has ended, if they are still idle (R158). -/
def pdReturn (s : State) (c : Fin 16) : State :=
  forEach ((chan s c).sch.ranks.filter fun e => e.2.back) s fun s e =>
    if rankWanted (chan s c).sch e.1 then modRank s c e.1 fun x => { x with back := false }
    else if rankBusy s c e.1 ∨ nowCk s c + 3 < e.2.ready then s
    else enterPowerDown s c e.1

/-- Reads to be reissued return to the head of the read queue where it has room, and are not probed again (R136, R222). -/
def rereadPump (s : State) (c : Fin 16) : State :=
  let q := (chan s c).sch
  let back := (q.flight.filter fun f => f.again).take (128 - q.rq.length)
  modSch s c fun q => { q with
    rq := back.map (fun f => { f.ent with noProbe := true }) ++ q.rq
    flight := q.flight.filter fun f => f ∉ back }

/-- A slot of a subchannel that a sequencer command takes (R137). -/
def seqSlot (s : State) (c : Fin 16) (sub : Nat) : State := modSch s c fun q => setSeq q sub (seqOf q sub - 1)

/-- One subchannel's part of an MCLK: a sequencer command goes before a scheduler command (R137, R187). -/
def issueSub (s : State) (c : Fin 16) (sub : Nat) : State :=
  let s := doIf (decide ((chan s c).sch.wstate = .drain)) (fun s => breakUpdate s c sub) s
  let s := doIf (readQueued s c sub) (fun s => modSch s c fun q => setIdle q sub false) s
  if 0 < seqOf (chan s c).sch sub then seqSlot s c sub
  else
    match pickCmd s c sub with
    | none => s
    | some (r, cmd, t) =>
      let s := modSch s c fun q => noteWrNow (if cmd = .col then noteRun q sub r else q) sub r cmd
      issueCmd s c r cmd t

/-! Self-refresh (R159, R160). -/

/-- Ranks in self-refresh exit: no earlier than their minimum residency, then tXS, and tXS_DLL for reads (R160). Slots resume
after tXS (R183), and the data is the PHY's again (R204). -/
def srExit (s : State) (c : Fin 16) : State :=
  let now := nowCk s c
  let rs := (chan s c).sch.ranks.filter fun e => decide (e.2.pwr = .selfRefresh)
  let s := forEach rs s fun s e => modRank s c e.1 fun x =>
    { x with pwr := .active, ready := max now x.ready + tXs s c, rdReady := max now x.ready + tXsDll s c }
  let s := modSch s c fun q => { q with sr := .active, sreDone := 0 }
  let s := modRef s c fun r => { r with xsUntil := rs.foldl (fun t e => max t (max now e.2.ready + tXs s c)) r.xsUntil }
  if rs.isEmpty then s else modKeep s c fun k => { k with retained := k.retained && k.owner }

/-- Something waits in the channel's queues. -/
def hasRequest (q : SchedSt) : Bool := !(waitReads q).isEmpty || !q.wq.isEmpty || !q.glue.isEmpty

/-- The channel leaves self-refresh or its entry for a command: the entry is abandoned, or every rank exits (R160). -/
def srLeave (s : State) (c : Fin 16) : State :=
  match (chan s c).sch.sr with
  | .active => s
  | .entry => cntInc (modRef (srExit s c) c fun r => { r with gen := r.gen + 1 }) (rSchSreAbandonCnt c.val)
  | .selfRefresh => cntInc (refSrExit (srExit s c) c) (rSchSrxCnt c.val)

/-- SR_WAKE: a request abandons the entry, or wakes every rank (R160). -/
def srWake (s : State) (c : Fin 16) : State := if hasRequest (chan s c).sch then srLeave s c else s

def execSrWake (c : Fin 16) (s : State) : Host.Outcome State Fault Refusal := ok (srWake s c)

/-- SRE committed to the next rank (R159). -/
def srCommit (s : State) (c : Fin 16) (rank : Nat) : State :=
  let grade := fld s (rSchSpeed c.val) 3 0
  let x : RankSt := { RankSt.idle with pwr := .selfRefresh, ready := nowCk s c + Config.srMin grade }
  modSch s c fun q => { q with
    ranks := smSet RankSt.idle q.ranks rank x, sreDone := rank + 1
    sr := if rankCount s ≤ rank + 1 then .selfRefresh else .entry }

/-- One MCLK of a self-refresh entry: the banks are precharged, then SRE is committed to the ranks, one per MCLK as timing
allows (R159). -/
def srStep (s : State) (c : Fin 16) : State :=
  let q := (chan s c).sch
  let r := q.sreDone
  let now := nowCk s c
  if q.banks.any (fun e => e.2.row.isSome) then closeBanks s c fun _ => true
  else if (rankAt s c r).pwr = .powerDown then modRank (rankWake s c r) c r fun x => { x with back := false }
  else if q.banks.all (fun e => after e.2.pre (tRp s c) ≤ now + 3) ∧ (rankAt s c r).ready ≤ now + 3 ∧ !rankBusy s c r then
    srCommit s c r
  else s

/-- Channel self-refresh is enabled: by SCH.SRIDLE, or in the Self-refresh power state (R159, R497). -/
def srEnabled (s : State) (c : Fin 16) : Bool :=
  decide (0 < fld s (rSchSridle c.val) 19 0) || decide (s.pwr.state = .selfRefresh)

/-- Rank power-down is enabled: by SCH.PWR, or in the Power-down and Self-refresh power states (R158, R497). -/
def pdEnabled (s : State) (c : Fin 16) : Bool :=
  decide (0 < fld s (rSchPwr c.val) 15 0) || decide (s.pwr.state = .powerDown) || decide (s.pwr.state = .selfRefresh)

/-- The scheduler works: it has not stopped, its channel is not fenced and not under training, and the PHY has the pins (R207,
R264, R315). -/
def schedUp (s : State) (c : Fin 16) : Bool :=
  !(chan s c).sch.stopped && decide (s.cure.fence[c] ≠ .fenced) && seqRuns s c

/-- CHANNEL_SR_ENTRY: an idle channel in RUN enters SR_ENTRY, and its forecast reads skipped (R159, R185). -/
def channelSrEntry (s : State) (c : Fin 16) : State :=
  let q := (chan s c).sch
  if srEnabled s c && schedUp s c && decide (q.hold = .run) && decide (q.sr = .active) && !hasRequest q
      && (chan s c).phy.window.isNone then
    modRef (modSch s c fun q => { q with sr := .entry, sreDone := 0 }) c fun r => { r with gen := r.gen + 1 }
  else s

def execChannelSrEntry (c : Fin 16) (s : State) : Host.Outcome State Fault Refusal := ok (channelSrEntry s c)

/-- RANK_POWER_DOWN: an idle rank enters power-down, or does so after the refresh in progress (R158). In a retraining window the
rank takes no command (R217). -/
def rankPowerDown (s : State) (c : Fin 16) (rank : Nat) : State :=
  let q := (chan s c).sch
  if pdEnabled s c && schedUp s c && decide ((rankAt s c rank).pwr = .active) && !rankWanted q rank && rankOk s rank
      && decide (q.sr = .active) && decide ((chan s c).phy.window ≠ some (prankOf s rank)) then
    if rankBusy s c rank then modRank s c rank fun x => { x with back := true } else enterPowerDown s c rank
  else s

def execRankPowerDown (c : Fin 16) (rank : Fin 32) (s : State) : Host.Outcome State Fault Refusal :=
  ok (rankPowerDown s c rank.val)

/-! SCHED_ISSUE. -/

/-- The scheduler may issue requests: it works, and the channel is in RUN or HOLDING. -/
def mayIssue (s : State) (c : Fin 16) : Bool :=
  schedUp s c && (decide ((chan s c).sch.hold = .run) || decide ((chan s c).sch.hold = .holding))

/-- What every MCLK brings: the end of RT bursts, the decision on the slot whose quiet window is in progress, reads to be
reissued, and ranks that return to power-down (R158, R179, R181). -/
def mclkEdge (s : State) (c : Fin 16) : State :=
  let s := rtNote (modSch s c fun q => { q with mclk := q.mclk + 1 }) c
  let s := match quietSlot s c with
    | some k => slotDecide s c k
    | none => s
  doIf (schedUp s c) (fun s => pdReturn s c) (rereadPump s c)

/-- SCHED_ISSUE: one MCLK of a channel (R137, R147). -/
def schedIssue (s : State) (c : Fin 16) : State :=
  let s := mclkEdge s c
  let free (s : State) : State := seqSlot (seqSlot s c 0) c 1
  if mayIssue s c then
    match (chan s c).sch.sr with
    | .active =>
      let (woke, s) := exitPowerDown s c
      let s := noteRfmWait s c
      glueAdvance (if woke then s else issueSub (issueSub s c 0) c 1) c
    | .entry => free (if hasRequest (chan s c).sch then srWake s c else srStep s c)
    | .selfRefresh => free (srWake s c)
  else free s

def execSchedIssue (c : Fin 16) (s : State) : Host.Outcome State Fault Refusal := ok (schedIssue s c)

/-- PAGE_IDLE_CLOSE: in the Adaptive policy an idle bank's row closes where no queued request hits it and timing allows
(R149, R155). -/
def pageIdleClose (s : State) (c : Fin 16) (b : BankId) : State :=
  let k : Coord := ⟨c.val, b.sub.val, b.rank.val, b.bg.val, b.ba.val, 0, 0⟩
  match (bankAt s c (bankKey k)).row with
  | none => s
  | some row =>
    if fld s (rSchPage c.val) 1 0 = 2 ∧ rowDone (chan s c).sch { k with row := row } ∧ mayIssue s c ∧ bankFree s c k (nowCk s c)
        ∧ earliestPre s c (bankKey k) ≤ nowCk s c + 3 then
      seqTake (closeBanks s c (· = bankKey k)) c k.sub 1
    else s

def execPageIdleClose (c : Fin 16) (b : BankId) (s : State) : Host.Outcome State Fault Refusal :=
  ok (pageIdleClose s c b)

/-- GLUE_WINDOW_END: an entry's gathering window ends (R249). -/
def glueWindowEnd (s : State) (c : Fin 16) (gid : Nat) : State := glueClose s c (fun g => g.gid = gid) false

def execGlueWindowEnd (c : Fin 16) (gid : Nat) (s : State) : Host.Outcome State Fault Refusal :=
  ok (glueWindowEnd s c gid)

end Sys2Proof.Machine
end

