-- ==== Sys2Proof/Machine/Hold.lean ====
section
/-!
DEFINITION. Held: channel and device Hold, and the checks of Release (05_channel_scheduler.md, R104, R157, R198).
-/
namespace Sys2Proof.Machine
open Sys2Proof

/-! Pending values (R166). -/

/-- The pending value of a register, if one is held. -/
def pendVal (s : State) (r : RegRef) : Option Word64 := smGet none s.csr.pendH r.off

/-- A pending value applied, if one is held. -/
def pendApply (s : State) (r : RegRef) : State :=
  match pendVal s r with
  | some v => setReg s r v
  | none => s

/-- Pending values of offsets in a range dropped. -/
def pendDrop (s : State) (lo hi : Nat) : State :=
  { s with csr := { s.csr with pendH := s.csr.pendH.filter (fun e => e.1 < lo || hi ≤ e.1) } }

/-- The SCH RWH registers of a channel. -/
def schRwh (c : Fin 16) : List RegRef :=
  [rSchSpeed c.val, rSchTim0 c.val, rSchTim1 c.val, rSchTim2 c.val, rSchTim3 c.val, rSchTim4 c.val, rSchTim5 c.val]

/-- The MAP RWH registers (R104). -/
def mapRwh : List RegRef :=
  [rMapCfg, rMapGeom, rMapChash 0, rMapChash 1, rMapChash 2, rMapChash 3, rMapLmsTop, rMapRsvBase]
    ++ (List.range 9).map rMapRb

/-- Some pending value of a list is held. -/
def anyPend (s : State) (rs : List RegRef) : Bool := rs.any (fun r => (pendVal s r).isSome)

/-- A channel's block of offsets (R17). -/
def chanLo (c : Fin 16) : Nat := 0x100000 + 0x40000 * c.val

/-- SCH.HOLD_STATUS.pending. -/
def chanPend (s : State) (c : Fin 16) : Bool :=
  s.csr.pendH.any (fun e => chanLo c ≤ e.1 && decide (e.1 < chanLo c + 0x40000))

/-- Pending values of a channel discarded. -/
def chanPendDrop (s : State) (c : Fin 16) : State := pendDrop s (chanLo c) (chanLo c + 0x40000)

/-! Floors and Release checks (R156, R157). -/

/-- A timing field by its number in SCH.REL_ERR.check, 1 to 21: register and bits. -/
def timField (c : Fin 16) (n : Nat) : RegRef × Nat × Nat :=
  match n with
  | 1 => (rSchTim0 c.val, 31, 24)
  | 2 => (rSchTim0 c.val, 23, 16)
  | 3 => (rSchTim0 c.val, 15, 8)
  | 4 => (rSchTim0 c.val, 7, 0)
  | 5 => (rSchTim1 c.val, 24, 16)
  | 6 => (rSchTim1 c.val, 15, 8)
  | 7 => (rSchTim1 c.val, 7, 0)
  | 8 => (rSchTim2 c.val, 31, 24)
  | 9 => (rSchTim2 c.val, 23, 16)
  | 10 => (rSchTim2 c.val, 15, 8)
  | 11 => (rSchTim2 c.val, 7, 0)
  | 12 => (rSchTim3 c.val, 31, 24)
  | 13 => (rSchTim3 c.val, 23, 16)
  | 14 => (rSchTim3 c.val, 15, 8)
  | 15 => (rSchTim3 c.val, 7, 0)
  | 16 => (rSchTim4 c.val, 31, 24)
  | 17 => (rSchTim4 c.val, 23, 16)
  | 18 => (rSchTim4 c.val, 15, 8)
  | 19 => (rSchTim4 c.val, 7, 0)
  | 20 => (rSchTim5 c.val, 27, 16)
  | _ => (rSchTim5 c.val, 11, 0)

/-- The floor of a timing field for a grade (R156); the floor of trtw_add is 0, that of tr2r the OTP value, which is 0. -/
def timFloor (grade n : Nat) : Nat := if n = 16 ∨ n = 17 then 0 else Config.jedecMin grade n

/-- The grade the floors are read for: the pending one, or the one in force (R156). -/
def floorGrade (s : State) (c : Fin 16) : Nat :=
  match pendVal s (rSchSpeed c.val) with
  | some v => fieldOf v 3 0
  | none => fld s (rSchSpeed c.val) 3 0

/-- First failing check of a channel's own timing values in force, by its number (R157). -/
def timErr (s : State) (c : Fin 16) : Option Nat :=
  let grade := fld s (rSchSpeed c.val) 3 0
  let bad (n : Nat) : Bool :=
    let (r, hi, lo) := timField c n
    decide (fld s r hi lo < timFloor grade n) || (decide (n = 1) && decide (fld s r hi lo % 2 = 1))
  match ((List.range 21).map (· + 1)).find? bad with
  | some n => some n
  | none => if tRc s c < tRas s c + tRp s c then some 24 else none

/-- SCH.REL_ERR takes the first failing check since its last read, and TIMING_FLOOR is raised (R157). -/
def relErr (s : State) (c : Fin 16) (n : Nat) : State :=
  let s := if rbit s (rSchRelErr c.val) 31 then s else setReg s (rSchRelErr c.val) (packFields [(31, 1), (0, n)])
  evd s (chEv c 3) (detail32 n)

/-- A channel's pending SCH values checked and applied, or discarded; the flag tells a failed check (R157). -/
def schRelease (s : State) (c : Fin 16) (gradeErr : Option Nat) : State × Bool :=
  let rs := schRwh c
  let s1 := rs.foldl pendApply s
  match (if anyPend s rs then timErr s1 c else none), gradeErr with
  | some n, _ => (relErr s c n, true)
  | none, some n => (relErr s c n, true)
  | none, none => (s1, false)

/-- A channel's pending REF.TRFC checked against its floors and applied, or discarded (R193). -/
def trfcRelease (s : State) (c : Fin 16) : State :=
  match pendVal s (rRefTrfc c.val) with
  | none => s
  | some _ =>
    let s1 := pendApply s (rRefTrfc c.val)
    if trfcOk s1 c then s1 else evd (refErr s c 3) (chEv c 14) (detail32 3)

/-- What a channel's forecast is made from (R184): rank count, window length, slot spacing and phase. -/
def forecastKey (s : State) (c : Fin 16) : List Nat := [rankCount s, quietLen s c, refQ s c, slotBase s c]

/-- A forecast that a Release has changed (R185). -/
def forecastNote (old s : State) (c : Fin 16) : State :=
  if forecastKey old c = forecastKey s c then s else modRef s c fun r => { r with gen := r.gen + 1 }

/-! Release checks of the MAP block (R104). -/

/-- Geometry within R85 and the field ranges. -/
def geomOk (s : State) : Bool :=
  decide (rankBits s ≤ 5) && decide (prankBits s + dimmBit s ≤ 2)
    && decide (6 ≤ colBits s ∧ colBits s ≤ 7) && decide (2 ≤ bgBits s ∧ bgBits s ≤ 3)
    && decide (1 ≤ baBits s ∧ baBits s ≤ 2) && decide (prankBits s ≤ 2) && decide (15 ≤ rowBits s ∧ rowBits s ≤ 18)

/-- Components of R102 that are in use. -/
def compsUsed (s : State) : List Nat := if tiered s then List.range 9 else [0, 1, 4, 5, 6, 7, 8]

/-- Every component in use lies inside the Reserve, without overlap, and firmware data at its fixed base (R102, R104). -/
def compsOk (s : State) : Bool :=
  let excl := exclUnits s * 65536
  let cs := (compsUsed s).map (fun i => (compBase s i, compSize s i))
  cs.all (fun x => decide (rsvBase s ≤ x.1 ∧ x.1 + x.2 ≤ excl))
    && (compsUsed s).all (fun i => (compsUsed s).all (fun j =>
        decide (i = j) || decide (compBase s i + compSize s i ≤ compBase s j)
          || decide (compBase s j + compSize s j ≤ compBase s i)))
    && decide (compBase s 8 = (excl - 2 ^ 28) / 2 ^ 20 * 2 ^ 20)

/-- The checks of R104 on the values in force, with the DAS size of the same geometry. -/
def mapOk (s : State) : Bool :=
  geomOk s
    && (if tiered s then decide (lmsTop s ≤ 4 * dasUnits s * 65536) && decide (lmsTop s ≤ 2 ^ 46)
        else decide (fld s rMapLmsTop 22 0 = fld s rMapRsvBase 20 0))
    && decide (rsvBase s ≤ exclUnits s * 65536) && compsOk s

/-- MAP.DAS and MAP.EXCL computed (R86). -/
def setDas (s : State) : State := { s with map := { s.map with das := dasUnits s, excl := exclUnits s } }

/-- Pending MAP values checked and applied, or discarded with MAP_CFG_BAD (R104). -/
def mapRelease (s : State) : State × Bool :=
  if anyPend s mapRwh then
    let s1 := mapRwh.foldl pendApply s
    let s1 := { s1 with map := { s1.map with das := dasUnits s1 } }
    if mapOk s1 then (s1, false) else (ev s 835, true)
  else (s, false)

/-! Channel Hold (R162 to R166). -/

/-- A locked sequence holds a pool (R122). -/
def poolLocked (s : State) (pool : Nat) : Bool :=
  s.ports.toList.any (fun p => p.lock.held && decide (p.lock.pool.map Fin.val = some pool))

/-- Admission to a channel's pool is paused: not in RUN, not fenced, and no lock on the pool (R127, R162, R165). -/
def poolPaused (s : State) (c : Fin 16) : Bool :=
  decide ((chan s c).sch.hold ≠ .run) && decide (s.cure.fence[c] ≠ .fenced) && !poolLocked s c.val

/-- Populated channels. -/
def popChans (s : State) : List (Fin 16) := allChans.filter (fun c => c.val < chanCount s)

/-- A device Hold lasts (R167). -/
def devHolding (s : State) : Bool := (popChans s).any (fun c => (chan s c).sch.inDev || (chan s c).sch.devNext)

/-- A channel enters RELEASING with how its Hold ended. -/
def setReleasing (s : State) (c : Fin 16) (e : Nat) : State :=
  modSch s c fun q => { q with hold := .releasing, lastEnd := e }

/-- A Hold ended by the ceiling or by power failure: pending values discarded (R163). -/
def holdAbort (s : State) (c : Fin 16) (e : Nat) : State :=
  let q := (chan s c).sch
  if q.hold = .holding ∨ q.hold = .held then
    let s := if q.inDev then { pendDrop s 0x50000 0x60000 with devEnd := e } else s
    setReleasing (chanPendDrop s c) c e
  else s

/-- A channel enters HOLDING: its gathering windows close, its write path flushes and its dwell is aborted (R162, R222); with
PFAIL_N low the Hold ends at once (R163). A channel that is RELEASING joins a device Hold when it has returned to RUN (R167). -/
def holdStart (s : State) (c : Fin 16) (dev : Bool) : State :=
  match (chan s c).sch.hold with
  | .run =>
    let s := modSch s c fun q => { q with
      hold := .holding, inDev := dev, devNext := false, wstate := .flush, runA := 0, runB := 0, breakA := none, breakB := none
      wrNowA := none, wrNowB := none, idleA := false, idleB := false }
    let s := probeAbort (glueClose s c (fun _ => true) false) c 6
    if s.pwr.pfail then holdAbort s c 4 else s
  | .releasing => modSch s c fun q => { q with devNext := q.devNext || dev }
  | _ => modSch s c fun q => { q with inDev := q.inDev || dev }

/-- SCH.HOLD.hold (R163): ignored outside RUN and while a device Hold lasts (R167). -/
def chHold (s : State) (c : Fin 16) : State :=
  if (chan s c).sch.hold = .run ∧ !devHolding s then holdStart s c false else s

def execChHold (c : Fin 16) (s : State) : Host.Outcome State Fault Refusal := ok (chHold s c)

/-- A request of the pool is in a TT entry bound for the channel (R162). -/
def ttBound (s : State) (c : Fin 16) : Bool :=
  s.tt.any fun t => decide (t.req.pool = c) && match t.stage with
    | .start | .queue | .miss | .chanRead | .fillWait | .panelWait => true
    | _ => false

/-- The conditions of HELD (R162), every open bank can be precharged; a fenced channel is held without a drain (R165). -/
def drained (s : State) (c : Fin 16) : Bool :=
  let q := (chan s c).sch
  decide (s.cure.fence[c] = .fenced)
    || (poolPaused s c && (waitReads q).isEmpty && q.wq.isEmpty && q.glue.isEmpty && q.arrive.isEmpty && !ttBound s c
      && q.banks.all fun e => e.2.row.isNone || decide (earliestPre s c e.1 ≤ nowCk s c + 3))

/-- CH_HELD: a HOLDING channel whose drain is complete enters HELD with every bank precharged (R162). -/
def chHeld (s : State) (c : Fin 16) : State :=
  if (chan s c).sch.hold = .holding ∧ drained s c then
    ev (modSch (closeBanks s c fun _ => true) c fun q => { q with hold := .held }) (chEv c 0)
  else s

def execChHeld (c : Fin 16) (s : State) : Host.Outcome State Fault Refusal := ok (chHeld s c)

/-- A channel returns to RUN: CH_RELEASED records last_end, and the write path leaves FLUSH as R140 says (R163). It is held at once
where TOP.HOLD was written in RELEASING (R167). -/
def toRun (s : State) (c : Fin 16) : State :=
  let q := (chan s c).sch
  let w := wstateNext .flush q.wq.length (fld s (rSchWdrain c.val) 22 16) (fld s (rSchWdrain c.val) 6 0) false (inDrain s)
    (q.wq.isEmpty && q.glue.isEmpty) true
  let s := evd (modSch s c fun q => { q with hold := .run, inDev := false, wstate := w }) (chEv c 1) (detail32 q.lastEnd)
  if q.devNext then holdStart s c true else s

/-- The pending values of one channel checked and applied at its own Release (R157, R163). -/
def chanRelease (s : State) (c : Fin 16) : State :=
  let (t, bad) := schRelease s c none
  setReleasing (chanPendDrop (forecastNote s (trfcRelease t c) c) c) c (if bad then 2 else 1)

/-- SCH.HOLD.release (R163): ignored while a device Hold lasts (R167). -/
def chHoldRelease (s : State) (c : Fin 16) : State :=
  if devHolding s then s
  else
    match (chan s c).sch.hold with
    | .holding => toRun (modSch s c fun q => { q with lastEnd := 5 }) c
    | .held => chanRelease s c
    | _ => s

def execChHoldRelease (c : Fin 16) (s : State) : Host.Outcome State Fault Refusal := ok (chHoldRelease s c)

/-- The device Hold has ended: no channel waits to join it. -/
def devForget (s : State) : State := forEach (popChans s) s fun s c => modSch s c fun q => { q with devNext := false }

/-- HOLD_EXPIRED: the ceiling of R164; in a device Hold it ends the Hold of every channel (R167). -/
def holdExpired (s : State) (c : Fin 16) : State :=
  let q := (chan s c).sch
  if q.hold = .holding ∨ q.hold = .held then
    let cs := if q.inDev then popChans s else [c]
    forEach cs (doIf q.inDev devForget s) fun s d =>
      if (chan s d).sch.hold = .holding ∨ (chan s d).sch.hold = .held then ev (holdAbort s d 3) (chEv d 2) else s
  else s

def execHoldExpired (c : Fin 16) (s : State) : Host.Outcome State Fault Refusal := ok (holdExpired s c)

/-- CH_RELEASED: a RELEASING channel returns to RUN (R164). -/
def chReleased (s : State) (c : Fin 16) : State :=
  if (chan s c).sch.hold = .releasing then toRun s c else s

def execChReleased (c : Fin 16) (s : State) : Host.Outcome State Fault Refusal := ok (chReleased s c)

/-! Device Hold (R167). -/

/-- TOP.HOLD_STATUS.state: 0 RUN, 1 HOLDING, 2 HELD, 3 RELEASING. -/
def devState (s : State) : Nat :=
  if !devHolding s then 0
  else if (popChans s).any (fun c => decide ((chan s c).sch.hold = .releasing) && (chan s c).sch.inDev) then 3
  else if (popChans s).all (fun c => decide ((chan s c).sch.hold = .held)) then 2
  else 1

/-- TOP.HOLD.hold: every populated channel is held together; a channel already in a Hold joins (R167). -/
def devHold (s : State) : State :=
  if devHolding s then s else forEach (popChans s) s fun s c => holdStart s c true

def execDevHold (s : State) : Host.Outcome State Fault Refusal := ok (devHold s)

/-- The grade check of a device Release on values with every pending grade and PHY.CFG applied (R157, R198): 22 where
the grades differ or a PHY.CFG check fails, 23 where a grade changes after Ready. -/
def gradeErr (s : State) (applied : State) (phyBad : Bool) : Option Nat :=
  let g (t : State) (c : Fin 16) : Nat := fld t (rSchSpeed c.val) 3 0
  if phyBad || (popChans s).any (fun c => decide (g applied c ≠ g applied 0)) then some 22
  else if isReady s && (popChans s).any (fun c => decide (g applied c ≠ g s c)) then some 23
  else none

/-- Pending PHY.CFG values checked and applied, or discarded with PHY_CFG_BAD; the check sees the pending grades
(R198). -/
def phyRelease (s : State) : State × Bool :=
  let cfgs := (popChans s).map (fun c => rPhyCfg c.val)
  if anyPend s (cfgs ++ (popChans s).map (fun c => rSchSpeed c.val)) then
    let s1 := cfgs.foldl pendApply s
    let s2 := ((popChans s).map (fun c => rSchSpeed c.val)).foldl pendApply s1
    if phyCfgOk s2 then (s1, false)
    else (forEach (popChans s) s fun s c => ev s (chEv c 22), true)
  else (s, false)

/-- c of R280, computed at a device Release: the population, speed grade and write CRC in force. -/
def chargeOf (s : State) : Nat :=
  let w := chanCount s * 8 * dataRate s 0 * 4
  let (num, den) := if rbit s (rPhyCfg 0) 2 then (w * 8, 5 * 9) else (w, 5)
  max 16 ((16 * 500000 * den + num - 1) / num)

/-- A device Release from HELD: every pending MAP, PHY and SCH value checked and applied at one edge (R104, R157,
R167, R198). -/
def devApply (s : State) : State :=
  let s0 := s
  let (s, mapBad) := mapRelease s
  let s := setDas s
  let (s, phyBad) := phyRelease s
  let applied := ((popChans s).map (fun c => rSchSpeed c.val)).foldl pendApply s
  let ge := if anyPend s ((popChans s).map (fun c => rSchSpeed c.val)) || phyBad then gradeErr s applied phyBad else none
  let (s, bad) := (popChans s).foldl (fun (x : State × Bool) c =>
    let (s, b) := schRelease x.1 c ge
    let s := forecastNote s0 (trfcRelease s c) c
    (setReleasing (chanPendDrop s c) c (if b then 2 else 1), x.2 || b)) (s, mapBad || phyBad)
  { pendDrop s 0x50000 0x60000 with
    devEnd := if bad then 2 else 1
    vnr := { s.vnr with charge := chargeOf s } }

/-- TOP.HOLD.release (R163, R167). -/
def devRelease (s : State) : State :=
  match devState s with
  | 2 => devApply s
  | 1 =>
    let s := forEach (popChans s) s fun s c =>
      match (chan s c).sch.hold with
      | .holding => toRun (modSch s c fun q => { q with lastEnd := 5 }) c
      | .held => chanRelease s c
      | _ => s
    { devForget s with devEnd := 5 }
  | _ => s

def execDevRelease (s : State) : Host.Outcome State Fault Refusal := ok (devRelease s)

end Sys2Proof.Machine
end

