-- ==== Sys2Proof/Machine/Mirror.lean ====
section
/-!
DEFINITION. Regions and cure modes, the Stale Map, segments handed to Tenon, forwarding to the twin, and lending
(R41 to R43, R272, R300, R303, R310, R316, R348, R353).
-/
namespace Sys2Proof.Machine
open Sys2Proof

/-! Regions (R272, R300). -/

/-- The region of an LMS address: the lowest-numbered enabled descriptor that covers it. -/
def regionAt (s : State) (a : Nat) : Nat :=
  ((List.range 64).find? fun i => rbit s (rVnrRgnA i) 63
      && decide (fld s (rVnrRgnA i) 47 12 ≤ a / 4096) && decide (a / 4096 < fld s (rVnrRgnB i) 47 12)).getD 63

/-- The attribute of an address: 0 Write-back, 1 Write-through, 2 No-allocate, 3 No-cache, 4 Streaming. -/
def attrAt (s : State) (a : Nat) : Nat := fld s (rVnrRgnA (regionAt s a)) 58 56

/-- The resolved cure mode of an address (R300). -/
def modeAt (s : State) (a : Nat) : CureMode :=
  let r := regionAt s a
  let m := fld s (rCurRgnMode (r / 16)) (2 * (r % 16) + 1) (2 * (r % 16))
  match if m = 0 then fld s rCurCfg 1 0 else m with
  | 1 => .sync
  | 2 => .epoch
  | _ => .loc

/-- A region is mirrored when its resolved mode is not Local. -/
def mirroredAt (s : State) (a : Nat) : Bool := decide (a < 2 ^ 46) && decide (modeAt s a ≠ .loc)

/-- The mirror stream runs: writes are captured and requests for a fenced channel are forwarded (R301, R316). -/
def mirrorOn (s : State) : Bool :=
  decide (s.cure.mstate = .mirrored) || decide (s.cure.mstate = .stalled) || decide (s.cure.mstate = .attaching)

/-- A panel's Stale Map bit set. -/
def staleSet (s : State) (p : Nat) : State := { s with map := { s.map with stale := fmSet s.map.stale p true } }

/-- A panel's Stale Map bit cleared. -/
def staleClear (s : State) (p : Nat) : State := { s with map := { s.map with stale := fmSet s.map.stale p false } }

/-- A panel's Stale Map bit. -/
def staleBit (s : State) (p : Nat) : Bool := fmGet s.map.stale p

/-! Connections and segments (R303, R348). -/

def connOf (s : State) (c : Nat) : Conn := smGet Conn.none s.conns c

/-- A connection is in ERROR. -/
def connErr (s : State) (c : Nat) : Bool := decide ((connOf s c).mode = .error)

/-- The outbound mirror connection of a panel (R303). -/
def mirConn (p : Nat) : Nat := 8 + p % 8

/-- A segment queued on a connection. -/
def outPush (s : State) (c : Nat) (g : OutSeg) : State :=
  { s with cure := { s.cure with out := smSet [] s.cure.out c (smGet [] s.cure.out c ++ [g]) } }

/-- A write of lines from an address. -/
def segLines (kind : BitVec 4) (a : Nat) (ls : List (Option LineData)) (imm : Word32) (why : Why) : OutSeg :=
  { op := .write, kind := kind, addr := BitVec.ofNat 48 a, len := ls.length, lines := ls, mask := BitVec.allOnes 64,
    imm := imm, operand := 0, why := why }

/-- A segment without payload. -/
def segBare (op : SegOp) (kind : BitVec 4) (a len : Nat) (imm : Word32) (why : Why) : OutSeg :=
  { op := op, kind := kind, addr := BitVec.ofNat 48 a, len := len, lines := [], mask := 0, imm := imm, operand := 0,
    why := why }

/-- The mirror segment of what was captured (R304, R305): LINES, MASKED, POISON or TRIM. -/
def segMir (a : Nat) (m : MirWhat) (e : BitVec 32) (why : Why) : OutSeg :=
  match m with
  | .bytes mask d =>
    if mask = BitVec.allOnes 64 then segLines 1 a [some d] e why
    else { segLines 2 a [some d] e why with mask := mask }
  | .poison => segBare .write 3 a 1 e why
  | .trim => segBare .write 4 a 0 e why

/-! What a request writes (R55, R56, R61). -/

/-- The 8-byte word of a line that an atomic's address names. -/
def wordOf (r : Req) : Nat := r.addr.toNat / 8 % 8

/-- The value an atomic writes over an old value, if it writes (R55). -/
def atomNew (r : Req) (old : Word64) : Option Word64 :=
  match r.op with
  | .add8 => some (old + lineWord r.data 0)
  | .cas8 => if old = lineWord r.data 0 then some (lineWord r.data 1) else none
  | _ => none

/-- The effect of an access on a line. -/
def applyReq (r : Req) (data : LineData) (poison : Bool) : Applied :=
  let keep : Applied := ⟨data, poison, false, false, none⟩
  match r.op with
  | .rdLine => { keep with rd := some (if poison then (.poison, 0) else (.ok, data)) }
  | .rdPart => { keep with rd := some (if poison then (.poison, 0) else (.ok, mergeLine r.mask data 0)) }
  | .wrLine => ⟨r.data, r.poison, true, true, none⟩
  | .wrPart =>
    if r.poison then ⟨mergeLine r.mask r.data data, true, true, true, none⟩
    else if r.mask = BitVec.allOnes 64 then ⟨r.data, false, true, true, none⟩
    else ⟨mergeLine r.mask r.data data, poison, true, false, none⟩
  | .add8 | .cas8 =>
    if poison then { keep with rd := some (.poison, 0) }
    else
      let old := lineWord data (wordOf r)
      match atomNew r old with
      | some v => ⟨setLineWord data (wordOf r) v, false, true, false, some (.ok, old.setWidth 512)⟩
      | none => { keep with rd := some (.ok, old.setWidth 512) }
  | .trim | .prefetch => keep

/-- A full-line write: WR_LINE, a WR_PART with every enable set, or any poisoned write (R55, R61). -/
def isFullWr (r : Req) : Bool :=
  match r.op with
  | .wrLine => true
  | .wrPart => r.poison || decide (r.mask = BitVec.allOnes 64)
  | _ => false

/-- What Casting captures of a write, known at admission for all but atomics (R304). -/
def mirOf (r : Req) : Option MirWhat :=
  match r.op with
  | .wrLine => some (if r.poison then .poison else .bytes (BitVec.allOnes 64) r.data)
  | .wrPart => some (if r.poison then .poison else .bytes r.mask r.data)
  | .trim => some .trim
  | _ => none

/-- What Casting captures of an atomic that wrote: its 8 result bytes. -/
def mirAtom (r : Req) (line : LineData) : MirWhat :=
  .bytes (BitVec.ofNat 64 (0xFF <<< (8 * wordOf r))) line

/-! Completions of requests. -/

/-- The completion of an access that returns data, or of a write. A write in Sync mode waits for its epoch (R301). -/
def dueOf (t : TtEntry) (wrote : Bool) (code : Code) (data : LineData) : CmpDue :=
  { code := code, data := data, sync := if wrote && decide (t.mode = .sync) then t.epoch else none }

/-- Written panels of mirrored regions are marked stale: in DEGRADED, and in DETACHED with the twin stale (R301, R310). -/
def mirMark (s : State) : Bool :=
  decide (s.cure.mstate = .degraded) || (decide (s.cure.mstate = .detached) && s.cure.staleSide)

/-- The panel of a mirrored write is marked stale where writes mark (R310). -/
def markWritten (s : State) (t : TtEntry) : State :=
  doIf (t.epoch.isSome && decide (t.mode ≠ .loc) && mirMark s) (fun s => staleSet s (panelOf t.req.addr.toNat)) s

/-- A request of a port that was to carry an epoch carries none, or has taken it (R56, R63). -/
def noteEpoch (s : State) (t : TtEntry) (e : Option (BitVec 32)) : State :=
  match t.req.dest with
  | .port p _ => fenceNote s p t.req.rid e (decide (t.mode ≠ .loc))
  | _ => s

/-- An access has been performed: an atomic's result is known, and its epoch stands only if it wrote (R56, R304). `hold`:
its completion waits for its local durability. -/
def performed (s : State) (t : TtEntry) (ap : Applied) (hold : Bool) : State :=
  let rid := t.req.rid
  let due (s : State) (x : CmpDue) : State :=
    if hold && ap.wrote then ttMod s rid fun t => { t with held := some x } else ttDue s rid x
  match t.req.op with
  | .add8 | .cas8 =>
    let s := if ap.wrote then
        noteEpoch (ttMod (markWritten s t) rid fun x => { x with
          mir := x.mir.orElse (fun _ => some (mirAtom t.req ap.data)) }) t t.epoch
      else noteEpoch (ttMod s rid fun x => { x with epoch := none, capt := true }) t none
    match ap.rd with
    | some (code, d) => due s (dueOf t ap.wrote code d)
    | none => s
  | _ =>
    match ap.rd with
    | some (code, d) => due s (dueOf t false code d)
    | none => s

/-- A request ends with an error code: it carries no epoch, is not captured, and no fence covers it (R63). -/
def failReq (s : State) (t : TtEntry) (code : Code) : State :=
  let rid := t.req.rid
  let s := noteEpoch (ttMod s rid fun x => { x with epoch := none, capt := true, cmp := none, held := none }) t none
  ttLeave s rid (some ⟨code, 0, none⟩)

/-- One of the acknowledgements a write's local durability waits for has come (R43, R297, R343). -/
def partDone (s : State) (rid : Nat) : State :=
  match ttFind s rid with
  | none => s
  | some t =>
    if t.stage ≠ .lent then s
    else if 1 < t.parts then ttMod s rid fun x => { x with parts := x.parts - 1 }
    else ttLeave (ttMod s rid fun x => { x with parts := 0, stage := .left, held := none }) rid t.held

/-! Forwarding to the twin (R316). -/

/-- Whether a request can be served from the twin. -/
def canForward (s : State) (a : Nat) : Bool := mirrorOn s && mirroredAt s a

/-- Forwarded writes that hold a mirror buffer entry (R305). -/
def fwdHeld (s : State) : Nat :=
  s.tt.countP fun t => decide (t.stage = .twinWait) && (isWriteOp t.req.op || decide (t.req.op = .trim))

/-- Mirror buffer entries a segment holds until it is sent. -/
def segEntries (g : OutSeg) : Nat := if g.why = .mirror then max 1 g.lines.length else 0

/-- Mirror buffer entries in use. -/
def mirUsed (s : State) : Nat :=
  fwdHeld s + (((List.range 8).map fun k => ((smGet [] s.cure.out (8 + k)).map segEntries).sum).sum)

/-- A write of the panel admitted earlier has still to be captured, and goes ahead on its connection (R303). -/
def panelAheadCapt (s : State) (rid p : Nat) : Bool :=
  (s.tt.takeWhile fun t => decide (t.req.rid ≠ rid)).any fun t => !t.capt && decide (panelOf t.req.addr.toNat = p)

/-- The segment that forwards a request (R316). -/
def segFwd (t : TtEntry) : OutSeg :=
  let r := t.req
  let a := lineAddr r.addr.toNat
  let e := t.epoch.getD 0
  match r.op with
  | .add8 => { segBare .add8 1 r.addr.toNat 8 e (.fwd r.rid) with operand := r.data.setWidth 128 }
  | .cas8 => { segBare .cas8 1 r.addr.toNat 8 e (.fwd r.rid) with operand := r.data.setWidth 128 }
  | _ =>
    match mirOf r with
    | some m => segMir a m e (.fwd r.rid)
    | none => segBare .readReq 1 a 1 0 (.fwd r.rid)

/-- A request for a fenced channel, or for a lost lender, served from the twin or refused (R316, R353). It goes behind the
writes of its panel admitted before it (R303), and a write waits for a mirror buffer entry (R304, R305). -/
def forward (s : State) (rid : Nat) : State :=
  match ttFind s rid with
  | none => s
  | some t =>
    let a := t.req.addr.toNat
    let p := panelOf a
    if t.req.op = .prefetch then ttLeave (ttMod s rid fun x => { x with capt := true }) rid none
    else if canForward s a then
      let wr := isWriteOp t.req.op || decide (t.req.op = .trim)
      if connErr s (mirConn p) then failReq (cntInc (doIf wr (fun s => staleSet s p) s) rCurFwdCnt) t .errFenced
      else
        let full : Bool := wr && (decide (4096 ≤ fwdHeld s) || decide (8192 ≤ mirUsed s))
        if full || panelAheadCapt s rid p then
          doIf (full && decide (t.stage ≠ .fwdWait)) (fun s => cntInc s rCurPendWaitCnt)
            (ttMod s rid fun x => { x with stage := .fwdWait })
        else
          let s := doIf wr (fun s => staleSet s p) s
          let s := ttMod s rid fun x => { x with stage := .twinWait, capt := true }
          outPush (cntInc s rCurFwdCnt) (mirConn p) (segFwd t)
    else failReq s t .errFenced

/-- Forwarded requests that waited are sent where they now can be. -/
def fwdPump (s : State) : State :=
  forEach (s.tt.filter fun t => t.stage = .fwdWait) s fun s t => forward s t.req.rid

/-- The answer of a forwarded request (R316). -/
def fwdAnswer (s : State) (rid : Nat) (ans : SegAns) : State :=
  match ttFind s rid with
  | none => s
  | some t =>
    let s := match ans with
      | .acked => ttLeave (ttMod s rid fun x => { x with held := none }) rid t.held
      | .lines ls _ =>
        match ls.headD none with
        | some d => ttLeave s rid ((applyReq t.req d false).rd.map fun x => dueOf t false x.1 x.2)
        | none => ttLeave s rid (some (dueOf t false .poison 0))
      | .old v =>
        let wrote := (atomNew t.req v).isSome
        let s := if wrote then noteEpoch s t t.epoch else noteEpoch (ttMod s rid fun x => { x with epoch := none }) t none
        ttLeave s rid (some (dueOf t wrote .ok (v.setWidth 512)))
      | _ => failReq s t .errFenced
    fwdPump s

/-! Lending (R42, R43, R348). -/

/-- The neighbour entry of a Device ID. -/
def nbrOf (s : State) (dev : Nat) : Option (Fin 32) :=
  (List.finRange 32).find? fun j => rbit s (rTirNbr j.val) 63 && decide (fld s (rTirNbr j.val) 47 32 = dev)

/-- The lending connection of a panel to a neighbour (R348). -/
def lendConn (s : State) (j : Fin 32) (p : Nat) : Nat := fld s (rTirNbr j.val) 31 19 * 8 + p % 8

/-- The neighbour whose frame holds a panel, with the frame: REMOTE and MOVING_UP panels, and the destination of a
MOVING_DOWN panel. -/
def remoteOf (s : State) (p : Nat) : Option (Fin 32 × Nat) :=
  if tiered s then
    let e := pmapGet s p
    match peState e with
    | 2 | 3 => (nbrOf s (peOwner e)).map fun j => (j, peFrame e)
    | 4 => (s.tier.moves.find? (fun m => m.panel = p)).map fun m => (m.nbr, m.rframe)
    | _ => none
  else none

/-- The local frame a moving panel's writes also go to: the destination of MOVING_UP, the source of MOVING_DOWN. -/
def moveFrame (s : State) (p : Nat) : Option Nat :=
  if tiered s then
    match peState (pmapGet s p) with
    | 3 => (s.tier.moves.find? (fun m => m.panel = p)).map fun m => m.lframe
    | 4 => some (peFrame (pmapGet s p))
    | _ => none
  else none

/-- The panel's lender is LOST and it has no other copy here (R353). -/
def lenderLost (s : State) (p : Nat) : Bool :=
  if tiered s then
    match peState (pmapGet s p) with
    | 2 | 3 => match remoteOf s p with
      | some (j, _) => decide (s.tier.nbrs[j].mode = .lost)
      | none => true
    | _ => false
  else false

/-- Lending slots of an engine in use. -/
def slotUse (s : State) (e : Fin 8) : Nat := s.tt.countP fun t => decide (t.cls = .slot e)

/-- A free lending slot: of the panel's engine, or of another (R43). -/
def slotFree (s : State) (p : Nat) : Option (Fin 8) :=
  if slotUse s (Fin.ofNat 8 p) < 4096 then some (Fin.ofNat 8 p)
  else (List.finRange 8).find? fun e => decide (slotUse s e < 4096)

/-- A lending access leaves the Veneer for a lending slot (R43). -/
def toSlot (s : State) (rid : Nat) (e : Fin 8) (f : TtEntry → TtEntry) : State :=
  ttMod s rid fun t => f { t with cls := .slot e }

/-- A frame access waits for admission. -/
def isFrameReq (r : Req) : Bool := match r.kind with | .frame _ _ => true | _ => false

/-- A frame access of a request to a moving panel: presented in the pool of the frame's channel ahead of the requester's
other waiting requests, after the frame accesses presented before it (R343). -/
def frameAccess (s : State) (t : TtEntry) (das : Nat) (data : LineData) (poison : Bool) : State :=
  let r : Req := { t.req with
    rid := s.adm.nextRid, op := .wrLine, data := data, poison := poison, hasData := true, lock := false, lockEnd := false
    pool := chanOf s das, dest := .drop, kind := .frame (lineAddr das) t.req.rid, since := none }
  { s with adm := { s.adm with
    wait := s.adm.wait.filter isFrameReq ++ r :: s.adm.wait.filter (fun q => !isFrameReq q)
    nextRid := s.adm.nextRid + 1 } }

/-- The lending slot a lending access takes: the one it holds, or a free one. -/
def slotFor (s : State) (t : TtEntry) : Option (Fin 8) :=
  match t.cls with
  | .slot e => some e
  | _ => slotFree s (panelOf t.req.addr.toNat)

/-- A write of a full line to a panel that is not LOCAL (R42): a lending write, and for a moving panel its frame too. The
request is locally durable once every copy has it. With every slot full the line waits in its TT entry (R43). -/
def lendWrite (s : State) (t : TtEntry) (data : LineData) (poison : Bool) : State :=
  let rid := t.req.rid
  let a := lineAddr t.req.addr.toNat
  let p := panelOf a
  match remoteOf s p, slotFor s t with
  | some (j, f), some e =>
    let fr := moveFrame s p
    let s := toSlot s rid e fun x => { x with
      stage := .lent, full := none, parts := if fr.isSome then 2 else 1 }
    let s := cntInc s rTirLendWrCnt
    let s := outPush s (lendConn s j p)
      (segLines 1 (f * 65536 + a % 65536) [if poison then none else some data] 0 (.lend rid))
    match fr with
    | some l => frameAccess s t (l * 65536 + a % 65536) data poison
    | none => s
  | _, _ => ttMod s rid fun x => { x with stage := .slotWait, full := some (data, poison) }

end Sys2Proof.Machine
end

