-- ==== Sys2Proof/Machine/Veneer.lean ====
section
/-!
DEFINITION. The Veneer cache (09_veneer_cache.md): lookups, fills, victims, the Dirty Budget, the cleaner, range operations
and the states.
-/
namespace Sys2Proof.Machine
open Sys2Proof

/-! Slices and sets (R268). -/

/-- The decode address of an LMS address: of the local frame for a LOCAL panel (R41), else the address itself. -/
def decodeAddr (s : State) (a : Nat) : Nat :=
  let e := pmapGet s (panelOf a)
  if tiered s ∧ peState e = 1 then peFrame e * 65536 + a % 65536 else a

/-- Slice of a decode address. -/
def sliceOf (s : State) (d : Nat) : Fin 16 :=
  if chanCount s = 16 then chanOf s d else Fin.ofNat 16 ((chanOf s d).val + 8 * (lineIdxOf s d % 2))

/-- Set of a decode address. -/
def setOf (s : State) (d : Nat) : Nat :=
  let cl := if chanCount s = 16 then lineIdxOf s d else lineIdxOf s d / 2
  let l := 2 * cl + d / 64 % 2
  l % 8192 ^^^ (l / 8192) % 8192

/-- A set of 16 empty ways. -/
def emptySet : List VWay := List.replicate 16 .empty

def modSlice (s : State) (sl : Fin 16) (f : VSlice → VSlice) : State :=
  { s with vnr := { s.vnr with slices := s.vnr.slices.set sl (f s.vnr.slices[sl]) } }

def getSet (s : State) (sl : Fin 16) (st : Nat) : List VWay := smGet emptySet s.vnr.slices[sl].sets st

def putSet (s : State) (sl : Fin 16) (st : Nat) (w : List VWay) : State :=
  modSlice s sl fun x => { x with sets := smSet emptySet x.sets st w }

/-- The line a way holds. -/
def wayLine : VWay → Option VLine
  | .line l => some l
  | _ => none

/-- Whether a way holds a line with a tag. -/
def wayIs (tag : Nat) (w : VWay) : Bool :=
  match w with
  | .line l => decide (l.tag = tag)
  | _ => false

/-- The line of a tag in a set. -/
def findLine (s : State) (sl : Fin 16) (st tag : Nat) : Option VLine :=
  ((getSet s sl st).find? (wayIs tag)).bind wayLine

/-- The line of a tag replaced, or its way emptied. -/
def putLine (s : State) (sl : Fin 16) (st tag : Nat) (l : Option VLine) : State :=
  putSet s sl st ((getSet s sl st).map fun w => if wayIs tag w then
      (match l with | some x => .line x | none => .empty) else w)

/-- The miss buffer entry of a line. -/
def missOf (s : State) (sl : Fin 16) (tag : Nat) : Option MissEnt := s.vnr.slices[sl].miss.find? (fun m => m.line = tag)

def modMiss (s : State) (sl : Fin 16) (tag : Nat) (f : MissEnt → MissEnt) : State :=
  modSlice s sl fun x => { x with miss := x.miss.map fun m => if m.line = tag then f m else m }

/-- The victim buffer entry of a line. -/
def victOf (s : State) (sl : Fin 16) (tag : Nat) : Option VictEnt := s.vnr.slices[sl].vict.find? (fun v => v.line = tag)

/-- A read of a move's copy, whose line is not installed (R344). -/
def isCopyRead (r : Req) : Bool := match r.dest with | .move _ _ => true | _ => false

/-- Lookups are made: the Veneer is Enabled or Draining (R290). -/
def vnrLooks (s : State) : Bool := decide (s.vnr.mode = .enabled) || decide (s.vnr.mode = .draining)

/-- The attribute that governs an access (R273): No-cache while not Enabled, and from PFAIL_N low (R290, R292). -/
def vnrAttr (s : State) (a : Nat) : Nat :=
  if s.vnr.mode ≠ .enabled ∨ inDrain s then 3 else attrAt s a

/-! The Dirty Budget (R279 to R281). -/

/-- Dirty lines in a slice, victim buffer included. -/
def sliceDirty (v : VSlice) : Nat :=
  (v.sets.map fun e => e.2.countP fun w => match w with | .line l => l.dirty | _ => false).sum + v.vict.length

/-- Dirty lines (VNR.DIRTY_STATUS.lines). -/
def dirtyLines (s : State) : Nat := (s.vnr.slices.toList.map sliceDirty).sum

/-- Charged dirty bytes (R280). -/
def charged (s : State) : Nat := dirtyLines s * 4 * s.vnr.charge

/-- The Dirty Budget in bytes. -/
def budget (s : State) : Nat := fld s rVnrDirty 23 16 * 2 ^ 20

/-- One more line may become dirty (R281). -/
def mayDirty (s : State) : Bool := decide (charged s + 4 * s.vnr.charge ≤ budget s)

/-- A write is performed as in a write-through region because of the budget (R281). -/
def forceWt (s : State) : State :=
  let s := cntInc s rVnrWtForceCnt
  if s.vnr.overSeen && !decide (charged s < budget s) then s
  else ev { s with vnr := { s.vnr with overSeen := true } } 711

/-- Charged dirty bytes have fallen below the budget. -/
def overUpd (s : State) : State :=
  if charged s < budget s then { s with vnr := { s.vnr with overSeen := false } } else s

/-! Lines to a channel. -/

/-- A channel is in RUN: the Veneer fills and writes back its lines (R162). -/
def chanRuns (s : State) (das : Option Nat) : Bool :=
  match das with
  | some d => decide ((chan s (chanOf s d)).sch.hold = .run)
  | none => true

/-- An arrival on its way to a channel's queues (R136). -/
def toChan (s : State) (das : Nat) (rid : Option Nat) (w : RdEnt ⊕ WrEnt ⊕ PartWr) : State :=
  modSch s (chanOf s das) fun q => { q with arrive := q.arrive ++ [⟨rid, w, false⟩] }

/-- A full line on its way to the write queue. -/
def lineToWq (s : State) (das : Nat) (rid : Option Nat) (raw : RawLine) (rt : Bool) : State :=
  toChan (mapWrite s das (BitVec.allOnes 64) (decodeStored raw).data) das rid
    (.inr (.inl ⟨0, posOf s das, das, raw, false, rt⟩))

/-- A read on its way to the read queue. -/
def lineToRq (s : State) (das : Nat) (rid : Option Nat) (r : Req) (stamp : Nat) (dest : RdDest) : State :=
  toChan s das rid (.inl ⟨0, posOf s das, das, dest, stamp, ⟨r.src, r.qos⟩, 0, r.rt, false⟩)

/-- A partial write on its way to the Glue-up buffer. -/
def partToGlue (s : State) (das : Nat) (rid : Option Nat) (t : TtEntry) : State :=
  let r := t.req
  toChan (mapWrite s das r.mask r.data) das rid (.inr (.inr ⟨posOf s das, das, BitVec.ofNat 48 (lineAddr r.addr.toNat), r.data, r.mask, r.poison, false,
    t.stamp, ⟨r.src, r.qos⟩, r.rt⟩))

/-! Replacement (R277, R278). -/

/-- Ways that hold an unpinned line. -/
def unpinned (w : VWay) : Bool := match w with | .line l => !l.pin | _ => false

def wayAge (w : VWay) : Nat := match w with | .line l => l.age | _ => 4

/-- Ages decremented once where no unpinned line has age 0. -/
def ageDown (ws : List VWay) : List VWay :=
  if ws.any (fun w => unpinned w && decide (wayAge w = 0)) then ws
  else ws.map fun w => match w with | .line l => if l.pin then w else .line { l with age := l.age - 1 } | _ => w

/-- The lowest index of a list whose element meets a test. -/
def indexOf? {α : Type} (p : α → Bool) (xs : List α) : Option Nat :=
  (List.range xs.length).find? fun i => match xs[i]? with | some x => p x | none => false

/-- The way a new line takes, and the set with its ages updated. -/
def chooseWay (ws : List VWay) : Option (Nat × List VWay) :=
  match indexOf? (fun w => decide (w = VWay.empty)) ws with
  | some i => some (i, ws)
  | none =>
    let ws := ageDown ws
    match indexOf? (fun w => unpinned w && ws.all (fun v => !unpinned v || decide (wayAge w ≤ wayAge v))) ws with
    | some i => some (i, ws)
    | none => none

/-- A line installed; a dirty victim moves to the victim buffer (R271). None where every way is pinned or disabled. -/
def install (s : State) (sl : Fin 16) (st : Nat) (l : VLine) : Option State :=
  (chooseWay (getSet s sl st)).map fun x =>
    let s := match wayLine (x.2.getD x.1 .empty) with
      | some v => if v.dirty then modSlice s sl fun y => { y with vict := y.vict ++ [⟨v.tag, v.das.getD 0, v.raw⟩] } else s
      | none => s
    cntInc (putSet s sl st (x.2.set x.1 (.line l))) rVnrFillCnt

/-- Pinned lines of a set. -/
def pinCount (ws : List VWay) : Nat := ws.countP fun w => match w with | .line l => l.pin | _ => false

/-- A pinned install refused for its count becomes unpinned (R278). -/
def pinAllowed (s : State) (sl : Fin 16) (st : Nat) : Bool × State :=
  if pinCount (getSet s sl st) < fld s rVnrPin 3 0 then (true, s)
  else (false, evd (cntInc s rVnrPinRefuseCnt) 713 [BitVec.ofNat 32 sl.val, BitVec.ofNat 32 st])

/-! Hits (R269, R273, R275). -/

/-- A write has changed a line held: the line's new state and where the data goes. Of a panel that is REMOTE or being moved every
copy is written (R42). -/
def writeHeld (s : State) (t : TtEntry) (sl : Fin 16) (st : Nat) (l : VLine) (attr : Nat) (ap : Applied) : State :=
  let rid := t.req.rid
  let raw := encodeLine ap.data ap.poison
  let out (s : State) (das : Nat) : State :=
    lineToWq (ttMod s rid fun x => { x with stage := .queue }) das (some rid) raw t.req.rt
  let lend : Bool := lending s (panelOf t.req.addr.toNat)
  match if lend then none else l.das with
  | none =>
    let age := if attr < 2 then 3 else l.age
    let s := putLine s sl st l.tag (if attr = 3 then none else some { l with raw := raw, age := age })
    lendWrite s t ap.data ap.poison
  | some das =>
    match attr with
    | 0 =>
      if l.dirty || mayDirty s then
        ttLeave (putLine (overUpd s) sl st l.tag (some { l with raw := raw, dirty := true, age := 3 })) rid none
      else out (putLine (forceWt s) sl st l.tag (some { l with raw := raw, age := 3 })) das
    | 1 => out (putLine s sl st l.tag (some { l with raw := raw, dirty := false, age := 3 })) das
    | 3 => out (putLine s sl st l.tag none) das
    | _ =>
      let s := putLine s sl st l.tag (some { l with raw := raw })
      if l.dirty then ttLeave s rid none else out s das

/-- An access that hits a line whose decode gave data. -/
def serveHit (s : State) (t : TtEntry) (sl : Fin 16) (st : Nat) (l : VLine) (attr : Nat) (data : LineData) (poison : Bool) :
    State :=
  let ap := applyReq t.req data poison
  let s := performed s t ap (l.das.isNone || lending s (panelOf t.req.addr.toNat))
  if ap.wrote then writeHeld s t sl st l attr ap
  else
    let age := if attr < 3 then 3 else l.age
    let s := putLine s sl st l.tag (some { l with age := age, raw := encodeLine data poison })
    ttLeave (ttMod s t.req.rid fun x => { x with capt := true }) t.req.rid none

/-- An access that hits the victim buffer and decodes to data: served as a hit on a dirty line, a write updating the buffered
data (R271) and a copy of the line still held. -/
def serveVictim (s : State) (t : TtEntry) (sl : Fin 16) (st : Nat) (v : VictEnt) (attr : Nat) (d : LineRes) : State :=
  let s := modSlice s sl fun x => { x with
    vict := x.vict.map fun w => if w.line = v.line then { w with raw := encodeLine d.data (decide (d.kind = .poison)) } else w }
  let ap := applyReq t.req d.data (decide (d.kind = .poison))
  let s := performed s t ap false
  let held (s : State) (f : VLine → Option VLine) : State := match findLine s sl st v.line with
    | some l => putLine s sl st v.line (f l)
    | none => s
  if ap.wrote then
    let raw := encodeLine ap.data ap.poison
    let s := modSlice s sl fun x => { x with vict := x.vict.map fun w => if w.line = v.line then { w with raw := raw } else w }
    let s := held s fun l => if attr = 3 then none else some { l with raw := raw, age := if attr < 2 then 3 else l.age }
    ttLeave s t.req.rid none
  else
    let s := held s fun l => some { l with age := if attr < 3 then 3 else l.age }
    ttLeave (ttMod s t.req.rid fun x => { x with capt := true }) t.req.rid none

/-! Misses (R271, R273 to R275). -/

/-- A lending read sent to a neighbour (R348). -/
def nbrRead (s : State) (j : Fin 32) : State :=
  { s with tier := { s.tier with nbrs := s.tier.nbrs.set j { s.tier.nbrs[j] with rdAt := beatNs s } } }

/-- A fill issued for a line with a first access that waits (R271). -/
def startFill (s : State) (t : TtEntry) (sl : Fin 16) (attr : Nat) (how : Install) : State :=
  let a := lineAddr t.req.addr.toNat
  let rid := t.req.rid
  let m : MissEnt :=
    { line := a / 64, das := (dasOf s a).map lineAddr, waits := [⟨rid, attr⟩], snap := false, data := none,
      repair := false, how := how }
  let s := doIf (decide (how ≠ .byAttr)) (fun s => cntInc s rTirStageLineCnt) s
  match m.das with
  | some das =>
    let s := ttMod s rid fun x => { x with stage := .miss }
    lineToRq (modSlice s sl fun x => { x with miss := x.miss ++ [m] }) das none t.req t.stamp (.fill sl m.line)
  | none =>
    match remoteOf s (panelOf a), slotFor s t with
    | some (j, f), some e =>
      let s := toSlot s rid e fun x => { x with stage := .miss }
      let s := nbrRead (cntInc (modSlice s sl fun x => { x with miss := x.miss ++ [m] }) rTirLendRdCnt) j
      outPush s (lendConn s j (panelOf a)) (segBare .readReq 1 (f * 65536 + a % 65536) 1 0 (.lendFill sl m.line))
    | _, _ => ttMod s rid fun x => { x with stage := .slotWait }

/-- A full-line write that misses (R273). -/
def missFull (s : State) (t : TtEntry) (sl : Fin 16) (st : Nat) (attr : Nat) : State :=
  let a := lineAddr t.req.addr.toNat
  let rid := t.req.rid
  let ap := applyReq t.req 0 false
  let raw := encodeLine ap.data ap.poison
  match (dasOf s a).map lineAddr with
  | none => lendWrite s t ap.data ap.poison
  | some das =>
    if tiered s && decide (peState (pmapGet s (panelOf a)) ≠ 1) then lendWrite s t ap.data ap.poison
    else
    let out (s : State) : State :=
      lineToWq (ttMod s rid fun x => { x with stage := .queue }) das (some rid) raw t.req.rt
    let l : VLine := { tag := a / 64, raw := raw, dirty := false, pin := false, age := 2, das := some das }
    match attr with
    | 0 =>
      if mayDirty s then
        match install (overUpd s) sl st { l with dirty := true } with
        | some s => ttLeave s rid none
        | none => out s
      else out ((install (forceWt s) sl st l).getD (forceWt s))
    | 1 => out ((install s sl st l).getD s)
    | _ => out s

/-- How a request has its line installed: a staging read of a jig list as its step says (R358). -/
def howOf (s : State) (r : Req) : Install :=
  match r.dest with
  | .joiner e _ =>
    let j := s.tier.jigs[e]
    match (j.steps[j.step]?).map fun x => x.tgt with
    | some 1 => .pinned
    | some 2 => .streaming
    | _ => .byAttr
  | _ => .byAttr

/-- A staging read that finds its line held: pinned at age 3 if its set permits; streaming keeps the age (R358). -/
def stageHit (s : State) (t : TtEntry) (sl : Fin 16) (st tag : Nat) : State :=
  let s := if howOf s t.req = .pinned then
      match findLine s sl st tag with
      | some l =>
        if l.pin then putLine s sl st tag (some { l with age := 3 })
        else
          let (okPin, s) := pinAllowed s sl st
          if okPin then putLine s sl st tag (some { l with pin := true, age := 3 }) else s
      | none => s
    else s
  ttLeave (ttDue (ttMod s t.req.rid fun x => { x with capt := true }) t.req.rid ⟨.ok, 0, none⟩) t.req.rid none

/-- An access that misses. -/
def serveMiss (s : State) (t : TtEntry) (sl : Fin 16) (st : Nat) (attr : Nat) : State :=
  let a := lineAddr t.req.addr.toNat
  let how := howOf s t.req
  if isFullWr t.req then missFull s t sl st attr
  else if t.req.op = .wrPart then
    match (dasOf s a).map lineAddr with
    | some das =>
      if tiered s && decide (peState (pmapGet s (panelOf a)) ≠ 1) then startFill s t sl attr how
      else partToGlue (ttMod s t.req.rid fun x => { x with stage := .queue }) das (some t.req.rid) t
    | none => startFill s t sl attr how
  else startFill s t sl attr how

/-- An access waits for the repair of a dirty line that decoded uncorrectable on its hit (R269, R312). -/
def askRepair (s : State) (lms das : Nat) (who : RepWho) : State :=
  let p := panelOf lms
  let n := s.cure.nextRep
  let mk (s : State) (ans : Option RepAns) : State :=
    { s with cure := { s.cure with
        nextRep := n + 1, repairs := s.cure.repairs ++ [⟨n, lms, das, who, ans⟩] } }
  if s.cure.mstate = .degraded ∨ s.cure.mstate = .detached ∨ (staleBit s p ∧ s.cure.staleSide) then mk s (some .failed)
  else if connErr s (mirConn p) then mk (cntInc s rCurRepairFailCnt) (some .failed)
  else outPush (mk s none) (mirConn p) (segBare .readReq 1 lms 1 0 (.repair n))

/-- VNR_UE of a hit (R269). -/
def vnrUe (s : State) (sl : Fin 16) (a : Nat) (dirty : Bool) : State :=
  evo (cntInc s rVnrUeCnt) 710 (BitVec.ofNat 32 sl.val :: detail64 a ++ [BitVec.ofNat 32 (flag dirty)])
    { EvtOrigin.none with kind := .lms, addr := BitVec.ofNat 64 a }

/-- A dirty line that a hit finds uncorrectable, already invalidated: in a mirrored region the access waits while Casting
fetches the line from the twin; in another the line goes to the write queue poisoned and the access is applied to it (R269). -/
def dirtyLost (s : State) (t : TtEntry) (sl : Fin 16) (attr tag : Nat) (das : Option Nat) : State :=
  let a := tag * 64
  if mirroredAt s a then
    let s := ttMod s t.req.rid fun x => { x with stage := .miss }
    let s := modSlice s sl fun x => { x with miss := x.miss ++ [⟨tag, das, [⟨t.req.rid, attr⟩], false, none, true, .byAttr⟩] }
    askRepair s a (das.getD 0) (.fill sl tag)
  else
    let (v, s) := drawFree 512 s
    let ap := applyReq t.req v true
    let s := performed s t ap false
    let s := if ap.wrote then s else ttMod s t.req.rid fun x => { x with capt := true }
    lineToWq (ttMod s t.req.rid fun x => { x with stage := .queue }) (das.getD 0) (some t.req.rid)
      (encodeLine ap.data ap.poison) t.req.rt

/-- A hit on a set's line: decoded, with `err` what its array read adds (R269); a staging read takes no data from it. -/
def lookupHit (s : State) (t : TtEntry) (sl : Fin 16) (st : Nat) (l : VLine) (attr : Nat) (err : RawLine) : State :=
  let d := decodeStored (l.raw ^^^ err)
  let serve (s : State) : State :=
    if howOf s t.req = .byAttr then serveHit s t sl st l attr d.data (decide (d.kind = .poison))
    else stageHit (putLine s sl st l.tag (some { l with raw := encodeLine d.data (decide (d.kind = .poison)) })) t sl st l.tag
  match d.kind with
  | .clean | .poison => serve s
  | .corrected => serve (cntInc s rVnrCeCnt)
  | .uncorr =>
    let s := putLine (vnrUe s sl (l.tag * 64) l.dirty) sl st l.tag none
    if l.dirty then dirtyLost s t sl attr l.tag l.das else serveMiss s t sl st attr

/-- A staging read that finds its line in the victim buffer alone: the line is held clean beside its write-back (log entry 99). -/
def stageVictim (s : State) (t : TtEntry) (sl : Fin 16) (st : Nat) (v : VictEnt) (d : LineRes) : State :=
  let raw := encodeLine d.data (decide (d.kind = .poison))
  let s := match findLine s sl st v.line with
    | some _ => s
    | none => (install s sl st { tag := v.line, raw := raw, dirty := false, pin := false, age := 0, das := some v.das }).getD s
  stageHit s t sl st v.line

/-- A hit in the victim buffer: decoded as a hit on a dirty line (R269, R271). -/
def victimHit (s : State) (t : TtEntry) (sl : Fin 16) (st : Nat) (v : VictEnt) (attr : Nat) (err : RawLine) : State :=
  let d := decodeStored (v.raw ^^^ err)
  let serve (s : State) : State :=
    if howOf s t.req = .byAttr then serveVictim s t sl st v attr d else stageVictim s t sl st v d
  match d.kind with
  | .clean | .poison => serve s
  | .corrected => serve (cntInc s rVnrCeCnt)
  | .uncorr =>
    let s := putLine (vnrUe s sl (v.line * 64) true) sl st v.line none
    let s := modSlice s sl fun x => { x with vict := x.vict.filter fun w => w.line ≠ v.line }
    dirtyLost s t sl attr v.line (some v.das)

/-- An access at its Veneer stage: it waits in its line's miss buffer entry if there is one, else it is looked up, or
bypasses the Veneer while that is Clearing or Disabled (R271, R283, R290). -/
def vnrServe (s : State) (rid : Nat) (err : RawLine) : State :=
  match ttFind s rid with
  | none => s
  | some t =>
    let a := lineAddr t.req.addr.toNat
    let d := decodeAddr s a
    let sl := sliceOf s d
    let st := setOf s d
    let attr := if isCopyRead t.req then 3 else vnrAttr s a
    if (missOf s sl (a / 64)).isSome then
      let s := doIf (vnrLooks s) (fun s => cntInc s rVnrMissCnt) s
      modMiss (ttMod s rid fun x => { x with stage := .miss }) sl (a / 64) fun m => { m with
        waits := m.waits ++ [⟨rid, attr⟩]
        how := if howOf s t.req = .byAttr then m.how else howOf s t.req }
    else if vnrLooks s then
      match victOf s sl (a / 64) with
      | some v => victimHit (cntInc s rVnrHitCnt) t sl st v attr err
      | none =>
        match findLine s sl st (a / 64) with
        | some l => lookupHit (cntInc s rVnrHitCnt) t sl st l attr err
        | none => serveMiss (cntInc s rVnrMissCnt) t sl st attr
    else serveMiss s t sl st attr

/-- The slice of an address has room in its miss and victim buffers (R271). -/
def sliceRoom (s : State) (a : Nat) : Bool :=
  let x := s.vnr.slices[sliceOf s (decodeAddr s a)]
  decide (x.miss.length < 64) && decide (x.vict.length < 32)

/-- An access that waited for a lending slot goes on once one is free (R43): a line already made is written, another access is
looked up where its slice takes the lookup (R271). -/
def slotPump (s : State) : State :=
  match s.tt.find? (fun t => t.stage = .slotWait) with
  | some t =>
    if (slotFree s (panelOf t.req.addr.toNat)).isSome then
      match t.full with
      | some (d, p) => lendWrite s t d p
      | none =>
        if sliceRoom s t.req.addr.toNat then
          vnrServe (ttMod s t.req.rid fun x => { x with stage := .start }) t.req.rid 0
        else s
    else s
  | none => s

/-! Fills (R271, R287). -/

/-- A line as the waiting accesses have left it: its data if known, its poison, the last access that wrote, and the
attribute it was looked up under. -/
structure LandAcc where
  s    : State
  line : Option (LineData × Bool)
  last : Option (Nat × Nat)

/-- One waiting access applied to the fill data (R271). Where the data is unknown, because it decoded uncorrectable and is not
repaired, reads and atomics complete POISON and a partial write goes to the Glue-up buffer. For a panel that is REMOTE or being
moved every write goes to every copy (R42). -/
def landOne (das : Option Nat) (acc : LandAcc) (w : MissWait) : LandAcc :=
  match ttFind acc.s w.rid with
  | none => acc
  | some t =>
    let rd (s : State) : State := ttLeave (ttMod s w.rid fun x => { x with capt := true }) w.rid none
    match acc.line with
    | some (d, p) =>
      let ap := applyReq t.req d p
      let das := if lending acc.s (panelOf t.req.addr.toNat) then none else das
      let s := performed acc.s t ap das.isNone
      if ap.wrote then
        match das with
        | none => { s := lendWrite s t ap.data ap.poison, line := some (ap.data, ap.poison), last := acc.last }
        | some _ =>
          let s := match acc.last with
            | some (r, _) => ttLeave s r none
            | none => s
          { s := s, line := some (ap.data, ap.poison), last := some (w.rid, w.attr) }
      else { s := rd s, line := acc.line, last := acc.last }
    | none =>
      if isFullWr t.req then
        { s := acc.s, line := some ((applyReq t.req 0 false).data, t.req.poison), last := some (w.rid, w.attr) }
      else if t.req.op = .wrPart then
        { s := partToGlue (ttMod acc.s w.rid fun x => { x with stage := .queue }) (das.getD 0) (some w.rid) t,
          line := none, last := acc.last }
      else { s := rd (performed acc.s t (applyReq t.req 0 true) false), line := none, last := acc.last }

/-- The waiting accesses of a miss buffer entry applied to data, and the entry freed. -/
def landWaits (s : State) (sl : Fin 16) (m : MissEnt) (line : Option (LineData × Bool)) : LandAcc :=
  let s := modSlice s sl fun x => { x with miss := x.miss.filter (fun y => y.line ≠ m.line) }
  m.waits.foldl (landOne m.das) { s := s, line := line, last := none }

/-- A range operation with a snapshot covers the line (R287). -/
def ropDrops (s : State) (m : MissEnt) : Bool :=
  match s.vnr.rop with
  | some r => m.snap && decide (r.lo ≤ m.line) && decide (m.line < r.hi)
  | none => false

/-- The pin and the age that a staging fill gives its line (R278). -/
def howLine (s : State) (sl : Fin 16) (st : Nat) (m : MissEnt) (l : VLine) : VLine × State :=
  match m.how with
  | .pinned =>
    let (okPin, s) := pinAllowed s sl st
    ({ l with pin := okPin, age := 3 }, s)
  | .streaming => ({ l with age := 0 }, s)
  | .byAttr => (l, s)

/-- A line that only reads waited for is installed as its attribute says, or whatever that is by a staging fill
(R273, R278). -/
def landRead (s : State) (sl : Fin 16) (st : Nat) (m : MissEnt) (l : VLine) (attr : Nat) : State :=
  let (l, s) := howLine s sl st m l
  match m.how with
  | .pinned | .streaming => (install s sl st l).getD s
  | .byAttr =>
    match attr with
    | 0 | 1 => (install s sl st { l with age := 2 }).getD s
    | 4 => (install s sl st { l with age := 0 }).getD s
    | _ => s

/-- A fill that has returned is applied and installed, not while its channel is not in RUN (R162, R271, R273, R274, R287). -/
def fillLand (s : State) (sl : Fin 16) (m : MissEnt) (data : LineData) (poison : Bool) : State :=
  let d := decodeAddr s (m.line * 64)
  let st := setOf s d
  let drop := ropDrops s m
  let attr0 := (m.waits.head?.map fun w => w.attr).getD 3
  let acc := landWaits s sl m (some (data, poison))
  let s := doIf drop (fun s => cntInc s rVnrFillDropCnt) acc.s
  match acc.line with
  | none => s
  | some (d, p) =>
    let raw := encodeLine d p
    let line : VLine := { tag := m.line, raw := raw, dirty := false, pin := false, age := 2, das := m.das }
    let keep : Bool := vnrLooks s && decide (s.vnr.mode = .enabled) && !inDrain s && !drop && chanRuns s m.das
    match acc.last, m.das with
    | some (rid, attr), some das =>
      let out (s : State) : State := lineToWq (ttMod s rid fun x => { x with stage := .queue }) das (some rid) raw false
      if !keep then out s
      else
        let (l, s) := howLine s sl st m line
        match attr with
        | 0 =>
          if mayDirty s then
            match install (overUpd s) sl st { l with dirty := true } with
            | some s => ttLeave s rid none
            | none => out s
          else out ((install (forceWt s) sl st l).getD (forceWt s))
        | 1 => out ((install s sl st l).getD s)
        | 4 => out ((install s sl st (if m.how = .byAttr then { l with age := 0 } else l)).getD s)
        | _ => out (if m.how = .byAttr then s else (install s sl st l).getD s)
    | _, _ => if keep then landRead s sl st m line attr0 else s

/-- VNR_FILL_LAND: the slice's oldest fill that has returned. -/
def vnrFillLand (s : State) (sl : Fin 16) : State :=
  match s.vnr.slices[sl].miss.find? (fun m => m.data.isSome) with
  | some m => match m.data with
    | some (d, p) => if s.vnr.slices[sl].vict.length < 32 then slotPump (fillLand s sl m d p) else s
    | none => s
  | none => s

def execVnrFillLand (sl : Fin 16) (s : State) : Host.Outcome State Fault Refusal := ok (vnrFillLand s sl)

/-- A fill whose line cannot be had: waiting accesses are applied without it; a full-line write among them supplies the
line (R61, R313). -/
def fillLost (s : State) (sl : Fin 16) (m : MissEnt) : State :=
  let acc := landWaits s sl m none
  match acc.line, acc.last, m.das with
  | some (d, p), some (rid, _), some das =>
    lineToWq (ttMod acc.s rid fun x => { x with stage := .queue }) das (some rid) (encodeLine d p) false
  | _, _, _ => acc.s

/-- A fill whose line was repaired, or is taken as poisoned: the result goes to the write queue as one full line, carrying no
epoch and not mirrored (R313). -/
def fillRepaired (s : State) (sl : Fin 16) (m : MissEnt) (data : LineData) (poison : Bool) : State :=
  let acc := landWaits s sl m (some (data, poison))
  match acc.line, m.das with
  | some (d, p), some das =>
    match acc.last with
    | some (rid, _) =>
      lineToWq (ttMod acc.s rid fun x => { x with stage := .queue }) das (some rid) (encodeLine d p) false
    | none => lineToWq acc.s das none (encodeLine d p) false
  | _, _ => acc.s

/-! Write-backs, the cleaner and VNR_SRAM_ERR (R270, R271, R282). -/

/-- A set's dirty lines that meet a test move to the victim buffer and stay clean, or leave the set (`drop`). -/
def cleanSet (s : State) (sl : Fin 16) (st : Nat) (p : VLine → Bool) (drop : Bool) : State :=
  forEach ((getSet s sl st).filterMap wayLine) s fun s l =>
    if p l then
      let s := if l.dirty then
          modSlice s sl fun x => { x with vict := x.vict ++ [⟨l.tag, l.das.getD 0, l.raw⟩] } else s
      putLine s sl st l.tag (if drop then none else some { l with dirty := false })
    else s

/-- CLEANER: a slice's cleaner passes the next set (R282). -/
def cleaner (s : State) (sl : Fin 16) : State :=
  if vnrLooks s then
    let st := s.vnr.slices[sl].clean
    let above : Bool := decide (budget s < charged s)
    let high : Bool := decide (budget s * fld s rVnrDirty 6 0 ≤ 100 * charged s)
    let p (l : VLine) : Bool := l.dirty && chanRuns s l.das && (above || (high && !l.pin && decide (l.age ≤ 1)))
    let dirty := (getSet s sl st).countP fun w => match w with | .line l => p l | _ => false
    if s.vnr.slices[sl].vict.length + dirty ≤ 32 then
      modSlice (cleanSet s sl st p false) sl fun x => { x with clean := (st + 1) % 8192 }
    else s
  else s

def execCleaner (sl : Fin 16) (s : State) : Host.Outcome State Fault Refusal := ok (cleaner s sl)

/-- VNR_SRAM_ERR: a tag or state word reports; an uncorrectable word disables its way and loses what it held (R270). -/
def vnrSramErr (s : State) (sl : Fin 16) (st way : Nat) (uncorr : Bool) : State :=
  let s := doIf uncorr (fun s => putSet s sl st ((getSet s sl st).set way .off)) s
  raiseEvt s 714 [BitVec.ofNat 32 sl.val, BitVec.ofNat 32 st, BitVec.ofNat 32 way, BitVec.ofNat 32 (flag uncorr)] .none
    uncorr false

def execVnrSramErr (sl : Fin 16) (st : Fin 8192) (way : Fin 16) (uncorr : Bool) (s : State) :
    Host.Outcome State Fault Refusal :=
  ok (vnrSramErr s sl st.val way.val uncorr)

/-! Range operations (R285 to R289). -/

/-- The reserved and refused range commands (R285). -/
def ropRefused (s : State) (op : Option RopOp) : Bool :=
  s.vnr.rop.isSome || decide (fld s rVnrRopEnd 47 6 ≤ fld s rVnrRopStart 47 6) || op.isNone
    || (decide (op = some .inv) && isReady s) || decide (s.vnr.mode ≠ .enabled)

/-- A range command refused. -/
def ropRefuse (s : State) : State := ev { s with vnr := { s.vnr with ropRes := 2 } } 708

/-- What a range operation does to one line of the range. The flag counts a dirty line discarded. -/
def ropLine (s : State) (op : RopOp) (sl : Fin 16) (st : Nat) (l : VLine) : State × Nat :=
  let wb (s : State) : State := if l.dirty then
      modSlice s sl fun x => { x with vict := x.vict ++ [⟨l.tag, l.das.getD 0, l.raw⟩] } else s
  match op with
  | .clean => (putLine (wb s) sl st l.tag (some { l with dirty := false }), 0)
  | .cleanInv => (putLine (wb s) sl st l.tag none, 0)
  | .inv => (putLine s sl st l.tag none, flag l.dirty)
  | .unpin => (putLine s sl st l.tag (some { l with pin := false }), 0)

/-- The lines of a slice that lie in a range, with their sets. -/
def linesIn (s : State) (sl : Fin 16) (lo hi : Nat) : List (Nat × VLine) :=
  (s.vnr.slices[sl].sets.map fun e => (e.2.filterMap wayLine).filterMap fun l =>
    if lo ≤ l.tag ∧ l.tag < hi then some (e.1, l) else none).flatten

/-- The walk waits at a line: its channel is not in RUN, or its write-back finds the victim buffer full (R271, R286). -/
def walkWaits (s : State) (op : RopOp) (sl : Fin 16) (l : VLine) : Bool :=
  !chanRuns s l.das || (l.dirty && (decide (op = .clean) || decide (op = .cleanInv)) && decide (32 ≤ s.vnr.slices[sl].vict.length))

/-- A walk under way: the state, the dirty lines discarded, and the lines it waits at, by slice, set and line. -/
structure WalkAcc where
  s    : State
  lost : Nat
  left : List (Fin 16 × Nat × Nat)

/-- One line of a walk. -/
def walkLine (op : RopOp) (sl : Fin 16) (acc : WalkAcc) (x : Nat × VLine) : WalkAcc :=
  if walkWaits acc.s op sl x.2 then { acc with left := acc.left ++ [(sl, x.1, x.2.tag)] }
  else
    let r := ropLine acc.s op sl x.1 x.2
    { acc with s := r.1, lost := acc.lost + r.2 }

/-- The walk of an operation over every slice (R286). -/
def ropWalk (s : State) (op : RopOp) (lo hi : Nat) : WalkAcc :=
  allChans.foldl (fun acc sl => (linesIn acc.s sl lo hi).foldl (walkLine op sl) acc) ⟨s, 0, []⟩

/-- The walk goes on at the lines it waited at. -/
def ropRewalk (s : State) (op : RopOp) (left : List (Fin 16 × Nat × Nat)) : WalkAcc :=
  left.foldl (fun acc x =>
    match findLine acc.s x.1 x.2.1 x.2.2 with
    | some l => walkLine op x.1 acc (x.2.1, l)
    | none => acc) ⟨s, 0, []⟩

/-- A part of a walk done: the lines left, the progress of R289, and ROP_DISCARD for the dirty lines discarded. -/
def walkNote (r : RopRun) (w : WalkAcc) : State :=
  let pos := if r.bySet then ((w.left.map fun x => x.2.1).min?).getD 8192
    else 64 * ((w.left.map fun x => x.2.2).min?).getD r.hi
  let s := { w.s with vnr := { w.s.vnr with rop := some { r with left := w.left }, ropPos := pos } }
  if 0 < w.lost then evd s 709 (detail32 w.lost) else s

/-- The operation in progress goes on where it can. -/
def ropGo (s : State) : State :=
  match s.vnr.rop with
  | some r => if r.abort || r.left.isEmpty then s else walkNote r (ropRewalk s r.op r.left)
  | none => s

/-- An address walk decodes each of its lines through the Placement Cache in Tiered mode (R286). -/
def ropLookups (s : State) (lo hi : Nat) : State :=
  if tiered s then
    forEach ((List.range (hi / 1024 + 1 - lo / 1024)).map fun i => lo / 1024 + i) s fun s p =>
      let n := min hi (1024 * (p + 1)) - max lo (1024 * p)
      if n = 0 ∨ (fillOf s p).isSome ∨ summaryBit s p then s else cntAdd (pcLookup s (p / 8)) rMapPcHitCnt (n - 1)
  else s

/-- An operation that invalidates marks the fills of its range that are on their way (R287). -/
def ropSnap (s : State) (op : RopOp) (lo hi : Nat) : State :=
  let mark (m : MissEnt) : MissEnt := { m with snap := m.snap || (decide (lo ≤ m.line) && decide (m.line < hi)) }
  match op with
  | .cleanInv | .inv =>
    { s with vnr := { s.vnr with slices := s.vnr.slices.map fun v => { v with miss := v.miss.map mark } } }
  | _ => s

/-- A range operation started over LMS lines `lo` to `hi` (R286, R287). -/
def ropStart (s : State) (op : RopOp) (lo hi : Nat) (drain : Bool) : State :=
  let bySet : Bool := drain || decide (131072 < hi - lo)
  let s := ropSnap s op lo hi
  let s := if bySet then s else ropLookups s lo hi
  let s := { s with vnr := { s.vnr with ropMeth := bySet } }
  walkNote ⟨op, lo, hi, bySet, drain, false, []⟩ (ropWalk s op lo hi)

/-- Every dirty line of the Veneer goes to its slice's victim buffer as room permits (R292); a fenced channel's are left to
its sweep. -/
def vnrClean (s : State) : State := (ropWalk s .clean 0 (2 ^ 42)).s

/-- An older request for a line is on its way to its channel's queues (R136). -/
def arrivesBefore (s : State) (das : Nat) : Bool :=
  (chan s (chanOf s das)).sch.arrive.any fun a => arrivalCoord a = posOf s das

/-- The oldest victim of a slice whose channel is in RUN and whose line has no older request on its way (R136, R162). -/
def nextVictim (s : State) (sl : Fin 16) : Option VictEnt :=
  s.vnr.slices[sl].vict.find? fun v => chanRuns s (some v.das) && !arrivesBefore s v.das

/-- VICTIM_WRITEBACK: the oldest victim of a slice that may go enters its channel's write queue where there is room; a walk that
waited for the victim buffer goes on. -/
def victimWriteback (s : State) (sl : Fin 16) : State :=
  match nextVictim s sl with
  | none => s
  | some v =>
    match enterWrite s (chanOf s v.das) ⟨0, posOf s v.das, v.das, v.raw, false, false⟩ with
    | some s =>
      let s := overUpd (cntInc (modSlice s sl fun x => { x with vict := eraseFirst (fun y => y = v) x.vict }) rVnrWbCnt)
      if inDrain s then vnrClean s else ropGo s
    | none => s

def execVictimWriteback (sl : Fin 16) (s : State) : Host.Outcome State Fault Refusal := ok (victimWriteback s sl)

/-- VNR.ROP_CMD.go with an operation (R285). -/
def ropCmd (s : State) (op : RopOp) : State :=
  if ropRefused s (some op) then ropRefuse s
  else ropStart s op (fld s rVnrRopStart 47 6) (fld s rVnrRopEnd 47 6) false

def execRopClean (s : State) : Host.Outcome State Fault Refusal := ok (ropCmd (setFld s rVnrRopCmd 2 0 1) .clean)
def execRopCleanInvalidate (s : State) : Host.Outcome State Fault Refusal :=
  ok (ropCmd (setFld s rVnrRopCmd 2 0 2) .cleanInv)
def execRopInvalidate (s : State) : Host.Outcome State Fault Refusal := ok (ropCmd (setFld s rVnrRopCmd 2 0 3) .inv)
def execRopUnpin (s : State) : Host.Outcome State Fault Refusal := ok (ropCmd (setFld s rVnrRopCmd 2 0 4) .unpin)

/-- ROP_REFUSED: a range command whose op is reserved; the op field keeps its value (R285). -/
def execRopRefused (s : State) : Host.Outcome State Fault Refusal := ok (ropRefuse s)

/-- What an operation still waits for: lines of its walk, write-backs of the range in a victim buffer, and snapshot fills
(R289). -/
def ropPending (s : State) (r : RopRun) : Bool :=
  (!r.abort && !r.left.isEmpty) || s.vnr.slices.toList.any fun v =>
    v.vict.any (fun x => r.drain || (decide (r.lo ≤ x.line) && decide (x.line < r.hi)))
      || v.miss.any (fun m => m.snap && decide (r.lo ≤ m.line) && decide (m.line < r.hi))

/-- No fill is in the snapshot of an operation any more. -/
def snapClear (s : State) : State :=
  { s with vnr := { s.vnr with slices := s.vnr.slices.map fun v => { v with miss := v.miss.map fun m => { m with snap := false } } } }

/-- The end of an operation: ROP_DONE with the op and the result (R289). -/
def ropEnd (s : State) (r : RopRun) : State :=
  let res : BitVec 3 := if r.abort then 3 else 1
  let opN := match r.op with | .clean => 1 | .cleanInv => 2 | .inv => 3 | .unpin => 4
  let s := snapClear { s with vnr := { s.vnr with rop := none, ropRes := res } }
  evd s 707 [BitVec.ofNat 32 opN, BitVec.ofNat 32 res.toNat]

/-- ROP_DONE: an operation that waits for nothing more ends; one that waited at lines goes on first (R286, R289). -/
def ropDone (s : State) : State :=
  let s := ropGo s
  match s.vnr.rop with
  | some r => if r.drain ∨ ropPending s r then s else ropEnd s r
  | none => s

/-! States (R290, R291). -/

/-- The drain walk: every line is cleaned and invalidated (R291). -/
def drainStart (s : State) : State := ropStart s .cleanInv 0 (2 ^ 42) true

/-- The drain of a Draining Veneer begins once no range operation runs. -/
def drainTry (s : State) : State :=
  if s.vnr.mode = .draining ∧ s.vnr.rop = none then drainStart s else s

def execRopDone (s : State) : Host.Outcome State Fault Refusal := ok (drainTry (ropDone s))

/-- VNR.CTL.en written (R290). -/
def vnrCtlEn (s : State) (en : Bool) : State :=
  let s := setFld s rVnrCtl 0 0 (flag en)
  match s.vnr.mode, en with
  | .disabled, true => ev { s with vnr := { s.vnr with mode := .enabled } } 704
  | .draining, true =>
    let s := if (s.vnr.rop.map fun r => r.drain) = some true then snapClear { s with vnr := { s.vnr with rop := none } } else s
    ev { s with vnr := { s.vnr with mode := .enabled } } 704
  | .enabled, false => drainTry (ev { s with vnr := { s.vnr with mode := .draining } } 705)
  | _, _ => s

def execVnrCtlEnWrite (en : Bool) (s : State) : Host.Outcome State Fault Refusal := ok (vnrCtlEn s en)

/-- VNR_CLEARING_DONE (R290). -/
def vnrClearingDone (s : State) : State :=
  if s.vnr.mode = .clearing then
    if rbit s rVnrCtl 0 then ev { s with vnr := { s.vnr with mode := .enabled } } 704
    else ev { s with vnr := { s.vnr with mode := .disabled } } 706
  else s

def execVnrClearingDone (s : State) : Host.Outcome State Fault Refusal := ok (vnrClearingDone s)

/-- VNR_DRAIN_DONE: the drain walk and its write-backs have ended (R290, R291). -/
def vnrDrainDone (s : State) : State :=
  if s.vnr.mode = .draining then
    let s := ropGo (drainTry s)
    match s.vnr.rop with
    | some r =>
      if r.drain ∧ !ropPending s r then ev (snapClear { s with vnr := { s.vnr with mode := .disabled, rop := none } }) 706
      else s
    | none => s
  else s

def execVnrDrainDone (s : State) : Host.Outcome State Fault Refusal := ok (vnrDrainDone s)

/-- A line is held in no way and waits in no victim buffer of its slice. -/
def lineGone (s : State) (a : Nat) : Bool :=
  let d := decodeAddr s a
  (victOf s (sliceOf s d) (a / 64)).isNone && (findLine s (sliceOf s d) (setOf s d) (a / 64)).isNone

/-- A line cleaned and invalidated (R263, R284): a dirty one moves to the victim buffer, where that has room and holds no older
write-back of the line, and is gone once its write-back has entered the write queue. -/
def lineFlush (s : State) (a : Nat) : State :=
  let d := decodeAddr s a
  let sl := sliceOf s d
  match findLine s sl (setOf s d) (a / 64) with
  | some l =>
    if !l.dirty then putLine s sl (setOf s d) l.tag none
    else if s.vnr.slices[sl].vict.length < 32 ∧ (victOf s sl (a / 64)).isNone then
      modSlice (putLine s sl (setOf s d) l.tag none) sl fun x => { x with vict := x.vict ++ [⟨l.tag, l.das.getD 0, l.raw⟩] }
    else s
  | none => s

/-- Every line of a panel cleaned and invalidated as far as the victim buffers have room (R284). -/
def panelFlush (s : State) (p : Nat) : State := forEach (List.range 1024) s fun s n => lineFlush s (p * 65536 + 64 * n)

/-- No line of a panel is held (R284). -/
def panelGone (s : State) (p : Nat) : Bool := (List.range 1024).all fun n => lineGone s (p * 65536 + 64 * n)

/-- Every line of a panel invalidated without write-back (R96 step 2). -/
def panelDrop (s : State) (p : Nat) : State :=
  forEach (List.range 1024) s fun s n =>
    let a := p * 65536 + 64 * n
    let d := decodeAddr s a
    let sl := sliceOf s d
    let s := putLine s sl (setOf s d) (a / 64) none
    modSlice s sl fun x => { x with vict := x.vict.filter (fun v => v.line ≠ a / 64) }

end Sys2Proof.Machine
end

