-- ==== Sys2Proof/Machine/Code.lean ====
section
/-!
DEFINITION. Symbol code, chip marks, merging, scrub, the Inlay Map, repair and diagnostics (08_symbol_code_and_repair.md).
-/
namespace Sys2Proof.Machine
open Sys2Proof

/-! Chip marks (R240 to R243). -/

/-- Whether a channel has x8 devices. -/
def isX8 (s : State) (c : Fin 16) : Bool := rbit s (rPhyCfg c.val) 0

/-- Mark index of a position: package rank × 2 + subchannel. -/
def markIdx (s : State) (k : Coord) : Nat := prankOf s k.rank * 2 + k.sub

/-- The two mark slots of an index. -/
def marksAt (s : State) (c : Fin 16) (i : Nat) : MarkPair := (chan s c).code.marks.getD i ⟨none, none⟩

/-- Chips marked at an index. -/
def markChips (m : MarkPair) : List Nat := (m.m0.toList ++ m.m1.toList).map fun x => x.chip

/-- A subchannel of a package rank is unguarded (R240). -/
def unguarded (s : State) (c : Fin 16) (i : Nat) : Bool :=
  let n := (markChips (marksAt s c i)).length
  if isX8 s c then decide (1 ≤ n) else decide (2 ≤ n)

def putMarks (s : State) (c : Fin 16) (i : Nat) (m : MarkPair) : State :=
  modCode s c fun x => { x with marks := x.marks.setIfInBounds i m }

/-- A mark set in a free slot: CHIP_MARKED, a dwell on the subchannel aborted, and UNGUARDED where the mark makes the
subchannel unguarded (R222, R241, R243). -/
def setMark (s : State) (c : Fin 16) (i slot chip : Nat) (hw : Bool) : State :=
  let m := marksAt s c i
  let x : Mark := ⟨chip, hw⟩
  let was := unguarded s c i
  let s := putMarks s c i (if slot = 0 then { m with m0 := some x } else { m with m1 := some x })
  let s := evd s (chEv c 25) [BitVec.ofNat 32 slot, BitVec.ofNat 32 chip, BitVec.ofNat 32 (flag hw)]
  let p := (chan s c).phy
  let s := doIf (p.dwelling && decide (p.target.sub = i % 2)) (fun s => probeAbort s c 2) s
  if unguarded s c i && !was then ev s (chEv c 26) else s

/-- A write of valid = 1 and a chip to a mark slot (R241). -/
def markWrite (s : State) (c : Fin 16) (i slot chip : Nat) : State :=
  let m := marksAt s c i
  let mine := if slot = 0 then m.m0 else m.m1
  let other := if slot = 0 then m.m1 else m.m0
  if decide ((if isX8 s c then 5 else 10) ≤ chip) || mine.isSome || decide (other.map Mark.chip = some chip) then s
  else if isX8 s c && other.isSome then ev s (chEv c 26)
  else setMark s c i slot chip false

def execMarkSlotSet (c : Fin 16) (i : Fin 8) (slot : Fin 2) (chip : Fin 16) (s : State) :
    Host.Outcome State Fault Refusal :=
  ok (markWrite s c i.val slot.val chip.val)

/-- A write of valid = 0 to a mark slot (R241). -/
def markClear (s : State) (c : Fin 16) (i slot : Nat) : State :=
  if (chan s c).sch.hold = .held then
    let m := marksAt s c i
    putMarks s c i (if slot = 0 then { m with m0 := none } else { m with m1 := none })
  else s

def execMarkSlotClear (c : Fin 16) (i : Fin 8) (slot : Fin 2) (s : State) : Host.Outcome State Fault Refusal :=
  ok (markClear s c i.val slot.val)

/-- A correction attributed to a chip (R236, R242). -/
def countChip (s : State) (c : Fin 16) (i chip : Nat) : State :=
  let j := 10 * i + chip
  let s := rcAdd s (rCodeChipce c.val j) 1
  let n := smGet 0 (chan s c).code.winCnt j + 1
  let s := modCode s c fun x => { x with winCnt := smSet 0 x.winCnt j n }
  if n = fld s (rCodeCfg c.val) 15 8 then
    let s := evd s (chEv c 24) (detail32 chip)
    let m := marksAt s c i
    if rbit s (rCodeCfg c.val) 16 && !isX8 s c && !(markChips m).contains chip then
      if m.m0.isNone then setMark s c i 0 chip true
      else if m.m1.isNone then setMark s c i 1 chip true
      else s
    else s
  else s

/-- CE_WINDOW_END: every count of the window restarts (R242). -/
def ceWindowEnd (s : State) (c : Fin 16) : State :=
  if s.beat.valid then modCode s c fun x => { x with winCnt := [] } else s

def execCeWindowEnd (c : Fin 16) (s : State) : Host.Outcome State Fault Refusal := ok (ceWindowEnd s c)

/-! Decoding a line read (R221, R236 to R239). -/

/-- CODE_UE with the address, package rank, subchannel and source: 0 demand, 1 merge, 2 scrub, 3 copy, 4 trial,
5 diagnostic (R267). -/
def codeUe (s : State) (c : Fin 16) (das : Nat) (k : Coord) (src : Nat) : State :=
  evo s (chEv c 23) (detail64 das ++ [BitVec.ofNat 32 (prankOf s k.rank), BitVec.ofNat 32 k.sub, BitVec.ofNat 32 src])
    { EvtOrigin.none with kind := .das, addr := BitVec.ofNat 64 das }

/-- A line's outcome counted (CODE.CE_CNT, UE_CNT, POISON_CNT). -/
def countLine (s : State) (c : Fin 16) (k : DecKind) : State :=
  match k with
  | .clean => s
  | .corrected => cntInc s (rCodeCeCnt c.val)
  | .uncorr => cntInc s (rCodeUeCnt c.val)
  | .poison => cntInc s (rCodePoisonCnt c.val)

/-- Attributions of a decoded line counted, those of a probed chip left out (R221, R236, R242). -/
def countChips (s : State) (c : Fin 16) (i : Nat) (chips : List Nat) (probe : Option Nat) : State :=
  forEach (chips.filter fun x => probe ≠ some x) s fun s x => countChip s c i x

/-- A line decoded with the marks of its subchannel, or under probe with the probed chip as erasures. -/
def decodeAt (s : State) (c : Fin 16) (k : Coord) (probe : Option Nat) (raw : RawLine) : LineRes :=
  match probe with
  | some chip => decodeLine false [chip] raw
  | none => decodeLine (isX8 s c) (markChips (marksAt s c (markIdx s k))) raw

/-- Bits set in a number below 256. -/
def popcount8 (x : Nat) : Nat := ((List.range 8).map fun i => x / 2 ^ i % 2).sum

/-- The byte index of a chip's symbol on lane `j` in codeword `w` of a raw line (R234, R235, R263). -/
def chipByte (chip j w : Nat) : Nat := let i := 4 * chip + j; if i < 32 then 32 * w + i else 64 + 8 * w + (i - 32)

/-- A probed line's mismatches counted for each lane of the chip (R221). -/
def countProbe (s : State) (c : Fin 16) (chip : Nat) (raw : RawLine) (data : LineData) : State :=
  let x := raw ^^^ encodeLine data false
  let bad : Vector Nat 4 := Vector.ofFn fun j =>
    popcount8 (rawByte x (chipByte chip j.val 0)) + popcount8 (rawByte x (chipByte chip j.val 1))
  let s := cntAdd (cntAdd s (rPrbBitCnt c.val) 64) (rPrbMissCnt c.val) bad.toList.sum
  modPhy s c fun p => { p with
    dBits := addV p.dBits (Vector.replicate 4 16), dMisses := addV p.dMisses bad }

/-- A trial ran there less than a millisecond ago (R244). -/
def trialSoon (s : State) (c : Fin 16) (i : Nat) : Bool :=
  match smGet none (chan s c).code.lastTrial i with
  | some f => decide (s.beat.fclk < f + 2000000)
  | none => false

/-- An uncorrectable read on an unmarked x8 subchannel asks for a trial; one asked for within a millisecond of the
last is dropped (R244). -/
def askTrial (s : State) (c : Fin 16) (k : Coord) : State :=
  if isX8 s c && (markChips (marksAt s c (markIdx s k))).isEmpty && !trialSoon s c (markIdx s k) then
    modCode s c fun x => { x with trials := x.trials ++ [⟨k.rank, k.sub, k.bg, k.ba⟩] }
  else s

/-- A line read at once by a sequencer or an engine: probed where its target is (R221), and read again unprobed where the probe
fails it (R222); its outcome is counted. -/
def decodeNow (s : State) (c : Fin 16) (k : Coord) (raw : RawLine) : State × LineRes :=
  let probe := probedChip s c k
  let r := decodeAt s c k probe raw
  let again : Bool := probe.isSome && (decide (r.kind = .uncorr) || decide (r.kind = .poison))
  let s := match probe with
    | some chip => if again then probeAbort (cntInc s (rPrbRereadCnt c.val)) c 1 else countProbe s c chip raw r.data
    | none => s
  let probe := if again then none else probe
  let r := if again then decodeAt s c k none raw else r
  (countChips (countLine s c r.kind) c (markIdx s k) r.chips probe, r)

/-- What the decode of a map line that is uncorrectable does (R99): a Blank Map line is rewritten with every bit 0; a Placement
Map line is damaged and its panels are marked stale. -/
def mapDamage (s : State) (das : Nat) : State :=
  match inComp s 0 das with
  | some o =>
    let s := forEach (List.range 512) s fun s i => setBlank s (o / 64 * 512 + i) false
    ev s 833
  | none =>
    match inComp s 2 das with
    | some o =>
      let n := o / 64
      let s := { s with map := { s.map with damaged := if n ∈ s.map.damaged then s.map.damaged else s.map.damaged ++ [n] } }
      let s := forEach (List.range 8) s fun s i => staleSet s (8 * n + i)
      ev s 834
    | none => s

/-- The LMS address of a DAS address: the same in Flat mode; in Tiered mode through the panel whose frame it lies in. -/
def lmsOfDas (s : State) (das : Nat) : Option Nat :=
  if tiered s then
    ((s.map.pmap.ex.find? fun e => decide ((peState e.2 = 1 ∨ peState e.2 = 4) ∧ peFrame e.2 = das / 65536)).map
      fun e => e.1 * 65536 + das % 65536)
  else if das < rsvBase s then some das else none

/-! The requests of the Rasp engines (R80, R106, R252 to R256, R265). -/

/-- A request of an engine, presented to admission. -/
def engPut (s : State) (src : Fin 20) (eng : Nat) (mid : BitVec 12) (op : MemOp) (a : BitVec 48) (d : LineData) (dest : Dest)
    (k : ReqKind) : State :=
  let r : Req :=
    { rid := s.adm.nextRid, src := src, eng := eng, op := op, addr := a, mask := BitVec.allOnes 64, data := d, hasData := true
      poison := false, mid := mid, qos := 0, rt := false, lock := false, lockEnd := false, pool := 0, dest := dest, kind := k
      since := none }
  { s with adm := { s.adm with wait := s.adm.wait ++ [r], nextRid := s.adm.nextRid + 1 } }

/-- The Reserve aperture address of a DAS address (R80). -/
def apertureAddr (das : Nat) : BitVec 48 := BitVec.ofNat 48 (2 ^ 47 + das % 2 ^ 47)

/-- A Rasp engine's request to a DAS line (R80, R252). -/
def raspPut (s : State) (eng : Fin 4) (op : MemOp) (das : Nat) (d : LineData) (w : RaspWork) : State :=
  engPut s 17 eng.val (BitVec.ofNat 12 (0x805 + eng.val)) op (apertureAddr das) d .drop (.rasp w)

/-- A Rasp engine's requests that are not done: its unit is in progress (R252). -/
def raspBusy (s : State) (eng : Fin 4) : Bool :=
  let mine (r : Req) : Bool := decide (r.src = 17) && decide (r.eng = eng.val)
  s.adm.wait.any mine || s.tt.any fun t => mine t.req

/-- Whether a line of the DAS holds data that scrub reads (R254). -/
def scrubReads (s : State) (das : Nat) : Bool :=
  if rsvBase s ≤ das then true
  else if tiered s then fmGet s.map.frames (das / 65536)
  else match classOf s das with
    | .blank => false
    | .filling v => v
    | .written => true

/-- The map word of a slice has been read: the engine reads the slice's lines that hold data (R254). -/
def scrubPresent (s : State) (eng : Fin 4) : State :=
  let lines := s.map.slices[eng]
  let s := { s with map := { s.map with slices := s.map.slices.set eng [] } }
  forEach (lines.filter (scrubReads s)) s fun s das => raspPut s eng .rdLine das 0 .scrub

/-- The Blank Summary bits of one Blank Map line, as the line has them (R89, R106). -/
def rebuildLine (s : State) (das : Nat) : State :=
  match inComp s 0 das with
  | some o => forEach [0, 1] s fun s h =>
      let g := o / 64 * 2 + h
      let all := (List.range 256).all fun i => fmGet s.map.blank (256 * g + i)
      { s with map := { s.map with summary := fmSet s.map.summary g all } }
  | none => s

/-- Lines of the Blank Map that init and rebuild go through. -/
def bmapLines (s : State) : Nat := (mapPanels s + 511) / 512

/-- init or rebuild ends once every line of the Blank Map has been written or read (R106). -/
def bcmdEnd (s : State) : State :=
  let mine (r : Req) : Bool := decide (r.kind = .rasp .init) || decide (r.kind = .rasp .rebuild)
  match s.map.bcmd with
  | some b =>
    if s.map.bprog < bmapLines s || s.adm.wait.any mine || s.tt.any fun t => decide (t.req.kind = .rasp .rebuild) then s
    else
      let s := { s with map := { s.map with bcmd := none, bprog := 0 } }
      match b with
      | .init => ev { s with map := { s.map with blank := ⟨true, []⟩, summary := ⟨true, []⟩ } } 838
      | .rebuild => ev s 836
  | none => s

/-- A diagnostic pass ends once its last line is done (R265). -/
def diagEnd (s : State) (c : Fin 16) : State :=
  let mine (r : Req) : Bool := decide (chanOf s (apertureDas r.addr) = c) && match r.kind with
    | .rasp (.diagRead _) | .rasp .diagWrite => true
    | _ => false
  match (chan s c).code.diag with
  | some r =>
    if r.pos < fld s (rScrDiagEnd c.val) 47 6 * 64 || s.adm.wait.any mine || s.tt.any fun t => mine t.req then s
    else modCode s c fun x => { x with diag := none, diagRes := if r.bad then 1 else 0 }
  | none => s

/-- What follows a Rasp engine's request that is done. -/
def raspAfter (s : State) (r : Req) : State :=
  match r.kind with
  | .rasp .map => scrubPresent s (Fin.ofNat 4 r.eng)
  | .rasp .rebuild => bcmdEnd (rebuildLine s (apertureDas r.addr))
  | .rasp .init => bcmdEnd s
  | .rasp (.diagRead _) | .rasp .diagWrite => diagEnd s (chanOf s (apertureDas r.addr))
  | _ => s

/-- The address pattern of a line: each 8-byte word holds its own DAS address. -/
def addrLine (das : Nat) : LineData := (List.range 8).foldl (fun d k => setLineWord d k (BitVec.ofNat 64 (das + 8 * k))) 0

/-- A line of a diagnostic pass read: uncorrectable and mismatching lines are noted (R265). -/
def diagRead (s : State) (c : Fin 16) (e : RdEnt) (cmp : Bool) (r : LineRes) : State :=
  match (chan s c).code.diag with
  | some _ =>
    let ue : Bool := decide (r.kind = .uncorr)
    let s := doIf ue (fun s => codeUe s c e.das e.coord 5) s
    let miss : Bool := cmp && decide (r.data ≠ addrLine e.das)
    let s := doIf miss (fun s => rcAdd s (rScrDiagMiss c.val) 1) s
    modCode s c fun x => { x with diag := x.diag.map fun d => { d with bad := d.bad || ue || miss } }
  | none => s

/-- The 80 bytes of a raw read in CODE.RAW_DATA, and the access over (R263). -/
def rawReturn (s : State) (c : Fin 16) (raw : RawLine) : State :=
  let s := modCode s c fun x => { x with raw := none, rawRes := 0 }
  (List.range 10).foldl (fun s i => setReg s (rCodeRawData c.val i) ((raw >>> (64 * i)).setWidth 64)) s

/-- A write to a line is on its way to the channel's queues: it is newer than what patrol scrub has read (R255). -/
def writeComing (s : State) (c : Fin 16) (k : Coord) : Bool :=
  (chan s c).sch.arrive.any fun a => match a.what with
    | .inl _ => false
    | .inr (.inl w) => decide (w.coord = k)
    | .inr (.inr p) => decide (p.coord = k)

/-- A read's data delivered (R239, R255, R312). -/
def readReturn (s : State) (c : Fin 16) (e : RdEnt) (r : LineRes) : State :=
  let bad : Bool := decide (r.kind = .uncorr)
  match e.dest with
  | .tt rid =>
    match ttFind s rid with
    | some t =>
      let s := doIf bad (fun s => mapDamage (codeUe s c e.das e.coord 0) e.das) s
      let ap := applyReq t.req r.data (bad || decide (r.kind = .poison))
      let s := performed s t ap false
      if ap.wrote then
        lineToWq (ttMod s rid fun x => { x with stage := .queue }) e.das (some rid) (encodeLine ap.data ap.poison) t.req.rt
      else raspAfter (ttLeave s rid none) t.req
    | none => s
  | .fill sl line =>
    match missOf s sl line with
    | some m =>
      if bad then
        let s := codeUe s c e.das e.coord 0
        if mirroredAt s (line * 64) then
          askRepair (modMiss s sl line fun m => { m with repair := true }) (line * 64) e.das (.fill sl line)
        else fillLost s sl m
      else modMiss s sl line fun m => { m with data := some (r.data, decide (r.kind = .poison)) }
    | none => s
  | .merge _ => s
  | .scrub rid newer =>
    let s := cntInc s (rScrLineCnt c.val)
    match r.kind with
    | .corrected =>
      if newer || writeComing s c e.coord then ttLeave s rid none
      else lineToWq (ttMod (cntInc s (rScrFixCnt c.val)) rid fun x => { x with stage := .queue }) e.das (some rid)
        (encodeLine r.data false) false
    | .uncorr =>
      let s := ttLeave (codeUe s c e.das e.coord 2) rid none
      match lmsOfDas s e.das with
      | some a =>
        if !tiered s && mirroredAt s a then askRepair s a e.das .scrub else s
      | none => mapDamage s e.das
    | _ => ttLeave s rid none
  | .diag rid cmp =>
    match ttFind s rid with
    | some t => raspAfter (ttLeave (diagRead s c e cmp r) rid none) t.req
    | none => s
  | .raw _ => s

/-- A write to a line in the replay log holds the data of reads of the line (R215). -/
def logHolds (s : State) (c : Fin 16) (k : Coord) : Bool :=
  (liveLog s c).any fun e => match e.cmd with
    | .inr w => decide (w.coord = k)
    | .inl _ => false

/-- The oldest read in flight that is not a merge read and is not held by a write to its line in the replay log (R215). -/
def readyFlight (s : State) (c : Fin 16) : Option Flight :=
  (chan s c).sch.flight.find? fun f =>
    (match f.ent.dest with | .merge _ => false | _ => true) && !f.again && !logHolds s c f.ent.coord

/-- A probed read that failed under its erasures: the dwell is aborted, and the read is reissued unprobed where the read queue has
room (R222). -/
def reread (s : State) (c : Fin 16) (f : Flight) : State :=
  let s := probeAbort (cntInc s (rPrbRereadCnt c.val)) c 1
  rereadPump (modSch s c fun q => { q with flight := q.flight.map fun x => if x = f then { x with again := true } else x }) c

/-- A flight leaves. -/
def dropFlight (s : State) (c : Fin 16) (f : Flight) : State :=
  modSch s c fun q => { q with flight := eraseFirst (fun x => x = f) q.flight }

/-- DRAM_DECODE: read data returns and is decoded; `err` is what the link and the cells add to the stored symbols. A probed
read that is uncorrectable or poisoned is reissued unprobed (R222). -/
def dramDecode (s : State) (c : Fin 16) (err : RawLine) : State :=
  match readyFlight s c with
  | none => s
  | some f =>
    let raw := f.raw ^^^ err
    match f.ent.dest with
    | .raw rid => ttLeave (rawReturn (dropFlight s c f) c raw) rid none
    | _ =>
    let r := decodeAt s c f.ent.coord f.probe raw
    let again : Bool := f.probe.isSome && (decide (r.kind = .uncorr) || decide (r.kind = .poison))
    if again then reread s c f
    else
      let s := match f.probe with
        | some chip => countProbe s c chip raw r.data
        | none => s
      let s := countLine s c r.kind
      let s := countChips s c (markIdx s f.ent.coord) r.chips f.probe
      let s := doIf (decide (r.kind = .uncorr)) (fun s => askTrial s c f.ent.coord) s
      readReturn (dropFlight s c f) c f.ent r

def execDramDecode (c : Fin 16) (err : RawLine) (s : State) : Host.Outcome State Fault Refusal := ok (dramDecode s c err)

/-! Merging (R250, R251). -/

/-- A half of a line is fully written. -/
def halfFull (m : LineMask) (w : Nat) : Bool := decide ((m >>> (32 * w)) &&& 0xFFFF_FFFF = 0xFFFF_FFFF)

/-- The mask of a half. -/
def halfMask (w : Nat) : LineMask := 0xFFFF_FFFF <<< (32 * w)

/-- A merged line written to the write queue, its entry freed; an entry marked poisoned writes its line so (R250, R264). -/
def mergeOut (s : State) (c : Fin 16) (g : GlueEnt) (data : LineData) (poison : Bool) : State :=
  let s := modSch s c fun q => { q with glue := q.glue.filter (fun x => x.gid ≠ g.gid) }
  pushGlue s c g (encodeLine data (poison || g.poison))

/-- The Veneer's copy of a line, in a victim buffer or a set (R283). -/
def mergeCopy (s : State) (a : Nat) : Option RawLine :=
  if vnrLooks s then
    let d := decodeAddr s a
    match victOf s (sliceOf s d) (a / 64) with
    | some v => some v.raw
    | none => (findLine s (sliceOf s d) (setOf s d) (a / 64)).map fun l => l.raw
  else none

/-- GLUE_MERGE: the merge read of an entry is decoded and merged, once no logged write holds its data (R215, R250, R251). A Veneer copy of the line, where one is held,
serves the read (R283). -/
def glueMerge (s : State) (c : Fin 16) (gid : Nat) (err : RawLine) : State :=
  let q := (chan s c).sch
  match q.flight.find? (fun f => f.ent.dest = .merge gid && !f.again), q.glue.find? (fun g => g.gid = gid) with
  | some f, some g =>
    if 96 ≤ q.wq.length ∨ logHolds s c g.coord then s
    else
      let i := markIdx s g.coord
      let x8 := f.probe.isNone && isX8 s c
      let marks := match f.probe with
        | some chip => [chip]
        | none => markChips (marksAt s c i)
      let held := mergeCopy s g.lms.toNat
      let s := if vnrLooks s then cntInc s (if held.isSome then rVnrHitCnt else rVnrMissCnt) else s
      let x8 := if held.isSome then true else x8
      let marks := if held.isSome then [] else marks
      let raw := held.getD (f.raw ^^^ err)
      let a := decodeCw x8 marks (rawCw raw 0)
      let b := decodeCw x8 marks (rawCw raw 1)
      let fa := halfFull g.mask 0
      let fb := halfFull g.mask 1
      let again : Bool := f.probe.isSome && held.isNone && (decide (a.kind = .uncorr) || decide (a.kind = .poison)
        || decide (b.kind = .uncorr) || decide (b.kind = .poison))
      if again then reread s c f
      else
      let read : LineData := BitVec.ofNat 512 (bytesNat (a.data ++ b.data))
      let s := match f.probe with
        | some chip => if held.isNone then countProbe s c chip raw read else s
        | none => s
      let s := dropFlight s c f
      let s := cntAdd s (rGluHalfCnt c.val) (flag fa + flag fb)
      if fa && fb then mergeOut s c g g.data (decide (a.kind = .poison))
      else
        let ka := if fa then DecKind.clean else a.kind
        let kb := if fb then DecKind.clean else b.kind
        let kind := lineKind ka kb
        let chips := (if fa then [] else attributed x8 a) ++ (if fb then [] else attributed x8 b)
        let s := countChips (countLine s c kind) c i chips f.probe
        let merged := mergeLine g.mask g.data read
        match kind with
        | .uncorr =>
          let s := codeUe (askTrial s c g.coord) c g.das g.coord 1
          if mirroredAt s g.lms.toNat then
            let s := modSch s c fun q => { q with
              glue := q.glue.map fun x => if x.gid = gid then { x with repair := true } else x }
            askRepair s g.lms.toNat g.das (.merge c gid)
          else ev (mergeOut s c g merged true) (chEv c 28)
        | .poison => mergeOut s c g merged true
        | _ => mergeOut s c g merged false
  | _, _ => s

def execGlueMerge (c : Fin 16) (gid : Nat) (err : RawLine) (s : State) : Host.Outcome State Fault Refusal :=
  ok (glueMerge s c gid err)

/-! Repair answers (R313). -/

/-- TWIN_REPAIR or TWIN_UE with the LMS address. -/
def twinEv (s : State) (id lms : Nat) : State :=
  evo s id (if id = 777 then detail64 lms else []) { EvtOrigin.none with kind := .lms, addr := BitVec.ofNat 64 lms }

/-- Whether a write or an atomic waits in a miss buffer entry. -/
def writerWaits (s : State) (m : MissEnt) : Bool :=
  m.waits.any fun w => match ttFind s w.rid with
    | some t => isWriteOp t.req.op
    | none => false

/-- A repair ends for those that wait on it. -/
def repairEnd (s : State) (r : Repair) (ans : RepAns) : State :=
  match r.who with
  | .fill sl line =>
    match missOf s sl line with
    | none => s
    | some m =>
      match ans with
      | .line d => fillRepaired (twinEv (cntInc s rCurRepairCnt) 777 r.lms) sl m d false
      | .marked =>
        let (v, s) := drawFree 512 s
        fillRepaired (twinEv s 778 r.lms) sl m v true
      | .failed =>
        if writerWaits s m then
          let (v, s) := drawFree 512 s
          fillRepaired (twinEv s 778 r.lms) sl m v true
        else fillLost s sl m
  | .merge c gid =>
    match (chan s c).sch.glue.find? (fun g => g.gid = gid) with
    | none => s
    | some g =>
      match ans with
      | .line d => mergeOut (twinEv (cntInc s rCurRepairCnt) 777 r.lms) c g (mergeLine g.mask g.data d) false
      | _ =>
        let (v, s) := drawFree 512 s
        ev (mergeOut (twinEv s 778 r.lms) c g (mergeLine g.mask g.data v) true) (chEv c 28)
  | .scrub =>
    let k := posOf s r.das
    if writeComing s (chanOf s r.das) k then s else
    match ans with
    | .line d =>
      let s := twinEv (cntInc s rCurRepairCnt) 777 r.lms
      lineToWq s r.das none (encodeLine d false) false
    | .marked =>
      let (v, s) := drawFree 512 s
      lineToWq (twinEv s 778 r.lms) r.das none (encodeLine v true) false
    | .failed => s

/-- REPAIR_ANSWER: the oldest repair whose outcome is known resolves. -/
def repairAnswer (s : State) : State :=
  match s.cure.repairs.find? (fun r => r.ans.isSome) with
  | some r =>
    match r.ans with
    | some ans =>
      let room : Bool := match r.who with
        | .merge c _ => decide ((chan s c).sch.wq.length < 96)
        | _ => true
      if room then
        repairEnd { s with cure := { s.cure with repairs := s.cure.repairs.filter (fun x => x.num ≠ r.num) } } r ans
      else s
    | none => s
  | none => s

def execRepairAnswer (s : State) : Host.Outcome State Fault Refusal := ok (repairAnswer s)

/-! x8 trials (R244, R245). -/

/-- A line every symbol of whose data has one value. -/
def patternLine (b : Nat) : LineData := BitVec.ofNat 512 (bytesNat (List.replicate 64 b))

/-- The chips whose symbols differ between two raw lines, x8 (R235). -/
def diffChips (a b : RawLine) : List Nat :=
  (List.range 5).filter fun chip => [0, 1].any fun w => (chipSyms true chip).any fun i =>
    decide ((rawCw a w).getD i 0 ≠ (rawCw b w).getD i 0)

/-- Chip `j` explains a trial read: erasing it gives the pattern, and only its symbols differ. -/
def trialFits (data : LineData) (read : RawLine) (j : Nat) : Bool :=
  let r := decodeLine true [j] read
  decide (r.data = data) && decide (r.kind = .clean) && decide (diffChips read (encodeLine data false) = [j])

/-- The line a trial writes: the last row but one of a bank. -/
def trialCoord (s : State) (c : Fin 16) (t : TrialReq) : Coord := ⟨c.val, t.sub, t.rank, t.bg, t.ba, 2 ^ rowBits s - 2, 0⟩

/-- A trial: two patterns written and read, and the chip that answers for what differs (R244). -/
def trialRun (s : State) (c : Fin 16) (k : Coord) (errA errB : RawLine) : State :=
  let i := markIdx s k
  let s := modCode s c fun x => { x with lastTrial := smSet none x.lastTrial i (some s.beat.fclk) }
  let a := patternLine 0x55
  let b := patternLine 0xAA
  let ra := encodeLine a false ^^^ errA
  let rb := encodeLine b false ^^^ errB
  let s := setDramLine s k rb
  let s := closeBanks s c (· = bankKey k)
  let da := diffChips ra (encodeLine a false)
  let db := diffChips rb (encodeLine b false)
  let found := (List.range 5).find? fun j =>
    (trialFits a ra j && db.all (fun x => decide (x = j))) || (trialFits b rb j && da.all (fun x => decide (x = j)))
  let out := match found with
    | some _ => 0
    | none => if da.isEmpty ∧ db.isEmpty then 1 else 2
  let s := evd s (chEv c 27) [BitVec.ofNat 32 out, BitVec.ofNat 32 (found.getD 0)]
  match found with
  | some j => if rbit s (rCodeCfg c.val) 17 && (markChips (marksAt s c i)).isEmpty then setMark s c i 0 j true else s
  | none => s

/-- X8_TRIAL: the oldest trial that waits is run (R244, R245). `errA` and `errB` are what the cells and the link add to the
two patterns read. Requests within a millisecond of the last trial are dropped. -/
def x8Trial (s : State) (c : Fin 16) (errA errB : RawLine) : State :=
  match (chan s c).code.trials with
  | [] => s
  | t :: rest =>
    let k := trialCoord s c t
    let s := modCode s c fun x => { x with trials := rest }
    if trialSoon s c (markIdx s k) then s else trialRun s c k errA errB

def execX8Trial (c : Fin 16) (errA errB : RawLine) (s : State) : Host.Outcome State Fault Refusal := ok (x8Trial s c errA errB)

/-! Patrol scrub (R253 to R256). -/

/-- Slices of a channel: 8 channel line index values each, below the excluded rows. -/
def sliceCount (s : State) : Nat := usedLines s / 8

/-- SCRUB_SLICE_DUE: a channel owes one more slice; beyond 64 it is dropped. The first slice due begins the first pass (R253,
R256); none falls due while the Beat is invalid (R35). -/
def scrubDue (s : State) (c : Fin 16) : State :=
  if rbit s (rScrCfg c.val) 0 && s.beat.valid then
    let s := modCode s c fun x => { x with passBeat := x.passBeat.orElse fun _ => some (beatNs s) }
    if (chan s c).code.owed < 64 then modCode s c fun x => { x with owed := x.owed + 1 }
    else modCode s c fun x => { x with late := true }
  else s

def execScrubSliceDue (c : Fin 16) (s : State) : Host.Outcome State Fault Refusal := ok (scrubDue s c)

/-- The Reserve line with the map word that tells which lines of a panel or frame hold data: in Flat mode its Blank Map line, in
Tiered mode its Frame Map line (R254). -/
def scrubMapLine (s : State) (das : Nat) : Nat := compBase s (if tiered s then 3 else 0) + 64 * (das / 65536 / 512)

/-- An engine takes one slice of a channel, 16 lines: it asks for the slice's map word, or where the slice lies in the Reserve
reads it at once; at the last slice the pass ends (R253, R254, R256). -/
def scrubSlice (s : State) (eng : Fin 4) (c : Fin 16) : State :=
  let cur := (chan s c).code.cursor
  let lines := (List.range 16).map fun i => dasOfLine s c (i % 2) (8 * cur + i / 2)
  let das := lines.headD 0
  let s := { s with map := { s.map with slices := s.map.slices.set eng lines } }
  let s := if rsvBase s ≤ das then scrubPresent s eng else raspPut s eng .rdLine (scrubMapLine s das) 0 .map
  let wrap : Bool := decide (sliceCount s ≤ cur + 1)
  let now := beatNs s
  let s := modCode s c fun x => { x with
    owed := x.owed - 1
    cursor := if wrap then 0 else cur + 1
    late := x.late && !wrap
    lastPass := if wrap then (now - x.passBeat.getD now) / 1000000 else x.lastPass
    passBeat := if wrap then some now else x.passBeat }
  if wrap then cntInc s (rScrPassCnt c.val) else s

/-- The channel that scrub takes next: among those that owe slices and can be read, the one owing most, the lowest number on
ties (R252, R253). -/
def scrubChan (s : State) : Option (Fin 16) :=
  let okc (c : Fin 16) : Bool := decide (0 < (chan s c).code.owed) && decide (c.val < chanCount s)
    && decide ((chan s c).sch.hold = .run) && decide ((chan s c).sch.sr = .active) && decide (s.cure.fence[c] ≠ .fenced)
  (allChans.filter okc).foldl (fun best c =>
    match best with
    | none => some c
    | some b => if (chan s b).code.owed < (chan s c).code.owed then some c else best) none

/-! ECS (R257). -/

/-- ECS_POLL: the devices' counts are read; a count at thresh raises ECS_HIGH. -/
def ecsPoll (s : State) (c : Fin 16) (r : List EcsRead) : State :=
  forEach r s fun s x =>
    let key := (x.rank.val * 2 + x.sub.val) * 16 + x.chip.val
    let s := modCode s c fun y => { y with ecs := smSet EcsRec.none y.ecs key { x.val with polled := true } }
    if fld s (rCodeEcsCfg c.val) 23 8 ≤ x.val.count.toNat then
      evd s (chEv c 30) [BitVec.ofNat 32 x.rank.val, BitVec.ofNat 32 x.sub.val, BitVec.ofNat 32 x.chip.val]
    else s

def execEcsPoll (c : Fin 16) (r : List EcsRead) (s : State) : Host.Outcome State Fault Refusal := ok (ecsPoll s c r)

end Sys2Proof.Machine
end

