-- ==== Sys2Proof/Machine/Repair.lean ====
section
/-!
DEFINITION. The Inlay Map, row copies, post-package repair, raw accesses, diagnostic passes, on-die word errors and the Rasp
engines (R252, R258 to R265).
-/
namespace Sys2Proof.Machine
open Sys2Proof

/-! The Inlay Map (R258 to R261). -/

/-- Factory entries: none are fused (INL.STATUS.fcount). -/
def inlFcount : Nat := 0

/-- An entry's fields from a register value. -/
def inlOf (v : Word64) : InlEnt :=
  { valid := bitOf v 63, active := false, copy := bitOf v 62, sub := fieldOf v 40 40, rank := fieldOf v 39 35,
    bg := fieldOf v 34 32, ba := fieldOf v 31 30, row := fieldOf v 29 12, spare := fieldOf v 3 0 }

/-- The geometry has been applied at a device Release. -/
def geomSet (s : State) : Bool := decide (0 < s.map.das)

/-- Positions within MAP.GEOM and below the spare rows (R259 reason 4). -/
def inlInside (s : State) (e : InlEnt) : Bool :=
  geomSet s && rankOk s e.rank && decide (e.bg < 2 ^ bgBits s) && decide (e.ba < 2 ^ baBits s)
    && decide (e.row + 18 < 2 ^ rowBits s)

/-- Why an entry write is refused, as R259 numbers the reasons. -/
def inlReason (s : State) (c : Fin 16) (i : Nat) (e : InlEnt) : Option Nat :=
  let others := (chan s c).code.inl.filter (fun x => x.1 ≠ i && x.2.valid)
  let same (x : InlEnt) : Bool := decide (x.sub = e.sub ∧ x.rank = e.rank ∧ x.bg = e.bg ∧ x.ba = e.ba)
  if others.any (fun x => same x.2 && decide (x.2.row = e.row)) then some 2
  else if others.any (fun x => same x.2 && decide (x.2.spare = e.spare)) then some 3
  else if !inlInside s e then some 4
  else if e.copy && (chan s c).code.copy.isSome then some 5
  else if e.copy && (decide (s.cure.fence[c] = .fenced) || decide ((chan s c).phy.train ≠ .trained)) then some 6
  else none

/-- INLAY_REWRITE with the index and reason. -/
def inlRewrite (s : State) (c : Fin 16) (i reason : Nat) : State :=
  evd s (chEv c 29) [BitVec.ofNat 32 i, BitVec.ofNat 32 reason]

/-- The register value of an entry. -/
def inlVal (e : InlEnt) : Word64 :=
  packFields [(63, flag e.valid), (62, flag e.copy), (61, flag e.active), (40, e.sub), (35, e.rank), (32, e.bg),
    (30, e.ba), (12, e.row), (0, e.spare)]

/-- A copy that finds its rank in self-refresh or power-down wakes it as a request would (R158, R160, R261). -/
def copyWake (s : State) (c : Fin 16) (rank : Nat) : State :=
  let s := srLeave s c
  if (rankAt s c rank).pwr = .powerDown then
    let s := modRank (rankWake s c rank) c rank fun x => { x with back := false }
    cntInc s (rSchPdxCnt c.val)
  else s

/-- INLAY_ENTRY_WRITE: a user entry is written (R259). -/
def inlWrite (s : State) (c : Fin 16) (i : Nat) (mid : BitVec 12) (v : Word64) : State :=
  let old := smGet InlEnt.none (chan s c).code.inl i
  let e := inlOf v
  let same : Bool := decide ({ e with active := old.active } = old)
  if old.valid then
    if same then s else inlRewrite (lockViolation s (rInlEntry c.val i).off mid) c i 1
  else if !e.valid then s
  else
    match inlReason s c i e with
    | some n => inlRewrite s c i n
    | none =>
      let s := modCode s c fun x => { x with inl := smSet InlEnt.none x.inl i { e with active := !e.copy } }
      if e.copy then
        copyWake (modCode s c fun x => { x with
          copy := some ⟨e.sub, e.rank, e.bg, e.ba, e.row, 2 ^ rowBits s - 18 + e.spare, some i⟩ }) c e.rank
      else remapQueues s c

def execInlayEntryWrite (c : Fin 16) (i : Fin 4096) (mid : BitVec 12) (v : Word64) (s : State) :
    Host.Outcome State Fault Refusal :=
  ok (inlWrite s c i.val mid v)

/-- A row copy or a PPR is in progress (INL.STATUS.copy_busy). -/
def copyBusy (s : State) (c : Fin 16) : Bool := (chan s c).code.copy.isSome || (chan s c).code.ppr.isSome

/-- Out of service for repair: before Ready, or while the channel is fenced (R261, R262). -/
def offService (s : State) (c : Fin 16) : Bool := !isReady s || decide (s.cure.fence[c] = .fenced)

/-- INL.COPY.go (R261). -/
def inlCopy (s : State) (c : Fin 16) (v : Word64) : State :=
  let s := setReg s (rInlCopy c.val) (v &&& ~~~ fieldMask 63 61 &&& ~~~ fieldMask 31 18)
  if copyBusy s c then s
  else if offService s c || decide ((chan s c).sch.hold = .held) then
    let rank := fieldOf v 59 55
    copyWake (modCode s c fun x => { x with
      copyRes := 0
      copy := some ⟨fieldOf v 60 60, rank, fieldOf v 54 52, fieldOf v 51 50, fieldOf v 17 0, fieldOf v 49 32, none⟩ }) c rank
  else modCode s c fun x => { x with copyRes := 1 }

def execInlCopy (c : Fin 16) (v : Word64) (s : State) : Host.Outcome State Fault Refusal := ok (inlCopy s c v)

/-- One line of a row copy: `err` is what the cells and the link add to the symbols read (R261). The flag tells an
uncorrectable line. -/
def copyLine (s : State) (c : Fin 16) (r : RowCopy) (col : Nat) (err : RawLine) : State × Bool :=
  let src : Coord := ⟨c.val, r.sub, r.rank, r.bg, r.ba, r.src, col⟩
  let raw := dramLine s src ^^^ err
  let (s, d) := decodeNow s c src raw
  let dst := { src with row := r.dst }
  match d.kind with
  | .uncorr => (codeUe (askTrial (setDramLine s dst raw) c src) c (dasOfCoord s c src) src 3, true)
  | .poison => (setDramLine s dst raw, false)
  | _ => (setDramLine s dst (encodeLine d.data false), false)

/-- ROW_COPY_DONE: the row is copied, and a pending entry becomes active (R259, R261). `errs` are the errors of its columns,
by column. -/
def rowCopyDone (s : State) (c : Fin 16) (errs : List (Nat × RawLine)) : State :=
  match (chan s c).code.copy with
  | none => s
  | some r =>
    let errOf (col : Nat) : RawLine := ((errs.find? fun e => e.1 = col).map Prod.snd).getD 0
    let (s, bad) := (List.range (2 ^ colBits s)).foldl (fun (x : State × Bool) col =>
      let (s, b) := copyLine x.1 c r col (errOf col)
      (s, x.2 || b)) (s, false)
    let s := modCode s c fun x => { x with
      copy := none, copyRes := if r.entry.isSome then x.copyRes else if bad then 2 else 0 }
    match r.entry with
    | some i => remapQueues (modCode s c fun x => { x with
        inl := smSet InlEnt.none x.inl i { smGet InlEnt.none x.inl i with active := true, copy := false } }) c
    | none => s

def execRowCopyDone (c : Fin 16) (errs : List (Nat × RawLine)) (s : State) : Host.Outcome State Fault Refusal :=
  ok (rowCopyDone s c errs)

/-! Post-package repair (R262). -/

/-- An active Inlay entry replaces the row, so that a spare row holds its data. -/
def rowSpared (s : State) (c : Fin 16) (k : Coord) : Bool := (chan s c).code.inl.any fun e => inlHits e.2 k

/-- INL.PPR.go. -/
def inlPpr (s : State) (c : Fin 16) (v : Word64) : State :=
  let s := setReg s (rInlPpr c.val) (v &&& ~~~ fieldMask 63 60 &&& ~~~ fieldMask 58 41 &&& ~~~ fieldMask 11 0)
  if copyBusy s c then s
  else
    let r : PprRun :=
      { hard := bitOf v 59, sub := fieldOf v 40 40, rank := fieldOf v 39 35, bg := fieldOf v 34 32,
        ba := fieldOf v 31 30, row := fieldOf v 29 12 }
    if offService s c || (!r.hard && rowSpared s c ⟨c.val, r.sub, r.rank, r.bg, r.ba, r.row, 0⟩) then
      modCode s c fun x => { x with ppr := some r }
    else modCode s c fun x => { x with pprRes := 1 }

def execInlPpr (c : Fin 16) (v : Word64) (s : State) : Host.Outcome State Fault Refusal := ok (inlPpr s c v)

/-- PPR_DONE: a row repaired does not keep its contents, which are then open. -/
def pprDone (s : State) (c : Fin 16) (e : PprEnd) : State :=
  match (chan s c).code.ppr with
  | none => s
  | some r =>
    let s := modCode s c fun x => { x with
      ppr := none, pprRes := match e with | .ok => 0 | .noResource => 2 | .dramFail => 3 }
    match e with
    | .ok => forEach (List.range (2 ^ colBits s)) s fun s col =>
        let (v, s) := drawFree 640 s
        setDramLine s ⟨c.val, r.sub, r.rank, r.bg, r.ba, r.row, col⟩ v
    | _ => s

/-! Raw accesses (R263). -/

/-- Whether a raw access is refused. -/
def rawRefused (s : State) (c : Fin 16) (das : Nat) : Bool :=
  rbit s (rCodeCfg c.val) 31 || decide (chanOf s das ≠ c) || isExcluded s das

/-- The 80 bytes of CODE.RAW_DATA. -/
def rawData (s : State) (c : Fin 16) : RawLine :=
  (List.range 10).foldl (fun acc i => acc ||| ((getReg s (rCodeRawData c.val i)).setWidth 640 <<< (64 * i))) 0

/-- The LMS line a raw access cleans and invalidates in the Veneer, if the Veneer may hold it. -/
def rawLms (s : State) (das : Nat) : Option Nat := lmsOfDas s das

/-- A raw access of CODE.RAW_CMD.go: a request of the Armature in the channel's pool, ignored while one is in progress. -/
def rawAccess (s : State) (c : Fin 16) (write : Bool) : State :=
  if (chan s c).code.raw.isSome then s
  else
    let s := setFld s (rCodeRawCmd c.val) 1 1 (flag write)
    let das := fld s (rCodeRawAddr c.val) 47 6 * 64
    if rawRefused s c das then modCode s c fun x => { x with rawRes := 1 }
    else
      let s := modCode s c fun x => { x with raw := some ⟨das, write, rawData s c⟩ }
      let s := match rawLms s das with
        | some a => lineFlush s a
        | none => s
      engPut s 19 0 0x800 (if write then .wrLine else .rdLine) (apertureAddr das) 0 .drop .raw

def execRawRead (c : Fin 16) (s : State) : Host.Outcome State Fault Refusal := ok (rawAccess s c false)
def execRawWrite (c : Fin 16) (s : State) : Host.Outcome State Fault Refusal := ok (rawAccess s c true)

/-- A raw access waits until the line it names is cleaned and invalidated in the Veneer (R263). -/
def rawReady (s : State) (r : Req) : Bool :=
  decide (r.kind ≠ .raw) || match rawLms s (apertureDas r.addr) with
    | some a => lineGone s a
    | none => true

/-- A raw access admitted: the 80 bytes go to the write queue, or the line is read (R263). -/
def rawServe (s : State) (t : TtEntry) : State :=
  let rid := t.req.rid
  let das := lineAddr (apertureDas t.req.addr)
  let c := chanOf s das
  match (chan s c).code.raw with
  | some r =>
    let s := ttMod s rid fun x => { x with stage := .queue }
    if r.write then
      toChan (modCode s c fun x => { x with raw := none, rawRes := 0 }) das (some rid)
        (.inr (.inl ⟨0, posOf s das, das, r.raw, false, false⟩))
    else lineToRq s das (some rid) t.req t.stamp (.raw rid)
  | none => ttLeave s rid none

/-! On-die word errors (R264). -/

/-- The code of a structure, in the order of the rule. -/
def sramCode : SramWhere → Nat
  | .readQueue => 0
  | .writeQueue => 1
  | .glue => 2
  | .replay => 3
  | .inlay => 4
  | .actTable => 5

/-- The line of an uncorrectable data word is written poisoned: the oldest entry of the structure. -/
def sramPoison (s : State) (c : Fin 16) (w : SramWhere) : State :=
  match w with
  | .writeQueue => modSch s c fun q => { q with
      wq := match q.wq with
        | x :: xs => { x with raw := encodeLine (decodeStored x.raw).data true } :: xs
        | [] => [] }
  | .glue =>
    match (chan s c).sch.glue with
    | x :: xs =>
      let (y, s) := if x.issued then ({ x with poison := true }, s) else fillOpen s { x with poison := true, closed := true }
      glueAdvance (modSch s c fun q => { q with glue := y :: xs }) c
    | [] => s
  | .replay =>
    match (liveLog s c).findSome? (fun e => match e.cmd with | .inr x => some x | .inl _ => none) with
    | some x =>
      let y := { x with raw := encodeLine (decodeStored x.raw).data true }
      let s := modSch s c fun q => { q with
        log := q.log.map fun e => if e.cmd = .inr x then { e with cmd := .inr y } else e }
      setDramLine s y.coord y.raw
    | none => s
  | _ => modSch s c fun q => { q with stopped := true }

/-- SRAM_ERR. -/
def sramErr (s : State) (c : Fin 16) (w : SramWhere) (uncorr : Bool) : State :=
  let s := if uncorr then sramPoison s c w else cntInc s (rCodeSramCeCnt c.val)
  raiseEvt s (chEv c 31) [BitVec.ofNat 32 (sramCode w), BitVec.ofNat 32 (flag uncorr)] .none uncorr false

def execSramErr (c : Fin 16) (w : SramWhere) (uncorr : Bool) (s : State) : Host.Outcome State Fault Refusal :=
  ok (sramErr s c w uncorr)

/-! Diagnostic passes (R265). -/

/-- SCR.DIAG_CMD.go with an operation. -/
def diagGo (s : State) (c : Fin 16) (op : Nat) : State :=
  let s := setFld s (rScrDiagCmd c.val) 3 2 op
  let wr : Bool := decide (op = 1) || decide (op = 2)
  if (chan s c).code.diag.isSome || (wr && (isReady s || rbit s (rCodeCfg c.val) 31)) then
    modCode s c fun x => { x with diagRes := 2 }
  else diagEnd (modCode s c fun x => { x with diag := some ⟨op, fld s (rScrDiagStart c.val) 47 6 * 64, false⟩ }) c

def execDiagRead (c : Fin 16) (s : State) : Host.Outcome State Fault Refusal := ok (diagGo s c 0)
def execDiagWriteZero (c : Fin 16) (s : State) : Host.Outcome State Fault Refusal := ok (diagGo s c 1)
def execDiagWriteAddr (c : Fin 16) (s : State) : Host.Outcome State Fault Refusal := ok (diagGo s c 2)
def execDiagCompare (c : Fin 16) (s : State) : Host.Outcome State Fault Refusal := ok (diagGo s c 3)

/-- The next lines of a channel from an address up to an end, at most 16. -/
def diagLines (s : State) (c : Fin 16) (pos hi : Nat) : List Nat :=
  (((List.range 4096).map fun i => pos + 64 * i).filter fun a => decide (a < hi) && decide (chanOf s a = c)).take 16

/-- An engine takes 16 lines of a channel's pass (R265). -/
def diagUnit (s : State) (eng : Fin 4) (c : Fin 16) (r : DiagRun) : State :=
  let hi := fld s (rScrDiagEnd c.val) 47 6 * 64
  let ls := diagLines s c r.pos hi
  let next := if ls.length = 16 then ls.getLastD r.pos + 64 else r.pos + 64 * 4096
  let s := modCode s c fun x => { x with diag := some { r with pos := next } }
  let s := forEach ls s fun s das =>
    match r.op with
    | 1 => raspPut s eng .wrLine das 0 .diagWrite
    | 2 => raspPut s eng .wrLine das (addrLine das) .diagWrite
    | op => raspPut s eng .rdLine das 0 (.diagRead (decide (op = 3)))
  diagEnd s c

/-! The Rasp engines (R252). -/

/-- Recast work is queued: a Recast or a reclaim runs and every outbound connection can carry it. -/
def recastReady (s : State) : Bool :=
  (s.cure.recast.isSome || s.tier.reclaim.isSome) && (List.range 8).all fun k => !connErr s (8 + k)

/-- The lines of a filling panel whose fill write is still to be made. -/
def fillTodo (s : State) (f : FillEnt) : List Nat :=
  (List.range 1024).filter fun n => !f.valid.getLsbD n
    && !s.adm.wait.any fun r => decide (r.kind = .fill) && decide (r.addr.toNat = f.panel * 65536 + 64 * n)

/-- A fill write presented to admission (R92). -/
def fillWrite (s : State) (eng : Fin 4) (a : Nat) : State :=
  engPut s 17 eng.val (BitVec.ofNat 12 (0x805 + eng.val)) .wrLine (BitVec.ofNat 48 a) 0 .drop .fill

/-- One unit of MAP.BCMD: 16 lines of the Blank Map written with ones, or read (R106). -/
def bcmdUnit (s : State) (eng : Fin 4) (b : BcmdRun) : State :=
  let n := s.map.bprog
  let todo := (List.range 16).map (fun i => n + i) |>.filter fun i => decide (i < bmapLines s)
  let s := { s with map := { s.map with bprog := n + 16 } }
  let s := forEach todo s fun s i =>
    let das := compBase s 0 + 64 * i
    match b with
    | .init => raspPut s eng .wrLine das (BitVec.allOnes 512) .init
    | .rebuild => raspPut s eng .rdLine das 0 .rebuild
  bcmdEnd s

/-- A diagnostic pass that has lines left, by channel. -/
def diagWork (s : State) (c : Fin 16) : Option DiagRun :=
  (chan s c).code.diag.filter fun r => decide (r.pos < fld s (rScrDiagEnd c.val) 47 6 * 64)

/-- RASP_UNIT: an engine whose unit has ended takes a unit of 16 lines from the highest-priority class that is ready; Recast
units are the copies RECAST_PANEL presents. From PFAIL_N low the engines take no unit (R322). -/
def raspUnit (s : State) (eng : Fin 4) : State :=
  if inDrain s || raspBusy s eng then s
  else
    match s.map.bcmd.filter fun _ => decide (s.map.bprog < bmapLines s) with
    | some b => bcmdUnit s eng b
    | none =>
      if recastReady s then s
      else
        match s.map.fill.find? (fun f => !(fillTodo s f).isEmpty) with
        | some f => forEach ((fillTodo s f).take 16) s fun s n => fillWrite s eng (f.panel * 65536 + 64 * n)
        | none =>
          match scrubChan s with
          | some c => scrubSlice s eng c
          | none =>
            match allChans.find? (fun c => (diagWork s c).isSome) with
            | some c => match diagWork s c with
              | some r => diagUnit s eng c r
              | none => s
            | none => s

def execRaspUnit (eng : Fin 4) (s : State) : Host.Outcome State Fault Refusal := ok (raspUnit s eng)

end Sys2Proof.Machine
end

