-- ==== Sys2Proof/Machine/Heat.lean ====
section
/-!
DEFINITION. Local frames, the Heat Ledger, the promotion queue and the Return Table (R332 to R337, R346).
-/
namespace Sys2Proof.Machine
open Sys2Proof

def modTier (s : State) (f : TierSt → TierSt) : State := { s with tier := f s.tier }

/-! Frames (R332, R333). -/

/-- Frames in use. -/
def framesUsed (s : State) : Nat :=
  let n := (s.map.frames.ex.filter fun e => e.1 < frameCount s).length
  if s.map.frames.fill then frameCount s - n else n

/-- TIR.FRAME_STATUS.free. -/
def framesFree (s : State) : Nat := if tiered s then frameCount s - framesUsed s else 0

/-- TIR.FRAME_FLOOR.floor. -/
def frameFloor (s : State) : Nat := fld s rTirFrameFloor 27 0

/-- The first free frame at or after `f`, below `top`, not among `skip`. -/
def frameScan (m : FMap Bool) (skip : List Nat) (top : Nat) : Nat → Nat → Option Nat
  | 0, _ => none
  | fuel + 1, f =>
    if top ≤ f then none
    else if fmGet m f || skip.contains f then frameScan m skip top fuel (f + 1) else some f

/-- The first free frame upward from the rotating pointer, wrapping at F. -/
def frameNext (s : State) (skip : List Nat) (start : Nat) : Option Nat :=
  let fuel := s.map.frames.ex.length + skip.length + 1
  match frameScan s.map.frames skip (frameCount s) fuel start with
  | some f => some f
  | none => frameScan s.map.frames skip (frameCount s) fuel 0

/-- FRAME_REFILL: the allocator refills its cache of up to 256 free frames (R332). -/
def frameRefill (s : State) : State :=
  if tiered s then
    (List.range (256 - s.tier.cache.length)).foldl (fun s _ =>
      match frameNext s s.tier.cache s.tier.ptr with
      | some f => modTier s fun t => { t with cache := t.cache ++ [f], ptr := (f + 1) % max 1 (frameCount s) }
      | none => s) s
  else s

def execFrameRefill (s : State) : Host.Outcome State Fault Refusal := ok (frameRefill s)

/-- FRAME_LOW each time free falls below floor (R333). -/
def frameLowUpd (s : State) : State :=
  let low : Bool := decide (framesFree s < frameFloor s)
  let was := s.tier.lowSeen
  let s := modTier s fun t => { t with lowSeen := low }
  if low && !was then ev s 840 else s

/-- A free frame taken, its Frame Map bit written 1. -/
def frameTake (s : State) : Option (Nat × State) :=
  let s := match s.tier.cache with
    | [] => frameRefill s
    | _ => s
  match s.tier.cache with
  | f :: rest =>
    let s := modTier { s with map := { s.map with frames := fmSet s.map.frames f true } } fun t => { t with cache := rest }
    some (f, frameLowUpd s)
  | [] => none

/-- A frame freed, its Frame Map bit written 0. -/
def frameGive (s : State) (f : Nat) : State :=
  let s := { s with map := { s.map with frames := fmSet s.map.frames f false } }
  frameLowUpd s

/-! Neighbours' frames (R346, R349). -/

/-- Frames held at a neighbour counted up or down. -/
def nbrUse (s : State) (j : Fin 32) (up : Bool) : State :=
  modTier s fun t => { t with nbrs := t.nbrs.set j { t.nbrs[j] with
    use := if up then t.nbrs[j].use + 1 else t.nbrs[j].use - 1 } }

/-- FREE sent for a frame at a neighbour (R350); the neighbour may then be asked for a frame again (R349). -/
def sendFree (s : State) (j : Fin 32) (p f : Nat) : State :=
  let s := nbrUse s j false
  let s := modTier s fun t => { t with nbrs := t.nbrs.set j { t.nbrs[j] with nakAt := none } }
  outPush s (lendConn s j p) (segBare .write 3 0 0 (BitVec.ofNat 32 f) .free)

/-- The Return Table entry of a panel. -/
def retFind (s : State) (p : Nat) : Option RetEnt := (smGet [] s.tier.ret (p % 256)).find? fun e => e.panel = p

/-- A panel's Return Table entry dropped. -/
def retDrop (s : State) (p : Nat) : State :=
  modTier s fun t => { t with
    ret := smSet [] t.ret (p % 256) ((smGet [] t.ret (p % 256)).filter fun e => e.panel ≠ p) }

/-- A panel's Return Table entry dropped and its frame returned. -/
def retFree (s : State) (p : Nat) : State :=
  match retFind s p with
  | some e => sendFree (retDrop s p) e.nbr p e.frame
  | none => s

/-- A write-class request or TRIM decoded for a panel (R346). -/
def retDirty (s : State) (p : Nat) : State :=
  modTier s fun t => { t with
    ret := smSet [] t.ret (p % 256) ((smGet [] t.ret (p % 256)).map fun e => if e.panel = p then { e with dirty := true } else e) }

/-- An entry inserted; a full set evicts its oldest and sends FREE. -/
def retInsert (s : State) (e : RetEnt) : State :=
  let set := smGet [] s.tier.ret (e.panel % 256)
  let put (s : State) (l : List RetEnt) : State :=
    modTier s fun t => { t with ret := smSet [] t.ret (e.panel % 256) (l ++ [e]) }
  match set with
  | old :: rest => if 16 ≤ set.length then put (sendFree s old.nbr old.panel old.frame) rest else put s set
  | [] => put s set

/-! The Heat Ledger (R334 to R336). -/

/-- Set and tag of a panel. -/
def heatSet (p : Nat) : Nat := p % 16384 ^^^ (p / 16384) % 16384
def heatTag (p : Nat) : Nat := p / 16384 % 65536

/-- The ledger entry of a panel. -/
def heatFind (s : State) (p : Nat) : Option HeatEnt := (smGet [] s.tier.heat (heatSet p)).find? fun e => e.tag = heatTag p

/-- A panel's heat; 0 if untracked. -/
def heatOf (s : State) (p : Nat) : Nat := ((heatFind s p).map fun e => e.heat).getD 0

/-- A set of the ledger replaced. -/
def putHeat (s : State) (p : Nat) (l : List HeatEnt) : State :=
  modTier s fun t => { t with heat := smSet [] t.heat (heatSet p) l }

/-- An entry inserted over the way of lowest heat without a jig bit, the lowest on ties; none where every way has one. -/
def heatPut (l : List HeatEnt) (e : HeatEnt) : Option (List HeatEnt) :=
  if l.length < 16 then some (l ++ [e])
  else
    let low (x : HeatEnt) : Bool := x.jig.isNone && l.all fun y => y.jig.isSome || decide (x.heat ≤ y.heat)
    match indexOf? low l with
    | some i => some (l.set i e)
    | none => none

/-- A panel that reaches promote_heat enters the promotion queue (R337). -/
def promoCheck (s : State) (p : Nat) : State :=
  if rbit s rTirCtl 31 && decide (peState (pmapGet s p) = 2) && decide (fld s rTirThresh 31 16 ≤ heatOf s p)
      && !s.tier.promoQ.contains p && decide (s.tier.promoQ.length < 64) then
    modTier s fun t => { t with promoQ := t.promoQ ++ [p] }
  else s

/-- Whether a pool's update finds its bank free: a pool posts one update in an FCLK, and a bank takes one (R335). -/
def heatBank (s : State) (pool p : Nat) : Bool × State :=
  let b := heatSet p % 16
  let same : Bool := decide (s.tier.heatAt = s.beat.fclk) && !s.tier.heatUsed.any fun x => decide (x.1 = pool)
  let used := if same then s.tier.heatUsed else []
  if used.any (fun x => decide (x.2 = b)) then (false, cntInc s rTirHeatDropCnt)
  else (true, modTier s fun t => { t with heatAt := s.beat.fclk, heatUsed := used ++ [(pool, b)] })

/-- One update of an access admitted to a panel (R335). -/
def heatUpdate (s : State) (pool p : Nat) (op : MemOp) : State :=
  let (free, s) := heatBank s pool p
  if !free then s
  else if op = .trim then
    putHeat s p ((smGet [] s.tier.heat (heatSet p)).filter fun e => e.tag ≠ heatTag p)
  else
    let inc := if isWriteOp op then fld s rTirHeatCfg 7 4 else fld s rTirHeatCfg 3 0
    let l := smGet [] s.tier.heat (heatSet p)
    let s := if (heatFind s p).isSome then
        putHeat s p (l.map fun e => if e.tag = heatTag p then { e with heat := min 65535 (e.heat + inc) } else e)
      else
        match heatPut l ⟨heatTag p, inc, none⟩ with
        | some l => putHeat s p l
        | none => cntInc s rTirHeatDropCnt
    promoCheck s p

/-- HEAT_DECAY: every heat is halved (R336). -/
def heatDecay (s : State) : State :=
  modTier s fun t => { t with heat := t.heat.map fun e => (e.1, e.2.map fun x => { x with heat := x.heat / 2 }) }

def execHeatDecay (s : State) : Host.Outcome State Fault Refusal := ok (heatDecay s)

end Sys2Proof.Machine
end

