-- ==== Sys2Proof/Machine/Panel.lean ====
section
/-!
DEFINITION. Panel operations (R88 to R97): first writes, the Fill Table, TRIM, and serving an admitted request.
-/
namespace Sys2Proof.Machine
open Sys2Proof

/-! The Fill Table (R91, R92, R94). -/

/-- A Fill Table entry allocated; FILL_FULL when the table becomes full. -/
def fillAlloc (s : State) (p : Nat) : State :=
  let s := cntInc { s with map := { s.map with fill := s.map.fill ++ [⟨p, 0⟩] } } rMapFillAllocCnt
  if s.map.fill.length = 256 ∧ s.map.fillFullSeen = false then
    ev { s with map := { s.map with fillFullSeen := true } } 832
  else s

/-- A line's valid bit set; the entry is freed when its last bit is set (R92). -/
def setValid (s : State) (a : Nat) : State :=
  let p := panelOf a
  let bit : BitVec 1024 := (1 : BitVec 1024) <<< panelLine a
  let fill := s.map.fill.map fun f => if f.panel = p then { f with valid := f.valid ||| bit } else f
  let left := fill.filter fun f => f.valid ≠ BitVec.allOnes 1024
  cntAdd { s with map := { s.map with
    fill := left, fillFullSeen := s.map.fillFullSeen && decide (left.length = 256) } } rMapFillDoneCnt (fill.length - left.length)

/-- A panel's line holds no data: the panel is blank, or filling with the line not yet valid (R90). -/
def lineBlank (s : State) (a : Nat) : Bool :=
  match classOf s a with
  | .blank => true
  | .filling v => !v
  | .written => false

/-! Where a request is decoded (R41, R109). -/

/-- A request that takes the Reserve aperture. -/
def reqAperture (r : Req) : Bool := isAperture r.mid r.addr

/-- The pool of a request (R109). -/
def poolOf (s : State) (r : Req) : Fin 16 :=
  match r.kind with
  | .frame das _ => chanOf s das
  | _ => if reqAperture r then chanOf s (apertureDas r.addr) else chanOf s (decodeAddr s r.addr.toNat)

/-- A request is served from the twin: its channel is fenced, or recovering with the panel stale, its lender is lost, or its
placement is damaged (R99, R316, R320, R353). -/
def fromTwin (s : State) (a : Nat) : Bool :=
  let c := chanOf s (decodeAddr s a)
  let p := panelOf a
  decide (s.cure.fence[c] = .fenced)
    || (decide (s.cure.fence[c] = .recovering) && staleBit s p && mirroredAt s a)
    || lenderLost s p || placeBad s p

/-- Forwarding, or for a damaged placement in a region that is not mirrored, POISON for a read and ERR_FENCED for a write
(R99). -/
def serveTwin (s : State) (rid : Nat) : State :=
  match ttFind s rid with
  | none => s
  | some t =>
    let a := t.req.addr.toNat
    if placeBad s (panelOf a) && !mirroredAt s a && !isWriteOp t.req.op && decide (t.req.op ≠ .trim) then
      failReq s t .poison
    else forward s rid

/-! First writes (R91). -/

/-- In Tiered mode a first write's panel takes a local frame. -/
def firstFrame (s : State) (p : Nat) : State :=
  if tiered s then
    match frameTake s with
    | some (f, s) => pmapSet s p (pePut (pmapGet s p) 1 (deviceId s) f)
    | none => s
  else s

/-- Steps 2 to 4 of a first write: a Fill Table entry, in Tiered mode a local frame, the Blank Map bit. -/
def firstSteps (s : State) (p : Nat) : State := setBlank (firstFrame (fillAlloc s p) p) p false

/-- A write to a line that holds no data: its unwritten bytes are zero, and no DRAM read is made (R91 step 5). -/
def zeroWrite (s : State) (rid : Nat) : State :=
  match ttFind s rid with
  | none => s
  | some t =>
    let a := t.req.addr.toNat
    let s := setValid s a
    if fromTwin s a then serveTwin s rid
    else
      let d := decodeAddr s a
      let ap := applyReq t.req 0 false
      let s := performed s t ap false
      missFull s t (sliceOf s d) (setOf s d) (vnrAttr s a)

/-- An access to the line admitted earlier is at one of the stages. -/
def lineBehind (s : State) (rid a : Nat) (at' : TtStage → Bool) : Bool :=
  (s.tt.takeWhile fun t => decide (t.req.rid ≠ rid)).any fun t =>
    at' t.stage && decide (lineAddr t.req.addr.toNat = lineAddr a) && decide (t.req.kind = .access) && decide (t.req.op ≠ .trim)

/-- An earlier admitted write to the line still waits for a Fill Table entry (R66, R94). -/
def fillBehind (s : State) (rid a : Nat) : Bool := lineBehind s rid a fun x => decide (x = .fillWait)

/-- A write to a blank panel or an invalid line: a first write takes a Fill Table entry or waits for one; from PFAIL_N low
one that would wait writes its line without zero fill and enters the overflow list (R94, R322). -/
def blankWrite (s : State) (rid : Nat) : State :=
  match ttFind s rid with
  | none => s
  | some t =>
    let a := t.req.addr.toNat
    let p := panelOf a
    match classOf s a with
    | .blank =>
      if s.map.fill.length < 256 then zeroWrite (firstSteps (ttMod s rid fun x => { x with stage := .start }) p) rid
      else if inDrain s then
        let bit : BitVec 1024 := (1 : BitVec 1024) <<< panelLine a
        let overs := if s.cure.overs.any (fun o => o.panel = p) then
            s.cure.overs.map fun o => if o.panel = p then { o with valid := o.valid ||| bit } else o
          else s.cure.overs ++ [⟨p, bit⟩]
        zeroWrite (setBlank (firstFrame { s with cure := { s.cure with overs := overs } } p) p false) rid
      else doIf (decide (t.stage ≠ .fillWait)) (fun s => cntInc s rMapFillWaitCnt)
        (ttMod s rid fun x => { x with stage := .fillWait })
    | _ => zeroWrite (ttMod s rid fun x => { x with stage := .start }) rid

/-! TRIM (R96, R97). -/

/-- A panel is being copied by Recast (R97, R320). -/
def panelRecast (s : State) (p : Nat) : Bool := (s.cure.recast.map fun r => decide (r.panel = some p)).getD false

/-- A panel is being moved. -/
def panelMoving (s : State) (p : Nat) : Bool :=
  tiered s && (decide (peState (pmapGet s p) = 3) || decide (peState (pmapGet s p) = 4))

/-- An access to the panel admitted before has not completed its Veneer stage. The entries stand in admission order. -/
def panelBusy (s : State) (p rid : Nat) : Bool :=
  (s.tt.takeWhile fun t => decide (t.req.rid ≠ rid)).any fun t =>
    decide (panelOf t.req.addr.toNat = p) && decide (t.req.kind = .access) && !reqAperture t.req
    && (decide (t.stage = .start) || decide (t.stage = .miss) || decide (t.stage = .fillWait)
      || decide (t.stage = .panelWait) || decide (t.stage = .slotWait))

/-- Steps 2 to 5 of a TRIM of a panel that is not blank. -/
def trimSteps (s : State) (p : Nat) : State :=
  let s := panelDrop s p
  let s := { s with
    map := { s.map with
      fill := s.map.fill.filter (fun f => f.panel ≠ p)
      fillFullSeen := s.map.fillFullSeen && decide ((s.map.fill.filter (fun f => f.panel ≠ p)).length = 256) }
    adm := { s.adm with
      wait := s.adm.wait.filter fun r => !(decide (r.kind = .fill) && decide (panelOf r.addr.toNat = p)) } }
  let s := if tiered s then
      let e := pmapGet s p
      let s := retFree s p
      let s := match peState e with
        | 1 => frameGive s (peFrame e)
        | 2 => match nbrOf s (peOwner e) with
          | some j => sendFree s j p (peFrame e)
          | none => s
        | _ => s
      pmapSet s p (pePut e 0 0 0)
    else s
  setBlank s p true

/-- A panel's class is blank as a whole. -/
def panelBlank (s : State) (p : Nat) : Bool := decide (classOf s (p * 65536) = .blank)

/-- A TRIM at its panel steps: it waits for a move and for earlier accesses, and holds back later ones (R96, R97). -/
def trimServe (s : State) (rid : Nat) : State :=
  match ttFind s rid with
  | none => s
  | some t =>
    let a := t.req.addr.toNat
    let p := panelOf a
    if panelMoving s p || panelRecast s p || panelBusy s p rid then
      let s := ttMod s rid fun x => { x with stage := .panelWait }
      { s with map := { s.map with trims := if p ∈ s.map.trims then s.map.trims else s.map.trims ++ [p] } }
    else
      let s := cntInc (if panelBlank s p then s else trimSteps s p) rMapTrimCnt
      let s := { s with map := { s.map with trims := s.map.trims.filter (fun x => x ≠ p) } }
      if fromTwin s a then serveTwin s rid else ttLeave s rid none

/-! Serving (R42, R80, R316, R317). -/

/-- A Reserve aperture access (R80); on a fenced channel a read is uncorrectable to its reader and a write is dropped
(R317). -/
def apertureServe (s : State) (t : TtEntry) : State :=
  let rid := t.req.rid
  let das := lineAddr (apertureDas t.req.addr)
  let c := chanOf s das
  if s.cure.fence[c] = .fenced then
    if isWriteOp t.req.op then ttLeave (cntInc s rCurRsvDropCnt) rid none
    else if t.req.kind = .rasp .scrub then ttLeave s rid none
    else ttLeave (performed (mapDamage s das) t (applyReq t.req 0 true) false) rid none
  else if isFullWr t.req then
    let ap := applyReq t.req 0 false
    lineToWq (ttMod s rid fun x => { x with stage := .queue }) das (some rid) (encodeLine ap.data ap.poison) t.req.rt
  else if t.req.op = .wrPart then partToGlue (ttMod s rid fun x => { x with stage := .queue }) das (some rid) t
  else
    let dest : RdDest := match t.req.kind with
      | .rasp .scrub => .scrub rid false
      | .rasp (.diagRead cmp) => .diag rid cmp
      | _ => .tt rid
    lineToRq (ttMod s rid fun x => { x with stage := .queue }) das (some rid) t.req t.stamp dest

/-- A zero-fill write: cancelled where the line is valid already; dropped on a fenced channel (R92, R93). -/
def fillServe (s : State) (t : TtEntry) : State :=
  let rid := t.req.rid
  let a := t.req.addr.toNat
  if classOf s a = .filling false then
    let s := setValid s a
    match (dasOf s a).map lineAddr with
    | some das =>
      if s.cure.fence[chanOf s das] = .fenced then ttLeave s rid none
      else lineToWq (ttMod s rid fun x => { x with stage := .queue }) das (some rid) (encodeLine 0 false) false
    | none => ttLeave s rid none
  else ttLeave s rid none

/-- An access of an engine to the DAS, and what follows where it is done at once: a write at its admission, and any access to
a fenced channel (R80, R106, R265). -/
def raspServe (s : State) (t : TtEntry) : State :=
  let s := apertureServe s t
  let fenced : Bool := decide (s.cure.fence[chanOf s (lineAddr (apertureDas t.req.addr))] = .fenced)
  doIf (isWriteOp t.req.op || fenced) (fun s => raspAfter s t.req) s

/-- The copy of a panel ends once every line of it is admitted: its Stale Map bit is cleared, and the walk goes on (R320). -/
def recastNote (s : State) : State :=
  match s.cure.recast with
  | some r =>
    match r.panel with
    | some p =>
      if s.adm.wait.any fun q => match q.kind with | .rasp (.recast _) => true | _ => false then s
      else
        let s := staleClear s p
        { s with cure := { s.cure with recast := some { r with panel := none, next := p + 1 } } }
    | none => s
  | none => s

/-- A Recast copy admitted: its line goes to the write queue; where the channel is fenced again it is dropped (R320). -/
def recastServe (s : State) (t : TtEntry) (das : Nat) : State :=
  let rid := t.req.rid
  if s.cure.fence[chanOf s das] = .fenced then ttLeave s rid none
  else recastNote (lineToWq (ttMod (cntInc s rCurRecastLineCnt) rid fun x => { x with stage := .queue }) das (some rid)
    (encodeLine t.req.data t.req.poison) false)

/-- A line of the panel being copied, on the recovering channel: its accesses wait in their TT entries (R320). -/
def recastHolds (s : State) (a : Nat) : Bool :=
  match s.cure.recast with
  | some r => decide (r.panel = some (panelOf a)) && decide (chanOf s (decodeAddr s a) = r.chan)
  | none => false

/-- A write to the line of a local frame waits for admission as a frame access, a move's copy of the line included (R343). -/
def frameBehind (s : State) (a : Nat) : Bool :=
  match moveFrame s (panelOf a) with
  | some f => s.adm.wait.any fun r => match r.kind with
    | .frame das _ => decide (das = f * 65536 + lineAddr a % 65536)
    | _ => false
  | none => false

/-- A line is being copied by a move: the copy has been read, and its destination write is neither admitted nor acknowledged
(R344). -/
def copyHolds (s : State) (rid a : Nat) : Bool :=
  match s.tier.moves.find? fun m => decide (m.panel = panelOf a) with
  | some m =>
    let d : Dest := .move m.num (panelLine a)
    m.acks.contains (panelLine a) || s.results.any (fun r => decide (r.dest = d))
      || (s.tt.takeWhile fun t => decide (t.req.rid ≠ rid)).any fun t => decide (t.req.dest = d) && decide (t.stage ≠ .left)
  | none => false

/-- An access waits in its TT entry: for the copy of its line by a move or by Recast, for a frame access to it, or behind an
earlier access to the line that waits (R67, R320, R343, R344). -/
def accessWaits (s : State) (rid a : Nat) : Bool :=
  recastHolds s a || frameBehind s a || copyHolds s rid a
    || lineBehind s rid a fun x => decide (x = .panelWait) || decide (x = .slotWait)

/-- A WR_PART with no enables and no poison has no effect (R55, R90). -/
def emptyWr (r : Req) : Bool := decide (r.op = .wrPart) && r.hasData && decide (r.mask = 0) && !r.poison

/-- An atomic on a line that holds no data writes: an ATOM_CAS8 only where its compare value is 0 (R90). -/
def blankWrites (r : Req) : Bool :=
  match r.op with
  | .add8 => true
  | .cas8 => decide (lineWord r.data 0 = 0)
  | _ => false

/-- A read or an atomic that does not swap, on a line that holds no data: zero (R90). -/
def zeroServe (s : State) (t : TtEntry) : State :=
  let s := doIf (decide (t.req.op = .rdLine) || decide (t.req.op = .rdPart)) (fun s => cntInc s rMapBlankRdCnt) s
  ttLeave (performed s t (applyReq t.req 0 false) false) t.req.rid none

/-- An admitted request is served: `err` is what a Veneer array read adds (R269). -/
def serve (s : State) (rid : Nat) (err : RawLine) : State :=
  match ttFind s rid with
  | none => s
  | some t =>
    let a := t.req.addr.toNat
    match t.req.kind with
    | .fill => fillServe s t
    | .frame das parent =>
      let s := partDone s parent
      if s.cure.fence[chanOf s das] = .fenced then ttLeave s rid none
      else lineToWq (ttMod s rid fun x => { x with stage := .queue }) das (some rid)
        (encodeLine t.req.data t.req.poison) t.req.rt
    | .raw => rawServe s t
    | .rasp (.recast das) => recastServe s t das
    | .rasp _ => raspServe s t
    | .access =>
      if reqAperture t.req then apertureServe s t
      else if t.req.op = .trim then trimServe s rid
      else if emptyWr t.req then ttLeave s rid none
      else if fillBehind s rid a then ttMod s rid fun x => { x with stage := .fillWait }
      else if accessWaits s rid a then ttMod s rid fun x => { x with stage := .panelWait }
      else if lineBlank s a then
        if isReadOp t.req.op && !blankWrites t.req then zeroServe s t
        else if isWriteOp t.req.op then blankWrite s rid
        else ttLeave s rid none
      else if fromTwin s a then serveTwin s rid
      else vnrServe s rid err

/-- Requests that waited for a Fill Table entry, for a move, or behind a panel's earlier accesses go on where they can. -/
def panelPump (s : State) : State :=
  let s := forEach (s.tt.filter (fun t => t.stage = .fillWait)) s fun s t =>
    if (s.map.fill.length < 256 ∨ inDrain s ∨ classOf s t.req.addr.toNat ≠ .blank) ∧ sliceRoom s t.req.addr.toNat then
      serve s t.req.rid 0 else s
  forEach (s.tt.filter (fun t => t.stage = .panelWait)) s fun s t =>
    if t.req.op = .trim ∨ sliceRoom s t.req.addr.toNat then serve s t.req.rid 0 else s

end Sys2Proof.Machine
end

