-- ==== Sys2Proof/Machine/Admit.lean ====
section
/-!
DEFINITION. Admission (04_admission.md): masking, ranks, refusals, locked sequences, eligibility, selection and the
Transaction Table entry.
-/
namespace Sys2Proof.Machine
open Sys2Proof

/-! Requesters (R110, R117, R119). -/

/-- A requester's rank, 7 the highest. -/
def rankOf (s : State) (r : Nat) : Nat :=
  if r < 10 then fld s rAdmRank0 (3 * r + 2) (3 * r) else fld s rAdmRank1 (3 * (r - 10) + 2) (3 * (r - 10))

/-- A request is arbitrated at its requester's rank, a PREFETCH at rank 0 (R113). -/
def reqRank (s : State) (r : Req) : Nat := if r.op = .prefetch then 0 else rankOf s r.src.val

/-- The port of a requester that is one. -/
def srcPort (r : Req) : Option (Fin 8) := if h : r.src.val < 8 then some ⟨r.src.val, h⟩ else none

/-- A requester is masked in every pool. -/
def reqMasked (s : State) (r : Fin 20) : Bool :=
  if h : r.val < 8 then decide ((port s ⟨r.val, h⟩).mode ≠ .up)
  else if r.val < 16 then s.ten.segs.toList.all fun g => !g.up
  else decide (r = 19) && decide (s.arm.mode ≠ .running)

/-- Where an event arises from a request (R477). -/
def reqOrigin (r : Req) : EvtOrigin :=
  { kind := .lms, addr := r.addr.setWidth 64, mid := r.mid
    typ := match r.op with
      | .rdLine | .rdPart | .prefetch => 1
      | .wrLine | .wrPart => 2
      | .add8 | .cas8 => 3
      | .trim => 4 }

/-- REQ_MASKED or REQ_UNMASKED where a requester's masking changes (R134). -/
def maskNote (s : State) (r : Fin 20) : State :=
  let m := reqMasked s r
  if s.adm.masked.getLsbD r.val = m then s
  else
    let bit : BitVec 20 := (1 : BitVec 20) <<< r.val
    let s := { s with adm := { s.adm with masked := if m then s.adm.masked ||| bit else s.adm.masked &&& ~~~ bit } }
    evd s (if m then 133 else 134) (detail32 r.val)

/-- The masking of every requester as it stands at an edge. -/
def maskEdge (s : State) : State := forEach (List.finRange 20) s maskNote

/-! Requests that leave the queues without admission. -/

/-- A beat leaves a port's write data buffer and its credit is granted again while the port is UP (R50). -/
def beatOut (s : State) (p : Fin 8) : State :=
  if (port s p).mode = .up then modPort s p fun x => { x with creds := x.creds + 1 } else s

/-- A request leaves its queue: an FRP's place is free (R52), its beat leaves the buffer, and the beat of a write whose data
has not come is discarded when it comes (R51). -/
def unqueue (s : State) (r : Req) : State :=
  let s := { s with adm := { s.adm with wait := s.adm.wait.filter fun q => q.rid ≠ r.rid } }
  match srcPort r with
  | some p =>
    let s := modPort s p fun x => { x with
      places := if r.kind = .access then x.places - 1 else x.places
      wdWait := x.wdWait.map fun w => if w = some r.rid then none else w }
    doIf (isWriteOp r.op && r.hasData && decide (r.kind = .access)) (fun s => beatOut s p) s
  | none => s

/-- A waiting request completes without admission. -/
def refuse (s : State) (r : Req) (code : Code) (data : LineData) : State :=
  let s := doIf (decide (code = .errLock)) (fun s => cntInc s rAdmLockErrCnt) (unqueue s r)
  match r.dest with
  | .port p tag => portDone (fenceNote s p r.rid none false) p tag (isReadOp r.op) code data
  | d => (deliver s d (isReadOp r.op) code data).2

/-- Every request not admitted completes ERR_POWER (R65): those of the ports and the engines, a raw access, and the requests of
the Rasp engines. A frame access belongs to a write admitted before, and a zero fill is dropped by the drain (R322). -/
def powerRefuse (s : State) : State :=
  let out (r : Req) : Bool := match r.kind with
    | .access | .raw | .rasp _ => true
    | .fill | .frame _ _ => false
  let s := forEach (s.adm.wait.filter out) s fun s r =>
    let s := doIf (decide (r.kind = .raw)) (fun s =>
      modCode s (chanOf s (apertureDas r.addr)) fun x => { x with raw := none, rawRes := 1 }) s
    refuse s r .errPower 0
  { s with map := { s.map with slices := Vector.replicate 4 [] } }

/-- A waiting request withdrawn by masking (R120). -/
def withdraw (s : State) (r : Req) : State :=
  let s := cntInc (unqueue s r) rAdmWdrawCnt
  match r.dest with
  | .port p tag =>
    let s := doIf (isWriteOp r.op) (fun s => portDiscard s p 1) s
    modPort s p fun x => { x with tags := x.tags.filter fun t => t ≠ tag }
  | _ =>
    if r.kind = .raw then modCode s (chanOf s (apertureDas r.addr)) fun x => { x with raw := none, rawRes := 1 } else s

/-- Every waiting request of a requester withdrawn, but for a port's writes whose data has come, which are then ordinary
requests (R120). The frame access of a write already admitted (R343) stays (DESIGN CHOICE, log entry 83). A raw access of the
code unit is then over, refused (DESIGN CHOICE, log entry 83). -/
def withdrawAll (s : State) (r : Fin 20) : State :=
  let keep (q : Req) : Bool := decide (r.val < 8) && isWriteOp q.op && q.hasData || match q.kind with
    | .frame _ _ => true
    | _ => false
  let s := forEach (s.adm.wait.filter fun q => decide (q.src = r) && !keep q) s withdraw
  { s with adm := { s.adm with
    wait := s.adm.wait.map fun q => if q.src = r then { q with lock := false, lockEnd := false } else q } }

/-! Locked sequences (R121 to R127). -/

/-- The lock state of a port changed. -/
def modLock (s : State) (p : Fin 8) (f : LockSt → LockSt) : State := modPort s p fun x => { x with lock := f x.lock }

/-- The waiting requests of a port's sequence. -/
def seqWaiting (s : State) (p : Fin 8) : List Req :=
  s.adm.wait.filter fun r => r.lock && decide (r.src.val = p.val)

/-- A sequence ends as at the admission of its LOCK_END. What still waits of it, where the LOCK_END completed without
admission, is an ordinary request (DESIGN CHOICE, log entry 84: R123 does not say what it becomes). -/
def lockFinish (s : State) (p : Fin 8) : State :=
  let s := modLock s p fun _ => .idle
  { s with adm := { s.adm with
    wait := s.adm.wait.map fun r => if r.src.val = p.val then { r with lock := false, lockEnd := false } else r } }

/-- A sequence ends early: its waiting requests complete with a code and the port is SPENT, or IDLE where a refused request
carries LOCK_END (R125). -/
def lockBreak (s : State) (p : Fin 8) (code : Code) (endSeen : Bool) : State :=
  let seq := seqWaiting s p
  let done := endSeen || seq.any fun r => r.lockEnd
  let s := modLock s p fun _ => { LockSt.idle with mode := if done then .idle else .spent }
  forEach seq s fun s r => refuse s r code 0

/-- LOCK_BROKEN with the MID of the sequence's first request and the pool (R134). -/
def lockBroken (s : State) (l : LockSt) : State :=
  evo s 129 [BitVec.ofNat 32 l.mid.toNat, BitVec.ofNat 32 ((l.pool.map Fin.val).getD 0)] { EvtOrigin.none with mid := l.mid }

/-- The lock held on a pool ends because its channel is fenced. -/
def lockFence (s : State) (pool : Fin 16) : State :=
  forEach (List.finRange 8) s fun s p =>
    let l := (port s p).lock
    if l.held ∧ l.pool = some pool then lockBroken (lockBreak s p .errLock false) l else s

/-- LOCK_CEILING, with the MID of the sequence's first request (R62, R134). -/
def lockCeilingEv (s : State) (l : LockSt) : State := evo s 128 [] { EvtOrigin.none with mid := l.mid }

/-- LOCK_CEILING by time. -/
def lockCeiling (s : State) (p : Fin 8) : State :=
  let l := (port s p).lock
  if l.held then lockCeilingEv (lockBreak s p .errLock false) l else s

def execLockCeiling (p : Fin 8) (s : State) : Host.Outcome State Fault Refusal := ok (lockCeiling s p)

/-- What the lock rules do with a request of a sequence at its acceptance: refused; completed or queued as an ordinary
request; or a member of the sequence. -/
inductive LockOut where
  | refused | ordinary | member
deriving DecidableEq, Repr

/-- The lock rules applied to a request with REQ_LOCK = 1 (R121 to R123). `pool` is none where the request completes
without reaching a pool. -/
def lockAccept (s : State) (p : Fin 8) (mid : BitVec 12) (endFlag : Bool) (pool : Option (Fin 16)) : LockOut × State :=
  let l := (port s p).lock
  match l.mode with
  | .spent => (.refused, doIf endFlag (fun s => modLock s p fun _ => .idle) s)
  | .idle =>
    if endFlag then (.ordinary, s)
    else (.member, modLock s p fun _ => { mode := .inLock, pool := pool, held := false, count := 1, mid := mid })
  | .inLock =>
    if fld s rAdmLockCfg 8 0 < l.count + 1 then (.refused, lockCeilingEv (lockBreak s p .errLock endFlag) l)
    else
      let s := modLock s p fun l => { l with count := l.count + 1, pool := l.pool.orElse fun _ => pool }
      if pool.isSome ∧ l.pool.isSome ∧ pool ≠ l.pool then
        (.refused, doIf endFlag (fun s => lockFinish s p) (evo s 130 [] { EvtOrigin.none with mid := mid }))
      else (.member, doIf (endFlag && pool.isNone) (fun s => lockFinish s p) s)

/-! Eligibility (R96, R112, R130, R131, R296, R333). -/

/-- Reserved entries of a requester and how many of them are in use. -/
def reserveOf (s : State) (src : Nat) : Nat :=
  match src with
  | 18 => fld s rAdmTtRes 23 16
  | 17 => fld s rAdmTtRes 15 8
  | 19 => fld s rAdmTtRes 7 0
  | _ => 0

def reserveUsed (s : State) (src : Fin 20) : Nat :=
  s.tt.countP fun t => decide (t.cls = .reserve) && decide (t.req.src = src)

/-- The TT entry a request would take: a shared one, or where none is available a reserved one. -/
def ttClassFor (s : State) (pool : Fin 16) (src : Fin 20) : Option TtClass :=
  if ttSharedUsed s < ttShared s ∧ poolUsed s pool.val < fld s rAdmTtCap 12 0 then some .shared
  else if reserveUsed s src < reserveOf s src.val then some .reserve
  else none

/-- The epoch window is full (R296). -/
def epochFull (s : State) : Bool := decide (2 ^ 20 ≤ (s.cure.e - curC s).toNat)

/-- A request is a first write to a BLANK panel in Tiered mode. -/
def needsFrame (s : State) (r : Req) : Bool :=
  tiered s && decide (r.kind = .access) && isWriteOp r.op && !reqAperture r && decide (classOf s r.addr.toNat = .blank)

/-- Frames kept for admitted first writes that wait for a Fill Table entry (R333). -/
def framesHeld (s : State) : Nat :=
  if tiered s then ((s.tt.filter fun t => decide (t.stage = .fillWait) && isWriteOp t.req.op).map fun t => panelOf t.req.addr.toNat).eraseDups.length
  else 0

/-- A request that waits for the Veneer: its slice's miss and victim buffers have room (R271). -/
def vnrRoom (s : State) (r : Req) : Bool :=
  decide (r.kind ≠ .access) || reqAperture r || decide (r.op = .trim) || sliceRoom s r.addr.toNat

/-- An earlier waiting request of the same port that a TRIM orders against this one (R66). -/
def trimBefore (s : State) (r : Req) : Bool :=
  decide (r.src.val < 8) && s.adm.wait.any fun q =>
    decide (q.rid < r.rid) && decide (q.src = r.src) && decide (q.kind = .access) && decide (r.kind = .access)
    && decide (panelOf q.addr.toNat = panelOf r.addr.toNat) && decide (q.op ≠ .prefetch) && decide (r.op ≠ .prefetch)
    && (decide (q.op = .trim) || decide (r.op = .trim))

/-- No lock of another requester holds the pool, and a port's ordinary requests wait for its own lock (R122, R124). -/
def lockAllows (s : State) (pool : Fin 16) (r : Req) : Bool :=
  (List.finRange 8).all fun p =>
    let l := (port s p).lock
    !(l.held && decide (l.pool = some pool)) || (decide (r.src.val = p.val) && r.lock)

/-! Requests that a pool never admits (R90, R112). -/

/-- A read of a line that holds no data, or an ATOM_CAS8 on one that does not swap: served as zero by the decode, unless an
admitted write to the line waits for a Fill Table entry, which it then follows (R66, R67). -/
def servedZero (s : State) (r : Req) : Bool :=
  decide (r.kind = .access) && !reqAperture r && lineBlank s r.addr.toNat
    && !(s.tt.any fun t => decide (t.stage = .fillWait) && decide (lineAddr t.req.addr.toNat = lineAddr r.addr.toNat))
    && match r.op with
      | .rdLine | .rdPart | .prefetch => true
      | .cas8 => r.hasData && decide (lineWord r.data 0 ≠ 0)
      | _ => false

/-- The panel of an access is at a step of a move that holds its accesses in the decode (R341, R342). -/
def moveHolds (s : State) (r : Req) : Bool :=
  decide (r.kind = .access) && !reqAperture r && s.tier.moves.any fun m =>
    decide (m.panel = panelOf r.addr.toNat) && (decide (m.stage = .remap) || decide (m.stage = .flush))

/-- A request at the head of its queue is eligible in its pool. -/
def eligible (s : State) (pool : Fin 16) (r : Req) : Bool :=
  (r.hasData || !isWriteOp r.op)
  && (!reqMasked s r.src || decide (r.src.val < 8) || decide (r.kind ≠ .access ∧ r.kind ≠ .raw))
  && !poolPaused s pool && decide (pool.val < chanCount s)
  && lockAllows s pool r
  && (ttClassFor s pool r.src).isSome
  && (!(needsFrame s r) || decide (framesHeld s < framesFree s))
  && !(s.map.trims.contains (panelOf r.addr.toNat) && decide (r.kind = .access) && !reqAperture r)
  && !(epochFull s && decide (r.kind = .access) && (isWriteOp r.op || decide (r.op = .trim)))
  && !trimBefore s r && vnrRoom s r && !servedZero s r && rawReady s r && !moveHolds s r

/-- The head of a requester's queue for a pool: the oldest waiting request, of its engines in round-robin order
(R110, R111). -/
def headOf (s : State) (pool : Fin 16) (src : Fin 20) : Option Req :=
  let q := s.adm.wait.filter fun r => decide (r.src = src) && decide (poolOf s r = pool)
  if src.val < 16 then q.head?
  else
    match (List.range 4).find? (fun k => q.any fun r => decide (r.eng = (s.adm.engRr[src] + k) % 4)) with
    | some k => q.find? fun r => decide (r.eng = (s.adm.engRr[src] + k) % 4)
    | none => q.head?

/-! The map lookup of step 4 of R88. -/

/-- The Reserve line of the map that classes a panel: its Placement Map line, or in Flat mode its Blank Map line. -/
def classLine (s : State) (p : Nat) : Nat :=
  if tiered s then compBase s 2 + 64 * (p / 8) else compBase s 0 + 64 * (p / 512)

/-- A Placement Map line read into the cache holds an entry with a reserved state: PMAP_UNCORR, and the panels of such entries
are stale (R99, R108). -/
def reservedEntries (s : State) (p : Nat) : State :=
  let bad := ((List.range 8).map fun i => p / 8 * 8 + i).filter fun q => decide (4 < peState (pmapGet s q))
  if tiered s && !bad.isEmpty then ev (forEach bad s staleSet) 834 else s

/-- The lookup of an access's panel. A miss reads the map line from its channel, `err` being what the cells and the link add: an
uncorrectable line, and a line on a fenced channel, is damaged (R99, R317). -/
def mapLookup (s : State) (a : Nat) (err : RawLine) : State :=
  let p := panelOf a
  let n := if tiered s then p / 8 else p / 512
  let miss : Bool := (fillOf s p).isNone && !summaryBit s p && !(smGet [] s.map.pcache (n % 4096)).any fun e => e.1 = n
  let das := classLine s p
  let c := chanOf s das
  let k := posOf s das
  if !miss then classLookup s a
  else if s.cure.fence[c] = .fenced then classLookup (mapDamage s das) a
  else
    let (s, d) := decodeNow s c k (memRaw s das k ^^^ err)
    let s := if d.kind = .uncorr then mapDamage (codeUe (askTrial s c k) c das k 0) das else reservedEntries s p
    classLookup s a

/-! Reads that an engine makes and finishes within one command (R26, R110). -/

/-- The pool of an engine's read. -/
def enginePool (s : State) (a : Nat) : Fin 16 := if 2 ^ 47 ≤ a then chanOf s (a - 2 ^ 47) else chanOf s (decodeAddr s a)

/-- An address of an engine that completes ERR_RANGE: at or above the LMS top, or an aperture address at or above the DAS top
(R79, R80). -/
def engineBad (s : State) (a : Nat) : Bool := if 2 ^ 47 ≤ a then decide (dasTop s ≤ a - 2 ^ 47) else decide (lmsTop s ≤ a)

/-- Its pool would admit an engine's read of a line now, PFAIL_N not being low (R65), and no access to the line admitted earlier has still to be performed. An
address that is refused needs no pool (R79, R80). -/
def engineMay (s : State) (src : Fin 20) (a : Nat) : Bool :=
  let pool := enginePool s a
  let panel : Bool := decide (2 ^ 47 ≤ a) || !s.map.trims.contains (panelOf a) && !s.tt.any fun t =>
    decide (lineAddr t.req.addr.toNat = lineAddr a) && decide (t.req.kind = .access)
      && (decide (t.stage = .start) || decide (t.stage = .miss) || decide (t.stage = .fillWait) || decide (t.stage = .panelWait)
        || decide (t.stage = .slotWait))
  engineBad s a || !inDrain s && !poolPaused s pool && decide (pool.val < chanCount s)
    && (List.finRange 8).all (fun p => !((port s p).lock.held && decide ((port s p).lock.pool = some pool)))
    && (ttClassFor s pool src).isSome && panel

/-- The read of a line from DRAM that such a read makes: probed in a dwell, decoded and counted (R220, R221, R243). -/
def engineDram (s : State) (das : Nat) : State :=
  let c := chanOf s das
  if s.cure.fence[c] = .fenced then s else (decodeNow s c (posOf s das) (memRaw s das (posOf s das))).1

/-- Such a read counted as admitted, looked up in the map and in the Veneer, and made in DRAM where the Veneer does not hold the
line. Its TT entry is released within the command. -/
def engineRead (s : State) (src : Fin 20) (a : Nat) : State :=
  if engineBad s a then cntInc s rMapRangeErrCnt
  else if 2 ^ 47 ≤ a then engineDram (cntInc s (rAdmGrantCnt src.val)) (lineAddr (a - 2 ^ 47))
  else
    let s := classLookup s a
    if lineBlank s a then s
    else
      let s := cntInc s (rAdmGrantCnt src.val)
      let d := decodeAddr s a
      let held : Bool := (findLine s (sliceOf s d) (setOf s d) (a / 64)).isSome || (victOf s (sliceOf s d) (a / 64)).isSome
      let s := doIf (vnrLooks s) (fun s => cntInc s (if held then rVnrHitCnt else rVnrMissCnt)) s
      match dasOf s a with
      | some das => doIf (!held) (fun s => engineDram s (lineAddr das)) s
      | none => s

/-! Requests that a pool never admits, completed (R90, R112, R123). -/

/-- Such a request completes; with LOCK_END it ends its sequence (R123). -/
def serveZero (s : State) (r : Req) : State :=
  let s := doIf (decide (r.op = .rdLine) || decide (r.op = .rdPart)) (fun s => cntInc s rMapBlankRdCnt) s
  let s := if r.op = .prefetch then unqueue s r else refuse s r .ok 0
  match srcPort r with
  | some p => doIf (r.lock && r.lockEnd) (fun s => lockFinish s p) s
  | none => s

/-! Selection and admission (R114 to R116). -/

/-- A waiting request changed. -/
def modWait (s : State) (rid : Nat) (f : Req → Req) : State :=
  { s with adm := { s.adm with wait := s.adm.wait.map fun r => if r.rid = rid then f r else r } }

/-- The eligible requests of a pool, in requester order, each with the FCLK from which it has been eligible. -/
def candidates (s : State) (pool : Fin 16) : List Req :=
  ((List.finRange 20).filterMap fun src => headOf s pool src).filter fun r => eligible s pool r

/-- The request a pool grants: the highest rank, and among it the first at or after the round-robin pointer. -/
def choose (s : State) (pool : Fin 16) (cs : List Req) : Option Req :=
  let top := cs.foldl (fun m r => max m (reqRank s r)) 0
  let best := cs.filter fun r => decide (reqRank s r = top)
  let ptr := s.adm.rr[pool]
  (List.range 20).findSome? fun k => best.find? fun r => decide (r.src.val = (ptr + k) % 20)

/-- A write's local durability waits for the twin, a lender or a frame access (R43, R297, R343). -/
def waitsFar (s : State) (r : Req) : Bool :=
  !reqAperture r && (fromTwin s r.addr.toNat || (remoteOf s (panelOf r.addr.toNat)).isSome && decide (r.op ≠ .trim))

/-- TT_FULL and POOL_AT_CAP when an entry taken is the last (R132). -/
def ttNote (s : State) (pool : Fin 16) : State :=
  let s := if ttShared s ≤ ttSharedUsed s ∧ s.adm.fullSeen = false then
      ev { s with adm := { s.adm with fullSeen := true } } 131
    else s
  let s := if fld s rAdmTtCap 12 0 ≤ poolUsed s pool.val ∧ s.adm.capSeen.getLsbD pool.val = false then
      evd { s with adm := { s.adm with capSeen := s.adm.capSeen ||| ((1 : BitVec 16) <<< pool.val) } } 132 (detail32 pool.val)
    else s
  { s with adm := { s.adm with high := max s.adm.high (s.tt.countP inTt) } }

/-- The Transaction Table entry of a selected request. -/
def newEntry (s : State) (pool : Fin 16) (r : Req) (cls : TtClass) : TtEntry :=
  let wr := decide (r.kind = .access) && !reqAperture r && (isWriteOp r.op || decide (r.op = .trim)) && !emptyWr r
  let a := r.addr.toNat
  let mode := if wr then modeAt s a else .loc
  let cap := wr && decide (mode ≠ .loc) && mirrorOn s
  { req := { r with pool := pool, since := none }, cls := cls, epoch := if wr then some s.cure.e else none, mode := mode
    stage := .start, stamp := tick s, das := none, cmp := none, capt := !cap
    mir := if cap then mirOf r else none, parts := 0, held := none, full := none }

/-- The admission of a port's request, by its lock rules: the first of a sequence takes the lock, its LOCK_END ends it. -/
def lockAdmit (s : State) (pool : Fin 16) (r : Req) : State :=
  match srcPort r with
  | some p =>
    if r.lock then
      let s := if (port s p).lock.held then s
        else cntInc (modLock s p fun l => { l with held := true, pool := some pool }) rAdmLockCnt
      doIf r.lockEnd (fun s => lockFinish s p) s
    else s
  | none => s

/-- The job of a received segment notes the epoch of a mirrored line (R380). -/
def jobNote (s : State) (d : Dest) (e : Option (BitVec 32)) (mir : Bool) : State :=
  match d, e with
  | .tenon g n _, some e =>
    if mir then
      let up (j : Job) : Job := if j.num = n then
          { j with epoch := some (match j.epoch with | some x => epMax x e | none => e) } else j
      { s with ten := { s.ten with engines := s.ten.engines.set g { s.ten.engines[g] with
        jobs := s.ten.engines[g].jobs.map up } } }
    else s
  | _, _ => s

/-- What the admission of a write or TRIM does to the mirror, the fences and the tiers. -/
def admitEffects (s : State) (t : TtEntry) : State :=
  let r := t.req
  let a := r.addr.toNat
  let p := panelOf a
  let atom : Bool := decide (r.op = .add8) || decide (r.op = .cas8)
  let s := if atom then s else markWritten s t
  let s := match r.dest with
    | .port q _ =>
      let s := doIf (r.poison && (decide (r.op = .wrLine) || decide (r.op = .wrPart)))
        (fun s => evo s (portEv q 4) [] (reqOrigin r)) s
      if atom then s else fenceNote s q r.rid t.epoch (decide (t.mode ≠ .loc))
    | d => jobNote s d t.epoch (decide (t.mode ≠ .loc))
  if tiered s && decide (r.kind = .access) && !reqAperture r then
    let s := doIf (isWriteOp r.op || decide (r.op = .trim)) (fun s => retDirty s p) s
    doIf (decide (r.src.val < 16) && decide (r.op ≠ .prefetch)) (fun s => heatUpdate s r.pool.val p r.op) s
  else s

/-- A selected request is admitted and served. -/
def admitReq (s : State) (pool : Fin 16) (r : Req) (cls : TtClass) (err mapErr : RawLine) : State :=
  let s := ttClear s
  let t := newEntry s pool r cls
  let s := lockAdmit (cntInc (unqueue s r) (rAdmGrantCnt r.src.val)) pool r
  let s := ttNote { s with tt := s.tt ++ [t] } pool
  let s := admitEffects s t
  let s := doIf (decide (r.kind = .access) && !reqAperture r) (fun s => mapLookup s r.addr.toNat mapErr) s
  let due := dueOf t true .ok 0
  let s := match r.op with
    | .wrLine | .wrPart | .trim =>
      if r.kind = .access ∧ waitsFar s r then ttMod s r.rid fun x => { x with held := some due }
      else ttDue s r.rid due
    | _ => s
  curePump (panelPump (serve s r.rid err))

/-- The wait counts of a selection: WAIT_CNT for each eligible requester not selected, and the longest wait of the one
selected (ADM.MAXWAIT). -/
def waitCounts (s : State) (cs : List Req) (r : Req) : State :=
  let s := forEach (cs.filter fun q => decide (q.rid ≠ r.rid)) s fun s q => cntInc s (rAdmWaitCnt q.src.val)
  let w := s.beat.fclk - r.since.getD s.beat.fclk
  let m := rAdmMaxwait r.src.val
  doIf (decide ((getReg s m).toNat < w)) (fun s => setReg s m (BitVec.ofNat 64 (min 0xFFFF_FFFF w))) s

/-- Which heads are eligible at this edge, with the FCLK from which each has been. -/
def noteEligible (s : State) (pool : Fin 16) : State :=
  let cs := candidates s pool
  { s with adm := { s.adm with
    wait := s.adm.wait.map fun r =>
      if poolOf s r = pool then
        { r with since := if cs.any (fun c => c.rid = r.rid) then r.since.orElse (fun _ => some s.beat.fclk) else none }
      else r } }

/-- First writes that wait for a frame are counted, each once; FRAME_WAIT when the first starts waiting (R333). -/
def frameWaits (s : State) (pool : Fin 16) : State :=
  let old := s.tier.waited.filter fun rid => s.adm.wait.any fun r => decide (r.rid = rid)
  let new := (List.finRange 20).filterMap fun src =>
    (headOf s pool src).bind fun r =>
      if r.hasData ∧ needsFrame s r ∧ framesFree s ≤ framesHeld s ∧ r.rid ∉ old then some r.rid else none
  let s := cntAdd (modTier s fun t => { t with waited := old ++ new }) rTirFrameWaitCnt new.length
  if old.isEmpty && !new.isEmpty then ev s 841 else s

/-- What an edge of a pool does before it chooses: maintenance moves on, a drain refuses, masking is noted, blank heads are
served, the Veneer gives up the line of a raw access, and the requesters that became eligible are noted. -/
def poolPrep (s : State) (pool : Fin 16) (mapErr : RawLine) : State :=
  let s := panelPump (maskEdge (if inDrain s then powerRefuse s else s))
  let s := forEach (s.adm.wait.filter fun r => decide (poolOf s r = pool)) s fun s r =>
    if headOf s pool r.src = some r && servedZero s r && !trimBefore s r && !moveHolds s r
        && !(s.map.trims.contains (panelOf r.addr.toNat)) then
      let s := mapLookup s r.addr.toNat mapErr
      if servedZero s r then serveZero s r else s
    else if r.kind = .raw then
      match rawLms s (apertureDas r.addr) with
      | some a => lineFlush s a
      | none => s
    else s
  noteEligible (frameWaits s pool) pool

/-- The request chosen by the pool: the others wait on, and the rounds move past it. -/
def poolChosen (s : State) (pool : Fin 16) (cs : List Req) (r : Req) : State :=
  let s := waitCounts s cs r
  { s with adm := { s.adm with
    rr := s.adm.rr.set pool ((r.src.val + 1) % 20)
    engRr := s.adm.engRr.set r.src ((r.eng + 1) % 4) } }

/-- POOL_SELECT: one FCLK edge of one pool. `err` is what a Veneer array read adds, `mapErr` what the cells and the link add to a
read of a Placement Cache line. -/
def poolSelect (s : State) (pool : Fin 16) (err mapErr : RawLine) : State :=
  let s := poolPrep s pool mapErr
  let cs := candidates s pool
  match choose s pool cs with
  | some r =>
    let s := poolChosen s pool cs r
    match ttClassFor s pool r.src with
    | some cls => admitReq s pool r cls err mapErr
    | none => s
  | none => s

def execPoolSelect (pool : Fin 16) (err mapErr : RawLine) (s : State) : Host.Outcome State Fault Refusal :=
  ok (poolSelect s pool err mapErr)

/-- PREFETCH_DROP: the eligible PREFETCH at the head of a requester's queue is dropped (R113). -/
def prefetchDrop (s : State) (src : Fin 20) (pool : Fin 16) : State :=
  match headOf s pool src with
  | some r => if r.op = .prefetch ∧ eligible s pool r then cntInc (unqueue s r) rAdmPfDropCnt else s
  | none => s

def execPrefetchDrop (r : Fin 20) (pool : Fin 16) (s : State) : Host.Outcome State Fault Refusal :=
  ok (prefetchDrop s r pool)

/-- WAIT_LONG, unless ADM.WAIT_ALARM disables it. -/
def waitLong (s : State) (src : Fin 20) (pool : Fin 16) : State :=
  match headOf s pool src with
  | some r =>
    if eligible s pool r ∧ 0 < fld s rAdmWaitAlarm 23 0 then
      evo s 135 [BitVec.ofNat 32 src.val, BitVec.ofNat 32 pool.val] (reqOrigin r)
    else s
  | none => s

def execWaitLong (r : Fin 20) (pool : Fin 16) (s : State) : Host.Outcome State Fault Refusal := ok (waitLong s r pool)

/-- ADM.CTL.hw_clr (R133). -/
def hwClr (s : State) : State := { s with adm := { s.adm with high := s.tt.countP inTt } }

def execHwClr (s : State) : Host.Outcome State Fault Refusal := ok (hwClr s)

end Sys2Proof.Machine
end

