-- ==== Sys2Proof/Machine/Ports.lean ====
section
/-!
DEFINITION. The Fabric Request Ports and the notice channel (02_request_ports.md).
-/
namespace Sys2Proof.Machine
open Sys2Proof

/-! Acceptance (R49 to R65). -/

/-- A reason bit of FRP.PERR set, with the tag of the first error; PROTOCOL_ERR. -/
def perr (s : State) (p : Fin 8) (bit tag : Nat) (o : EvtOrigin) : State :=
  let r := rFrpPerr p.val
  let first := if rbit s r 20 then 0 else packFields [(20, 1), (0, tag)]
  evo (rcOr s r (packFields [(bit, 1)] ||| first)) (portEv p 2) [] o

/-- A request of a port as the rest of the block sees it. -/
def mkReq (s : State) (p : Fin 8) (op : MemOp) (q : FrpReq) : Req :=
  { rid := s.adm.nextRid, src := Fin.castLE (by decide) p, eng := 0, op := op, addr := q.addr, mask := q.mask, data := 0
    hasData := false, poison := q.poison && (decide (op = .wrLine) || decide (op = .wrPart)), mid := q.mid, qos := q.qos
    rt := q.rt && rbit s (rFrpCtl p.val) 2, lock := q.lock, lockEnd := q.lockEnd, pool := 0
    dest := if op = .prefetch then .drop else .port p q.tag.val, kind := .access, since := none }

/-- Whether REQ_READY is 1: the port is UP and has a place (R52, R72). -/
def reqReady (s : State) (p : Fin 8) : Bool := decide ((port s p).mode = .up) && decide ((port s p).places < 32)

/-- The beat of a write-class request that is not queued is discarded in its place in the order (R51). -/
def dropBeat (s : State) (p : Fin 8) : State :=
  match (port s p).wdBuf with
  | _ :: rest => beatOut (modPort s p fun x => { x with wdBuf := rest }) p
  | [] => modPort s p fun x => { x with wdWait := x.wdWait ++ [none] }

/-- The address checks of R54. -/
def addrBad (s : State) (op : MemOp) (a : Nat) : Bool :=
  let align := match op with
    | .add8 | .cas8 => 8
    | .trim => 65536
    | _ => 64
  decide (a % align ≠ 0) || decide (lmsTop s ≤ a)

/-- The flag rules of R64. -/
def flagsBad (op : Option MemOp) (q : FrpReq) : Bool :=
  let lockable := match op with
    | some .trim | some .prefetch | none => false
    | some _ => true
  ((q.lock || q.lockEnd) && !lockable) || (q.lockEnd && !q.lock)

/-- A request of a port accepted: counted, and its tag outstanding; or discarded for tag reuse, which the flag tells (R60). -/
def takeReq (s : State) (p : Fin 8) (wr : Bool) (q : FrpReq) : Bool × State :=
  let s := cntInc s (rFrpReqCnt p.val)
  if (port s p).tags.contains q.tag.val then
    let s := perr s p 23 q.tag.val { EvtOrigin.none with mid := q.mid }
    (false, doIf wr (fun s => dropBeat s p) s)
  else (true, modPort s p fun x => { x with tags := x.tags ++ [q.tag.val] })

/-- A request refused at its acceptance. -/
def refuseAtPort (s : State) (p : Fin 8) (wr : Bool) (tag : Nat) (code : Code) : State :=
  let s := doIf (decide (code = .errLock)) (fun s => cntInc s rAdmLockErrCnt) (doIf wr (fun s => dropBeat s p) s)
  portDone s p tag false code 0

/-- A request refused by R53 or R62 counts toward its port's sequence while that is IN_LOCK (R64, R123). -/
def lockCounted (s : State) (p : Fin 8) (q : FrpReq) : State :=
  if q.lock ∧ (port s p).lock.mode = .inLock then (lockAccept s p q.mid q.lockEnd none).2 else s

/-- The checks every opcode takes first: the MID, then the flags, then PFAIL_N; the code that refuses, if any, and the
state. -/
def firstChecks (s : State) (p : Fin 8) (op : Option MemOp) (nop : Bool) (q : FrpReq) : Option Code × State :=
  if q.mid.getLsbD 11 then
    (some .errRange, lockCounted (perr s p 24 q.tag.val { EvtOrigin.none with mid := q.mid }) p q)
  else if flagsBad op q then (some .errLock, s)
  else if inDrain s && !nop then (some .errPower, s)
  else (none, s)

/-- A WR_PART with no enables and no poison completes OK with no effect once its beat is present (R55). -/
def emptyWrite (s : State) (rid : Nat) : State :=
  match s.adm.wait.find? (fun r => r.rid = rid) with
  | some r =>
    if r.op = .wrPart ∧ r.hasData ∧ r.mask = 0 ∧ r.poison = false then
      let s := refuse s r .ok 0
      match srcPort r with
      | some p => doIf (r.lock && r.lockEnd) (fun s => lockFinish s p) s
      | none => s
    else s
  | none => s

/-- Write data given to a waiting request. WR_LINE and the atomics ignore WD_BE (R55). -/
def giveData (s : State) (rid : Nat) (b : WdBeat) : State :=
  emptyWrite (modWait s rid fun r =>
    { r with data := b.data, hasData := true, mask := if r.op = .wrPart then b.be else r.mask }) rid

/-- A request takes its place in its queue, with its beat if that came before it (R37, R51, R111). -/
def enqueue (s : State) (p : Fin 8) (r : Req) : State :=
  let s := { s with adm := { s.adm with wait := s.adm.wait ++ [r], nextRid := s.adm.nextRid + 1 } }
  let s := modPort s p fun x => { x with places := x.places + 1 }
  let s := doIf (tiered s && (isWriteOp r.op || decide (r.op = .trim))) (fun s => retDirty s (panelOf r.addr.toNat)) s
  if isWriteOp r.op then
    match (port s p).wdBuf with
    | b :: rest => giveData (modPort s p fun x => { x with wdBuf := rest }) r.rid b
    | [] => modPort s p fun x => { x with wdWait := x.wdWait ++ [some r.rid] }
  else s

/-- An earlier write of the port to the line, or TRIM of its panel, waits: the read is classed when it is at its queue's head
(R66). -/
def lineAhead (s : State) (r : Req) : Bool :=
  s.adm.wait.any fun q => decide (q.src = r.src) && (decide (q.op = .trim) && decide (panelOf q.addr.toNat = panelOf r.addr.toNat)
    || isWriteOp q.op && decide (lineAddr q.addr.toNat = lineAddr r.addr.toNat))

/-- A read is served as zero by the decode at its acceptance (R90): nothing of its port goes before it, and no TRIM of its panel
is under way (R96). -/
def zeroAtPort (s : State) (r : Req) : Bool :=
  servedZero s r && !lineAhead s r && !s.map.trims.contains (panelOf r.addr.toNat) && !moveHolds s r

/-- The request completes without reaching a pool: an all-zero mask, or a blank read (R55, R90). -/
def servedAtPort (s : State) (r : Req) : Bool :=
  (decide (r.op = .rdPart) && decide (r.mask = 0)) || zeroAtPort s r

/-- The class of a read that the decode may serve as zero is looked up (R88, R101). -/
def zeroLookup (s : State) (r : Req) (mapErr : RawLine) : State :=
  doIf (zeroAtPort s r && decide (r.op ≠ .rdPart ∨ r.mask ≠ 0)) (fun s => mapLookup s r.addr.toNat mapErr) s

/-- A memory request that passed the first checks. `mapErr` is what the cells and the link add to a read of its Placement Cache
line. -/
def acceptMem (s : State) (p : Fin 8) (r : Req) (tag : Nat) (mapErr : RawLine) : State :=
  let wr := isWriteOp r.op
  let bad := addrBad s r.op r.addr.toNat
  let s := if bad then s else zeroLookup s r mapErr
  if r.op = .prefetch then
    let s := portDone s p tag false .ok 0
    if bad || zeroAtPort s r then s else enqueue s p { r with pool := poolOf s r }
  else
    let bare := bad || servedAtPort s r
    let pool := poolOf s r
    let (out, s) := if r.lock then lockAccept s p r.mid r.lockEnd (if bare then none else some pool) else (.ordinary, s)
    if out = .refused then refuseAtPort s p wr tag .errLock
    else if bad then refuseAtPort (cntInc s rMapRangeErrCnt) p wr tag .errRange
    else if bare then
      let s := doIf (decide (r.op ≠ .rdPart) || decide (r.mask ≠ 0)) (fun s => cntInc s rMapBlankRdCnt) s
      portDone s p tag true .ok 0
    else
      let mem := decide (out = .member)
      enqueue s p { r with pool := pool, lock := mem, lockEnd := mem && r.lockEnd }

/-- A request presented on REQ. -/
def acceptReq (s : State) (p : Fin 8) (op : MemOp) (q : FrpReq) (mapErr : RawLine) : State :=
  if reqReady s p then
    match takeReq s p (isWriteOp op) q with
    | (false, s) => s
    | (true, s) =>
      match firstChecks s p (some op) false q with
      | (some code, s) => refuseAtPort s p (isWriteOp op) q.tag.val code
      | (none, s) => acceptMem s p (mkReq s p op q) q.tag.val mapErr
  else s

def execRdLine (p : Fin 8) (q : FrpReq) (mapErr : RawLine) (s : State) : Host.Outcome State Fault Refusal :=
  ok (acceptReq s p .rdLine q mapErr)
def execRdPart (p : Fin 8) (q : FrpReq) (mapErr : RawLine) (s : State) : Host.Outcome State Fault Refusal :=
  ok (acceptReq s p .rdPart q mapErr)
def execWrLine (p : Fin 8) (q : FrpReq) (s : State) : Host.Outcome State Fault Refusal := ok (acceptReq s p .wrLine q 0)
def execWrPart (p : Fin 8) (q : FrpReq) (s : State) : Host.Outcome State Fault Refusal := ok (acceptReq s p .wrPart q 0)
def execAtomAdd8 (p : Fin 8) (q : FrpReq) (s : State) : Host.Outcome State Fault Refusal := ok (acceptReq s p .add8 q 0)
def execAtomCas8 (p : Fin 8) (q : FrpReq) (s : State) : Host.Outcome State Fault Refusal := ok (acceptReq s p .cas8 q 0)
def execTrim (p : Fin 8) (q : FrpReq) (s : State) : Host.Outcome State Fault Refusal := ok (acceptReq s p .trim q 0)
def execPrefetch (p : Fin 8) (q : FrpReq) (mapErr : RawLine) (s : State) : Host.Outcome State Fault Refusal :=
  ok (acceptReq s p .prefetch q mapErr)

/-- A NOP completes once every request accepted earlier on the port has completed (R53). -/
def acceptNop (s : State) (p : Fin 8) (q : FrpReq) : State :=
  if reqReady s p then
    let earlier := (port s p).tags
    match takeReq s p false q with
    | (false, s) => s
    | (true, s) =>
      match firstChecks s p none true q with
      | (some code, s) => refuseAtPort s p false q.tag.val code
      | (none, s) =>
        let left := earlier.filter fun t => !((port s p).cmpBuf.any fun c => c.tag = t)
        nopPump (modPort s p fun x => { x with nops := x.nops ++ [⟨q.tag.val, left⟩] }) p
  else s

def execNop (p : Fin 8) (q : FrpReq) (s : State) : Host.Outcome State Fault Refusal := ok (acceptNop s p q)

/-- The accepted writes and TRIMs of a port whose epoch a fence does not know yet: those that wait, and admitted atomics not
yet performed. -/
def fenceCovers (s : State) (p : Fin 8) : List Nat :=
  ((s.adm.wait.filter fun r =>
      decide (srcPort r = some p) && decide (r.kind = .access) && (isWriteOp r.op || decide (r.op = .trim))).map Req.rid)
    ++ ((s.tt.filter fun t => decide (srcPort t.req = some p) && (decide (t.req.op = .add8) || decide (t.req.op = .cas8))
      && t.epoch.isSome && t.mir.isNone && decide (t.stage ≠ .left)).map fun t => t.req.rid)

/-- CURE_FENCE (R63). -/
def acceptFence (s : State) (p : Fin 8) (q : FrpReq) : State :=
  if reqReady s p then
    match takeReq s p false q with
    | (false, s) => s
    | (true, s) =>
      match firstChecks s p none false q with
      | (some code, s) => refuseAtPort s p false q.tag.val code
      | (none, s) =>
        let f : FenceWait := ⟨q.tag.val, fenceCovers s p, (port s p).eps, (port s p).lastEp, (port s p).lastMir⟩
        fencePump (modPort s p fun x => { x with fences := x.fences ++ [f] }) p
  else s

def execCureFence (p : Fin 8) (q : FrpReq) (s : State) : Host.Outcome State Fault Refusal := ok (acceptFence s p q)

/-- A reserved opcode: ERR_RANGE and bad_opcode; the first check, so that no other is made (R53, R64). -/
def acceptReserved (s : State) (p : Fin 8) (q : FrpReq) : State :=
  if reqReady s p then
    match takeReq s p false q with
    | (false, s) => s
    | (true, s) =>
      let o : EvtOrigin := { EvtOrigin.none with mid := q.mid }
      refuseAtPort (lockCounted (perr s p 21 q.tag.val o) p q) p false q.tag.val .errRange
  else s

def execReservedOpcode (p : Fin 8) (_op : Fin 6) (q : FrpReq) (s : State) : Host.Outcome State Fault Refusal :=
  ok (acceptReserved s p q)

/-- WD_BEAT (R50, R51). -/
def wdBeat (s : State) (p : Fin 8) (d : LineData) (be : LineMask) : State :=
  if (port s p).mode = .up then
    let s := cntInc s (rFrpWdCnt p.val)
    if (port s p).creds = 0 then perr s p 22 0 .none
    else
      let s := modPort s p fun x => { x with creds := x.creds - 1 }
      match (port s p).wdWait with
      | some rid :: rest => giveData (modPort s p fun x => { x with wdWait := rest }) rid ⟨d, be⟩
      | none :: rest => beatOut (modPort s p fun x => { x with wdWait := rest }) p
      | [] => modPort s p fun x => { x with wdBuf := x.wdBuf ++ [⟨d, be⟩] }
  else s

def execWdBeat (p : Fin 8) (d : LineData) (be : LineMask) (s : State) : Host.Outcome State Fault Refusal :=
  ok (wdBeat s p d be)

/-! RD, CMP and NTC (R57 to R60, R73 to R75). -/

/-- RD_BEAT_TRANSFER. -/
def rdTransfer (s : State) (p : Fin 8) : State :=
  match (port s p).mode, (port s p).rdBuf with
  | .up, _ :: rest => portPump (cntInc (modPort s p fun x => { x with rdBuf := rest }) (rFrpRdCnt p.val)) p
  | _, _ => s

def execRdBeatTransfer (p : Fin 8) (s : State) : Host.Outcome State Fault Refusal := ok (rdTransfer s p)

/-- CMP_TRANSFER: never before the tag's RD beat (R59); the tag is then free (R60). -/
def cmpTransfer (s : State) (p : Fin 8) : State :=
  match (port s p).mode, (port s p).cmpBuf with
  | .up, c :: rest =>
    if (port s p).rdBuf.any (fun b => b.tag = c.tag) then s
    else portPump (modPort s p fun x => { x with cmpBuf := rest, tags := x.tags.filter fun t => t ≠ c.tag }) p
  | _, _ => s

def execCmpTransfer (p : Fin 8) (s : State) : Host.Outcome State Fault Refusal := ok (cmpTransfer s p)

/-- A notice queued; NTC_FULL when the queue becomes full, NTC_OVERFLOW for a RING_OVERFLOW notice (R77). -/
def ntcPush (s : State) (n : Notice) : State :=
  let s := { s with ntc := s.ntc ++ [n] }
  let s := doIf n.overflow (fun s => ev s 113) s
  doIf (decide (s.ntc.length = 256)) (fun s => ev s 112) s

/-- NTC_DATA of a notice (R74): the type in bits 127:124, then ring, owner MID, zeros, source Device ID, index, immediate,
connection and zeros. -/
def ntcData (n : Notice) : BitVec 128 :=
  (if n.overflow then 2#4 else 1#4) ++ BitVec.ofNat 5 n.ring.val ++ n.ownerMid ++ 0#11 ++ n.srcDev ++ n.index ++ n.imm ++ n.conn
    ++ 0#16

/-- What the NTC channel presents: NTC_VALID, and NTC_DATA while it is 1 (R73, R74). -/
def ntcOut (s : State) : Option (BitVec 128) := s.ntc.head?.map ntcData

/-- NTC_TRANSFER. -/
def ntcTransfer (s : State) : State :=
  match s.ntc with
  | _ :: rest => cntInc { s with ntc := rest } rNtcMsgCnt
  | [] => s

def execNtcTransfer (s : State) : Host.Outcome State Fault Refusal := ok (ntcTransfer s)

/-! Port states (R69 to R72). -/

/-- A DOWN port enters UP when Ready is declared, en is 1 and LIVE is seen high; after a drain has ended it does not
(R322 step 8, R497). -/
def portUpTry (s : State) (p : Fin 8) : State :=
  let s := maskNote s (Fin.castLE (by decide) p)
  let x := port s p
  if x.mode = .down ∧ x.live ∧ isReady s ∧ rbit s (rFrpCtl p.val) 0 ∧ s.cure.drain ≠ .complete then
    let s := modPort s p fun x => { x with
      mode := .up, creds := fld s (rFrpCtl p.val) 15 8, tags := [], wdWait := [], wdBuf := [], places := 0
      discSeen := false, lock := .idle }
    maskNote (ev s (portEv p 1)) (Fin.castLE (by decide) p)
  else s

/-- Tags of a port's requests still inside the Shuzer. -/
def tagsInside (s : State) (p : Fin 8) : List Nat :=
  let of (d : Dest) : Option Nat := match d with
    | .port q t => if q = p then some t else none
    | _ => none
  (s.adm.wait.filterMap fun r => of r.dest) ++ (s.tt.filterMap fun t => of t.req.dest)
    ++ (s.cure.waits.filterMap fun w => of w.dest)

/-- An UP port enters QUIESCE (R71, R120, R121). -/
def portQuiesce (s : State) (p : Fin 8) : State :=
  if (port s p).mode = .up then
    let l := (port s p).lock
    let s := modPort s p fun x => { x with mode := .quiesce, creds := 0, discSeen := false }
    let s := ev s (portEv p 0)
    let s := doIf l.held (fun s => lockBroken s l) (modLock s p fun _ => .idle)
    let s := maskNote s (Fin.castLE (by decide) p)
    let s := withdrawAll s (Fin.castLE (by decide) p)
    let x := port s p
    let gone := x.wdBuf.length + x.rdBuf.length + x.cmpBuf.length + x.fences.length + x.nops.length
      + (x.due.map fun d => if hasBeat d.read d.code then 2 else 1).sum
    let s := modPort s p fun x => { x with
      wdBuf := [], wdWait := [], rdBuf := [], cmpBuf := [], due := [], fences := [], nops := [] }
    let s := doIf (decide (0 < gone)) (fun s => portDiscard s p gone) s
    let tags := tagsInside s p
    ttPump (waitPump (modPort s p fun x => { x with tags := tags }))
  else s

/-- FRP_LIVE_LOW. -/
def liveLow (s : State) (p : Fin 8) : State := portQuiesce (modPort s p fun x => { x with live := false }) p

def execFrpLiveLow (p : Fin 8) (s : State) : Host.Outcome State Fault Refusal := ok (liveLow s p)

/-- FRP_LIVE_HIGH. -/
def liveHigh (s : State) (p : Fin 8) : State := portUpTry (modPort s p fun x => { x with live := true }) p

def execFrpLiveHigh (p : Fin 8) (s : State) : Host.Outcome State Fault Refusal := ok (liveHigh s p)

/-- PORT_QUIESCE_DONE. -/
def quiesceDone (s : State) (p : Fin 8) : State :=
  if (port s p).mode = .quiesce ∧ (tagsInside s p).isEmpty then
    portUpTry (modPort s p fun x => { x with mode := .down, tags := [], places := 0 }) p
  else s

def execPortQuiesceDone (p : Fin 8) (s : State) : Host.Outcome State Fault Refusal := ok (quiesceDone s p)

/-- What a write of FRP.CTL does beyond its fields: en = 0 moves an UP port to QUIESCE, en = 1 lets a DOWN one come UP
(R69, R76). -/
def frpCtlEffect (s : State) (p : Fin 8) : State :=
  if rbit s (rFrpCtl p.val) 0 then portUpTry s p else portQuiesce s p

end Sys2Proof.Machine
end

