-- ==== Sys2Proof/Machine/Cure.lean ====
section
/-!
DEFINITION. Epochs, the mirror stream, the mirror states, and what is sent to the twin from local memory (R295 to R313,
R529).
-/
namespace Sys2Proof.Machine
open Sys2Proof

def modCure (s : State) (f : CureSt → CureSt) : State := { s with cure := f s.cure }

/-- The FENCED and RECOVERING channels are none. -/
def noFence (s : State) : Bool := allChans.all fun c => decide (s.cure.fence[c] = .inService)

/-- An outbound mirror connection is OPEN. -/
def outOpen (s : State) (k : Nat) : Bool := decide ((connOf s (8 + k)).mode = .opened)

/-- Every outbound mirror connection is OPEN. -/
def allOutOpen (s : State) : Bool := (List.range 8).all (outOpen s)

/-! MARKs (R298, R305). -/

/-- The earliest epoch of a mirrored write of outbound connection `8 + k` that has not been captured. -/
def uncaptured (s : State) (k : Nat) : Option (BitVec 32) :=
  (s.tt.filter fun t => !t.capt && decide (panelOf t.req.addr.toNat % 8 = k)).foldl (fun acc t =>
    match t.epoch, acc with
    | some e, some x => some (epMin x e)
    | some e, none => some e
    | none, x => x) none

/-- The newest closed epoch whose writes are all queued on a connection. -/
def markEpoch (s : State) (k : Nat) : BitVec 32 :=
  match uncaptured s k with
  | some e => epMin (s.cure.e - 1) (e - 1)
  | none => s.cure.e - 1

/-- A MARK queued on one connection, if the one before it has been acknowledged and a newer epoch has closed. -/
def markOne (s : State) (k : Fin 8) : State :=
  let e := markEpoch s k.val
  if mirrorOn s ∧ outOpen s k.val ∧ (s.cure.markOut[k]).isNone ∧ s.cure.resend.getLsbD k.val = false
      ∧ epLe e s.cure.markSent[k] = false then
    let s := modCure s fun x => { x with
      markOut := x.markOut.set k (some e)
      markSent := x.markSent.set k e }
    outPush s (8 + k.val) (segBare .write 5 0 0 e (.mark e))
  else s

/-- MARKs on every connection. -/
def markPump (s : State) : State := forEach (List.finRange 8) s markOne

/-! Epochs (R295, R296). -/

/-- EPOCH_STALL when the epoch window is reached. -/
def stallNote (s : State) : State :=
  if epochFull s then
    if s.cure.stallSeen then s else ev (modCure s fun x => { x with stallSeen := true }) 768
  else modCure s fun x => { x with stallSeen := false }

/-- E advances by one, unless the window is full; MARKs are queued and what its advance makes due completes. -/
def epochAdvance (s : State) : State :=
  if epochFull s then s
  else stallNote (curePump (markPump (modCure s fun x => { x with e := x.e + 1 })))

def execEpochAdvance (s : State) : Host.Outcome State Fault Refusal := ok (if s.beat.valid then epochAdvance s else s)

/-- A CURE_FENCE waits on the current epoch. -/
def fenceOnE (s : State) : Bool :=
  s.ports.toList.any fun p => p.fences.any fun f => f.waits.isEmpty && decide (fenceEpoch f = some s.cure.e)

def execFenceEpochAdvance (s : State) : Host.Outcome State Fault Refusal :=
  ok (if fenceOnE s then epochAdvance s else s)

/-- CUR.EPOCH_SET (R330): before Ready it sets E to v and Lc, T and C to v − 1; afterwards it is refused. -/
def epochSet (s : State) (mid : BitVec 12) (v : Word32) : State :=
  if isReady s then lockViolation s rCurEpochSet.off mid
  else
    let m : Vector (BitVec 32) 8 := Vector.replicate 8 (v - 1)
    let s : State := { s with fw := { s.fw with waitMir := s.fw.waitMir || decide (s.arm.mode = .running) } }
    modCure s fun x => { x with e := v, marks := m, markSent := m, cDet := v - 1 }

def execEpochSet (mid : BitVec 12) (v : Word32) (s : State) : Host.Outcome State Fault Refusal := ok (epochSet s mid v)

/-! Capture (R304). -/

/-- A segment of the stream queued; full lines of one epoch that follow one another are packed into one LINES segment. -/
def mirPush (s : State) (c : Nat) (g : OutSeg) : State :=
  let q := smGet [] s.cure.out c
  match q.getLast? with
  | some l =>
    if l.why = .mirror ∧ l.kind = 1 ∧ g.kind = 1 ∧ l.imm = g.imm ∧ l.addr.toNat + 64 * l.len = g.addr.toNat ∧ l.len < 64 then
      modCure s fun x => { x with out := smSet [] x.out c (q.dropLast ++ [{ l with len := l.len + 1, lines := l.lines ++ g.lines }]) }
    else outPush s c g
  | none => outPush s c g

/-- The Pending Table with a panel's epoch, by panel. -/
def pendPut (l : List (Nat × BitVec 32)) (p : Nat) (e : BitVec 32) : List (Nat × BitVec 32) :=
  if l.any (fun x => x.1 = p) then l.map fun x => if x.1 = p then (p, epMax x.2 e) else x
  else l.filter (fun x => x.1 < p) ++ [(p, e)] ++ l.filter (fun x => p < x.1)

/-- Pending Table entries whose epoch T has reached are freed. -/
def pendPump (s : State) : State :=
  let l := s.cure.pend.filter fun x => !epLe x.2 (curT s)
  modCure s fun x => { x with pend := l, pendSeen := x.pendSeen && decide (l.length = 16384) }

/-- Whether a write that waits to be captured can be: it is the oldest of its panel, its contents are known, and the mirror
buffer and the Pending Table have room. -/
def capReady (s : State) (t : TtEntry) : Bool :=
  let p := panelOf t.req.addr.toNat
  t.mir.isSome && decide (t.stage ≠ .fwdWait) && !panelAheadCapt s t.req.rid p

def capRoom (s : State) (t : TtEntry) : Bool :=
  decide (mirUsed s < 8192)
    && (decide (s.cure.pend.length < 16384) || s.cure.pend.any (fun x => x.1 = panelOf t.req.addr.toNat))

/-- A write waits for room: counted once, and PEND_FULL where the table is what is full. -/
def capBlocked (s : State) (t : TtEntry) : State :=
  let s := if t.req.rid ∈ s.cure.capWait then s
    else cntInc (modCure s fun x => { x with capWait := x.capWait ++ [t.req.rid] }) rCurPendWaitCnt
  let full : Bool := decide (s.cure.pend.length = 16384) && s.cure.pend.all fun x => decide (x.1 ≠ panelOf t.req.addr.toNat)
  if full ∧ s.cure.pendSeen = false then ev (modCure s fun x => { x with pendSeen := true }) 781 else s

/-- MIRROR_CAPTURE: the oldest write that can be captured; forwarded requests that waited for it, or for room, go on. -/
def mirrorCapture (s : State) : State :=
  let ready := s.tt.filter fun t => !t.capt && capReady s t
  let s := forEach (ready.filter fun t => !capRoom s t) s capBlocked
  match ready.find? (fun t => capRoom s t) with
  | some t =>
    let a := if t.req.op = .trim then t.req.addr.toNat else lineAddr t.req.addr.toNat
    let p := panelOf a
    let e := t.epoch.getD s.cure.e
    let s := match t.mir with
      | some m => mirPush s (mirConn p) (segMir a m e .mirror)
      | none => s
    let s := modCure s fun x => { x with
      pend := pendPut x.pend p e
      capWait := x.capWait.filter fun r => r ≠ t.req.rid }
    markPump (fwdPump (ttSettle (ttMod s t.req.rid fun x => { x with capt := true }) t.req.rid))
  | none => markPump (fwdPump s)

def execMirrorCapture (s : State) : Host.Outcome State Fault Refusal := ok (mirrorCapture s)

/-! Mirror states (R310). -/

/-- STALLED entered for a connection. -/
def enterStalled (s : State) (conn : Nat) : State :=
  evd (modCure s fun x => { x with mstate := .stalled, stallAck := 0 }) 769 (detail32 conn)

/-- TWIN_SILENT on outbound connection `8 + k`: its MARK has been outstanding for silent_us, and none is acknowledged in this
FCLK (R22). -/
def twinSilent (s : State) (k : Fin 8) : State :=
  if s.cure.mstate = .mirrored ∧ (s.cure.markOut[k]).isSome ∧ s.cure.markAt[k] ≠ some s.beat.fclk then enterStalled s (8 + k.val) else s

def execTwinSilent (k : Fin 8) (s : State) : Host.Outcome State Fault Refusal := ok (twinSilent s k)

/-- A MARK acknowledged (R298, R310). -/
def markAck (s : State) (k : Fin 8) (e : BitVec 32) : State :=
  let bit : BitVec 8 := (1 : BitVec 8) <<< k.val
  let s := modCure s fun x => { x with
    marks := x.marks.set k (epMax x.marks[k] e)
    markOut := x.markOut.set k none
    markAt := x.markAt.set k (some s.beat.fclk)
    attachAck := if epLe (x.attachE - 1) e then x.attachAck ||| bit else x.attachAck
    stallAck := x.stallAck ||| bit }
  let s := if s.cure.mstate = .stalled ∧ s.cure.stallAck = BitVec.allOnes 8 ∧ (List.range 8).all (fun k => !connErr s (8 + k)) then
      ev (modCure s fun x => { x with mstate := .mirrored }) 770
    else s
  stallNote (curePump (markPump (pendPump s)))

/-- What an engine's segment is no longer sent for in DEGRADED: the stream and its MARKs. -/
def ofStream (g : OutSeg) : Bool :=
  match g.why with
  | .mirror | .mark _ | .resend | .push _ _ => true
  | _ => false

/-- DEGRADED entered: the pending panels are stale, the stream ends, and what waits for C completes (R301, R310). -/
def enterDegraded (s : State) : State :=
  let c := curC s
  let late := (s.tt.filter fun t => !t.capt).map fun t => panelOf t.req.addr.toNat
  let s := forEach (s.cure.pend.map Prod.fst ++ late) s staleSet
  let s : State := { s with tt := s.tt.map fun (t : TtEntry) => { t with capt := true } }
  let conns := (List.range 8).foldl (fun m k =>
    let x := smGet Conn.none m (8 + k)
    smSet Conn.none m (8 + k) { x with
      outst := x.outst.map fun o => if ofStream o.seg then { o with seg := { o.seg with why := .resend } } else o }) s.conns
  let s : State := { s with conns := conns }
  let s := modCure s fun x => { x with
    mstate := .degraded
    staleSide := true
    pend := []
    pendSeen := false
    capWait := []
    cD := c
    resend := 0
    pushWait := none
    markOut := Vector.replicate 8 none
    out := (List.range 8).foldl (fun m k => smSet [] m (8 + k) ((smGet [] m (8 + k)).filter fun g => !ofStream g)) x.out }
  let s := forEach s.tt (ev s 771) fun s t => ttSettle s t.req.rid
  stallNote (curePump (fwdPump s))

/-- CUR.CTL.degrade. -/
def curDegrade (s : State) : State :=
  if s.cure.mstate = .degraded then s
  else if noFence s then enterDegraded s
  else ev s 785

def execCurDegrade (s : State) : Host.Outcome State Fault Refusal := ok (curDegrade s)

/-- CUR.CTL.attach. -/
def curAttach (s : State) : State :=
  if s.cure.mstate = .detached ∨ s.cure.mstate = .degraded then
    if s.cure.staleSide ∧ noFence s = false then ev s 786
    else
      let s := modCure s fun x => { x with
        mstate := .attaching, attachE := x.e, attachAck := 0, stallAck := 0, pushPos := 0, pushWait := none
        markSent := Vector.replicate 8 (x.e - 2) }
      curePump (markPump s)
  else s

def execCurAttach (s : State) : Host.Outcome State Fault Refusal := ok (curAttach s)

/-- CUR.CTL.stale_side, writable in DETACHED only. -/
def staleSideWrite (s : State) (v : Bool) : State :=
  if s.cure.mstate = .detached then modCure s fun x => { x with staleSide := v } else s

def execStaleSideWrite (v : Bool) (s : State) : Host.Outcome State Fault Refusal := ok (staleSideWrite s v)

/-! Reading local memory for the twin (R306, R311, R529). -/

/-- What a decode leaves of a line: none uncorrectable; none within, poisoned. -/
def lineFrom (r : LineRes) : Option (Option LineData) :=
  match r.kind with
  | .uncorr => none
  | .poison => some none
  | _ => some (some r.data)

/-- A line as its channel holds it, DRAM and the writes on their way to it: none uncorrectable or on a fenced channel. -/
def dasNow (s : State) (d : Nat) : Option (Option LineData) :=
  let c := chanOf s d
  let k := posOf s d
  if s.cure.fence[c] = .fenced then none
  else
    let q := (chan s c).sch
    let put (x : Option (Option LineData)) (w : WrEnt) : Option (Option LineData) :=
      if w.das = d then lineFrom (decodeStored w.raw) else x
    let merge (x : Option (Option LineData)) (das : Nat) (mask : LineMask) (data : LineData) (poison full : Bool) :
        Option (Option LineData) :=
      if das ≠ d then x
      else if poison then some none
      else if full then some (some data)
      else x.map fun y => y.map fun z => mergeLine mask data z
    let x := q.wq.foldl put (lineFrom (decodeAt s c k none (memRaw s d k)))
    let x := q.glue.foldl (fun x g => merge x g.das g.mask g.data g.poison g.full) x
    q.arrive.foldl (fun x r =>
      match r.what with
      | .inr (.inl w) => put x w
      | .inr (.inr p) => merge x p.das p.mask p.data p.poison p.full
      | .inl _ => x) x

/-- One line as local memory holds it, the Veneer and its victim buffer first. -/
def readNow (s : State) (a : Nat) : Option (Option LineData) :=
  let d := decodeAddr s a
  let sl := sliceOf s d
  if s.cure.fence[chanOf s d] = .fenced then none
  else
    match findLine s sl (setOf s d) (a / 64), victOf s sl (a / 64) with
    | some l, _ => lineFrom (decodeStored l.raw)
    | none, some v => lineFrom (decodeStored v.raw)
    | none, none => dasNow s d

/-- The lines of a panel that hold data, each with what local memory holds, or for a panel that is not LOCAL what its lender
answered (`far`, by LMS line number). -/
def panelLines (s : State) (p : Nat) (far : List (Nat × LineData)) : List (Nat × Option (Option LineData)) :=
  (List.range 1024).filterMap fun n =>
    let a := p * 65536 + 64 * n
    if lineBlank s a then none
    else some (n, if (dasOf s a).isSome then readNow s a
      else ((far.find? fun x => x.1 = a / 64).map fun x => some x.2))

/-- Lines that follow one another, 64 at most in one run. -/
def runsOf : List (Nat × Option (Option LineData)) → List (Nat × List (Option LineData))
  | [] => []
  | (n, x) :: rest =>
    match runsOf rest with
    | (m, xs) :: more => if n + 1 = m ∧ xs.length < 64 then (n, x.join :: xs) :: more else (n, [x.join]) :: (m, xs) :: more
    | [] => [(n, [x.join])]

/-- A run as a LINES segment, or LINES_MARKED where a line of it cannot go as data (R305). -/
def segRun (p : Nat) (e : BitVec 32) (r : Nat × List (Option LineData)) (why : Why) : OutSeg :=
  segLines (if r.2.all Option.isSome then 1 else 6) (p * 65536 + 64 * r.1) r.2 e why

/-- MIRROR_POISON_SENT for each uncorrectable line (R306). -/
def poisonSent (s : State) (p : Nat) (ls : List (Nat × Option (Option LineData))) : State :=
  forEach (ls.filter fun x => x.2.isNone) s fun s x =>
    let a := p * 65536 + 64 * x.1
    evo s 787 (detail64 a) { EvtOrigin.none with kind := .lms, addr := BitVec.ofNat 64 a }

/-- The segments that make the twin's copy of a panel what the local copy holds: the lines of a written panel, a TRIM and
the valid lines of a filling one, a TRIM of a blank one. -/
def panelSegs (s : State) (p : Nat) (e : BitVec 32) (far : List (Nat × LineData)) (why : Why) : List OutSeg × State :=
  let ls := panelLines s p far
  let segs := (runsOf ls).map fun r => segRun p e r why
  let trim := segBare .write 4 (p * 65536) 0 e why
  ((if (fillOf s p).isSome || panelBlank s p then trim :: segs else segs), poisonSent s p ls)

/-- A panel's lines can be read for the twin: a panel operation, which waits for the earlier accesses of the panel (R97), and
whose reads admission takes. -/
def panelMay (s : State) (p : Nat) : Bool :=
  !panelBusy s p s.adm.nextRid && (List.range 1024).all fun n =>
    lineBlank s (p * 65536 + 64 * n) || engineMay s 18 (p * 65536 + 64 * n)

/-- The reads of a panel's lines by Casting, counted as admitted. -/
def panelReads (s : State) (p : Nat) : State :=
  forEach ((List.range 1024).map fun n => p * 65536 + 64 * n) s fun s a => if lineBlank s a then s else engineRead s 18 a

/-! The attach push (R311). -/

/-- The first panel at or after `p`, below `top`, whose bit is set. -/
def bitScan (m : FMap Bool) (top : Nat) : Nat → Nat → Option Nat
  | 0, _ => none
  | fuel + 1, p => if top ≤ p then none else if fmGet m p then some p else bitScan m top fuel (p + 1)

/-- The next panel whose Stale Map bit is set. -/
def nextStale (s : State) (p : Nat) : Option Nat :=
  if s.map.stale.fill then bitScan s.map.stale (mapPanels s) (s.map.stale.ex.length + 1) p
  else ((s.map.stale.ex.find? fun e => decide (p ≤ e.1) && e.2).map Prod.fst)

/-- The segments of a panel's push are buffered, the last marked as such; a panel without lines is pushed at once (R310). -/
def pushSend (p : Nat) (x : List OutSeg × State) : State :=
  let s := forEach x.1.dropLast (cntAdd x.2 rCurPushLineCnt (x.1.map fun g => g.lines.length).sum) fun s g => outPush s (mirConn p) g
  match x.1.getLast? with
  | some g => modCure (outPush s (mirConn p) { g with why := .push p true }) fun x => { x with pushPos := p, pushWait := some p }
  | none => modCure (staleClear s p) fun x => { x with pushPos := p, pushWait := none }

/-- One more panel sent again, after those of `acc`. -/
def resendStep (far : List (Nat × LineData)) (acc : List OutSeg × State) (x : Nat × Word32) : List OutSeg × State :=
  let g := panelSegs (panelReads acc.2 x.1) x.1 x.2 far .resend
  (acc.1 ++ g.1, g.2)

/-- The panels of a connection sent again: their segments, and the state after their reads. -/
def resendSegs (s : State) (ps : List (Nat × Word32)) (far : List (Nat × LineData)) : List OutSeg × State :=
  ps.foldl (resendStep far) ([], s)

/-- ATTACH_PUSH: the next stale panel is sent, unless one waits for its acknowledgements, a connection is not OPEN, the panel is
being moved or has accesses under way, or admission takes no read of Casting. -/
def attachPush (s : State) (far : List (Nat × LineData)) : State :=
  if s.cure.mstate = .attaching ∧ s.cure.staleSide ∧ s.cure.pushWait.isNone ∧ allOutOpen s then
    match nextStale s s.cure.pushPos with
    | some p =>
      if panelMoving s p || !panelMay s p then s
      else
        pushSend p (panelSegs (panelReads s p) p (s.cure.attachE - 1) far (.push p false))
    | none => modCure s fun x => { x with pushPos := 0 }
  else s

def execAttachPush (far : List (Nat × LineData)) (s : State) : Host.Outcome State Fault Refusal := ok (attachPush s far)

/-- The last segment of a pushed panel has been acknowledged. -/
def pushAck (s : State) (p : Nat) : State :=
  if s.cure.pushWait = some p then
    modCure (staleClear s p) fun x => { x with pushWait := none, pushPos := p + 1 }
  else s

/-- MIRROR_ATTACHED: the push is complete. -/
def mirrorAttached (s : State) : State :=
  let done := if s.cure.staleSide then s.cure.pushWait.isNone && (nextStale s 0).isNone
    else decide (s.cure.attachAck = BitVec.allOnes 8)
  if s.cure.mstate = .attaching ∧ done then
    let s : State := { s with conns := (s.conns.map fun e => (e.1, { e.2 with degr := false })).filter fun e => e.2 ≠ Conn.none }
    curePump (ev (modCure s fun x => { x with mstate := .mirrored, staleSide := false }) 772)
  else s

def execMirrorAttached (s : State) : Host.Outcome State Fault Refusal := ok (mirrorAttached s)

/-! Re-sending after an Error (R529). -/

/-- An outbound mirror connection enters ERROR (R310, R311, R529): STALLED from MIRRORED, its MARK and push are lost, and its
pending panels are to be sent again. -/
def mirrorLost (s : State) (k : Fin 8) : State :=
  let s := if s.cure.mstate = .mirrored then enterStalled s (8 + k.val) else s
  modCure s fun x => { x with
    markOut := x.markOut.set k none
    markSent := x.markSent.set k x.marks[k]
    stallAck := 0
    pushWait := none
    resend := if x.mstate = .degraded ∨ x.mstate = .detached then x.resend else x.resend ||| ((1 : BitVec 8) <<< k.val) }

/-- MIRROR_RESEND: the Pending Table panels of a connection that is OPEN again, before its buffered segments. -/
def mirrorResend (s : State) (k : Fin 8) (far : List (Nat × LineData)) : State :=
  let ps := (s.cure.pend.filter fun x => x.1 % 8 = k.val).map Prod.fst
  if s.cure.resend.getLsbD k.val ∧ outOpen s k.val ∧ mirrorOn s ∧ ps.all (panelMay s) then
    let x := resendSegs s (s.cure.pend.filter fun x => x.1 % 8 = k.val) far
    let c := 8 + k.val
    let segs := x.1
    markPump (modCure x.2 fun x => { x with
      out := smSet [] x.out c (segs ++ smGet [] x.out c)
      resend := x.resend &&& ~~~ ((1 : BitVec 8) <<< k.val) })
  else s

def execMirrorResend (k : Fin 8) (far : List (Nat × LineData)) (s : State) : Host.Outcome State Fault Refusal :=
  ok (mirrorResend s k far)

end Sys2Proof.Machine
end

