-- ==== Sys2Proof/Machine/Fence.lean ====
section
/-!
DEFINITION. Channel fences, unfencing and Recast (R314 to R321).
-/
namespace Sys2Proof.Machine
open Sys2Proof

/-! Fencing (R314, R315). -/

/-- CUR.FENCE_CMD with op fence: done where the channel exists. A fence of a channel that is not in service is ignored. -/
def fenceCmd (s : State) (c : Fin 16) : State :=
  let s := setFld (setFld s rCurFenceCmd 5 4 0) rCurFenceCmd 3 0 c.val
  let s := modCure s fun x => { x with cmdRes := 1 }
  fenceIfInService s c 4

def execFenceCmdFence (c : Fin 16) (s : State) : Host.Outcome State Fault Refusal := ok (fenceCmd s c)

/-- A DAS line belongs to a channel. -/
def onChan (s : State) (c : Fin 16) (das : Nat) : Bool := decide (chanOf s das = c)

/-- The access a queue entry reads for, if a TT entry waits on it directly. -/
def destRid : RdDest → Option Nat
  | .tt rid | .scrub rid _ | .diag rid _ | .raw rid => some rid
  | _ => none

/-- The accesses whose reads of the channel are outstanding: read queue entries and reads on the way to it, reads in flight,
and every access waiting in a miss buffer entry of the channel's lines. -/
def fencedReads (s : State) (c : Fin 16) : List Nat :=
  let q := (chan s c).sch
  let arr := q.arrive.filterMap fun a => match a.what with
    | .inl e => destRid e.dest
    | .inr _ => none
  let miss := (allChans.map fun sl => (s.vnr.slices[sl].miss.filter fun m => (m.das.map (onChan s c)).getD false).map fun m =>
    m.waits.map fun w => w.rid).flatten.flatten
  q.rq.filterMap (fun e => destRid e.dest) ++ q.flight.filterMap (fun f => destRid f.ent.dest) ++ arr ++ miss

/-- A write of a channel that a fence discards: its panel is stale at the local side, or the line is lost (R315). A Reserve
line is counted (R317). -/
def lineLost (s : State) (das : Nat) : State :=
  match lmsOfDas s das with
  | some a =>
    if mirrorOn s && mirroredAt s a then staleSet s (panelOf a)
    else evo s 779 (detail64 (lineAddr a)) { EvtOrigin.none with kind := .lms, addr := BitVec.ofNat 64 (lineAddr a) }
  | none => if rsvBase s ≤ das then cntInc s rCurRsvDropCnt else s

/-- The lines of the writes a channel's scheduler holds, oldest stage first: write queue, Glue-up buffer, replay log and
writes on the way to a queue. -/
def heldWrites (s : State) (c : Fin 16) : List Nat :=
  let q := (chan s c).sch
  let log := (liveLog s c).filterMap fun e => match e.cmd with
    | .inr w => some w.das
    | .inl _ => none
  let arr := q.arrive.filterMap fun a => match a.what with
    | .inl _ => none
    | .inr (.inl w) => some w.das
    | .inr (.inr p) => some p.das
  log ++ q.wq.map (fun w => w.das) ++ q.glue.map (fun g => g.das) ++ arr

/-- TT entries of the writes on the way to a queue. -/
def arrivingRids (s : State) (c : Fin 16) : List Nat :=
  (chan s c).sch.arrive.filterMap fun a => match a.what with
    | .inl _ => none
    | .inr _ => a.rid

/-- Victim buffer entries of a channel's lines, discarded. -/
def victimsDrop (s : State) (c : Fin 16) : State :=
  let s := forEach ((allChans.map fun sl => (s.vnr.slices[sl].vict.filter fun v => onChan s c v.das).map fun v => v.das).flatten)
    s lineLost
  forEach allChans s fun s sl => modSlice s sl fun x => { x with vict := x.vict.filter fun v => !onChan s c v.das }

/-- An access served as a request for a fenced channel (R316, R317). -/
def serveFenced (s : State) (rid : Nat) : State :=
  match ttFind s rid with
  | some t => if reqAperture t.req then apertureServe s t else serveTwin s rid
  | none => s

/-- Row copy, post-package repair and diagnostic pass of a fenced channel end (R265, R315). -/
def repairsStop (s : State) (c : Fin 16) : State :=
  modCode s c fun x => { x with
    copy := none
    ppr := none
    diag := none
    diagRes := if x.diag.isSome then 3 else x.diagRes }

/-- A channel in service is fenced (R315). -/
def fenceChan (s : State) (c : Fin 16) (code evt : Nat) : State :=
  let s := if s.cure.mstate = .attaching ∧ s.cure.staleSide then enterDegraded s else s
  let s := modCure s fun x => { x with fence := x.fence.set c .fenced, sweep := x.sweep.set c true }
  let s := evd s 773 [BitVec.ofNat 32 c.val, BitVec.ofNat 32 code, BitVec.ofNat 32 evt]
  let s := lockFence s c
  let reads := fencedReads s c
  let writes := heldWrites s c
  let left := arrivingRids s c
  let s := forEach writes s lineLost
  let s := victimsDrop s c
  let s := modSch s c fun q => { q with
    arrive := []
    rq := []
    wq := []
    glue := []
    flight := []
    log := []
    breakA := none
    breakB := none
    wrNowA := none
    wrNowB := none
    banks := q.banks.map fun e => (e.1, { e.2 with strict := false }) }
  let s := forEach allChans s fun s sl => modSlice s sl fun x => { x with
    miss := x.miss.filter fun m => !(m.das.map (onChan s c)).getD false }
  let s := modCure (repairsStop s c) fun x => { x with repairs := x.repairs.filter fun r => !onChan s c r.das }
  let s := forEach left s fun s rid => ttLeave s rid none
  let s := forEach ((s.tt.filter fun t => t.req.rid ∈ reads).map fun t => t.req.rid) s serveFenced
  stallNote (curePump s)

/-- CH_FENCED: the channel's oldest trigger takes effect; a fence of a channel that is not in service is ignored (R314). -/
def chFenced (s : State) (c : Fin 16) : State :=
  match s.evt.trigs.find? fun t => t.chan = c with
  | some t =>
    let s := { s with evt := { s.evt with trigs := s.evt.trigs.filter fun x => x.chan ≠ c } }
    if s.cure.fence[c] = .inService ∧ c.val < chanCount s then fenceChan s c t.code t.evt else s
  | none => s

def execChFenced (c : Fin 16) (s : State) : Host.Outcome State Fault Refusal := ok (chFenced s c)

/-- The fence sweep invalidates every line of the channel; each dirty one is handled as a write queue entry (R315). -/
def sweepSlice (s : State) (c : Fin 16) (sl : Fin 16) : State :=
  forEach ((s.vnr.slices[sl].sets.map fun e => (e.2.filterMap wayLine).map fun l => (e.1, l)).flatten) s fun s x =>
    match x.2.das with
    | some das =>
      if onChan s c das then
        let s := doIf x.2.dirty (fun s => lineLost s das) s
        putLine s sl x.1 x.2.tag none
      else s
    | none => s

/-- FENCE_SWEEP_DONE. -/
def fenceSweepDone (s : State) (c : Fin 16) : State :=
  if s.cure.sweep[c] then
    let s := victimsDrop (forEach allChans s fun s sl => sweepSlice s c sl) c
    overUpd (modCure s fun x => { x with sweep := x.sweep.set c false })
  else s

def execFenceSweepDone (c : Fin 16) (s : State) : Host.Outcome State Fault Refusal := ok (fenceSweepDone s c)

/-! Unfencing (R319). -/

/-- The lines of a map of the Reserve that lie on a channel, by number. -/
def mapLinesOn (s : State) (c : Fin 16) (comp : Nat) : List Nat :=
  (List.range (compSize s comp / 64)).filter fun i => onChan s c (compBase s comp + 64 * i)

/-- Stage 1: every Blank Map line of the channel with all bits 0, every Stale Map line of it with all bits 1. -/
def mapsRewrite (s : State) (c : Fin 16) : State :=
  let s := forEach (mapLinesOn s c 0) s fun s i => forEach (List.range 512) s fun s k => setBlank s (512 * i + k) false
  forEach (mapLinesOn s c 1) s fun s i => forEach (List.range 512) s fun s k => staleSet s (512 * i + k)

/-- Stage 2, with unfence-full: every panel of a mirrored region whose Blank Map bit is 0 is stale. -/
def fullStale (s : State) : State :=
  forEach (List.range (mapPanels s)) s fun s p =>
    if fmGet s.map.blank p = false ∧ mirroredAt s (p * 65536) then staleSet s p else s

/-- At RECOVERING in Tiered mode the reference firmware rebuilds the Placement Map lines of the channel (R355): each panel that
is not blank is LOCAL in a frame of TIR.FRAME_CMD. A panel without a frame above the floor keeps its entry. -/
def placeRebuild (s : State) (c : Fin 16) : State :=
  if tiered s && decide (s.arm.mode = .running) then
    forEach (mapLinesOn s c 2) s fun s i => forEach (List.range 8) s fun s k =>
      let p := 8 * i + k
      if mapPanels s ≤ p then s
      else if fmGet s.map.blank p then pmapSet s p 0
      else if frameFloor s < framesFree s then
        match frameTake s with
        | some (f, s) => pmapSet (modTier s fun t => { t with frameRes := 1, frameVal := f }) p (pePut 0 1 (deviceId s) f)
        | none => s
      else s
  else s

/-- CUR.FENCE_CMD with op unfence-stale or unfence-full. From PFAIL_N low the command is ignored (R329). -/
def unfence (s : State) (c : Fin 16) (full : Bool) : State :=
  let s := setFld (setFld s rCurFenceCmd 5 4 (if full then 2 else 1)) rCurFenceCmd 3 0 c.val
  let res (s : State) (n : BitVec 3) : State := modCure s fun x => { x with cmdRes := n }
  let trained : Bool := decide ((chan s c).phy.train = .trained)
  if inDrain s then s
  else if s.cure.fence[c] ≠ .fenced ∨ s.cure.sweep[c] ∨ !trained then res s 2
  else if s.cure.mstate = .mirrored ∧ s.cure.recast.isNone then
    let s := placeRebuild (mapsRewrite s c) c
    let s := doIf full fullStale s
    ev (res (modCure s fun x => { x with fence := x.fence.set c .recovering, recast := some ⟨c, 0, full, none⟩ }) 1) 774
  else if !full ∧ (s.cure.mstate = .degraded ∨ (s.cure.mstate = .detached ∧ s.cure.staleSide)) then
    ev (res (modCure s fun x => { x with fence := x.fence.set c .inService }) 1) 775
  else res s 2

def execUnfenceStale (c : Fin 16) (s : State) : Host.Outcome State Fault Refusal := ok (unfence s c false)
def execUnfenceFull (c : Fin 16) (s : State) : Host.Outcome State Fault Refusal := ok (unfence s c true)

/-! Recast (R320, R321). -/

/-- The first number from `p` below `top` that meets a test. -/
def scanFor (f : Nat → Bool) (top : Nat) : Nat → Nat → Option Nat
  | 0, _ => none
  | fuel + 1, p => if top ≤ p then none else if f p then some p else scanFor f top fuel (p + 1)

/-- The next panel of the walk: stale and in a mirrored region. -/
def recastNext (s : State) (p : Nat) : Option Nat :=
  let want (q : Nat) : Bool := mirroredAt s (q * 65536)
  if s.map.stale.fill then scanFor (fun q => staleBit s q && want q) (mapPanels s) (mapPanels s) p
  else (s.map.stale.ex.find? fun e => decide (p ≤ e.1) && e.2 && want e.1).map Prod.fst

/-- The lines of a panel on a channel, by LMS line address. -/
def panelLinesOn (s : State) (c : Fin 16) (p : Nat) : List Nat :=
  ((List.range 1024).map fun n => p * 65536 + 64 * n).filter fun a =>
    match dasOf s a with
    | some d => onChan s c (lineAddr d)
    | none => false

/-- One line of the twin's answer presented by a Rasp engine: a masked line poisoned, its data open. Each engine takes units of
16 lines (R252, R320). -/
def recastLine (s : State) (k a : Nat) (ans : Option LineData) : State :=
  match (dasOf s a).map lineAddr with
  | some das =>
    let eng := k / 16 % 4
    let put (s : State) (d : LineData) : State :=
      engPut s 17 eng (BitVec.ofNat 12 (0x805 + eng)) .wrLine (apertureAddr das) d .drop (.rasp (.recast das))
    match ans with
    | some d => put s d
    | none =>
      let (v, s) := drawFree 512 s
      let s := put s v
      modWait s (s.adm.nextRid - 1) fun r => { r with poison := true }
  | none => s

/-- RECAST_PANEL: the walk copies its next panel, where every outbound connection is OPEN, the panel is not being moved, and the
channel is in RUN (R165). `lines` are the twin's answers for the panel's lines on the channel, in ascending order. -/
def recastPanel (s : State) (lines : List (Option LineData)) : State :=
  match s.cure.recast with
  | some r =>
    match recastNext s r.next with
    | some p =>
      if r.panel.isSome || decide ((chan s r.chan).sch.hold ≠ .run) then s
      else if allOutOpen s && !panelMoving s p && !inDrain s then
        let todo := panelLinesOn s r.chan p
        let s := modCure s fun x => { x with recast := some { r with next := p, panel := some p } }
        let s := (todo.zip (List.range todo.length)).foldl (fun s x => recastLine s x.2 x.1 (lines.getD x.2 none)) s
        recastNote s
      else modCure s fun x => { x with recast := some { r with next := p } }
    | none => modCure s fun x => { x with recast := some { r with next := mapPanels s } }
  | none => s

def execRecastPanel (lines : List (Option LineData)) (s : State) : Host.Outcome State Fault Refusal := ok (recastPanel s lines)

/-- RECAST_DONE: the walk has ended. -/
def recastDone (s : State) : State :=
  match s.cure.recast with
  | some r =>
    if (recastNext s r.next).isNone && r.panel.isNone && decide ((chan s r.chan).sch.hold = .run) then
      let s := modCure s fun x => { x with fence := x.fence.set r.chan .inService, recast := none }
      ev (ev s 776) 775
    else s
  | none => s

def execRecastDone (s : State) : Host.Outcome State Fault Refusal := ok (recastDone s)

end Sys2Proof.Machine
end

