-- ==== Sys2Proof/Machine/Tier.lean ====
section
/-!
DEFINITION. Neighbours, moves between local and lent frames, and the demotion hand (R337 to R349).
-/
namespace Sys2Proof.Machine
open Sys2Proof

/-! Neighbours (R348, R349, R353). -/

def modNbr (s : State) (j : Fin 32) (f : NbrSt → NbrSt) : State :=
  modTier s fun t => { t with nbrs := t.nbrs.set j (f t.nbrs[j]) }

/-- TIR.NBR.en of a neighbour entry. -/
def nbrOn (s : State) (j : Fin 32) : Bool := rbit s (rTirNbr j.val) 63

/-- Some lending connection of a neighbour is in ERROR. -/
def nbrErr (s : State) (j : Fin 32) : Bool := (List.range 8).any fun k => connErr s (lendConn s j k)

/-- A neighbour's lender is lost: accesses that wait for a lending slot to it are served from the twin (R353). -/
def nbrLostServe (s : State) : State :=
  forEach (s.tt.filter fun t => decide (t.stage = .slotWait) && lenderLost s (panelOf t.req.addr.toNat)) s fun s t =>
    serveTwin s t.req.rid

/-- A neighbour entry's state takes the value its conditions give (R348). -/
def nbrUpdate (s : State) (j : Fin 32) : State :=
  let old := s.tier.nbrs[j].mode
  let far : Bool := decide (fld s rTirNlb 15 0 * 1000 < 16 * s.tier.nbrs[j].rtt)
  let new : NbrMode :=
    if !nbrOn s j then .off
    else if old = .lost ∨ nbrErr s j then .lost
    else if far then .far
    else .ok
  if new = old then s
  else
    let s := modNbr s j fun n => { n with mode := new }
    match new with
    | .off => s
    | .ok => evd s 845 (detail32 j.val)
    | .far => evd s 843 (detail32 j.val)
    | .lost => nbrLostServe (evd s 844 (detail32 j.val))

/-- The running average of a neighbour's round trip takes a sample, in 16 ns units; it saturates. -/
def rttSample (s : State) (j : Fin 32) (x : Nat) : State :=
  modNbr s j fun n => { n with rtt := min 65535 ((7 * n.rtt + x) / 8) }

/-- NBR_STATE_CHANGE: a sample is taken, if one came, and the entry's state is set. -/
def nbrStateChange (s : State) (j : Fin 32) (sample : Option (BitVec 16)) : State :=
  let s := match sample with
    | some x => if nbrOn s j then rttSample s j x.toNat else s
    | none => s
  nbrUpdate s j

def execNbrStateChange (j : Fin 32) (sample : Option (BitVec 16)) (s : State) : Host.Outcome State Fault Refusal :=
  ok (nbrStateChange s j sample)

/-- NBR_RTT_PROBE: a read of line 0 of the grant's header frame, where the neighbour has seen no lending read for 1 ms of
Beat. `frame` is the header frame of the grant at the lender. -/
def nbrProbe (s : State) (j : Fin 32) (frame : BitVec 28) : State :=
  if nbrOn s j ∧ s.tier.nbrs[j].mode ≠ .lost ∧ s.tier.nbrs[j].rdAt + 1000000 ≤ beatNs s then
    let s := modNbr s j fun n => { n with rdAt := beatNs s }
    outPush s (lendConn s j 0) (segBare .readReq 1 (frame.toNat * 65536) 1 0 .probe)
  else s

def execNbrRttProbe (j : Fin 32) (frame : BitVec 28) (s : State) : Host.Outcome State Fault Refusal := ok (nbrProbe s j frame)

/-- A neighbour can take a demotion: OK, and its last ALLOC not refused within 1 ms (R349). -/
def nbrEligible (s : State) (j : Fin 32) : Bool :=
  let n := s.tier.nbrs[j]
  decide (n.mode = .ok) && match n.nakAt with
    | some b => decide (b + 1000000 ≤ beatNs s)
    | none => true

/-- The eligible neighbour of lowest round trip, the lowest index on ties, but for those already tried. -/
def nbrBest (s : State) (tried : List (Fin 32)) : Option (Fin 32) :=
  ((List.finRange 32).filter fun j => nbrEligible s j && !tried.contains j).foldl (fun (acc : Option (Fin 32)) j =>
    match acc with
    | some b => if s.tier.nbrs[j].rtt < s.tier.nbrs[b].rtt then some j else some b
    | none => some j) none

/-! Move records (R340, R345). -/

def moveOf (s : State) (p : Nat) : Option MoveRec := s.tier.moves.find? fun m => m.panel = p

def modMove (s : State) (p : Nat) (f : MoveRec → MoveRec) : State :=
  modTier s fun t => { t with moves := t.moves.map fun m => if m.panel = p then f m else m }

def dropMove (s : State) (p : Nat) : State := modTier s fun t => { t with moves := t.moves.filter fun m => m.panel ≠ p }

/-- Records of an engine in use, of its four. -/
def engMoves (s : State) (e : Fin 4) : Nat := s.tier.moves.countP fun m => decide (m.eng = e)

/-- An engine with a free record. -/
def moveRoom (s : State) : Option (Fin 4) := (List.finRange 4).find? fun e => decide (engMoves s e < 4)

/-- A decision recorded for an engine. -/
def moveAdd (s : State) (p : Nat) (e : Fin 4) (d : MoveDec) : State :=
  let s := modTier s fun t => { t with moves := t.moves ++
    [{ num := s.adm.nextRid, panel := p, up := d.up, who := d.who, eng := e, stage := .decided, pick := d.nbr, tried := []
       left := [], acks := [], lframe := 0, nbr := 0, rframe := 0, defer := none }] }
  { s with adm := { s.adm with nextRid := s.adm.nextRid + 1 } }

/-- A decision for a panel being moved becomes the record's deferred one; a policy decision does not replace a jig's. -/
def deferMove (s : State) (p : Nat) (d : MoveDec) : State :=
  modMove s p fun m => match m.defer with
    | some ⟨_, .jig _, _⟩ => if d.who = .policy then m else { m with defer := some d }
    | _ => { m with defer := some d }

/-- A panel's ledger entry has a jig bit. -/
def jigBit (s : State) (p : Nat) : Bool := ((heatFind s p).map fun e => e.jig.isSome).getD false

/-- A LOCAL panel meets the conditions of a demotion that are not its heat (R338). -/
def demotable (s : State) (p : Nat) : Bool :=
  decide (peState (pmapGet s p) = 1) && !jigBit s p && (fillOf s p).isNone

/-- A deferred decision still holds (R345). -/
def deferStands (s : State) (p : Nat) (d : MoveDec) : Bool :=
  let changes : Bool := if d.up then decide (peState (pmapGet s p) = 2) else decide (peState (pmapGet s p) = 1)
  match d.who with
  | .policy =>
    changes && if d.up then decide (fld s rTirThresh 31 16 ≤ heatOf s p)
      else decide (heatOf s p ≤ fld s rTirThresh 15 0) && !jigBit s p
  | _ => changes

/-- The reads of a move's copy are given up. -/
def copyDrop (s : State) (m : MoveRec) : State :=
  let mine (d : Dest) : Bool := match d with | .move n _ => decide (n = m.num) | _ => false
  { s with adm := { s.adm with wait := s.adm.wait.filter fun r => !mine r.dest }
           results := s.results.filter fun r => !mine r.dest }

/-- A move has ended: its deferred decision is re-evaluated, and what waited for the panel goes on. -/
def moveEnd (s : State) (m : MoveRec) : State :=
  let s := dropMove (copyDrop s m) m.panel
  let s := match m.defer with
    | some d => if deferStands s m.panel d then moveAdd s m.panel m.eng d else cntInc s rTirDeferCnt
    | none => s
  slotPump (panelPump s)

/-- A panel operation can run: no earlier access of the panel is at its Veneer stage and no TRIM of it waits (R97). -/
def panelFree (s : State) (p : Nat) : Bool := !panelBusy s p s.adm.nextRid && !s.map.trims.contains p

/-- A move may start: Tiered mode, no channel fenced or recovering, no drain (R340, R347). -/
def mayMove (s : State) : Bool := tiered s && noFence s && !inDrain s

/-! The copy of a move (R341 to R344). -/

/-- A request of a Joiner engine waits for admission. -/
def joinerReq (s : State) (e : Fin 4) (op : MemOp) (a : Nat) (data : LineData) (poison : Bool) (dest : Dest) (kind : ReqKind) :
    State :=
  let r : Req :=
    { rid := s.adm.nextRid, src := 16, eng := e.val, op := op, addr := BitVec.ofNat 48 a, mask := BitVec.allOnes 64,
      data := data, hasData := true, poison := poison, mid := BitVec.ofNat 12 (0x801 + e.val), qos := 0, rt := false,
      lock := false, lockEnd := false, pool := 0, dest := dest, kind := kind, since := none }
  { s with adm := { s.adm with wait := s.adm.wait ++ [r], nextRid := s.adm.nextRid + 1 } }

/-- The copy begins: the engine reads every line of the panel, from the Veneer or from the source copy as R42 says. -/
def copyBegin (s : State) (m : MoveRec) : State :=
  let s := modMove s m.panel fun x => { x with stage := .copy, left := List.range 1024, acks := [] }
  forEach (List.range 1024) s fun s n =>
    joinerReq s m.eng .rdLine (m.panel * 65536 + 64 * n) 0 false (.move m.num n) .access

/-- A line read for a copy goes to its destination: a frame access of the engine, or a lending write. A line that reads
poisoned is written poisoned. -/
def copyLineOut (s : State) (m : MoveRec) (n : Nat) (data : LineData) (poison : Bool) : State :=
  let s := modMove s m.panel fun x => { x with left := x.left.filter fun k => k ≠ n }
  if m.up then
    joinerReq s m.eng .wrLine (m.panel * 65536 + 64 * n) data poison .drop (.frame (m.lframe * 65536 + 64 * n) m.num)
  else
    let s := cntInc (modMove s m.panel fun x => { x with acks := x.acks ++ [n] }) rTirLendWrCnt
    outPush s (lendConn s m.nbr m.panel)
      (segLines 1 (m.rframe * 65536 + 64 * n) [if poison then none else some data] 0 (.copy m.num n))

/-- The lines read since go on. A read that ended in an error leaves its line uncopied; such a move is abandoned (R347). -/
def copyWork (s : State) (m : MoveRec) : State :=
  let line (d : Dest) : Option Nat := match d with | .move n k => if n = m.num then some k else none | _ => none
  let rs := s.results
  let s : State := { s with results := rs.filter fun r => (line r.dest).isNone }
  forEach rs s fun s r =>
    match line r.dest, r.code with
    | some n, .ok => copyLineOut s m n r.data false
    | some n, .poison => copyLineOut s m n 0 true
    | _, _ => s

/-! Promotion (R341). -/

/-- Steps 1 and 2: a local frame above the floor, the entry written MOVING_UP. -/
def promoteStart (s : State) (m : MoveRec) : State :=
  let p := m.panel
  let e := pmapGet s p
  match nbrOf s (peOwner e) with
  | none => s
  | some j =>
    if frameFloor s < framesFree s then
      match frameTake s with
      | some (f, s) =>
        let s := pmapSet (modMove s p fun x => { x with lframe := f, nbr := j, rframe := peFrame e }) p
          (pePut e 3 (peOwner e) (peFrame e))
        copyBegin s m
      | none => s
    else s

/-- The jig field of a panel's ledger entry set; an absent entry is inserted at promote_heat (R358). -/
def jigMark (s : State) (p : Nat) (e : Fin 4) : State :=
  let l := smGet [] s.tier.heat (heatSet p)
  if (heatFind s p).isSome then
    putHeat s p (l.map fun x => if x.tag = heatTag p then { x with jig := some e } else x)
  else
    match heatPut l ⟨heatTag p, fld s rTirThresh 31 16, some e⟩ with
    | some l => putHeat s p l
    | none => cntInc s rTirHeatDropCnt

/-- The panel a jig engine's Local step stages next: the next of its range, or, all of them taken, one whose promotion has been
given up. -/
def jigNext (s : State) (e : Fin 4) : Option Nat :=
  let g := s.tier.jigs[e]
  if g.busy && g.begun && !g.stop then
    match g.steps[g.step]? with
    | some x =>
      if x.tgt ≠ 0 then none
      else if g.pos < x.count then some (x.panel + g.pos)
      else (((List.range x.count).map fun i => x.panel + i).find? fun p =>
        decide (peState (pmapGet s p) = 2) && (moveOf s p).isNone && !lenderLost s p)
    | none => none
  else none

/-- One panel of a jig engine's Local step (R358). In Flat mode it counts as staged. -/
def jigLocal (s : State) (e : Fin 4) (p : Nat) : State :=
  let count : Nat := ((s.tier.jigs[e].steps[s.tier.jigs[e].step]?).map fun x => x.count).getD 0
  let next (s : State) : State := modTier s fun t => { t with jigs := t.jigs.set e { t.jigs[e] with pos := min count (t.jigs[e].pos + 1) } }
  if !tiered s then next s
  else
    let d : MoveDec := ⟨true, .jig e, none⟩
    match peState (pmapGet s p) with
    | 0 => next s
    | 2 =>
      if (moveOf s p).isSome then next (jigMark s p e)
      else if engMoves s e < 4 then next (moveAdd (jigMark s p e) p e d) else s
    | 4 => next (jigMark (deferMove s p d) p e)
    | _ => next (jigMark s p e)

/-- PROMOTION: an engine takes the next panel of its jig step, or starts a promotion decided, or takes the next panel of the
promotion queue (R337, R345). A policy promotion without a frame above the floor is dropped (R333). -/
def promotion (s : State) (e : Fin 4) : State :=
  match jigNext s e with
  | some p => jigLocal s e p
  | none =>
    if mayMove s then
      match s.tier.moves.find? fun m => decide (m.eng = e) && decide (m.stage = .decided) && m.up && panelFree s m.panel with
      | some m =>
        if peState (pmapGet s m.panel) = 2 ∧ !lenderLost s m.panel then promoteStart s m else dropMove s m.panel
      | none =>
        match s.tier.promoQ with
        | p :: rest =>
          let drop (s : State) : State := modTier s fun t => { t with promoQ := rest }
          let d : MoveDec := ⟨true, .policy, none⟩
          if panelMoving s p then drop (deferMove s p d)
          else if peState (pmapGet s p) ≠ 2 ∨ lenderLost s p ∨ (moveOf s p).isSome then drop s
          else if !panelFree s p ∨ 4 ≤ engMoves s e then s
          else if framesFree s ≤ frameFloor s then drop s
          else
            let s := moveAdd (drop s) p e d
            match moveOf s p with
            | some m => promoteStart s m
            | none => s
        | [] => s
    else s

def execPromotion (e : Fin 4) (s : State) : Host.Outcome State Fault Refusal := ok (promotion s e)

/-! Demotion (R338, R342). -/

/-- The hand passes a panel. -/
def handOn (s : State) : State :=
  modTier s fun t => { t with hand := if mapPanels s ≤ t.hand + 1 then 0 else t.hand + 1 }

/-- DEMOTION_HAND_STEP. `mapErr` is what the cells and the link add to a read of the Placement Map line. -/
def handStep (s : State) (mapErr : RawLine) : State :=
  if mayMove s && rbit s rTirCtl 30 && decide (framesFree s < 2 * frameFloor s) && decide (0 < mapPanels s) then
    let some' := (nbrBest s []).isSome
    if s.tier.handOff && !some' then s
    else
      let s := modTier s fun t => { t with handOff := false }
      let p := s.tier.hand
      let s := mapLookup s (p * 65536) mapErr
      if demotable s p && decide (heatOf s p ≤ fld s rTirThresh 15 0) && (moveOf s p).isNone then
        if !some' then ev (modTier s fun t => { t with handOff := true }) 842
        else
          match moveRoom s with
          | some e => handOn (moveAdd s p e ⟨false, .policy, none⟩)
          | none => s
      else if panelMoving s p ∧ heatOf s p ≤ fld s rTirThresh 15 0 ∧ !jigBit s p then
        handOn (deferMove s p ⟨false, .policy, none⟩)
      else handOn s
  else s

def execDemotionHandStep (mapErr : RawLine) (s : State) : Host.Outcome State Fault Refusal := ok (handStep s mapErr)

/-- ALLOC sent to the next eligible neighbour; none left, the decision is dropped (R342 step 2). -/
def allocSend (s : State) (m : MoveRec) : State :=
  let pick : Option (Fin 32) := match m.pick with
    | some j => if nbrEligible s j && !m.tried.contains j then some j else none
    | none => nbrBest s m.tried
  match pick with
  | some j =>
    outPush (modMove s m.panel fun x => { x with stage := .alloc, nbr := j }) (lendConn s j m.panel)
      (segBare .readReq 2 0 0 0 (.alloc m.num))
  | none => moveEnd s m

/-- The entry of a panel whose unwritten copy is at `r` becomes REMOTE there, and its frame is given back. -/
def remapTo (s : State) (m : MoveRec) (r : RetEnt) : State :=
  let e := pmapGet s m.panel
  let s := pmapSet s m.panel (pePut e 2 (fld s (rTirNbr r.nbr.val) 47 32) r.frame)
  moveEnd (cntInc (retDrop (frameGive s (peFrame e)) m.panel) rTirRemapCnt) m

/-- The remap once the panel's lines are being flushed: it ends when none of them is held any more, or when the Return Table
has lost the panel. -/
def remapGone (s : State) (m : MoveRec) : State :=
  match retFind s m.panel with
  | some r => if panelGone s m.panel then remapTo s m r else s
  | none => moveEnd s m

/-- Step 1 with a clean Return Table entry: the panel's lines are cleaned and invalidated, then the panel is remapped to the
copy its lender still holds. Its accesses wait in the decode meanwhile. -/
def remap (s : State) (m : MoveRec) : State :=
  remapGone (panelFlush (modMove s m.panel fun x => { x with stage := .remap }) m.panel) m

/-- DEMOTION: an engine starts a demotion decided: a remap, or ALLOC. -/
def demotion (s : State) (e : Fin 4) : State :=
  if mayMove s then
    match s.tier.moves.find? fun m => decide (m.eng = e) && decide (m.stage = .decided) && !m.up && panelFree s m.panel with
    | some m =>
      if peState (pmapGet s m.panel) = 1 ∧ (fillOf s m.panel).isNone then
        match retFind s m.panel with
        | some r => if r.dirty then allocSend (retFree s m.panel) m else remap s m
        | none => allocSend s m
      else dropMove s m.panel
    | none => s
  else s

def execDemotion (e : Fin 4) (s : State) : Host.Outcome State Fault Refusal := ok (demotion s e)

/-- The answer to an ALLOC: the lender's frame, or the next neighbour is asked. A frame nobody waits for goes back. -/
def allocAnswer (s : State) (num conn : Nat) (ans : SegAns) : State :=
  let give (f : Nat) : State :=
    if inDrain s then s else outPush s conn (segBare .write 3 0 0 (BitVec.ofNat 32 f) .free)
  match s.tier.moves.find? fun m => decide (m.num = num) && decide (m.stage = .alloc) with
  | some m =>
    let p := m.panel
    match ans with
    | .lines _ imm =>
      nbrUse (modMove s p fun x => { x with stage := .begin, rframe := imm.toNat % 2 ^ 28 }) m.nbr true
    | _ =>
      let s := modNbr s m.nbr fun n => { n with nakAt := some (beatNs s) }
      let s := modMove s p fun x => { x with tried := m.nbr :: x.tried }
      match moveOf s p with
      | some m => allocSend s m
      | none => s
  | none =>
    match ans with
    | .lines _ imm => give (imm.toNat % 2 ^ 28)
    | _ => s

/-- A lending write of a copy acknowledged (R342 step 5). -/
def copyAck (s : State) (num n : Nat) : State :=
  panelPump (modTier s fun t => { t with moves := t.moves.map fun m =>
    if m.num = num then { m with acks := m.acks.filter fun k => k ≠ n } else m })

/-- Lines of a list cut into runs of 16. -/
def chunks16 {α : Type} : Nat → List α → List (List α)
  | 0, _ => []
  | fuel + 1, xs => if xs.isEmpty then [] else xs.take 16 :: chunks16 fuel (xs.drop 16)

/-- Steps 3 and 4 of a demotion: the panel's lines cleaned and invalidated, then the entry written MOVING_DOWN, and the copy
begins. Accesses wait in the decode until the entry is written. -/
def demoteFlush (s : State) (m : MoveRec) : State :=
  let p := m.panel
  let s := panelFlush (modMove s p fun x => { x with stage := .flush }) p
  if panelGone s p then
    let e := pmapGet s p
    let s := pmapSet s p (pePut e 4 (deviceId s) (peFrame e))
    copyBegin (modMove s p fun x => { x with lframe := peFrame e }) m
  else s

/-! The ends of a move (R341, R342, R344). -/

/-- A frame access to a frame still waits for admission. -/
def frameWaiting (s : State) (f : Nat) : Bool :=
  s.adm.wait.any fun r => match r.kind with
    | .frame das _ => decide (das / 65536 = f)
    | _ => false

/-- A lending write of an access to the panel is not acknowledged. -/
def lendWaiting (s : State) (p : Nat) : Bool :=
  s.tt.any fun t => decide (t.stage = .lent) && decide (panelOf t.req.addr.toNat = p)

/-- Steps 5 and 6 of a promotion. -/
def promoteEnd (s : State) (m : MoveRec) : State :=
  let p := m.panel
  let s := panelDrop s p
  let s := pmapSet s p (pePut (pmapGet s p) 1 (deviceId s) m.lframe)
  moveEnd (cntInc (retInsert s ⟨p, m.nbr, m.rframe, false⟩) rTirPromoteCnt) m

/-- Step 6 of a demotion. -/
def demoteEnd (s : State) (m : MoveRec) : State :=
  let p := m.panel
  let s := pmapSet (panelDrop s p) p (pePut (pmapGet s p) 2 (fld s (rTirNbr m.nbr.val) 47 32) m.rframe)
  moveEnd (cntInc (frameGive s m.lframe) rTirDemoteCnt) m

/-- MOVE_STEP_DONE: the move of a panel goes on: a remap or step 3 of a demotion while write-backs of its lines are still to
enter the write queues; step 3 once the lender has given a frame and no earlier access is at its Veneer stage; a copy's lines as
they have been read. A copy ends once every line of it is written, every lending write to the lender acknowledged and every
frame access admitted. -/
def moveStepDone (s : State) (p : Nat) : State :=
  match moveOf s p with
  | some m =>
    match m.stage with
    | .remap => remap s m
    | .flush => if mayMove s then demoteFlush s m else s
    | .begin => if panelFree s p && mayMove s then demoteFlush s m else s
    | .copy =>
      let s := panelPump (copyWork s m)
      match moveOf s p with
      | some m =>
        if !panelFree s p || !mayMove s || !m.left.isEmpty || !m.acks.isEmpty || lendWaiting s p || frameWaiting s m.lframe then s
        else if m.up then promoteEnd s m
        else demoteEnd s m
      | none => s
    | _ => s
  | none => s

def execMoveStepDone (p : BitVec 32) (s : State) : Host.Outcome State Fault Refusal := ok (moveStepDone s p.toNat)

/-! Abandonment (R347). -/

/-- Frame accesses to a frame that is given up are dropped; what waited for them is served by the other copy. -/
def frameDrop (s : State) (f : Nat) : State :=
  let hit (r : Req) : Option Nat := match r.kind with
    | .frame das parent => if das / 65536 = f then some parent else none
    | _ => none
  let ps := s.adm.wait.filterMap hit
  let s := { s with adm := { s.adm with wait := s.adm.wait.filter fun r => (hit r).isNone } }
  forEach ps s partDone

/-- MOVE_ABANDON with the panel and the cause, which the spec gives no numbers. -/
def abandonNote (s : State) (p : Nat) : State :=
  let (v, s) := drawFree 32 s
  evd (cntInc s rTirAbandonCnt) 847 [BitVec.ofNat 32 p, v]

/-- A move is abandoned: its source holds every write. `free`: FREE may be sent. -/
def abandon (s : State) (m : MoveRec) (free : Bool) : State :=
  let p := m.panel
  let e := pmapGet s p
  let back (s : State) : State :=
    if free then sendFree s m.nbr p m.rframe else nbrUse s m.nbr false
  match m.stage with
  | .remap => s
  | .decided | .alloc => moveEnd (if m.stage = .alloc then abandonNote s p else s) { m with defer := none }
  | .begin | .flush => moveEnd (abandonNote (back s) p) { m with defer := none }
  | .copy =>
    if m.up then
      let s := frameGive (frameDrop s m.lframe) m.lframe
      moveEnd (abandonNote (pmapSet s p (pePut e 2 (peOwner e) (peFrame e))) p) m
    else
      let s := panelDrop (pmapSet s p (pePut e 1 (deviceId s) m.lframe)) p
      moveEnd (abandonNote (back s) p) m

/-- Why a move ends early: 0 it goes on; 1 a channel is fenced; 2 power failure; 3 its lender is lost. -/
def abandonCause (s : State) (m : MoveRec) : Nat :=
  if m.stage = .remap then 0
  else if inDrain s then 2
  else if decide (m.stage ≠ .decided) && decide (s.tier.nbrs[m.nbr].mode = .lost) then 3
  else if decide (m.stage ≠ .decided) && !noFence s then 1
  else 0

/-- MOVE_ABANDON. -/
def moveAbandon (s : State) (p : Nat) : State :=
  match moveOf s p with
  | some m => match abandonCause s m with
    | 0 => s
    | 1 => abandon s m true
    | _ => abandon s m false
  | none => s

def execMoveAbandon (p : BitVec 32) (s : State) : Host.Outcome State Fault Refusal := ok (moveAbandon s p.toNat)

/-! Firmware's commands (R333, R340). -/

/-- TIR.FRAME_CMD.go: one frame above the floor, or the result no frame. -/
def frameCmd (s : State) : State :=
  let no (s : State) : State := modTier s fun t => { t with frameRes := 2 }
  if tiered s ∧ frameFloor s < framesFree s then
    match frameTake s with
    | some (f, s) => modTier s fun t => { t with frameRes := 1, frameVal := f }
    | none => no s
  else no s

def execFrameCmd (s : State) : Host.Outcome State Fault Refusal := ok (frameCmd s)

/-- TIR.MOVE_CMD.go with its dir, nbr, any and panel fields. -/
def moveCmd (s : State) (v : Word64) : State :=
  let s := setReg s rTirMoveCmd (v &&& ~~~ fieldMask 63 60 &&& ~~~ fieldMask 58 53 &&& ~~~ fieldMask 46 32)
  let p := fieldOf v 31 0
  let d : MoveDec := ⟨!bitOf v 59, .firmware, if bitOf v 47 then none else some (Fin.ofNat 32 (fieldOf v 52 48))⟩
  let res (s : State) (n : BitVec 3) : State := modTier s fun t => { t with moveRes := n }
  if !mayMove s ∨ mapPanels s ≤ p then res s 2
  else if panelMoving s p then res (deferMove s p d) 1
  else
    let fits : Bool := (moveOf s p).isNone && if d.up then decide (peState (pmapGet s p) = 2) && !lenderLost s p
      else demotable s p
    match moveRoom s with
    | some e => if fits then res (moveAdd s p e d) 1 else res s 2
    | none => res s 2

def execMoveCmd (v : Word64) (s : State) : Host.Outcome State Fault Refusal := ok (moveCmd s v)

end Sys2Proof.Machine
end

