-- ==== Sys2Proof/Machine/Jig.lean ====
section
/-!
DEFINITION. Grants as they are enabled and disabled, reclaim, and jig lists (R352 to R360).
-/
namespace Sys2Proof.Machine
open Sys2Proof

/-! The lines of a grant's chain (R317, R352). -/

/-- An internal write of a line of the Reserve or of a granted frame by its DAS address; on a fenced channel it is discarded
and counted. -/
def dasPut (s : State) (das : Nat) (d : LineData) : State :=
  if s.cure.fence[chanOf s das] = .fenced then cntInc s rCurRsvDropCnt else lineToWq s das none (encodeLine d false) false

/-- Line 0 of a frame of a chain: the first 8 bytes, and the next. -/
def chainLine (a b : Nat) : LineData := setLineWord (setLineWord 0 0 (BitVec.ofNat 64 a)) 1 (BitVec.ofNat 64 b)

/-- The end of a chain. -/
def chainEnd : Nat := 0xFFFF_FFFF

/-- A grant's first frame and frame count (TIR.GRANT_A, TIR.GRANT_B). -/
def grantFirst (s : State) (g : Fin 32) : Nat := fld s (rTirGrantA g.val) 27 0
def grantCount (s : State) (g : Fin 32) : Nat := fld s (rTirGrantB g.val) 27 0
def grantOn (s : State) (g : Fin 32) : Bool := s.tier.grantEn.getLsbD g.val
/-- The borrower's Device ID. -/
def grantDev (s : State) (g : Fin 32) : Nat := fld s (rTirGrantA g.val) 47 32

/-- The header line rewritten from the copy of head and free count. -/
def grantHeader (s : State) (g : Fin 32) : State :=
  dasPut s (grantFirst s g * 65536) (chainLine s.tier.grantHead[g] s.tier.grantFree[g])

/-- The checks of R352 on a grant that is to be enabled. -/
def grantOk (s : State) (g : Fin 32) : Bool :=
  let lo := grantFirst s g
  let hi := lo + grantCount s g
  tiered s && decide (2 ≤ grantCount s g) && decide (hi ≤ frameCount s)
    && ((List.range (grantCount s g)).all fun i => !fmGet s.map.frames (lo + i))
    && ((List.finRange 32).all fun h => !grantOn s h || decide (hi ≤ grantFirst s h)
      || decide (grantFirst s h + grantCount s h ≤ lo))

/-- The Frame Map bits of a grant's range. -/
def grantBits (s : State) (g : Fin 32) (b : Bool) : State :=
  forEach (List.range (grantCount s g)) s fun s i =>
    { s with map := { s.map with frames := fmSet s.map.frames (grantFirst s g + i) b } }

def modGrant (s : State) (g : Fin 32) (en rdy : Bool) (head free : Nat) : State :=
  let bit : BitVec 32 := (1 : BitVec 32) <<< g.val
  modTier s fun t => { t with
    grantEn := if en then t.grantEn ||| bit else t.grantEn &&& ~~~ bit
    grantRdy := if rdy then t.grantRdy ||| bit else t.grantRdy &&& ~~~ bit
    grantHead := t.grantHead.set g head
    grantFree := t.grantFree.set g free }

/-- A cached free frame that a grant has taken leaves the allocator's cache. -/
def cacheTrim (s : State) : State := modTier s fun t => { t with cache := t.cache.filter fun f => !fmGet s.map.frames f }

/-- TIR.GRANT_A written with en = 1 (R352): borrower and first are taken while the grant is disabled. A write that fails a check
is ignored. -/
def grantEnable (s : State) (g : Fin 32) (v : Word64) : State :=
  if grantOn s g then s
  else
    let old := s
    let s := setReg s (rTirGrantA g.val) (packFields [(61, fieldOf v 61 61), (32, fieldOf v 47 32), (0, fieldOf v 27 0)])
    if grantOk s g then
      let lo := grantFirst s g
      let n := grantCount s g
      let s := cacheTrim (grantBits s g true)
      let s := forEach (List.range (n - 1)) s fun s i =>
        dasPut s ((lo + 1 + i) * 65536) (chainLine (if i + 2 = n then chainEnd else lo + 2 + i) 0)
      let s := grantHeader (modGrant s g true true (lo + 1) (n - 1)) g
      frameLowUpd (ev s 852)
    else ev old 853

def execGrantEnable (g : Fin 32) (v : Word64) (s : State) : Host.Outcome State Fault Refusal := ok (grantEnable s g v)

/-- TIR.GRANT_A written with en = 0. -/
def grantDisable (s : State) (g : Fin 32) : State :=
  if grantOn s g then
    if s.tier.grantFree[g] + 1 = grantCount s g then
      frameLowUpd (modGrant (grantBits s g false) g false false 0 0)
    else ev s 853
  else s

def execGrantDisable (g : Fin 32) (s : State) : Host.Outcome State Fault Refusal := ok (grantDisable s g)

/-- TIR.GRANT_A.hold written. -/
def grantHold (s : State) (g : Fin 32) (hold : Bool) : State := setFld s (rTirGrantA g.val) 61 61 (flag hold)

def execGrantHold (g : Fin 32) (hold : Bool) (s : State) : Host.Outcome State Fault Refusal := ok (grantHold s g hold)

/-- TIR.GRANT_A.reload: the header is read again; a header that cannot be read changes nothing. -/
def grantReload (s : State) (g : Fin 32) : State :=
  if grantOn s g then
    match dasNow s (grantFirst s g * 65536) with
    | some (some d) =>
      modGrant s g true true ((lineWord d 0).toNat % 2 ^ 32) ((lineWord d 1).toNat % 2 ^ 28)
    | _ => s
  else s

def execGrantReload (g : Fin 32) (s : State) : Host.Outcome State Fault Refusal := ok (grantReload s g)

/-! Reclaim (R354). -/

/-- The panels a reclaim recovers: REMOTE, their owner the lost neighbour. -/
def reclaimNext (s : State) (j : Fin 32) (p : Nat) : Option Nat :=
  let dev := fld s (rTirNbr j.val) 47 32
  (s.map.pmap.ex.find? fun e => decide (p ≤ e.1) && decide (peState e.2 = 2) && decide (peOwner e.2 = dev)).map Prod.fst

/-- The twin's answer for a line: masked where it gives none. -/
def twinLine (twin : List (Nat × LineData)) (a : Nat) : Option LineData := (twin.find? fun x => x.1 = a / 64).map Prod.snd

/-- The twin's answer for a line of a recovered panel written by a Rasp engine; a masked one poisoned, its data open (R354). -/
def reclaimLine (s : State) (das : Nat) (ans : Option LineData) : State :=
  let s := cntInc s (rAdmGrantCnt 17)
  if s.cure.fence[chanOf s das] = .fenced then s
  else
    match ans with
    | some d => lineToWq s das none (encodeLine d false) false
    | none =>
      let (v, s) := drawFree 512 s
      lineToWq s das none (encodeLine v true) false

/-- One panel recovered: a local frame above the floor, else a frame of another eligible neighbour, the next of those its
lenders answered (`frames`); a panel in a Local region becomes BLANK. None where no destination is to be had, or where admission
takes no write of Rasp to a line of the frame (log entry 85). -/
def reclaimPanel (s : State) (j : Fin 32) (p : Nat) (twin : List (Nat × LineData)) (frames : List Nat) :
    Option (State × List Nat) :=
  let e := pmapGet s p
  let done (s : State) (e : Word64) : State := nbrUse (staleClear (pmapSet (panelDrop s p) p e) p) j false
  if !mirroredAt s (p * 65536) then
    let s := done s (pePut e 0 0 0)
    some (evo (setBlank s p true) 779 (detail64 (p * 65536)) { EvtOrigin.none with kind := .lms, addr := BitVec.ofNat 64 (p * 65536) },
      frames)
  else if frameFloor s < framesFree s then
    match frameTake s with
    | some (f, s) =>
      if (List.range 1024).all fun n => engineMay s 17 (2 ^ 47 + f * 65536 + 64 * n) then
        let s := forEach (List.range 1024) s fun s n => reclaimLine s (f * 65536 + 64 * n) (twinLine twin (p * 65536 + 64 * n))
        some (done s (pePut e 1 (deviceId s) f), frames)
      else none
    | none => none
  else
    match nbrBest s [j], frames with
    | some k, f :: rest =>
      let data := (List.range 1024).map fun n => twinLine twin (p * 65536 + 64 * n)
      let segs := (chunks16 64 data).zipIdx.map fun x => segLines 1 (f * 65536 + 1024 * x.2) x.1 0 .resend
      let s := forEach segs (cntAdd (nbrUse s k true) rTirLendWrCnt 1024) fun s g => outPush s (lendConn s k p) g
      some (done s (pePut e 2 (fld s (rTirNbr k.val) 47 32) f), rest)
    | _, _ => none

/-- The walk of a reclaim as far as it gets. -/
def reclaimWalk (j : Fin 32) (twin : List (Nat × LineData)) : Nat → State → Nat → List Nat → State
  | 0, s, _, _ => s
  | fuel + 1, s, p, frames =>
    let at' (s : State) (n : Nat) : State := modTier s fun t => { t with reclaim := some ⟨j, n⟩ }
    match reclaimNext s j p with
    | none => at' s (mapPanels s)
    | some q =>
      if !panelFree s q || !allOutOpen s then at' s q
      else
        match reclaimPanel s j q twin frames with
        | some (s, rest) => reclaimWalk j twin fuel (panelPump s) (q + 1) rest
        | none => at' s q

/-- TIR.RECLAIM_CMD.go. `twin` are the twin's answers by LMS line number, `frames` the frames other lenders answer. -/
def reclaimCmd (s : State) (j : Fin 32) (twin : List (Nat × LineData)) (frames : List Nat) : State :=
  let s := setFld s rTirReclaimCmd 4 0 j.val
  if s.tier.reclaim.isNone ∧ s.cure.mstate = .mirrored ∧ s.cure.staleSide = false ∧ s.cure.recast.isNone ∧ s.tier.nbrs[j].mode = .lost
      ∧ tiered s ∧ inDrain s = false then
    let s := modTier s fun t => { t with reclRes := 0 }
    reclaimWalk j twin (s.map.pmap.ex.length + 1) s 0 frames
  else modTier s fun t => { t with reclRes := 2 }

def execReclaimCmd (j : Fin 32) (twin : List (Nat × LineData)) (frames : List Nat) (s : State) :
    Host.Outcome State Fault Refusal :=
  ok (reclaimCmd s j twin frames)

/-- The Return Table copies at a lost neighbour are given up, so that no frame is held there (R354). -/
def retForget (s : State) (j : Fin 32) : State :=
  modTier s fun t => { t with ret := (t.ret.map fun e => (e.1, e.2.filter fun x => decide (x.nbr ≠ j))).filter fun e => !e.2.isEmpty }

/-- RECLAIM_DONE: the walk goes on where it waited, and ends when no panel is left; power failure aborts it. -/
def reclaimDone (s : State) (twin : List (Nat × LineData)) (frames : List Nat) : State :=
  match s.tier.reclaim with
  | some r =>
    let fin (s : State) (n : BitVec 2) : State := modTier s fun t => { t with reclaim := none, reclRes := n }
    let all (s : State) (j : Fin 32) : State := modTier (retForget s j) fun t => { t with nbrs := t.nbrs.set j { t.nbrs[j] with use := 0 } }
    if inDrain s then fin s 3
    else
      let s := reclaimWalk r.nbr twin (s.map.pmap.ex.length + 1) s r.next frames
      match s.tier.reclaim with
      | some r => if (reclaimNext s r.nbr r.next).isNone then fin (all s r.nbr) 1 else s
      | none => s
  | none => s

def execReclaimDone (twin : List (Nat × LineData)) (frames : List Nat) (s : State) : Host.Outcome State Fault Refusal :=
  ok (reclaimDone s twin frames)

/-! Jig lists (R356 to R360). -/

def modJig (s : State) (e : Fin 4) (f : JigSt → JigSt) : State :=
  modTier s fun t => { t with jigs := t.jigs.set e (f t.jigs[e]) }

/-- A little-endian number of `n` bytes from byte `k` of a line. -/
def lineNum (d : LineData) (k n : Nat) : Nat :=
  (List.range n).foldl (fun x i => x + (lineByte d (k + i)).toNat * 256 ^ i) 0

/-- A line of a list, read with the engine's MID through the Veneer, or from its lender (`far`). Bit 47 of the address names
the Reserve aperture (R80). None where the read ends in an error, or finds the line poisoned or uncorrectable; a line that holds
no data reads as zero. -/
def listLine (s : State) (far : List (Nat × LineData)) (a : Nat) : Option LineData :=
  if 2 ^ 47 ≤ a then if a - 2 ^ 47 < dasTop s then (dasNow s (a - 2 ^ 47)).getD none else none
  else if lmsTop s ≤ a then none
  else if lineBlank s a then some 0
  else if (dasOf s a).isSome then (readNow s a).getD none
  else twinLine far a

/-- Step `k` of the list read and checked (R356, R357). A step whose line cannot be read fails. -/
def jigRead (s : State) (e : Fin 4) (far : List (Nat × LineData)) : State :=
  let g := s.tier.jigs[e]
  let k := g.steps.length
  let b := 32 + 16 * k
  match listLine s far (g.addr + b / 64 * 64) with
  | some l =>
    let o := b % 64
    let flags := lineNum l (o + 6) 1
    let p := lineNum l o 4
    let n := lineNum l (o + 4) 2
    let rel : Bool := decide (128 ≤ flags)
    let d := lineNum l (o + 8) 8
    let dl := if rel then g.prev + d else d
    let good : Bool := g.good && decide (flags / 4 % 32 = 0) && decide (lineNum l (o + 7) 1 = 0) && decide (0 < n)
      && decide ((p + n) * 65536 ≤ lmsTop s) && decide (k = 0 ∨ g.prev ≤ dl)
    modJig s e fun g => { g with
      prev := dl, good := good, steps := g.steps ++ [{ panel := p, count := n, tgt := flags % 4, rel := rel, dl := dl, ok := good }] }
  | none => modJig s e fun g => { g with
      good := false, steps := g.steps ++ [{ panel := 0, count := 0, tgt := 0, rel := false, dl := g.prev, ok := false }] }

/-- The first staging step read at or after `k`; where there is none, the number of steps read. -/
def nextStaging (g : JigSt) (k : Nat) : Nat :=
  ((List.range g.steps.length).find? fun i => decide (k ≤ i) && ((g.steps[i]?.map fun x => decide (x.tgt ≠ 3)).getD false)).getD
    g.steps.length

/-- A step that the engine reads now: within 16 steps of the step being staged (R356). -/
def jigReads (g : JigSt) (k : Nat) : Bool := decide (g.steps.length < g.count) && decide (g.steps.length ≤ nextStaging g k + 16)

/-- The lines of the steps that may be read now. -/
def jigLines (g : JigSt) : List Nat :=
  (List.range (min 17 (g.count - g.steps.length))).map fun i => g.addr + (32 + 16 * (g.steps.length + i)) / 64 * 64

/-- The engine reads ahead, for the staging step at or after `k`, which it takes next. -/
def jigAhead (e : Fin 4) (far : List (Nat × LineData)) (k : Nat) : Nat → State → State
  | 0, s => modJig s e fun g => { g with step := nextStaging g k }
  | fuel + 1, s =>
    if jigReads s.tier.jigs[e] k then
      jigAhead e far k fuel (jigRead (engineRead s 16 (s.tier.jigs[e].addr + (32 + 16 * s.tier.jigs[e].steps.length) / 64 * 64)) e far)
    else modJig s e fun g => { g with step := nextStaging g k }

/-- The engine's jig bits are cleared (R360). -/
def jigBitsClear (s : State) (e : Fin 4) : State :=
  modTier s fun t => { t with heat := t.heat.map fun x => (x.1, x.2.map fun h => if h.jig = some e then { h with jig := none } else h) }

/-- A list ends with a result. -/
def jigEnd (s : State) (e : Fin 4) (res : BitVec 3) : State :=
  jigBitsClear (modJig s e fun g => { g with busy := false, begun := false, result := res, stop := false }) e

/-- JIG_FAULT at a step. -/
def jigFault (s : State) (e : Fin 4) (k : Nat) : State :=
  evd (jigEnd (modJig s e fun g => { g with step := k }) e 3) 850 [BitVec.ofNat 32 e.val, BitVec.ofNat 32 k]

/-- TIR.JIG_CMD.go: the header of the list at TIR.JIG_ADDR is read and checked (R357), and the first steps. Where admission
takes no request of the engine the command waits (DESIGN CHOICE, log entry 85). -/
def jigGo (s : State) (e : Fin 4) (far : List (Nat × LineData)) : State :=
  if s.tier.jigs[e].busy ∨ inDrain s then s
  else
    let a := fld s (rTirJigAddr e.val) 47 6 * 64
    if engineMay s 16 a then
      let head := (listLine s far a).getD 0
      let count := lineNum head 4 2
      let zeros : Bool := decide (lineNum head 6 2 = 0) && decide (lineNum head 12 4 = 0) && decide (lineNum head 24 8 = 0)
      let s := modJig (engineRead s 16 a) e fun _ => { JigSt.idle with
        busy := true, lead := lineNum head 8 4, addr := a, count := count, prev := lineNum head 16 8 }
      if lineNum head 0 4 = 1 ∧ 1 ≤ count ∧ count ≤ 4096 ∧ zeros then jigAhead e far 0 count s else jigFault s e 0
    else s

def execJigGo (e : Fin 4) (far : List (Nat × LineData)) (s : State) : Host.Outcome State Fault Refusal := ok (jigGo s e far)

/-- A request of a list's staging. -/
def isStaging (e : Fin 4) (r : Req) : Bool := match r.dest with | .joiner x _ => decide (x = e) | _ => false

/-- Requests of an engine's staging still wait or are being served. -/
def stageBusy (s : State) (e : Fin 4) : Bool := s.adm.wait.any (isStaging e) || s.tt.any (fun t => isStaging e t.req)

/-- A promotion of an engine's list is in progress. -/
def jigMoves (s : State) (e : Fin 4) : Bool := s.tier.moves.any fun m => decide (m.who = .jig e)

/-- A list that was told to stop ends once the panel in progress is staged (R360). -/
def jigStopEnd (s : State) (e : Fin 4) : State :=
  if s.tier.jigs[e].stop && !stageBusy s e && !jigMoves s e then jigEnd s e 2 else s

/-- The panel a Veneer step of an engine is staging: the first one with a read being served, else waiting. -/
def stagingPanel (s : State) (e : Fin 4) : Option Nat :=
  (((s.tt.map fun t => t.req) ++ s.adm.wait).find? (isStaging e)).map fun r => panelOf r.addr.toNat

/-- TIR.JIG_CMD.stop: the engine takes no further panel. The reads of panels after the one in progress are given up, with
promotions not started. -/
def jigStop (s : State) (e : Fin 4) : State :=
  if s.tier.jigs[e].busy then
    let cur := stagingPanel s e
    let s := { s with adm := { s.adm with
      wait := s.adm.wait.filter fun r => !isStaging e r || decide (some (panelOf r.addr.toNat) = cur) } }
    let s := modTier s fun t => { t with moves := t.moves.filter fun m => !(decide (m.who = .jig e) && decide (m.stage = .decided)) }
    jigStopEnd (modJig s e fun g => { g with stop := true }) e
  else s

def execJigStop (e : Fin 4) (s : State) : Host.Outcome State Fault Refusal := ok (jigStop s e)

/-- The written lines of a panel. -/
def writtenLines (s : State) (p : Nat) : List Nat :=
  ((List.range 1024).map fun n => p * 65536 + 64 * n).filter fun a => !lineBlank s a

/-- JIG_STEP_START: the next staging step of an engine begins, from its deadline less the lead (R358). A Veneer step presents
its reads; a Local step's panels are taken one by one (PROMOTION). -/
def jigStepStart (s : State) (e : Fin 4) : State :=
  let g := s.tier.jigs[e]
  match g.steps[g.step]? with
  | some x =>
    if g.busy && !g.begun && !g.stop then
      if !x.ok then jigFault s e g.step
      else if x.dl ≤ beatNs s + g.lead then
        let s := modJig s e fun g => { g with begun := true, pos := 0 }
        if x.tgt = 0 then s
        else
          let s := modJig s e fun g => { g with pos := x.count }
          forEach (List.range x.count) s fun s i =>
            let ls := writtenLines s (x.panel + i)
            forEach ls s fun s a => joinerReq s e .rdLine a 0 false (.joiner e 0) .access
      else s
    else s
  | none => s

def execJigStepStart (e : Fin 4) (s : State) : Host.Outcome State Fault Refusal := ok (jigStepStart s e)

/-- A panel of a Local step is staged: in Flat mode always, else LOCAL or BLANK. -/
def panelStaged (s : State) (p : Nat) : Bool :=
  !tiered s || decide (peState (pmapGet s p) = 0) || decide (peState (pmapGet s p) = 1)

/-- Every panel of the step being staged is staged. -/
def stepStaged (s : State) (e : Fin 4) : Bool :=
  let g := s.tier.jigs[e]
  match g.steps[g.step]? with
  | some x => g.begun && decide (g.pos = x.count)
      && if x.tgt = 0 then (List.range x.count).all fun i => panelStaged s (x.panel + i) else !stageBusy s e
  | none => false

/-- JIG_STEP_STAGED: the engine goes on to the next staging step, and reads the steps that are now within 16 of it (R356); it waits
where admission takes no such read. A list told to stop ends instead. -/
def jigStepStaged (s : State) (e : Fin 4) (far : List (Nat × LineData)) : State :=
  if s.tier.jigs[e].stop then jigStopEnd s e
  else if stepStaged s e && (jigLines s.tier.jigs[e]).all (engineMay s 16) then
    let s := modJig s e fun g => { g with begun := false, pos := 0 }
    jigAhead e far (s.tier.jigs[e].step + 1) s.tier.jigs[e].count s
  else s

def execJigStepStaged (e : Fin 4) (far : List (Nat × LineData)) (s : State) : Host.Outcome State Fault Refusal :=
  ok (jigStepStaged s e far)

/-- The first step not staged whose deadline the Beat has reached (R359). -/
def lateStep (s : State) (e : Fin 4) : Option Nat :=
  let g := s.tier.jigs[e]
  let due (k : Nat) : Bool := match g.steps[k]? with
    | some x => decide (x.tgt ≠ 3) && decide (g.step ≤ k) && decide (x.dl ≤ beatNs s) && !g.lateK.contains k
    | none => false
  if g.busy then (List.range g.steps.length).find? due else none

/-- JIG_LATE. -/
def jigLate (s : State) (e : Fin 4) : State :=
  match lateStep s e with
  | some k =>
    let s := modJig s e fun g => { g with lateK := g.lateK ++ [k], late := g.late + 1 }
    evd (cntInc s rTirJigLateCnt) 848 [BitVec.ofNat 32 e.val, BitVec.ofNat 32 k]
  | none => s

def execJigLate (e : Fin 4) (s : State) : Host.Outcome State Fault Refusal := ok (jigLate s e)

/-- The first Unpin step whose deadline the Beat has reached, while the range engine is free. -/
def unpinStep (s : State) (e : Fin 4) : Option Nat :=
  let g := s.tier.jigs[e]
  let due (k : Nat) : Bool := match g.steps[k]? with
    | some x => decide (x.tgt = 3) && x.ok && decide (x.dl ≤ beatNs s) && !g.unpins.contains k
    | none => false
  if g.busy && !g.stop && s.vnr.rop.isNone then (List.range g.steps.length).find? due else none

/-- JIG_UNPIN_STEP: at its deadline an Unpin step issues its range operation; it waits while the range engine is busy. -/
def jigUnpin (s : State) (e : Fin 4) : State :=
  match unpinStep s e with
  | some k =>
    let steps := s.tier.jigs[e].steps
    let s := modJig s e fun g => { g with unpins := g.unpins ++ [k] }
    match steps[k]? with
    | some x =>
      if s.vnr.mode = .enabled then ropStart s .unpin (x.panel * 1024) ((x.panel + x.count) * 1024) false else ropRefuse s
    | none => s
  | none => s

def execJigUnpinStep (e : Fin 4) (s : State) : Host.Outcome State Fault Refusal := ok (jigUnpin s e)

/-- JIG_DONE: the last step is staged and every Unpin has been issued (R360). An Unpin step that fails its check is a fault. -/
def jigDone (s : State) (e : Fin 4) : State :=
  let g := s.tier.jigs[e]
  let left : List Nat := (List.range g.steps.length).filter fun k => match g.steps[k]? with
    | some x => decide (x.tgt = 3) && !g.unpins.contains k
    | none => false
  if g.busy && !g.stop && decide (g.count ≤ g.steps.length) && decide (g.steps.length ≤ g.step) then
    match left.find? fun k => ((g.steps[k]?).map fun x => !x.ok).getD false with
    | some k => jigFault s e k
    | none => if left.isEmpty then ev (jigEnd s e 1) 849 else s
  else s

def execJigDone (e : Fin 4) (s : State) : Host.Outcome State Fault Refusal := ok (jigDone s e)

end Sys2Proof.Machine
end

