-- ==== Sys2Proof/Machine/Aes.lean ====
section
/-!
DEFINITION. AES-256, its GCM mode and AES Key Wrap (R11, R372, R373, R398), as FIPS 197, NIST SP 800-38D and RFC 3394 give
them. PRESUMED: the spec names these standards and does not restate them (log entry 30).
-/
namespace Sys2Proof.Machine
open Sys2Proof

/-! AES-256. Bytes are numbers below 256; a block is 16 bytes, the first the most significant. -/

/-- The S-box, 32 values in each number, the lowest in its lowest byte. -/
def aesSbox : List Nat :=
  [0xC072A49CAFA2D4ADF04759FA7DC982CA76ABD7FE2B670130C56F6BF27B777C63,
   0x75B227EBE28012079A059618C323C7041531D871F1E5A534CCF73F362693FDB7,
   0xCF584C4A39BECB6A5BB1FC20ED00D153842FE329B3D63B52A05A6E1B1A2C8309,
   0xD2F3FF1021DAB6BCF5389D928F40A351A89F3C507F02F94585334D43FBAAEFD0,
   0xDB0B5EDE14B8EE4688902A22DC4F816073195D643D7EA7C41744975FEC130CCD,
   0x08AE7A65EAF4566CA94ED58D6D37C8E779E4959162ACD3C25C2406490A3A32E0,
   0x9E1DC186B95735610EF6034866B53E708A8BBD4B1F74DDE8C6B4A61C2E2578BA,
   0x16BB54B00F2D99416842E6BF0D89A18CDF2855CEE9871E9B948ED9691198F8E1]

/-- The inverse S-box, 32 values in each number, the lowest in its lowest byte. -/
def aesInv : List Nat :=
  [0xCBE9DEC444438E3487FF2F9B8239E37CFBD7F3819EA340BF38A53630D56A0952,
   0x25D18B6D49A25B76B224D92866A12E084EC3FA420B954CEE3D23C2A632947B54,
   0x849D8DA75746155EDAB9EDFD5048706C92B6655DCC5CA4D41698688664F6F872,
   0x6B8A130103BDAFC1020F3FCA8F1E2CD00645B3B80558E4F70AD3BC8C00ABD890,
   0x6EDF751CE837F9E28535ADE72274AC9673E6B4F0CECFF297EADC674F4111913A,
   0xF45ACD78FEC0DB9A2079D2C64B3E56FC1BBE18AA0E62B76F89C5291D711AF147,
   0xEF9CC9939F7AE52D0D4AB519A97F51605FEC8027591012B131C7078833A8DD1F,
   0x7D0C2155631469E126D677BA7E042B17619953833CBBEBC8B0F52AAE4D3BE0A0]

/-- An entry of a byte table. -/
def aesAt (t : List Nat) (x : Nat) : Nat := t.getD (x / 32) 0 >>> (8 * (x % 32)) % 256

/-- Multiplication by x in GF(2^8). -/
def aesX (a : Nat) : Nat := if a < 128 then 2 * a else (2 * a) ^^^ 0x11B

/-- Multiplication of a byte by a small constant in GF(2^8). -/
def aesMul (k a : Nat) : Nat :=
  let a2 := aesX a
  let a4 := aesX a2
  let a8 := aesX a4
  (if k.testBit 0 then a else 0) ^^^ (if k.testBit 1 then a2 else 0) ^^^ (if k.testBit 2 then a4 else 0)
    ^^^ (if k.testBit 3 then a8 else 0)

/-- The bytes of a number, `n` of them, most significant first. -/
def beBytes (n x : Nat) : List Nat := (List.range n).map fun i => x / 256 ^ (n - 1 - i) % 256

/-- The number bytes give, most significant first. -/
def beNum (bs : List Nat) : Nat := bs.foldl (fun x b => 256 * x + b) 0

def xorBytes (a b : List Nat) : List Nat := a.zipWith (· ^^^ ·) b

/-- The next 8 words of the key schedule from the last 8, with a round constant. -/
def aesNext (rcon : Nat) (w : List (List Nat)) : List (List Nat) :=
  let last := w.getD 7 []
  let t := xorBytes ((last.drop 1 ++ last.take 1).map (aesAt aesSbox)) [rcon, 0, 0, 0]
  let w0 := xorBytes (w.getD 0 []) t
  let w1 := xorBytes (w.getD 1 []) w0
  let w2 := xorBytes (w.getD 2 []) w1
  let w3 := xorBytes (w.getD 3 []) w2
  let w4 := xorBytes (w.getD 4 []) (w3.map (aesAt aesSbox))
  let w5 := xorBytes (w.getD 5 []) w4
  let w6 := xorBytes (w.getD 6 []) w5
  [w0, w1, w2, w3, w4, w5, w6, xorBytes (w.getD 7 []) w6]

/-- The 15 round keys. -/
def aesKeys (key : BitVec 256) : List (List Nat) :=
  let b := beBytes 32 key.toNat
  let w0 := (List.range 8).map fun i => (b.drop (4 * i)).take 4
  let all := ((List.range 7).foldl (fun (acc : List (List Nat) × List (List Nat)) i =>
    let w := aesNext (2 ^ i) acc.2
    (acc.1 ++ w, w)) (w0, w0)).1
  (List.range 15).map fun i => ((all.drop (4 * i)).take 4).flatten

/-- A block with its rows shifted: output byte i takes byte `p i`. -/
def aesPerm (p : Nat → Nat) (b : List Nat) : List Nat := (List.range 16).map fun i => b.getD (p i) 0

/-- Columns multiplied by a circulant of four constants. -/
def aesMix (k : List Nat) (b : List Nat) : List Nat :=
  (List.range 16).map fun i =>
    (List.range 4).foldl (fun x j => x ^^^ aesMul (k.getD ((j + 4 - i % 4) % 4) 0) (b.getD (i / 4 * 4 + j) 0)) 0

/-- One block encrypted under round keys. -/
def aesBlock (ks : List (List Nat)) (x : BitVec 128) : BitVec 128 :=
  let sub (b : List Nat) : List Nat := aesPerm (fun i => (5 * i) % 16) (b.map (aesAt aesSbox))
  let b := xorBytes (beBytes 16 x.toNat) (ks.getD 0 [])
  let b := (List.range 13).foldl (fun b i => xorBytes (aesMix [2, 3, 1, 1] (sub b)) (ks.getD (i + 1) [])) b
  BitVec.ofNat 128 (beNum (xorBytes (sub b) (ks.getD 14 [])))

/-- One block decrypted under round keys. -/
def aesUnblock (ks : List (List Nat)) (x : BitVec 128) : BitVec 128 :=
  let sub (b : List Nat) : List Nat := (aesPerm (fun i => (13 * i) % 16) b).map (aesAt aesInv)
  let b := sub (xorBytes (beBytes 16 x.toNat) (ks.getD 14 []))
  let b := (List.range 13).foldl (fun b i => sub (aesMix [14, 11, 13, 9] (xorBytes b (ks.getD (13 - i) [])))) b
  BitVec.ofNat 128 (beNum (xorBytes b (ks.getD 0 [])))

/-! GCM. -/

/-- Multiplication in GF(2^128), the first bit of a block its most significant. -/
def ghMul (x y : BitVec 128) : BitVec 128 :=
  ((List.range 128).foldl (fun (acc : BitVec 128 × BitVec 128) i =>
    let z := if x.getLsbD (127 - i) then acc.1 ^^^ acc.2 else acc.1
    let v := if acc.2.getLsbD 0 then (acc.2 >>> 1) ^^^ ((0xE1 : BitVec 128) <<< 120) else acc.2 >>> 1
    (z, v)) (0, y)).1

/-- Bytes cut into blocks of 16, the last filled with zeros. -/
def gcmBlocks (bs : List Nat) : List (BitVec 128) :=
  (List.range ((bs.length + 15) / 16)).map fun i =>
    let c := (bs.drop (16 * i)).take 16
    BitVec.ofNat 128 (beNum (c ++ List.replicate (16 - c.length) 0))

/-- GHASH over the additional data, the ciphertext and their lengths. -/
def gcmHash (h : BitVec 128) (aad ct : List Nat) : BitVec 128 :=
  let y := (gcmBlocks aad ++ gcmBlocks ct).foldl (fun y x => ghMul (y ^^^ x) h) 0
  ghMul (y ^^^ BitVec.ofNat 128 (8 * aad.length * 2 ^ 64 + 8 * ct.length)) h

/-- The counter block of a 96-bit nonce. -/
def gcmCtr (nonce : BitVec 96) (n : Nat) : BitVec 128 := BitVec.ofNat 128 (nonce.toNat * 2 ^ 32 + n % 2 ^ 32)

/-- Data combined with the key stream from counter 2 on. -/
def gcmCrypt (ks : List (List Nat)) (nonce : BitVec 96) (bs : List Nat) : List Nat :=
  ((List.range ((bs.length + 15) / 16)).map fun i =>
    xorBytes ((bs.drop (16 * i)).take 16) (beBytes 16 (aesBlock ks (gcmCtr nonce (i + 2))).toNat)).flatten

/-- The tag of a ciphertext. -/
def gcmTag (ks : List (List Nat)) (nonce : BitVec 96) (aad ct : List Nat) : BitVec 128 :=
  gcmHash (aesBlock ks 0) aad ct ^^^ aesBlock ks (gcmCtr nonce 1)

/-- Ciphertext and tag of a plaintext. -/
def gcmSeal (key : BitVec 256) (nonce : BitVec 96) (aad pt : List Byte) : List Byte × BitVec 128 :=
  let ks := aesKeys key
  let ct := gcmCrypt ks nonce (pt.map BitVec.toNat)
  (ct.map (BitVec.ofNat 8), gcmTag ks nonce (aad.map BitVec.toNat) ct)

/-- The plaintext of a ciphertext whose tag verifies. -/
def gcmOpen (key : BitVec 256) (nonce : BitVec 96) (aad ct : List Byte) (tag : BitVec 128) : Option (List Byte) :=
  let ks := aesKeys key
  let c := ct.map BitVec.toNat
  if gcmTag ks nonce (aad.map BitVec.toNat) c = tag then some ((gcmCrypt ks nonce c).map (BitVec.ofNat 8)) else none

/-! Key Wrap. -/

/-- The initial value of Key Wrap. -/
def kwIv : BitVec 64 := 0xA6A6A6A6A6A6A6A6

/-- Semiblocks wrapped under a key-encryption key. -/
def kwWrap (kek : BitVec 256) (rs : List (BitVec 64)) : List (BitVec 64) :=
  let ks := aesKeys kek
  let n := rs.length
  let r := (List.range (6 * n)).foldl (fun (acc : BitVec 64 × List (BitVec 64)) t =>
    let b := aesBlock ks (acc.1 ++ acc.2.getD (t % n) 0)
    ((b >>> 64).setWidth 64 ^^^ BitVec.ofNat 64 (t + 1), acc.2.set (t % n) (b.setWidth 64))) (kwIv, rs)
  r.1 :: r.2

/-- Wrapped semiblocks unwrapped, where the integrity check passes. -/
def kwUnwrap (kek : BitVec 256) (cs : List (BitVec 64)) : Option (List (BitVec 64)) :=
  let ks := aesKeys kek
  let n := cs.length - 1
  let r := (List.range (6 * n)).foldl (fun (acc : BitVec 64 × List (BitVec 64)) i =>
    let t := 6 * n - i
    let k := (t - 1) % n
    let b := aesUnblock ks ((acc.1 ^^^ BitVec.ofNat 64 t) ++ acc.2.getD k 0)
    ((b >>> 64).setWidth 64, acc.2.set k (b.setWidth 64))) (cs.headD 0, cs.drop 1)
  if r.1 = kwIv then some r.2 else none

end Sys2Proof.Machine
end

