-- ==== Sys2Proof/Machine/Ten.lean ====
section
/-!
DEFINITION. Tenon's ground: Segment Ports, connection contexts and their cache, what comes back for a segment, and entry to
ERROR (R363 to R367, R393 to R405).
-/
namespace Sys2Proof.Machine
open Sys2Proof

def modTen (s : State) (f : TenSt → TenSt) : State := { s with ten := f s.ten }

def eng (s : State) (e : Fin 8) : Engine := s.ten.engines[e]

def modEng (s : State) (e : Fin 8) (f : Engine → Engine) : State :=
  modTen s fun t => { t with engines := t.engines.set e (f t.engines[e]) }

def modConn (s : State) (c : Nat) (f : Conn → Conn) : State :=
  { s with conns := smSet Conn.none s.conns c (f (smGet Conn.none s.conns c)) }

/-- The engine that serves a connection (R393). -/
def engOf (c : Nat) : Fin 8 := Fin.ofNat 8 c

def isOpen (s : State) (c : Nat) : Bool := decide ((connOf s c).mode = .opened)

/-- A value the spec says an event records and gives no numbering for. -/
def openDetail (s : State) : Word32 × State := drawFree 32 s

/-! Segment Ports (R366, R367). -/

def modSeg (s : State) (n : Fin 4) (f : SegPort → SegPort) : State :=
  modTen s fun t => { t with segs := t.segs.set n (f t.segs[n]) }

/-- A Segment Port is to be UP; none is from DRAIN_DONE (R366, R499). -/
def segWant (s : State) (n : Fin 4) : Bool :=
  isReady s && rbit s (rTenSegCtl n.val) 0 && s.ten.segs[n].live && decide (s.cure.drain ≠ .complete)

/-- Jobs whose lines are withdrawn are dropped unacknowledged with every later segment of their connections: their senders
transmit them again (R120). -/
def jobsWithdraw (s : State) (e : Fin 8) : State :=
  let waiting (j : Job) : Bool := j.rids.any fun r => s.adm.wait.any fun q => q.rid = r
  forEach (eng s e).jobs s fun s j =>
    if (eng s e).jobs.any (fun k => k.num = j.num) ∧ waiting j ∧ !j.seg.dup then
      let s := modEng s e fun g => { g with
        jobs := g.jobs.filter fun k => !(decide (k.conn = j.conn) && decide (j.num ≤ k.num))
        exec := g.exec.filter fun x => x.1 ≠ j.conn }
      modConn s j.conn.toNat fun x => { x with epsn := ⟨j.seg.hdr.psn, j.seg.wrap⟩, nakSeq := false }
    else s

/-- The engines' masking in admission follows the Segment Ports (R119, R120). -/
def segMask (s : State) : State :=
  forEach (List.finRange 8) s fun s e =>
    let src : Fin 20 := Fin.ofNat 20 (8 + e.val)
    let s := if reqMasked s src then withdrawAll (jobsWithdraw s e) src else s
    maskNote s src

/-- A Segment Port enters UP or DOWN as its conditions say (R366). -/
def segTry (s : State) (n : Fin 4) : State :=
  let up := segWant s n
  if s.ten.segs[n].up = up then s
  else segMask (evd (modSeg s n fun p => { p with up := up }) (if up then 896 else 897) (detail32 n.val))

/-- SEG_LIVE_CHANGE: SEGn_LIVE as seen after synchronisation. -/
def segLive (s : State) (n : Fin 4) (live : Bool) : State := segTry (modSeg s n fun p => { p with live := live }) n

def execSegLiveChange (n : Fin 4) (live : Bool) (s : State) : Host.Outcome State Fault Refusal := ok (segLive s n live)

/-- SEG_CTL_WRITE. -/
def segCtl (s : State) (n : Fin 4) (en : Bool) : State := segTry (setFld s (rTenSegCtl n.val) 0 0 (flag en)) n

def execSegCtlWrite (n : Fin 4) (en : Bool) (s : State) : Host.Outcome State Fault Refusal := ok (segCtl s n en)

/-- The port a connection transmits on: its own, or the next UP one (R366). -/
def txPort (s : State) (c : Nat) : Option (Fin 4) :=
  let p := (connOf s c).port
  ((List.range 4).map fun k => (Fin.ofNat 4 (p.val + k) : Fin 4)).find? fun n => s.ten.segs[n].up

/-! Contexts as they are stored (R397, R398). -/

def connNo : ConnMode → Nat
  | .free => 0
  | .opened => 1
  | .error => 2

def kindNo : ConnKind → Nat
  | .data => 0
  | .mirror => 1
  | .lending => 2

def errNo : ErrCause → Nat
  | .none => 0
  | .retry => 1
  | .nakSent => 2
  | .nakRecv => 3
  | .psn => 4
  | .load => 5
  | .command => 6

def keyNo : KeyMode → Nat
  | .empty => 0
  | .ready => 1
  | .active => 2
  | .draining => 3

/-- A key slot's five words. -/
def slotWords (k : KeySlot) : List Word64 :=
  ((List.range 4).map fun i => (k.key >>> (64 * i)).setWidth 64)
    ++ [packFields [(0, k.salt.toNat), (32, k.gen.toNat), (40, keyNo k.mode)]]

/-- The 31 little-endian words of a context's plaintext (R397). -/
def ctxWords (x : Conn) : List Word64 :=
  let seq (q : SeqNo) : Word64 := packFields [(0, q.n.toNat), (24, q.wrap)]
  [packFields [(0, connNo x.mode), (2, kindNo x.kind), (4, flag x.v6), (5, flag x.pin), (6, flag x.txSlot), (8, x.port.val),
     (10, errNo x.cause), (32, x.peerDev.toNat), (48, x.peerConn.toNat)],
   x.peerIp.setWidth 64, (x.peerIp >>> 64).setWidth 64,
   packFields [(0, x.nh.toNat), (8, x.dscp.toNat), (16, (x.retired.getD 0 0).toNat), (24, (x.retired.getD 1 0).toNat)]]
    ++ slotWords x.slot0 ++ slotWords x.slot1
    ++ [seq x.nsn, packFields [(0, x.una.toNat)], seq x.epsn, seq x.ctlTx, seq x.ctlRx,
      packFields [(0, x.rto), (16, (x.outst.head?.map fun o => o.tries).getD 0)],
      packFields [(0, x.ackPt.toNat), (32, flag x.degr)]]
    ++ List.replicate 10 0

/-- A word with its bytes in the other order. -/
def swap64 (v : Word64) : Word64 := (List.range 8).foldl (fun a i => (a <<< 8) ||| ((v >>> (8 * i)) &&& 0xFF)) 0

/-- The 256 bytes of a wrapped context, as four lines. -/
def ctxImage (s : State) (x : Conn) : List LineData :=
  let w := (kwWrap (Config.kek s.ten.keyEra) ((ctxWords x).map swap64)).map swap64
  (List.range 4).map fun l => (List.range 8).foldl (fun d k => setLineWord d k (w.getD (8 * l + k) 0)) 0

/-- The DAS address of a connection's context. -/
def ctxBase (s : State) (c : Nat) : Nat := compBase s 5 + 256 * c

/-- A context written back wrapped, or zeros for a free connection. -/
def ctxWrite (s : State) (c : Nat) : State :=
  let x := connOf s c
  let ls := if x.mode = .free then List.replicate 4 0 else ctxImage s x
  forEach ls.zipIdx s fun s l => dasPut s (ctxBase s c + 64 * l.2) l.1

/-- A context can be loaded: its four lines can be read and unwrap (R399). -/
def ctxLoads (s : State) (c : Nat) : Bool :=
  let ls := (List.range 4).map fun i => (dasNow s (ctxBase s c + 64 * i)).getD none
  if ls.all Option.isSome then
    let w := (ls.map fun d => (List.range 8).map fun k => swap64 (lineWord (d.getD 0) k)).flatten
    (kwUnwrap (Config.kek s.ten.keyEra) w).isSome
  else false

/-! The context cache (R399, R400). -/

/-- The cache set of a connection. -/
def ctxSet (c : Nat) : Nat := c / 8 % 64

def ctxFind (s : State) (c : Nat) : Option CtxEnt := (eng s (engOf c)).ctx.find? fun x => x.conn.toNat = c

/-- A connection's context is held and usable. -/
def ctxHeld (s : State) (c : Nat) : Bool := ((ctxFind s c).map fun x => !x.load).getD false

/-- A held context used: it becomes the most recently used, and changed if it was written. -/
def ctxTouch (s : State) (c : Nat) (dirty : Bool) : State :=
  match ctxFind s c with
  | some x => modEng s (engOf c) fun g => { g with
      ctx := (g.ctx.filter fun y => y.conn ≠ x.conn) ++ [{ x with dirty := x.dirty || dirty }] }
  | none => s

/-- What keeps a context in the cache (R400). -/
def ctxBusy (s : State) (x : CtxEnt) : Bool :=
  let c := x.conn.toNat
  let g := eng s (engOf c)
  let n := connOf s c
  x.load || g.pend.any (fun p => p.hdr.dstConn = x.conn) || g.exec.any (fun y => y.1 = x.conn)
    || g.jobs.any (fun j => j.conn = x.conn) || g.txCtl.any (fun a => a.conn = x.conn)
    || g.txRsp.any (fun a => a.conn = x.conn) || decide (0 < n.owed) || n.owedNow || n.timer || !n.outst.isEmpty

/-- A pinned context: the connection's pin bit. -/
def ctxPinned (s : State) (x : CtxEnt) : Bool := (connOf s x.conn.toNat).pin

/-- The victim of a set: the least recently used entry neither pinned nor busy. -/
def ctxVictim (s : State) (e : Fin 8) (set : Nat) : Option CtxEnt :=
  (eng s e).ctx.find? fun x => decide (ctxSet x.conn.toNat = set) && !ctxPinned s x && !ctxBusy s x

def ctxDrop (s : State) (e : Fin 8) (c : BitVec 16) : State :=
  modEng s e fun g => { g with ctx := g.ctx.filter fun x => x.conn ≠ c }

/-- Ways of a set in use. -/
def setUsed (s : State) (e : Fin 8) (set : Nat) : Nat := (eng s e).ctx.countP fun x => decide (ctxSet x.conn.toNat = set)

/-- Room made in a set without a write-back: a free way, or a victim not changed since its load. -/
def ctxRoom (s : State) (e : Fin 8) (set : Nat) : Option State :=
  if setUsed s e set < 8 then some s
  else
    match ctxVictim s e set with
    | some v => if v.dirty then none else some (ctxDrop s e v.conn)
    | none => none

/-- Context and key loads an engine runs. -/
def loadsOf (s : State) (e : Fin 8) : Nat := (eng s e).ctx.countP (fun x => x.load) + (eng s e).rkeys.countP (fun x => x.load)

/-- Loads started for the waiting segments whose contexts are not held, in order (R399). -/
def loadTry (s : State) (e : Fin 8) : State :=
  forEach (eng s e).pend s fun s p =>
    let c := p.hdr.dstConn
    if (ctxFind s c.toNat).isNone ∧ loadsOf s e < 8 then
      match ctxRoom s e (ctxSet c.toNat) with
      | some s => modEng (cntInc s rTenCtxMissCnt) e fun g => { g with ctx := g.ctx ++ [⟨c, true, false⟩] }
      | none => s
    else s

/-- A context written back and freed (R400). -/
def ctxBack (s : State) (e : Fin 8) (v : CtxEnt) : State := ctxDrop (cntInc (ctxWrite s v.conn.toNat) rTenCtxWbCnt) e v.conn

/-- Admission takes the aperture requests of a Tenon engine to the lines of a context, or to any of `ls`. -/
def apertureMay (s : State) (e : Fin 8) (ls : List Nat) : Bool := ls.all fun das => engineMay s (Fin.ofNat 20 (8 + e.val)) (2 ^ 47 + das)

/-- Such requests counted as admitted. -/
def apertureTaken (s : State) (e : Fin 8) (ls : List Nat) : State :=
  forEach ls s fun s das => engineRead s (Fin.ofNat 20 (8 + e.val)) (2 ^ 47 + das)

/-- The DAS addresses of a context's four lines. -/
def ctxLines (s : State) (c : Nat) : List Nat := (List.range 4).map fun i => ctxBase s c + 64 * i

/-- CTX_EVICT: a changed victim of a set that a load waits for is written back and freed. -/
def ctxEvict (s : State) (e : Fin 8) : State :=
  match (eng s e).pend.findSome? fun p =>
      if (ctxFind s p.hdr.dstConn.toNat).isNone ∧ 8 ≤ setUsed s e (ctxSet p.hdr.dstConn.toNat) then
        ctxVictim s e (ctxSet p.hdr.dstConn.toNat)
      else none with
  | some v =>
    let ls := ctxLines s v.conn.toNat
    if apertureMay s e ls then loadTry (ctxBack (apertureTaken s e ls) e v) e else s
  | none => s

def execCtxEvict (e : Fin 8) (s : State) : Host.Outcome State Fault Refusal := ok (ctxEvict s e)

/-! What comes back for a segment of the Shuzer's own engines. -/

/-- The accesses waiting for a lending read are served as for a lost lender, or fail with a code. -/
def fillGone (s : State) (sl : Fin 16) (line : Nat) (code : Option Code) : State :=
  match missOf s sl line with
  | some m =>
    let s := modSlice s sl fun x => { x with miss := x.miss.filter fun y => y.line ≠ line }
    forEach m.waits s fun s w =>
      match code with
      | some c => match ttFind s w.rid with
        | some t => failReq s t c
        | none => s
      | none => serveTwin s w.rid
  | none => s

/-- The completion code of a non-fatal syndrome (R379). -/
def nakCode (syn : BitVec 8) : Code := if syn = 6 then .errPower else if syn = 4 then .poison else .errFenced

/-- A repair's outcome (R313). -/
def repairSet (s : State) (n : Nat) (a : RepAns) : State :=
  modCure s fun x => { x with repairs := x.repairs.map fun r => if r.num = n ∧ r.ans.isNone then { r with ans := some a } else r }

/-- What an acknowledgement, an answer or a failure does, by why the segment was sent. -/
def segDone (s : State) (c : Nat) (g : OutSeg) (ans : SegAns) : State :=
  let k : Fin 8 := Fin.ofNat 8 c
  match g.why with
  | .mirror | .resend | .free | .probe => s
  | .mark e => match ans with
    | .acked => markAck s k e
    | _ => s
  | .fwd rid => fwdAnswer s rid ans
  | .repair n =>
    match ans with
    | .lines ls _ => match ls.headD none with
      | some d => repairSet s n (.line d)
      | none => repairSet s n .marked
    | _ => repairSet (cntInc s rCurRepairFailCnt) n .failed
  | .push p last => match ans with
    | .acked => if last then pushAck s p else s
    | _ => s
  | .lend rid =>
    match ans with
    | .acked => partDone s rid
    | .old v => match ttFind s rid with
      | some t => ttLeave s rid (some (dueOf t true .ok (v.setWidth 512)))
      | none => s
    | .nak syn => match ttFind s rid with
      | some t => failReq s t (nakCode syn)
      | none => s
    | _ => match ttFind s rid with
      | some t =>
        if t.stage ≠ .lent then s
        else if lenderLost s (panelOf t.req.addr.toNat) then serveTwin s rid
        else partDone s rid
      | none => s
  | .lendFill sl line =>
    match ans with
    | .lines ls _ => match ls.headD none with
      | some d => modMiss s sl line fun m => { m with data := some (d, false) }
      | none => modMiss s sl line fun m => { m with data := some (0, true) }
    | .nak syn =>
      if syn = 4 then modMiss s sl line fun m => { m with data := some (0, true) }
      else fillGone s sl line (some (nakCode syn))
    | _ => fillGone s sl line none
  | .alloc n => allocAnswer s n c ans
  | .copy n k => match ans with
    | .acked => copyAck s n k
    | _ => s

/-! Requests retired (R378, R385). -/

/-- The oldest unacknowledged psn and the timer follow the outstanding requests; an advance restores the timeout, and an expiry of
this FCLK is ignored (R387). With no
request left to transmit again a stop of R386 ends (DEDUCED, log entry 48). -/
def unaUpd (s : State) (c : Nat) : State :=
  modConn s c fun x =>
    let una := (x.outst.head?.map fun o => o.psn).getD x.nsn.n
    { x with
      una := una
      ackAt := some s.beat.fclk
      timer := !x.outst.isEmpty
      stopAt := if x.outst.isEmpty then none else x.stopAt
      rto := if una ≠ x.una then fld s rTenRto 6 0 else x.rto }

/-- Requests retired with an answer: they leave the outstanding requests, then their initiators hear. -/
def retire (s : State) (c : Nat) (done : List (OutReq × SegAns)) : State :=
  let s := modConn s c fun x => { x with outst := x.outst.filter fun o => !done.any fun d => decide (d.1.psn = o.psn) }
  let s := forEach done (unaUpd s c) fun s d => segDone s c d.1.seg d.2
  stallNote (curePump (slotPump s))

/-! ERROR (R394, R405). -/

/-- The neighbours whose lending connection one is take their state again (R348). -/
def nbrOfConn (s : State) (c : Nat) : State :=
  forEach (List.finRange 32) s fun s j =>
    if nbrOn s j ∧ 16 ≤ c ∧ fld s (rTirNbr j.val) 31 19 = c / 8 then nbrUpdate s j else s

/-- What entering ERROR means for the mirror and the lenders. -/
def connLost (s : State) (c : Nat) : State :=
  if c < 8 then (if s.cure.mstate = .mirrored then enterStalled s c else s)
  else if c < 16 then mirrorLost s (Fin.ofNat 8 c)
  else nbrOfConn s c

/-- Segments of a connection not yet sent that fail with it: all but the captured stream, which stays in the mirror buffer
(R529). -/
def staysQueued (g : OutSeg) : Bool := match g.why with | .mirror => true | _ => false

/-- A connection enters ERROR. -/
def connError (s : State) (c : Nat) (cause : ErrCause) : State :=
  let x := connOf s c
  if x.mode ≠ .opened then s
  else
    let id := BitVec.ofNat 16 c
    let e := engOf c
    let s := modConn s c fun x => { x with mode := .error, cause := cause, timer := false, outst := [], stopAt := none, owed := 0, owedNow := false }
    let s := evd (cntInc s rTenConnErrCnt) 912 [BitVec.ofNat 32 c, BitVec.ofNat 32 (errNo cause)]
    let s := modEng s e fun g => { g with
      exec := g.exec.filter fun y => y.1 ≠ id
      pend := g.pend.filter fun p => p.hdr.dstConn ≠ id
      atoms := g.atoms.filter fun a => a.conn ≠ id
      txCtl := g.txCtl.filter fun a => a.conn ≠ id
      txRsp := g.txRsp.filter fun a => a.conn ≠ id
      jobs := g.jobs.map fun j => if j.conn = id then { j with mute := true } else j }
    let unsent := (smGet [] s.cure.out c).filter fun g => !staysQueued g
    let s := modCure s fun q => { q with out := smSet [] q.out c ((smGet [] q.out c).filter staysQueued) }
    let s := connLost (ctxTouch s c true) c
    let s := forEach x.outst (cntAdd s rTenFlushCnt x.outst.length) fun s o => segDone s c o.seg .failed
    let s := forEach unsent s fun s g => segDone s c g .failed
    stallNote (curePump (slotPump s))

/-! Acknowledgement numbers. -/

/-- A sequence number after the next one; the wrap count grows as it passes 2^24 (R373). -/
def seqNext (q : SeqNo) : SeqNo := if q.n = BitVec.allOnes 24 then ⟨0, q.wrap + 1⟩ else ⟨q.n + 1, q.wrap⟩

/-- The wrap count of a number near a sequence (R377). -/
def seqWrap (q : SeqNo) (psn : BitVec 24) : Nat :=
  if (psn - q.n).toNat < 2 ^ 23 then q.wrap + (if psn.toNat < q.n.toNat then 1 else 0)
  else q.wrap - (if q.n.toNat < psn.toNat then 1 else 0)

/-- A sequence has passed its last wrap (R374). -/
def seqOver (q : SeqNo) : Bool := decide (2 ^ 33 ≤ q.wrap)

/-- A control segment queued for a connection: it takes the next control number when it is sent. -/
def ctlPush (s : State) (c : Nat) (opcode : BitVec 8) (ack : BitVec 24) (imm : Word32) : State :=
  let a : TxAns :=
    { conn := BitVec.ofNat 16 c, opcode := opcode, psn := 0, wrap := 0, try_ := 0, ackPsn := ack, rkey := 0, imm := imm
      offset := 0, data := [] }
  modEng s (engOf c) fun g => { g with txCtl := g.txCtl ++ [a] }

/-- NAK_FATAL: connection, syndrome and direction, which has no number of its own. -/
def nakFatalEv (s : State) (c : Nat) (syn : BitVec 8) : State :=
  let (v, s) := openDetail s
  evd s 901 [BitVec.ofNat 32 c, syn.setWidth 32, v]

/-- Fatal syndromes (R379). -/
def fatalSyn (syn : BitVec 8) : Bool := syn = 2 || syn = 3 || syn = 7

/-- A NAK for a request. A fatal one is the last segment the connection sends before it enters ERROR (R405). -/
def nakSend (s : State) (c : Nat) (psn : BitVec 24) (syn : BitVec 8) : State :=
  let s := if fatalSyn syn then connError (nakFatalEv s c syn) c .nakSent else s
  ctlPush s c 0x11 psn (syn.setWidth 32)

end Sys2Proof.Machine
end

