-- ==== Sys2Proof/Machine/TenRx.lean ====
section
/-!
DEFINITION. Segment headers, protection and receive processing, and the control segments (R368 to R381, R386).
-/
namespace Sys2Proof.Machine
open Sys2Proof

/-! Headers and protection (R370 to R374). -/

/-- A number's bytes, most significant first. -/
def wireBytes (n x : Nat) : List Byte := (beBytes n x).map (BitVec.ofNat 8)

/-- The 32 header bytes. -/
def hdrBytes (h : SegHdr) : List Byte :=
  wireBytes 1 (h.version.toNat * 16 + h.typ.toNat) ++
  wireBytes 1 (h.try_.toNat * 16 + flag h.solicit * 8 + h.zero.toNat / 2 ^ 16) ++
  wireBytes 2 h.dstConn.toNat ++ wireBytes 3 h.psn.toNat ++ wireBytes 1 h.opcode.toNat ++ wireBytes 3 h.ackPsn.toNat ++
  wireBytes 1 h.keyGen.toNat ++ wireBytes 4 h.rkey.toNat ++ wireBytes 6 h.offset.toNat ++ wireBytes 2 h.length.toNat ++
  wireBytes 4 h.imm.toNat ++ wireBytes 2 h.srcDev.toNat ++ wireBytes 2 (h.zero.toNat % 2 ^ 16)

/-- The nonce (R373). `dir` is the direction bit. -/
def segNonce (salt : Word32) (dir : Bool) (wrap : Nat) (typ try_ : BitVec 4) (psn : BitVec 24) : BitVec 96 :=
  BitVec.ofNat 96 (((((salt.toNat * 2 + flag dir) * 2 ^ 33 + wrap % 2 ^ 33) * 4 + typ.toNat % 4) * 16 + try_.toNat) * 2 ^ 24
    + psn.toNat)

/-- A key as its bytes lie in registers, byte 0 lowest, taken with byte 0 first. -/
def keyBytes (k : BitVec 256) : BitVec 256 :=
  (List.range 32).foldl (fun a i => (a <<< 8) ||| ((k >>> (8 * i)) &&& 0xFF)) 0

/-- The direction bit of a sender (R373). -/
def dirBit (sender receiver : Nat) : Bool := !decide (sender < receiver)

/-- The key slot that a generation names for receive (R403). -/
def rxSlot (x : Conn) (gen : BitVec 8) : Option KeySlot :=
  [x.slot0, x.slot1].find? fun k => decide (k.mode ≠ .empty) && decide (k.gen = gen)

/-! Step 1 (R365, R369 to R371). -/

/-- RX_DROP with the port and the reason, which has no number of its own; counted where R365 or R369 discards. -/
def rxDrop (s : State) (n : Fin 4) (count : Bool) : State :=
  let s := doIf count (fun s => cntInc s (rTenRxDropCnt n.val)) s
  let (v, s) := openDetail s
  evd s 899 [BitVec.ofNat 32 n.val, v]

/-- The address of a Segment Port for an IP version. -/
def segAddr (s : State) (n : Fin 4) (v6 : Bool) : BitVec 128 :=
  if v6 then (getReg s (rTenSegIp6h n.val)) ++ (getReg s (rTenSegIp6l n.val))
  else BitVec.ofNat 128 (fld s (rTenSegIp4 n.val) 31 0)

/-! The IP and UDP checks (R9; RFC 768, RFC 791, RFC 8200). -/

/-- The checksum of a list of bytes taken as 16-bit numbers, high byte first: the complement of their ones' complement sum. -/
def inetSum (bs : List Byte) : Nat :=
  let n := (bs.zipIdx.map fun x => if x.2 % 2 = 0 then x.1.toNat * 256 else x.1.toNat).sum
  let fold (x : Nat) : Nat := x % 2 ^ 16 + x / 2 ^ 16
  2 ^ 16 - 1 - fold (fold (fold n))

/-- The two addresses as the headers hold them. -/
def ipAddrs (d : Datagram) : List Byte :=
  let n := if d.v6 then 16 else 4
  wireBytes n (d.srcIp.toNat % 256 ^ n) ++ wireBytes n (d.dstIp.toNat % 256 ^ n)

/-- The IPv4 header checksum of a datagram without options. -/
def ipSumOf (d : Datagram) : BitVec 16 :=
  BitVec.ofNat 16 (inetSum (wireBytes 2 (0x4500 + d.dscp.toNat * 4 + d.ecn.toNat) ++ wireBytes 2 (20 + d.udpLen)
    ++ wireBytes 2 d.ident.toNat ++ wireBytes 2 (flag d.df * 2 ^ 14) ++ wireBytes 2 (d.ttl.toNat * 256 + d.proto.toNat)
    ++ ipAddrs d))

/-- The UDP checksum of a datagram, over its pseudo-header, ports, length and payload; a sum of 0 is sent as all ones. -/
def udpSumOf (d : Datagram) : BitVec 16 :=
  let x := inetSum (ipAddrs d ++ wireBytes 4 d.udpLen ++ wireBytes 4 17 ++ wireBytes 2 d.srcPort.toNat
    ++ wireBytes 2 d.dstPort.toNat ++ wireBytes 2 d.udpLen ++ hdrBytes d.hdr ++ d.body ++ wireBytes 16 d.tag.toNat)
  if x = 0 then 0xFFFF else BitVec.ofNat 16 x

/-- A received datagram passes R9: UDP, no fragment, no IPv4 options or IPv6 extension headers, and its checksums right. A UDP
checksum of 0 is no checksum and fails (log entry 97). -/
def inetOk (d : Datagram) : Bool :=
  !d.frag && !d.ext && decide (d.proto = 17) && decide (d.udpSum = udpSumOf d) && (d.v6 || decide (d.ipSum = ipSumOf d))

/-- The checks of R369: R9, and the datagram's address, port and length. -/
def datagramOk (s : State) (n : Fin 4) (d : Datagram) : Bool :=
  inetOk d && decide (d.dstIp = segAddr s n d.v6) && decide (d.dstPort.toNat = fld s rTenUdp 15 0)
    && decide (d.udpLen = 8 + 32 + d.hdr.length.toNat + 16) && decide (d.body.length = d.hdr.length.toNat)

/-- Opcodes of the three types. -/
def isReqType (h : SegHdr) : Bool := h.typ = 1
def isRespType (h : SegHdr) : Bool := h.typ = 2
def isCtlType (h : SegHdr) : Bool := h.typ = 3

/-- The version, type, opcode and zero-field checks that discard a segment (R370, R371). A request with a fault in them is
answered instead. -/
def hdrGood (h : SegHdr) : Bool :=
  decide (h.version = 1) &&
    (isReqType h
    || (isRespType h && decide (h.opcode = 4) && decide (h.zero = 0) && decide (h.length.toNat ≤ 4096))
    || (isCtlType h && decide (h.zero = 0) && decide (h.length = 0) && decide (h.offset = 0) && decide (h.rkey = 0) &&
      ((decide (h.opcode = 0x10) && decide (h.imm.toNat ≤ 1)) || (decide (h.opcode = 0x11) && decide (h.imm.toNat < 256))
        || (decide (h.opcode = 0x12) && decide (h.imm = 0)))))

/-- The region key and immediate fields of a response: a descriptor of kind LINES with its mask on a mirror connection (R307),
the immediate of R350 on a lending one, zero otherwise. -/
def respGood (x : Conn) (h : SegHdr) : Bool :=
  !isRespType h || match x.kind with
    | .data => decide (h.rkey = 0) && decide (h.imm = 0)
    | .lending => decide (h.rkey = 0)
    | .mirror => (decide (h.rkey.toNat / 2 ^ 28 = 1) || decide (h.rkey = 0)) && decide (h.rkey.toNat % 2 ^ 28 < 2 ^ 16)
        && decide (h.imm = 0)

/-! What a request is (R305, R350, R371). -/

/-- The set bits of a mask. -/
def maskCount (m : LineMask) : Nat := (List.range 64).countP fun i => m.getLsbD i

/-- A little-endian 64-bit number at the start of bytes. -/
def leNum (bs : List Byte) : Nat := (bs.zipIdx.map fun x => x.1.toNat * 256 ^ x.2).sum

/-- The mask of a MASKED or LINES_MARKED payload. -/
def payMask (bs : List Byte) : LineMask := BitVec.ofNat 64 (leNum (bs.take 8))

/-- The unmarked lines and the lines covered of a LINES_MARKED payload fit its mask. -/
def markedOk (h : SegHdr) (data : List Byte) : Bool :=
  let m := payMask data
  let n := (h.length.toNat - 8) / 64 + maskCount m
  decide (8 ≤ h.length.toNat) && decide ((h.length.toNat - 8) % 64 = 0) && decide (m ≠ 0) && decide (1 ≤ n ∧ n ≤ 64)
    && decide (m.toNat < 2 ^ n)

/-- A WRITE on an inbound mirror connection, by the kind of its descriptor. -/
def mirrorRow (h : SegHdr) (data : List Byte) : TenRow :=
  let kind := h.rkey.toNat / 2 ^ 28
  let len := h.length.toNat
  let line : Bool := decide (h.offset.toNat % 64 = 0)
  let good : Bool := decide (h.rkey.toNat % 2 ^ 28 = 0) && match kind with
    | 1 => decide (64 ≤ len) && decide (len % 64 = 0) && line
    | 2 => decide (len = 72) && line
    | 3 => decide (len = 0) && line
    | 4 => decide (len = 0) && decide (h.offset.toNat % 65536 = 0)
    | 5 => decide (len = 0)
    | 6 => markedOk h data && line
    | _ => false
  if good then .mirror kind else .invalid

/-- The shape of an opcode's length, alignment and immediate on a data connection (R371). -/
def shapeOk (h : SegHdr) : Bool :=
  let len := h.length.toNat
  let quiet : Bool := decide (h.imm = 0)
  let word : Bool := decide (h.offset.toNat % 8 = 0)
  match h.opcode.toNat with
  | 1 | 7 => decide (len ≤ 4096) && quiet
  | 2 => decide (len ≤ 4096)
  | 3 => decide (1 ≤ len ∧ len ≤ 4096) && quiet
  | 5 => decide (len = 8) && word && quiet
  | 6 => decide (len = 16) && word && quiet
  | _ => false

/-- What a request on a data connection is. -/
def dataRow (h : SegHdr) : TenRow :=
  if shapeOk h then
    match h.opcode.toNat with
    | 1 => .write
    | 2 => .writeImm
    | 3 => .readReq
    | 5 => .add8
    | 6 => .cas8
    | _ => .cureWrite
  else .invalid

/-- What a request on a lending connection is, by opcode and descriptor kind (R350). -/
def lendRow (h : SegHdr) : TenRow :=
  let kind := h.rkey.toNat / 2 ^ 28
  let len := h.length.toNat
  let span : Bool := decide (64 ≤ len ∧ len ≤ 1024)
  if h.rkey.toNat % 2 ^ 28 ≠ 0 then .invalid
  else
    match kind, h.opcode.toNat with
    | 1, 1 | 1, 3 => if span then .lendAccess else .invalid
    | 1, 5 => if len = 8 ∧ h.offset.toNat % 8 = 0 then .lendAccess else .invalid
    | 1, 6 => if len = 16 ∧ h.offset.toNat % 8 = 0 then .lendAccess else .invalid
    | 2, 3 => if len = 0 then .lendAlloc else .invalid
    | 3, 1 => if len = 0 then .lendFree else .invalid
    | _, _ => .invalid

/-- What a received segment is. -/
def rowOf (x : Conn) (c : Nat) (g : Seg) : TenRow :=
  let h := g.hdr
  if isRespType h then .readResp
  else if isCtlType h then (if h.opcode = 0x10 then .ack else if h.opcode = 0x11 then .nak else .notReady)
  else if h.zero ≠ 0 then .invalid
  else
    match x.kind with
    | .data => dataRow h
    | .lending => lendRow h
    | .mirror =>
      if 8 ≤ c then .invalid
      else
        match h.opcode.toNat with
        | 1 => mirrorRow h g.data
        | 3 => if h.offset.toNat % 64 = 0 ∧ h.length.toNat % 64 = 0 ∧ 64 ≤ h.length.toNat ∧ h.length.toNat ≤ 1024 then .readReq else .invalid
        | 5 => if h.length = 8 ∧ h.offset.toNat % 8 = 0 then .add8 else .invalid
        | 6 => if h.length = 16 ∧ h.offset.toNat % 8 = 0 then .cas8 else .invalid
        | _ => .invalid

/-- The segment at an engine's front, and what it is. -/
def frontSeg (s : State) (e : Fin 8) : Option (Nat × Seg × TenRow) :=
  (eng s e).exec.head?.map fun x => (x.1.toNat, x.2, rowOf (connOf s x.1.toNat) x.1.toNat x.2)

def popSeg (s : State) (e : Fin 8) : State := modEng s e fun g => { g with exec := g.exec.tail }

/-- Invalid requests at the front are answered NAK INVALID (R370, R371). -/
def nakFront (e : Fin 8) : Nat → State → State
  | 0, s => s
  | fuel + 1, s =>
    match frontSeg s e with
    | some (c, g, .invalid) => nakFront e fuel (nakSend (popSeg s e) c g.hdr.psn 3)
    | _ => s

def nakInvalid (s : State) (e : Fin 8) : State := nakFront e ((eng s e).exec.length + 1) s

/-! Acknowledgement of the Shuzer's requests (R378). -/

/-- Whether a request's answer is data. -/
def wantsData (g : OutSeg) : Bool := decide (g.op ≠ .write)

/-- A cumulative acknowledgement applied: writes at or before it are retired, reads and atomics note it. One that is before
`una`, or names a psn not sent, is ignored. -/
def ackApply (s : State) (c : Nat) (ack : BitVec 24) : State :=
  let x := connOf s c
  if (ack - x.una).toNat < (x.nsn.n - x.una).toNat then
    let covered (o : OutReq) : Bool := decide ((o.psn - x.una).toNat ≤ (ack - x.una).toNat)
    let done := x.outst.filter fun o => covered o && !wantsData o.seg
    let s := modConn s c fun x => { x with outst := x.outst.map fun o => if covered o then { o with acked := true } else o }
    if done.isEmpty then s else retire s c (done.map fun o => (o, .acked))
  else s

/-! Steps 3 to 7 (R376, R377, R403). -/

/-- A verified request: the sequence check (R377, R378). -/
def seqCheck (s : State) (c : Nat) (h : SegHdr) (data : List Byte) : State :=
  let x := connOf s c
  let e := engOf c
  let push (s : State) (dup : Bool) (wrap : Nat) : State :=
    nakInvalid (modEng s e fun g => { g with exec := g.exec ++ [(BitVec.ofNat 16 c, ⟨h, data, wrap, dup⟩)] }) e
  let wrap := seqWrap x.epsn h.psn
  if h.psn = x.epsn.n then
    let q := seqNext x.epsn
    if seqOver q then connError (evd s 903 (detail32 c)) c .psn
    else push (modConn s c fun x => { x with epsn := q, nakSeq := false }) false wrap
  else if (h.psn - x.epsn.n).toNat < 2 ^ 23 then
    if x.nakSeq then s
    else nakSend (modConn s c fun x => { x with nakSeq := true }) c x.epsn.n 1
  else
    let s := cntInc s rTenDupCnt
    if h.opcode = 3 ∨ h.opcode = 5 ∨ h.opcode = 6 then push s true wrap
    else if (x.ackPt - h.psn).toNat < 2 ^ 23 then modConn s c fun x => { x with owedNow := true }
    else s

/-- A segment of a cached OPEN connection through steps 3 to 7. -/
def segRecv (s : State) (p : PendSeg) : State :=
  let h := p.hdr
  let c := h.dstConn.toNat
  let e := engOf c
  let x := connOf s c
  let queue (s : State) (g : Seg) : State := modEng s e fun y => { y with exec := y.exec ++ [(h.dstConn, g)] }
  let s := ctxTouch s c false
  let drop (s : State) : State := cntInc s rTenHdrDropCnt
  let auth (s : State) : State := evd (cntInc s rTenAuthFailCnt) 898 [BitVec.ofNat 32 c, h.srcDev.setWidth 32]
  if isCtlType h && decide (h.opcode = 0x12) then
    if h.srcDev = x.peerDev then queue (ctxTouch s c true) ⟨h, [], 0, false⟩ else auth s
  else
    match rxSlot x h.keyGen with
    | none =>
      if h.keyGen ∈ x.retired then ev (cntInc s rTenRetiredGenCnt) 916 else drop s
    | some k =>
      if h.srcDev ≠ x.peerDev then auth s
      else
        let req := x.outst.find? fun o => o.psn = h.psn
        let wrap := if isReqType h then seqWrap x.epsn h.psn
          else if isCtlType h then seqWrap x.ctlRx h.psn
          else (req.map fun o => o.wrap).getD (seqWrap x.nsn h.psn)
        let nonce := segNonce k.salt (dirBit h.srcDev.toNat (deviceId s)) wrap h.typ h.try_ h.psn
        match gcmOpen (keyBytes k.key) nonce (hdrBytes h) p.body p.tag with
        | none => auth s
        | some data =>
          let s := modConn (ctxTouch s c true) c fun x => { x with rxAt := some s.beat.fclk }
          if isReqType h then seqCheck (ackApply s c h.ackPsn) c h data
          else if isRespType h then queue (ackApply s c h.ackPsn) ⟨h, data, wrap, false⟩
          else
            let up : Bool := decide ((h.psn - x.ctlRx.n).toNat < 2 ^ 23)
            queue (modConn s c fun x => { x with ctlRx := if up then ⟨h.psn, wrap⟩ else x.ctlRx }) ⟨h, data, wrap, false⟩

/-- A segment whose connection is FREE or in ERROR is discarded, else it goes through steps 3 to 7. -/
def segTake (s : State) (p : PendSeg) : State :=
  if isOpen s p.hdr.dstConn.toNat then segRecv s p else cntInc s rTenErrDropCnt

/-- An engine's queues are full: it takes no segment from its pending buffer (R132). -/
def execFull (s : State) (e : Fin 8) : Bool :=
  let n := (eng s e).exec.length
  decide (0 < n) && decide (Config.engineSegs ≤ n)

/-- An engine with room takes the waiting segments whose contexts are held, in arrival order; at most `fuel` (R132, R401). -/
def pendGo (e : Fin 8) : Nat → State → State
  | 0, s => s
  | fuel + 1, s =>
    match (eng s e).pend.find? fun p => ctxHeld s p.hdr.dstConn.toNat with
    | some p =>
      if execFull s e then s
      else pendGo e fuel (segTake (modEng s e fun g => { g with pend := eraseFirst (fun q => decide (q = p)) g.pend }) p)
    | none => s

/-- An engine takes its waiting segments: its pending buffer holds at most 64 (R375). -/
def segsGo (s : State) (e : Fin 8) : State := pendGo e 64 s

/-- A CONTEXT_NOT_READY for a request that finds the pending buffer full (R375). -/
def cnrPush (s : State) (p : PendSeg) : State :=
  let a : TxAns :=
    { conn := p.hdr.dstConn, opcode := 0x12, psn := 0, wrap := 0, try_ := 0, ackPsn := p.hdr.psn, rkey := 0
      imm := p.srcPort.setWidth 32, offset := 0, data := [] }
  modEng s (engOf p.hdr.dstConn.toNat) fun g => { g with txCtl := g.txCtl ++ [a] }

/-- Step 2: dispatch, the context, and the pending buffer, in which a segment also waits while the engine's queues are full
(R132, R394, R399, R401). -/
def segDispatch (s : State) (p : PendSeg) : State :=
  let c := p.hdr.dstConn.toNat
  let e := engOf c
  let held := ctxHeld s c
  if !isOpen s c then cntInc s rTenErrDropCnt
  else
  let s := doIf held (fun s => cntInc s rTenCtxHitCnt) s
  if held && !(eng s e).pend.any (fun q => q.hdr.dstConn = p.hdr.dstConn) && !execFull s e then
    segRecv s p
  else if (eng s e).pend.length < 64 then
    let s := modEng s e fun g => { g with pend := g.pend ++ [p] }
    let s := if (eng s e).pend.length = 64 then evd s 914 (detail32 e.val) else s
    loadTry s e
  else if isReqType p.hdr then cnrPush s p
  else s

/-- RX_DATAGRAM: a datagram received on a Segment Port. -/
def rxDatagram (s : State) (n : Fin 4) (b : RxBeats) (d : Datagram) : State :=
  if !s.ten.segs[n].up then s
  else
    let s := cntInc s (rTenRxCnt n.val)
    if b ≠ .whole ∨ !datagramOk s n d then rxDrop (if b = .whole then cntInc s rTenHdrDropCnt else s) n true
    else if !hdrGood d.hdr || (isOpen s d.hdr.dstConn.toNat && !respGood (connOf s d.hdr.dstConn.toNat) d.hdr) then
      rxDrop (cntInc s rTenHdrDropCnt) n false
    else segDispatch s ⟨d.hdr, d.body, d.tag, d.srcPort⟩

def execRxDatagram (n : Fin 4) (b : RxBeats) (d : Datagram) (s : State) : Host.Outcome State Fault Refusal :=
  ok (rxDatagram s n b d)

/-! Loads (R399). -/

/-- A context load fails: the connection enters ERROR and its waiting segments are discarded. -/
def loadFail (s : State) (c : Nat) : State := connError (evd s 913 (detail32 c)) c .load

/-- A region key entry as its line holds it (R407). -/
def rkeyOf (d : LineData) : Rkey :=
  let w := lineWord d 0
  { mode := match fieldOf w 1 0 with
      | 1 => .valid
      | 2 => .revoking
      | _ => .invalid
    perm := BitVec.ofNat 4 (fieldOf w 7 4), ring := Fin.ofNat 32 (fieldOf w 12 8), gen := BitVec.ofNat 8 (fieldOf w 39 32)
    peer := BitVec.ofNat 16 (fieldOf w 63 48), base := (lineWord d 1).toNat, size := (lineWord d 2).toNat }

def rkeyNo : RkeyMode → Nat
  | .invalid => 0
  | .valid => 1
  | .revoking => 2

/-- The line of a region key entry. -/
def rkeyLine (k : Rkey) : LineData :=
  setLineWord (setLineWord (setLineWord 0 0
    (packFields [(0, rkeyNo k.mode), (4, k.perm.toNat), (8, k.ring.val), (32, k.gen.toNat), (48, k.peer.toNat)]))
    1 (BitVec.ofNat 64 k.base)) 2 (BitVec.ofNat 64 k.size)

/-- The DAS address of a region key entry. -/
def rkeyBase (s : State) (i : Nat) : Nat := compBase s 6 + 64 * i

/-- A region key entry read from its line; none where the line cannot be read. -/
def rkeyRead (s : State) (i : Nat) : Option Rkey := ((dasNow s (rkeyBase s i)).getD none).map rkeyOf

/-- CTX_LOAD_DONE: an engine's oldest load completes, its lines read through the aperture as its
requests; a context's waiting segments proceed, or its connection enters ERROR. -/
def ctxLoadDone (s : State) (e : Fin 8) : State :=
  match (eng s e).ctx.find? fun x => x.load with
  | some x =>
    let c := x.conn.toNat
    if !apertureMay s e (ctxLines s c) then s
    else
    let s := apertureTaken s e (ctxLines s c)
    if ctxLoads s c then
      let s := modEng s e fun g => { g with
        ctx := (g.ctx.filter fun y => y.conn ≠ x.conn) ++ [{ x with load := false, dirty := false }] }
      loadTry (segsGo s e) e
    else loadTry (loadFail (ctxDrop s e x.conn) c) e
  | none =>
    match (eng s e).rkeys.find? fun x => x.load with
    | some x =>
      if !apertureMay s e [rkeyBase s x.idx] then s
      else
      let s := apertureTaken s e [rkeyBase s x.idx]
      match rkeyRead s x.idx with
      | some k => modEng s e fun g => { g with
          rkeys := (g.rkeys.filter fun y => y.idx ≠ x.idx) ++ [⟨x.idx, false, k⟩] }
      | none =>
        let s := modEng s e fun g => { g with rkeys := g.rkeys.filter fun y => y.idx ≠ x.idx }
        match (eng s e).exec.find? fun y => y.2.hdr.rkey.toNat / 2 ^ 17 = x.idx && decide ((connOf s y.1.toNat).kind = .data) with
        | some y => loadFail s y.1.toNat
        | none => s
    | none => s

def execCtxLoadDone (e : Fin 8) (s : State) : Host.Outcome State Fault Refusal := ok (ctxLoadDone s e)

/-! Control segments and responses (R378, R379, R382, R386). -/

/-- A command takes the segment at an engine's front if it is its own. -/
def takeFront (s : State) (e : Fin 8) (row : TenRow) (f : State → Nat → Seg → State) : State :=
  let s := segsGo (nakInvalid s e) e
  match frontSeg s e with
  | some (c, g, r) => if r = row then segsGo (nakInvalid (f (popSeg s e) c g) e) e else s
  | none => s

/-- TENON_ACK. -/
def tenAck (s : State) (e : Fin 8) : State := takeFront s e .ack fun s c g => ackApply s c g.hdr.ackPsn

def execTenonAck (e : Fin 8) (s : State) : Host.Outcome State Fault Refusal := ok (tenAck s e)

/-- The requests of a go-back-N round from a psn. -/
def roundHit (x : Conn) (p : BitVec 24) (o : OutReq) : Bool := decide ((p - x.una).toNat ≤ (o.psn - x.una).toNat)

/-- A request of a round from a psn would need a try beyond retry (R386). -/
def retryOver (s : State) (c : Nat) (p : BitVec 24) : Bool :=
  (connOf s c).outst.any fun o => roundHit (connOf s c) p o && decide (fld s rTenRto 11 8 < o.tries + 1)

/-- A go-back-N round from a psn: a request that would need a try beyond retry puts the connection in ERROR (R386). -/
def goBack (s : State) (c : Nat) (p : BitVec 24) : State :=
  if retryOver s c p then connError (evd s 900 (detail32 c)) c .retry
  else modConn s c fun x => { x with
    outst := x.outst.map fun o => if roundHit x p o then { o with retx := true } else o, stopAt := none }

/-- TENON_NAK. A NAK naming a psn that is not outstanding is ignored. -/
def tenNak (s : State) (e : Fin 8) : State :=
  takeFront s e .nak fun s c g =>
    let s := cntInc s rTenNakRxCnt
    let syn : BitVec 8 := g.hdr.imm.setWidth 8
    match (connOf s c).outst.find? fun o => o.psn = g.hdr.ackPsn with
    | none => s
    | some o =>
      if syn = 1 then goBack (modConn s c fun x => { x with ackAt := some s.beat.fclk }) c g.hdr.ackPsn
      else if fatalSyn syn then connError (nakFatalEv s c syn) c .nakRecv
      else if syn = 4 ∨ syn = 5 ∨ syn = 6 ∨ syn = 8 then retire s c [(o, .nak syn)]
      else s

def execTenonNak (e : Fin 8) (s : State) : Host.Outcome State Fault Refusal := ok (tenNak s e)

/-- TENON_CONTEXT_NOT_READY. -/
def tenNotReady (s : State) (e : Fin 8) : State :=
  takeFront s e .notReady fun s c g =>
    let s := cntInc s rTenCnrRxCnt
    if (connOf s c).outst.any fun o => o.psn = g.hdr.ackPsn then
      modConn s c fun x => { x with stopAt := some g.hdr.ackPsn, outst := x.outst.map fun o => { o with retx := false } }
    else s

def execTenonContextNotReady (e : Fin 8) (s : State) : Host.Outcome State Fault Refusal := ok (tenNotReady s e)

/-- The lines of a payload of whole lines. -/
def payLines (bs : List Byte) : List LineData :=
  (List.range (bs.length / 64)).map fun i => BitVec.ofNat 512 (leNum ((bs.drop (64 * i)).take 64))

/-- What a READ_RESP answers: an atomic's old value; lines, those its mask marks as none on a mirror connection. -/
def respAns (x : Conn) (g : Seg) (o : OutReq) : SegAns :=
  match o.seg.op with
  | .add8 | .cas8 => .old (BitVec.ofNat 64 (leNum (g.data.take 8)))
  | _ =>
    let ls := (payLines g.data).zipIdx.map fun l =>
      if x.kind = .mirror ∧ l.2 < 16 ∧ g.hdr.rkey.getLsbD l.2 then none else some l.1
    .lines ls g.hdr.imm

/-- TENON_READ_RESP: the first response that matches an outstanding READ_REQ or atomic is its answer. -/
def tenResp (s : State) (e : Fin 8) : State :=
  takeFront s e .readResp fun s c g =>
    let x := connOf s c
    match x.outst.find? fun o => decide (o.psn = g.hdr.psn) && wantsData o.seg with
    | some o => retire s c [(o, respAns x g o)]
    | none => s

def execTenonReadResp (e : Fin 8) (s : State) : Host.Outcome State Fault Refusal := ok (tenResp s e)

/-- RTO_EXPIRY: the timeout doubles and a go-back-N round starts, from the psn a CONTEXT_NOT_READY named if one did. An
acknowledgement, an answer or a NAK applied in this FCLK wins, and any arrival wins over an expiry that would exceed retry
(R22, R387). -/
def rtoExpiry (s : State) (c : Nat) : State :=
  let x := connOf s c
  let p := (x.stopAt.filter fun p => x.outst.any fun o => o.psn = p).getD x.una
  if x.mode ≠ .opened ∨ !x.timer ∨ x.outst.isEmpty ∨ x.ackAt = some s.beat.fclk then s
  else if retryOver s c p ∧ x.rxAt = some s.beat.fclk then s
  else goBack (modConn (cntInc s rTenRtoCnt) c fun x => { x with rto := min 1000 (2 * x.rto) }) c p

def execRtoExpiry (c : BitVec 16) (s : State) : Host.Outcome State Fault Refusal := ok (rtoExpiry s c.toNat)

end Sys2Proof.Machine
end

