-- ==== Sys2Proof/Machine/TenExec.lean ====
section
/-!
DEFINITION. Requests carried out by the Tenon engines: the region key check, the lines of a request, its answer and its
acknowledgement, the inbound mirror stream, and the notice rings (R305, R307, R378 to R384, R388 to R390, R408, R410).
-/
namespace Sys2Proof.Machine
open Sys2Proof

/-! Jobs. -/

def modJob (s : State) (e : Fin 8) (n : Nat) (f : Job → Job) : State :=
  modEng s e fun g => { g with jobs := g.jobs.map fun j => if j.num = n then f j else j }

def dropJob (s : State) (e : Fin 8) (n : Nat) : State := modEng s e fun g => { g with jobs := g.jobs.filter fun j => j.num ≠ n }

/-- Lines of a job still wait for admission. -/
def jobWaiting (s : State) (j : Job) : Bool := j.rids.any fun r => s.adm.wait.any fun q => q.rid = r

/-- Every line of a job is admitted and locally durable (R297, R380). -/
def jobDurable (s : State) (j : Job) : Bool :=
  !jobWaiting s j && !s.tt.any fun t => j.rids.contains t.req.rid && notDurable s t

/-- A job is in flight for a revoke: until its last line is admitted, or its last read data is delivered (R410). -/
def jobInFlight (s : State) (j : Job) : Bool :=
  match j.wait with
  | .read | .atomic => decide (j.res.length < j.lines) && !j.met
  | .posting _ => false
  | _ => jobWaiting s j

/-- An engine carries out 128 segments that are past the region key check (R410). -/
def jobsFull (s : State) (e : Fin 8) : Bool := decide (128 ≤ (eng s e).jobs.countP (jobInFlight s))

/-- A segment of a connection before this one has still to be applied (R307). -/
def earlierJobs (s : State) (e : Fin 8) (c : Nat) : Bool :=
  (eng s e).jobs.any fun j => decide (j.conn.toNat = c) && !j.seg.dup && !jobDurable s j

/-- The results delivered to an engine given to its jobs. -/
def takeResults (s : State) (e : Fin 8) : State :=
  let mine (d : Dest) : Option (Nat × Nat) := match d with
    | .tenon x n i => if x = e then some (n, i) else none
    | _ => none
  let rs := s.results
  let s : State := { s with results := rs.filter fun r => (mine r.dest).isNone }
  forEach rs s fun s r =>
    match mine r.dest with
    | some (n, i) => modJob s e n fun j => { j with res := j.res ++ [(i, r.code, r.data)] }
    | none => s

/-- The syndrome of the first line that failed (R379). A poisoned line fails a read or an atomic, but not a read on a mirror
connection, whose answer marks it (R307). -/
def jobSyn (x : Conn) (j : Job) : Option (BitVec 8) :=
  let rd : Bool := match j.wait with | .read | .atomic => true | _ => false
  let bad := j.res.filterMap fun r => match r.2.1 with
    | .errRange | .errLock => some (3 : BitVec 8)
    | .errFenced => some 5
    | .errPower => some 6
    | .poison => if rd && !(decide (x.kind = .mirror) && decide (j.wait = .read)) then some 4 else none
    | _ => none
  bad.head?

/-- A response queued for a request (R377, R382). -/
def respPush (s : State) (c : Nat) (g : Seg) (rkey imm : Word32) (data : List Byte) : State :=
  let a : TxAns :=
    { conn := BitVec.ofNat 16 c, opcode := 4, psn := g.hdr.psn, wrap := g.wrap, try_ := g.hdr.try_, ackPsn := 0, rkey := rkey
      imm := imm, offset := g.hdr.offset, data := data }
  modEng s (engOf c) fun y => { y with txRsp := y.txRsp ++ [a] }

/-- The bytes of a line. -/
def lineBytes (d : LineData) : List Byte := (List.range 64).map (lineByte d)

/-- The result of line `i` of a job. -/
def jobLine (j : Job) (i : Nat) : Option (Code × LineData) := (j.res.find? fun r => r.1 = i).map fun r => r.2

/-- The answer of a READ_REQ whose lines have all come; the mask of its descriptor on a mirror connection (R307). -/
def readAnswer (s : State) (j : Job) (x : Conn) : State :=
  let h := j.seg.hdr
  let ls := (List.range j.lines).map fun i => (jobLine j i).getD (.ok, 0)
  let bytes := (ls.map fun l => lineBytes l.2).flatten
  let data := (bytes.drop (h.offset.toNat % 64)).take h.length.toNat
  let mask := (ls.zipIdx.filterMap fun l => if l.1.1 = .poison then some (2 ^ l.2) else none).sum
  let rkey : Nat := if x.kind = .mirror then 2 ^ 28 + mask else 0
  respPush s j.conn.toNat j.seg (BitVec.ofNat 32 rkey) 0 data

/-- An atomic's result stored, the oldest of 1,024 given up (R384). -/
def atomStore (s : State) (e : Fin 8) (j : Job) (old : Word64) : State :=
  modEng s e fun g => { g with
    atoms := (if 1024 ≤ g.atoms.length then g.atoms.tail else g.atoms) ++ [⟨j.conn, j.seg.hdr.psn, j.seg.wrap, old⟩] }

/-- An earlier request of the job's connection is not acknowledged yet. -/
def jobBehind (s : State) (e : Fin 8) (j : Job) : Bool :=
  (eng s e).jobs.any fun k => decide (k.conn = j.conn) && decide (k.num < j.num) && !k.seg.dup

/-- A CURE_WRITE's condition (R380): none where it is not met; whether it was met by CURE_DEGRADED. -/
def cureMet (s : State) (e : Fin 8) (j : Job) (x : Conn) : Option Bool :=
  if !jobDurable s j || jobBehind s e j then none
  else
    match epJoin x.lastMir j.epoch with
    | none => some false
    | some m =>
      match s.cure.mstate with
      | .detached => none
      | .degraded => some (!epLe m s.cure.cD)
      | _ => if epLe m (curC s) then some false else none

/-- The producer's ring moves past the entry it wrote (R390). -/
def ringNext (s : State) (r : Fin 32) : State :=
  let n := 2 ^ fld s (rTenRingA r.val) 4 0
  modTen s fun t => { t with
    rings := t.rings.set r (let g := t.rings[r]
      { g with prod := (g.prod + 1) % n, phase := if g.prod + 1 = n then !g.phase else g.phase }) }

/-- One job looked at: its answer is queued, or its NAK, once its condition holds (R379, R380, R382, R384). -/
def jobStep (e : Fin 8) (s : State) (j : Job) : State :=
  let x := connOf s j.conn.toNat
  let c := j.conn.toNat
  let done (s : State) : State := modJob s e j.num fun j => { j with met := true }
  let fails (s : State) : Option State := (jobSyn x j).map fun syn =>
    done (if j.mute then s else nakSend s c j.seg.hdr.psn syn)
  if j.met then s
  else
    match j.wait with
    | .lines => if jobDurable s j then (fails s).getD (done s) else s
    | .notice _ => if jobDurable s j then (fails s).getD s else s
    | .posting n =>
      if jobWaiting s j then s
      else
        match fails s with
        | some s => s
        | none =>
          if s.ntc.length < 256 then
            let s := ntcPush s n
            done (if n.overflow then s else ringNext s n.ring)
          else s
    | .cure =>
      match if jobDurable s j then fails s else none with
      | some s => s
      | none =>
        match cureMet s e j x with
        | some d => done (modConn s c fun x => { x with degr := x.degr || d })
        | none => s
    | .read =>
      if j.lines ≤ j.res.length then (fails s).getD (done (if j.mute then s else readAnswer s j x)) else s
    | .atomic =>
      if j.lines ≤ j.res.length ∧ jobDurable s j then
        (fails s).getD <|
          let old : Word64 := ((jobLine j 0).getD (.ok, 0)).2.setWidth 64
          if j.mute then done s
          else done (respPush (atomStore s e j old) c j.seg 0 0 (lineBytes (old.setWidth 512) |>.take 8))
      else s

/-- A job answered leaves its engine once every earlier request of its connection has; the cumulative point advances past
it (R378, R381). -/
def jobRetire (e : Fin 8) (s : State) (j : Job) : State :=
  match (eng s e).jobs.find? fun k => k.num = j.num with
  | some j =>
    if !j.met then s
    else if j.seg.dup || j.mute then dropJob s e j.num
    else if jobBehind s e j then s
    else
      let s := modConn s j.conn.toNat fun x => { x with
        ackPt := j.seg.hdr.psn
        owed := x.owed + 1
        owedNow := x.owedNow || j.seg.hdr.solicit
        lastMir := epJoin x.lastMir j.epoch }
      dropJob s e j.num
  | none => s

/-- A connection that is being closed becomes FREE once no segment of it executes (R394). What it had sent or queued is lost as
on an entry to ERROR (DESIGN CHOICE, log entry 47). -/
def closeTry (s : State) (c : BitVec 16) : State :=
  let e := engOf c.toNat
  if (eng s e).jobs.any (fun j => j.conn = c) ∨ (eng s e).exec.any (fun y => y.1 = c) then s
  else
    let x := connOf s c.toNat
    let unsent := (smGet [] s.cure.out c.toNat).filter fun g => !staysQueued g
    let s := modCure s fun q => { q with out := smSet [] q.out c.toNat ((smGet [] q.out c.toNat).filter staysQueued) }
    let s := modConn s c.toNat fun _ => Conn.none
    let s := if x.mode = .opened ∧ 8 ≤ c.toNat then connLost s c.toNat else s
    let s := forEach (x.outst.map OutReq.seg ++ unsent) s fun s g => segDone s c.toNat g .failed
    let s := modEng (ctxDrop s e c) e fun g => { g with
      exec := g.exec.filter fun y => y.1 ≠ c
      pend := g.pend.filter fun p => p.hdr.dstConn ≠ c
      atoms := g.atoms.filter fun a => a.conn ≠ c
      txCtl := g.txCtl.filter fun a => a.conn ≠ c
      txRsp := g.txRsp.filter fun a => a.conn ≠ c }
    modTen (ctxWrite (nbrOfConn s c.toNat) c.toNat) fun t => { t with closing := t.closing.filter fun y => y ≠ c, connRes := 1 }

/-- What an engine's jobs can do goes on. -/
def tenPump (s : State) (e : Fin 8) : State :=
  let s := takeResults s e
  let s := forEach (eng s e).jobs s (jobStep e)
  let s := forEach (eng s e).jobs s (jobRetire e)
  forEach (s.ten.closing.filter fun c => engOf c.toNat = e) s closeTry

/-! The lines of a request (R382). -/

/-- The part of a line a request covers: the line's address, the first byte, the number of bytes, and where they lie in the
payload. -/
def pieces (off len : Nat) : List (Nat × Nat × Nat × Nat) :=
  if len = 0 then []
  else (List.range ((off + len - 1) / 64 - off / 64 + 1)).map fun i =>
    let a := off / 64 * 64 + 64 * i
    let lo := if i = 0 then off % 64 else 0
    let hi := min 64 (off + len - a)
    (a, lo, hi - lo, a + lo - off)

/-- A line's bytes from a payload, in place. -/
def pieceData (bs : List Byte) (lo n pos : Nat) : LineData := BitVec.ofNat 512 (leNum ((bs.drop pos).take n) * 256 ^ lo)

def pieceMask (lo n : Nat) : LineMask := BitVec.ofNat 64 ((2 ^ n - 1) * 2 ^ lo)

/-- A request of an engine for one line (R110). -/
def tenReq (s : State) (e : Fin 8) (job i : Nat) (op : MemOp) (a : Nat) (mask : LineMask) (data : LineData) (poison : Bool) : Req :=
  { rid := s.adm.nextRid + i, src := Fin.ofNat 20 (8 + e.val), eng := 0, op := op, addr := BitVec.ofNat 48 a, mask := mask,
    data := data, hasData := true, poison := poison, mid := BitVec.ofNat 12 (0x810 + e.val), qos := 0, rt := false,
    lock := false, lockEnd := false, pool := 0, dest := .tenon e job i, kind := .access, since := none }

/-- A job begun with its requests presented to admission, each given its job's number and its place. -/
def jobStart (s : State) (e : Fin 8) (c : Nat) (g : Seg) (rkey : Option Nat) (wait : JobWait) (met : Bool)
    (rs : List (Nat → Nat → Req)) : State :=
  let n := (eng s e).nextJob
  let rs := rs.zipIdx.map fun f => f.1 n f.2
  let j : Job :=
    { num := n, stamp := s.adm.nextRid, conn := BitVec.ofNat 16 c, seg := g, rkey := rkey, rids := rs.map fun r => r.rid
      lines := rs.length, res := [], epoch := none, wait := wait, met := met, snap := false, mute := false }
  let s := modEng s e fun y => { y with jobs := y.jobs ++ [j], nextJob := n + 1 }
  let s : State := { s with adm := { s.adm with wait := s.adm.wait ++ rs, nextRid := s.adm.nextRid + rs.length } }
  if inDrain s then powerRefuse s else s

/-- The line writes of a payload: whole lines as full-line writes, parts as partial writes (R382). `base` is added to each
address. -/
def writeReqs (s : State) (e : Fin 8) (base off : Nat) (bs : List Byte) : List (Nat → Nat → Req) :=
  (pieces off bs.length).map fun p => fun n i =>
    if p.2.2.1 = 64 then tenReq s e n i .wrLine (base + p.1) (BitVec.allOnes 64) (pieceData bs 0 64 p.2.2.2) false
    else tenReq s e n i .wrPart (base + p.1) (pieceMask p.2.1 p.2.2.1) (pieceData bs p.2.1 p.2.2.1 p.2.2.2) false

/-- The line reads of a READ_REQ. -/
def readReqs (s : State) (e : Fin 8) (base off len : Nat) : List (Nat → Nat → Req) :=
  (pieces off len).map fun p => fun n i => tenReq s e n i .rdLine (base + p.1) (BitVec.allOnes 64) 0 false

/-- The request of an atomic. -/
def atomReq (s : State) (e : Fin 8) (base : Nat) (g : Seg) : Nat → Nat → Req := fun n i =>
  tenReq s e n i (if g.hdr.opcode = 5 then .add8 else .cas8) (base + g.hdr.offset.toNat) (BitVec.allOnes 64)
    (BitVec.ofNat 512 (leNum g.data)) false

/-! The region key check (R406 to R408). -/

/-- What R408 says of a request on a data connection; none while the entry is not in the engine's cache. -/
def keyCheck (s : State) (e : Fin 8) (h : SegHdr) : Option (Bool × Rkey) :=
  let i := h.rkey.toNat / 2 ^ 17
  match (eng s e).rkeys.find? fun y => decide (y.idx = i) && !y.load with
  | none => none
  | some y =>
    let k := y.val
    let bit (n : Nat) : Bool := k.perm.getLsbD n
    let perm : Bool := match h.opcode.toNat with
      | 3 => bit 0
      | 1 | 7 => bit 1
      | 2 => bit 1 && bit 3
      | _ => bit 2
    let off := h.offset.toNat
    let inside : Bool := decide (k.base ≤ off) && decide (off + h.length.toNat ≤ k.base + k.size)
      && decide (off < k.base + k.size)
    some (decide (k.mode = .valid) && decide (k.gen.toNat = h.rkey.toNat / 512 % 256)
      && decide ((Config.rkeyCheck s.ten.keyEra i k.gen.toNat).toNat = h.rkey.toNat % 512)
      && (decide (k.peer = 0xFFFF) || decide (k.peer = h.srcDev)) && perm && inside, k)

/-- A load of a region key entry started, the least recently used entry of 256 given up. -/
def keyLoad (s : State) (e : Fin 8) (i : Nat) : State :=
  if (eng s e).rkeys.any (fun y => y.idx = i) ∨ 8 ≤ loadsOf s e then s
  else modEng s e fun g => { g with
    rkeys := (if 256 ≤ g.rkeys.length then eraseFirst (fun y => !y.load) g.rkeys else g.rkeys) ++ [⟨i, true, Rkey.zero⟩] }

/-- A failed key check: RKEY_DENIED with the index, the connection and the condition, which has no number of its own. -/
def keyDeny (s : State) (c : Nat) (h : SegHdr) : State :=
  let (v, s) := openDetail s
  let s := evd (cntInc s rTenRkeyDenyCnt) 918 [BitVec.ofNat 32 (h.rkey.toNat / 2 ^ 17), BitVec.ofNat 32 c, v]
  nakSend s c h.psn 2

/-- The predecessor's segments on a mirror connection (R307): accepted only from its Device ID, and a write only into a region
that is Local here. -/
def mirrorOk (s : State) (h : SegHdr) (wr : Bool) (len : Nat) : Bool × State :=
  if h.srcDev ≠ s.fw.pred then (false, s)
  else
    let lo := h.offset.toNat / 4096
    let n := (h.offset.toNat + max 1 len - 1) / 4096 - lo + 1
    if wr && (List.range n).any fun i => mirroredAt s ((lo + i) * 4096) then (false, ev s 780) else (true, s)

/-- An engine's jobs go on, its invalid segments are refused and its waiting segments taken: what stands before and after the
segment that a command carries out. -/
def tenTurn (s : State) (e : Fin 8) : State := segsGo (nakInvalid (tenPump s e) e) e

/-- A command carries out the request at its engine's front: at most 128 in an engine; the region key check on a data
connection, R307 on a mirror one; an address beyond the LMS is INVALID (R376 step 8, R379, R410). A
READ_REQ of the mirror stream waits until the segments before it are applied (R307). -/
def takeReq8 (s : State) (e : Fin 8) (row : TenRow) (wr : Bool) (len : Seg → Nat)
    (f : State → Nat → Seg → Option (Nat × Rkey) → State) : State :=
  let s := tenTurn s e
  match frontSeg s e with
  | some (c, g, r) =>
    let run (s : State) (k : Option (Nat × Rkey)) : State :=
      tenTurn
        (if lmsTop s < g.hdr.offset.toNat + len g then nakSend (cntInc s rMapRangeErrCnt) c g.hdr.psn 3 else f s c g k) e
    if r ≠ row ∨ jobsFull s e then s
    else
      match (connOf s c).kind with
      | .data =>
        match keyCheck s e g.hdr with
        | none => keyLoad s e (g.hdr.rkey.toNat / 2 ^ 17)
        | some (true, k) => run (popSeg s e) (some (g.hdr.rkey.toNat / 2 ^ 17, k))
        | some (false, _) => tenTurn (keyDeny (popSeg s e) c g.hdr) e
      | .mirror =>
        if row = .readReq ∧ earlierJobs s e c then s
        else
        let (good, s) := mirrorOk s g.hdr wr (len g)
        if good then run (popSeg s e) none else tenTurn (nakSend (popSeg s e) c g.hdr.psn 2) e
      | .lending => s
  | none => s

/-- The length of a request in memory, as its header gives it. -/
def segLen (g : Seg) : Nat := g.hdr.length.toNat

/-! The commands (R382, R384, R390). -/

def tenWrite (s : State) (e : Fin 8) : State :=
  takeReq8 s e .write true segLen fun s c g k =>
    jobStart s e c g (k.map Prod.fst) .lines false (writeReqs s e 0 g.hdr.offset.toNat g.data)

def execTenonWrite (e : Fin 8) (s : State) : Host.Outcome State Fault Refusal := ok (tenWrite s e)

/-- TENON_WRITE_IMM: refused before any line is written where its ring is not enabled. -/
def tenWriteImm (s : State) (e : Fin 8) : State :=
  takeReq8 s e .writeImm true segLen fun s c g k =>
    let r : Fin 32 := (k.map fun x => x.2.ring).getD 0
    if rbit s (rTenRingA r.val) 63 then
      jobStart s e c g (k.map Prod.fst) (.notice r) false (writeReqs s e 0 g.hdr.offset.toNat g.data)
    else nakSend (evd s 902 (detail32 r.val)) c g.hdr.psn 3

def execTenonWriteImm (e : Fin 8) (s : State) : Host.Outcome State Fault Refusal := ok (tenWriteImm s e)

def tenCureWrite (s : State) (e : Fin 8) : State :=
  takeReq8 s e .cureWrite true segLen fun s c g k =>
    jobStart s e c g (k.map Prod.fst) .cure false (writeReqs s e 0 g.hdr.offset.toNat g.data)

def execTenonCureWrite (e : Fin 8) (s : State) : Host.Outcome State Fault Refusal := ok (tenCureWrite s e)

def tenRead (s : State) (e : Fin 8) : State :=
  takeReq8 s e .readReq false segLen fun s c g k =>
    jobStart s e c g (k.map Prod.fst) .read false (readReqs s e 0 g.hdr.offset.toNat g.hdr.length.toNat)

def execTenonReadReq (e : Fin 8) (s : State) : Host.Outcome State Fault Refusal := ok (tenRead s e)

/-- An atomic: performed, or answered from the stored results; a duplicate whose result is no longer held is STALE (R384).
`base` is added to its address. -/
def atomStart (s : State) (e : Fin 8) (base : Nat) (c : Nat) (g : Seg) (k : Option Nat) : State :=
  let old := (eng s e).atoms.find? fun a => decide (a.conn.toNat = c) && decide (a.psn = g.hdr.psn) && decide (a.wrap = g.wrap)
  let running := (eng s e).jobs.any fun j => decide (j.conn.toNat = c) && decide (j.seg.hdr.psn = g.hdr.psn)
  match old with
  | some a =>
    let s := respPush s c g 0 0 ((lineBytes (a.old.setWidth 512)).take 8)
    if g.dup then s else jobStart s e c g k .lines true []
  | none =>
    if g.dup then (if running then s else nakSend (ev s 904) c g.hdr.psn 7)
    else jobStart s e c g k .atomic false [atomReq s e base g]

def tenAtom (s : State) (e : Fin 8) (row : TenRow) : State :=
  takeReq8 s e row true (fun _ => 8) fun s c g k => atomStart s e 0 c g (k.map Prod.fst)

def execTenonAtomAdd8 (e : Fin 8) (s : State) : Host.Outcome State Fault Refusal := ok (tenAtom s e .add8)
def execTenonAtomCas8 (e : Fin 8) (s : State) : Host.Outcome State Fault Refusal := ok (tenAtom s e .cas8)

/-! The inbound mirror stream (R305, R307). -/

/-- LINES: full-line writes at consecutive lines. -/
def mirrorLines (s : State) (e : Fin 8) : State :=
  takeReq8 s e (.mirror 1) true segLen fun s c g _ =>
    jobStart s e c g none .lines false (writeReqs s e 0 g.hdr.offset.toNat g.data)

def execMirrorLines (e : Fin 8) (s : State) : Host.Outcome State Fault Refusal := ok (mirrorLines s e)

/-- MASKED: a partial write of the line. -/
def mirrorMasked (s : State) (e : Fin 8) : State :=
  takeReq8 s e (.mirror 2) true (fun _ => 64) fun s c g _ =>
    jobStart s e c g none .lines false [fun n i =>
      tenReq s e n i .wrPart g.hdr.offset.toNat (payMask g.data) (pieceData (g.data.drop 8) 0 64 0) false]

def execMirrorMasked (e : Fin 8) (s : State) : Host.Outcome State Fault Refusal := ok (mirrorMasked s e)

/-- POISON: the line written poisoned. -/
def mirrorPoison (s : State) (e : Fin 8) : State :=
  takeReq8 s e (.mirror 3) true (fun _ => 64) fun s c g _ =>
    let (v, s) := drawFree 512 s
    jobStart s e c g none .lines false [fun n i =>
      tenReq s e n i .wrLine g.hdr.offset.toNat (BitVec.allOnes 64) v true]

def execMirrorPoison (e : Fin 8) (s : State) : Host.Outcome State Fault Refusal := ok (mirrorPoison s e)

/-- TRIM of the panel. -/
def mirrorTrim (s : State) (e : Fin 8) : State :=
  takeReq8 s e (.mirror 4) true (fun _ => 65536) fun s c g _ =>
    jobStart s e c g none .lines false [fun n i => tenReq s e n i .trim g.hdr.offset.toNat (BitVec.allOnes 64) 0 false]

def execMirrorTrim (e : Fin 8) (s : State) : Host.Outcome State Fault Refusal := ok (mirrorTrim s e)

/-- MARK: nothing is written. -/
def mirrorMark (s : State) (e : Fin 8) : State :=
  takeReq8 s e (.mirror 5) false (fun _ => 0) fun s c g _ => jobStart s e c g none .lines false []

def execMirrorMark (e : Fin 8) (s : State) : Host.Outcome State Fault Refusal := ok (mirrorMark s e)

/-- Lines covered by a LINES_MARKED payload. -/
def markedLines (g : Seg) : Nat := (g.hdr.length.toNat - 8) / 64 + maskCount (payMask g.data)

/-- LINES_MARKED: marked lines written poisoned, the others with the next line of the payload. -/
def mirrorMarked (s : State) (e : Fin 8) : State :=
  takeReq8 s e (.mirror 6) true (fun g => 64 * markedLines g) fun s c g _ =>
    let m := payMask g.data
    let ls := payLines (g.data.drop 8)
    let (v, s) := drawFree 512 s
    let line (k : Nat) : Nat → Nat → Req := fun n i =>
      let a := g.hdr.offset.toNat + 64 * k
      if m.getLsbD k then tenReq s e n i .wrLine a (BitVec.allOnes 64) v true
      else
        let u := (List.range k).countP fun q => !m.getLsbD q
        tenReq s e n i .wrLine a (BitVec.allOnes 64) (ls.getD u 0) false
    jobStart s e c g none .lines false ((List.range (markedLines g)).map line)

def execMirrorLinesMarked (e : Fin 8) (s : State) : Host.Outcome State Fault Refusal := ok (mirrorMarked s e)

/-! Notice rings (R388 to R390). -/

/-- The oldest WRITE_IMM whose data is durable and that waits to post on a ring. -/
def noticeNext (s : State) (r : Fin 32) : Option (Fin 8 × Job) :=
  ((List.finRange 8).map fun e => ((eng s e).jobs.filter fun j =>
      decide (j.wait = .notice r) && jobDurable s j && !j.met).map fun j => (e, j)).flatten.foldl
    (fun (acc : Option (Fin 8 × Job)) x => match acc with
      | some b => if x.2.stamp < b.2.stamp then some x else some b
      | none => some x) none

/-- A notice of the ring is being posted. -/
def ringPosting (s : State) (r : Fin 32) : Bool :=
  s.ten.engines.toList.any fun g => g.jobs.any fun j => match j.wait with
    | .posting n => decide (n.ring = r) && !j.met
    | _ => false

/-- The 16 bytes of a ring entry (R389). -/
def ringEntry (h : SegHdr) (phase : Bool) : Nat :=
  h.imm.toNat + h.srcDev.toNat * 2 ^ 32 + h.dstConn.toNat * 2 ^ 48 + h.offset.toNat * 2 ^ 64
    + (h.length.toNat % 2 ^ 13 + flag phase * 2 ^ 15) * 2 ^ 112

/-- The address of a ring's control line. -/
def ringCtl (s : State) (r : Fin 32) : Nat := fld s (rTenRingB r.val) 47 6 * 64

/-- The consumer index of a ring's control line, read through the Veneer or from its lender (`far`); a line that cannot be
read leaves the index last read. -/
def ringRead (s : State) (r : Fin 32) (far : List (Nat × LineData)) : State :=
  match listLine s far (ringCtl s r) with
  | some d => modTen s fun t => { t with rings := t.rings.set r { t.rings[r] with cons := (d.setWidth 16 : BitVec 16).toNat } }
  | none => s

/-- A ring has no room for an entry (R390). -/
def ringFull (s : State) (r : Fin 32) : Bool :=
  decide ((s.ten.rings[r].prod + 1) % 2 ^ fld s (rTenRingA r.val) 4 0 = s.ten.rings[r].cons)

/-- The notice of a WRITE_IMM's entry, or of its overflow (R390). -/
def ringNote (s : State) (r : Fin 32) (h : SegHdr) (full : Bool) : Notice :=
  { overflow := full, ring := r, ownerMid := BitVec.ofNat 12 (fld s (rTenRingA r.val) 59 48), srcDev := h.srcDev
    index := BitVec.ofNat 16 s.ten.rings[r].prod, imm := h.imm, conn := h.dstConn }

/-- The DAS address of a ring's next entry. -/
def ringAddr (s : State) (r : Fin 32) : Nat := fld s (rTenRingA r.val) 47 6 * 64 + 16 * s.ten.rings[r].prod

/-- The request that writes a WRITE_IMM's ring entry. -/
def ringReq (s : State) (r : Fin 32) (e : Fin 8) (j : Job) : Req :=
  tenReq s e j.num 0 .wrPart (lineAddr (ringAddr s r)) (pieceMask (ringAddr s r % 64) 16)
    (BitVec.ofNat 512 (ringEntry j.seg.hdr s.ten.rings[r].phase * 256 ^ (ringAddr s r % 64))) false

/-- The producer writes the entry of a WRITE_IMM, or posts the overflow; an entry beyond the LMS top, or beyond the DAS top in
the aperture, ends ERR_RANGE (R79, R80). -/
def ringPut (s : State) (r : Fin 32) (e : Fin 8) (j : Job) : State :=
  if ringFull s r then modJob s e j.num fun k => { k with wait := .posting (ringNote s r j.seg.hdr true), rids := [] }
  else if engineBad s (ringAddr s r) then
    modJob (cntInc s rMapRangeErrCnt) e j.num fun k => { k with
      wait := .posting (ringNote s r j.seg.hdr false), rids := [], res := k.res ++ [(0, .errRange, 0)] }
  else
    let q := ringReq s r e j
    let t : State := { s with adm := { s.adm with wait := s.adm.wait ++ [q], nextRid := s.adm.nextRid + 1 } }
    modJob t e j.num fun k => { k with wait := .posting (ringNote s r j.seg.hdr false), rids := [q.rid] }

/-- NOTICE_POST: the producer of a ring serves the oldest WRITE_IMM that waits for it (R390). From PFAIL_N low its entry would
not be admitted, so the WRITE_IMM ends NAK POWER (R65, R379). An entry whose address is beyond the LMS, or beyond the DAS in the
aperture, ends ERR_RANGE, so INVALID (R79, R80). -/
def noticePost (s : State) (r : Fin 32) (far : List (Nat × LineData)) : State :=
  let s := forEach (List.finRange 8) s tenPump
  if ringPosting s r then s
  else
    match noticeNext s r with
    | none => s
    | some (e, j) =>
      if inDrain s then
        tenPump (modJob (if j.mute then s else nakSend s j.conn.toNat j.seg.hdr.psn 6) e j.num fun j => { j with met := true }) e
      else
        let src : Fin 20 := Fin.ofNat 20 (8 + e.val)
        if !ringFull s r then tenPump (ringPut s r e j) e
        else if engineMay s src (ringCtl s r) then
          tenPump (ringPut (ringRead (engineRead s src (ringCtl s r)) r far) r e j) e
        else s

def execNoticePost (r : Fin 32) (far : List (Nat × LineData)) (s : State) : Host.Outcome State Fault Refusal :=
  ok (noticePost s r far)

/-- TEN.RING_A written: with en = 1 in force only en is taken; a write of 1 sets prod to 0 and phase to 1. A reserved size is
not taken. -/
def ringAWrite (s : State) (r : Fin 32) (v : Word64) : State :=
  let reg := rTenRingA r.val
  let s := if rbit s reg 63 then setFld s reg 63 63 (fieldOf v 63 63)
    else
      let sz := if 4 ≤ fieldOf v 4 0 ∧ fieldOf v 4 0 ≤ 16 then fieldOf v 4 0 else fld s reg 4 0
      setReg s reg (packFields [(63, fieldOf v 63 63), (48, fieldOf v 59 48), (6, fieldOf v 47 6), (0, sz)])
  if bitOf v 63 then modTen s fun t => { t with rings := t.rings.set r { t.rings[r] with prod := 0, phase := true } } else s

def execRingAWrite (r : Fin 32) (v : Word64) (s : State) : Host.Outcome State Fault Refusal := ok (ringAWrite s r v)

/-! Acknowledging (R380, R381). -/

/-- The degraded bit: set while the mirror state has not returned to MIRRORED. -/
def degrBit (s : State) (x : Conn) : Bool := x.degr && decide (s.cure.mstate ≠ .mirrored)

/-- ACK_SEND: an ACK is queued where one is owed, at once on a solicited request or the count, or at the coalescing time
(`late`). -/
def ackSend (s : State) (c : Nat) (late : Bool) : State :=
  let s := tenPump s (engOf c)
  let x := connOf s c
  let due : Bool := x.owedNow || (decide (0 < x.owed) && (late || decide (fld s rTenAck 23 16 ≤ x.owed)))
  if x.mode = .opened ∧ due then
    let s := modConn s c fun x => { x with owed := 0, owedNow := false, degr := degrBit s x }
    ctlPush s c 0x10 x.ackPt (BitVec.ofNat 32 (flag (degrBit s x)))
  else s

def execAckSend (c : BitVec 16) (late : Bool) (s : State) : Host.Outcome State Fault Refusal := ok (ackSend s c.toNat late)

/-! The lender (R350, R351). -/

/-- The grants of a borrower that hold every frame of a range, outside their header frames. -/
def grantHolds (s : State) (dev f n : Nat) : Bool :=
  (List.finRange 32).any fun g => grantOn s g && decide (grantDev s g = dev) && decide (grantFirst s g < f)
    && decide (f + n ≤ grantFirst s g + grantCount s g)

/-- The borrower's round-trip probe: line 0 of the header frame. -/
def isProbe (s : State) (h : SegHdr) : Bool :=
  decide (h.opcode = 3) && decide (h.length = 64) && (List.finRange 32).any fun g =>
    grantOn s g && decide (grantDev s g = h.srcDev.toNat) && decide (h.offset.toNat = grantFirst s g * 65536)

/-- LEND_DENIED with the source Device ID; the segment is answered NAK ACCESS. -/
def lendDeny (s : State) (c : Nat) (h : SegHdr) : State :=
  nakSend (evd (cntInc s rTirLendDenyCnt) 846 [h.srcDev.setWidth 32]) c h.psn 2

/-- The enabled grant of a borrower. -/
def grantOf (s : State) (dev : Nat) : Option (Fin 32) :=
  (List.finRange 32).find? fun g => grantOn s g && decide (grantDev s g = dev)

/-- The enabled grant of a borrower that a returned frame lies in, outside its header. -/
def grantOfFrame (s : State) (dev f : Nat) : Option (Fin 32) :=
  (List.finRange 32).find? fun q => grantOn s q && decide (grantDev s q = dev)
    && decide (grantFirst s q < f) && decide (f < grantFirst s q + grantCount s q)

/-- Admission takes the aperture accesses of an ALLOC or a FREE to the header frame and the chain frame (R352). -/
def chainMay (s : State) (e : Fin 8) (h : SegHdr) (row : TenRow) : Bool :=
  match row with
  | .lendAlloc => match grantOf s h.srcDev.toNat with
    | some q => inDrain s || decide (s.tier.grantFree[q] = 0) || apertureMay s e [s.tier.grantHead[q] * 65536, grantFirst s q * 65536]
    | none => true
  | .lendFree => match grantOfFrame s h.srcDev.toNat h.imm.toNat with
    | some q => inDrain s || apertureMay s e [h.imm.toNat * 65536, grantFirst s q * 65536]
    | none => true
  | _ => true

/-- A command carries out the lending segment at its engine's front. -/
def takeLend (s : State) (e : Fin 8) (row : TenRow) (f : State → Nat → Seg → State) : State :=
  let s := tenTurn s e
  match frontSeg s e with
  | some (c, g, r) =>
    if r ≠ row ∨ jobsFull s e ∨ !chainMay s e g.hdr row then s
    else tenTurn (f (popSeg s e) c g) e
  | none => s

/-- LEND_ACCESS: performed as a Reserve aperture request of the engine; at or above the DAS top it is ERR_RANGE (R80), so INVALID. -/
def lendAccess (s : State) (e : Fin 8) : State :=
  takeLend s e .lendAccess fun s c g =>
    let h := g.hdr
    let off := h.offset.toNat
    let len := if h.opcode = 6 then 8 else h.length.toNat
    let f := off / 65536
    if grantHolds s h.srcDev.toNat f ((off + len - 1) / 65536 - f + 1) || isProbe s h then
      if dasTop s < off + len then nakSend (cntInc s rMapRangeErrCnt) c h.psn 3
      else if h.opcode = 1 then jobStart s e c g none .lines false (writeReqs s e (2 ^ 47) off g.data)
      else if h.opcode = 3 then jobStart s e c g none .read false (readReqs s e (2 ^ 47) off len)
      else atomStart s e (2 ^ 47) c g none
    else lendDeny s c h

def execLendAccess (e : Fin 8) (s : State) : Host.Outcome State Fault Refusal := ok (lendAccess s e)

/-- A held grant answers ALLOC and FREE with NAK (R352). -/
def grantHeld (s : State) (g : Fin 32) : Bool := rbit s (rTirGrantA g.val) 61

/-- The line a chain frame holds in its line 0. -/
def chainRead (s : State) (f : Nat) : Option LineData := (dasNow s (f * 65536)).getD none

/-- LEND_ALLOC: the head frame is taken, or NAK RESOURCE where the grant has none, is held, or its chain cannot be read, and NAK POWER
from PFAIL_N low (R65). -/
def lendAlloc (s : State) (e : Fin 8) : State :=
  takeLend s e .lendAlloc fun s c g =>
    let fail (s : State) : State :=
      nakSend (if g.dup then s else jobStart s e c g none .lines true []) c g.hdr.psn (if inDrain s then 6 else 8)
    match grantOf s g.hdr.srcDev.toNat with
    | none => lendDeny s c g.hdr
    | some q =>
      if inDrain s || grantHeld s q || decide (s.tier.grantFree[q] = 0) then fail s
      else
        let f := s.tier.grantHead[q]
        let s := apertureTaken s e [f * 65536, grantFirst s q * 65536]
        match chainRead s f with
        | some d =>
          let s := grantHeader (modGrant s q true true ((lineWord d 0).toNat % 2 ^ 32) (s.tier.grantFree[q] - 1)) q
          let s := respPush s c g 0 (BitVec.ofNat 32 f) []
          if g.dup then s else jobStart s e c g none .lines true []
        | none => fail s

def execLendAlloc (e : Fin 8) (s : State) : Host.Outcome State Fault Refusal := ok (lendAlloc s e)

/-- LEND_FREE: the frame is pushed onto the chain. -/
def lendFree (s : State) (e : Fin 8) : State :=
  takeLend s e .lendFree fun s c g =>
    let f := g.hdr.imm.toNat
    match grantOfFrame s g.hdr.srcDev.toNat f with
    | none => lendDeny s c g.hdr
    | some q =>
      if inDrain s then nakSend (jobStart s e c g none .lines true []) c g.hdr.psn 6
      else if grantHeld s q then nakSend (jobStart s e c g none .lines true []) c g.hdr.psn 8
      else
        let s := apertureTaken s e [f * 65536, grantFirst s q * 65536]
        let s := dasPut s (f * 65536) (chainLine s.tier.grantHead[q] 0)
        let s := grantHeader (modGrant s q true true f (s.tier.grantFree[q] + 1)) q
        jobStart s e c g none .lines true []

def execLendFree (e : Fin 8) (s : State) : Host.Outcome State Fault Refusal := ok (lendFree s e)

end Sys2Proof.Machine
end

