-- ==== Sys2Proof/Machine/TenTx.lean ====
section
/-!
DEFINITION. Transmission: what a Segment Port sends next, segments made of what the engines hold, and rebuilt mirror segments
(R306, R309, R364, R366, R368, R370 to R375, R381, R386).
-/
namespace Sys2Proof.Machine
open Sys2Proof

/-! Datagrams (R368, R370, R372 to R375). -/

/-- The key slot a connection sends with (R403). -/
def keyActive (x : Conn) : KeySlot := if x.txSlot then x.slot1 else x.slot0

/-- A header of a connection's segment; only the named fields are not zero. -/
def hdrFor (s : State) (x : Conn) (typ try_ : BitVec 4) (psn : BitVec 24) (opcode : BitVec 8) : SegHdr :=
  { version := 1, typ := typ, try_ := try_, solicit := false, zero := 0, dstConn := x.peerConn, psn := psn, opcode := opcode,
    ackPsn := 0, keyGen := (keyActive x).gen, rkey := 0, offset := 0, length := 0, imm := 0,
    srcDev := BitVec.ofNat 16 (deviceId s) }

/-- The datagram of a header, its body and its trailer on a port: Not-ECT, and in IPv4 identification 0 and Don't Fragment; its
checksums are those of its contents (R9, R368). -/
def datagramOf (s : State) (n : Fin 4) (c : Nat) (h : SegHdr) (body : List Byte) (tag : BitVec 128) : Datagram :=
  let x := connOf s c
  let d : Datagram :=
    { v6 := x.v6, ecn := 0, df := !x.v6, ident := 0, frag := false, ext := false, proto := 17, ipSum := 0,
      srcIp := segAddr s n x.v6, dstIp := x.peerIp, ttl := BitVec.ofNat 8 (fld s rTenUdp 23 16), dscp := x.dscp,
      flow := BitVec.ofNat 20 (c % 2 ^ 16), nh := x.nh, srcPort := BitVec.ofNat 16 c,
      dstPort := BitVec.ofNat 16 (fld s rTenUdp 15 0), udpLen := 8 + 32 + body.length + 16, udpSum := 0,
      hdr := h, body := body, tag := tag }
  { d with udpSum := udpSumOf d, ipSum := if x.v6 then 0 else ipSumOf d }

/-- Bytes of the IP datagram. -/
def datagramLen (d : Datagram) : Nat := (if d.v6 then 40 else 20) + d.udpLen

/-- A segment protected under the connection's ACTIVE key. -/
def sealSeg (s : State) (n : Fin 4) (c : Nat) (h : SegHdr) (wrap : Nat) (data : List Byte) : Datagram :=
  let x := connOf s c
  let k := keyActive x
  let h := { h with length := BitVec.ofNat 16 data.length }
  let nonce := segNonce k.salt (dirBit (deviceId s) x.peerDev.toNat) wrap h.typ h.try_ h.psn
  let (body, tag) := gcmSeal (keyBytes k.key) nonce (hdrBytes h) data
  datagramOf s n c h body tag

/-- A datagram sent on a port: it is counted, and its bytes in the window of R309. -/
def txSend (s : State) (n : Fin 4) (cast : Bool) (d : Datagram) : State :=
  let s := cntInc (modSeg s n fun p => { p with sent := some d }) (rTenTxCnt n.val)
  modTen s fun t =>
    let all := t.winAll[n] + datagramLen d
    let mine := t.winCast[n] + (if cast then datagramLen d else 0)
    { t with
      winAll := t.winAll.set n (if 65536 ≤ all then 0 else all)
      winCast := t.winCast.set n (if 65536 ≤ all then 0 else mine) }

/-! Control segments and responses (R364, R375, R377, R381). -/

/-- The first of an engine's answers whose connection transmits on a port. -/
def firstFor (s : State) (n : Fin 4) (l : List TxAns) : Option TxAns := l.find? fun a => decide (txPort s a.conn.toNat = some n)

/-- A control segment sent. A CONTEXT_NOT_READY is unprotected and takes no control number. -/
def sendCtl (s : State) (n : Fin 4) (e : Fin 8) (a : TxAns) : State :=
  let c := a.conn.toNat
  let x := connOf s c
  let s := modEng s e fun g => { g with txCtl := eraseFirst (fun y => decide (y = a)) g.txCtl }
  if x.mode = .free then s
  else if a.opcode = 0x12 then
    let h : SegHdr := { hdrFor s x 3 0 0 0x12 with dstConn := a.imm.setWidth 16, keyGen := 0, ackPsn := a.ackPsn }
    txSend (cntInc s rTenCnrTxCnt) n false (datagramOf s n c h [] 0)
  else
    let q := seqNext x.ctlTx
    if seqOver q then connError (evd s 903 (detail32 c)) c .psn
    else
      let h : SegHdr := { hdrFor s x 3 0 x.ctlTx.n a.opcode with ackPsn := a.ackPsn, imm := a.imm }
      let s := ctxTouch (modConn s c fun x => { x with ctlTx := q }) c true
      let s := doIf (decide (a.opcode = 0x11)) (fun s => cntInc s rTenNakTxCnt) s
      txSend s n false (sealSeg s n c h x.ctlTx.wrap [])

/-- The cumulative point carried by a request or a response is an acknowledgement. -/
def ackCarried (s : State) (c : Nat) : State :=
  ctxTouch (modConn s c fun x => { x with owed := 0, owedNow := false, degr := degrBit s x }) c true

/-- A READ_RESP sent. -/
def sendRsp (s : State) (n : Fin 4) (e : Fin 8) (a : TxAns) : State :=
  let c := a.conn.toNat
  let x := connOf s c
  let s := modEng s e fun g => { g with txRsp := eraseFirst (fun y => decide (y = a)) g.txRsp }
  if x.mode ≠ .opened then s
  else
    let h : SegHdr := { hdrFor s x 2 a.try_ a.psn a.opcode with
      ackPsn := x.ackPt, rkey := a.rkey, offset := a.offset, imm := a.imm }
    txSend (ackCarried s c) n false (sealSeg s n c h a.wrap a.data)

/-! Requests (R305, R350, R371, R377). -/

/-- The wire opcode of a request. -/
def opNo : SegOp → BitVec 8
  | .write => 1
  | .readReq => 3
  | .add8 => 5
  | .cas8 => 6

/-- A number's bytes, least significant first. -/
def leBytes (n x : Nat) : List Byte := (List.range n).map fun i => BitVec.ofNat 8 (x / 256 ^ i)

/-- The payload of a request. A line that cannot go as data goes marked, and in a segment that has no marks its bytes are
open (R305, R350). The payload of a READ_REQ is as long as its length field says (R369, R370) and its bytes are open (DEDUCED, log
entry 49). -/
def segPayload (s : State) (g : OutSeg) : List Byte × State :=
  match g.op with
  | .readReq =>
    let n := if g.kind = 1 then 64 * g.len else 0
    let (v, s) := drawFree (8 * n) s
    (leBytes n v.toNat, s)
  | .add8 => (leBytes 8 g.operand.toNat, s)
  | .cas8 => (leBytes 16 g.operand.toNat, s)
  | .write =>
    if g.kind = 6 then
      let m := (g.lines.zipIdx.filterMap fun l => if l.1.isNone then some (2 ^ l.2) else none).sum
      (leBytes 8 m ++ (g.lines.filterMap fun l => l.map lineBytes).flatten, s)
    else
      let (v, s) := if g.lines.any Option.isNone then drawFree 512 s else ((0 : LineData), s)
      let bytes := (g.lines.map fun l => lineBytes (l.getD v)).flatten
      ((if g.kind = 2 then leBytes 8 g.mask.toNat ++ bytes else bytes), s)

/-- CUR.MIR_LINE_CNT and CUR.MARK_CNT of a segment sent on an outbound mirror connection. -/
def mirCount (s : State) (c : Nat) (g : OutSeg) : State :=
  if 8 ≤ c ∧ c < 16 ∧ g.op = .write then
    if g.kind = 5 then cntInc s rCurMarkCnt
    else if g.kind = 1 ∨ g.kind = 2 ∨ g.kind = 3 then cntAdd s rCurMirLineCnt (max 1 g.lines.length)
    else s
  else s

/-- A request of the Shuzer's own engines sent with its psn and its try. -/
def sendReq (s : State) (n : Fin 4) (c : Nat) (psn : BitVec 24) (wrap tries : Nat) (g : OutSeg) : State :=
  let x := connOf s c
  let (data, s) := segPayload (mirCount s c g) g
  let (sol, s) := drawFree 1 s
  let h : SegHdr := { hdrFor s x 1 (BitVec.ofNat 4 tries) psn (opNo g.op) with
    solicit := decide (sol = 1), ackPsn := x.ackPt, rkey := BitVec.ofNat 32 (g.kind.toNat * 2 ^ 28), offset := g.addr, imm := g.imm }
  txSend (ackCarried s c) n (decide (8 ≤ c) && decide (c < 16)) (sealSeg s n c h wrap data)

/-- A segment of the mirror stream that carries lines, and is rebuilt when it is transmitted again (R306). -/
def rebuilds (g : OutSeg) : Bool :=
  let own : Bool := match g.why with
    | .mirror | .resend | .push _ _ => true
    | _ => false
  own && decide (g.op = .write) && (decide (g.kind = 1) || decide (g.kind = 2) || decide (g.kind = 6))

/-- The LMS addresses of the lines such a segment covers. -/
def rebuildLines (g : OutSeg) : List Nat :=
  if rebuilds g then (List.range (max 1 g.lines.length)).map fun i => g.addr.toNat / 64 * 64 + 64 * i else []

/-- A mirror segment rebuilt from local memory (R306): LINES over the lines it covered, LINES_MARKED where one cannot go as
data. POISON, TRIM and MARK go unchanged, and so do forwarded accesses. `far` is what the lender of a panel answered. -/
def rebuild (s : State) (g : OutSeg) (far : List (Nat × LineData)) : OutSeg × State :=
  if rebuilds g then
    let s := forEach (rebuildLines g) s fun s a => if lineBlank s a then s else engineRead s 18 a
    let p := g.addr.toNat / 65536
    let first := g.addr.toNat / 64 % 1024
    let ls := (List.range (max 1 g.lines.length)).map fun i =>
      let a := p * 65536 + 64 * (first + i)
      (first + i,
        if lineBlank s a then some (some 0)
        else if (dasOf s a).isSome then readNow s a
        else ((far.find? fun x => x.1 = a / 64).map fun x => some x.2))
    let s := cntAdd (poisonSent s p ls) rCurRetxLineCnt ls.length
    (segRun p g.imm (first, ls.map fun x => x.2.join) g.why, s)
  else (g, s)

/-- A request transmitted again (R386). -/
def sendRetx (s : State) (n : Fin 4) (c : Nat) (o : OutReq) (far : List (Nat × LineData)) : State :=
  let s := modConn (cntInc s rTenRetxCnt) c fun x => { x with
    outst := x.outst.map fun y => if y.psn = o.psn then { y with tries := o.tries + 1, retx := false } else y }
  let (g, s) := if 8 ≤ c ∧ c < 16 then rebuild s o.seg far else (o.seg, s)
  sendReq s n c o.psn o.wrap (o.tries + 1) g

/-- A new request takes the next psn and is outstanding; the timer is armed (R377, R385). -/
def sendNew (s : State) (n : Fin 4) (c : Nat) (g : OutSeg) : State :=
  let x := connOf s c
  let q := seqNext x.nsn
  if seqOver q then connError (evd s 903 (detail32 c)) c .psn
  else
    let s := modCure s fun y => { y with out := smSet [] y.out c (smGet [] y.out c).tail }
    let o : OutReq := { psn := x.nsn.n, wrap := x.nsn.wrap, tries := 0, seg := g, acked := false, retx := false }
    let s := modConn s c fun x => { x with
      nsn := q
      outst := x.outst ++ [o]
      timer := true
      rto := if x.timer then x.rto else fld s rTenRto 6 0 }
    sendReq s n c o.psn o.wrap 0 g

/-- A connection has a request to send on a port: one to transmit again, or a new one. -/
def connReady (s : State) (n : Fin 4) (c : Nat) : Bool :=
  let x := connOf s c
  decide (x.mode = .opened) && x.stopAt.isNone && decide (txPort s c = some n)
    && (((x.outst.find? fun o => o.retx).map fun o =>
          !(decide (8 ≤ c) && decide (c < 16)) || (rebuildLines o.seg).all fun a => lineBlank s a || engineMay s 18 a).getD false
      || (decide (x.outst.length < 1024) && !(smGet [] s.cure.out c).isEmpty
        && !(decide (8 ≤ c) && decide (c < 16) && s.cure.resend.getLsbD (c - 8))))

/-- The connections of an engine with a request to send on a port. -/
def reqConns (s : State) (n : Fin 4) (e : Fin 8) (cast : Bool) : List Nat :=
  (s.conns.map Prod.fst).filter fun c =>
    decide (engOf c = e) && connReady s n c && (!cast || (decide (8 ≤ c) && decide (c < 16)))

/-- A connection's next request sent. -/
def sendNext (s : State) (n : Fin 4) (e : Fin 8) (c : Nat) (far : List (Nat × LineData)) : State :=
  let s := modEng s e fun g => { g with rrConn := c }
  match (connOf s c).outst.find? fun o => o.retx with
  | some o => sendRetx s n c o far
  | none =>
    match smGet [] s.cure.out c with
    | g :: _ => stallNote (curePump (sendNew s n c g))
    | [] => s

/-- What an engine sends on a port: its control segments first, then responses, then requests, connection by connection. -/
def engSend (s : State) (n : Fin 4) (e : Fin 8) (cast : Bool) (far : List (Nat × LineData)) : Option State :=
  let reqs := reqConns s n e cast
  if cast && reqs.isEmpty then none
  else
    match firstFor s n (eng s e).txCtl with
    | some a => some (sendCtl s n e a)
    | none =>
      match if cast then none else firstFor s n (eng s e).txRsp with
      | some a => some (sendRsp s n e a)
      | none =>
        match reqs.find? fun c => (eng s e).rrConn < c with
        | some c => some (sendNext s n e c far)
        | none => reqs.head?.map fun c => sendNext s n e c far

/-- The engines in the order a port turns to them. -/
def engOrder (s : State) (n : Fin 4) : List (Fin 8) := (List.range 8).map fun k => Fin.ofNat 8 (s.ten.segs[n].rr + k)

/-- The first engine with something to send on a port. -/
def trySend (s : State) (n : Fin 4) (cast : Bool) (far : List (Nat × LineData)) : Option State :=
  (engOrder s n).findSome? fun e => (engSend s n e cast far).map fun s => modSeg s n fun p => { p with rr := (e.val + 1) % 8 }

/-- Casting has not had its share of the bytes sent in this window (R309). -/
def castDue (s : State) (n : Fin 4) : Bool :=
  decide (s.ten.winCast[n] * 100 ≤ fld s rCurCfg 14 8 * s.ten.winAll[n])

/-- TX_DATAGRAM: a port sends one datagram. -/
def txDatagram (s : State) (n : Fin 4) (far : List (Nat × LineData)) : State :=
  let s := forEach (List.finRange 8) s tenPump
  if s.ten.segs[n].up then
    match if castDue s n then trySend s n true far else none with
    | some s => s
    | none => (trySend s n false far).getD s
  else s

def execTxDatagram (n : Fin 4) (far : List (Nat × LineData)) (s : State) : Host.Outcome State Fault Refusal :=
  ok (txDatagram s n far)

end Sys2Proof.Machine
end

