-- ==== Sys2Proof/Machine/Conn.lean ====
section
/-!
DEFINITION. The connection, key and region key commands (R394, R395, R400, R404, R409 to R411).
-/
namespace Sys2Proof.Machine
open Sys2Proof

/-! Connection commands. -/

/-- TEN.CONN_SEL. -/
def connSel (s : State) : Nat := fld s rTenConnSel 15 0

/-- A command's result; the key staging counts from the last command (R395). -/
def connEnd (s : State) (res : BitVec 3) : State := modTen s fun t => { t with connRes := res, keyGot := 0 }

/-- A refused command. -/
def connRefuse (s : State) (op : Nat) : State := connEnd (evd s 919 (detail32 op)) 2

/-- A write of TEN.CONN_CMD with go = 1: ignored while a command is in progress. -/
def connCmd (s : State) (op : Nat) (f : State → Nat → State) : State :=
  if s.ten.closing.isEmpty then f (modTen (setFld s rTenConnCmd 3 0 op) fun t => { t with connRes := 0 }) (connSel s)
  else setFld s rTenConnCmd 3 0 op

/-- A way of a connection's cache set made free, a changed victim written back; none while the set has no victim, or admission
does not take the write-back (R400). -/
def ctxPlace (s : State) (c : Nat) : Option State :=
  let e := engOf c
  match ctxRoom s e (ctxSet c) with
  | some s => some s
  | none => match ctxVictim s e (ctxSet c) with
    | some v =>
      let ls := ctxLines s v.conn.toNat
      if apertureMay s e ls then some (ctxBack (apertureTaken s e ls) e v) else none
    | none => none

/-- A context put into the cache. -/
def ctxPut (s : State) (c : Nat) (dirty : Bool) : State :=
  modEng s (engOf c) fun g => { g with ctx := g.ctx ++ [⟨BitVec.ofNat 16 c, false, dirty⟩] }

/-- A command on a connection whose context is needed: it is loaded first if it is not held, and a load that fails ends the
command. While the load cannot start, admission does not take its reads, or it runs already, the command has not begun. -/
def withCtx (s : State) (c : Nat) (f : State → State) : State :=
  if ctxHeld s c then f s
  else if (ctxFind s c).isSome then s
  else
    match ctxPlace s c with
    | none => s
    | some s =>
      if !apertureMay s (engOf c) (ctxLines s c) then s
      else
      let s := cntInc (apertureTaken s (engOf c) (ctxLines s c)) rTenCtxMissCnt
      if ctxLoads s c then f (ctxPut s c false) else connEnd (loadFail s c) 3

/-- The staged configuration, TEN.CONN_CFG0. -/
def cfgKind (s : State) : Option ConnKind :=
  match fld s rTenConnCfg0 31 30 with
  | 0 => some .data
  | 1 => some .mirror
  | 2 => some .lending
  | _ => none

/-- The kind matches the ID range of R393: mirror 0 to 15; lending a base set in TIR.NBR; data 16 and above. -/
def kindOk (s : State) (c : Nat) : Bool :=
  match cfgKind s with
  | some .data => decide (16 ≤ c)
  | some .mirror => decide (c < 16)
  | some .lending => decide (16 ≤ c) && (List.finRange 32).any fun j => decide (fld s (rTirNbr j.val) 31 19 = c / 8)
  | none => false

/-- Pinned contexts of a connection's cache set. -/
def setPinned (s : State) (c : Nat) : Nat :=
  (eng s (engOf c)).ctx.countP fun x => decide (ctxSet x.conn.toNat = ctxSet c) && ctxPinned s x

/-- The key staged. -/
def keyStaged (s : State) : KeySlot :=
  { mode := .ready, key := s.ten.keyVal, salt := BitVec.ofNat 32 (fld s rTenKeyCfg 63 32)
    gen := BitVec.ofNat 8 (fld s rTenKeyCfg 7 0) }

/-- A sequence staged in TEN.CONN_TXSEQ or TEN.CONN_RXSEQ. -/
def seqStaged (s : State) (r : RegRef) : SeqNo := ⟨BitVec.ofNat 24 (fld s r 23 0), fld s r 56 24⟩

/-- The connection that OPEN makes of the staged values. -/
def connStaged (s : State) (kind : ConnKind) : Conn :=
  let r := rTenConnCfg0
  let tx := seqStaged s rTenConnTxseq
  let rx := seqStaged s rTenConnRxseq
  { Conn.none with
    mode := .opened, kind := kind, v6 := rbit s r 29, pin := rbit s r 28 || decide (kind ≠ .data)
    port := Fin.ofNat 4 (fld s r 27 26), peerDev := BitVec.ofNat 16 (fld s r 63 48)
    peerConn := BitVec.ofNat 16 (fld s r 47 32), peerIp := (getReg s rTenConnIph) ++ (getReg s rTenConnIpl)
    nh := BitVec.ofNat 8 (fld s r 23 16), dscp := BitVec.ofNat 6 (fld s r 13 8)
    slot0 := { keyStaged s with mode := .active }, nsn := tx, una := tx.n, epsn := rx, ackPt := rx.n - 1
    rto := fld s rTenRto 6 0 }

/-- An OPEN of R395 is refused for a reason other than the pin limit. -/
def openBad (s : State) (c : Nat) (x : Conn) : Bool :=
  decide ((connOf s c).mode ≠ .free) || !kindOk s c || decide (x.peerDev = 0xFFFF)
    || decide (s.ten.keyGot ≠ BitVec.allOnes 4) || decide (compBase s 5 = 0)

/-- The pin limit of the connection's cache set is reached (R400). -/
def pinFull (s : State) (c : Nat) (x : Conn) : Bool := x.pin && decide (6 ≤ setPinned s c)

/-- CONN_CMD_OPEN (R395). -/
def connOpen (s : State) : State :=
  connCmd s 1 fun s c =>
    match cfgKind s with
    | none => connRefuse s 1
    | some kind =>
      let x := connStaged s kind
      if openBad s c x then connRefuse s 1
      else if pinFull s c x then connRefuse (evd s 920 (detail32 (ctxSet c))) 1
      else
        match ctxPlace s c with
        | none => s
        | some s =>
          let s := cntInc (ctxWrite (ctxPut (modConn s c fun _ => x) c false) c) rTenCtxWbCnt
          let s := connEnd (modTen s fun t => { t with keyVal := 0 }) 1
          nbrOfConn (if 8 ≤ c ∧ c < 16 then markPump s else s) c

def execConnCmdOpen (s : State) : Host.Outcome State Fault Refusal := ok (connOpen s)

/-- CONN_CMD_CLOSE: FREE once no segment of the connection executes (R394). -/
def connClose (s : State) : State :=
  connCmd s 2 fun s c =>
    if (connOf s c).mode = .free then connRefuse s 2
    else
      closeTry (modTen (connEnd s 0) fun t => { t with closing := t.closing ++ [BitVec.ofNat 16 c] }) (BitVec.ofNat 16 c)

def execConnCmdClose (s : State) : Host.Outcome State Fault Refusal := ok (connClose s)

/-- A key command on a connection's context. -/
def keyCmd (s : State) (op : Nat) (can : State → Conn → Bool) (f : State → Nat → State) : State :=
  connCmd s op fun s c =>
    if (connOf s c).mode = .free then connRefuse s op
    else
      withCtx s c fun s =>
        if can s (connOf s c) then connEnd (ctxTouch (f s c) c true) 1 else connRefuse s op

/-- The slot that is not ACTIVE for sending. -/
def slotOther (x : Conn) : KeySlot := if x.txSlot then x.slot0 else x.slot1

/-- The slot that is not ACTIVE replaced. -/
def setOther (x : Conn) (k : KeySlot) : Conn := if x.txSlot then { x with slot0 := k } else { x with slot1 := k }

/-- CONN_CMD_INSTALL (R404). -/
def keyInstall (s : State) : State :=
  keyCmd s 3 (fun s x =>
      let k := keyStaged s
      decide (x.mode = .opened) && decide ((slotOther x).mode = .empty) && decide (k.gen ≠ (keyActive x).gen)
        && !x.retired.contains k.gen)
    fun s c => modConn s c fun x => setOther x (keyStaged s)

def execConnCmdInstall (s : State) : Host.Outcome State Fault Refusal := ok (keyInstall s)

/-- The connection with its READY key ACTIVE and the old one DRAINING. -/
def switched (x : Conn) : Conn :=
  let a (k : KeySlot) : KeySlot := { k with mode := .active }
  let d (k : KeySlot) : KeySlot := { k with mode := .draining }
  if x.txSlot then { x with slot0 := a x.slot0, slot1 := d x.slot1, txSlot := false }
  else { x with slot0 := d x.slot0, slot1 := a x.slot1, txSlot := true }

/-- CONN_CMD_SWITCH. -/
def keySwitch (s : State) : State :=
  keyCmd s 4 (fun _ x => decide ((slotOther x).mode = .ready)) fun s c =>
    let s := modConn s c switched
    evd s 915 [BitVec.ofNat 32 c, (keyActive (connOf s c)).gen.setWidth 32]

def execConnCmdSwitch (s : State) : Host.Outcome State Fault Refusal := ok (keySwitch s)

/-- The connection with its DRAINING key erased and its generation retired. -/
def keyErased (x : Conn) : Conn :=
  let k := slotOther x
  let l := x.retired ++ [k.gen]
  setOther { x with retired := l.drop (l.length - 2) } { k with mode := .empty, key := 0 }

/-- CONN_CMD_RETIRE. -/
def keyRetire (s : State) : State :=
  keyCmd s 5 (fun _ x => decide ((slotOther x).mode = .draining)) fun s c => modConn s c keyErased

def execConnCmdRetire (s : State) : Host.Outcome State Fault Refusal := ok (keyRetire s)

/-- CONN_CMD_ERROR (R394). -/
def connErrCmd (s : State) : State :=
  connCmd s 6 fun s c =>
    if isOpen s c then withCtx s c fun s => connEnd (connError s c .command) 1 else connRefuse s 6

def execConnCmdError (s : State) : Host.Outcome State Fault Refusal := ok (connErrCmd s)

/-- TEN.CONN_STATUS of a connection. -/
def connReport (s : State) (c : Nat) : Word64 :=
  let x := connOf s c
  packFields [(62, connNo x.mode), (60, kindNo x.kind), (59, flag (ctxHeld s c)), (58, flag x.pin), (57, flag x.txSlot),
    (55, keyNo x.slot1.mode), (53, keyNo x.slot0.mode), (50, errNo x.cause), (40, x.slot1.gen.toNat), (32, x.slot0.gen.toNat),
    (16, x.outst.length), (8, (x.retired.getD 1 0).toNat), (0, (x.retired.getD 0 0).toNat)]

/-- CONN_CMD_QUERY: a context that is not held is read from its lines. -/
def connQuery (s : State) : State :=
  connCmd s 7 fun s c =>
    let report (s : State) : State := connEnd (modTen s fun t => { t with connStat := connReport s c }) 1
    if (connOf s c).mode = .free ∨ ctxHeld s c then report s
    else if (ctxFind s c).isSome ∨ !apertureMay s (engOf c) (ctxLines s c) then s
    else
    let s := apertureTaken s (engOf c) (ctxLines s c)
    if ctxLoads s c then report s
    else connEnd (loadFail s c) 3

def execConnCmdQuery (s : State) : Host.Outcome State Fault Refusal := ok (connQuery s)

/-- CONN_ERROR: a connection enters ERROR with its cause (R394, R405). -/
def execConnError (c : BitVec 16) (cause : ErrCause) (s : State) : Host.Outcome State Fault Refusal :=
  ok (connError s c.toNat cause)

/-! Region key commands (R409, R410). -/

def rkeySel (s : State) : Nat := fld s rTenRkeySel 14 0

def rkeyEnd (s : State) (res : BitVec 2) : State := modTen s fun t => { t with rkeyRes := res }

def rkeyRefuse (s : State) (op : Nat) : State := rkeyEnd (evd s 919 (detail32 op)) 2

/-- A write of TEN.RKEY_CMD with go = 1. -/
def rkeyCmd (s : State) (op : Nat) (f : State → Nat → State) : State := f (setFld s rTenRkeyCmd 1 0 op) (rkeySel s)

/-- An entry written in the table and in every engine's cache. -/
def rkeyPut (s : State) (i : Nat) (k : Rkey) : State :=
  let s := dasPut s (rkeyBase s i) (rkeyLine k)
  modTen s fun t => { t with engines := t.engines.map fun g => { g with
    rkeys := g.rkeys.map fun y => if y.idx = i then { y with val := k } else y } }

/-- The 32-bit region key of an entry (R406). -/
def rkeyWord (s : State) (i : Nat) (gen : BitVec 8) : Word32 :=
  BitVec.ofNat 32 (i * 2 ^ 17 + gen.toNat * 2 ^ 9 + (Config.rkeyCheck s.ten.keyEra i gen.toNat).toNat % 2 ^ 9)

/-- The staged entry. -/
def rkeyStaged (s : State) (gen : BitVec 8) : Rkey :=
  { mode := .valid, perm := BitVec.ofNat 4 (fld s rTenRkeyAttr 3 0), ring := Fin.ofNat 32 (fld s rTenRkeyAttr 12 8), gen := gen
    peer := BitVec.ofNat 16 (fld s rTenRkeyAttr 31 16), base := fld s rTenRkeyBase 47 6 * 64
    size := fld s rTenRkeySize 47 6 * 64 }

/-- RKEY_CMD_CREATE. An entry whose line cannot be read is not known to be Invalid. -/
def rkeyCreate (s : State) : State :=
  rkeyCmd s 1 fun s i =>
    match rkeyRead s i with
    | none => rkeyRefuse s 1
    | some old =>
      let k := rkeyStaged s (old.gen + 1)
      if old.mode ≠ .invalid ∨ lmsTop s < k.base + k.size ∨ (k.perm.getLsbD 3 ∧ !rbit s (rTenRingA k.ring.val) 63)
          ∨ k.perm = 0 then rkeyRefuse s 1
      else
        rkeyEnd (modTen (rkeyPut s i k) fun t => { t with rkeyVal := rkeyWord s i k.gen, rkeyLast := some i }) 1

def execRkeyCmdCreate (s : State) : Host.Outcome State Fault Refusal := ok (rkeyCreate s)

/-- The segments of a revoke's snapshot still in flight. -/
def snapLeft (s : State) (i : Nat) : Nat :=
  (s.ten.engines.toList.map fun g => g.jobs.countP fun j => j.snap && decide (j.rkey = some i) && jobInFlight s j).sum

/-- The region a revoke names becomes Invalid once its snapshot is empty. -/
def revokeEnd (s : State) (i : Nat) : State :=
  if snapLeft s i = 0 then
    let k := (rkeyRead s i).getD Rkey.zero
    let s := rkeyPut s i { k with mode := .invalid }
    evd (modTen s fun t => { t with revoke := t.revoke.filter fun x => x ≠ i }) 917 (detail32 i)
  else s

/-- REGION_REVOKED. -/
def regionRevoked (s : State) : State :=
  let s := forEach (List.finRange 8) s tenPump
  forEach s.ten.revoke s revokeEnd

def execRegionRevoked (s : State) : Host.Outcome State Fault Refusal := ok (regionRevoked s)

/-- RKEY_CMD_REVOKE. -/
def rkeyRevoke (s : State) : State :=
  rkeyCmd s 2 fun s i =>
    match rkeyRead s i with
    | none => rkeyRefuse s 2
    | some k =>
      if k.mode ≠ .valid then rkeyRefuse s 2
      else
        let s := rkeyPut s i { k with mode := .revoking }
        let s := modTen s fun t => { t with
          engines := t.engines.map fun g => { g with
            jobs := g.jobs.map fun j => if j.rkey = some i ∧ jobInFlight s j then { j with snap := true } else j }
          revoke := t.revoke ++ [i]
          rkeyLast := some i }
        rkeyEnd s 1

def execRkeyCmdRevoke (s : State) : Host.Outcome State Fault Refusal := ok (rkeyRevoke s)

/-- RKEY_CMD_QUERY. -/
def rkeyQuery (s : State) : State :=
  rkeyCmd s 3 fun s i =>
    match rkeyRead s i with
    | none => rkeyRefuse s 3
    | some k => rkeyEnd (modTen s fun t => { t with rkeyVal := rkeyWord s i k.gen, rkeyLast := some i }) 1

def execRkeyCmdQuery (s : State) : Host.Outcome State Fault Refusal := ok (rkeyQuery s)

/-- TEN.RKEY_STATUS: the state, generation and snapshot of the entry the last command named. -/
def rkeyReport (s : State) : Word32 :=
  match s.ten.rkeyLast with
  | none => 0
  | some i =>
    let k := (rkeyRead s i).getD Rkey.zero
    (packFields [(30, rkeyNo k.mode), (22, k.gen.toNat), (0, snapLeft s i)]).setWidth 32

end Sys2Proof.Machine
end

