-- ==== Sys2Proof/Machine/Drain.lean ====
section
/-!
DEFINITION. The power-fail drain, its records, and the power states (R71, R95, R260, R322 to R326, R497 to R500, R507, R508,
R510).
-/
namespace Sys2Proof.Machine
open Sys2Proof

def modPwr (s : State) (f : PwrSt → PwrSt) : State := { s with pwr := f s.pwr }

/-! Status registers that the Cure Record holds. -/

/-- CUR.STATUS.mstate encoding. -/
def mstateNo : MState → Nat
  | .detached => 0
  | .attaching => 1
  | .mirrored => 2
  | .stalled => 3
  | .degraded => 4

/-- The attach push runs. -/
def pushBusy (s : State) : Bool := decide (s.cure.mstate = .attaching) && s.cure.staleSide

/-- CUR.STATUS. -/
def curStatus (s : State) : Word64 :=
  packFields [(29, mstateNo s.cure.mstate), (28, flag s.cure.staleSide), (27, flag (pushBusy s)),
    (26, flag s.cure.recast.isSome), (25, flag (epochFull s)), (16, (s.cure.recast.map fun r => r.chan.val).getD 0)]

def fenceNo : ChFence → Nat
  | .inService => 0
  | .fenced => 1
  | .recovering => 2

/-- CUR.FENCE_STATUS. -/
def fenceStatus (s : State) : Word64 := packFields (allChans.map fun c => (2 * c.val, fenceNo s.cure.fence[c]))

/-- CODE.MARK of an index (R240). -/
def markWord (s : State) (c : Fin 16) (i : Nat) : Word64 :=
  let m := marksAt s c i
  let st := if unguarded s c i then 2 else if (markChips m).isEmpty then 0 else 1
  let f (x : Option Mark) (lo : Nat) : List (Nat × Nat) := match x with
    | some x => [(lo + 7, 1), (lo + 6, flag x.hw), (lo, x.chip)]
    | none => []
  packFields ([(30, st)] ++ f m.m0 0 ++ f m.m1 8)

/-! Records in the Reserve. -/

/-- A line of a record written where it lies; on a fenced channel it is discarded (R317), and on one that the PHY does not
drive nothing is written. -/
def recLine (s : State) (das : Nat) (d : LineData) : State :=
  if s.cure.fence[chanOf s das] = .fenced then cntInc s rCurRsvDropCnt
  else if !geomSet s || (chan s (chanOf s das)).keep.owner then s
  else memWrite s das (posOf s das) (encodeLine d false)

/-- Lines `lo` to `hi` of a record of 8-byte words. -/
def recLines (s : State) (base lo hi : Nat) (w : Nat → Word64) : State :=
  forEach (List.range (hi - lo)) s fun s i =>
    recLine s (base + 64 * (lo + i)) ((List.range 8).foldl (fun d k => setLineWord d k (w (8 * (lo + i) + k))) 0)

/-- Lines that bytes 0 to `n` take. -/
def linesFor (n : Nat) : Nat := (n + 63) / 64

/-- Word `k` of a table of fixed-size entries. -/
def tableWord {α : Type} (es : List α) (size : Nat) (f : α → Nat → Word64) (k : Nat) : Word64 :=
  match es[k / size]? with
  | some e => f e (k % size)
  | none => 0

/-- The Fill Record (R95). -/
def fillRecord (s : State) : State :=
  let es := s.map.fill
  let ent (e : FillEnt) (k : Nat) : Word64 :=
    if k = 0 then BitVec.ofNat 64 (e.panel % 2 ^ 32) else (e.valid >>> (64 * (k - 1))).setWidth 64
  recLines s (compBase s 4) 0 (linesFor (8 + 136 * es.length)) fun k =>
    if k = 0 then BitVec.ofNat 64 es.length else tableWord es 17 ent (k - 1)

/-- Word `k` of the Inlay Image (R260). -/
def inlayWord (s : State) (k : Nat) : Word64 :=
  let user (c : Fin 16) : Nat := (chan s c).code.inl.countP fun e => decide (inlFcount ≤ e.1) && e.2.valid
  if k = 0 then BitVec.ofNat 64 (beatNs s)
  else if k = 1 then packFields [(32, 1), (0, (allChans.map user).sum)]
  else if 128 ≤ k ∧ k < 192 then
    let c : Fin 16 := Fin.ofNat 16 ((k - 128) / 4)
    let i := (k - 128) % 4 * 2
    packFields [(32, (markWord s c (i + 1)).toNat), (0, (markWord s c i).toNat)]
  else if 8192 ≤ k then
    let c : Fin 16 := Fin.ofNat 16 ((k - 8192) / 4096)
    let i := (k - 8192) % 4096
    let e := smGet InlEnt.none (chan s c).code.inl i
    if e.valid ∧ inlFcount ≤ i then inlVal e else 0
  else 0

/-- The Inlay Image (R260). -/
def inlayImage (s : State) : State := recLines s (compBase s 7) 0 9216 (inlayWord s)

/-- The base of the Cure Record: the top 4 MiB of firmware data (R325). -/
def cureBase (s : State) : Nat := compBase s 8 + 252 * 2 ^ 20

/-- The data of the lending write of a request, as its segment holds it. -/
def lendData (s : State) (rid : Nat) : Option LineData :=
  let mine (g : OutSeg) : Option LineData :=
    if g.why = .lend rid ∧ g.op = .write then some ((g.lines.headD none).getD 0) else none
  match (s.cure.out.map fun e => e.2).flatten.findSome? mine with
  | some d => some d
  | none => (s.conns.map fun e => e.2.outst.map fun o => o.seg).flatten.findSome? mine

/-- The lending writes not acknowledged: LMS line address and data. -/
def lendPend (s : State) : List (Nat × LineData) :=
  (s.tt.filterMap fun t =>
    let a := lineAddr t.req.addr.toNat
    match t.stage with
    | .lent => (lendData s t.req.rid).map fun d => (a, d)
    | .slotWait => t.full.map fun x => (a, x.1)
    | _ => none).take 32768

/-- The forwarded writes not acknowledged (R325): address word, mask and data. -/
def fwdPend (s : State) : List (Word64 × LineMask × LineData) :=
  (s.tt.filterMap fun t =>
    let r := t.req
    let a := lineAddr r.addr.toNat
    if t.stage = .twinWait ∨ t.stage = .fwdWait then
      match r.op with
      | .add8 | .cas8 => some (BitVec.ofNat 64 (a + 1), 0, r.data)
      | .trim => some (BitVec.ofNat 64 (r.addr.toNat + 3), 0, 0)
      | .wrLine => some (if r.poison then (BitVec.ofNat 64 (a + 2), 0, r.data) else (BitVec.ofNat 64 a, BitVec.allOnes 64, r.data))
      | .wrPart => some (if r.poison then (BitVec.ofNat 64 (a + 2), 0, r.data) else (BitVec.ofNat 64 a, r.mask, r.data))
      | _ => none
    else none).take 4096

/-- The pending panels with those of writes not captured yet (R324). -/
def pendAll (s : State) : List (Nat × BitVec 32) :=
  ((s.tt.filter fun t => !t.capt).foldl (fun l t => match t.epoch with
    | some e => pendPut l (panelOf t.req.addr.toNat) e
    | none => l) s.cure.pend).take 16384

/-- The Cure Record (R325). -/
def cureRecord (s : State) : State :=
  let base := cureBase s
  let pend := pendAll s
  let lend := lendPend s
  let fwd := fwdPend s
  let overs := s.cure.overs.take 4096
  let pair (a b : Nat) : Word64 := packFields [(32, b), (0, a)]
  let head (k : Nat) : Word64 :=
    match k with
    | 0 => BitVec.ofNat 64 s.cure.drainBeat
    | 1 => BitVec.ofNat 64 (beatNs s)
    | 2 => pair s.cure.e.toNat (curLc s).toNat
    | 3 => pair (curT s).toNat (curC s).toNat
    | 4 => pair (curStatus s).toNat (fenceStatus s).toNat
    | 5 => pair pend.length lend.length
    | 6 => pair fwd.length overs.length
    | 7 => pair 1 0x5EA10001
    | _ => 0
  let pendW (x : Nat × BitVec 32) (_ : Nat) : Word64 := pair x.1 x.2.toNat
  let lendW (x : Nat × LineData) (k : Nat) : Word64 := if k = 0 then BitVec.ofNat 64 x.1 else lineWord x.2 (k - 1)
  let fwdW (x : Word64 × LineMask × LineData) (k : Nat) : Word64 :=
    if k = 0 then x.1 else if k = 1 then x.2.1 else lineWord x.2.2 (k - 2)
  let overW (x : OverEnt) (k : Nat) : Word64 :=
    if k = 0 then BitVec.ofNat 64 x.panel else (x.valid >>> (64 * (k - 1))).setWidth 64
  let word (k : Nat) : Word64 :=
    let o := 8 * k
    if o < 4096 then head k
    else if o < 135168 then tableWord pend 1 pendW (k - 512)
    else if o < 2494464 then tableWord lend 9 lendW (k - 16896)
    else if o < 2822144 then tableWord fwd 10 fwdW (k - 311808)
    else tableWord overs 17 overW (k - 352768)
  let part (s : State) (off size n : Nat) : State := recLines s base (off / 64) (linesFor (off + size * n)) word
  let s := part s 4096 8 pend.length
  let s := part s 135168 72 lend.length
  let s := part s 2494464 80 fwd.length
  let s := part s 2822144 136 overs.length
  recLines s base 0 64 word

/-- The seal word written as zero (R325). -/
def sealClear (s : State) : State :=
  let das := cureBase s
  match (dasNow s das).getD none with
  | some d => recLine s das (setLineWord d 7 (lineWord d 7 &&& 0xFFFFFFFF))
  | none => recLine s das 0

/-! Step 1 (R322). -/

/-- The fences of a port complete ERR_POWER, and the sequences of ports end. -/
def portsPower (s : State) : State :=
  let s := forEach (List.finRange 8) s fun s p =>
    let fs := (port s p).fences
    let s := modPort s p fun x => { x with fences := [] }
    forEach fs s fun s f => portDone s p f.tag false .errPower 0
  let s := powerRefuse s
  let s := { s with adm := { s.adm with wait := s.adm.wait.filter fun r => r.kind ≠ .fill } }
  forEach (List.finRange 8) s fun s p => if (port s p).lock.mode = .inLock then modLock s p fun _ => .idle else s

/-- A training run in progress is aborted at once, and its channel follows the rows of R209 for a warm failure (R507). The step
it had reached, one after step 2, is open here (log entry 87). A retrain run of a HELD channel after Ready goes on to the end of
its step (R210). -/
def trainStop (s : State) (c : Fin 16) : State :=
  match (chan s c).phy.run with
  | none => s
  | some m =>
    if m = .retrain ∧ isReady s then s
    else
      let (v, s) := drawFree 4 s
      let lo := if m = .retrain then 5 else 3
      let n := lo + v.toNat % (15 - lo)
      let s := doIf (decide (m = .cold)) (fun s => loseDram s c) s
      let s := trainSteps s c (if m = .retrain then .retrain else .warm) n
      let s := trainFail s c ⟨true, BitVec.ofNat 4 n, 0, false, 15⟩
      if m = .retrain ∨ 7 ≤ n then fenceIfInService s c 1 else s

/-- What a fall of PFAIL_N ends in every channel: Holds (R163), training (R507) and dwells (R222). -/
def pfailChans (s : State) : State :=
  devForget (forEach allChans s fun s c => probeAbort (trainStop (holdAbort s c 4) c) c 5)

/-- What ends in a channel at step 1: dwells and diagnostic passes; it enters FLUSH and its Glue-up entries close. -/
def chanPower (s : State) (c : Fin 16) : State :=
  let s := probeAbort s c 5
  let s := modCode s c fun x => { x with diag := none, diagRes := if x.diag.isSome then 3 else x.diagRes }
  let s := modSch s c fun q => { q with
    wstate := .flush, runA := 0, runB := 0, breakA := none, breakB := none, wrNowA := none, wrNowB := none }
  glueClose s c (fun _ => true) false

/-- From a fall of PFAIL_N on a port's first ERR_POWER is an event (R77). -/
def pwrArm (s : State) : State := forEach (List.finRange 8) s fun s p => modPort s p fun x => { x with pwrArm := true }

/-- Moves, jig lists, Recast and reclaim end (R321, R347, R354, R360). -/
def tierPower (s : State) : State :=
  let s := forEach s.tier.moves s fun s m => abandon s m false
  let s := forEach (List.finRange 4) s fun s e => if s.tier.jigs[e].busy then jigEnd s e 4 else s
  let s := modTier s fun t => if t.reclaim.isSome then { t with reclaim := none, reclRes := 3 } else t
  modCure s fun x => { x with recast := none }

/-- The drain begins: step 1, and what steps 2 and 3 begin with. `asked`: it was requested (R499). -/
def drainBegin (s : State) (asked : Bool) : State :=
  let s := modCure s fun x => { x with drain := .started, drainBeat := beatNs s, overs := [] }
  let s := modPwr s fun p => { p with
    asked := asked, start := s.beat.fclk, charged := (charged s + 2 ^ 20 - 1) / 2 ^ 20, e1 := s.cure.e, cureMet := false
    cureWait := asked && decide (0 < fld s rPwrCfg 15 0) && decide (s.cure.mstate ≠ .degraded)
      && decide (s.cure.mstate ≠ .detached) }
  let s := if isReady s then sealClear s else s
  let s := tierPower (portsPower s)
  let s := match s.vnr.rop with
    | some r => { s with vnr := { s.vnr with rop := some { r with abort := r.abort || !r.drain } } }
    | none => s
  let s := forEach allChans s chanPower
  let s := forEach (List.finRange 8) (panelPump s) tenPump
  vnrClean s

/-- A fall of PFAIL_N seen (R508): it starts the drain, or gives a requested one its cause (R500). -/
def pfailLow (s : State) : State :=
  if s.pwr.rst.isSome ∨ s.pwr.pfail then s
  else
    let s := cntInc (modPwr s fun p => { p with pfail := true, seen := true }) rPwrPfailCnt
    let s := pwrArm (pfailChans s)
    match s.cure.drain with
    | .none => drainBegin (ev s 782) false
    | .complete => s
    | _ =>
      if s.pwr.asked then
        let met := if s.pwr.cureWait then epLe s.pwr.e1 (curC s) else s.pwr.cureMet
        ev (modPwr s fun p => { p with asked := false, cureWait := false, cureMet := met }) 782
      else s

def execDrainStart (s : State) : Host.Outcome State Fault Refusal := ok (pfailLow s)

/-! Steps 2 to 8. -/

/-- The cure wait ends: C has reached E1, the time has passed (`late`), or the mirror is DEGRADED or DETACHED (R499). -/
def cureWaitEnd (s : State) (late : Bool) : State :=
  if s.pwr.cureWait then
    let met := epLe s.pwr.e1 (curC s)
    if met || late || decide (s.cure.mstate = .degraded) || decide (s.cure.mstate = .detached) then
      modPwr s fun p => { p with cureWait := false, cureMet := met }
    else s
  else s

def execCureWaitEnd (late : Bool) (s : State) : Host.Outcome State Fault Refusal := ok (cureWaitEnd s late)

/-- A channel that takes part in steps 2 to 4. -/
def drainChan (s : State) (c : Fin 16) : Bool := decide (s.cure.fence[c] ≠ .fenced)

/-- A channel's write path is empty, and its row copy and post package repair have ended. -/
def chanEmpty (s : State) (c : Fin 16) : Bool :=
  let q := (chan s c).sch
  q.wq.isEmpty && q.glue.isEmpty && q.arrive.isEmpty && (chan s c).code.copy.isNone && (chan s c).code.ppr.isNone

/-- Steps 2 to 4 have ended: no admitted request is on the way to a queue, no line is dirty, and the write paths are
empty. -/
def drainQuiet (s : State) : Bool :=
  let far (t : TtEntry) : Bool := decide (t.stage = .lent) || (decide (t.stage = .slotWait) && t.full.isSome)
    || decide (t.stage = .twinWait)
    || decide (t.stage = .fwdWait) || decide (t.stage = .left)
  let onFenced (das : Nat) : Bool := !drainChan s (chanOf s das)
  s.tt.all far && s.adm.wait.isEmpty
    && (s.vnr.slices.toList.all fun v => (v.vict.all fun x => onFenced x.das)
      && v.sets.all fun e => (e.2.filterMap wayLine).all fun l => !l.dirty || (l.das.map onFenced).getD false)
    && allChans.all fun c => !drainChan s c || chanEmpty s c

/-- DRAIN_RECORDS: step 5; before Ready the Cure Record and its seal are left unchanged (R507). -/
def drainRecords (s : State) : State :=
  if s.cure.drain = .started ∧ !s.pwr.cureWait then
    let s := vnrClean s
    if drainQuiet s then
      let s := modPwr s fun p => { p with cureMet := p.cureMet || (p.asked && epLe p.e1 (curC s)) }
      let s := inlayImage (fillRecord s)
      let s := if isReady s then cureRecord s else s
      modCure s fun x => { x with drain := .recorded }
    else s
  else s

def execDrainRecords (s : State) : Host.Outcome State Fault Refusal := ok (drainRecords s)

/-- Steps 6 and 7 for a channel the PHY owns: every bank precharged, every rank in self-refresh, the pins to the Keeper. A
fenced channel that is not trained is handed over with retained 0. -/
def drainHand (s : State) (c : Fin 16) : State :=
  if (chan s c).keep.owner then s
  else
    let lost : Bool := decide (s.cure.fence[c] = .fenced) && decide ((chan s c).phy.train ≠ .trained)
    let x : RankSt := { RankSt.idle with pwr := .selfRefresh, ready := nowCk s c }
    let s := if lost then s
      else modSch s c fun q => { q with
        banks := q.banks.map fun e => (e.1, { e.2 with row := none, streak := 0, pre := some (4 * q.mclk) })
        ranks := (List.range (rankCount s)).foldl (fun m r => smSet RankSt.idle m r x) q.ranks
        sreDone := rankCount s, sr := .selfRefresh }
    handoverSteps s c (!lost)

/-- The power state changes: PWR_STATE with the new one. -/
def pwrNo : PwrState → Nat
  | .active => 0
  | .powerDown => 1
  | .selfRefresh => 2
  | .off => 3

def pwrSet (s : State) (x : PwrState) : State :=
  if s.pwr.state = x then s
  else evd (cntInc (modPwr s fun p => { p with state := x }) rPwrTransCnt) 32 (detail32 (pwrNo x))

/-- PWR.DRAIN_LOG at DRAIN_DONE. -/
def drainLog (s : State) : State :=
  let n := (fld s rPwrDrainLog 59 48 + 1) % 4096
  setReg s rPwrDrainLog (packFields [(63, 1), (62, flag s.pwr.asked), (61, flag s.pwr.cureMet), (48, n),
    (40, s.pwr.charged % 256), (0, min 0xFFFFFFFF ((s.beat.fclk - s.pwr.start) / 2))])

/-- DRAIN_COMPLETE: steps 6 to 8, and the state Off-with-retention. It waits for a retrain run that R210 ends. -/
def drainComplete (s : State) : State :=
  if s.cure.drain = .recorded
      ∧ allChans.all (fun c => (chan s c).phy.run.isNone && (!drainChan s c || chanEmpty s c)) then
    let s := forEach allChans s drainHand
    let s := drainLog (ev (modCure s fun x => { x with drain := .complete }) 783)
    let s := forEach (List.finRange 8) s portQuiesce
    let s := forEach (List.finRange 4) s segTry
    pwrSet s .off
  else s

def execDrainComplete (s : State) : Host.Outcome State Fault Refusal := ok (drainComplete s)

/-- PFAIL_RETURN: PFAIL_N is seen high again; the drain is not undone (R510). -/
def pfailReturn (s : State) : State :=
  if s.pwr.pfail ∧ s.pwr.rst.isNone then
    let s := modPwr s fun p => { p with pfail := false }
    if s.cure.drain = .none then s else ev s 34
  else s

def execPfailReturn (s : State) : Host.Outcome State Fault Refusal := ok (pfailReturn s)

/-! State requests (R498). -/

/-- A Hold between HOLDING and RELEASING. -/
def anyHold (s : State) : Bool := allChans.any fun c => decide ((chan s c).sch.hold ≠ .run)

/-- Why a request is refused; 0 where it is accepted. -/
def stateRefusal (s : State) (x : PwrState) : Nat :=
  if s.pwr.state = .off ∨ s.cure.drain ≠ .none then 3
  else if !isReady s then 4
  else if x = .off then
    if anyHold s then 1
    else if s.cure.recast.isSome ∨ pushBusy s ∨ s.tier.reclaim.isSome then 2
    else 0
  else 0

/-- PWR.STATE_CMD.go. -/
def stateCmd (s : State) (x : PwrState) : State :=
  let s := setFld s rPwrStateCmd 1 0 (pwrNo x)
  let n := stateRefusal s x
  if n ≠ 0 then
    evd (modPwr s fun p => { p with cmdRes := 2, cmdWhy := BitVec.ofNat 4 n }) 33 (detail32 n)
  else
    let s := modPwr s fun p => { p with cmdRes := 1, cmdWhy := 0 }
    if x = .off then drainBegin s true
    else if s.pwr.state = x then s
    else pwrSet (modPwr s fun p => { p with idleFrom := s.beat.fclk }) x

def execStateCmdActive (s : State) : Host.Outcome State Fault Refusal := ok (stateCmd s .active)
def execStateCmdPowerDown (s : State) : Host.Outcome State Fault Refusal := ok (stateCmd s .powerDown)
def execStateCmdSelfRefresh (s : State) : Host.Outcome State Fault Refusal := ok (stateCmd s .selfRefresh)
def execStateCmdOffRetention (s : State) : Host.Outcome State Fault Refusal := ok (stateCmd s .off)

end Sys2Proof.Machine
end

