-- ==== Sys2Proof/Machine/Journal.lean ====
section
/-!
DEFINITION. The Event Journal (R478 to R487): the chain, the packer, the ring and the reader.
-/
namespace Sys2Proof.Machine
open Sys2Proof

/-- Slots of the ring (R479). -/
def ringSize : Nat := 4096

/-- Records of an event after any ANCHOR: the EVENT record, the short stamp and the details (R481). -/
def evtRecords (e : JrnEvt) : List Word32 :=
  BitVec.ofNat 32 (2 ^ 29 + levelCode e.level <<< 26 + flag e.forced <<< 25 + e.src.toNat <<< 15
      + e.details.length <<< 11 + e.count.toNat)
    :: BitVec.ofNat 32 (e.beat.toNat >>> 10) :: e.details

/-- The stages an event's records take in the chain (R478). -/
def chainOf (e : JrnEvt) : List ChainRec :=
  let rs := evtRecords e
  (List.range rs.length).map fun i =>
    { word := rs.getD i 0, start := if i = 0 then some e else none, last := decide (i + 1 = rs.length) }

/-- The oldest waiting event's records enter the chain if enough of its 16 stages are free (R478). -/
def journalRecord (s : State) : State :=
  match s.jrn.queue with
  | [] => s
  | e :: q =>
    let rs := chainOf e
    if s.jrn.chain.length + rs.length ≤ 16 then
      { s with jrn := { s.jrn with queue := q, chain := s.jrn.chain ++ rs } }
    else s

def execJournalRecord (s : State) : Host.Outcome State Fault Refusal := ok (journalRecord s)

/-- Words written and not returned, the open packet included (JRN.STATUS.used). -/
def jrnUsed (j : JrnSt) : Nat :=
  (j.pkts.map (fun p => p.words - p.read)).sum + (match j.cur with | none => 0 | some o => 1 + o.words)

/-- The state with room for one more word: the oldest complete packet is freed while the ring is full (R483). -/
def makeRoom (s : State) : State :=
  if jrnUsed s.jrn < ringSize then s
  else
    match s.jrn.pkts with
    | [] => s
    | _ :: ps => cntInc { s with jrn := { s.jrn with pkts := ps, lost := true } } rJrnLostCnt

/-- One word written at a slot of the ring. -/
def putWord (s : State) (slot : Nat) (w : BitVec 128) : State :=
  { s with jrn := { s.jrn with ring := smSet 0 s.jrn.ring slot w } }

/-- Up to four records as one word, record j in bits 32j+31:32j, padded with zero records (R479). -/
def packWord (rs : List Word32) : BitVec 128 :=
  (rs.getD 3 0 ++ rs.getD 2 0 ++ rs.getD 1 0 ++ rs.getD 0 0).setWidth 128

/-- A record added to the open packet; a full word is written to the ring (R479). -/
def packRecord (s : State) (w : Word32) : State :=
  match s.jrn.cur with
  | none => s
  | some o =>
    let part := o.part ++ [w]
    if part.length = 4 then
      let s := makeRoom s
      let s := putWord s s.jrn.wptr (packWord part)
      { s with jrn := { s.jrn with wptr := (s.jrn.wptr + 1) % ringSize,
                                   cur := some { o with part := [], words := o.words + 1, records := o.records + 1 } } }
    else { s with jrn := { s.jrn with cur := some { o with part := part, records := o.records + 1 } } }

/-- The close cause encoding of R479. -/
def causeCode : CloseCause → Nat
  | .full => 0
  | .time => 1
  | .level => 2
  | .flush => 3

/-- The length word (R480). -/
def lengthWord (o : OpenPkt) (words : Nat) (cause : CloseCause) (seq : BitVec 16) (drop : Bool) : BitVec 128 :=
  BitVec.ofNat 128 (levelCode o.level <<< 51 + flag drop <<< 50 + causeCode cause <<< 48 + seq.toNat <<< 32
    + words <<< 16 + o.records)

/-- The open packet closed: the last word padded and written, then the length word (R479). -/
def closePkt (s : State) (cause : CloseCause) : State :=
  match s.jrn.cur with
  | none => s
  | some o =>
    let (s, o) :=
      if o.part.isEmpty then (s, o)
      else
        let s := makeRoom s
        let s := putWord s s.jrn.wptr (packWord o.part)
        ({ s with jrn := { s.jrn with wptr := (s.jrn.wptr + 1) % ringSize } }, { o with words := o.words + 1 })
    let words := o.words + 1
    let s := putWord s o.start (lengthWord o words cause s.jrn.seq s.jrn.drop)
    cntInc { s with jrn := { s.jrn with
      cur := none, seq := s.jrn.seq + 1, drop := false,
      pkts := s.jrn.pkts ++ [{ start := o.start, words := words, read := 0, records := o.records, lenBad := false }] } } rJrnPktCnt

/-- The three records of an ANCHOR (R481). -/
def anchorRecords (b : Word64) : List Word32 := [0x1000_0000, b.setWidth 32, (b >>> 32).setWidth 32]

/-- A packet opened at the Beat of its first event: the length word's slot reserved and an ANCHOR written (R479). -/
def openPkt (s : State) (b : Word64) : State :=
  let s := makeRoom s
  let s := { s with jrn := { s.jrn with
    cur := some { start := s.jrn.wptr, part := [], words := 0, records := 0, level := .normal, midEvt := false,
                  closing := none, anchor := b.toNat >>> 42, opened := b },
    wptr := (s.jrn.wptr + 1) % ringSize } }
  forEach (anchorRecords b) s packRecord

/-- Words a packet of `k` records takes, its length word included. -/
def pktWords (k : Nat) : Nat := 1 + (k + 3) / 4

/-- Records event `e` adds to the open packet: an ANCHOR first where Beat[63:42] has changed (R482). -/
def recordsFor (o : OpenPkt) (e : JrnEvt) : Nat :=
  (if e.beat.toNat >>> 42 = o.anchor then 0 else 3) + (evtRecords e).length

/-- The packer makes ready for an event: closes a packet it would overfill, opens one if none is open, and inserts an
ANCHOR where R482 asks for it. -/
def startEvt (s : State) (e : JrnEvt) : State :=
  let maxW := fld s rJrnCfg 23 16
  let s := match s.jrn.cur with
    | some o => if maxW < pktWords (o.records + recordsFor o e) then closePkt s .full else s
    | none => s
  let s := match s.jrn.cur with
    | some _ => s
    | none => openPkt s e.beat
  match s.jrn.cur with
  | none => s
  | some o =>
    let above : Bool := decide (maxW < pktWords (o.records + recordsFor o e))
    let s := if e.beat.toNat >>> 42 = o.anchor then s else forEach (anchorRecords e.beat) s packRecord
    let lvl := if levelCode o.level < levelCode e.level then e.level else o.level
    { s with jrn := { s.jrn with cur := s.jrn.cur.map fun o =>
        { o with anchor := e.beat.toNat >>> 42, midEvt := true, level := lvl,
                 closing := if above then some .full
                            else if e.level = .normal then o.closing else some .level } } }

/-- The head stage passes one record to the packer (R478). After an event's last record a close that waits takes
effect (R479). -/
def packOne (s : State) : State :=
  match s.jrn.chain with
  | [] => s
  | r :: rest =>
    let s := { s with jrn := { s.jrn with chain := rest } }
    let s := match r.start with
      | some e => startEvt s e
      | none => s
    let s := packRecord s r.word
    if r.last then
      match s.jrn.cur with
      | some o =>
        let s := { s with jrn := { s.jrn with cur := some { o with midEvt := false, closing := none } } }
        match o.closing with
        | some c => closePkt s c
        | none => s
      | none => s
    else s

/-- A close for time or flush: at once, or after the last record of the event in progress (R479, R487). -/
def closeFor (s : State) (cause : CloseCause) : State :=
  match s.jrn.cur with
  | none => s
  | some o =>
    if o.midEvt then
      { s with jrn := { s.jrn with cur := some { o with closing := some (o.closing.getD cause) } } }
    else closePkt s cause

/-- close_us µs of Beat have passed since the packet opened (R479). -/
def closeDue (s : State) : Bool :=
  s.jrn.cur.any fun o => decide (o.opened.toNat + 1000 * fld s rJrnCfg 15 0 ≤ beatNs s)

/-- The packet closes for time. -/
def packetCloseTime (s : State) : State := if closeDue s then closeFor s .time else s

def execPacketCloseTime (s : State) : Host.Outcome State Fault Refusal := ok (packetCloseTime s)

/-- JRN.CTL.flush. -/
def jrnFlush (s : State) : State := closeFor s .flush

def execJrnFlush (s : State) : Host.Outcome State Fault Refusal := ok (jrnFlush s)

/-- JRN.CTL.clear: every packet, the open one included, is discarded (R487). -/
def jrnClear (s : State) : State :=
  { s with jrn := { s.jrn with pkts := [], cur := none, ring := [] } }

def execJrnClear (s : State) : Host.Outcome State Fault Refusal := ok (jrnClear s)

/-- The tag of R484 for the word of a packet at its read position; `bad` is 1 for a corrected and 2 for an
uncorrectable ring word. The bytes of a packet whose length word was uncorrectable read 16 (R485). -/
def popTag (p : Pkt) (lost : Bool) (bad : Nat) : Word32 :=
  let last : Bool := decide (p.read + 1 = p.words)
  let rest := p.records - 4 * (p.words - 2)
  let bytes := if last && decide (1 < p.words) && !p.lenBad then 4 * rest else 16
  BitVec.ofNat 32 (2 ^ 31 + flag (decide (p.read = 0)) <<< 30 + flag last <<< 29 + flag lost <<< 28
    + flag (decide (bad = 1)) <<< 27 + flag (decide (bad = 2)) <<< 26 + bytes)

/-- A read of JRN.POP (R484, R485): the next unread word of a complete packet is latched, or a tag with valid = 0.
`bad` is what the ring word's check reports: 0 clean, 1 corrected, 2 uncorrectable; an uncorrectable word is returned as
read, which the spec leaves open. -/
def jrnPop (s : State) (bad : Nat) : State :=
  match s.jrn.pkts with
  | [] => { s with jrn := { s.jrn with tag := 0, latch := 0 } }
  | p :: ps =>
    let word := smGet 0 s.jrn.ring ((p.start + p.read) % ringSize)
    let s := doIf (decide (bad = 1)) (fun s => cntInc s rJrnCeCnt) s
    let s := doIf (decide (bad = 2)) (fun s => cntInc s rJrnUeCnt) s
    let (word, s) := if bad = 2 then drawFree 128 s else (word, s)
    let p := { p with lenBad := p.lenBad || decide (p.read = 0 ∧ bad = 2) }
    let p' := { p with read := p.read + 1 }
    { s with jrn := { s.jrn with
        tag := popTag p s.jrn.lost bad, latch := word, lost := false,
        pkts := if p'.read = p'.words then ps else p' :: ps } }

def execJrnPop (bad : Fin 3) (s : State) : Host.Outcome State Fault Refusal := ok (jrnPop s bad.val)

end Sys2Proof.Machine
end

