-- ==== Sys2Proof/Machine/RegTable.lean ====
section
/-!
DEFINITION. The register table: one row per register heading of the chapters, with its fields' bits, access types and
the range of values that are not reserved, and the lookup of a CSR offset in it (R446, R447).
-/
namespace Sys2Proof.Machine
open Sys2Proof

/-- The TOP registers. -/
def regsTop : List RegDesc :=
  [ ⟨"TOP.IDENT", 0, 0, 1, 0, 1, false, none, 0xDA31610, none, [⟨31, 20, .ro, 0, 0xFFF⟩, ⟨19, 16, .ro, 0, 0xF⟩, ⟨15, 8, .ro, 0, 0xFF⟩, ⟨7, 4, .ro, 0, 0xF⟩, ⟨3, 0, .ro, 0, 0xF⟩]⟩
  , ⟨"TOP.DEVICE_ID", 4, 0, 1, 0, 1, false, none, 0, none, [⟨15, 0, .lk, 1, 0xFFFE⟩]⟩
  , ⟨"TOP.BEAT", 0x10, 0, 1, 0, 1, true, none, 0, none, [⟨63, 0, .ro, 0, 0xFFFFFFFFFFFFFFFF⟩]⟩
  , ⟨"TOP.BEAT_STATUS", 0x18, 0, 1, 0, 1, false, none, 0, none, [⟨31, 31, .ro, 0, 1⟩, ⟨30, 30, .ro, 0, 1⟩, ⟨29, 29, .ro, 0, 1⟩, ⟨15, 0, .ro, 0, 0xFFFF⟩]⟩
  , ⟨"TOP.COMMIT_AT", 0x20, 0, 1, 0, 1, true, none, 0, none, [⟨63, 0, .rw, 0, 0xFFFFFFFFFFFFFFFF⟩]⟩
  , ⟨"TOP.COMMIT", 0x28, 0, 1, 0, 1, false, none, 0, none, [⟨17, 17, .wt, 0, 1⟩, ⟨16, 16, .wt, 0, 1⟩, ⟨15, 0, .wt, 0, 0xFFFF⟩]⟩
  , ⟨"TOP.COMMIT_STATUS", 0x2C, 0, 1, 0, 1, false, none, 0, none, [⟨31, 16, .ro, 0, 0xFFFF⟩, ⟨15, 0, .ro, 0, 0xFFFF⟩]⟩
  , ⟨"TOP.COMMIT_LAST", 0x30, 0, 1, 0, 1, false, none, 0, none, [⟨31, 16, .ro, 0, 0xFFFF⟩, ⟨15, 0, .ro, 0, 0xFFFF⟩]⟩
  , ⟨"TOP.COMMIT_BEAT", 0x38, 0, 1, 0, 1, true, none, 0, none, [⟨63, 0, .ro, 0, 0xFFFFFFFFFFFFFFFF⟩]⟩
  , ⟨"TOP.HOLD", 0x40, 0, 1, 0, 1, false, none, 0, none, [⟨1, 1, .wt, 0, 1⟩, ⟨0, 0, .wt, 0, 1⟩]⟩
  , ⟨"TOP.HOLD_STATUS", 0x44, 0, 1, 0, 1, false, none, 0, none, [⟨10, 8, .ro, 0, 7⟩, ⟨4, 4, .ro, 0, 1⟩, ⟨1, 0, .ro, 0, 3⟩]⟩
  , ⟨"TOP.SNAPSHOT", 0x48, 0, 1, 0, 1, false, none, 0, none, [⟨0, 0, .wt, 0, 1⟩]⟩
  , ⟨"TOP.SNAP_STATUS", 0x4C, 0, 1, 0, 1, false, none, 0, none, [⟨15, 0, .ro, 0, 0xFFFF⟩]⟩
  , ⟨"TOP.SNAP_BEAT", 0x50, 0, 1, 0, 1, true, none, 0, none, [⟨63, 0, .ro, 0, 0xFFFFFFFFFFFFFFFF⟩]⟩
  , ⟨"TOP.CNT_CLR", 0x58, 0, 1, 0, 1, false, none, 0, none, [⟨0, 0, .wt, 0, 1⟩]⟩
  , ⟨"TOP.LOCKV_INFO", 0x60, 0, 1, 0, 1, true, none, 0, none, [⟨63, 63, .ro, 0, 1⟩, ⟨59, 48, .ro, 0, 0xFFF⟩, ⟨23, 0, .ro, 0, 0xFFFFFF⟩]⟩
  , ⟨"TOP.RP_INFO", 0x68, 0, 1, 0, 1, true, none, 0, none, [⟨63, 63, .ro, 0, 1⟩, ⟨59, 48, .ro, 0, 0xFFF⟩, ⟨23, 0, .ro, 0, 0xFFFFFF⟩]⟩
  , ⟨"TOP.FWG", 0x100, 4, 8, 0x20, 8, false, some 8, 0, none, [⟨31, 0, .rws, 0, 0xFFFFFFFF⟩]⟩
  , ⟨"TOP.COMMIT_CNT", 0x200, 0, 1, 0, 1, true, none, 0, some (1024, 0), [⟨63, 0, .cnt, 0, 0xFFFFFFFFFFFFFFFF⟩]⟩
  , ⟨"TOP.REFUSE_CNT", 0x208, 0, 1, 0, 1, true, none, 0, some (1025, 0), [⟨63, 0, .cnt, 0, 0xFFFFFFFFFFFFFFFF⟩]⟩
  , ⟨"TOP.LOCKV_CNT", 0x210, 0, 1, 0, 1, true, none, 0, some (1026, 0), [⟨63, 0, .cnt, 0, 0xFFFFFFFFFFFFFFFF⟩]⟩
  , ⟨"TOP.BEAT_STEP_CNT", 0x218, 0, 1, 0, 1, true, none, 0, some (1027, 0), [⟨63, 0, .cnt, 0, 0xFFFFFFFFFFFFFFFF⟩]⟩
  , ⟨"TOP.SNAP_CNT", 0x220, 0, 1, 0, 1, true, none, 0, some (1028, 0), [⟨63, 0, .cnt, 0, 0xFFFFFFFFFFFFFFFF⟩]⟩ ]

/-- The EVT registers. -/
def regsEvt : List RegDesc :=
  [ ⟨"EVT.SQ", 0x10000, 4, 1024, 0, 1, false, none, 0, none, [⟨31, 31, .sq, 0, 1⟩, ⟨23, 16, .sq, 0, 0xFF⟩, ⟨15, 0, .sq, 0, 0xFFFF⟩]⟩
  , ⟨"EVT.PEND", 0x11000, 4, 32, 0, 1, false, none, 0, none, [⟨31, 0, .ro, 0, 0xFFFFFFFF⟩]⟩
  , ⟨"EVT.IPEND", 0x11080, 4, 32, 0, 1, false, none, 0, none, [⟨31, 0, .ro, 0, 0xFFFFFFFF⟩]⟩
  , ⟨"EVT.FORCE", 0x11100, 4, 32, 0, 1, false, none, 0, none, [⟨31, 0, .wt, 0, 0xFFFFFFFF⟩]⟩
  , ⟨"EVT.ROUTE", 0x11200, 4, 128, 0, 1, false, some 7, 0xCCCCCCCC, none, [⟨31, 0, .rws, 0, 0xFFFFFFFF⟩]⟩
  , ⟨"EVT.LINE_EN", 0x11400, 0, 1, 0, 1, false, some 7, 0x1F, none, [⟨4, 4, .rws, 0, 1⟩, ⟨3, 0, .rws, 0, 0xF⟩]⟩
  , ⟨"EVT.LINE_STATUS", 0x11404, 0, 1, 0, 1, false, none, 0, none, [⟨5, 5, .ro, 0, 1⟩, ⟨4, 4, .ro, 0, 1⟩, ⟨3, 0, .ro, 0, 0xF⟩]⟩
  , ⟨"EVT.EVENT_CNT", 0x11800, 0, 1, 0, 1, true, none, 0, some (1088, 0), [⟨63, 0, .cnt, 0, 0xFFFFFFFFFFFFFFFF⟩]⟩
  , ⟨"EVT.FORCE_CNT", 0x11808, 0, 1, 0, 1, true, none, 0, some (1089, 0), [⟨63, 0, .cnt, 0, 0xFFFFFFFFFFFFFFFF⟩]⟩
  , ⟨"EVT.IRQ_CNT", 0x11810, 0, 1, 0, 1, true, none, 0, some (1090, 0), [⟨63, 0, .cnt, 0, 0xFFFFFFFFFFFFFFFF⟩]⟩ ]

/-- The FLT registers. -/
def regsFlt : List RegDesc :=
  [ ⟨"FLT.CFG", 0x20000, 8, 1024, 0, 1, true, some 6, 0, none, [⟨63, 56, .rws, 0, 0xFF⟩, ⟨55, 40, .rws, 1, 0xFFFF⟩, ⟨14, 10, .rws, 0, 0x1F⟩, ⟨9, 5, .rws, 0, 0x1F⟩, ⟨4, 0, .rws, 0, 0x1F⟩]⟩
  , ⟨"FLT.FEC_BEAT", 0x22000, 0x20, 32, 0, 1, true, none, 0, none, [⟨63, 0, .ro, 0, 0xFFFFFFFFFFFFFFFF⟩]⟩
  , ⟨"FLT.FEC_ADDR", 0x22008, 0x20, 32, 0, 1, true, none, 0, none, [⟨63, 0, .ro, 0, 0xFFFFFFFFFFFFFFFF⟩]⟩
  , ⟨"FLT.FEC_INFO", 0x22010, 0x20, 32, 0, 1, false, none, 0, none, [⟨31, 31, .ro, 0, 1⟩, ⟨30, 26, .ro, 0, 0x1F⟩, ⟨25, 24, .ro, 0, 3⟩, ⟨23, 12, .ro, 0, 0xFFF⟩, ⟨11, 8, .ro, 0, 0xF⟩, ⟨7, 0, .ro, 0, 0xFF⟩]⟩
  , ⟨"FLT.FEC_CLR", 0x22014, 0x20, 32, 0, 1, false, none, 0, none, [⟨0, 0, .wt, 0, 1⟩]⟩
  , ⟨"FLT.LEVEL", 0x22400, 4, 64, 0, 1, false, none, 0, none, [⟨31, 0, .ro, 0, 0xFFFFFFFF⟩]⟩
  , ⟨"FLT.LEVEL_CLR", 0x22500, 0, 1, 0, 1, false, none, 0, none, [⟨31, 31, .wt, 0, 1⟩, ⟨30, 30, .wt, 0, 1⟩, ⟨9, 0, .wt, 0, 0x3FF⟩]⟩
  , ⟨"FLT.CTL", 0x22504, 0, 1, 0, 1, false, none, 0, none, [⟨2, 2, .rw, 0, 1⟩, ⟨1, 1, .wt, 0, 1⟩, ⟨0, 0, .wt, 0, 1⟩]⟩
  , ⟨"FLT.STATUS", 0x22508, 0, 1, 0, 1, false, none, 0, none, [⟨31, 31, .ro, 0, 1⟩, ⟨30, 30, .ro, 0, 1⟩, ⟨29, 29, .ro, 0, 1⟩, ⟨9, 0, .ro, 0, 0x3FF⟩]⟩
  , ⟨"FLT.WIN_SEL", 0x22510, 0, 1, 0, 1, false, none, 0, none, [⟨9, 0, .rw, 0, 0x3FF⟩]⟩
  , ⟨"FLT.WIN_VIEW", 0x22514, 0, 1, 0, 1, false, none, 0, none, [⟨31, 24, .ro, 0, 0xFF⟩, ⟨23, 22, .ro, 0, 3⟩, ⟨21, 20, .ro, 0, 3⟩]⟩
  , ⟨"FLT.SERIOUS_CNT", 0x22600, 0, 1, 0, 1, true, none, 0, some (1152, 0), [⟨63, 0, .cnt, 0, 0xFFFFFFFFFFFFFFFF⟩]⟩
  , ⟨"FLT.SEVERE_CNT", 0x22608, 0, 1, 0, 1, true, none, 0, some (1153, 0), [⟨63, 0, .cnt, 0, 0xFFFFFFFFFFFFFFFF⟩]⟩
  , ⟨"FLT.FENCE_CNT", 0x22610, 0, 1, 0, 1, true, none, 0, some (1154, 0), [⟨63, 0, .cnt, 0, 0xFFFFFFFFFFFFFFFF⟩]⟩
  , ⟨"FLT.FAILOVER_CNT", 0x22618, 0, 1, 0, 1, true, none, 0, some (1155, 0), [⟨63, 0, .cnt, 0, 0xFFFFFFFFFFFFFFFF⟩]⟩ ]

/-- The JRN registers. -/
def regsJrn : List RegDesc :=
  [ ⟨"JRN.CFG", 0x30000, 0, 1, 0, 1, false, none, 0x80400064, none, [⟨31, 31, .rw, 0, 1⟩, ⟨23, 16, .rw, 4, 0xFF⟩, ⟨15, 0, .rw, 1, 0xFFFF⟩]⟩
  , ⟨"JRN.STATUS", 0x30004, 0, 1, 0, 1, false, none, 0, none, [⟨31, 31, .ro, 0, 1⟩, ⟨28, 16, .ro, 0, 0x1FFF⟩, ⟨11, 0, .ro, 0, 0xFFF⟩]⟩
  , ⟨"JRN.POP", 0x30008, 0, 1, 0, 1, false, none, 0, none, [⟨31, 0, .ro, 0, 0xFFFFFFFF⟩]⟩
  , ⟨"JRN.WORD", 0x30010, 4, 4, 0, 1, false, none, 0, none, [⟨31, 0, .ro, 0, 0xFFFFFFFF⟩]⟩
  , ⟨"JRN.CTL", 0x30020, 0, 1, 0, 1, false, none, 0, none, [⟨1, 1, .wt, 0, 1⟩, ⟨0, 0, .wt, 0, 1⟩]⟩
  , ⟨"JRN.NOTICE", 0x30024, 0, 1, 0, 1, false, some 7, 0xC, none, [⟨3, 3, .rws, 0, 1⟩, ⟨2, 2, .rws, 0, 1⟩, ⟨1, 0, .rws, 0, 3⟩]⟩
  , ⟨"JRN.PKT_CNT", 0x30100, 0, 1, 0, 1, true, none, 0, some (1216, 0), [⟨63, 0, .cnt, 0, 0xFFFFFFFFFFFFFFFF⟩]⟩
  , ⟨"JRN.LOST_CNT", 0x30108, 0, 1, 0, 1, true, none, 0, some (1217, 0), [⟨63, 0, .cnt, 0, 0xFFFFFFFFFFFFFFFF⟩]⟩
  , ⟨"JRN.DROP_CNT", 0x30110, 0, 1, 0, 1, true, none, 0, some (1218, 0), [⟨63, 0, .cnt, 0, 0xFFFFFFFFFFFFFFFF⟩]⟩
  , ⟨"JRN.CE_CNT", 0x30118, 0, 1, 0, 1, true, none, 0, some (1219, 0), [⟨63, 0, .cnt, 0, 0xFFFFFFFFFFFFFFFF⟩]⟩
  , ⟨"JRN.UE_CNT", 0x30120, 0, 1, 0, 1, true, none, 0, some (1220, 0), [⟨63, 0, .cnt, 0, 0xFFFFFFFFFFFFFFFF⟩]⟩ ]

/-- The ADM registers. -/
def regsAdm : List RegDesc :=
  [ ⟨"ADM.RANK0", 0x40000, 0, 1, 0, 1, false, some 0, 0x24924924, none, [⟨29, 24, .rws, 0, 0x3F⟩, ⟨23, 0, .rws, 0, 0xFFFFFF⟩]⟩
  , ⟨"ADM.RANK1", 0x40004, 0, 1, 0, 1, false, some 0, 0x376A4924, none, [⟨29, 27, .rws, 0, 7⟩, ⟨26, 24, .rws, 0, 7⟩, ⟨23, 21, .rws, 0, 7⟩, ⟨20, 18, .rws, 0, 7⟩, ⟨17, 0, .rws, 0, 0x3FFFF⟩]⟩
  , ⟨"ADM.TT_CAP", 0x40010, 0, 1, 0, 1, false, none, 0x400, none, [⟨12, 0, .rw, 0x40, 0x1000⟩]⟩
  , ⟨"ADM.TT_RES", 0x40014, 0, 1, 0, 1, false, none, 0x402010, none, [⟨23, 16, .rw, 0x10, 0x80⟩, ⟨15, 8, .rw, 8, 0x40⟩, ⟨7, 0, .rw, 4, 0x20⟩]⟩
  , ⟨"ADM.LOCK_CFG", 0x40018, 0, 1, 0, 1, false, none, 0xFA0100, none, [⟨23, 16, .rw, 1, 0xFA⟩, ⟨8, 0, .rw, 1, 0x100⟩]⟩
  , ⟨"ADM.TT_STATUS", 0x4001C, 0, 1, 0, 1, false, none, 0, none, [⟨28, 16, .ro, 0, 0x1FFF⟩, ⟨12, 0, .ro, 0, 0x1FFF⟩]⟩
  , ⟨"ADM.CTL", 0x40020, 0, 1, 0, 1, false, none, 0, none, [⟨0, 0, .wt, 0, 1⟩]⟩
  , ⟨"ADM.MASK", 0x40024, 0, 1, 0, 1, false, none, 0, none, [⟨19, 0, .ro, 0, 0xFFFFF⟩]⟩
  , ⟨"ADM.WAIT_ALARM", 0x40028, 0, 1, 0, 1, false, none, 0x2000, none, [⟨23, 0, .rw, 0, 0xFFFFFF⟩]⟩
  , ⟨"ADM.POOL_STATUS", 0x40100, 4, 16, 0, 1, false, none, 0, none, [⟨31, 31, .ro, 0, 1⟩, ⟨30, 30, .ro, 0, 1⟩, ⟨12, 0, .ro, 0, 0x1FFF⟩]⟩
  , ⟨"ADM.POOL_WAIT", 0x40140, 4, 16, 0, 1, false, none, 0, none, [⟨19, 0, .ro, 0, 0xFFFFF⟩]⟩
  , ⟨"ADM.LOCK_STATUS", 0x40180, 4, 16, 0, 1, false, none, 0, none, [⟨31, 31, .ro, 0, 1⟩, ⟨26, 24, .ro, 0, 7⟩, ⟨23, 12, .ro, 0, 0xFFF⟩, ⟨8, 0, .ro, 0, 0x1FF⟩]⟩
  , ⟨"ADM.MAXWAIT", 0x40200, 4, 20, 0, 1, false, none, 0, none, [⟨31, 0, .rc, 0, 0xFFFFFFFF⟩]⟩
  , ⟨"ADM.GRANT_CNT", 0x41000, 8, 20, 0, 1, true, none, 0, some (1280, 1), [⟨63, 0, .cnt, 0, 0xFFFFFFFFFFFFFFFF⟩]⟩
  , ⟨"ADM.WAIT_CNT", 0x41100, 8, 20, 0, 1, true, none, 0, some (1300, 1), [⟨63, 0, .cnt, 0, 0xFFFFFFFFFFFFFFFF⟩]⟩
  , ⟨"ADM.LOCK_CNT", 0x41200, 0, 1, 0, 1, true, none, 0, some (1320, 0), [⟨63, 0, .cnt, 0, 0xFFFFFFFFFFFFFFFF⟩]⟩
  , ⟨"ADM.LOCK_ERR_CNT", 0x41208, 0, 1, 0, 1, true, none, 0, some (1321, 0), [⟨63, 0, .cnt, 0, 0xFFFFFFFFFFFFFFFF⟩]⟩
  , ⟨"ADM.WDRAW_CNT", 0x41210, 0, 1, 0, 1, true, none, 0, some (1322, 0), [⟨63, 0, .cnt, 0, 0xFFFFFFFFFFFFFFFF⟩]⟩
  , ⟨"ADM.PF_DROP_CNT", 0x41218, 0, 1, 0, 1, true, none, 0, some (1323, 0), [⟨63, 0, .cnt, 0, 0xFFFFFFFFFFFFFFFF⟩]⟩ ]

/-- The FRP registers. -/
def regsFrp : List RegDesc :=
  [ ⟨"FRP.CTL", 0x48000, 0x100, 8, 0, 1, false, none, 0x4005, none, [⟨15, 8, .rw, 1, 0x40⟩, ⟨2, 2, .rw, 0, 1⟩, ⟨0, 0, .rw, 0, 1⟩]⟩
  , ⟨"FRP.STATUS", 0x48004, 0x100, 8, 0, 1, false, none, 0, none, [⟨31, 30, .ro, 0, 3⟩, ⟨29, 29, .ro, 0, 1⟩, ⟨22, 16, .ro, 0, 0x7F⟩, ⟨10, 0, .ro, 0, 0x7FF⟩]⟩
  , ⟨"FRP.PERR", 0x48008, 0x100, 8, 0, 1, false, none, 0, none, [⟨24, 24, .rc, 0, 1⟩, ⟨23, 23, .rc, 0, 1⟩, ⟨22, 22, .rc, 0, 1⟩, ⟨21, 21, .rc, 0, 1⟩, ⟨20, 20, .rc, 0, 1⟩, ⟨9, 0, .rc, 0, 0x3FF⟩]⟩
  , ⟨"FRP.REQ_CNT", 0x48010, 0x100, 8, 0, 1, true, none, 0, some (1344, 5), [⟨63, 0, .cnt, 0, 0xFFFFFFFFFFFFFFFF⟩]⟩
  , ⟨"FRP.WD_CNT", 0x48018, 0x100, 8, 0, 1, true, none, 0, some (1345, 5), [⟨63, 0, .cnt, 0, 0xFFFFFFFFFFFFFFFF⟩]⟩
  , ⟨"FRP.RD_CNT", 0x48020, 0x100, 8, 0, 1, true, none, 0, some (1346, 5), [⟨63, 0, .cnt, 0, 0xFFFFFFFFFFFFFFFF⟩]⟩
  , ⟨"FRP.ERR_CNT", 0x48028, 0x100, 8, 0, 1, true, none, 0, some (1347, 5), [⟨63, 0, .cnt, 0, 0xFFFFFFFFFFFFFFFF⟩]⟩
  , ⟨"FRP.DISCARD_CNT", 0x48030, 0x100, 8, 0, 1, true, none, 0, some (1348, 5), [⟨63, 0, .cnt, 0, 0xFFFFFFFFFFFFFFFF⟩]⟩ ]

/-- The NTC registers. -/
def regsNtc : List RegDesc :=
  [ ⟨"NTC.STATUS", 0x48800, 0, 1, 0, 1, false, none, 0, none, [⟨8, 0, .ro, 0, 0x1FF⟩]⟩
  , ⟨"NTC.MSG_CNT", 0x48808, 0, 1, 0, 1, true, none, 0, some (1384, 0), [⟨63, 0, .cnt, 0, 0xFFFFFFFFFFFFFFFF⟩]⟩
  , ⟨"NTC.FULL_CNT", 0x48810, 0, 1, 0, 1, true, none, 0, some (1385, 0), [⟨63, 0, .cnt, 0, 0xFFFFFFFFFFFFFFFF⟩]⟩ ]

/-- The MAP registers. -/
def regsMap : List RegDesc :=
  [ ⟨"MAP.CFG", 0x50000, 0, 1, 0, 1, false, none, 6, none, [⟨31, 31, .lk, 0, 1⟩, ⟨2, 2, .rwh, 0, 1⟩, ⟨1, 1, .rwh, 0, 1⟩, ⟨0, 0, .rwh, 0, 1⟩]⟩
  , ⟨"MAP.GEOM", 0x50004, 0, 1, 0, 1, false, none, 0x7E10010, none, [⟨27, 24, .rwh, 6, 7⟩, ⟨23, 22, .rwh, 2, 3⟩, ⟨21, 20, .rwh, 1, 2⟩, ⟨19, 18, .rwh, 0, 3⟩, ⟨17, 16, .rwh, 0, 2⟩, ⟨15, 15, .rwh, 0, 1⟩, ⟨4, 0, .rwh, 0xF, 0x12⟩]⟩
  , ⟨"MAP.CHASH", 0x50010, 8, 4, 0, 1, true, none, 0, none, [⟨36, 0, .rwh, 0, 0x1FFFFFFFFF⟩]⟩
  , ⟨"MAP.DAS", 0x50030, 0, 1, 0, 1, false, none, 0, none, [⟨28, 0, .ro, 0, 0x1FFFFFFF⟩]⟩
  , ⟨"MAP.EXCL", 0x50034, 0, 1, 0, 1, false, none, 0, none, [⟨28, 0, .ro, 0, 0x1FFFFFFF⟩]⟩
  , ⟨"MAP.LMS_TOP", 0x50038, 0, 1, 0, 1, false, none, 0, none, [⟨22, 0, .rwh, 0, 0x7FFFFF⟩]⟩
  , ⟨"MAP.RSV_BASE", 0x5003C, 0, 1, 0, 1, false, none, 0, none, [⟨20, 0, .rwh, 0, 0x1FFFFF⟩]⟩
  , ⟨"MAP.RB", 0x50040, 4, 9, 0, 1, false, none, 0, none, [⟨24, 0, .rwh, 0, 0x1FFFFFF⟩]⟩
  , ⟨"MAP.FILLCFG", 0x50070, 0, 1, 0, 1, false, none, 0xA, none, [⟨5, 0, .rw, 1, 0x28⟩]⟩
  , ⟨"MAP.FILL_STATUS", 0x50074, 0, 1, 0, 1, false, none, 0, none, [⟨23, 12, .ro, 0, 0xFFF⟩, ⟨8, 0, .ro, 0, 0x1FF⟩]⟩
  , ⟨"MAP.BCMD", 0x50078, 0, 1, 0, 1, false, none, 0, none, [⟨31, 31, .ro, 0, 1⟩, ⟨2, 2, .wt, 0, 1⟩, ⟨1, 1, .wt, 0, 1⟩, ⟨0, 0, .wt, 0, 1⟩]⟩
  , ⟨"MAP.BPROG", 0x5007C, 0, 1, 0, 1, false, none, 0, none, [⟨31, 0, .ro, 0, 0xFFFFFFFF⟩]⟩
  , ⟨"MAP.BLANK_RD_CNT", 0x50100, 0, 1, 0, 1, true, none, 0, some (1408, 0), [⟨63, 0, .cnt, 0, 0xFFFFFFFFFFFFFFFF⟩]⟩
  , ⟨"MAP.FILL_ALLOC_CNT", 0x50108, 0, 1, 0, 1, true, none, 0, some (1409, 0), [⟨63, 0, .cnt, 0, 0xFFFFFFFFFFFFFFFF⟩]⟩
  , ⟨"MAP.FILL_DONE_CNT", 0x50110, 0, 1, 0, 1, true, none, 0, some (1410, 0), [⟨63, 0, .cnt, 0, 0xFFFFFFFFFFFFFFFF⟩]⟩
  , ⟨"MAP.FILL_WAIT_CNT", 0x50118, 0, 1, 0, 1, true, none, 0, some (1411, 0), [⟨63, 0, .cnt, 0, 0xFFFFFFFFFFFFFFFF⟩]⟩
  , ⟨"MAP.TRIM_CNT", 0x50120, 0, 1, 0, 1, true, none, 0, some (1412, 0), [⟨63, 0, .cnt, 0, 0xFFFFFFFFFFFFFFFF⟩]⟩
  , ⟨"MAP.PC_HIT_CNT", 0x50128, 0, 1, 0, 1, true, none, 0, some (1413, 0), [⟨63, 0, .cnt, 0, 0xFFFFFFFFFFFFFFFF⟩]⟩
  , ⟨"MAP.PC_MISS_CNT", 0x50130, 0, 1, 0, 1, true, none, 0, some (1414, 0), [⟨63, 0, .cnt, 0, 0xFFFFFFFFFFFFFFFF⟩]⟩
  , ⟨"MAP.RANGE_ERR_CNT", 0x50138, 0, 1, 0, 1, true, none, 0, some (1415, 0), [⟨63, 0, .cnt, 0, 0xFFFFFFFFFFFFFFFF⟩]⟩ ]

/-- The VNR registers. -/
def regsVnr : List RegDesc :=
  [ ⟨"VNR.CTL", 0x60000, 0, 1, 0, 1, false, none, 0, none, [⟨0, 0, .rw, 0, 1⟩]⟩
  , ⟨"VNR.STATUS", 0x60004, 0, 1, 0, 1, false, none, 0xC0100000, none, [⟨31, 30, .ro, 0, 3⟩, ⟨21, 16, .ro, 0, 0x3F⟩]⟩
  , ⟨"VNR.DIRTY", 0x60008, 0, 1, 0, 1, false, some 2, 0x40004B, none, [⟨23, 16, .rws, 0, 0x80⟩, ⟨6, 0, .rws, 1, 0x64⟩]⟩
  , ⟨"VNR.PIN", 0x6000C, 0, 1, 0, 1, false, some 2, 8, none, [⟨3, 0, .rws, 0, 0xC⟩]⟩
  , ⟨"VNR.DIRTY_STATUS", 0x60010, 0, 1, 0, 1, false, none, 0, none, [⟨21, 0, .ro, 0, 0x3FFFFF⟩]⟩
  , ⟨"VNR.PIN_STATUS", 0x60014, 0, 1, 0, 1, false, none, 0, none, [⟨20, 0, .ro, 0, 0x1FFFFF⟩]⟩
  , ⟨"VNR.ROP_START", 0x60020, 0, 1, 0, 1, true, none, 0, none, [⟨47, 6, .rw, 0, 0x3FFFFFFFFFF⟩]⟩
  , ⟨"VNR.ROP_END", 0x60028, 0, 1, 0, 1, true, none, 0, none, [⟨47, 6, .rw, 0, 0x3FFFFFFFFFF⟩]⟩
  , ⟨"VNR.ROP_CMD", 0x60030, 0, 1, 0, 1, false, none, 0, none, [⟨31, 31, .wt, 0, 1⟩, ⟨2, 0, .rw, 1, 4⟩]⟩
  , ⟨"VNR.ROP_STATUS", 0x60034, 0, 1, 0, 1, false, none, 0, none, [⟨31, 31, .ro, 0, 1⟩, ⟨30, 28, .ro, 0, 7⟩, ⟨27, 27, .ro, 0, 1⟩, ⟨15, 0, .ro, 0, 0xFFFF⟩]⟩
  , ⟨"VNR.ROP_PROG", 0x60038, 0, 1, 0, 1, true, none, 0, none, [⟨47, 0, .ro, 0, 0xFFFFFFFFFFFF⟩]⟩
  , ⟨"VNR.HIT_CNT", 0x60100, 0, 1, 0, 1, true, none, 0, some (1472, 0), [⟨63, 0, .cnt, 0, 0xFFFFFFFFFFFFFFFF⟩]⟩
  , ⟨"VNR.MISS_CNT", 0x60108, 0, 1, 0, 1, true, none, 0, some (1473, 0), [⟨63, 0, .cnt, 0, 0xFFFFFFFFFFFFFFFF⟩]⟩
  , ⟨"VNR.FILL_CNT", 0x60110, 0, 1, 0, 1, true, none, 0, some (1474, 0), [⟨63, 0, .cnt, 0, 0xFFFFFFFFFFFFFFFF⟩]⟩
  , ⟨"VNR.WB_CNT", 0x60118, 0, 1, 0, 1, true, none, 0, some (1475, 0), [⟨63, 0, .cnt, 0, 0xFFFFFFFFFFFFFFFF⟩]⟩
  , ⟨"VNR.WT_FORCE_CNT", 0x60120, 0, 1, 0, 1, true, none, 0, some (1476, 0), [⟨63, 0, .cnt, 0, 0xFFFFFFFFFFFFFFFF⟩]⟩
  , ⟨"VNR.FILL_DROP_CNT", 0x60128, 0, 1, 0, 1, true, none, 0, some (1477, 0), [⟨63, 0, .cnt, 0, 0xFFFFFFFFFFFFFFFF⟩]⟩
  , ⟨"VNR.CE_CNT", 0x60130, 0, 1, 0, 1, true, none, 0, some (1478, 0), [⟨63, 0, .cnt, 0, 0xFFFFFFFFFFFFFFFF⟩]⟩
  , ⟨"VNR.UE_CNT", 0x60138, 0, 1, 0, 1, true, none, 0, some (1479, 0), [⟨63, 0, .cnt, 0, 0xFFFFFFFFFFFFFFFF⟩]⟩
  , ⟨"VNR.PIN_REFUSE_CNT", 0x60140, 0, 1, 0, 1, true, none, 0, some (1480, 0), [⟨63, 0, .cnt, 0, 0xFFFFFFFFFFFFFFFF⟩]⟩
  , ⟨"VNR.RGN_A", 0x61000, 0x10, 64, 0, 1, true, some 2, 0, none, [⟨63, 63, .rws, 0, 1⟩, ⟨58, 56, .rws, 0, 4⟩, ⟨47, 12, .rws, 0, 0xFFFFFFFFF⟩]⟩
  , ⟨"VNR.RGN_B", 0x61008, 0x10, 64, 0, 1, true, some 2, 0, none, [⟨47, 12, .rws, 0, 0xFFFFFFFFF⟩]⟩ ]

/-- The CUR registers. -/
def regsCur : List RegDesc :=
  [ ⟨"CUR.CFG", 0x70000, 0, 1, 0, 1, false, some 4, 0x7D03202, none, [⟨31, 16, .rws, 0xFA, 0xFFFF⟩, ⟨14, 8, .rws, 0x19, 0x64⟩, ⟨1, 0, .rws, 1, 3⟩]⟩
  , ⟨"CUR.TWIN", 0x70004, 0, 1, 0, 1, false, some 4, 0x64, none, [⟨31, 16, .rws, 0, 0xFFFF⟩, ⟨15, 0, .rws, 1, 0xFFFF⟩]⟩
  , ⟨"CUR.RECAST_CFG", 0x70008, 0, 1, 0, 1, false, some 4, 0x14, none, [⟨6, 0, .rws, 1, 0x64⟩]⟩
  , ⟨"CUR.CTL", 0x7000C, 0, 1, 0, 1, false, none, 0, none, [⟨8, 8, .rw, 0, 1⟩, ⟨1, 1, .wt, 0, 1⟩, ⟨0, 0, .wt, 0, 1⟩]⟩
  , ⟨"CUR.FENCE_CMD", 0x70010, 0, 1, 0, 1, false, none, 0, none, [⟨31, 31, .wt, 0, 1⟩, ⟨30, 28, .ro, 0, 7⟩, ⟨5, 4, .rw, 0, 2⟩, ⟨3, 0, .rw, 0, 0xF⟩]⟩
  , ⟨"CUR.STATUS", 0x70014, 0, 1, 0, 1, false, none, 0, none, [⟨31, 29, .ro, 0, 7⟩, ⟨28, 28, .ro, 0, 1⟩, ⟨27, 27, .ro, 0, 1⟩, ⟨26, 26, .ro, 0, 1⟩, ⟨25, 25, .ro, 0, 1⟩, ⟨19, 16, .ro, 0, 0xF⟩]⟩
  , ⟨"CUR.FENCE_STATUS", 0x70018, 0, 1, 0, 1, false, none, 0, none, [⟨31, 0, .ro, 0, 0xFFFFFFFF⟩]⟩
  , ⟨"CUR.EPOCH", 0x70020, 0, 1, 0, 1, false, none, 1, none, [⟨31, 0, .ro, 0, 0xFFFFFFFF⟩]⟩
  , ⟨"CUR.LOCAL", 0x70024, 0, 1, 0, 1, false, none, 0, none, [⟨31, 0, .ro, 0, 0xFFFFFFFF⟩]⟩
  , ⟨"CUR.TWIN_ACK", 0x70028, 0, 1, 0, 1, false, none, 0, none, [⟨31, 0, .ro, 0, 0xFFFFFFFF⟩]⟩
  , ⟨"CUR.CURED", 0x7002C, 0, 1, 0, 1, false, none, 0, none, [⟨31, 0, .ro, 0, 0xFFFFFFFF⟩]⟩
  , ⟨"CUR.EPOCH_SET", 0x70030, 0, 1, 0, 1, false, none, 0, none, [⟨31, 0, .wt, 0, 0xFFFFFFFF⟩]⟩
  , ⟨"CUR.PEND_STATUS", 0x70034, 0, 1, 0, 1, false, none, 0, none, [⟨29, 16, .ro, 0, 0x3FFF⟩, ⟨14, 0, .ro, 0, 0x7FFF⟩]⟩
  , ⟨"CUR.RECAST_PROG", 0x70038, 0, 1, 0, 1, true, none, 0, none, [⟨31, 0, .ro, 0, 0xFFFFFFFF⟩]⟩
  , ⟨"CUR.RGN_MODE", 0x70040, 4, 4, 0, 1, false, some 4, 0, none, [⟨31, 0, .rws, 0, 0xFFFFFFFF⟩]⟩
  , ⟨"CUR.FENCE_OK_CNT", 0x70100, 0, 1, 0, 1, true, none, 0, some (1536, 0), [⟨63, 0, .cnt, 0, 0xFFFFFFFFFFFFFFFF⟩]⟩
  , ⟨"CUR.DEGR_CNT", 0x70108, 0, 1, 0, 1, true, none, 0, some (1537, 0), [⟨63, 0, .cnt, 0, 0xFFFFFFFFFFFFFFFF⟩]⟩
  , ⟨"CUR.MIR_LINE_CNT", 0x70110, 0, 1, 0, 1, true, none, 0, some (1538, 0), [⟨63, 0, .cnt, 0, 0xFFFFFFFFFFFFFFFF⟩]⟩
  , ⟨"CUR.MARK_CNT", 0x70118, 0, 1, 0, 1, true, none, 0, some (1539, 0), [⟨63, 0, .cnt, 0, 0xFFFFFFFFFFFFFFFF⟩]⟩
  , ⟨"CUR.RETX_LINE_CNT", 0x70120, 0, 1, 0, 1, true, none, 0, some (1540, 0), [⟨63, 0, .cnt, 0, 0xFFFFFFFFFFFFFFFF⟩]⟩
  , ⟨"CUR.REPAIR_CNT", 0x70128, 0, 1, 0, 1, true, none, 0, some (1541, 0), [⟨63, 0, .cnt, 0, 0xFFFFFFFFFFFFFFFF⟩]⟩
  , ⟨"CUR.REPAIR_FAIL_CNT", 0x70130, 0, 1, 0, 1, true, none, 0, some (1542, 0), [⟨63, 0, .cnt, 0, 0xFFFFFFFFFFFFFFFF⟩]⟩
  , ⟨"CUR.FWD_CNT", 0x70138, 0, 1, 0, 1, true, none, 0, some (1543, 0), [⟨63, 0, .cnt, 0, 0xFFFFFFFFFFFFFFFF⟩]⟩
  , ⟨"CUR.RECAST_LINE_CNT", 0x70140, 0, 1, 0, 1, true, none, 0, some (1544, 0), [⟨63, 0, .cnt, 0, 0xFFFFFFFFFFFFFFFF⟩]⟩
  , ⟨"CUR.PUSH_LINE_CNT", 0x70148, 0, 1, 0, 1, true, none, 0, some (1545, 0), [⟨63, 0, .cnt, 0, 0xFFFFFFFFFFFFFFFF⟩]⟩
  , ⟨"CUR.RSV_DROP_CNT", 0x70150, 0, 1, 0, 1, true, none, 0, some (1546, 0), [⟨63, 0, .cnt, 0, 0xFFFFFFFFFFFFFFFF⟩]⟩
  , ⟨"CUR.STALL_CNT", 0x70158, 0, 1, 0, 1, true, none, 0, some (1547, 0), [⟨63, 0, .cnt, 0, 0xFFFFFFFFFFFFFFFF⟩]⟩
  , ⟨"CUR.PEND_WAIT_CNT", 0x70160, 0, 1, 0, 1, true, none, 0, some (1548, 0), [⟨63, 0, .cnt, 0, 0xFFFFFFFFFFFFFFFF⟩]⟩ ]

/-- The TIR registers. -/
def regsTir : List RegDesc :=
  [ ⟨"TIR.CTL", 0x80000, 0, 1, 0, 1, false, some 5, 0x20, none, [⟨31, 31, .rws, 0, 1⟩, ⟨30, 30, .rws, 0, 1⟩, ⟨7, 0, .rws, 1, 0xC8⟩]⟩
  , ⟨"TIR.THRESH", 0x80004, 0, 1, 0, 1, false, some 5, 0x1800020, none, [⟨31, 16, .rws, 0, 0xFFFF⟩, ⟨15, 0, .rws, 0, 0xFFFF⟩]⟩
  , ⟨"TIR.HEAT_CFG", 0x80008, 0, 1, 0, 1, false, some 5, 0x3E80021, none, [⟨31, 16, .rws, 1, 0xFFFF⟩, ⟨7, 4, .rws, 0, 0xF⟩, ⟨3, 0, .rws, 0, 0xF⟩]⟩
  , ⟨"TIR.FRAME_FLOOR", 0x8000C, 0, 1, 0, 1, false, some 5, 0x400, none, [⟨27, 0, .rws, 0, 0xFFFFFFF⟩]⟩
  , ⟨"TIR.NLB", 0x80010, 0, 1, 0, 1, false, some 5, 0x14, none, [⟨15, 0, .rws, 1, 0xFFFF⟩]⟩
  , ⟨"TIR.FRAME_STATUS", 0x80014, 0, 1, 0, 1, false, none, 0, none, [⟨31, 31, .ro, 0, 1⟩, ⟨27, 0, .ro, 0, 0xFFFFFFF⟩]⟩
  , ⟨"TIR.MOVE_STATUS", 0x80018, 0, 1, 0, 1, false, none, 0, none, [⟨28, 16, .ro, 0, 0x1FFF⟩, ⟨9, 5, .ro, 0, 0x1F⟩, ⟨4, 0, .ro, 0, 0x1F⟩]⟩
  , ⟨"TIR.HAND", 0x80020, 0, 1, 0, 1, true, none, 0, none, [⟨31, 0, .ro, 0, 0xFFFFFFFF⟩]⟩
  , ⟨"TIR.MOVE_CMD", 0x80028, 0, 1, 0, 1, true, none, 0x800000000000, none, [⟨63, 63, .wt, 0, 1⟩, ⟨62, 60, .ro, 0, 7⟩, ⟨59, 59, .rw, 0, 1⟩, ⟨52, 48, .rw, 0, 0x1F⟩, ⟨47, 47, .rw, 0, 1⟩, ⟨31, 0, .rw, 0, 0xFFFFFFFF⟩]⟩
  , ⟨"TIR.RECLAIM_CMD", 0x80030, 0, 1, 0, 1, false, none, 0, none, [⟨31, 31, .wt, 0, 1⟩, ⟨30, 30, .ro, 0, 1⟩, ⟨29, 28, .ro, 0, 3⟩, ⟨4, 0, .rw, 0, 0x1F⟩]⟩
  , ⟨"TIR.FRAME_CMD", 0x80034, 0, 1, 0, 1, false, none, 0, none, [⟨31, 31, .wt, 0, 1⟩, ⟨30, 29, .ro, 0, 3⟩, ⟨27, 0, .ro, 0, 0xFFFFFFF⟩]⟩
  , ⟨"TIR.NBR", 0x80100, 8, 32, 0, 1, true, some 5, 0, none, [⟨63, 63, .rws, 0, 1⟩, ⟨62, 61, .ro, 0, 3⟩, ⟨47, 32, .rws, 0, 0xFFFF⟩, ⟨31, 19, .rws, 0, 0x1FFF⟩, ⟨15, 0, .ro, 0, 0xFFFF⟩]⟩
  , ⟨"TIR.NBR_USE", 0x80200, 4, 32, 0, 1, false, none, 0, none, [⟨27, 0, .ro, 0, 0xFFFFFFF⟩]⟩
  , ⟨"TIR.GRANT_A", 0x80300, 0x10, 32, 0, 1, true, none, 0, none, [⟨63, 63, .rw, 0, 1⟩, ⟨62, 62, .ro, 0, 1⟩, ⟨61, 61, .rw, 0, 1⟩, ⟨60, 60, .wt, 0, 1⟩, ⟨47, 32, .rw, 0, 0xFFFF⟩, ⟨27, 0, .rw, 0, 0xFFFFFFF⟩]⟩
  , ⟨"TIR.GRANT_B", 0x80308, 0x10, 32, 0, 1, true, none, 0, none, [⟨59, 32, .ro, 0, 0xFFFFFFF⟩, ⟨27, 0, .rw, 0, 0xFFFFFFF⟩]⟩
  , ⟨"TIR.JIG_ADDR", 0x80600, 0x10, 4, 0, 1, true, none, 0, none, [⟨47, 6, .rw, 0, 0x3FFFFFFFFFF⟩]⟩
  , ⟨"TIR.JIG_CMD", 0x80608, 0x10, 4, 0, 1, false, none, 0, none, [⟨31, 31, .wt, 0, 1⟩, ⟨30, 30, .wt, 0, 1⟩, ⟨29, 29, .ro, 0, 1⟩, ⟨28, 26, .ro, 0, 7⟩, ⟨12, 0, .ro, 0, 0x1FFF⟩]⟩
  , ⟨"TIR.JIG_LATE", 0x8060C, 0x10, 4, 0, 1, false, none, 0, none, [⟨12, 0, .ro, 0, 0x1FFF⟩]⟩
  , ⟨"TIR.PROMOTE_CNT", 0x80800, 0, 1, 0, 1, true, none, 0, some (1600, 0), [⟨63, 0, .cnt, 0, 0xFFFFFFFFFFFFFFFF⟩]⟩
  , ⟨"TIR.DEMOTE_CNT", 0x80808, 0, 1, 0, 1, true, none, 0, some (1601, 0), [⟨63, 0, .cnt, 0, 0xFFFFFFFFFFFFFFFF⟩]⟩
  , ⟨"TIR.REMAP_CNT", 0x80810, 0, 1, 0, 1, true, none, 0, some (1602, 0), [⟨63, 0, .cnt, 0, 0xFFFFFFFFFFFFFFFF⟩]⟩
  , ⟨"TIR.DEFER_CNT", 0x80818, 0, 1, 0, 1, true, none, 0, some (1603, 0), [⟨63, 0, .cnt, 0, 0xFFFFFFFFFFFFFFFF⟩]⟩
  , ⟨"TIR.ABANDON_CNT", 0x80820, 0, 1, 0, 1, true, none, 0, some (1604, 0), [⟨63, 0, .cnt, 0, 0xFFFFFFFFFFFFFFFF⟩]⟩
  , ⟨"TIR.HEAT_DROP_CNT", 0x80828, 0, 1, 0, 1, true, none, 0, some (1605, 0), [⟨63, 0, .cnt, 0, 0xFFFFFFFFFFFFFFFF⟩]⟩
  , ⟨"TIR.FRAME_WAIT_CNT", 0x80830, 0, 1, 0, 1, true, none, 0, some (1606, 0), [⟨63, 0, .cnt, 0, 0xFFFFFFFFFFFFFFFF⟩]⟩
  , ⟨"TIR.LEND_RD_CNT", 0x80838, 0, 1, 0, 1, true, none, 0, some (1607, 0), [⟨63, 0, .cnt, 0, 0xFFFFFFFFFFFFFFFF⟩]⟩
  , ⟨"TIR.LEND_WR_CNT", 0x80840, 0, 1, 0, 1, true, none, 0, some (1608, 0), [⟨63, 0, .cnt, 0, 0xFFFFFFFFFFFFFFFF⟩]⟩
  , ⟨"TIR.LEND_DENY_CNT", 0x80848, 0, 1, 0, 1, true, none, 0, some (1609, 0), [⟨63, 0, .cnt, 0, 0xFFFFFFFFFFFFFFFF⟩]⟩
  , ⟨"TIR.STAGE_LINE_CNT", 0x80850, 0, 1, 0, 1, true, none, 0, some (1610, 0), [⟨63, 0, .cnt, 0, 0xFFFFFFFFFFFFFFFF⟩]⟩
  , ⟨"TIR.JIG_LATE_CNT", 0x80858, 0, 1, 0, 1, true, none, 0, some (1611, 0), [⟨63, 0, .cnt, 0, 0xFFFFFFFFFFFFFFFF⟩]⟩ ]

/-- The TEN registers. -/
def regsTen : List RegDesc :=
  [ ⟨"TEN.UDP", 0x90000, 0, 1, 0, 1, false, none, 0x40D5A0, none, [⟨23, 16, .rw, 1, 0xFF⟩, ⟨15, 0, .rw, 0, 0xFFFF⟩]⟩
  , ⟨"TEN.RTO", 0x90004, 0, 1, 0, 1, false, none, 0x708, none, [⟨11, 8, .rw, 0, 0xF⟩, ⟨6, 0, .rw, 2, 0x40⟩]⟩
  , ⟨"TEN.ACK", 0x90008, 0, 1, 0, 1, false, none, 0x1001F4, none, [⟨23, 16, .rw, 1, 0x40⟩, ⟨10, 0, .rw, 0, 0x3E8⟩]⟩
  , ⟨"TEN.SEG_CTL", 0x90010, 4, 4, 0, 1, false, none, 1, none, [⟨0, 0, .rw, 0, 1⟩]⟩
  , ⟨"TEN.SEG_STATUS", 0x90020, 4, 4, 0, 1, false, none, 0, none, [⟨31, 31, .ro, 0, 1⟩, ⟨30, 30, .ro, 0, 1⟩, ⟨15, 0, .ro, 0, 0xFFFF⟩]⟩
  , ⟨"TEN.SEG_IP4", 0x90030, 4, 4, 0, 1, false, none, 0, none, [⟨31, 0, .rw, 0, 0xFFFFFFFF⟩]⟩
  , ⟨"TEN.SEG_IP6H", 0x90040, 0x10, 4, 0, 1, true, none, 0, none, [⟨63, 0, .rw, 0, 0xFFFFFFFFFFFFFFFF⟩]⟩
  , ⟨"TEN.SEG_IP6L", 0x90048, 0x10, 4, 0, 1, true, none, 0, none, [⟨63, 0, .rw, 0, 0xFFFFFFFFFFFFFFFF⟩]⟩
  , ⟨"TEN.TX_CNT", 0x90100, 8, 4, 0, 1, true, none, 0, some (1664, 1), [⟨63, 0, .cnt, 0, 0xFFFFFFFFFFFFFFFF⟩]⟩
  , ⟨"TEN.RX_CNT", 0x90120, 8, 4, 0, 1, true, none, 0, some (1668, 1), [⟨63, 0, .cnt, 0, 0xFFFFFFFFFFFFFFFF⟩]⟩
  , ⟨"TEN.RX_DROP_CNT", 0x90140, 8, 4, 0, 1, true, none, 0, some (1672, 1), [⟨63, 0, .cnt, 0, 0xFFFFFFFFFFFFFFFF⟩]⟩
  , ⟨"TEN.AUTH_FAIL_CNT", 0x90160, 0, 1, 0, 1, true, none, 0, some (1676, 0), [⟨63, 0, .cnt, 0, 0xFFFFFFFFFFFFFFFF⟩]⟩
  , ⟨"TEN.HDR_DROP_CNT", 0x90168, 0, 1, 0, 1, true, none, 0, some (1677, 0), [⟨63, 0, .cnt, 0, 0xFFFFFFFFFFFFFFFF⟩]⟩
  , ⟨"TEN.RETX_CNT", 0x90170, 0, 1, 0, 1, true, none, 0, some (1678, 0), [⟨63, 0, .cnt, 0, 0xFFFFFFFFFFFFFFFF⟩]⟩
  , ⟨"TEN.RTO_CNT", 0x90178, 0, 1, 0, 1, true, none, 0, some (1679, 0), [⟨63, 0, .cnt, 0, 0xFFFFFFFFFFFFFFFF⟩]⟩
  , ⟨"TEN.DUP_CNT", 0x90180, 0, 1, 0, 1, true, none, 0, some (1680, 0), [⟨63, 0, .cnt, 0, 0xFFFFFFFFFFFFFFFF⟩]⟩
  , ⟨"TEN.NAK_TX_CNT", 0x90188, 0, 1, 0, 1, true, none, 0, some (1681, 0), [⟨63, 0, .cnt, 0, 0xFFFFFFFFFFFFFFFF⟩]⟩
  , ⟨"TEN.NAK_RX_CNT", 0x90190, 0, 1, 0, 1, true, none, 0, some (1682, 0), [⟨63, 0, .cnt, 0, 0xFFFFFFFFFFFFFFFF⟩]⟩
  , ⟨"TEN.CNR_TX_CNT", 0x90198, 0, 1, 0, 1, true, none, 0, some (1683, 0), [⟨63, 0, .cnt, 0, 0xFFFFFFFFFFFFFFFF⟩]⟩
  , ⟨"TEN.CNR_RX_CNT", 0x901A0, 0, 1, 0, 1, true, none, 0, some (1684, 0), [⟨63, 0, .cnt, 0, 0xFFFFFFFFFFFFFFFF⟩]⟩
  , ⟨"TEN.RING_A", 0x90800, 0x20, 32, 0, 1, true, none, 4, none, [⟨63, 63, .rw, 0, 1⟩, ⟨59, 48, .rw, 0, 0xFFF⟩, ⟨47, 6, .rw, 0, 0x3FFFFFFFFFF⟩, ⟨4, 0, .rw, 4, 0x10⟩]⟩
  , ⟨"TEN.RING_B", 0x90808, 0x20, 32, 0, 1, true, none, 0, none, [⟨47, 6, .rw, 0, 0x3FFFFFFFFFF⟩]⟩
  , ⟨"TEN.RING_C", 0x90810, 0x20, 32, 0, 1, true, none, 0x100000000, none, [⟨32, 32, .ro, 0, 1⟩, ⟨31, 16, .ro, 0, 0xFFFF⟩, ⟨15, 0, .ro, 0, 0xFFFF⟩]⟩
  , ⟨"TEN.CONN_SEL", 0x91000, 0, 1, 0, 1, false, none, 0, none, [⟨15, 0, .rw, 0, 0xFFFF⟩]⟩
  , ⟨"TEN.CONN_CFG0", 0x91008, 0, 1, 0, 1, true, none, 0, none, [⟨63, 48, .rw, 0, 0xFFFF⟩, ⟨47, 32, .rw, 0, 0xFFFF⟩, ⟨31, 30, .rw, 0, 2⟩, ⟨29, 29, .rw, 0, 1⟩, ⟨28, 28, .rw, 0, 1⟩, ⟨27, 26, .rw, 0, 3⟩, ⟨23, 16, .rw, 0, 0xFF⟩, ⟨13, 8, .rw, 0, 0x3F⟩]⟩
  , ⟨"TEN.CONN_IPH", 0x91010, 0, 1, 0, 1, true, none, 0, none, [⟨63, 0, .rw, 0, 0xFFFFFFFFFFFFFFFF⟩]⟩
  , ⟨"TEN.CONN_IPL", 0x91018, 0, 1, 0, 1, true, none, 0, none, [⟨63, 0, .rw, 0, 0xFFFFFFFFFFFFFFFF⟩]⟩
  , ⟨"TEN.CONN_TXSEQ", 0x91020, 0, 1, 0, 1, true, none, 0, none, [⟨56, 24, .rw, 0, 0x1FFFFFFFF⟩, ⟨23, 0, .rw, 0, 0xFFFFFF⟩]⟩
  , ⟨"TEN.CONN_RXSEQ", 0x91028, 0, 1, 0, 1, true, none, 0, none, [⟨56, 24, .rw, 0, 0x1FFFFFFFF⟩, ⟨23, 0, .rw, 0, 0xFFFFFF⟩]⟩
  , ⟨"TEN.KEY_STAGE", 0x91040, 8, 4, 0, 1, true, none, 0, none, [⟨63, 0, .wt, 0, 0xFFFFFFFFFFFFFFFF⟩]⟩
  , ⟨"TEN.KEY_CFG", 0x91060, 0, 1, 0, 1, true, none, 0, none, [⟨63, 32, .rw, 0, 0xFFFFFFFF⟩, ⟨7, 0, .rw, 0, 0xFF⟩]⟩
  , ⟨"TEN.CONN_CMD", 0x91068, 0, 1, 0, 1, false, none, 0, none, [⟨31, 31, .wt, 0, 1⟩, ⟨30, 30, .ro, 0, 1⟩, ⟨29, 27, .ro, 0, 7⟩, ⟨3, 0, .rw, 1, 7⟩]⟩
  , ⟨"TEN.CONN_STATUS", 0x91070, 0, 1, 0, 1, true, none, 0, none, [⟨63, 62, .ro, 0, 3⟩, ⟨61, 60, .ro, 0, 3⟩, ⟨59, 59, .ro, 0, 1⟩, ⟨58, 58, .ro, 0, 1⟩, ⟨57, 57, .ro, 0, 1⟩, ⟨56, 55, .ro, 0, 3⟩, ⟨54, 53, .ro, 0, 3⟩, ⟨52, 50, .ro, 0, 7⟩, ⟨47, 40, .ro, 0, 0xFF⟩, ⟨39, 32, .ro, 0, 0xFF⟩, ⟨26, 16, .ro, 0, 0x7FF⟩, ⟨15, 8, .ro, 0, 0xFF⟩, ⟨7, 0, .ro, 0, 0xFF⟩]⟩
  , ⟨"TEN.CTX_STATUS", 0x91078, 0, 1, 0, 1, false, none, 0, none, [⟨25, 13, .ro, 0, 0x1FFF⟩, ⟨12, 0, .ro, 0, 0x1FFF⟩]⟩
  , ⟨"TEN.PEND_STATUS", 0x91080, 4, 8, 0, 1, false, none, 0, none, [⟨11, 8, .ro, 0, 0xF⟩, ⟨6, 0, .ro, 0, 0x7F⟩]⟩
  , ⟨"TEN.RKEY_SEL", 0x91100, 0, 1, 0, 1, false, none, 0, none, [⟨14, 0, .rw, 0, 0x7FFF⟩]⟩
  , ⟨"TEN.RKEY_BASE", 0x91108, 0, 1, 0, 1, true, none, 0, none, [⟨47, 6, .rw, 0, 0x3FFFFFFFFFF⟩]⟩
  , ⟨"TEN.RKEY_SIZE", 0x91110, 0, 1, 0, 1, true, none, 0, none, [⟨47, 6, .rw, 0, 0x3FFFFFFFFFF⟩]⟩
  , ⟨"TEN.RKEY_ATTR", 0x91118, 0, 1, 0, 1, false, none, 0xFFFF0000, none, [⟨31, 16, .rw, 0, 0xFFFF⟩, ⟨12, 8, .rw, 0, 0x1F⟩, ⟨3, 3, .rw, 0, 1⟩, ⟨2, 2, .rw, 0, 1⟩, ⟨1, 1, .rw, 0, 1⟩, ⟨0, 0, .rw, 0, 1⟩]⟩
  , ⟨"TEN.RKEY_CMD", 0x91120, 0, 1, 0, 1, false, none, 0, none, [⟨31, 31, .wt, 0, 1⟩, ⟨30, 30, .ro, 0, 1⟩, ⟨29, 28, .ro, 0, 3⟩, ⟨1, 0, .rw, 1, 3⟩]⟩
  , ⟨"TEN.RKEY_VAL", 0x91124, 0, 1, 0, 1, false, none, 0, none, [⟨31, 0, .ro, 0, 0xFFFFFFFF⟩]⟩
  , ⟨"TEN.RKEY_STATUS", 0x91128, 0, 1, 0, 1, false, none, 0, none, [⟨31, 30, .ro, 0, 3⟩, ⟨29, 22, .ro, 0, 0xFF⟩, ⟨10, 0, .ro, 0, 0x7FF⟩]⟩
  , ⟨"TEN.CTX_HIT_CNT", 0x91200, 0, 1, 0, 1, true, none, 0, some (1685, 0), [⟨63, 0, .cnt, 0, 0xFFFFFFFFFFFFFFFF⟩]⟩
  , ⟨"TEN.CTX_MISS_CNT", 0x91208, 0, 1, 0, 1, true, none, 0, some (1686, 0), [⟨63, 0, .cnt, 0, 0xFFFFFFFFFFFFFFFF⟩]⟩
  , ⟨"TEN.CTX_WB_CNT", 0x91210, 0, 1, 0, 1, true, none, 0, some (1687, 0), [⟨63, 0, .cnt, 0, 0xFFFFFFFFFFFFFFFF⟩]⟩
  , ⟨"TEN.RKEY_DENY_CNT", 0x91218, 0, 1, 0, 1, true, none, 0, some (1688, 0), [⟨63, 0, .cnt, 0, 0xFFFFFFFFFFFFFFFF⟩]⟩
  , ⟨"TEN.CONN_ERR_CNT", 0x91220, 0, 1, 0, 1, true, none, 0, some (1689, 0), [⟨63, 0, .cnt, 0, 0xFFFFFFFFFFFFFFFF⟩]⟩
  , ⟨"TEN.FLUSH_CNT", 0x91228, 0, 1, 0, 1, true, none, 0, some (1690, 0), [⟨63, 0, .cnt, 0, 0xFFFFFFFFFFFFFFFF⟩]⟩
  , ⟨"TEN.RETIRED_GEN_CNT", 0x91230, 0, 1, 0, 1, true, none, 0, some (1691, 0), [⟨63, 0, .cnt, 0, 0xFFFFFFFFFFFFFFFF⟩]⟩
  , ⟨"TEN.ERR_DROP_CNT", 0x91238, 0, 1, 0, 1, true, none, 0, some (1692, 0), [⟨63, 0, .cnt, 0, 0xFFFFFFFFFFFFFFFF⟩]⟩ ]

/-- The ARM registers. -/
def regsArm : List RegDesc :=
  [ ⟨"ARM.CTL", 0xA0000, 0, 1, 0, 1, false, none, 0, none, [⟨31, 31, .lk, 0, 1⟩, ⟨1, 1, .wt, 0, 1⟩, ⟨0, 0, .wt, 0, 1⟩]⟩
  , ⟨"ARM.STATUS", 0xA0004, 0, 1, 0, 1, false, none, 0, none, [⟨31, 29, .ro, 0, 7⟩, ⟨28, 27, .ro, 0, 3⟩, ⟨26, 26, .ro, 0, 1⟩, ⟨23, 16, .ro, 0, 0xFF⟩]⟩
  , ⟨"ARM.IMG_REQ", 0xA0008, 0, 1, 0, 1, false, none, 0, none, [⟨31, 31, .ro, 0, 1⟩, ⟨30, 30, .wt, 0, 1⟩, ⟨6, 0, .ro, 0, 0x7F⟩]⟩
  , ⟨"ARM.SVN", 0xA000C, 0, 1, 0, 1, false, none, 0, none, [⟨6, 0, .otp, 0, 0x7F⟩]⟩
  , ⟨"ARM.IKEY_STATE", 0xA0010, 0, 1, 0, 1, false, none, 1, none, [⟨7, 4, .otp, 0, 0xF⟩, ⟨3, 0, .otp, 0, 0xF⟩]⟩
  , ⟨"ARM.FW_VER", 0xA0014, 0, 1, 0, 1, false, none, 0, none, [⟨31, 0, .ro, 0, 0xFFFFFFFF⟩]⟩
  , ⟨"ARM.DIV_INFO", 0xA0018, 0, 1, 0, 1, true, none, 0, none, [⟨63, 56, .ro, 0, 0xFF⟩, ⟨47, 0, .ro, 0, 0xFFFFFFFFFFFF⟩]⟩
  , ⟨"ARM.IKEY_HASH", 0xA0040, 8, 6, 0x40, 4, true, none, 0, none, [⟨63, 0, .otp, 0, 0xFFFFFFFFFFFFFFFF⟩]⟩
  , ⟨"ARM.TCM_CE_CNT", 0xA0200, 0, 1, 0, 1, true, none, 0, some (1728, 0), [⟨63, 0, .cnt, 0, 0xFFFFFFFFFFFFFFFF⟩]⟩
  , ⟨"ARM.RESTART_CNT", 0xA0208, 0, 1, 0, 1, true, none, 0, some (1729, 0), [⟨63, 0, .cnt, 0, 0xFFFFFFFFFFFFFFFF⟩]⟩
  , ⟨"ARM.IMG_WIN", 0xA8000, 4, 8192, 0, 1, false, none, 0, none, [⟨31, 0, .rw, 0, 0xFFFFFFFF⟩]⟩ ]

/-- The MBX registers. -/
def regsMbx : List RegDesc :=
  [ ⟨"MBX.CMD_CNT", 0xA0210, 8, 4, 0, 1, true, none, 0, some (1730, 1), [⟨63, 0, .cnt, 0, 0xFFFFFFFFFFFFFFFF⟩]⟩
  , ⟨"MBX.REQ", 0xA1000, 4, 64, 0x400, 4, false, none, 0, none, [⟨31, 0, .wt, 0, 0xFFFFFFFF⟩]⟩
  , ⟨"MBX.RSP", 0xA1100, 4, 64, 0x400, 4, false, none, 0, none, [⟨31, 0, .ro, 0, 0xFFFFFFFF⟩]⟩
  , ⟨"MBX.DOORBELL", 0xA1200, 0x400, 4, 0, 1, false, none, 0, none, [⟨1, 1, .wt, 0, 1⟩, ⟨0, 0, .wt, 0, 1⟩]⟩
  , ⟨"MBX.STATUS", 0xA1204, 0x400, 4, 0, 1, false, none, 0x20000000, none, [⟨31, 30, .ro, 0, 3⟩, ⟨29, 29, .ro, 0, 1⟩, ⟨28, 28, .rc, 0, 1⟩, ⟨7, 0, .ro, 0, 0xFF⟩]⟩ ]

/-- The PWR registers. -/
def regsPwr : List RegDesc :=
  [ ⟨"PWR.STATE_CMD", 0xB0000, 0, 1, 0, 1, false, none, 0, none, [⟨31, 31, .wt, 0, 1⟩, ⟨30, 28, .ro, 0, 7⟩, ⟨27, 24, .ro, 0, 0xF⟩, ⟨1, 0, .rw, 0, 3⟩]⟩
  , ⟨"PWR.CFG", 0xB0004, 0, 1, 0, 1, false, none, 0x103E8, none, [⟨23, 16, .rw, 1, 0xFF⟩, ⟨15, 0, .rw, 0, 0xFFFF⟩]⟩
  , ⟨"PWR.STATUS", 0xB0008, 0, 1, 0, 1, false, none, 0, none, [⟨31, 30, .ro, 0, 3⟩, ⟨29, 29, .ro, 0, 1⟩, ⟨28, 28, .ro, 0, 1⟩, ⟨27, 27, .ro, 0, 1⟩, ⟨26, 26, .ro, 0, 1⟩, ⟨25, 25, .ro, 0, 1⟩, ⟨24, 24, .ro, 0, 1⟩, ⟨23, 23, .ro, 0, 1⟩]⟩
  , ⟨"PWR.DRAIN_LOG", 0xB0010, 0, 1, 0, 1, true, none, 0, none, [⟨63, 63, .ro, 0, 1⟩, ⟨62, 62, .ro, 0, 1⟩, ⟨61, 61, .ro, 0, 1⟩, ⟨59, 48, .ro, 0, 0xFFF⟩, ⟨47, 40, .ro, 0, 0xFF⟩, ⟨31, 0, .ro, 0, 0xFFFFFFFF⟩]⟩
  , ⟨"PWR.KEEP_LOG", 0xB0018, 0, 1, 0, 1, false, none, 0, none, [⟨31, 16, .rc, 0, 0xFFFF⟩]⟩
  , ⟨"PWR.TRANS_CNT", 0xB0100, 0, 1, 0, 1, true, none, 0, some (1792, 0), [⟨63, 0, .cnt, 0, 0xFFFFFFFFFFFFFFFF⟩]⟩
  , ⟨"PWR.PFAIL_CNT", 0xB0108, 0, 1, 0, 1, true, none, 0, some (1793, 0), [⟨63, 0, .cnt, 0, 0xFFFFFFFFFFFFFFFF⟩]⟩ ]

/-- The SCH registers. -/
def regsSch : List RegDesc :=
  [ ⟨"SCH.CTL", 0x100000, 0x40000, 16, 0, 1, false, none, 0x120, none, [⟨8, 8, .rw, 0, 1⟩, ⟨7, 0, .rw, 0, 0xFF⟩]⟩
  , ⟨"SCH.WDRAIN", 0x100004, 0x40000, 16, 0, 1, false, some 1, 0x480018, none, [⟨22, 16, .rws, 1, 0x60⟩, ⟨6, 0, .rws, 0, 0x5F⟩]⟩
  , ⟨"SCH.URG", 0x100008, 0x40000, 16, 0, 1, false, some 1, 0x644B32, none, [⟨22, 16, .rws, 0, 0x7F⟩, ⟨14, 8, .rws, 0, 0x7F⟩, ⟨6, 0, .rws, 0, 0x7F⟩]⟩
  , ⟨"SCH.PAGE", 0x10000C, 0x40000, 16, 0, 1, false, some 1, 0x104002, none, [⟨23, 16, .rws, 0, 0xFF⟩, ⟨15, 8, .rws, 1, 0xFF⟩, ⟨1, 0, .rws, 0, 2⟩]⟩
  , ⟨"SCH.PWR", 0x100010, 0x40000, 16, 0, 1, false, some 1, 0xFA, none, [⟨15, 0, .rws, 0, 0xFFFF⟩]⟩
  , ⟨"SCH.SRIDLE", 0x100014, 0x40000, 16, 0, 1, false, some 1, 0, none, [⟨19, 0, .rws, 0, 0xFFFFF⟩]⟩
  , ⟨"SCH.TGT_FRP", 0x100040, 8, 8, 0x40000, 16, true, some 1, 0x32006400FA0000, none, [⟨63, 48, .rws, 0, 0xFFFF⟩, ⟨47, 32, .rws, 0, 0xFFFF⟩, ⟨31, 16, .rws, 0, 0xFFFF⟩, ⟨15, 0, .rws, 0, 0xFFFF⟩]⟩
  , ⟨"SCH.TGT_ENG", 0x100080, 4, 6, 0x40000, 16, false, some 1, 0, none, [⟨31, 16, .rws, 0, 0xFFFF⟩, ⟨15, 0, .rws, 0, 0xFFFF⟩]⟩
  , ⟨"SCH.SPEED", 0x100100, 0x40000, 16, 0, 1, false, none, 0, none, [⟨3, 0, .rwh, 0, 0xE⟩]⟩
  , ⟨"SCH.TIM0", 0x100110, 0x40000, 16, 0, 1, false, none, 0xFFFFFFFF, none, [⟨31, 24, .rwh, 0, 0xFF⟩, ⟨23, 16, .rwh, 0, 0xFF⟩, ⟨15, 8, .rwh, 0, 0xFF⟩, ⟨7, 0, .rwh, 0, 0xFF⟩]⟩
  , ⟨"SCH.TIM1", 0x100114, 0x40000, 16, 0, 1, false, none, 0x1FFFFFF, none, [⟨24, 16, .rwh, 0, 0x1FF⟩, ⟨15, 8, .rwh, 0, 0xFF⟩, ⟨7, 0, .rwh, 0, 0xFF⟩]⟩
  , ⟨"SCH.TIM2", 0x100118, 0x40000, 16, 0, 1, false, none, 0xFFFFFFFF, none, [⟨31, 24, .rwh, 0, 0xFF⟩, ⟨23, 16, .rwh, 0, 0xFF⟩, ⟨15, 8, .rwh, 0, 0xFF⟩, ⟨7, 0, .rwh, 0, 0xFF⟩]⟩
  , ⟨"SCH.TIM3", 0x10011C, 0x40000, 16, 0, 1, false, none, 0xFFFFFFFF, none, [⟨31, 24, .rwh, 0, 0xFF⟩, ⟨23, 16, .rwh, 0, 0xFF⟩, ⟨15, 8, .rwh, 0, 0xFF⟩, ⟨7, 0, .rwh, 0, 0xFF⟩]⟩
  , ⟨"SCH.TIM4", 0x100120, 0x40000, 16, 0, 1, false, none, 0xFFFFFFFF, none, [⟨31, 24, .rwh, 0, 0xFF⟩, ⟨23, 16, .rwh, 0, 0xFF⟩, ⟨15, 8, .rwh, 0, 0xFF⟩, ⟨7, 0, .rwh, 0, 0xFF⟩]⟩
  , ⟨"SCH.TIM5", 0x100124, 0x40000, 16, 0, 1, false, none, 0xFFF0FFF, none, [⟨27, 16, .rwh, 0, 0xFFF⟩, ⟨11, 0, .rwh, 0, 0xFFF⟩]⟩
  , ⟨"SCH.FLR0", 0x100130, 0x40000, 16, 0, 1, false, none, 0, none, [⟨31, 24, .ro, 0, 0xFF⟩, ⟨23, 16, .ro, 0, 0xFF⟩, ⟨15, 8, .ro, 0, 0xFF⟩, ⟨7, 0, .ro, 0, 0xFF⟩]⟩
  , ⟨"SCH.FLR1", 0x100134, 0x40000, 16, 0, 1, false, none, 0, none, [⟨24, 16, .ro, 0, 0x1FF⟩, ⟨15, 8, .ro, 0, 0xFF⟩, ⟨7, 0, .ro, 0, 0xFF⟩]⟩
  , ⟨"SCH.FLR2", 0x100138, 0x40000, 16, 0, 1, false, none, 0, none, [⟨31, 24, .ro, 0, 0xFF⟩, ⟨23, 16, .ro, 0, 0xFF⟩, ⟨15, 8, .ro, 0, 0xFF⟩, ⟨7, 0, .ro, 0, 0xFF⟩]⟩
  , ⟨"SCH.FLR3", 0x10013C, 0x40000, 16, 0, 1, false, none, 0, none, [⟨31, 24, .ro, 0, 0xFF⟩, ⟨23, 16, .ro, 0, 0xFF⟩, ⟨15, 8, .ro, 0, 0xFF⟩, ⟨7, 0, .ro, 0, 0xFF⟩]⟩
  , ⟨"SCH.FLR4", 0x100140, 0x40000, 16, 0, 1, false, none, 0, none, [⟨31, 24, .ro, 0, 0xFF⟩, ⟨23, 16, .ro, 0, 0xFF⟩, ⟨15, 8, .ro, 0, 0xFF⟩, ⟨7, 0, .ro, 0, 0xFF⟩]⟩
  , ⟨"SCH.FLR5", 0x100144, 0x40000, 16, 0, 1, false, none, 0, none, [⟨27, 16, .ro, 0, 0xFFF⟩, ⟨11, 0, .ro, 0, 0xFFF⟩]⟩
  , ⟨"SCH.HOLD", 0x100200, 0x40000, 16, 0, 1, false, none, 0, none, [⟨1, 1, .wt, 0, 1⟩, ⟨0, 0, .wt, 0, 1⟩]⟩
  , ⟨"SCH.HOLD_STATUS", 0x100204, 0x40000, 16, 0, 1, false, none, 0, none, [⟨10, 8, .ro, 0, 7⟩, ⟨5, 5, .ro, 0, 1⟩, ⟨4, 4, .ro, 0, 1⟩, ⟨1, 0, .ro, 0, 3⟩]⟩
  , ⟨"SCH.REL_ERR", 0x100208, 0x40000, 16, 0, 1, false, none, 0, none, [⟨31, 31, .rc, 0, 1⟩, ⟨4, 0, .rc, 0, 0x1F⟩]⟩
  , ⟨"SCH.QSTATUS", 0x10020C, 0x40000, 16, 0, 1, false, none, 0, none, [⟨31, 25, .ro, 0, 0x7F⟩, ⟨24, 18, .ro, 0, 0x7F⟩, ⟨17, 16, .ro, 0, 3⟩, ⟨7, 0, .ro, 0, 0xFF⟩]⟩
  , ⟨"SCH.RANK_PWR", 0x100210, 0x40000, 16, 0, 1, true, none, 0, none, [⟨63, 0, .ro, 0, 0xFFFFFFFFFFFFFFFF⟩]⟩
  , ⟨"SCH.RD_CNT", 0x100300, 0x40000, 16, 0, 1, true, none, 0, some (0, 0), [⟨63, 0, .cnt, 0, 0xFFFFFFFFFFFFFFFF⟩]⟩
  , ⟨"SCH.WR_CNT", 0x100308, 0x40000, 16, 0, 1, true, none, 0, some (1, 0), [⟨63, 0, .cnt, 0, 0xFFFFFFFFFFFFFFFF⟩]⟩
  , ⟨"SCH.ACT_CNT", 0x100310, 0x40000, 16, 0, 1, true, none, 0, some (2, 0), [⟨63, 0, .cnt, 0, 0xFFFFFFFFFFFFFFFF⟩]⟩
  , ⟨"SCH.ROWHIT_CNT", 0x100318, 0x40000, 16, 0, 1, true, none, 0, some (3, 0), [⟨63, 0, .cnt, 0, 0xFFFFFFFFFFFFFFFF⟩]⟩
  , ⟨"SCH.DRAIN_CNT", 0x100320, 0x40000, 16, 0, 1, true, none, 0, some (4, 0), [⟨63, 0, .cnt, 0, 0xFFFFFFFFFFFFFFFF⟩]⟩
  , ⟨"SCH.BREAKIN_CNT", 0x100328, 0x40000, 16, 0, 1, true, none, 0, some (5, 0), [⟨63, 0, .cnt, 0, 0xFFFFFFFFFFFFFFFF⟩]⟩
  , ⟨"SCH.URG3_CNT", 0x100330, 0x40000, 16, 0, 1, true, none, 0, some (6, 0), [⟨63, 0, .cnt, 0, 0xFFFFFFFFFFFFFFFF⟩]⟩
  , ⟨"SCH.HAZARD_CNT", 0x100338, 0x40000, 16, 0, 1, true, none, 0, some (7, 0), [⟨63, 0, .cnt, 0, 0xFFFFFFFFFFFFFFFF⟩]⟩
  , ⟨"SCH.PDX_CNT", 0x100340, 0x40000, 16, 0, 1, true, none, 0, some (8, 0), [⟨63, 0, .cnt, 0, 0xFFFFFFFFFFFFFFFF⟩]⟩
  , ⟨"SCH.SRX_CNT", 0x100348, 0x40000, 16, 0, 1, true, none, 0, some (9, 0), [⟨63, 0, .cnt, 0, 0xFFFFFFFFFFFFFFFF⟩]⟩
  , ⟨"SCH.SRE_ABANDON_CNT", 0x100350, 0x40000, 16, 0, 1, true, none, 0, some (10, 0), [⟨63, 0, .cnt, 0, 0xFFFFFFFFFFFFFFFF⟩]⟩ ]

/-- The REF registers. -/
def regsRef : List RegDesc :=
  [ ⟨"REF.CFG", 0x100400, 0x40000, 16, 0, 1, false, some 3, 0x40000, none, [⟨29, 20, .rws, 0, 0x3FF⟩, ⟨19, 12, .rws, 0x10, 0xFF⟩, ⟨8, 8, .rws, 0, 1⟩, ⟨1, 0, .rws, 0, 2⟩]⟩
  , ⟨"REF.PERIOD", 0x100404, 0x40000, 16, 0, 1, false, some 3, 0x78783C0, none, [⟨29, 20, .rws, 0, 0x3FF⟩, ⟨19, 10, .rws, 0, 0x3FF⟩, ⟨9, 0, .rws, 0, 0x3FF⟩]⟩
  , ⟨"REF.PHASE", 0x100408, 0x40000, 16, 0, 1, false, some 3, 0, none, [⟨11, 0, .rws, 0, 0xFFF⟩]⟩
  , ⟨"REF.RT", 0x10040C, 0x40000, 16, 0, 1, false, some 3, 0x108, none, [⟨8, 8, .rws, 0, 1⟩, ⟨3, 0, .rws, 0, 0xF⟩]⟩
  , ⟨"REF.TEMP", 0x100410, 0x40000, 16, 0, 1, false, none, 0x5504, none, [⟨15, 8, .rw, 0, 0xFF⟩, ⟨7, 0, .rw, 1, 0xFF⟩]⟩
  , ⟨"REF.STATUS", 0x100414, 0x40000, 16, 0, 1, false, none, 0xA4000000, none, [⟨31, 30, .ro, 0, 3⟩, ⟨29, 28, .ro, 0, 3⟩, ⟨27, 27, .ro, 0, 1⟩, ⟨26, 26, .ro, 0, 1⟩]⟩
  , ⟨"REF.ERR", 0x100418, 0x40000, 16, 0, 1, false, none, 0, none, [⟨31, 31, .rc, 0, 1⟩, ⟨3, 0, .rc, 0, 0xF⟩]⟩
  , ⟨"REF.QWF_GEN", 0x10041C, 0x40000, 16, 0, 1, false, none, 0, none, [⟨15, 0, .ro, 0, 0xFFFF⟩]⟩
  , ⟨"REF.TRFC", 0x100420, 0x40000, 16, 0, 1, true, none, 0xFFFFFFFFF, none, [⟨35, 24, .rwh, 0, 0xFFF⟩, ⟨23, 12, .rwh, 0, 0xFFF⟩, ⟨11, 0, .rwh, 0, 0xFFF⟩]⟩
  , ⟨"REF.TRFC_FLR", 0x100428, 0x40000, 16, 0, 1, true, none, 0, none, [⟨35, 24, .ro, 0, 0xFFF⟩, ⟨23, 12, .ro, 0, 0xFFF⟩, ⟨11, 0, .ro, 0, 0xFFF⟩]⟩
  , ⟨"REF.OWED0", 0x100430, 0x40000, 16, 0, 1, true, none, 0, none, [⟨63, 0, .ro, 0, 0xFFFFFFFFFFFFFFFF⟩]⟩
  , ⟨"REF.OWED1", 0x100438, 0x40000, 16, 0, 1, true, none, 0, none, [⟨63, 0, .ro, 0, 0xFFFFFFFFFFFFFFFF⟩]⟩
  , ⟨"REF.NEXT_RETRAIN", 0x100440, 0x40000, 16, 0, 1, true, none, 0, none, [⟨63, 16, .ro, 0, 0xFFFFFFFFFFFF⟩, ⟨11, 0, .ro, 0, 0xFFF⟩]⟩
  , ⟨"REF.REF_CNT", 0x100500, 0x40000, 16, 0, 1, true, none, 0, some (11, 0), [⟨63, 0, .cnt, 0, 0xFFFFFFFFFFFFFFFF⟩]⟩
  , ⟨"REF.POST_CNT", 0x100508, 0x40000, 16, 0, 1, true, none, 0, some (12, 0), [⟨63, 0, .cnt, 0, 0xFFFFFFFFFFFFFFFF⟩]⟩
  , ⟨"REF.CATCHUP_CNT", 0x100510, 0x40000, 16, 0, 1, true, none, 0, some (13, 0), [⟨63, 0, .cnt, 0, 0xFFFFFFFFFFFFFFFF⟩]⟩
  , ⟨"REF.BACKSTOP_CNT", 0x100518, 0x40000, 16, 0, 1, true, none, 0, some (14, 0), [⟨63, 0, .cnt, 0, 0xFFFFFFFFFFFFFFFF⟩]⟩
  , ⟨"REF.SLIP_CNT", 0x100520, 0x40000, 16, 0, 1, true, none, 0, some (15, 0), [⟨63, 0, .cnt, 0, 0xFFFFFFFFFFFFFFFF⟩]⟩
  , ⟨"REF.QWF", 0x100600, 8, 64, 0x40000, 16, true, none, 0x8000, none, [⟨63, 16, .ro, 0, 0xFFFFFFFFFFFF⟩, ⟨15, 14, .ro, 0, 3⟩, ⟨13, 12, .ro, 0, 3⟩, ⟨11, 0, .ro, 0, 0xFFF⟩]⟩ ]

/-- The DST registers. -/
def regsDst : List RegDesc :=
  [ ⟨"DST.CFG", 0x100480, 0x40000, 16, 0, 1, false, some 3, 0x80800, none, [⟨19, 16, .rws, 4, 0xC⟩, ⟨15, 0, .rws, 0x100, 0xFFFF⟩]⟩
  , ⟨"DST.STATUS", 0x100484, 0x40000, 16, 0, 1, false, none, 0, none, [⟨31, 31, .ro, 0, 1⟩, ⟨30, 29, .ro, 0, 3⟩, ⟨16, 8, .ro, 0, 0x1FF⟩, ⟨7, 0, .ro, 0, 0xFF⟩]⟩
  , ⟨"DST.NREF_CNT", 0x100528, 0x40000, 16, 0, 1, true, none, 0, some (16, 0), [⟨63, 0, .cnt, 0, 0xFFFFFFFFFFFFFFFF⟩]⟩
  , ⟨"DST.SPILL_CNT", 0x100530, 0x40000, 16, 0, 1, true, none, 0, some (17, 0), [⟨63, 0, .cnt, 0, 0xFFFFFFFFFFFFFFFF⟩]⟩
  , ⟨"DST.RFM_CNT", 0x100538, 0x40000, 16, 0, 1, true, none, 0, some (18, 0), [⟨63, 0, .cnt, 0, 0xFFFFFFFFFFFFFFFF⟩]⟩
  , ⟨"DST.RFM_WAIT_CNT", 0x100540, 0x40000, 16, 0, 1, true, none, 0, some (19, 0), [⟨63, 0, .cnt, 0, 0xFFFFFFFFFFFFFFFF⟩]⟩ ]

/-- The PHY registers. -/
def regsPhy : List RegDesc :=
  [ ⟨"PHY.CFG", 0x101000, 0x40000, 16, 0, 1, false, none, 0x18, none, [⟨4, 4, .rwh, 0, 1⟩, ⟨3, 3, .rwh, 0, 1⟩, ⟨2, 2, .rwh, 0, 1⟩, ⟨1, 1, .rwh, 0, 1⟩, ⟨0, 0, .rwh, 0, 1⟩]⟩
  , ⟨"PHY.STATUS", 0x101004, 0x40000, 16, 0, 1, false, none, 0x10000000, none, [⟨31, 31, .ro, 0, 1⟩, ⟨30, 29, .ro, 0, 3⟩, ⟨28, 28, .ro, 0, 1⟩, ⟨3, 0, .ro, 0, 0xF⟩]⟩
  , ⟨"PHY.TRAIN", 0x101008, 0x40000, 16, 0, 1, false, none, 0, none, [⟨2, 1, .wt, 0, 3⟩, ⟨0, 0, .wt, 0, 1⟩]⟩
  , ⟨"PHY.TRAIN_STATUS", 0x10100C, 0x40000, 16, 0, 1, false, none, 0, none, [⟨31, 31, .ro, 0, 1⟩, ⟨30, 30, .ro, 0, 1⟩, ⟨29, 26, .ro, 0, 0xF⟩, ⟨25, 24, .ro, 0, 3⟩, ⟨23, 23, .ro, 0, 1⟩, ⟨22, 19, .ro, 0, 0xF⟩]⟩
  , ⟨"PHY.ALERT_CFG", 0x101010, 0x40000, 16, 0, 1, false, none, 0x350, none, [⟨11, 8, .rw, 1, 0xF⟩, ⟨7, 0, .rw, 0x10, 0xFF⟩]⟩
  , ⟨"PHY.ALERT_STATUS", 0x101014, 0x40000, 16, 0, 1, false, none, 0, none, [⟨31, 31, .rc, 0, 1⟩, ⟨30, 30, .rc, 0, 1⟩, ⟨29, 29, .rc, 0, 1⟩, ⟨28, 28, .rc, 0, 1⟩, ⟨3, 0, .rc, 0, 0xF⟩]⟩
  , ⟨"PHY.RT_CFG", 0x101018, 0x40000, 16, 0, 1, false, some 3, 0x83E8003C, none, [⟨31, 31, .rws, 0, 1⟩, ⟨27, 16, .rws, 1, 0xFFF⟩, ⟨9, 0, .rws, 1, 0x3FF⟩]⟩
  , ⟨"PHY.LSEL", 0x10101C, 0x40000, 16, 0, 1, false, none, 0, none, [⟨9, 8, .rw, 0, 3⟩, ⟨6, 6, .rw, 0, 1⟩, ⟨5, 0, .rw, 0, 0x27⟩]⟩
  , ⟨"PHY.LDATA", 0x101020, 0x40000, 16, 0, 1, true, none, 0, none, [⟨55, 48, .ro, 0, 0xFF⟩, ⟨47, 44, .ro, 0, 0xF⟩, ⟨43, 40, .ro, 0, 0xF⟩, ⟨39, 30, .ro, 0, 0x3FF⟩, ⟨29, 20, .ro, 0, 0x3FF⟩, ⟨19, 10, .ro, 0, 0x3FF⟩, ⟨9, 0, .ro, 0, 0x3FF⟩]⟩
  , ⟨"PHY.FTRIM", 0x101040, 4, 20, 0x40000, 16, false, none, 0, none, [⟨23, 16, .otp, 0, 0xFF⟩, ⟨15, 8, .otp, 0, 0xFF⟩, ⟨7, 0, .otp, 0, 0xFF⟩]⟩
  , ⟨"PHY.UTRIM", 0x101090, 4, 20, 0x40000, 16, false, none, 0, none, [⟨23, 16, .rw, 0, 0xFF⟩, ⟨15, 8, .rw, 0, 0xFF⟩, ⟨7, 0, .rw, 0, 0xFF⟩]⟩
  , ⟨"PHY.KEEP_STATUS", 0x101180, 0x40000, 16, 0, 1, false, none, 0xA0000000, none, [⟨31, 31, .ro, 0, 1⟩, ⟨30, 30, .ro, 0, 1⟩, ⟨29, 29, .ro, 0, 1⟩, ⟨15, 0, .ro, 0, 0xFFFF⟩]⟩
  , ⟨"PHY.KEEP_CTL", 0x101184, 0x40000, 16, 0, 1, false, none, 0, none, [⟨3, 3, .wt, 0, 1⟩, ⟨2, 2, .wt, 0, 1⟩, ⟨1, 1, .wt, 0, 1⟩, ⟨0, 0, .wt, 0, 1⟩]⟩
  , ⟨"PHY.ALERT_CNT", 0x101300, 0x40000, 16, 0, 1, true, none, 0, some (20, 0), [⟨63, 0, .cnt, 0, 0xFFFFFFFFFFFFFFFF⟩]⟩
  , ⟨"PHY.REPLAY_CNT", 0x101308, 0x40000, 16, 0, 1, true, none, 0, some (21, 0), [⟨63, 0, .cnt, 0, 0xFFFFFFFFFFFFFFFF⟩]⟩
  , ⟨"PHY.RT_CNT", 0x101310, 0x40000, 16, 0, 1, true, none, 0, some (22, 0), [⟨63, 0, .cnt, 0, 0xFFFFFFFFFFFFFFFF⟩]⟩
  , ⟨"PHY.RT_CUT_CNT", 0x101318, 0x40000, 16, 0, 1, true, none, 0, some (23, 0), [⟨63, 0, .cnt, 0, 0xFFFFFFFFFFFFFFFF⟩]⟩ ]

/-- The PRB registers. -/
def regsPrb : List RegDesc :=
  [ ⟨"PRB.CFG", 0x101100, 0x40000, 16, 0, 1, false, some 3, 0xC020F00A, none, [⟨31, 31, .rws, 0, 1⟩, ⟨30, 27, .rws, 1, 0xF⟩, ⟨26, 19, .rws, 1, 0xFF⟩, ⟨18, 10, .rws, 1, 0x1FF⟩, ⟨9, 0, .rws, 1, 0x3FF⟩]⟩
  , ⟨"PRB.LIM", 0x101104, 0x40000, 16, 0, 1, false, some 3, 0x10000020, none, [⟨31, 16, .rws, 1, 0xFFFF⟩, ⟨5, 0, .rws, 8, 0x3F⟩]⟩
  , ⟨"PRB.STATUS", 0x101108, 0x40000, 16, 0, 1, false, none, 0, none, [⟨31, 31, .ro, 0, 1⟩, ⟨30, 30, .ro, 0, 1⟩, ⟨29, 28, .ro, 0, 3⟩, ⟨27, 27, .ro, 0, 1⟩, ⟨26, 23, .ro, 0, 0xF⟩, ⟨22, 22, .ro, 0, 1⟩, ⟨21, 18, .ro, 0, 0xF⟩]⟩
  , ⟨"PRB.ESEL", 0x10110C, 0x40000, 16, 0, 1, false, none, 0, none, [⟨7, 6, .rw, 0, 3⟩, ⟨5, 5, .rw, 0, 1⟩, ⟨3, 0, .rw, 0, 9⟩]⟩
  , ⟨"PRB.EDATA", 0x101110, 0x40000, 16, 0, 1, true, none, 0, none, [⟨63, 0, .ro, 0, 0xFFFFFFFFFFFFFFFF⟩]⟩
  , ⟨"PRB.DWELL_CNT", 0x101320, 0x40000, 16, 0, 1, true, none, 0, some (24, 0), [⟨63, 0, .cnt, 0, 0xFFFFFFFFFFFFFFFF⟩]⟩
  , ⟨"PRB.ABORT_CNT", 0x101328, 0x40000, 16, 0, 1, true, none, 0, some (25, 0), [⟨63, 0, .cnt, 0, 0xFFFFFFFFFFFFFFFF⟩]⟩
  , ⟨"PRB.THIN_CNT", 0x101330, 0x40000, 16, 0, 1, true, none, 0, some (26, 0), [⟨63, 0, .cnt, 0, 0xFFFFFFFFFFFFFFFF⟩]⟩
  , ⟨"PRB.BIT_CNT", 0x101338, 0x40000, 16, 0, 1, true, none, 0, some (27, 0), [⟨63, 0, .cnt, 0, 0xFFFFFFFFFFFFFFFF⟩]⟩
  , ⟨"PRB.MISS_CNT", 0x101340, 0x40000, 16, 0, 1, true, none, 0, some (28, 0), [⟨63, 0, .cnt, 0, 0xFFFFFFFFFFFFFFFF⟩]⟩
  , ⟨"PRB.REREAD_CNT", 0x101348, 0x40000, 16, 0, 1, true, none, 0, some (29, 0), [⟨63, 0, .cnt, 0, 0xFFFFFFFFFFFFFFFF⟩]⟩ ]

/-- The SBI registers. -/
def regsSbi : List RegDesc :=
  [ ⟨"SBI.CFG", 0x101200, 0x40000, 16, 0, 1, false, none, 0, none, [⟨14, 12, .rw, 0, 7⟩, ⟨10, 8, .rw, 0, 7⟩, ⟨4, 4, .rw, 0, 1⟩, ⟨3, 2, .rw, 0, 2⟩, ⟨1, 0, .rw, 0, 2⟩]⟩
  , ⟨"SBI.CMD", 0x101204, 0x40000, 16, 0, 1, false, none, 0, none, [⟨31, 31, .wt, 0, 1⟩, ⟨30, 30, .rw, 0, 1⟩, ⟨29, 29, .rw, 0, 1⟩, ⟨28, 25, .rw, 0, 0xF⟩, ⟨24, 23, .rw, 0, 2⟩, ⟨10, 0, .rw, 0, 0x7FF⟩]⟩
  , ⟨"SBI.DATA", 0x101208, 0x40000, 16, 0, 1, false, none, 0, none, [⟨31, 0, .rw, 0, 0xFFFFFFFF⟩]⟩
  , ⟨"SBI.STATUS", 0x10120C, 0x40000, 16, 0, 1, false, none, 0, none, [⟨31, 31, .ro, 0, 1⟩, ⟨30, 28, .ro, 0, 7⟩]⟩
  , ⟨"SBI.XFER_CNT", 0x101350, 0x40000, 16, 0, 1, true, none, 0, some (30, 0), [⟨63, 0, .cnt, 0, 0xFFFFFFFFFFFFFFFF⟩]⟩
  , ⟨"SBI.ERR_CNT", 0x101358, 0x40000, 16, 0, 1, true, none, 0, some (31, 0), [⟨63, 0, .cnt, 0, 0xFFFFFFFFFFFFFFFF⟩]⟩ ]

/-- The CODE registers. -/
def regsCode : List RegDesc :=
  [ ⟨"CODE.CFG", 0x102000, 0x40000, 16, 0, 1, false, some 6, 0x110FA, none, [⟨31, 31, .lk, 0, 1⟩, ⟨17, 17, .rws, 0, 1⟩, ⟨16, 16, .rws, 0, 1⟩, ⟨15, 8, .rws, 1, 0xFF⟩, ⟨7, 0, .rws, 1, 0xFF⟩]⟩
  , ⟨"CODE.MARK", 0x102010, 4, 8, 0x40000, 16, false, none, 0, none, [⟨31, 30, .ro, 0, 3⟩, ⟨15, 15, .rw, 0, 1⟩, ⟨14, 14, .ro, 0, 1⟩, ⟨11, 8, .rw, 0, 0xF⟩, ⟨7, 7, .rw, 0, 1⟩, ⟨6, 6, .ro, 0, 1⟩, ⟨3, 0, .rw, 0, 0xF⟩]⟩
  , ⟨"CODE.CHIPCE", 0x102040, 4, 80, 0x40000, 16, false, none, 0, none, [⟨31, 0, .rc, 0, 0xFFFFFFFF⟩]⟩
  , ⟨"CODE.ECS_CFG", 0x102180, 0x40000, 16, 0, 1, false, none, 0x1003C, none, [⟨23, 8, .rw, 0, 0xFFFF⟩, ⟨7, 0, .rw, 1, 0xFF⟩]⟩
  , ⟨"CODE.ECS_SEL", 0x102184, 0x40000, 16, 0, 1, false, none, 0, none, [⟨12, 8, .rw, 0, 0x1F⟩, ⟨4, 4, .rw, 0, 1⟩, ⟨3, 0, .rw, 0, 9⟩]⟩
  , ⟨"CODE.ECS_DATA", 0x102188, 0x40000, 16, 0, 1, true, none, 0, none, [⟨63, 63, .ro, 0, 1⟩, ⟨62, 60, .ro, 0, 7⟩, ⟨59, 58, .ro, 0, 3⟩, ⟨57, 40, .ro, 0, 0x3FFFF⟩, ⟨39, 32, .ro, 0, 0xFF⟩, ⟨31, 0, .ro, 0, 0xFFFFFFFF⟩]⟩
  , ⟨"CODE.RAW_ADDR", 0x102500, 0x40000, 16, 0, 1, true, none, 0, none, [⟨47, 6, .rw, 0, 0x3FFFFFFFFFF⟩]⟩
  , ⟨"CODE.RAW_DATA", 0x102508, 8, 10, 0x40000, 16, true, none, 0, none, [⟨63, 0, .rw, 0, 0xFFFFFFFFFFFFFFFF⟩]⟩
  , ⟨"CODE.RAW_CMD", 0x102560, 0x40000, 16, 0, 1, false, none, 0, none, [⟨31, 31, .ro, 0, 1⟩, ⟨30, 28, .ro, 0, 7⟩, ⟨1, 1, .rw, 0, 1⟩, ⟨0, 0, .wt, 0, 1⟩]⟩
  , ⟨"CODE.CE_CNT", 0x102700, 0x40000, 16, 0, 1, true, none, 0, some (32, 0), [⟨63, 0, .cnt, 0, 0xFFFFFFFFFFFFFFFF⟩]⟩
  , ⟨"CODE.UE_CNT", 0x102708, 0x40000, 16, 0, 1, true, none, 0, some (33, 0), [⟨63, 0, .cnt, 0, 0xFFFFFFFFFFFFFFFF⟩]⟩
  , ⟨"CODE.POISON_CNT", 0x102710, 0x40000, 16, 0, 1, true, none, 0, some (34, 0), [⟨63, 0, .cnt, 0, 0xFFFFFFFFFFFFFFFF⟩]⟩
  , ⟨"CODE.SRAM_CE_CNT", 0x102750, 0x40000, 16, 0, 1, true, none, 0, some (42, 0), [⟨63, 0, .cnt, 0, 0xFFFFFFFFFFFFFFFF⟩]⟩ ]

/-- The GLU registers. -/
def regsGlu : List RegDesc :=
  [ ⟨"GLU.CFG", 0x102200, 0x40000, 16, 0, 1, false, none, 0x20, none, [⟨7, 0, .rw, 0, 0xFF⟩]⟩
  , ⟨"GLU.FULL_CNT", 0x102718, 0x40000, 16, 0, 1, true, none, 0, some (35, 0), [⟨63, 0, .cnt, 0, 0xFFFFFFFFFFFFFFFF⟩]⟩
  , ⟨"GLU.MERGE_CNT", 0x102720, 0x40000, 16, 0, 1, true, none, 0, some (36, 0), [⟨63, 0, .cnt, 0, 0xFFFFFFFFFFFFFFFF⟩]⟩
  , ⟨"GLU.HALF_CNT", 0x102728, 0x40000, 16, 0, 1, true, none, 0, some (37, 0), [⟨63, 0, .cnt, 0, 0xFFFFFFFFFFFFFFFF⟩]⟩ ]

/-- The SCR registers. -/
def regsScr : List RegDesc :=
  [ ⟨"SCR.CFG", 0x102300, 0x40000, 16, 0, 1, false, none, 0, none, [⟨0, 0, .rw, 0, 1⟩]⟩
  , ⟨"SCR.INTERVAL", 0x102304, 0x40000, 16, 0, 1, false, none, 0xF4240, none, [⟨31, 0, .rw, 0x3E8, 0xFFFFFFFF⟩]⟩
  , ⟨"SCR.STATUS", 0x102308, 0x40000, 16, 0, 1, false, none, 0, none, [⟨31, 31, .ro, 0, 1⟩, ⟨30, 30, .ro, 0, 1⟩, ⟨6, 0, .ro, 0, 0x7F⟩]⟩
  , ⟨"SCR.CURSOR", 0x102310, 0x40000, 16, 0, 1, true, none, 0, none, [⟨47, 0, .ro, 0, 0xFFFFFFFFFFFF⟩]⟩
  , ⟨"SCR.LAST_PASS", 0x102318, 0x40000, 16, 0, 1, false, none, 0, none, [⟨31, 0, .ro, 0, 0xFFFFFFFF⟩]⟩
  , ⟨"SCR.DIAG_START", 0x102320, 0x40000, 16, 0, 1, true, none, 0, none, [⟨47, 6, .rw, 0, 0x3FFFFFFFFFF⟩]⟩
  , ⟨"SCR.DIAG_END", 0x102328, 0x40000, 16, 0, 1, true, none, 0, none, [⟨47, 6, .rw, 0, 0x3FFFFFFFFFF⟩]⟩
  , ⟨"SCR.DIAG_CMD", 0x102330, 0x40000, 16, 0, 1, false, none, 0, none, [⟨31, 31, .ro, 0, 1⟩, ⟨30, 28, .ro, 0, 7⟩, ⟨3, 2, .rw, 0, 3⟩, ⟨0, 0, .wt, 0, 1⟩]⟩
  , ⟨"SCR.DIAG_MISS", 0x102334, 0x40000, 16, 0, 1, false, none, 0, none, [⟨31, 0, .rc, 0, 0xFFFFFFFF⟩]⟩
  , ⟨"SCR.LINE_CNT", 0x102730, 0x40000, 16, 0, 1, true, none, 0, some (38, 0), [⟨63, 0, .cnt, 0, 0xFFFFFFFFFFFFFFFF⟩]⟩
  , ⟨"SCR.FIX_CNT", 0x102738, 0x40000, 16, 0, 1, true, none, 0, some (39, 0), [⟨63, 0, .cnt, 0, 0xFFFFFFFFFFFFFFFF⟩]⟩
  , ⟨"SCR.PASS_CNT", 0x102740, 0x40000, 16, 0, 1, true, none, 0, some (40, 0), [⟨63, 0, .cnt, 0, 0xFFFFFFFFFFFFFFFF⟩]⟩ ]

/-- The INL registers. -/
def regsInl : List RegDesc :=
  [ ⟨"INL.STATUS", 0x102600, 0x40000, 16, 0, 1, false, none, 0, none, [⟨31, 31, .ro, 0, 1⟩, ⟨28, 16, .ro, 0, 0x1FFF⟩, ⟨12, 0, .ro, 0, 0x1FFF⟩]⟩
  , ⟨"INL.COPY", 0x102608, 0x40000, 16, 0, 1, true, none, 0, none, [⟨63, 63, .wt, 0, 1⟩, ⟨62, 61, .ro, 0, 3⟩, ⟨60, 60, .rw, 0, 1⟩, ⟨59, 55, .rw, 0, 0x1F⟩, ⟨54, 52, .rw, 0, 7⟩, ⟨51, 50, .rw, 0, 3⟩, ⟨49, 32, .rw, 0, 0x3FFFF⟩, ⟨17, 0, .rw, 0, 0x3FFFF⟩]⟩
  , ⟨"INL.PPR", 0x102610, 0x40000, 16, 0, 1, true, none, 0, none, [⟨63, 63, .wt, 0, 1⟩, ⟨62, 60, .ro, 0, 7⟩, ⟨59, 59, .rw, 0, 1⟩, ⟨40, 40, .rw, 0, 1⟩, ⟨39, 35, .rw, 0, 0x1F⟩, ⟨34, 32, .rw, 0, 7⟩, ⟨31, 30, .rw, 0, 3⟩, ⟨29, 12, .rw, 0, 0x3FFFF⟩]⟩
  , ⟨"INL.HIT_CNT", 0x102748, 0x40000, 16, 0, 1, true, none, 0, some (41, 0), [⟨63, 0, .cnt, 0, 0xFFFFFFFFFFFFFFFF⟩]⟩
  , ⟨"INL.ENTRY", 0x108000, 8, 4096, 0x40000, 16, true, none, 0, none, [⟨63, 63, .lk, 0, 1⟩, ⟨62, 62, .lk, 0, 1⟩, ⟨61, 61, .ro, 0, 1⟩, ⟨40, 40, .lk, 0, 1⟩, ⟨39, 35, .lk, 0, 0x1F⟩, ⟨34, 32, .lk, 0, 7⟩, ⟨31, 30, .lk, 0, 3⟩, ⟨29, 12, .lk, 0, 0x3FFFF⟩, ⟨3, 0, .lk, 0, 0xF⟩]⟩ ]

/-- The registers of the block that holds an offset (R446). -/
def regsOfBlock (off : Nat) : List RegDesc :=
  if off < 0x10000 then regsTop
  else if off < 0x20000 then regsEvt
  else if off < 0x30000 then regsFlt
  else if off < 0x40000 then regsJrn
  else if off < 0x48000 then regsAdm
  else if off < 0x48800 then regsFrp
  else if off < 0x50000 then regsNtc
  else if off < 0x60000 then regsMap
  else if off < 0x70000 then regsVnr
  else if off < 0x80000 then regsCur
  else if off < 0x90000 then regsTir
  else if off < 0xA0000 then regsTen
  else if off < 0xB0000 then regsArm ++ regsMbx
  else if off < 0xC0000 then regsPwr
  else if off < 0x100000 then []
  else if off < 0x500000 then
    let o := (off - 0x100000) % 0x40000
    if o < 0x400 then regsSch
    else if o < 0x1000 then regsRef ++ regsDst
    else if o < 0x2000 then regsPhy ++ regsPrb ++ regsSbi
    else regsCode ++ regsGlu ++ regsScr ++ regsInl
  else []

/-- A register found at an offset: its row, its two indices, its reference and whether the offset is that of the high
word of a 64-bit register. -/
structure RegHit where
  desc : RegDesc
  i    : Nat
  j    : Nat
  ref  : RegRef
  high : Bool
deriving DecidableEq, Repr

/-- The reset value of a register that differs by index (MAP.CHASH, SCH.TGT_ENG, SBI.CFG, VNR.RGN, FLT.CFG). -/
def regRst (d : RegDesc) (i : Nat) : Word64 :=
  if d.base = 0x50010 then (rMapChash i).rst
  else if d.base = 0x100080 then (rSchTgtEng 0 i).rst
  else if d.base = 0x101200 then (rSbiCfg i).rst
  else if d.base = 0x61000 then (rVnrRgnA i).rst
  else if d.base = 0x61008 then (rVnrRgnB i).rst
  else if d.base = 0x20000 then (rFltCfg i).rst
  else d.rst

/-- The offset as one of the replicas of a register heading. -/
def regMatch (off : Nat) (d : RegDesc) : Option RegHit :=
  if off < d.base then none
  else
    let r := off - d.base
    let j := if d.c2 = 1 then 0 else r / d.s2
    let r := r - j * d.s2
    let i := if d.c1 = 1 then 0 else r / d.s1
    let r := r - i * d.s1
    if j < d.c2 ∧ i < d.c1 ∧ (r = 0 ∨ (d.wide = true ∧ r = 4)) then
      some ⟨d, i, j, ⟨d.base + i * d.s1 + j * d.s2, regRst d i⟩, decide (r = 4)⟩
    else none

/-- The register at an offset; `none` where the offset is unmapped (R447). -/
def regFind (off : Nat) : Option RegHit := (regsOfBlock off).findSome? (regMatch off)

/-- The bits of a register that some field covers. -/
def fieldBits (d : RegDesc) : Word64 :=
  d.fields.foldl (fun m f => m ||| fieldMask f.hi f.lo) 0

/-- The RP bits of a register: those no field covers (R452). -/
def rpBits (d : RegDesc) : Word64 :=
  ~~~ fieldBits d &&& (if d.wide then BitVec.allOnes 64 else 0xFFFF_FFFF)

/-- The bits of a register whose fields have the given access type. -/
def accBits (a : Acc) (d : RegDesc) : Word64 :=
  d.fields.foldl (fun m f => if f.acc = a then m ||| fieldMask f.hi f.lo else m) 0

/-- `new` with every field that would take a reserved value kept at its value in `old` (R20). -/
def keepReserved (d : RegDesc) (old new : Word64) : Word64 :=
  d.fields.foldl
    (fun v f =>
      let x := fieldOf new f.hi f.lo
      if f.min ≤ x ∧ x ≤ f.max then v else putField v f.hi f.lo (fieldOf old f.hi f.lo)) new

end Sys2Proof.Machine
end

