-- ==== Sys2Proof/Machine/View.lean ====
section
/-!
DEFINITION. What reads of status registers return: the live values of the fields that are not kept as register contents
(the register maps of the chapters, R447, R451).
-/
namespace Sys2Proof.Machine
open Sys2Proof

/-- Live bits of a register: which bits they are, and their values. -/
abbrev Live := Option (Word64 × Word64)

/-- The RO fields of a register live, from values given with their lowest bits. -/
def roLive (d : RegDesc) (fs : List (Nat × Nat)) : Live := some (accBits .ro d, packFields fs)

/-- A word whose bit `i` is `f i`. -/
def bitsOf (n : Nat) (f : Nat → Bool) : Nat := ((List.range n).map fun i => if f i then 2 ^ i else 0).sum

def chanNo (i : Nat) : Fin 16 := Fin.ofNat 16 i

/-! Outputs of the collector (R475, R476, R486). -/

/-- A routing nibble sends to the Armature, or to a chip line. -/
def routeArm (x : Nat) : Bool := decide (8 ≤ x)
def routeLine (x l : Nat) : Bool := decide (x / 4 % 2 = 1) && decide (x % 4 = l)

/-- The routing nibble of a source. -/
def routeOf (s : State) (id : Nat) : Nat := fld s (rEvtRoute (id / 8)) (4 * (id % 8) + 3) (4 * (id % 8))

/-- The journal notice (R486). -/
def jrnNotice (s : State) : Bool := !s.jrn.pkts.isEmpty

/-- Some pending source, or the notice, has a route that meets `p`. -/
def routed (s : State) (p : Nat → Bool) : Bool :=
  (List.range 1024).any (fun i => s.evt.ipend.getLsbD i && p (routeOf s i)) || (jrnNotice s && p (fld s rJrnNotice 3 0))

/-- EVT_IRQ[L]; low while a reset pin is low (R475). -/
def irqLine (s : State) (l : Nat) : Bool :=
  s.pwr.rst.isNone && rbit s rEvtLineEn l && routed s fun x => routeLine x l

/-- The Armature's interrupt. -/
def irqArm (s : State) : Bool := s.pwr.rst.isNone && rbit s rEvtLineEn 4 && routed s routeArm

/-- FAULT_SEVERE (R475). -/
def faultSevere (s : State) : Bool := s.pwr.rst.isNone && s.evt.severe

/-! Pins of the power domains (R495, R501). -/

/-- KEEP_OK (R495). -/
def keepOk (s : State) : Bool := s.pwr.vkeep && allChans.all fun c => (chan s c).keep.owner

/-- DRAIN_DONE (R501, R503). -/
def drainDone (s : State) : Bool := decide (s.cure.drain = .complete) && s.pwr.rst.isNone

/-! TOP, EVT, FLT, JRN. -/

def liveTop (s : State) (d : RegDesc) : Live :=
  match d.base with
  | 0x10 => roLive d [(0, beatNs s % 2 ^ 64)]
  | 0x18 => roLive d [(31, flag s.beat.valid), (30, flag s.beat.freerun), (29, flag (decide (0 < s.beat.holdFor))),
      (0, s.beat.diff.toNat)]
  | 0x2C => roLive d [(16, bitsOf 16 fun g => (smGet none s.csr.sched g).isSome), (0, s.csr.grpPend.toNat)]
  | 0x44 => roLive d [(8, s.devEnd), (4, flag (!s.csr.pendH.isEmpty)), (0, devState s)]
  | _ => none

def liveEvt (s : State) (d : RegDesc) (i : Nat) : Live :=
  match d.base with
  | 0x10000 => some (accBits .sq d, (smGet 0 s.evt.sq i).setWidth 64)
  | 0x11000 => roLive d [(0, bitsOf 32 fun k => sqPending (smGet 0 s.evt.sq (32 * i + k)))]
  | 0x11080 => roLive d [(0, bitsOf 32 fun k => s.evt.ipend.getLsbD (32 * i + k))]
  | 0x11404 => roLive d [(5, flag (faultSevere s)), (4, flag (irqArm s)), (0, bitsOf 4 (irqLine s))]
  | _ => none

/-- FLT.FEC_INFO.kind. -/
def kindCode : AddrKind → Nat
  | .none => 0
  | .lms => 1
  | .das => 2
  | .dram => 3

def liveFlt (s : State) (d : RegDesc) (i : Nat) : Live :=
  let f := smGet FecRec.empty s.evt.fec i
  match d.base with
  | 0x22000 => roLive d [(0, f.beat.toNat)]
  | 0x22008 => roLive d [(0, f.origin.addr.toNat)]
  | 0x22010 => roLive d [(31, flag f.valid), (26, f.src.toNat), (24, kindCode f.origin.kind), (12, f.origin.mid.toNat),
      (8, f.origin.typ.toNat), (0, f.more.toNat)]
  | 0x22400 => roLive d [(0, ((List.range 16).map fun k => levelCode (winOf s (16 * i + k)).level * 4 ^ k).sum)]
  | 0x22508 => roLive d [(31, flag s.evt.severe), (30, flag s.evt.failover), (29, flag s.evt.foRefused),
      (0, (s.evt.sevSrc.getD 0).toNat)]
  | 0x22514 =>
    let w := winOf s (fld s rFltWinSel 9 0)
    roLive d [(24, min 255 w.count), (22, w.run), (20, levelCode w.level)]
  | _ => none

def liveJrn (s : State) (d : RegDesc) (i : Nat) : Live :=
  match d.base with
  | 0x30004 => roLive d [(31, flag s.jrn.cur.isSome), (16, jrnUsed s.jrn), (0, s.jrn.pkts.length)]
  | 0x30008 => roLive d [(0, s.jrn.tag.toNat)]
  | 0x30010 => roLive d [(0, ((s.jrn.latch >>> (32 * i)).setWidth 32).toNat)]
  | _ => none

/-! ADM, FRP, NTC. -/

def poolHeldBy (s : State) (p : Nat) : Option (Fin 8) :=
  (List.finRange 8).find? fun q => (port s q).lock.held && decide ((port s q).lock.pool.map Fin.val = some p)

def modeNo : PortMode → Nat
  | .down => 0
  | .quiesce => 1
  | .up => 2

def liveAdm (s : State) (d : RegDesc) (i : Nat) : Live :=
  match d.base with
  | 0x4001C => roLive d [(16, s.adm.high), (0, s.tt.countP inTt)]
  | 0x40024 => roLive d [(0, s.adm.masked.toNat)]
  | 0x40100 =>
    roLive d [(31, flag (poolPaused s (chanNo i))), (30, flag (decide (fld s rAdmTtCap 12 0 ≤ poolUsed s i))),
      (0, s.tt.countP fun t => inTt t && decide (t.req.pool.val = i))]
  | 0x40140 => roLive d [(0, bitsOf 20 fun r => (candidates s (chanNo i)).any fun q => decide (q.src.val = r))]
  | 0x40180 =>
    match poolHeldBy s i with
    | some p =>
      let l := (port s p).lock
      roLive d [(31, 1), (24, p.val), (12, l.mid.toNat), (0, l.count)]
    | none => roLive d []
  | 0x48004 =>
    let p := port s (Fin.ofNat 8 i)
    roLive d [(30, modeNo p.mode), (29, flag p.live), (16, p.creds), (0, p.tags.length)]
  | 0x48800 => roLive d [(0, s.ntc.length)]
  | _ => none

/-! MAP, VNR, CUR. -/

def liveMap (s : State) (d : RegDesc) : Live :=
  match d.base with
  | 0x50030 => roLive d [(0, s.map.das)]
  | 0x50034 => roLive d [(0, s.map.excl)]
  | 0x50074 => roLive d [(12, min 4095 (s.tt.countP fun t => decide (t.stage = .fillWait) && isWriteOp t.req.op)), (0, s.map.fill.length)]
  | 0x50078 => roLive d [(31, flag s.map.bcmd.isSome)]
  | 0x5007C => roLive d [(0, s.map.bprog)]
  | _ => none

def vnrNo : VnrMode → Nat
  | .disabled => 0
  | .enabled => 1
  | .draining => 2
  | .clearing => 3

def pinnedLines (s : State) : Nat :=
  (s.vnr.slices.toList.map fun v => (v.sets.map fun e => pinCount e.2).sum).sum

def liveVnr (s : State) (d : RegDesc) : Live :=
  match d.base with
  | 0x60004 => roLive d [(30, vnrNo s.vnr.mode), (16, s.vnr.charge)]
  | 0x60010 => roLive d [(0, dirtyLines s)]
  | 0x60014 => roLive d [(0, pinnedLines s)]
  | 0x60034 => roLive d [(31, flag s.vnr.rop.isSome), (28, s.vnr.ropRes.toNat), (27, flag s.vnr.ropMeth),
      (0, ((List.finRange 16).map fun sl => if ((s.vnr.rop.map fun r => r.left.any fun x => decide (x.1 = sl)).getD false)
        then 2 ^ sl.val else 0).sum)]
  | 0x60038 => roLive d [(0, s.vnr.ropPos)]
  | _ => none

def liveCur (s : State) (d : RegDesc) : Live :=
  match d.base with
  | 0x7000C => some (1 <<< 8, packFields [(8, flag s.cure.staleSide)])
  | 0x70010 => roLive d [(28, s.cure.cmdRes.toNat)]
  | 0x70014 => some (accBits .ro d, curStatus s)
  | 0x70018 => some (accBits .ro d, fenceStatus s)
  | 0x70020 => roLive d [(0, s.cure.e.toNat)]
  | 0x70024 => roLive d [(0, (curLc s).toNat)]
  | 0x70028 => roLive d [(0, (curT s).toNat)]
  | 0x7002C => roLive d [(0, (curC s).toNat)]
  | 0x70034 => roLive d [(16, min 8192 (mirUsed s)), (0, s.cure.pend.length)]
  | 0x70038 => roLive d [(0, match s.cure.recast with | some r => r.next | none => s.cure.pushPos)]
  | _ => none

/-! TIR, TEN. -/

def nbrNo : NbrMode → Nat
  | .off => 0
  | .ok => 1
  | .far => 2
  | .lost => 3

def liveTir (s : State) (d : RegDesc) (i : Nat) : Live :=
  let g : Fin 32 := Fin.ofNat 32 i
  let e : Fin 4 := Fin.ofNat 4 i
  let t := s.tier
  match d.base with
  | 0x80014 => roLive d [(31, flag (tiered s && decide (framesFree s < frameFloor s))), (0, framesFree s)]
  | 0x80018 => roLive d [(16, (t.ret.map fun x => x.2.length).sum), (5, t.moves.countP fun m => m.up),
      (0, t.moves.countP fun m => !m.up)]
  | 0x80020 => roLive d [(0, t.hand)]
  | 0x80028 => roLive d [(60, t.moveRes.toNat)]
  | 0x80030 => roLive d [(30, flag t.reclaim.isSome), (28, t.reclRes.toNat)]
  | 0x80034 => roLive d [(29, t.frameRes.toNat), (0, t.frameVal)]
  | 0x80100 => roLive d [(61, nbrNo t.nbrs[g].mode), (0, min 65535 t.nbrs[g].rtt)]
  | 0x80200 => roLive d [(0, t.nbrs[g].use)]
  | 0x80300 => some (3 <<< 62, packFields [(63, flag (t.grantEn.getLsbD i)), (62, flag (t.grantRdy.getLsbD i))])
  | 0x80308 => roLive d [(32, t.grantFree[g])]
  | 0x80608 => roLive d [(29, flag t.jigs[e].busy), (26, t.jigs[e].result.toNat), (0, t.jigs[e].step)]
  | 0x8060C => roLive d [(0, t.jigs[e].late)]
  | _ => none

def liveTen (s : State) (d : RegDesc) (i : Nat) : Live :=
  let t := s.ten
  let es := t.engines.toList
  match d.base with
  | 0x90020 =>
    let p := t.segs[Fin.ofNat 4 i]
    roLive d [(31, flag p.up), (30, flag p.live)]
  | 0x90810 =>
    let r := t.rings[Fin.ofNat 32 i]
    roLive d [(32, flag r.phase), (16, r.cons), (0, r.prod)]
  | 0x91068 => roLive d [(30, flag (!t.closing.isEmpty)), (27, t.connRes.toNat)]
  | 0x91070 => some (accBits .ro d, t.connStat)
  | 0x91078 => roLive d [(13, (es.map fun g => g.ctx.countP fun x => ctxPinned s x).sum),
      (0, (es.map fun g => g.ctx.countP fun x => !x.load).sum)]
  | 0x91080 => roLive d [(8, loadsOf s (Fin.ofNat 8 i)), (0, (eng s (Fin.ofNat 8 i)).pend.length)]
  | 0x91120 => roLive d [(28, t.rkeyRes.toNat)]
  | 0x91124 => roLive d [(0, t.rkeyVal.toNat)]
  | 0x91128 => some (accBits .ro d, (rkeyReport s).setWidth 64)
  | _ => none

/-! ARM, mailboxes, PWR. -/

def armNo : ArmMode → Nat
  | .bootRom => 0
  | .running => 1
  | .diverged => 2
  | .tcmError => 3
  | .halted => 4
  | .bootFailed => 5

def whyNo : ArmWhy → Nat
  | .cold => 0
  | .warm => 1
  | .resume => 2
  | .update => 3

def mbxNo : MbxMode → Nat
  | .idle => 0
  | .pending => 1
  | .busy => 2
  | .done => 3

/-- Four bytes of a byte map, little-endian. -/
def wordAt (m : SMap Byte) (a : Nat) : Nat :=
  ((List.range 4).map fun k => (smGet 0 m (a + k)).toNat * 256 ^ k).sum

def liveArm (s : State) (d : RegDesc) (i j : Nat) : Live :=
  let a := s.arm
  match d.base with
  | 0xA0004 => roLive d [(29, armNo a.mode), (27, whyNo a.why), (26, flag (isReady s)), (16, a.bootErr)]
  | 0xA0008 => roLive d [(31, flag a.boot.isSome), (0, (a.boot.map fun b => b.block % 128).getD 0)]
  | 0xA0040 =>
    if j = 0 then some (accBits .otp d, (Config.factoryKeyHash >>> (64 * i)).setWidth 64) else none
  | 0xA8000 => some (0xFFFFFFFF, BitVec.ofNat 64 (wordAt a.win (4 * i)))
  | 0xA1100 => roLive d [(0, wordAt s.fw.mbx[Fin.ofNat 4 j].rsp (4 * i))]
  | 0xA1204 =>
    let m := s.fw.mbx[Fin.ofNat 4 i]
    some (accBits .ro d ||| accBits .rc d, packFields [(30, mbxNo m.mode), (29, flag (decide (a.mode ≠ .running))),
      (28, flag m.overrun), (0, m.tag.toNat)])
  | _ => none

/-- The power domains' registers. keep_ok and vkeep_ok follow their pins from the first FCLK edge after a reset on; before it they
read their reset value (log entry 96). -/
def livePwr (s : State) (d : RegDesc) : Live :=
  let p := s.pwr
  let clk : Bool := decide (0 < s.beat.fclk)
  match d.base with
  | 0xB0000 => roLive d [(28, p.cmdRes.toNat), (24, p.cmdWhy.toNat)]
  | 0xB0008 =>
    let dr : Bool := decide (s.cure.drain = .started) || decide (s.cure.drain = .recorded)
    roLive d [(30, pwrNo p.state), (29, flag p.seen), (28, flag dr), (27, flag (drainDone s)), (26, flag (clk && keepOk s)),
      (25, flag p.cureWait), (24, flag p.pfail), (23, flag (clk && p.vkeep))]
  | _ => none

/-! Channels. -/

def holdNo : HoldMode → Nat
  | .run => 0
  | .holding => 1
  | .held => 2
  | .releasing => 3

def wstateNo : WState → Nat
  | .read => 0
  | .drain => 1
  | .flush => 2

def pwrCode : RankPwr → Nat
  | .active => 0
  | .powerDown => 1
  | .selfRefresh => 2

/-- The owed count of a rank; in same-bank granularity the largest over its bank indexes (REF.OWED). -/
def owedOf (s : State) (c : Fin 16) (r : Nat) : Nat :=
  ((List.range 4).map fun b => smGet 0 (chan s c).ref.owed (4 * r + b)).foldl max 0

/-- The forecast entry `k` (R184): the slot, after the one whose quiet window is in progress or starts next. -/
def forecast (s : State) (c : Fin 16) (k : Nat) : List (Nat × Nat) :=
  if slotsRun s c then
    let first := slotAt s c (beatNs s + refLead s c + 1 - quietLen s c)
    let first := if slotStart s c first < ((chan s c).ref.since : Int) then first + 1 else first
    let n := first + (k : Int)
    let start := slotStart s c n - (refLead s c : Int)
    let same : Bool := decide ((chan s c).ref.gran = 2)
    let bank := if same then (n % (2 ^ baBits s : Int)).toNat else 0
    [(16, start.toNat % 2 ^ 48), (14, flag same), (12, bank), (0, quietLen s c / 4)]
  else [(14, 2)]

/-- A floor of a timing field (R156). -/
def flr (s : State) (c : Fin 16) (n : Nat) : Nat := timFloor (floorGrade s c) n

/-- SCH.FLRk: the floors laid out as SCH.TIMk. -/
def flrWord (s : State) (c : Fin 16) (k : Nat) : List (Nat × Nat) :=
  (List.range 21).filterMap fun n =>
    let (r, hi, lo) := timField c (n + 1)
    if r.off = (rSchTim0 c.val).off + 4 * k then some (lo, flr s c (n + 1) % 2 ^ (hi + 1 - lo)) else none

def liveSch (s : State) (d : RegDesc) (c : Fin 16) : Live :=
  let q := (chan s c).sch
  match d.base with
  | 0x100130 => roLive d (flrWord s c 0)
  | 0x100134 => roLive d (flrWord s c 1)
  | 0x100138 => roLive d (flrWord s c 2)
  | 0x10013C => roLive d (flrWord s c 3)
  | 0x100140 => roLive d (flrWord s c 4)
  | 0x100144 => roLive d (flrWord s c 5)
  | 0x100204 => roLive d [(8, q.lastEnd), (5, flag q.inDev), (4, flag (chanPend s c)), (0, holdNo q.hold)]
  | 0x10020C => roLive d [(25, q.glue.length), (18, q.wq.length), (16, wstateNo q.wstate), (0, q.rq.length)]
  | 0x100210 => roLive d ((List.range 32).map fun r => (2 * r, pwrCode (rankAt s c r).pwr))
  | _ => none

/-- REF registers; REF.TRFC_FLR holds the minima for the grade of R156. -/
def liveRef (s : State) (d : RegDesc) (c : Fin 16) (i : Nat) : Live :=
  let r := (chan s c).ref
  match d.base with
  | 0x100414 => roLive d [(30, mCode r.m), (28, r.gran), (27, flag r.granNext.isSome), (26, flag (!s.beat.valid))]
  | 0x10041C => roLive d [(0, r.gen.toNat)]
  | 0x100428 => roLive d ((List.range 3).map fun g => (12 * g, Config.trfcMin (floorGrade s c) g % 4096))
  | 0x100430 => roLive d ((List.range 16).map fun k => (4 * k, owedOf s c k % 16))
  | 0x100438 => roLive d ((List.range 16).map fun k => (4 * k, owedOf s c (16 + k) % 16))
  | 0x100440 =>
    match r.nextRetrain with
    | some w => roLive d [(16, w.start % 2 ^ 48), (0, (w.len + 3) / 4 % 4096)]
    | none => roLive d []
  | 0x100484 => roLive d [(31, flag r.rfmReq),
      (29, if s.map.das = 0 then 0 else if 8 < rankCount s then 2 else 1), (8, r.raammt), (0, r.raaimt)]
  | 0x100600 => roLive d (forecast s c i)
  | _ => none

/-- A signed value as an 8-bit field. -/
def int8 (x : Int) : Nat := (BitVec.ofInt 8 x).toNat

def livePhy (s : State) (d : RegDesc) (c : Fin 16) : Live :=
  let p := (chan s c).phy
  let k := (chan s c).keep
  match d.base with
  | 0x101004 => roLive d [(31, flag p.pllLock), (29, trainCode p.train), (28, flag k.owner), (0, p.pranks.toNat)]
  | 0x10100C => some (accBits .ro d, trainStatus p)
  | 0x101020 =>
    let pr := fld s (rPhyLsel c.val) 9 8
    let sub := fld s (rPhyLsel c.val) 6 6
    let lane := fld s (rPhyLsel c.val) 5 0
    let l := laneGet p (laneKey pr sub lane)
    let rdfe := rbit s (rPhyCfg c.val) 4
    roLive d [(48, smGet 0 p.vrefA (nibKey pr sub (lane / 4))), (44, if rdfe then l.dfe2.toNat else 0), (40, if rdfe then l.dfe1.toNat else 0), (30, l.wrTrain),
      (20, l.rdTrain), (10, l.wrDly), (0, l.rdDly)]
  | 0x101108 =>
    let t := p.target
    let now : List (Nat × Nat) :=
      if p.dwelling ∨ 0 < p.dwell then [(28, t.prank), (27, t.sub), (23, t.chip), (22, flag t.right), (18, p.dwell)] else []
    roLive d ([(31, flag p.dwelling), (30, flag (!probeRun s c || (tgtFrom s c 0).isNone))] ++ now)
  | 0x101110 =>
    let pr := fld s (rPrbEsel c.val) 7 6
    let sub := fld s (rPrbEsel c.val) 5 5
    let nib := fld s (rPrbEsel c.val) 3 0
    roLive d ((List.range 4).flatMap fun j =>
      let l := laneGet p (laneKey pr sub (4 * nib + j))
      [(16 * j + 8, int8 l.eR), (16 * j, int8 l.eL)])
  | 0x101180 => roLive d [(31, flag k.owner), (30, flag k.retained), (29, flag k.lost), (0, k.handovers.toNat)]
  | 0x10120C => roLive d [(31, flag p.sb.isSome), (28, p.sbResult.toNat)]
  | _ => none

/-- A slice of the channel is being read: a map word or a line of it is asked for, or on its way. -/
def scrubActive (s : State) (c : Fin 16) : Bool :=
  let isScrub (r : RdEnt) : Bool := match r.dest with
    | .scrub _ _ => true
    | _ => false
  let mine (r : Req) : Bool := decide (chanOf s (apertureDas r.addr) = c) && decide (r.kind = .rasp .scrub)
  let word (l : List Nat) : Bool := l.any fun das => decide (chanOf s das = c)
  (chan s c).sch.rq.any isScrub || (chan s c).sch.flight.any (fun f => isScrub f.ent)
    || (chan s c).sch.arrive.any (fun a => match a.what with
        | .inl e => isScrub e
        | .inr _ => false)
    || s.adm.wait.any mine || s.tt.any (fun t => mine t.req) || s.map.slices.toList.any word

/-- CODE, SCR and INL registers. SCR.CURSOR gives the next slice from the first FCLK edge after a reset on; before it it reads its
reset value (log entry 96). -/
def liveCode (s : State) (d : RegDesc) (c : Fin 16) (i : Nat) : Live :=
  let x := (chan s c).code
  match d.base with
  | 0x102010 => some (fieldBits d, markWord s c i)
  | 0x102188 =>
    let sel (hi lo : Nat) := fld s (rCodeEcsSel c.val) hi lo
    let e := smGet EcsRec.none x.ecs ((sel 12 8 * 2 + sel 4 4) * 16 + sel 3 0)
    roLive d [(63, flag e.polled), (60, e.bg.toNat), (58, e.ba.toNat), (40, e.row.toNat), (32, e.maxCnt.toNat),
      (0, e.count.toNat)]
  | 0x102308 =>
    roLive d [(31, flag (scrubActive s c)), (30, flag x.late), (0, x.owed)]
  | 0x102310 => roLive d [(0, if s.beat.fclk = 0 then 0 else dasOfLine s c 0 (8 * x.cursor) % 2 ^ 48)]
  | 0x102318 => roLive d [(0, x.lastPass % 2 ^ 32)]
  | 0x102330 => roLive d [(31, flag x.diag.isSome), (28, x.diagRes.toNat)]
  | 0x102560 => roLive d [(31, flag x.raw.isSome), (28, x.rawRes.toNat)]
  | 0x102600 => roLive d [(31, flag (copyBusy s c)), (16, x.inl.countP fun e => e.2.valid && decide (inlFcount ≤ e.1)),
      (0, inlFcount)]
  | 0x102608 => roLive d [(61, x.copyRes.toNat)]
  | 0x102610 => roLive d [(60, x.pprRes.toNat)]
  | 0x108000 => some (fieldBits d, inlVal (smGet InlEnt.none x.inl i))
  | _ => none

/-- The channel of a per-channel register: the index whose stride is a channel's. -/
def hitChan (h : RegHit) : Fin 16 := chanNo (if h.desc.s2 = 0x40000 then h.j else h.i)

/-- The live bits of a register. -/
def liveOf (s : State) (h : RegHit) : Live :=
  let d := h.desc
  if d.base < 0x10000 then liveTop s d
  else if d.base < 0x20000 then liveEvt s d h.i
  else if d.base < 0x30000 then liveFlt s d h.i
  else if d.base < 0x40000 then liveJrn s d h.i
  else if d.base < 0x50000 then liveAdm s d h.i
  else if d.base < 0x60000 then liveMap s d
  else if d.base < 0x70000 then liveVnr s d
  else if d.base < 0x80000 then liveCur s d
  else if d.base < 0x90000 then liveTir s d h.i
  else if d.base < 0xA0000 then liveTen s d h.i
  else if d.base < 0xB0000 then liveArm s d h.i h.j
  else if d.base < 0xC0000 then livePwr s d
  else
    let c := hitChan h
    if chanCount s ≤ c.val then none
    else if d.base < 0x100400 then liveSch s d c
    else if d.base < 0x101000 then liveRef s d c h.i
    else if d.base < 0x102000 then livePhy s d c
    else liveCode s d c h.i

/-- The value of a register: its live bits over its contents. -/
def regValue (s : State) (h : RegHit) : Word64 :=
  match liveOf s h with
  | some (m, v) => (getReg s h.ref &&& ~~~ m) ||| (v &&& m)
  | none => getReg s h.ref

/-- The counter holding registers' index at an offset (R461). -/
def holdIdx (off : Nat) : Option Nat := if 0x800000 ≤ off ∧ off < 0x804000 then some ((off - 0x800000) / 8) else none

end Sys2Proof.Machine
end

