-- ==== Sys2Proof/Machine/Boot.lean ====
section
/-!
DEFINITION. What firmware does in start-up steps 5 to 8 and keeps in the Reserve (R95, R106, R260, R262, R327, R328, R420,
R441, R442), and the commands of MAP.BCMD.
-/
namespace Sys2Proof.Machine
open Sys2Proof

def modArm (s : State) (f : ArmSt → ArmSt) : State := { s with arm := f s.arm }
def modFw (s : State) (f : FwSt → FwSt) : State := { s with fw := f s.fw }

/-- The pair stops in a state: the Armature requester is masked and its waiting requests are withdrawn (R119, R120, R414). -/
def armHalt (s : State) (m : ArmMode) : State := maskNote (withdrawAll (modArm s fun a => { a with mode := m }) 19) 19

/-- Firmware runs a cold start, or a warm one that it treats as cold (R420, R505). -/
def startCold (s : State) : Bool := decide (s.arm.why = .cold) || s.arm.asCold

/-- Firmware runs a warm start. -/
def startWarm (s : State) : Bool := decide (s.arm.why = .warm) && !s.arm.asCold

/-- Firmware halts itself (FW_HALT). -/
def fwHalt (s : State) (code : Word32) : State :=
  if s.arm.mode = .running then armHalt (evd s 997 [code]) .halted else s

/-! The Configuration Record (R441). -/

/-- A register's value as last set: its shadow where a commit of it is awaited. -/
def setting (s : State) (r : RegRef) : Word64 := (smGet none s.csr.shadow r.off).getD (getReg s r)

/-- TIR.GRANT_A as read: en and ready are live. -/
def grantWord (s : State) (g : Nat) : Word64 :=
  getReg s (rTirGrantA g) ||| packFields [(63, flag (s.tier.grantEn.getLsbD g)), (62, flag (s.tier.grantRdy.getLsbD g))]

/-- A mailbox's group mask in a byte: groups 1 to 8. -/
def maskByte (m : BitVec 16) : Nat := fieldOf m 8 1

/-- The used bytes of the record, in order, as numbers with their sizes. -/
def confFields (s : State) : List (Nat × Nat) :=
  let reg (n : Nat) (r : RegRef) : Nat × Nat := (n, (setting s r).toNat % 256 ^ n)
  let tw := (setting s rCurTwin).toNat
  [(4, 1), (2, deviceId s), (2, tw >>> 16), (2, s.fw.pred.toNat), (1, s.fw.profile), (1, fieldOf (setting s rVnrDirty) 23 16),
    (4, s.fw.warn), (4, s.fw.twinMs)]
    ++ (s.fw.masks.toList.map fun m => (1, maskByte m))
    ++ [reg 4 rMapCfg, reg 4 rMapGeom, reg 4 rMapLmsTop, reg 4 rMapRsvBase]
    ++ ((List.range 4).map fun i => reg 8 (rMapChash i))
    ++ ((List.range 9).map fun i => reg 4 (rMapRb i))
    ++ [(20, 0)]
    ++ ((List.range 64).flatMap fun i => [reg 8 (rVnrRgnA i), reg 8 (rVnrRgnB i)])
    ++ ((List.range 4).map fun i => reg 4 (rCurRgnMode i))
    ++ ((List.range 32).map fun i => reg 8 (rTirNbr i))
    ++ ((List.range 32).flatMap fun i => [(8, (grantWord s i).toNat), reg 8 (rTirGrantB i)])

/-- Byte `k` of consecutive lines. -/
def listByte (ls : List LineData) (k : Nat) : Nat := (lineByte (ls.getD (k / 64) 0) (k % 64)).toNat

/-- A little-endian number of `n` bytes from byte `k`. -/
def listNum (ls : List LineData) (k n : Nat) : Nat :=
  (List.range n).foldl (fun x i => x + listByte ls (k + i) * 256 ^ i) 0

/-- Firmware writes the Configuration Record, once a geometry is in force. -/
def confWrite (s : State) : State :=
  if geomSet s then
    let bs := (confFields s).flatMap fun f => leBytes f.1 (f.2 % 256 ^ f.1)
    recLines s (compBase s 8) 0 31 fun k => BitVec.ofNat 64 (leNum ((bs.drop (8 * k)).take 8))
  else s

/-- `n` lines of the Reserve read; none where one of them cannot be read. -/
def rsvRead (s : State) (base n : Nat) : Option (List LineData) :=
  (List.range n).mapM fun i => (dasNow s (base + 64 * i)).getD none

/-- The Release values of the record agree with those in force. -/
def confMatch (s : State) (ls : List LineData) : Bool :=
  let eq (r : RegRef) (off n : Nat) : Bool := decide ((getReg s r).toNat % 256 ^ n = listNum ls off n)
  decide ((getReg s rMapCfg).toNat % 8 = listNum ls 24 4 % 8) && eq rMapGeom 28 4 && eq rMapLmsTop 32 4
    && eq rMapRsvBase 36 4 && ((List.range 4).all fun i => eq (rMapChash i) (40 + 8 * i) 8)
    && (List.range 9).all fun i => eq (rMapRb i) (72 + 4 * i) 4

/-- The settings of a profile (R44), each as a register field with its value. -/
def profileFields (s : State) (p : Nat) : List (RegRef × Nat × Nat × Nat) :=
  let pick (l : List Nat) : Nat := l.getD p 0
  let ch (c : Nat) : List (RegRef × Nat × Nat × Nat) :=
    [(rSchWdrain c, 22, 16, pick [72, 48, 72, 88]), (rSchWdrain c, 6, 0, pick [24, 16, 24, 40]),
      (rSchPage c, 1, 0, pick [2, 0, 2, 1]),
      (rSchUrg c, 6, 0, pick [50, 25, 50, 60]), (rSchUrg c, 14, 8, pick [75, 50, 75, 80]),
      (rSchUrg c, 22, 16, pick [100, 75, 100, 100]), (rSchPwr c, 15, 0, pick [250, 0, 250, 25]),
      (rSchSridle c, 19, 0, pick [0, 0, 0, 1000]), (rRefCfg c, 1, 0, pick [0, 2, 0, 0])]
  ((List.range (chanCount s)).flatMap ch)
    ++ [(rCurCfg, 1, 0, pick [2, 2, 1, 2]), (rVnrDirty, 23, 16, pick [64, 32, 16, 64])]

/-- The settings of the record loaded, in force at once: no request runs before Ready. -/
def confLoad (s : State) (ls : List LineData) : State :=
  let n (off k : Nat) : Nat := listNum ls off k
  let put (s : State) (r : RegRef) (off k : Nat) : State := setReg s r (BitVec.ofNat 64 (n off k))
  let mask (i : Nat) (old : BitVec 16) : BitVec 16 := BitVec.ofNat 16 (n (20 + i) 1 * 2) ||| (old &&& 0x8000)
  let prof := n 10 1
  let s := if prof < 4 then (profileFields s prof).foldl (fun s f => setFld s f.1 f.2.1 f.2.2.1 f.2.2.2) s else s
  let s := modFw s fun f => { f with
    pred := BitVec.ofNat 16 (n 8 2), profile := prof, warn := n 12 4, twinMs := n 16 4
    masks := Vector.ofFn fun i => if i = 2 then f.masks[i] else mask i.val f.masks[i] }
  let s := setFld s rVnrDirty 23 16 (n 11 1)
  let s := setReg s rTopDeviceId (BitVec.ofNat 64 (n 4 2))
  let s := setFld s rCurTwin 31 16 (n 6 2)
  let s := forEach (List.range 64) s fun s i => put (put s (rVnrRgnA i) (128 + 16 * i) 8) (rVnrRgnB i) (136 + 16 * i) 8
  let s := forEach (List.range 4) s fun s i => put s (rCurRgnMode i) (1152 + 4 * i) 4
  let s := forEach (List.range 32) s fun s i => put s (rTirNbr i) (1168 + 8 * i) 8
  forEach (List.finRange 32) s fun s g =>
    let a := BitVec.ofNat 64 (n (1424 + 16 * g.val) 8)
    let s := setReg s (rTirGrantA g.val) (a &&& ~~~ fieldMask 63 62 &&& ~~~ fieldMask 60 60)
    let s := put s (rTirGrantB g.val) (1432 + 16 * g.val) 8
    if bitOf a 63 then grantReload (modGrant s g true true 0 0) g else s

/-- The frames held at each neighbour, counted from the Placement Map (R349). -/
def useCount (s : State) : State :=
  forEach (List.finRange 32) s fun s j =>
    let held := s.map.pmap.ex.countP fun e => (remoteOf s e.1).any fun r => decide (r.1 = j)
    modNbr s j fun x => { x with use := held }

/-! The Repair Record (R260, R442). -/

/-- The firmware records of the Repair Record written. -/
def pprRecords (s : State) : State :=
  let es := s.fw.pprs.take 14335
  let ent (e : PprRec) (k : Nat) : Word64 :=
    match k with
    | 0 => packFields [(0, e.kind), (8, e.chan.val), (16, e.sub), (24, e.rank), (32, e.bg), (40, e.ba), (48, e.idx)]
    | 1 => BitVec.ofNat 64 e.row
    | 2 => e.beat
    | _ => 0
  if geomSet s then
    recLines s (compBase s 7) 9216 (9216 + linesFor (16 + 32 * es.length)) fun k =>
      if k = 8 * 9216 then packFields [(32, es.length), (0, 1)]
      else if k = 8 * 9216 + 1 then 0
      else tableWord es 4 ent (k - (8 * 9216 + 2))
  else s

/-- PPR_DONE before Ready: the pending record of the row becomes done or failed (R442). -/
def pprNote (s : State) (c : Fin 16) (e : PprEnd) : State :=
  match (chan s c).code.ppr with
  | none => s
  | some r =>
    let mine (x : PprRec) : Bool := decide (x.kind = 1) && decide (x.chan = c) && decide (x.sub = r.sub)
      && decide (x.rank = r.rank) && decide (x.bg = r.bg) && decide (x.ba = r.ba) && decide (x.row = r.row)
    let s' := pprDone s c e
    if !isReady s && decide (s.arm.mode = .running) && s.fw.pprs.any mine then
      let kind := if e = .ok then 2 else 3
      pprRecords (modFw s' fun f => { f with
        pprs := modFirst mine (fun x => { x with kind := kind, beat := BitVec.ofNat 64 (beatNs s) }) f.pprs })
    else s'

def execPprDone (c : Fin 16) (e : PprEnd) (s : State) : Host.Outcome State Fault Refusal := ok (pprNote s c e)

/-- An Inlay entry made permanent by a post package repair is omitted from the replay (R262). -/
def pprMade (s : State) (c : Fin 16) (i : Nat) (e : InlEnt) : Bool :=
  s.fw.pprs.any fun x => decide (x.kind = 2) && decide (x.chan = c) && decide (x.idx = i) && decide (x.sub = e.sub)
    && decide (x.rank = e.rank) && decide (x.bg = e.bg) && decide (x.ba = e.ba) && decide (x.row = e.row)

/-- The replay of the Inlay Image and the marks (R260). -/
def inlayReplay (s : State) : State :=
  let line (k : Nat) : Option LineData := (dasNow s (compBase s 7 + 64 * k)).getD none
  forEach (popChans s) s fun s c =>
    let s := forEach (List.range 512) s fun s n =>
      match line (1024 + 512 * c.val + n) with
      | none => s
      | some d => forEach (List.range 8) s fun s k =>
          let v := lineWord d k
          let i := 8 * n + k
          let there := (smGet InlEnt.none (chan s c).code.inl i).valid
          if v = 0 ∨ there ∨ pprMade s c i (inlOf v) then s
          else inlWrite s c i 0x800 (v &&& ~~~ fieldMask 62 61)
    match line (16 + c.val / 2) with
    | none => s
    | some d => forEach (List.range 8) s fun s i =>
        let w := fieldOf (lineWord d (4 * (c.val % 2) + i / 2)) (32 * (i % 2) + 31) (32 * (i % 2))
        let s := if w / 128 % 2 = 1 then markWrite s c i 0 (w % 16) else s
        if w / 2 ^ 15 % 2 = 1 then markWrite s c i 1 (w / 256 % 16) else s

/-! The Fill Record (R95) and the Cure Record (R325, R327). -/

/-- The lines of a table of a record. -/
def tableLines (s : State) (base off size n : Nat) : Option (List LineData) :=
  rsvRead s (base + off / 64 * 64) (linesFor (off % 64 + size * n))

/-- The entries of the Fill Record's table. -/
def fillEnts (n : Nat) (ls : List LineData) : List FillEnt :=
  (List.range n).map fun k => ⟨listNum ls (8 + 136 * k) 4, BitVec.ofNat 1024 (listNum ls (16 + 136 * k) 128)⟩

/-- The Fill Record's panels taken up, where its table reads. -/
def fillTake (s : State) (n : Nat) : Option (List LineData) → State
  | none => s
  | some ls => ev { s with map := { s.map with fill := fillEnts n ls } } 837

/-- The Fill Record taken up, where its header reads. -/
def fillHead (s : State) : Option (List LineData) → State
  | none => s
  | some h => fillTake s (min 256 (listNum h 0 8 % 512))
      (tableLines s (compBase s 4) 8 136 (min 256 (listNum h 0 8 % 512)))

/-- The Fill Table reloaded. -/
def fillReload (s : State) : State := fillHead s (rsvRead s (compBase s 4) 1)

/-- The header of the Cure Record where it is sealed and its format is known. -/
def cureHead (s : State) : Option (List LineData) :=
  match rsvRead s (cureBase s) 1 with
  | some h => if listNum h 60 4 = 0x5EA10001 ∧ listNum h 56 4 = 1 then some h else none
  | none => none

/-- The pending panels of the record. -/
def recPending (s : State) (h : List LineData) : List Nat :=
  let n := min 16384 (listNum h 40 4)
  match tableLines s (cureBase s) 4096 8 n with
  | some ls => (List.range n).map fun k => listNum ls (8 * k) 4
  | none => []

/-- The invalid lines of one entry of a record written as zeros. -/
def overZeroEnt (s : State) (p : Nat) (v : BitVec 1024) : State :=
  forEach ((List.range 1024).filter fun i => !v.getLsbD i) s fun s i =>
    match dasOf s (p * 65536 + 64 * i) with
    | some das => dasPut s das 0
    | none => s

/-- The same for every entry of a table, which starts 2,822,144 bytes into the record, where it reads. -/
def overZeroIn (s : State) (n : Nat) : Option (List LineData) → State
  | none => s
  | some ls =>
    forEach (List.range n) s fun s k =>
      overZeroEnt s (listNum ls (2822144 % 64 + 136 * k) 8) (BitVec.ofNat 1024 (listNum ls (2822144 % 64 + 8 + 136 * k) 128))

/-- Order 4 of R327: the invalid lines of the overflow panels are zeroed. -/
def overZero (s : State) (h : List LineData) : State :=
  overZeroIn s (min 4096 (listNum h 52 4)) (tableLines s (cureBase s) 2822144 136 (min 4096 (listNum h 52 4)))

/-- Orders 1 to 5 of R327, or step 1 of R328 where the seal is absent. -/
def cureRestore (s : State) : State :=
  match cureHead s with
  | none => forEach (popChans s) s fenceCmd
  | some h =>
    let fst := listNum h 36 4
    let bad (c : Fin 16) : Bool := decide (fst / 4 ^ c.val % 4 ≠ 0)
    let side := decide (listNum h 32 4 / 2 ^ 28 % 2 = 1)
    let s := epochSet s 0x800 (BitVec.ofNat 32 (listNum h 16 4 + 1))
    let s := forEach ((popChans s).filter bad) s fenceCmd
    let s := overZero s h
    if side || !(popChans s).any bad then forEach (recPending s h) (staleSideWrite s true) staleSet else s

/-- Warm start-up steps 5 to 8 up to the mirror connections (R420): the Configuration Record is read; a mismatch stops the
boot. -/
def warmRestore (s : State) : State :=
  match rsvRead s (compBase s 8) 31 with
  | none => s
  | some ls =>
    if listNum ls 0 4 ≠ 1 then modArm s fun a => { a with asCold := true }
    else if confMatch s ls then
      let s := useCount (confLoad s ls)
      let s := forEach (List.finRange 32) s nbrUpdate
      let s := cureRestore (fillReload (inlayReplay s))
      modFw (frameLowUpd (frameRefill s)) fun f => { f with waitMir := true }
    else
      let (v, s) := drawFree 32 s
      fwHalt s v

/-! MAP.BCMD (R101, R106). -/

/-- Step 5 of a cold start: zeros are written to the Reserve, from its base to the spare rows (R420). -/
def reserveZero (s : State) : State :=
  let r0 := rsvBase s / (128 * chanCount s) / 2 ^ (colBits s + bgBits s + baBits s)
  let z : ZeroSpan := ⟨r0 / 2 ^ rankBits s, r0 % 2 ^ rankBits s, 2 ^ rowBits s - 18⟩
  let first (a b : ZeroSpan) : ZeroSpan :=
    { if a.row < b.row ∨ (a.row = b.row ∧ a.rank ≤ b.rank) then a else b with top := max a.top b.top }
  let cs := (popChans s).filter fun c => decide (s.cure.fence[c] ≠ .fenced)
  let new (c : Fin 16) (s : State) : ZeroSpan := match smGet none s.dramZero c.val with
    | some o => first o z
    | none => z
  let only : State := { s with dramZero := cs.foldl (fun m c => smSet none m c.val (some z)) [] }
  let s : State := { s with
    dram := s.dram.filter fun e => !inZero only (e.1 / 80)
    dramZero := cs.foldl (fun m c => smSet none m c.val (some (new c s))) s.dramZero }
  let s := forEach cs s fun s c =>
    forEach ((chan s c).code.inl.filter fun e => e.2.valid && e.2.active) s fun s e =>
      let k : Coord := ⟨c.val, e.2.sub, e.2.rank, e.2.bg, e.2.ba, e.2.row, 0⟩
      if inZero only (coordKey k) then
        forEach (List.range (2 ^ colBits s)) s fun s col =>
          setDramLine s (inlMap s c { k with col := col }) (encodeLine 0 false)
      else s
  modFw { s with map := { s.map with stale := ⟨false, []⟩, pmap := ⟨0, []⟩, frames := ⟨false, []⟩, damaged := [] } }
    fun f => { f with pprs := [] }

/-- MAP.BCMD.init: before Ready, with every channel in RUN and no command busy. -/
def bcmdInit (s : State) : State :=
  if isReady s ∨ s.map.bcmd.isSome then s
  else if (popChans s).all fun c => decide ((chan s c).sch.hold = .run) then
    let s := if s.arm.mode = .running ∧ startCold s ∧ geomSet s then reserveZero s else s
    { s with map := { s.map with bcmd := some .init, bprog := 0 } }
  else s

def execBcmdInit (s : State) : Host.Outcome State Fault Refusal := ok (bcmdInit s)

/-- MAP.BCMD.rebuild; at a warm start it follows the replays of steps 5 to 7 and stands for step 8. -/
def bcmdRebuild (s : State) : State :=
  if s.map.bcmd.isSome then s
  else
    let warm : Bool := decide (s.arm.mode = .running) && startWarm s && !isReady s && !s.fw.waitMir && geomSet s
    let s := if warm then warmRestore s else s
    if warm && decide (s.arm.mode ≠ .running) then s
    else { s with map := { s.map with bcmd := some .rebuild, bprog := 0 } }

def execBcmdRebuild (s : State) : Host.Outcome State Fault Refusal := ok (bcmdRebuild s)

/-- MAP.BCMD.pc_inv. -/
def bcmdPcInv (s : State) : State :=
  if s.map.bcmd.isSome then s else { s with map := { s.map with pcache := [] } }

def execBcmdPcInv (s : State) : Host.Outcome State Fault Refusal := ok (bcmdPcInv s)

end Sys2Proof.Machine
end

