-- ==== Sys2Proof/Machine/Sha.lean ====
section
/-!
DEFINITION. SHA-384 and ECDSA over P-384, by which the boot ROM checks an image (R416, R417).
-/
namespace Sys2Proof.Machine
open Sys2Proof

/-! SHA-384. -/

/-- The primes below `n`, in order. -/
def primesBelow (n : Nat) : List Nat :=
  (List.range n).filter fun p => decide (2 ≤ p) && (List.range p).all fun d => decide (d < 2) || decide (p % d ≠ 0)

/-- The integer `k`-th root of `n`, where it has at most `bits` bits: found bit by bit from the highest down. -/
def rootBits (k n : Nat) : Nat → Nat → Nat
  | 0, x => x
  | bits + 1, x => rootBits k n bits (if (x + 2 ^ bits) ^ k ≤ n then x + 2 ^ bits else x)

/-- The first 64 bits of the fractional part of the `k`-th root of a small number. -/
def rootFrac (k p : Nat) : BitVec 64 := BitVec.ofNat 64 (rootBits k (p * 2 ^ (64 * k)) 72 0)

/-- The initial hash value of SHA-384: from the square roots of the ninth to the sixteenth prime. -/
def sha384Iv : List (BitVec 64) := ((primesBelow 54).drop 8).map (rootFrac 2)

/-- The round constants: from the cube roots of the first 80 primes. -/
def sha512K : List (BitVec 64) := (primesBelow 410).map (rootFrac 3)

def rotr64 (x : BitVec 64) (n : Nat) : BitVec 64 := x.rotateRight n

/-- The message schedule: 80 words from the 16 of a block. -/
def shaSchedule (w : Array (BitVec 64)) : Array (BitVec 64) :=
  (List.range 64).foldl (fun w i =>
    let at' (k : Nat) : BitVec 64 := w.getD (i + k) 0
    let s0 := rotr64 (at' 1) 1 ^^^ rotr64 (at' 1) 8 ^^^ (at' 1 >>> 7)
    let s1 := rotr64 (at' 14) 19 ^^^ rotr64 (at' 14) 61 ^^^ (at' 14 >>> 6)
    w.push (at' 0 + s0 + at' 9 + s1)) w

/-- One round on the eight working variables, given round constant plus schedule word. -/
def shaRound (v : List (BitVec 64)) (kw : BitVec 64) : List (BitVec 64) :=
  match v with
  | [a, b, c, d, e, f, g, h] =>
    let t1 := h + (rotr64 e 14 ^^^ rotr64 e 18 ^^^ rotr64 e 41) + ((e &&& f) ^^^ (~~~ e &&& g)) + kw
    let t2 := (rotr64 a 28 ^^^ rotr64 a 34 ^^^ rotr64 a 39) + ((a &&& b) ^^^ (a &&& c) ^^^ (b &&& c))
    [t1 + t2, a, b, c, d + t1, e, f, g]
  | _ => v

/-- One block taken into the hash value. -/
def shaBlock (hv : List (BitVec 64)) (w : List (BitVec 64)) : List (BitVec 64) :=
  let ws := (shaSchedule w.toArray).toList
  let v := (sha512K.zip ws).foldl (fun v x => shaRound v (x.1 + x.2)) hv
  hv.zipWith (· + ·) v

/-- Big-endian words of 8 bytes, at most `n`. -/
def beWords : Nat → List Byte → List (BitVec 64)
  | 0, _ => []
  | n + 1, bs => if bs.isEmpty then [] else
      (bs.take 8).foldl (fun (x : BitVec 64) b => (x <<< 8) ||| b.setWidth 64) 0 :: beWords n (bs.drop 8)

/-- The blocks of 16 words taken in order, at most `n`. -/
def shaBlocks : Nat → List (BitVec 64) → List (BitVec 64) → List (BitVec 64)
  | 0, hv, _ => hv
  | n + 1, hv, ws => if ws.isEmpty then hv else shaBlocks n (shaBlock hv (ws.take 16)) (ws.drop 16)

/-- The padded message. -/
def shaPad (bs : List Byte) : List Byte :=
  let n := bs.length
  let z := (239 - n % 128) % 128
  let len : List Byte := (List.range 8).map fun i => BitVec.ofNat 8 ((8 * n) >>> (8 * (7 - i)))
  bs ++ ((0x80 : Byte) :: (List.replicate (z + 8) (0 : Byte) ++ len))

/-- SHA-384, byte `i` of the digest in bits 8i+7:8i (ARM.IKEY_HASH). -/
def sha384 (bs : List Byte) : BitVec 384 :=
  let m := shaPad bs
  let n := m.length / 8
  let hv := (shaBlocks n sha384Iv (beWords n m)).take 6
  (List.range 48).foldl (fun (acc : BitVec 384) i =>
    let b := ((hv.getD (i / 8) 0) >>> (8 * (7 - i % 8))).setWidth 8
    acc ||| ((BitVec.setWidth 384 (b : Byte)) <<< (8 * i))) 0

/-! P-384. -/

def p384p : Nat := 2 ^ 384 - 2 ^ 128 - 2 ^ 96 + 2 ^ 32 - 1
def p384n : Nat := 0xffffffffffffffffffffffffffffffffffffffffffffffffc7634d81f4372ddf581a0db248b0a77aecec196accc52973
def p384b : Nat := 0xb3312fa7e23ee7e4988e056be3f82d19181d9c6efe8141120314088f5013875ac656398d8a2ed19d2a85c8edd3ec2aef
def p384G : Nat × Nat :=
  (0xaa87ca22be8b05378eb1c71ef320ad746e1d3b628ba79b9859f741e082542a385502f25dbf55296c3a545e3872760ab7,
    0x3617de4a96262c6f5d9e98bf9292dc29f8f41dbd289a147ce9da3113b5f0b8c00a60b1ce1d7e819d7a431d7c90ea0e5f)

/-- The power of a residue; the exponent's bits are taken from bit `k` down. -/
def powMod (m a e k : Nat) : Nat :=
  (List.range (k + 1)).foldl (fun x i => let y := x * x % m; if e.testBit (k - i) then y * a % m else y) (1 % m)

/-- The inverse modulo a prime of 384 bits. -/
def invMod (m a : Nat) : Nat := powMod m (a % m) (m - 2) 383

/-- A point of the curve; none is the point at infinity. -/
abbrev EcPoint := Option (Nat × Nat)

/-- The chord or tangent of slope `l` through two points of the line. -/
def ecThird (l x1 y1 x2 : Nat) : EcPoint :=
  let x := (l * l + 2 * p384p - x1 - x2) % p384p
  some (x, (l * (x1 + p384p - x) + p384p - y1) % p384p)

/-- The group law. -/
def ecAdd (a b : EcPoint) : EcPoint :=
  match a, b with
  | none, _ => b
  | _, none => a
  | some (x1, y1), some (x2, y2) =>
    if x1 = x2 then
      if y1 = y2 ∧ y1 ≠ 0 then
        ecThird ((3 * x1 * x1 + p384p - 3) * invMod p384p (2 * y1) % p384p) x1 y1 x2
      else none
    else ecThird ((y2 + p384p - y1) * invMod p384p (x2 + p384p - x1) % p384p) x1 y1 x2

/-- A multiple of a point. -/
def ecMul (k : Nat) (a : EcPoint) : EcPoint :=
  (List.range 384).foldl (fun x i => let y := ecAdd x x; if k.testBit (383 - i) then ecAdd y a else y) none

/-- A point lies on the curve, with its coordinates below p. -/
def ecOn (x y : Nat) : Bool :=
  decide (x < p384p) && decide (y < p384p) && decide (y * y % p384p = (x * x * x + (p384p - 3) * x + p384b) % p384p)

/-- ECDSA: the signature (r, s) over a message of hash `z` verifies under the key (x, y). -/
def ecdsaOk (x y z r s : Nat) : Bool :=
  ecOn x y && decide (0 < r ∧ r < p384n) && decide (0 < s ∧ s < p384n) &&
    let w := invMod p384n s
    match ecAdd (ecMul (z * w % p384n) (some p384G)) (ecMul (r * w % p384n) (some (x, y))) with
    | some (px, _) => decide (px % p384n = r)
    | none => false

end Sys2Proof.Machine
end

