-- ==== Sys2Proof/Machine/Arm.lean ====
section
/-!
DEFINITION. The Armature: halts, the boot ROM, restarts, Ready, and the mailbox handshakes (R413 to R425).
-/
namespace Sys2Proof.Machine
open Sys2Proof

/-! Halts (R414). -/

/-- The pair halts: ARM.DIV_INFO records the unit and the program counter. -/
def armStop (s : State) (m : ArmMode) (id unit : Nat) (pc : BitVec 48) : State :=
  if s.arm.mode = .running then
    let s := setReg s rArmDivInfo (packFields [(56, unit), (0, pc.toNat)])
    armHalt (evd s id (if id = 992 then BitVec.ofNat 32 unit :: detail64 pc.toNat else [])) m
  else s

def execArmDiverge (unit : Fin 3) (pc : BitVec 48) (s : State) : Host.Outcome State Fault Refusal :=
  ok (armStop s .diverged 992 (unit.val + 1) pc)

/-- ARM_TCM_ERR: an uncorrectable TCM word halts the pair; a corrected one is counted. -/
def execArmTcmErr (uncorr : Bool) (pc : BitVec 48) (s : State) : Host.Outcome State Fault Refusal :=
  ok (if uncorr then armStop s .tcmError 993 4 pc else cntInc s rArmTcmCeCnt)

def execFwHalt (code : Word32) (s : State) : Host.Outcome State Fault Refusal := ok (fwHalt s code)

/-! Images (R416, R417). -/

/-- `n` bytes of an image from an offset. -/
def imgPart (bs : List Byte) (off n : Nat) : List Byte := (bs.drop off).take n

/-- A little-endian number of an image. -/
def imgNum (bs : List Byte) (off n : Nat) : Nat := leNum (imgPart bs off n)

/-- Component `k`: type, offset, length. -/
def imgComp (bs : List Byte) (k : Nat) : Nat × Nat × Nat :=
  (imgNum bs (64 + 64 * k) 4, imgNum bs (68 + 64 * k) 4, imgNum bs (72 + 64 * k) 4)

/-- The digest of component `k` in the header. -/
def imgDigest (bs : List Byte) (k : Nat) : BitVec 384 := BitVec.ofNat 384 (imgNum bs (80 + 64 * k) 48)

/-- The six components by number. -/
def imgComps : List Nat := List.range 6

/-- The header fields match R416. -/
def imgHeader (bs : List Byte) : Bool :=
  let len := imgNum bs 8 4
  decide (imgNum bs 0 4 = 0x4E424F46) && decide (imgNum bs 4 2 = 1) && decide (imgNum bs 6 2 = 6)
    && decide (640 ≤ len) && decide (len ≤ 2 ^ 22) && decide (imgNum bs 12 2 ≤ 64) && decide (imgNum bs 14 2 = 0)
    && decide (imgNum bs 20 44 = 0)
    && imgComps.all fun k =>
      let (t, off, n) := imgComp bs k
      decide (imgNum bs (76 + 64 * k) 4 = 0) && decide (1 ≤ t ∧ t ≤ 6)
        && (imgComps.all fun j => decide (j = k) || decide ((imgComp bs j).1 ≠ t))
        && decide (640 ≤ off) && decide (off + n ≤ len) && (if t = 1 then decide (n ≤ 786432) else decide (96 ≤ n))

/-- ARM.IKEY_HASH of a slot. -/
def ikeyHash (s : State) (k : Nat) : BitVec 384 :=
  if k = 0 then Config.factoryKeyHash
  else BitVec.ofNat 384 ((List.range 6).map fun w => (getReg s (rArmIkeyHash w k)).toNat * 2 ^ (64 * w)).sum

/-- A slot is programmed and not revoked (ARM.IKEY_STATE). -/
def ikeyLive (s : State) (k : Nat) : Bool := rbit s rArmIkeyState k && !rbit s rArmIkeyState (k + 4)

/-- The slot whose hash is that of the image public key. -/
def imgSlot (s : State) (bs : List Byte) : Option Nat :=
  let h := sha384 (imgPart bs 448 96)
  (List.range 4).find? fun k => ikeyLive s k && decide (ikeyHash s k = h)

/-- A SHA-384 as the number ECDSA signs: the first byte is the most significant. -/
def digestNum (d : BitVec 384) : Nat :=
  (List.range 48).foldl (fun z i => z * 256 + fieldOf d (8 * i + 7) (8 * i)) 0

/-- The signature of a microcode component over the rest of it. -/
def ucodeSigned (bs : List Byte) (off n : Nat) : Bool :=
  let z := digestNum (sha384 (imgPart bs off (n - 96)))
  ecdsaOk (fieldOf Config.ucodeKey 383 0) (fieldOf Config.ucodeKey 767 384) z (imgNum bs (off + n - 96) 48)
    (imgNum bs (off + n - 48) 48)

/-- The check of R417: the boot_err, 0 where the image is accepted. -/
def imgCheck (s : State) (bs : List Byte) : Nat :=
  if !imgHeader bs then 2
  else if (imgSlot s bs).isNone then 3
  else if !ecdsaOk (imgNum bs 448 48) (imgNum bs 496 48) (digestNum (sha384 (imgPart bs 0 448))) (imgNum bs 544 48)
      (imgNum bs 592 48) then 4
  else if imgComps.any fun k =>
      let (_, off, n) := imgComp bs k
      decide (sha384 (imgPart bs off n) ≠ imgDigest bs k) then 5
  else if imgComps.any fun k =>
      let (t, off, n) := imgComp bs k
      decide (t ≠ 1) && !ucodeSigned bs off n then 7
  else if imgNum bs 12 2 < fld s rArmSvn 6 0 then 6
  else 0

/-- What an image says of itself: the digests of types 2 to 6. -/
def imgInfo (s : State) (bs : List Byte) : ImgInfo :=
  { svn := imgNum bs 12 2, ver := BitVec.ofNat 32 (imgNum bs 16 4), slot := (imgSlot s bs).getD 0
    ucode := (List.range 5).map fun t => match imgComps.find? fun k => (imgComp bs k).1 = t + 2 with
      | some k => imgDigest bs k
      | none => 0 }

/-! The boot ROM (R419 to R422). -/

/-- Some populated channel is retained; a channel without DIMMs never is. -/
def anyRetained (s : State) : Bool := allChans.any fun c => (chan s c).keep.retained

/-- BOOT_ROM_START: after a reset the boot ROM enables the sideband buses (R226) and requests the first block (R419). -/
def bootStart (s : State) : State :=
  if s.arm.mode = .bootRom ∧ s.arm.boot.isNone ∧ s.pwr.rst.isNone then
    let why : ArmWhy := if anyRetained s then .warm else .cold
    let un := bitsOf 16 fun i => !(chan s (chanNo i)).keep.retained
    modArm (busEnable (busEnable s 0) 1) fun a => { a with
      tcm := false, why := why, unret := BitVec.ofNat 16 un, boot := some ⟨why, 1, 0, [], false, s.beat.fclk⟩ }
  else s

def execBootRomStart (s : State) : Host.Outcome State Fault Refusal := ok (bootStart s)

/-- The boot fails: the pair halts (R421). -/
def bootFail (s : State) (n : Nat) : State :=
  evd (armHalt (modArm s fun a => { a with bootErr := n, boot := none }) .bootFailed) 994 (detail32 n)

/-- The firmware starts (R420 step 2, R422). -/
def fwStart (s : State) (b : BootRun) (info : ImgInfo) : State :=
  let why : ArmWhy :=
    if b.why = .resume ∧ !isReady s then
      (if s.arm.why = .cold ∨ s.arm.why = .warm then s.arm.why else if anyRetained s then .warm else .cold)
    else b.why
  let s := modArm s fun a => { a with
    mode := .running, why := why, bootErr := 0, boot := none, img := some info, tcm := true }
  let s := maskNote (setReg s rArmFwVer (info.ver.setWidth 64)) 19
  if b.restart then evd (cntInc s rArmRestartCnt) 995 (detail32 (whyNo why))
  else modFw s fun f => { FwSt.reset with mbx := f.mbx, rr := f.rr, pprs := f.pprs }

/-- The image is whole: it is checked, and at the end of the last pass loaded. -/
def bootWhole (s : State) (b : BootRun) (bs : List Byte) : State :=
  let n := imgCheck s bs
  let info := imgInfo s bs
  let differs : Bool := b.restart && s.arm.img.any fun i => decide (i.ucode ≠ info.ucode)
  if n ≠ 0 then bootFail s n
  else if differs then bootFail s 8
  else if b.restart ∧ b.pass = 1 then modArm s fun a => { a with boot := some { b with pass := 2, block := 0, bytes := [], asked := s.beat.fclk } }
  else fwStart s b info

/-- ARM.IMG_REQ.done: the block in the window is taken (R419). -/
def imgBlock (s : State) : State :=
  match s.arm.boot with
  | none => s
  | some b =>
    let bs := b.bytes ++ (List.range 32768).map fun i => smGet 0 s.arm.win i
    let len := imgNum bs 8 4
    if !imgHeader bs then bootFail s 2
    else if len ≤ bs.length then bootWhole s b (bs.take len)
    else modArm s fun a => { a with boot := some { b with block := b.block + 1, bytes := bs, asked := s.beat.fclk } }

def execImgBlockDone (s : State) : Host.Outcome State Fault Refusal := ok (imgBlock s)

/-- done has not been written within 100 ms of a request; a request of this FCLK has just begun (R22). -/
def imgTimeout (s : State) : State :=
  match s.arm.boot with
  | some b => if b.asked = s.beat.fclk then s else bootFail s 1
  | none => s

def execImgFetchTimeout (s : State) : Host.Outcome State Fault Refusal := ok (imgTimeout s)

/-- A restart begins (R422). -/
def armBoot (s : State) (why : ArmWhy) : State :=
  armHalt (modArm s fun a => { a with boot := some ⟨why, 1, 0, [], true, s.beat.fclk⟩ }) .bootRom

/-- ARM.CTL.restart. -/
def armRestart (s : State) : State :=
  match s.arm.mode with
  | .diverged | .tcmError | .halted | .bootFailed => armBoot s .resume
  | _ => s

def execArmRestart (s : State) : Host.Outcome State Fault Refusal := ok (armRestart s)

/-- ARM.CTL.update, by MID 0x800. -/
def armUpdate (s : State) : State := if s.arm.mode = .running then armBoot s .update else s

def execArmUpdate (s : State) : Host.Outcome State Fault Refusal := ok (armUpdate s)

/-! Ready (R420 step 9, R327 orders 7 and 8). -/

/-- A request of the Armature requester, waiting for admission. -/
def armReq (s : State) (op : MemOp) (a : Nat) (mask : LineMask) (data : LineData) (poison : Bool) : State :=
  let r : Req :=
    { rid := s.adm.nextRid, src := 19, eng := 0, op := op, addr := BitVec.ofNat 48 a, mask := mask, data := data
      hasData := true, poison := poison, mid := 0x800, qos := 0, rt := false, lock := false, lockEnd := false, pool := 0
      dest := .drop, kind := .access, since := none }
  { s with adm := { s.adm with wait := s.adm.wait ++ [{ r with pool := poolOf s r }], nextRid := s.adm.nextRid + 1 } }

/-- The lending entries of a table, where it reads. -/
def replayLends (s : State) (n : Nat) : Option (List LineData) → State
  | none => s
  | some ls => forEach (List.range n) s fun s k =>
      armReq s .wrLine (listNum ls (72 * k) 8) (BitVec.allOnes 64) (BitVec.ofNat 512 (listNum ls (72 * k + 8) 64)) false

/-- One forwarded entry: its kind in its low three bits. -/
def replayFwd (s : State) (w a : Nat) (mask : BitVec 64) (data : LineData) : State :=
  match w % 8 with
  | 0 => if mask = BitVec.allOnes 64 then armReq s .wrLine a mask data false else armReq s .wrPart a mask data false
  | 2 => armReq s .wrLine a (BitVec.allOnes 64) data true
  | 3 => armReq s .trim a 0 0 false
  | _ => s

/-- The forwarded entries of a table, where it reads. -/
def replayFwds (s : State) (n : Nat) : Option (List LineData) → State
  | none => s
  | some ls => forEach (List.range n) s fun s k =>
      replayFwd s (listNum ls (80 * k) 8) (listNum ls (80 * k) 8 / 64 % 2 ^ 42 * 64) (BitVec.ofNat 64 (listNum ls (80 * k + 8) 8))
        (BitVec.ofNat 512 (listNum ls (80 * k + 16) 64))

/-- The replay of the lending and forwarded entries of a sealed Cure Record. -/
def cureReplay (s : State) (hd : List LineData) : State :=
  let lend := min 32768 (listNum hd 44 4)
  let fwd := min 4096 (listNum hd 48 4)
  let s := replayLends s lend (tableLines s (cureBase s) 135168 72 lend)
  replayFwds s fwd (tableLines s (cureBase s) 2494464 80 fwd)

/-- Case (b) of R327: the written lines of the pending panels are written back, but those on a fenced channel. -/
def writeBack (s : State) (ps : List Nat) : State :=
  forEach ps s fun s p => forEach (List.range 1024) s fun s n =>
    let a := p * 65536 + 64 * n
    if lineBlank s a then s
    else
      match dasOf s a with
      | none => s
      | some _ => match readNow s a with
        | some (some d) => armReq s .wrLine a (BitVec.allOnes 64) d false
        | _ => s

/-- What firmware does in declaring Ready: the replays of a warm start and the fences of the channels whose contents were not
retained (R420 step 4), or the Configuration Record of a cold one. -/
def readyFw (s : State) : State :=
  if startWarm s then
    match cureHead s with
    | none => s
    | some h =>
      let caseB : Bool := decide (listNum h 32 4 / 2 ^ 28 % 2 = 0) && decide (listNum h 36 4 ≠ 0)
      let ps := recPending s h
      let s := cureReplay s h
      let s := doIf caseB (fun s => writeBack s ps) s
      let s := sealClear s
      forEach ((popChans s).filter fun c => s.arm.unret.getLsbD c.val) s fenceCmd
  else if startCold s then confWrite s
  else s

/-- The scrub interval of R256 for the default pass time of 24 h, in each channel whose interval has not been set
(log entry 98). -/
def scrubDefault (s : State) : State :=
  let ns := 86400 * 10 ^ 9 / sliceCount s
  if 1000 ≤ ns ∧ ns < 2 ^ 32 then
    forEach (popChans s) s fun s c =>
      if fld s (rScrInterval c.val) 31 0 = 1000000 then setFld s (rScrInterval c.val) 31 0 ns else s
  else s

/-- ARM.CTL.ready written 1 by MID 0x800. -/
def armReady (s : State) : State :=
  if s.arm.mode = .running ∧ !isReady s then
    let s := if geomSet s then scrubDefault (readyFw s) else s
    let s := ev (setFld s rArmCtl 31 31 1) 996
    let s := modFw s fun f => { f with waitMir := false }
    forEach (List.finRange 4) (forEach (List.finRange 8) s portUpTry) segTry
  else s

def execArmReady (s : State) : Host.Outcome State Fault Refusal := ok (armReady s)

/-! Mailbox handshakes (R423, R425). -/

def mbx (s : State) (m : Fin 4) : Mbx := s.fw.mbx[m]

def modMbx (s : State) (m : Fin 4) (f : Mbx → Mbx) : State :=
  modFw s fun x => { x with mbx := x.mbx.set m (f x.mbx[m]) }

/-- MBX.DOORBELL.ring. -/
def mbxRing (s : State) (m : Fin 4) : State :=
  match (mbx s m).mode with
  | .idle | .done => ev (modMbx s m fun b => { b with mode := .pending }) (998 + m.val)
  | .pending | .busy => evd (modMbx s m fun b => { b with overrun := true }) 1006 (detail32 m.val)

def execMbxRing (m : Fin 4) (s : State) : Host.Outcome State Fault Refusal := ok (mbxRing s m)

/-- MBX.DOORBELL.ack: in DONE, but not in the FCLK in which DONE was entered. -/
def mbxAck (s : State) (m : Fin 4) : State :=
  if (mbx s m).mode = .done ∧ (mbx s m).doneAt ≠ s.beat.fclk then modMbx s m fun b => { b with mode := .idle } else s

def execMbxAck (m : Fin 4) (s : State) : Host.Outcome State Fault Refusal := ok (mbxAck s m)

/-- A write of MBX.DOORBELL. -/
def doorbell (s : State) (m : Fin 4) (ring ack : Bool) : State :=
  if ring then mbxRing s m else if ack then mbxAck s m else s

/-- A write of word `k` of MBX.REQ: ignored in PENDING and BUSY. -/
def mbxReqWrite (s : State) (m : Fin 4) (k : Nat) (v : Word32) : State :=
  match (mbx s m).mode with
  | .idle | .done => modMbx s m fun b => { b with
      req := (List.range 4).foldl (fun q i => smSet 0 q (4 * k + i) ((v >>> (8 * i)).setWidth 8)) b.req }
  | .pending | .busy => s

/-- A write of word `k` of ARM.IMG_WIN. -/
def imgWinWrite (s : State) (k : Nat) (v : Word32) : State :=
  modArm s fun a => { a with
    win := (List.range 4).foldl (fun q i => smSet 0 q (4 * k + i) ((v >>> (8 * i)).setWidth 8)) a.win }

/-- The mailbox served next in round-robin order. -/
def mbxNext (s : State) : Option (Fin 4) :=
  ((List.range 4).map fun k => Fin.ofNat 4 (s.fw.rr.val + 1 + k)).find? fun m => decide ((mbx s m).mode = .pending)

/-- Firmware takes a request: the buffer is zeroed behind it (R423). -/
def mbxTake (s : State) : State :=
  if s.arm.mode ≠ .running then s
  else
    match mbxNext s with
    | none => s
    | some m =>
      let bs := (List.range 256).map fun i => smGet 0 (mbx s m).req i
      let s := modMbx s m fun b => { b with
        mode := .busy, req := [], cur := some bs, step := 0, ans := none, tag := BitVec.ofNat 8 (imgNum bs 2 1) }
      cntInc (modFw s fun f => { f with rr := m }) (rMbxCmdCnt m.val)

def execMbxTake (s : State) : Host.Outcome State Fault Refusal := ok (mbxTake s)

/-- Firmware writes the response. -/
def mbxRespond (s : State) (m : Fin 4) : State :=
  let b := mbx s m
  match s.arm.mode, b.mode, b.ans with
  | .running, .busy, some bs =>
    let rsp := bs.zipIdx.foldl (fun q x => smSet 0 q x.2 x.1) []
    ev (modMbx s m fun b => { b with mode := .done, rsp := rsp, ans := none, doneAt := s.beat.fclk }) (1002 + m.val)
  | _, _, _ => s

def execMbxRespond (m : Fin 4) (s : State) : Host.Outcome State Fault Refusal := ok (mbxRespond s m)

end Sys2Proof.Machine
end

