-- ==== Sys2Proof/Machine/Commit.lean ====
section
/-!
DEFINITION. Commit groups, the Beat unit, and the counter snapshot (R31 to R35, R143, R146, R172, R178, R276, R309, R339,
R456 to R461).
-/
namespace Sys2Proof.Machine
open Sys2Proof

def modCsr (s : State) (f : CsrSt → CsrSt) : State := { s with csr := f s.csr }

/-- The commit group of a register; TOP.FWG lies in G8 to G15 by its first index. -/
def groupOf (h : RegHit) : Option Nat := if h.desc.base = 0x100 then some (8 + h.j) else h.desc.group

/-- The registers of a group that its shadow differs in, with their new values. -/
def shadowOf (s : State) (g : Nat) : List (RegHit × Word64) :=
  s.csr.shadow.filterMap fun e =>
    match regFind e.1, e.2 with
    | some h, some v => if groupOf h = some g then
        let m := accBits .rws h.desc
        some (h, (getReg s h.ref &&& ~~~ m) ||| (v &&& m)) else none
    | _, _ => none

/-- New values put into force. -/
def takeShadow (s : State) (xs : List (RegHit × Word64)) : State := xs.foldl (fun s x => setReg s x.1.ref x.2) s

/-- No field of a value is reserved. -/
def noReserved (h : RegHit) (v : Word64) : Bool :=
  h.desc.fields.all fun f => decide (f.min ≤ fieldOf v f.hi f.lo) && decide (fieldOf v f.hi f.lo ≤ f.max)

/-- The commit checks of SCH.WDRAIN (R143) and SCH.URG (R146). -/
def schOk (h : RegHit) (v : Word64) : Bool :=
  match h.desc.base with
  | 0x100004 => decide (fieldOf v 6 0 < fieldOf v 22 16) && decide (fieldOf v 22 16 ≤ 96)
  | 0x100008 => decide (1 ≤ fieldOf v 6 0) && decide (fieldOf v 6 0 ≤ fieldOf v 14 8)
      && decide (fieldOf v 14 8 ≤ fieldOf v 22 16) && decide (fieldOf v 22 16 ≤ 100)
  | _ => true

/-- G1: a register that fails its check keeps its value. The flag tells a refusal. -/
def applySch (s : State) (xs : List (RegHit × Word64)) : State × Bool :=
  let bad := xs.filter fun x => !schOk x.1 x.2
  let s := takeShadow s (xs.filter fun x => schOk x.1 x.2)
  (forEach bad s fun s x => ev s (chEv (hitChan x.1) 4), !bad.isEmpty)

/-- The base of every enabled descriptor is below its end (R276). -/
def rgnOk (s : State) : Bool :=
  (List.range 63).all fun i => !rbit s (rVnrRgnA i) 63 || decide (fld s (rVnrRgnA i) 47 12 < fld s (rVnrRgnB i) 47 12)

/-- G2. -/
def applyVnr (s : State) (xs : List (RegHit × Word64)) : State × Bool :=
  let new := takeShadow s xs
  if rgnOk new && xs.all fun x => noReserved x.1 x.2 then (overUpd new, false) else (ev s 712, true)

/-- G3 of a channel (R172, R178). -/
def applyRef (s : State) (c : Fin 16) (xs : List (RegHit × Word64)) : State × Bool :=
  let new := takeShadow s xs
  match refCommitErr new c with
  | some n => (evd (refErr s c n) (chEv c 14) (detail32 n), true)
  | none =>
    let g := fld new (rRefCfg c.val) 1 0
    (modRef new c fun r => { r with
      gen := r.gen + 1, granNext := if g = r.gran ∨ r.first then none else some g }, false)

/-- G3: each populated channel by itself. -/
def applyRefs (s : State) (xs : List (RegHit × Word64)) : State × Bool :=
  (popChans s).foldl (fun (x : State × Bool) c =>
    let (s, b) := applyRef x.1 c (xs.filter fun y => hitChan y.1 = c)
    (s, x.2 || b)) (s, false)

/-- G4: a cast_pct below 25 is refused alone (R309). -/
def applyCur (s : State) (xs : List (RegHit × Word64)) : State × Bool :=
  let old := fld s rCurCfg 14 8
  let new := takeShadow s xs
  if fld new rCurCfg 14 8 < 25 then (ev (setFld new rCurCfg 14 8 old) 784, true) else (new, false)

/-- G5 (R339). -/
def applyTir (s : State) (xs : List (RegHit × Word64)) : State × Bool :=
  let new := takeShadow s xs
  let m := fieldMask 63 63 ||| fieldMask 47 32 ||| fieldMask 31 19
  let held : Bool := (List.finRange 32).any fun j =>
    decide (0 < s.tier.nbrs[j].use) && decide (getReg new (rTirNbr j.val) &&& m ≠ getReg s (rTirNbr j.val) &&& m)
  if fld new rTirThresh 15 0 < fld new rTirThresh 31 16 && !held && xs.all fun x => noReserved x.1 x.2 then
    let s := forEach (List.finRange 32) new nbrUpdate
    (frameLowUpd (modTier s fun t => { t with handOff := false }), false)
  else (ev s 851, true)

/-- A FLT.CFG value passes its apply (R473): no fence outside the channel sources, a window, and no RP bit. -/
def fltOk (h : RegHit) (v : Word64) : Bool :=
  decide (h.desc.base ≠ 0x20000)
    || ((decide (192 ≤ h.i ∧ h.i ≤ 703) || !(bitOf v 2 || bitOf v 7 || bitOf v 12))
      && decide (fieldOf v 55 40 ≠ 0) && decide (v &&& rpBits h.desc = 0))

/-- The window record of a source whose threshold or window an apply changes (R471). -/
def winRestart (n : Nat) (w : WinRec) : WinRec :=
  { count := 0, run := 0, level := if w.level = .serious ∧ n = 0 then .normal else w.level }

/-- G6: a FLT.CFG that fails its check keeps its value; a new threshold or window restarts the source's count. -/
def applyFlt (s : State) (xs : List (RegHit × Word64)) : State × Bool :=
  let good := xs.filter fun x => fltOk x.1 x.2
  let moved := good.filter fun x => decide (x.1.desc.base = 0x20000)
    && decide (fieldOf x.2 63 40 ≠ fieldOf (getReg s x.1.ref) 63 40)
  let s := forEach moved (takeShadow s good) fun s x =>
    { s with evt := { s.evt with
      win := smSet WinRec.empty s.evt.win x.1.i (winRestart (fieldOf x.2 63 56) (winOf s x.1.i)) } }
  (s, xs.any fun x => !fltOk x.1 x.2)

/-- One group applies: the state, and whether a check failed. -/
def applyGroup (s : State) (g : Nat) : State × Bool :=
  let xs := shadowOf s g
  let (s, bad) := match g with
    | 1 => applySch s xs
    | 2 => applyVnr s xs
    | 3 => applyRefs s xs
    | 4 => applyCur s xs
    | 5 => applyTir s xs
    | 6 => applyFlt s xs
    | _ => (takeShadow s xs, false)
  let mine (off : Nat) : Bool := (regFind off).any fun h => decide (groupOf h = some g)
  (modCsr s fun c => { c with
    shadow := c.shadow.filter fun e => !mine e.1
    grpPend := c.grpPend &&& ~~~ ((1 : BitVec 16) <<< g) }, bad)

/-- The groups of a mask. -/
def maskGroups (m : BitVec 16) : List Nat := (List.range 16).filter fun g => m.getLsbD g

/-- The groups of a mask apply at one edge (R457). -/
def commitApply (s : State) (m : BitVec 16) : State :=
  let (s, bad) := (maskGroups m).foldl (fun (x : State × BitVec 16) g =>
    let (s, b) := applyGroup x.1 g
    (s, if b then x.2 ||| ((1 : BitVec 16) <<< g) else x.2)) (s, (0 : BitVec 16))
  let s := setReg s rTopCommitLast (packFields [(16, bad.toNat), (0, m.toNat)])
  let s := setReg s rTopCommitBeat (BitVec.ofNat 64 (beatNs s))
  evd (cntInc s rTopCommitCnt) 5 [m.setWidth 32, bad.setWidth 32]

/-- COMMIT_REFUSED with its reason and mask (R459). -/
def commitRefuse (s : State) (reason : Nat) (m : BitVec 16) : State :=
  evd (cntInc s rTopRefuseCnt) 6 [BitVec.ofNat 32 reason, m.setWidth 32]

/-- A group has a scheduled commit. -/
def isSched (s : State) (g : Nat) : Bool := (smGet none s.csr.sched g).isSome

/-- TOP.COMMIT with at = 0. -/
def commitNow (s : State) (m : BitVec 16) : State :=
  if m = 0 then s
  else if (maskGroups m).any (isSched s) then commitRefuse s 1 m
  else commitApply s m

def execCommitNow (mask : BitVec 16) (s : State) : Host.Outcome State Fault Refusal := ok (commitNow s mask)

/-- TOP.COMMIT with at = 1: a Beat already passed applies at once (R458). -/
def commitSchedule (s : State) (m : BitVec 16) : State :=
  if m = 0 then s
  else if (maskGroups m).any (isSched s) then commitRefuse s 1 m
  else
    let b := getReg s rTopCommitAt
    if s.beat.valid ∧ b.toNat ≤ beatNs s then commitApply s m
    else modCsr s fun c => { c with sched := (maskGroups m).foldl (fun x g => smSet none x g (some b)) c.sched }

def execCommitSchedule (mask : BitVec 16) (s : State) : Host.Outcome State Fault Refusal := ok (commitSchedule s mask)

/-- TOP.COMMIT with cancel = 1. -/
def commitCancel (s : State) (m : BitVec 16) : State :=
  if (maskGroups m).all (isSched s) then
    modCsr s fun c => { c with sched := (maskGroups m).foldl (fun x g => smSet none x g none) c.sched }
  else commitRefuse s 3 m

def execCommitCancel (mask : BitVec 16) (s : State) : Host.Outcome State Fault Refusal := ok (commitCancel s mask)

/-- The earliest scheduled Beat that has been reached. -/
def schedDue (s : State) : Option Nat :=
  if s.beat.valid then
    ((s.csr.sched.filterMap fun e => e.2.map BitVec.toNat).filter fun b => b ≤ beatNs s).min?
  else none

/-- COMMIT_APPLIED: the groups of the earliest Beat reached apply at one edge. -/
def commitDue (s : State) : State :=
  match schedDue s with
  | none => s
  | some b =>
    let gs := s.csr.sched.filterMap fun e => if e.2.map BitVec.toNat = some b then some e.1 else none
    let m : BitVec 16 := gs.foldl (fun m g => m ||| ((1 : BitVec 16) <<< g)) 0
    commitApply (modCsr s fun c => { c with sched := gs.foldl (fun x g => smSet none x g none) c.sched }) m

def execCommitApplied (s : State) : Host.Outcome State Fault Refusal := ok (commitDue s)

/-! The Beat (R31 to R35). -/

def modBeat (s : State) (f : BeatSt → BeatSt) : State := { s with beat := f s.beat }

/-- The forecast of every populated channel has changed (R185). -/
def genAll (s : State) : State := forEach (popChans s) s fun s c => modRef s c fun r => { r with gen := r.gen + 1 }

/-- The Beat of a step of a jig. -/
def stepBeat (s : State) (e : Fin 4) (k : Option Nat) : Option Nat :=
  k.bind fun k => (s.tier.jigs[e].steps[k]?).map fun x => x.dl

/-- The earliest work of those whose Beat has been reached: a commit, a late jig step, or an Unpin step (R33). -/
def firstDue (s : State) : Option (State → State) :=
  let jigs := (List.finRange 4).flatMap fun e =>
    [(stepBeat s e (lateStep s e), fun s => jigLate s e), (stepBeat s e (unpinStep s e), fun s => jigUnpin s e)]
  ((((schedDue s, commitDue) :: jigs).foldl (fun (best : Option (Nat × (State → State))) x =>
    match x.1, best with
    | some b, some y => if b < y.1 then some (b, x.2) else best
    | some b, none => some (b, x.2)
    | none, _ => best) none)).map Prod.snd

/-- Work with a single deadline that a step has passed, in Beat order (R33). -/
def deadlines (s : State) : State :=
  let n := 16 + ((List.finRange 4).map fun e => 2 * s.tier.jigs[e].steps.length).sum
  forEach (List.range n) s fun s _ => match firstDue s with
    | some f => f s
    | none => s

/-- The counting windows in progress end (R33, R242, R470). -/
def windowsEnd (s : State) : State :=
  let s := forEach (s.evt.win.map Prod.fst) s fun s src => faultWindowEnd s src
  forEach (popChans s) s fun s c => ceWindowEnd s c

/-- A signed difference in ns as TOP.BEAT_STATUS.diff shows it. -/
def diffSat (d : Int) : BitVec 16 := BitVec.ofInt 16 (max (-32767) (min 32767 d))

/-- Free-run is entered: the Beat advances with every FCLK (R34). -/
def freerunEnter (s : State) : State := genAll (ev (modBeat s fun b => { b with freerun := true, holdFor := 0 }) 2)

/-- Free-run is left. -/
def freerunLeave (s : State) : State :=
  if s.beat.freerun then ev (modBeat s fun b => { b with freerun := false }) 3 else s

/-- A pulse is accepted: the 16 µs of R34 count from it. -/
def syncMark (s : State) : State := modBeat s fun b => { b with sync := b.half }

/-- Slots that start before the Beat are stepped over (R33). -/
def slotsSkip (s : State) : State := forEach (popChans s) s fun s c => modRef s c fun r => { r with since := beatNs s }

/-- BEAT_SYNC: a pulse is sampled (R32, R34, R35). -/
def beatSync (s : State) (v : Word64) : State :=
  if s.pwr.rst.isSome then s
  else
    let half := 2 * v.toNat
    let d : Int := (half : Int) - (s.beat.half : Int)
    let s := modBeat s fun b => { b with diff := diffSat ((v.toNat : Int) - ((b.half / 2 : Nat) : Int)) }
    if !s.beat.valid then
      slotsSkip (genAll (syncMark (modBeat s fun b => { b with half := half, valid := true, holdFor := 0 })))
    else if d < -2048 then
      let s := ev s 1
      if s.beat.freerun then s else freerunEnter s
    else
      let s := if d < -4 then modBeat s fun b => { b with holdFor := (-d).toNat }
        else if d ≤ 4 then s
        else
          let s := cntInc (modBeat s fun b => { b with half := half, holdFor := 0 }) rTopBeatStepCnt
          let s := if 2048 < d then evd s 0 (detail64 ((d / 2).toNat)) else s
          deadlines (windowsEnd (slotsSkip (genAll s)))
      freerunLeave (syncMark s)

def execBeatSync (v : Word64) (s : State) : Host.Outcome State Fault Refusal := ok (beatSync s v)

/-- More than 16 µs have passed since the last accepted pulse, or, with the Beat invalid, since reset release (R34, R35). -/
def freerunDue (s : State) : Bool :=
  s.pwr.rst.isNone && !s.beat.freerun
    && (if s.beat.valid then decide (s.beat.sync + 32000 < s.beat.half) else decide (32000 < s.beat.fclk))

/-- BEAT_FREERUN: no pulse for 16 µs. A Beat that was invalid starts at 0. -/
def beatFreerun (s : State) : State :=
  if freerunDue s then
    if s.beat.valid then freerunEnter s
    else slotsSkip (freerunEnter (modBeat s fun b => { b with half := 0, valid := true, sync := 0 }))
  else s

def execBeatFreerun (s : State) : Host.Outcome State Fault Refusal := ok (beatFreerun s)

/-! Snapshot and counters (R460, R461). -/

/-- The index of a CNT register; a channel's counters follow those of the channel before. -/
def cntIndex (h : RegHit) : Option Nat :=
  h.desc.cnt.map fun x => if 0x100000 ≤ h.desc.base then x.1 + 64 * (hitChan h).val else x.1 + x.2 * h.i

/-- The CNT registers that are not 0, with their indexes. -/
def counters (s : State) : List (Nat × Word64) :=
  s.csr.val.filterMap fun e => ((regFind e.1).bind cntIndex).map fun i => (i, e.2)

/-- TOP.SNAPSHOT.go. -/
def snapshot (s : State) : State :=
  let hold := (counters s).foldl (fun m e => smSet 0 m e.1 e.2) []
  let s := modCsr s fun c => { c with holdReg := hold }
  let s := setFld s rTopSnapStatus 15 0 (fld s rTopSnapStatus 15 0 + 1)
  cntInc (setReg s rTopSnapBeat (BitVec.ofNat 64 (beatNs s))) rTopSnapCnt

def execTopSnapshot (s : State) : Host.Outcome State Fault Refusal := ok (snapshot s)

/-- TOP.CNT_CLR.go. -/
def cntClear (s : State) : State :=
  modCsr s fun c => { c with val := c.val.filter fun e => ((regFind e.1).bind cntIndex).isNone }

def execCntClr (s : State) : Host.Outcome State Fault Refusal := ok (cntClear s)

end Sys2Proof.Machine
end

