-- ==== Sys2Proof/Machine/Registers.lean ====
section
/-!
DEFINITION. Register accesses: the access types, the triggers of every register, the register port and the latches of 64-bit
registers (R18 to R21, R166, R446 to R459).
-/
namespace Sys2Proof.Machine
open Sys2Proof

/-! Writes by access type (R451, R452, R455). -/

/-- The register acts: a channel that is not populated has registers without effect (R447). -/
def regActs (s : State) (h : RegHit) : Bool :=
  decide (h.desc.base < 0x100000) || decide ((hitChan h).val < chanCount s)

/-- The lock of a register's LK fields is closed. -/
def lkClosed (s : State) (h : RegHit) : Bool :=
  match h.desc.base with
  | 0x4 => isReady s
  | _ => bitOf (getReg s h.ref) 31

/-- A MAP register. -/
def isMap (h : RegHit) : Bool := decide (0x50000 ≤ h.desc.base) && decide (h.desc.base < 0x60000)

/-- MAP.CFG.decode_lock (R105). -/
def decodeLock (s : State) : Bool := rbit s rMapCfg 31

/-- The bits that a write may not change: OTP fields, LK fields whose lock is closed, and the MAP RWH fields under
decode_lock. INL.ENTRY answers for itself (R259). -/
def lockedBits (s : State) (h : RegHit) : Word64 :=
  let lk := if h.desc.base ≠ 0x108000 ∧ lkClosed s h then accBits .lk h.desc else 0
  let mapRwh := if isMap h ∧ decodeLock s then accBits .rwh h.desc else 0
  accBits .otp h.desc ||| lk ||| mapRwh

/-- RP_CHANGED (R452). -/
def rpChanged (s : State) (h : RegHit) (mid : BitVec 12) : State :=
  let s := setReg s rTopRpInfo (packFields [(63, 1), (48, mid.toNat), (0, h.ref.off)])
  evo s 7 [BitVec.ofNat 32 h.ref.off, BitVec.ofNat 32 mid.toNat] { EvtOrigin.none with mid := mid }

/-- The RWH fields of a register can be written: the channel, or for SCH.SPEED and the MAP registers the device, is HELD
(R166, R167). -/
def heldFor (s : State) (h : RegHit) : Bool :=
  if h.desc.base < 0x100000 ∨ h.desc.base = 0x100100 then decide (devState s = 2) else decide ((chan s (hitChan h)).sch.hold = .held)

/-- Registers whose RWS fields keep a reserved value until the checks of their commit see it (R172, R276, R339, R143, R146, R473). -/
def rawShadow (h : RegHit) : Bool :=
  groupOf h = some 2 || groupOf h = some 5
    || decide (h.desc.base = 0x100004) || decide (h.desc.base = 0x100008) || decide (h.desc.base = 0x100404) || decide (h.desc.base = 0x20000)

/-- The RWS fields: into the group's shadow, or refused while the group is scheduled (R457, R459). -/
def writeRws (s : State) (h : RegHit) (v : Word64) : State :=
  let m := accBits .rws h.desc
  match groupOf h with
  | none => s
  | some g =>
    if m = 0 then s
    else if isSched s g then commitRefuse s 2 ((1 : BitVec 16) <<< g)
    else
      let old := (smGet none s.csr.shadow h.ref.off).getD (getReg s h.ref)
      let w := if rawShadow h then v else keepReserved h.desc old v
      let w := if h.desc.base = 0x70000 ∧ fieldOf v 14 8 < 25 then putField w 14 8 (fieldOf v 14 8) else w
      modCsr s fun c => { c with
        shadow := smSet none c.shadow h.ref.off (some ((old &&& ~~~ m) ||| (w &&& m)))
        grpPend := c.grpPend ||| ((1 : BitVec 16) <<< g) }

/-- The RWH fields: pending while HELD, ignored otherwise; an SCH register then raises CFG_REFUSED (R166, R170). -/
def writeRwh (s : State) (h : RegHit) (v : Word64) : State :=
  let m := accBits .rwh h.desc
  if m = 0 ∨ (isMap h ∧ decodeLock s) then s
  else if heldFor s h then
    let old := (smGet none s.csr.pendH h.ref.off).getD (getReg s h.ref)
    let w := if h.desc.base = 0x50004 then v else keepReserved h.desc old v
    modCsr s fun c => { c with pendH := smSet none c.pendH h.ref.off (some ((old &&& ~~~ m) ||| (w &&& m))) }
  else if 0x100000 ≤ h.desc.base ∧ h.desc.base < 0x100400 then ev s (chEv (hitChan h) 4)
  else s

/-- Registers that their triggers write. -/
def ownWrite (h : RegHit) : Bool :=
  [0x7000C, 0x80300, 0x80308, 0x80600, 0x90800, 0x90010, 0x40014, 0x60000, 0x102010, 0x108000, 0x101200, 0xA8000,
    0xA0000].contains h.desc.base

/-- The RW fields and the open LK fields take the value at once. -/
def writeRw (s : State) (h : RegHit) (v : Word64) : State :=
  let lk := if lkClosed s h then 0 else accBits .lk h.desc
  let m := accBits .rw h.desc ||| lk
  if m = 0 ∨ ownWrite h then s
  else
    let old := getReg s h.ref
    setReg s h.ref ((old &&& ~~~ m) ||| (keepReserved h.desc old v &&& m))

/-! Triggers. -/

/-- The RW fields of a register that takes them only here. -/
def storeRw (s : State) (h : RegHit) (v : Word64) : State :=
  let m := accBits .rw h.desc
  let old := getReg s h.ref
  setReg s h.ref ((old &&& ~~~ m) ||| (keepReserved h.desc old v &&& m))

/-- TOP, EVT, FLT and JRN registers. -/
def trigTop (s : State) (mid : BitVec 12) (h : RegHit) (v : Word64) : State :=
  match h.desc.base with
  | 0x28 =>
    let m : BitVec 16 := v.setWidth 16
    if bitOf v 17 then commitCancel s m else if bitOf v 16 then commitSchedule s m else commitNow s m
  | 0x40 => doIf (bitOf v 1) devRelease (doIf (bitOf v 0) devHold s)
  | 0x48 => doIf (bitOf v 0) snapshot s
  | 0x58 => doIf (bitOf v 0) cntClear s
  | 0x10000 => sqAck s h.i (v.setWidth 32)
  | 0x11100 => forEach ((List.range 32).filter fun k => bitOf v k && evtUsed (32 * h.i + k)) s fun s k =>
      evtForce s (32 * h.i + k) mid
  | 0x22014 => doIf (bitOf v 0) (fun s => fecClr s h.i) s
  | 0x22500 => levelClr s (bitOf v 31) (bitOf v 30) (fieldOf v 9 0)
  | 0x22504 => doIf (bitOf v 1) foClr (doIf (bitOf v 0) sevClr s)
  | 0x30020 => doIf (bitOf v 1) jrnClear (doIf (bitOf v 0) jrnFlush s)
  | _ => s

/-- ADM, FRP, MAP, VNR and CUR registers. -/
def trigMid (s : State) (mid : BitVec 12) (h : RegHit) (v : Word64) : State :=
  match h.desc.base with
  | 0x40014 => if noReserved h v then storeRw s h v else s
  | 0x40020 => doIf (bitOf v 0) hwClr s
  | 0x48000 => frpCtlEffect s (Fin.ofNat 8 h.i)
  | 0x50078 => doIf (bitOf v 2) bcmdPcInv (doIf (bitOf v 1) bcmdRebuild (doIf (bitOf v 0) bcmdInit s))
  | 0x60000 => vnrCtlEn s (bitOf v 0)
  | 0x60030 =>
    if bitOf v 31 then
      match fieldOf v 2 0 with
      | 1 => ropCmd s .clean
      | 2 => ropCmd s .cleanInv
      | 3 => ropCmd s .inv
      | 4 => ropCmd s .unpin
      | _ => ropRefuse s
    else s
  | 0x7000C =>
    let s := staleSideWrite s (bitOf v 8)
    doIf (bitOf v 1) curDegrade (doIf (bitOf v 0) curAttach s)
  | 0x70010 =>
    if bitOf v 31 then
      let c : Fin 16 := Fin.ofNat 16 (fieldOf v 3 0)
      match fieldOf v 5 4 with
      | 0 => fenceCmd s c
      | 1 => unfence s c false
      | 2 => unfence s c true
      | _ => s
    else s
  | 0x70030 => epochSet s mid (v.setWidth 32)
  | _ => s

/-- TIR.GRANT_A (R352). -/
def grantAWrite (s : State) (g : Fin 32) (v : Word64) : State :=
  let s := if grantOn s g then (if bitOf v 63 then grantHold s g (bitOf v 61) else grantDisable s g)
    else if bitOf v 63 then grantEnable s g v
    else setReg s (rTirGrantA g.val) (packFields [(61, fieldOf v 61 61), (32, fieldOf v 47 32), (0, fieldOf v 27 0)])
  doIf (bitOf v 60) (fun s => grantReload s g) s

/-- TIR registers. -/
def trigTir (s : State) (h : RegHit) (v : Word64) (env : RegEnv) : State :=
  match h.desc.base with
  | 0x80028 => doIf (bitOf v 63) (fun s => moveCmd s v) s
  | 0x80030 => doIf (bitOf v 31) (fun s => reclaimCmd s (Fin.ofNat 32 (fieldOf v 4 0)) env.far env.frames) s
  | 0x80034 => doIf (bitOf v 31) frameCmd s
  | 0x80300 => grantAWrite s (Fin.ofNat 32 h.i) v
  | 0x80308 => if grantOn s (Fin.ofNat 32 h.i) then s else storeRw s h v
  | 0x80600 => if s.tier.jigs[Fin.ofNat 4 h.i].busy then s else storeRw s h v
  | 0x80608 =>
    let e : Fin 4 := Fin.ofNat 4 h.i
    doIf (bitOf v 31) (fun s => jigGo s e env.far) (doIf (bitOf v 30) (fun s => jigStop s e) s)
  | _ => s

/-- TEN registers. -/
def trigTen (s : State) (h : RegHit) (v : Word64) : State :=
  match h.desc.base with
  | 0x90010 => segCtl s (Fin.ofNat 4 h.i) (bitOf v 0)
  | 0x90800 => ringAWrite s (Fin.ofNat 32 h.i) v
  | 0x91040 => modTen s fun t => { t with
      keyGot := t.keyGot ||| ((1 : BitVec 4) <<< h.i)
      keyVal := (t.keyVal &&& ~~~ ((0xFFFF_FFFF_FFFF_FFFF : BitVec 256) <<< (64 * h.i))) ||| (v.setWidth 256 <<< (64 * h.i)) }
  | 0x91068 =>
    if bitOf v 31 then
      match fieldOf v 3 0 with
      | 1 => connOpen s
      | 2 => connClose s
      | 3 => keyInstall s
      | 4 => keySwitch s
      | 5 => keyRetire s
      | 6 => connErrCmd s
      | 7 => connQuery s
      | _ => s
    else s
  | 0x91120 =>
    if bitOf v 31 then
      match fieldOf v 1 0 with
      | 1 => rkeyCreate s
      | 2 => rkeyRevoke s
      | 3 => rkeyQuery s
      | _ => s
    else s
  | _ => s

/-- ARM, MBX and PWR registers. -/
def trigArm (s : State) (mid : BitVec 12) (h : RegHit) (v : Word64) : State :=
  match h.desc.base with
  | 0xA0000 =>
    let s := doIf (bitOf v 0 && decide (mid = 0xFFF)) armRestart s
    let s := doIf (bitOf v 31 && decide (mid = 0x800)) armReady s
    doIf (bitOf v 1 && decide (mid = 0x800)) armUpdate s
  | 0xA0008 => doIf (bitOf v 30) imgBlock s
  | 0xA8000 => imgWinWrite s h.i (v.setWidth 32)
  | 0xA1000 => mbxReqWrite s (Fin.ofNat 4 h.j) h.i (v.setWidth 32)
  | 0xA1200 => doorbell s (Fin.ofNat 4 h.i) (bitOf v 0) (bitOf v 1)
  | 0xB0000 =>
    if bitOf v 31 then
      match fieldOf v 1 0 with
      | 0 => stateCmd s .active
      | 1 => stateCmd s .powerDown
      | 2 => stateCmd s .selfRefresh
      | _ => stateCmd s .off
    else s
  | _ => s

/-- CODE.MARK: each slot of the pair by its valid bit (R241). -/
def codeMark (s : State) (c : Fin 16) (i : Nat) (v : Word64) : State :=
  let slot (s : State) (k : Nat) : State :=
    if bitOf v (8 * k + 7) then markWrite s c i k (fieldOf v (8 * k + 3) (8 * k)) else markClear s c i k
  slot (slot s 0) 1

/-- SBI.CFG: the bus fields act in CH0 and CH8 alone (R231). -/
def sbiCfg (s : State) (c : Fin 16) (h : RegHit) (v : Word64) : State :=
  if c.val = 0 ∨ c.val = 8 then storeRw s h v
  else storeRw s h (v &&& ~~~ fieldMask 4 0)

/-- Channel registers. -/
def trigChan (s : State) (mid : BitVec 12) (h : RegHit) (v : Word64) : State :=
  let c := hitChan h
  match h.desc.base with
  | 0x100200 => doIf (bitOf v 1) (fun s => chHoldRelease s c) (doIf (bitOf v 0) (fun s => chHold s c) s)
  | 0x101008 =>
    if bitOf v 0 then
      match fieldOf v 2 1 with
      | 0 => trainGo s c .cold
      | 1 => trainGo s c .warm
      | 2 => trainGo s c .retrain
      | _ => s
    else s
  | 0x101184 =>
    let s := doIf (bitOf v 0) (fun s => takeback s c) s
    let s := doIf (bitOf v 1) (fun s => handover s c) s
    doIf (bitOf v 3) (fun s => clrLost s c) (doIf (bitOf v 2) (fun s => discard s c) s)
  | 0x101200 => sbiCfg s c h v
  | 0x101204 => sbTransfer s c (v.setWidth 32)
  | 0x102010 => codeMark s c h.i v
  | 0x102330 => doIf (bitOf v 0) (fun s => diagGo s c (fieldOf v 3 2)) s
  | 0x102560 => doIf (bitOf v 0) (fun s => rawAccess s c (bitOf v 1)) s
  | 0x102608 => doIf (bitOf v 63) (fun s => inlCopy s c v) s
  | 0x102610 => doIf (bitOf v 63) (fun s => inlPpr s c v) s
  | 0x108000 => inlWrite s c h.i mid v
  | _ => s

/-- What a write does beyond its fields' values. -/
def trigger (s : State) (mid : BitVec 12) (h : RegHit) (v : Word64) (env : RegEnv) : State :=
  let b := h.desc.base
  if b < 0x40000 then trigTop s mid h v
  else if b < 0x80000 then trigMid s mid h v
  else if b < 0x90000 then trigTir s h v env
  else if b < 0xA0000 then trigTen s h v
  else if b < 0x100000 then trigArm s mid h v
  else trigChan s mid h v

/-- A write of a whole register by a master. -/
def regWrite (s : State) (mid : BitVec 12) (h : RegHit) (v : Word64) (env : RegEnv) : State :=
  if regActs s h then
    let cur := regValue s h
    let v := if h.desc.wide then v else v &&& 0xFFFF_FFFF
    let rp := rpBits h.desc
    let diff := v ^^^ cur
    let s := doIf (decide (diff &&& lockedBits s h ≠ 0)) (fun s => lockViolation s h.ref.off mid) s
    let moved : Bool := decide (diff &&& rp ≠ 0)
    let s := doIf moved (fun s => rpChanged s h mid) s
    let s := writeRw (writeRwh (writeRws s h v) h v) h v
    let s := trigger s mid h v env
    doIf moved (fun s => setReg s h.ref ((getReg s h.ref &&& ~~~ rp) ||| (v &&& rp))) s
  else s

/-- REGISTER_WRITE: one access of a master that writes 64-bit registers whole; an offset of a high word writes it with the
current low word (R450). -/
def regWriteAt (s : State) (mid : BitVec 12) (off : Nat) (v : Word64) (env : RegEnv) : State :=
  match regFind off with
  | none => s
  | some h =>
    if h.high then regWrite s mid h ((v <<< 32) ||| (regValue s h &&& 0xFFFF_FFFF)) env else regWrite s mid h v env

def execRegisterWrite (mid : BitVec 12) (off : BitVec 24) (v : Word64) (env : RegEnv) (s : State) :
    Host.Outcome State Fault Refusal :=
  ok (regWriteAt s mid off.toNat v env)

/-- What a register write reads where its effect reads nothing of the world. -/
def noEnv : RegEnv := { far := [], frames := [], bad := 0 }

def execFrpCtlWrite (p : Fin 8) (mid : BitVec 12) (v : Word32) (s : State) : Host.Outcome State Fault Refusal :=
  ok (regWriteAt s mid (rFrpCtl p.val).off (v.setWidth 64) noEnv)

def execSbTransfer (c : Fin 16) (mid : BitVec 12) (v : Word32) (s : State) : Host.Outcome State Fault Refusal :=
  ok (regWriteAt s mid (rSbiCmd c.val).off (v.setWidth 64) noEnv)

/-! Reads (R451, R453). -/

/-- RC bits are cleared by the read that returns them. -/
def rcClear (s : State) (h : RegHit) : State :=
  let rc := accBits .rc h.desc
  if rc = 0 then s
  else if h.desc.base = 0xA1204 then modMbx s (Fin.ofNat 4 h.i) fun b => { b with overrun := false }
  else setReg s h.ref (getReg s h.ref &&& ~~~ rc)

/-- A read of a register: its value, and what the read does. -/
def regRead (s : State) (h : RegHit) (bad : Nat) : Word64 × State :=
  if regActs s h = false then (h.ref.rst, s)
  else if h.desc.base = 0x30008 then
    let s := jrnPop s bad
    (s.jrn.tag.setWidth 64, s)
  else (regValue s h, rcClear s h)

/-- RC_READ. -/
def rcRead (s : State) (off : Nat) : State :=
  match regFind off with
  | some h => (regRead s h 0).2
  | none => s

def execRcRead (off : BitVec 24) (s : State) : Host.Outcome State Fault Refusal := ok (rcRead s off.toNat)

/-! Masters that access words (R450). `arm` tells the Armature from the register port. -/

/-- A master's latch and write buffer after an access. -/
def setLat (s : State) (arm : Bool) (lat buf : Option (Nat × Word32)) : State :=
  modCsr s fun c => if arm then { c with armLat := lat, armBuf := buf } else { c with portLat := lat, portBuf := buf }

/-- The high word a low word's read captures. -/
def latchOf (off : Nat) (v : Word64) : Option (Nat × Word32) := some (off, (v >>> 32).setWidth 32)

/-- A word read: none where the offset is unmapped. -/
def wordRead (s : State) (arm : Bool) (off : Nat) (bad : Nat) : Option Word32 × State :=
  let lat := if arm then s.csr.armLat else s.csr.portLat
  let clear (s : State) : State := setLat s arm none none
  match (lat.filter fun l => l.1 + 4 = off), holdIdx off with
  | some l, _ => (some l.2, clear s)
  | none, some i =>
    let v := smGet 0 s.csr.holdReg i
    if off % 8 = 0 then (some (v.setWidth 32), setLat s arm (latchOf off v) none)
    else (some ((v >>> 32).setWidth 32), clear s)
  | none, none =>
    match regFind off with
    | none => (none, clear s)
    | some h =>
      if h.high then (some ((regValue s h >>> 32).setWidth 32), clear s)
      else
        let (v, s) := regRead s h bad
        (some (v.setWidth 32), setLat s arm (if h.desc.wide then latchOf off v else none) none)

/-- A word write: false where the offset is unmapped. -/
def wordWrite (s : State) (arm : Bool) (mid : BitVec 12) (off : Nat) (v : Word32) (env : RegEnv) : Bool × State :=
  let buf := if arm then s.csr.armBuf else s.csr.portBuf
  let clear := setLat s arm none none
  match regFind off, holdIdx off with
  | none, none => (false, clear)
  | none, some _ => (true, clear)
  | some h, _ =>
    if h.high then
      let lo : Word64 := match buf with
        | some b => if b.1 + 4 = off then b.2.setWidth 64 else regValue s h &&& 0xFFFF_FFFF
        | none => regValue s h &&& 0xFFFF_FFFF
      (true, regWrite clear mid h ((v.setWidth 64 <<< 32) ||| lo) env)
    else if h.desc.wide then (true, setLat s arm none (some (off, v)))
    else (true, regWrite clear mid h (v.setWidth 64) env)

/-- A response joins the port's responses, of which at most 4 are outstanding: an access presented while 4 are is accepted
once the chip has taken the oldest (R449). -/
def portRsp (s : State) (r : RegRsp) : State :=
  modCsr s fun c => { c with portRsp := (c.portRsp ++ [r]).drop (c.portRsp.length - 3) }

/-- REG_PORT_ACCESS: an access of the register port; none is accepted while a reset pin is low. -/
def regPort (s : State) (wr : Bool) (off : Nat) (v : Word32) (env : RegEnv) : State :=
  if s.pwr.rst.isSome then s
  else if wr then
    let (good, s) := wordWrite s false 0xFFF off v env
    portRsp s ⟨0, !good⟩
  else
    let (r, s) := wordRead s false off env.bad.val
    portRsp s ⟨r.getD 0, r.isNone⟩

def execRegPortAccess (wr : Bool) (addr : BitVec 22) (v : Word32) (env : RegEnv) (s : State) :
    Host.Outcome State Fault Refusal :=
  ok (regPort s wr (4 * addr.toNat) v env)

end Sys2Proof.Machine
end

