-- ==== Sys2Proof/Machine/Mbx.lean ====
section
/-!
DEFINITION. How firmware carries out a mailbox command (R424, R426, R427), and the device, power and diagnostic commands
(R428, R435 to R437).
-/
namespace Sys2Proof.Machine
open Sys2Proof

/-- What a step of a command leaves: the state, and the status and data answered once there are any. -/
abbrev FwAns := State × Option (Nat × List Byte)

/-- OK with data. -/
def fwOk (s : State) (data : List Byte) : FwAns := (s, some (0, data))

/-- A status without data. -/
def fwNo (s : State) (status : Nat) : FwAns := (s, some (status, []))

/-- Firmware waits for hardware before it answers. -/
def fwWait (s : State) : FwAns := (s, none)

/-- A number of the arguments. -/
def argN (bs : List Byte) (off n : Nat) : Nat := leNum ((bs.drop off).take n)

/-- A field written zero is zero. -/
def argZ (bs : List Byte) (off n : Nat) : Bool := decide (argN bs off n = 0)

/-- The group of a command is permitted on a mailbox (R426). -/
def mbxMay (s : State) (m : Fin 4) (op : Nat) : Bool :=
  if m = 2 then [0x0101, 0x0102, 0x0504, 0x0507].contains op else s.fw.masks[m].getLsbD (op / 256)

/-- The response to a request (R424). -/
def mbxBytes (req : List Byte) (status : Nat) (data : List Byte) : List Byte :=
  req.take 3 ++ [BitVec.ofNat 8 status, BitVec.ofNat 8 data.length, 0, 0, 0] ++ data

/-- A response made. -/
def mbxAnswer (s : State) (m : Fin 4) (req : List Byte) (status : Nat) (data : List Byte) : State :=
  modMbx s m fun b => { b with cur := none, step := 0, ans := some (mbxBytes req status data) }

/-- The request a mailbox has taken, while firmware runs. -/
def mbxCur (s : State) (m : Fin 4) : Option (List Byte) :=
  if s.arm.mode = .running ∧ (mbx s m).mode = .busy then (mbx s m).cur else none

/-- A step of the command `op` taken on a mailbox: DENIED where its group is not permitted, BAD_ARG where the length is not
one of its lengths; then what the command does. -/
def mbxDo (s : State) (m : Fin 4) (op : Nat) (len : Nat → Bool) (f : State → List Byte → FwAns) : State :=
  match mbxCur s m with
  | none => s
  | some req =>
    if argN req 0 2 ≠ op then s
    else if !mbxMay s m op then mbxAnswer s m req 4 []
    else
      let n := argN req 3 1
      if !len n then mbxAnswer s m req 3 []
      else match f s ((req.drop 4).take n) with
        | (s, some a) => mbxAnswer s m req a.1 a.2
        | (s, none) => s

/-- A command with arguments of one length. -/
def mbxCmd (s : State) (m : Fin 4) (op n : Nat) (f : State → List Byte → FwAns) : State :=
  mbxDo s m op (fun k => decide (k = n)) f

/-- Arguments that are not in range, or a zero field that is not zero, answer BAD_ARG. -/
def fwArgs (s : State) (good : Bool) (k : FwAns) : FwAns := if good then k else fwNo s 3

/-! Register accesses of firmware. -/

/-- A register's value as read. -/
def fwGet (s : State) (r : RegRef) : Word64 := ((regFind r.off).map fun h => regValue s h).getD 0

def fwGetN (s : State) (r : RegRef) : Nat := (fwGet s r).toNat

/-- A register written whole by MID 0x800. -/
def fwPut (s : State) (r : RegRef) (v : Word64) : State := regWriteAt s 0x800 r.off v noEnv

/-- Fields of a register written, the others written back as last set. -/
def fwSet (s : State) (r : RegRef) (fs : List (Nat × Nat × Nat)) : State :=
  fwPut s r (fs.foldl (fun v f => putField v f.1 f.2.1 f.2.2) (setting s r))

/-- TOP.COMMIT of a mask, at once or at a Beat. -/
def fwCommit (s : State) (mask at_ : Nat) : State :=
  if at_ = 0 then fwPut s rTopCommit (BitVec.ofNat 64 mask)
  else fwPut (fwPut s rTopCommitAt (BitVec.ofNat 64 at_)) rTopCommit (BitVec.ofNat 64 (65536 + mask))

/-- A command that writes shadows and commits them: BUSY while a group of its mask is scheduled, HW_FAULT where a check of the
commit refuses; then what firmware keeps, and the Configuration Record. -/
def fwCommitCmd (s : State) (mask at_ : Nat) (put after : State → State) : FwAns :=
  let gs := maskGroups (BitVec.ofNat 16 mask)
  if gs.any (isSched s) then fwNo s 1
  else
    let s := fwCommit (put s) mask at_
    if !gs.any (isSched s) && gs.any fun g => rbit s rTopCommitLast (16 + g) then fwNo s 8
    else fwOk (confWrite (after s)) []

/-! Hold-up (R3, R437). -/

/-- The largest Dirty Budget in MiB, at most 128, that a warning in µs permits; none where it permits none. -/
def budgetMax (w : Nat) : Option Nat :=
  ((List.range 129).filter fun b => (60 * 500000 + b * 2 ^ 20 + 499999) / 500000 + 50 ≤ w).getLast?

/-- A budget is within the warning in force. -/
def budgetOk (s : State) (b : Nat) : Bool := (budgetMax s.fw.warn).any fun x => decide (b ≤ x)

/-! Device commands (R428). -/

def identify (s : State) (_ : List Byte) : FwAns :=
  let st := if isReady s then 2 else if s.fw.waitMir then 1 else 0
  let svn := (s.arm.img.map fun i => i.svn).getD 0
  fwOk s (leBytes 2 (deviceId s) ++ leBytes 2 svn ++ leBytes 4 (fwGetN s rArmFwVer) ++ leBytes 1 s.fw.profile
    ++ leBytes 1 st ++ leBytes 2 0)

def execIdentify (m : Fin 4) (s : State) : Host.Outcome State Fault Refusal := ok (mbxCmd s m 0x0101 0 identify)

def getState (s : State) (_ : List Byte) : FwAns :=
  let flags := flag (isReady s) + 2 * flag s.beat.freerun + 4 * flag s.fw.double
  fwOk s (leBytes 8 (beatNs s) ++ leBytes 4 (fwGetN s rCurStatus) ++ leBytes 4 (fwGetN s rCurFenceStatus)
    ++ leBytes 4 (fwGetN s rVnrStatus) ++ leBytes 4 flags)

def execGetState (m : Fin 4) (s : State) : Host.Outcome State Fault Refusal := ok (mbxCmd s m 0x0102 0 getState)

def setDeviceId (s : State) (a : List Byte) : FwAns :=
  let id := argN a 0 2
  fwArgs s (decide (1 ≤ id ∧ id ≤ 0xFFFE))
    (if isReady s then fwNo s 5 else fwOk (confWrite (fwPut s rTopDeviceId (BitVec.ofNat 64 id))) [])

def execSetDeviceId (m : Fin 4) (s : State) : Host.Outcome State Fault Refusal := ok (mbxCmd s m 0x0103 2 setDeviceId)

/-- SET_PROFILE: the settings of R44 in one commit of G1 to G4. -/
def setProfile (s : State) (a : List Byte) : FwAns :=
  let p := argN a 0 1
  fwArgs s (decide (p < 4) && argZ a 1 7)
    (if budgetOk s ([64, 32, 16, 64].getD p 0) then
      fwCommitCmd s 0x1E (argN a 8 8)
        (fun s => (profileFields s p).foldl (fun s f => fwSet s f.1 [(f.2.1, f.2.2.1, f.2.2.2)]) s)
        (fun s => modFw s fun f => { f with profile := p })
    else fwNo s 4)

def execSetProfile (m : Fin 4) (s : State) : Host.Outcome State Fault Refusal := ok (mbxCmd s m 0x0104 16 setProfile)

/-- IMG_UPDATE: the response is written, then ARM.CTL.update. -/
def execImgUpdate (m : Fin 4) (s : State) : Host.Outcome State Fault Refusal :=
  let s' := mbxCmd s m 0x0105 0 fun s _ => fwOk s []
  let go : Bool := (mbxCur s m).any fun req => decide (argN req 0 2 = 0x0105) && mbxMay s m 0x0105 && decide (argN req 3 1 = 0)
  ok (if go then armUpdate (mbxRespond s' m) else s')

/-- SVN_ADVANCE (R418). -/
def svnAdvance (s : State) (a : List Byte) : FwAns :=
  let n := argN a 0 2
  let svn := (s.arm.img.map fun i => i.svn).getD 0
  fwArgs s (decide (n ≤ 64))
    (if svn < n then fwNo s 4
    else
      let s := if fld s rArmSvn 6 0 < n then evd (setFld s rArmSvn 6 0 n) 1007 (detail32 n) else s
      fwOk s (leBytes 2 (fld s rArmSvn 6 0)))

def execSvnAdvance (m : Fin 4) (s : State) : Host.Outcome State Fault Refusal := ok (mbxCmd s m 0x0106 2 svnAdvance)

/-- SET_ACCESS, on mailbox 0 alone. -/
def setAccess (m : Fin 4) (s : State) (a : List Byte) : FwAns :=
  let k := argN a 0 1
  if m ≠ 0 then fwNo s 4
  else fwArgs s ([0, 1, 3].contains k && argZ a 1 1)
    (fwOk (confWrite (modFw s fun f => { f with
      masks := f.masks.set (Fin.ofNat 4 k) (BitVec.ofNat 16 (argN a 2 2)) })) [])

def execSetAccess (m : Fin 4) (s : State) : Host.Outcome State Fault Refusal := ok (mbxCmd s m 0x0107 4 (setAccess m))

/-- IMGKEY_PROGRAM, on mailbox 3 alone, before Ready, into a slot not programmed. -/
def imgkeyProgram (m : Fin 4) (s : State) (a : List Byte) : FwAns :=
  let k := argN a 0 1
  if m ≠ 3 then fwNo s 4
  else fwArgs s (decide (1 ≤ k ∧ k ≤ 3) && argZ a 1 7)
    (if isReady s ∨ rbit s rArmIkeyState k then fwNo s 5
    else
      let s := forEach (List.range 6) s fun s w => setReg s (rArmIkeyHash w k) (BitVec.ofNat 64 (argN a (8 + 8 * w) 8))
      fwOk (setFld s rArmIkeyState k k 1) [])

def execImgkeyProgram (m : Fin 4) (s : State) : Host.Outcome State Fault Refusal :=
  ok (mbxCmd s m 0x0108 56 (imgkeyProgram m))

def imgkeyRevoke (s : State) (a : List Byte) : FwAns :=
  let k := argN a 0 1
  fwArgs s (decide (k < 4))
    (if s.arm.img.any fun i => decide (i.slot = k) then fwNo s 4 else fwOk (setFld s rArmIkeyState (k + 4) (k + 4) 1) [])

def execImgkeyRevoke (m : Fin 4) (s : State) : Host.Outcome State Fault Refusal := ok (mbxCmd s m 0x0109 1 imgkeyRevoke)

/-! Power commands (R435). -/

/-- The largest Dirty Budget as a data byte. -/
def budgetByte (s : State) : List Byte := leBytes 1 ((budgetMax s.fw.warn).getD 0)

def setHoldup (s : State) (a : List Byte) : FwAns :=
  let w := argN a 0 4
  if (budgetMax w).any fun b => decide (fld s rVnrDirty 23 16 ≤ b) then
    let s := modFw s fun f => { f with warn := w }
    fwOk (confWrite s) (budgetByte s)
  else fwNo s 4

def execSetHoldup (m : Fin 4) (s : State) : Host.Outcome State Fault Refusal := ok (mbxCmd s m 0x0801 4 setHoldup)

/-- PWR_STATE. -/
def pwrState (s : State) (a : List Byte) : FwAns :=
  let k := argN a 0 1
  fwArgs s (decide (k < 4))
    (let s := fwPut s rPwrStateCmd (BitVec.ofNat 64 (2 ^ 31 + k))
    if s.pwr.cmdRes = 2 then fwNo s 8 else fwOk s [])

def execPwrStateMbx (m : Fin 4) (s : State) : Host.Outcome State Fault Refusal := ok (mbxCmd s m 0x0802 1 pwrState)

def pwrStatus (s : State) (_ : List Byte) : FwAns :=
  let mask (f : KeepSt → Bool) : Nat := bitsOf 16 fun i => f (chan s (chanNo i)).keep
  fwOk s (leBytes 2 (mask KeepSt.retained) ++ leBytes 2 (mask KeepSt.owner) ++ leBytes 4 s.fw.warn ++ budgetByte s)

def execPwrStatus (m : Fin 4) (s : State) : Host.Outcome State Fault Refusal := ok (mbxCmd s m 0x0803 0 pwrStatus)

/-! Diagnostic commands (R436). -/

/-- REG_READ: a read of an unmapped offset is a bus error, answered HW_FAULT. -/
def regReadCmd (bad : Nat) (s : State) (a : List Byte) : FwAns :=
  let off := argN a 0 4
  let w := argN a 4 1
  fwArgs s (decide (w = 4 ∨ w = 8) && decide (off % w = 0) && decide (off < 2 ^ 24))
    (if w = 4 then
      match wordRead s true off bad with
      | (some v, s) => fwOk s (leBytes 8 v.toNat)
      | (none, s) => fwNo s 8
    else
      let s := setLat s true none none
      match holdIdx off, regFind off with
      | some i, _ => fwOk s (leBytes 8 (smGet 0 s.csr.holdReg i).toNat)
      | none, some h =>
        if h.desc.wide then
          let (v, s) := regRead s h bad
          fwOk s (leBytes 8 v.toNat)
        else fwNo s 3
      | none, none => fwNo s 8)

def execRegRead (m : Fin 4) (bad : Fin 3) (s : State) : Host.Outcome State Fault Refusal :=
  ok (mbxCmd s m 0x0F01 5 (regReadCmd bad.val))

/-- REG_WRITE: DENIED in the ARM block and in TEN.KEY_STAGE. -/
def regWriteCmd (env : RegEnv) (s : State) (a : List Byte) : FwAns :=
  let off := argN a 0 4
  let w := argN a 4 1
  let v := BitVec.ofNat 64 (argN a 8 8)
  fwArgs s (decide (w = 4 ∨ w = 8) && argZ a 5 3 && decide (off % w = 0) && decide (off < 2 ^ 24)
      && (decide (w = 8) || argZ a 12 4))
    (if (0xA0000 ≤ off ∧ off < 0xB0000) ∨ (0x91040 ≤ off ∧ off < 0x91060) then fwNo s 4
    else if w = 4 then
      match wordWrite s true 0x800 off (v.setWidth 32) env with
      | (true, s) => fwOk s []
      | (false, s) => fwNo s 8
    else
      let s := setLat s true none none
      match regFind off, holdIdx off with
      | some h, _ => if h.desc.wide then fwOk (regWrite s 0x800 h v env) [] else fwNo s 3
      | none, some _ => fwOk s []
      | none, none => fwNo s 8)

def execRegWrite (m : Fin 4) (env : RegEnv) (s : State) : Host.Outcome State Fault Refusal :=
  ok (mbxCmd s m 0x0F02 16 (regWriteCmd env))

def eventForce (s : State) (a : List Byte) : FwAns :=
  let n := argN a 0 2
  fwArgs s (evtUsed n) (fwOk (fwPut s (rEvtForce (n / 32)) ((1 : Word64) <<< (n % 32))) [])

def execEventForce (m : Fin 4) (s : State) : Host.Outcome State Fault Refusal := ok (mbxCmd s m 0x0F03 2 eventForce)

/-- JOURNAL_READ: words are popped while there are any; `bads` tells how each reads. -/
def journalRead (bads : List (Fin 3)) (s : State) (a : List Byte) : FwAns :=
  let n := argN a 0 1
  fwArgs s (decide (1 ≤ n ∧ n ≤ 15))
    (let (s, ws) := (List.range n).foldl (fun (x : State × List (BitVec 128)) i =>
      if x.1.jrn.pkts.isEmpty then x
      else
        let s := jrnPop x.1 (bads.getD i 0).val
        (s, x.2 ++ [s.jrn.latch])) (s, [])
    fwOk s (leBytes 1 ws.length ++ leBytes 7 0 ++ ws.flatMap fun w => leBytes 16 w.toNat))

def execJournalRead (m : Fin 4) (bads : List (Fin 3)) (s : State) : Host.Outcome State Fault Refusal :=
  ok (mbxCmd s m 0x0F04 1 (journalRead bads))

def snapshotCmd (s : State) (_ : List Byte) : FwAns :=
  let s := fwPut s rTopSnapshot 1
  fwOk s (leBytes 2 (fld s rTopSnapStatus 15 0))

def execSnapshot (m : Fin 4) (s : State) : Host.Outcome State Fault Refusal := ok (mbxCmd s m 0x0F05 0 snapshotCmd)

def execEcho (m : Fin 4) (s : State) : Host.Outcome State Fault Refusal :=
  ok (mbxDo s m 0x0F06 (fun n => decide (n ≤ 248)) fun s a => fwOk s a)

/-- The reference command set. -/
def mbxOps : List Nat :=
  (List.range 9).map (0x0101 + ·) ++ (List.range 9).map (0x0201 + ·) ++ (List.range 7).map (0x0301 + ·)
    ++ (List.range 4).map (0x0401 + ·) ++ (List.range 8).map (0x0501 + ·) ++ (List.range 10).map (0x0601 + ·)
    ++ (List.range 10).map (0x0701 + ·) ++ (List.range 3).map (0x0801 + ·) ++ (List.range 6).map (0x0F01 + ·)

/-- BAD_OPCODE: a request with an opcode outside the set. -/
def badOpcode (s : State) (m : Fin 4) : State :=
  match mbxCur s m with
  | some req => if mbxOps.contains (argN req 0 2) then s else mbxAnswer s m req 2 []
  | none => s

def execBadOpcode (m : Fin 4) (s : State) : Host.Outcome State Fault Refusal := ok (badOpcode s m)

end Sys2Proof.Machine
end

