-- ==== Sys2Proof/Machine/MbxMem.lean ====
section
/-!
DEFINITION. The memory configuration, integrity and repair, and Veneer commands of the mailboxes (R429 to R431, R438, R442).
-/
namespace Sys2Proof.Machine
open Sys2Proof

/-- A register read by firmware, with what the read does. -/
def fwRead (s : State) (r : RegRef) : Word64 × State :=
  match regFind r.off with
  | some h => regRead s h 0
  | none => (0, s)

/-- A populated channel named by an argument. -/
def argChan (s : State) (n : Nat) : Bool := decide (n < chanCount s)

/-- The steps firmware has made of a command. -/
def fwStep (s : State) (m : Fin 4) (n : Nat) : State := modMbx s m fun b => { b with step := n }

/-! Stop, change, restart (R438). -/

/-- SCH.HOLD_STATUS.last_end and SCH.REL_ERR.check of a channel, as data. -/
def holdData (s : State) (c : Fin 16) : List Byte × State :=
  let (e, s) := fwRead s (rSchRelErr c.val)
  (leBytes 1 (chan s c).sch.lastEnd ++ leBytes 1 (fieldOf e 4 0), s)

/-- A change made while a channel is HELD: the Hold is asked for, the change and the Release are written once the channel is
HELD, and the answer is made once it is back in RUN; HW_FAULT unless the Hold ended in a Release. -/
def holdCmd (s : State) (m : Fin 4) (c : Fin 16) (change : State → State) (ans : List Byte → List Byte) : FwAns :=
  let q := (chan s c).sch
  match (mbx s m).step, q.hold with
  | 0, .run =>
    if devHolding s then fwNo s 5
    else fwWait (fwStep (fwPut (fwRead s (rSchRelErr c.val)).2 (rSchHold c.val) 1) m 1)
  | 0, _ => fwNo s 5
  | 1, .held => fwWait (fwStep (fwPut (change s) (rSchHold c.val) 2) m 2)
  | 2, .run =>
    let (d, s) := holdData s c
    if (chan s c).sch.lastEnd = 1 then fwOk s (ans d) else (s, some (8, d))
  | _, .run =>
    let (d, s) := holdData s c
    (s, some (8, d))
  | _, _ => fwWait s

/-! Memory configuration (R429). -/

def getConfig (s : State) (_ : List Byte) : FwAns :=
  let r4 (r : RegRef) : List Byte := leBytes 4 (fwGetN s r)
  fwOk s (r4 rMapCfg ++ r4 rMapGeom ++ leBytes 4 s.map.das ++ r4 rMapLmsTop ++ r4 rMapRsvBase
    ++ leBytes 1 (fld s (rSchSpeed 0) 3 0) ++ leBytes 1 (chanCount s) ++ leBytes 2 0)

def execGetConfig (m : Fin 4) (s : State) : Host.Outcome State Fault Refusal := ok (mbxCmd s m 0x0201 0 getConfig)

/-- The Reserve of a layout by R102 and R103: rsv_base in 16 MiB units, and the bases of the components in MiB. Firmware data
lies under the excluded rows; the others follow one another from the base of the Reserve. -/
def layout (s : State) (tier : Bool) (top : Nat) : Nat × List Nat :=
  let excl := exclUnits s / 16
  let fwd := (exclUnits s * 65536 - 2 ^ 28) / 2 ^ 20
  let n := if tier then top * 256 else dasUnits s
  let bits (x : Nat) : Nat := roundMiB ((x + 7) / 8) / 2 ^ 20
  let frames (rsv : Nat) : Nat := if tier then bits (rsv * 256) else 0
  let pmap := if tier then (n * 8 + 2 ^ 20 - 1) / 2 ^ 20 else 0
  let sum (rsv : Nat) : Nat := 276 + 2 * bits n + pmap + frames rsv
  let rsv := (excl - sum ((excl - sum (excl / 16)) / 16)) / 16
  let sizes := [bits n, bits n, pmap, frames (excl / 16), 1, 16, 2, 1]
  let bases := (sizes.foldl (fun (x : List Nat × Nat) k => (x.1 ++ [x.2], x.2 + k)) ([], 16 * rsv)).1
  (rsv, bases ++ [fwd])

/-- What SET_LAYOUT writes while the device is HELD. -/
def layoutWrite (s : State) (tier : Bool) (top : Nat) : State :=
  let (rsv, bases) := layout s tier top
  let s := fwSet s rMapCfg [(0, 0, flag tier)]
  let s := fwSet s rMapLmsTop [(22, 0, top)]
  let s := fwSet s rMapRsvBase [(20, 0, rsv)]
  forEach (List.range 9) s fun s i => fwSet s (rMapRb i) [(24, 0, bases.getD i 0)]

/-- SET_LAYOUT under a device Hold: on a cold boot, before Ready. -/
def setLayout (m : Fin 4) (s : State) (a : List Byte) : FwAns :=
  let mode := argN a 0 1
  fwArgs s (decide (mode < 2 ∧ argN a 4 4 < 2 ^ 23) && argZ a 1 3)
    (if isReady s ∨ !startCold s then fwNo s 5
    else match (mbx s m).step, devState s with
      | 0, 0 => fwWait (fwStep (fwPut s rTopHold 1) m 1)
      | 0, _ => fwNo s 5
      | 1, 2 => fwWait (fwStep (fwPut (layoutWrite s (decide (mode = 1)) (argN a 4 4)) rTopHold 2) m 2)
      | _, 0 => if s.devEnd = 1 then fwOk (confWrite s) [] else if s.devEnd = 2 then fwNo s 3 else fwNo s 8
      | _, _ => fwWait s)

def execSetLayout (m : Fin 4) (s : State) : Host.Outcome State Fault Refusal := ok (mbxCmd s m 0x0202 8 (setLayout m))

/-- SET_TIMING under a channel Hold. -/
def setTiming (m : Fin 4) (s : State) (a : List Byte) : FwAns :=
  let c : Fin 16 := Fin.ofNat 16 (argN a 0 1)
  let regs := [rSchTim0 c.val, rSchTim1 c.val, rSchTim2 c.val, rSchTim3 c.val, rSchTim4 c.val, rSchTim5 c.val]
  fwArgs s (argChan s (argN a 0 1) && argZ a 1 3)
    (holdCmd s m c
      (fun s => forEach (regs.zipIdx) s fun s r => fwPut s r.1 (BitVec.ofNat 64 (argN a (4 + 4 * r.2) 4)))
      (fun d => d))

def execSetTiming (m : Fin 4) (s : State) : Host.Outcome State Fault Refusal := ok (mbxCmd s m 0x0203 28 (setTiming m))

/-- SET_REGION: one commit of G2 and G4. -/
def setRegion (s : State) (a : List Byte) : FwAns :=
  let r := argN a 0 1
  let lo := argN a 8 8
  let hi := argN a 16 8
  fwArgs s (decide (r ≤ 62 ∧ argN a 1 1 ≤ 1 ∧ argN a 2 1 ≤ 4 ∧ argN a 3 1 ≤ 3) && argZ a 4 4
      && decide (lo % 4096 = 0 ∧ hi % 4096 = 0 ∧ lo < 2 ^ 48 ∧ hi < 2 ^ 48))
    (fwCommitCmd s 0x14 (argN a 24 8)
      (fun s =>
        let s := fwSet s (rVnrRgnA r) [(63, 63, argN a 1 1), (58, 56, argN a 2 1), (47, 12, lo / 4096)]
        let s := fwSet s (rVnrRgnB r) [(47, 12, hi / 4096)]
        fwSet s (rCurRgnMode (r / 16)) [(2 * (r % 16) + 1, 2 * (r % 16), argN a 3 1)])
      (fun s => s))

def execSetRegion (m : Fin 4) (s : State) : Host.Outcome State Fault Refusal := ok (mbxCmd s m 0x0204 32 setRegion)

def getRegion (s : State) (a : List Byte) : FwAns :=
  let r := argN a 0 1
  fwArgs s (decide (r < 64))
    (fwOk s (leBytes 8 (fwGetN s (rVnrRgnA r)) ++ leBytes 8 (fwGetN s (rVnrRgnB r))
      ++ leBytes 1 (fld s (rCurRgnMode (r / 16)) (2 * (r % 16) + 1) (2 * (r % 16)))))

def execGetRegion (m : Fin 4) (s : State) : Host.Outcome State Fault Refusal := ok (mbxCmd s m 0x0205 1 getRegion)

/-- SET_RANKS (G0). -/
def setRanks (s : State) (a : List Byte) : FwAns :=
  let f (lo n : Nat) : List (Nat × Nat × Nat) :=
    (List.range n).map fun i => (3 * i + 2, 3 * i, argN a (lo + i) 1)
  fwArgs s (((List.range 20).all fun i => decide (argN a i 1 ≤ 7)) && argZ a 20 4)
    (fwCommitCmd s 0x1 (argN a 24 8) (fun s => fwSet (fwSet s rAdmRank0 (f 0 10)) rAdmRank1 (f 10 10)) fun s => s)

def execSetRanks (m : Fin 4) (s : State) : Host.Outcome State Fault Refusal := ok (mbxCmd s m 0x0206 32 setRanks)

/-- SET_QOS: written to every channel (G1). -/
def setQos (s : State) (a : List Byte) : FwAns :=
  let p := argN a 0 1
  fwArgs s (decide (p < 8) && argZ a 1 7)
    (fwCommitCmd s 0x2 (argN a 16 8)
      (fun s => forEach (popChans s) s fun s c => fwPut s (rSchTgtFrp c.val p) (BitVec.ofNat 64 (argN a 8 8)))
      fun s => s)

def execSetQos (m : Fin 4) (s : State) : Host.Outcome State Fault Refusal := ok (mbxCmd s m 0x0207 24 setQos)

/-- GET_FORECAST: read at one edge, so REF.QWF_GEN cannot change during the read (R185). -/
def getForecast (s : State) (a : List Byte) : FwAns :=
  let c := argN a 0 1
  let k := argN a 1 1
  let n := argN a 2 1
  fwArgs s (argChan s c && decide (k ≤ 63 ∧ 1 ≤ n ∧ n ≤ 28 ∧ k + n ≤ 64))
    (fwOk s (leBytes 2 (fwGetN s (rRefQwfGen c)) ++ leBytes 2 n ++ leBytes 4 0
      ++ (List.range n).flatMap fun i => leBytes 8 (fwGetN s (rRefQwf c (k + i)))))

def execGetForecast (m : Fin 4) (s : State) : Host.Outcome State Fault Refusal := ok (mbxCmd s m 0x0208 3 getForecast)

/-- SET_CHOREO: every channel (G3). -/
def setChoreo (s : State) (a : List Byte) : FwAns :=
  fwArgs s (decide (argN a 0 2 ≤ 4095 ∧ argN a 2 1 ≤ 1 ∧ argN a 3 1 ≤ 2) && argZ a 4 4)
    (fwCommitCmd s 0x8 (argN a 8 8)
      (fun s => forEach (popChans s) s fun s c =>
        fwSet (fwSet s (rRefPhase c.val) [(11, 0, argN a 0 2)]) (rRefCfg c.val) [(8, 8, argN a 2 1), (1, 0, argN a 3 1)])
      fun s => s)

def execSetChoreo (m : Fin 4) (s : State) : Host.Outcome State Fault Refusal := ok (mbxCmd s m 0x0209 16 setChoreo)

/-! Integrity and repair (R430). -/

def getHealth (s : State) (a : List Byte) : FwAns :=
  let c := argN a 0 1
  fwArgs s (argChan s c)
    (fwOk s (((List.range 8).flatMap fun i => leBytes 4 (fwGetN s (rCodeMark c i)))
      ++ leBytes 8 (fwGetN s (rCodeCeCnt c)) ++ leBytes 8 (fwGetN s (rCodeUeCnt c))
      ++ leBytes 4 (fwGetN s (rPhyStatus c)) ++ leBytes 4 (fwGetN s (rScrLastPass c))))

def execGetHealth (m : Fin 4) (s : State) : Host.Outcome State Fault Refusal := ok (mbxCmd s m 0x0301 1 getHealth)

/-- SET_MARK: a chip into the free slot of its pair, slot 0 first; HW_FAULT where the write is ignored. -/
def setMarkCmd (s : State) (a : List Byte) : FwAns :=
  let c : Fin 16 := Fin.ofNat 16 (argN a 0 1)
  let i := argN a 1 1 * 2 + argN a 2 1
  fwArgs s (argChan s (argN a 0 1) && decide (argN a 1 1 < 4 ∧ argN a 2 1 < 2 ∧ argN a 3 1 < 10))
    (let slot := if (marksAt s c i).m0.isNone then 0 else 1
    let s' := markWrite s c i slot (argN a 3 1)
    if marksAt s' c i = marksAt s c i then fwNo s' 8 else fwOk s' [])

def execSetMark (m : Fin 4) (s : State) : Host.Outcome State Fault Refusal := ok (mbxCmd s m 0x0302 4 setMarkCmd)

/-- CLEAR_MARK within a channel Hold. -/
def clearMarkCmd (m : Fin 4) (s : State) (a : List Byte) : FwAns :=
  let c : Fin 16 := Fin.ofNat 16 (argN a 0 1)
  fwArgs s (argChan s (argN a 0 1) && decide (argN a 1 1 < 4 ∧ argN a 2 1 < 2 ∧ argN a 3 1 < 2))
    (holdCmd s m c (fun s => markClear s c (argN a 1 1 * 2 + argN a 2 1) (argN a 3 1)) fun _ => [])

def execClearMark (m : Fin 4) (s : State) : Host.Outcome State Fault Refusal := ok (mbxCmd s m 0x0303 4 (clearMarkCmd m))

/-- INLAY_ADD: the lowest free user entry is written. -/
def inlayAdd (s : State) (a : List Byte) : FwAns :=
  let c : Fin 16 := Fin.ofNat 16 (argN a 0 1)
  let e : InlEnt :=
    { valid := true, active := false, copy := decide (argN a 6 1 = 1), sub := argN a 1 1, rank := argN a 2 1, bg := argN a 3 1,
      ba := argN a 4 1, row := argN a 8 4, spare := argN a 5 1 }
  fwArgs s (argChan s (argN a 0 1) && argZ a 7 1
      && decide (e.sub < 2 ∧ e.rank < 32 ∧ e.bg < 8 ∧ e.ba < 4 ∧ e.spare < 16 ∧ argN a 6 1 < 2 ∧ e.row < 2 ^ 18))
    (match (List.range 4096).find? fun i => inlFcount ≤ i && !(smGet InlEnt.none (chan s c).code.inl i).valid with
    | none => fwNo s 6
    | some i =>
      let data (r : Nat) : List Byte := leBytes 2 i ++ leBytes 1 r
      let s' := inlWrite s c i 0x800 (inlVal e)
      match inlReason s c i e with
      | some r => (s', some (8, data r))
      | none => fwOk s' (data 0))

def execInlayAdd (m : Fin 4) (s : State) : Host.Outcome State Fault Refusal := ok (mbxCmd s m 0x0304 12 inlayAdd)

/-- PPR_SCHEDULE: a pending record of the entry's row (R442). -/
def pprSchedule (s : State) (a : List Byte) : FwAns :=
  let c : Fin 16 := Fin.ofNat 16 (argN a 0 1)
  let i := argN a 2 2
  let e := smGet InlEnt.none (chan s c).code.inl i
  fwArgs s (argChan s (argN a 0 1) && argZ a 1 1 && decide (i < 4096))
    (if !e.valid then fwNo s 5
    else if 14335 ≤ s.fw.pprs.length then fwNo s 6
    else
      let r : PprRec :=
        { kind := 1, chan := c, sub := e.sub, rank := e.rank, bg := e.bg, ba := e.ba, idx := i, row := e.row
          beat := BitVec.ofNat 64 (beatNs s) }
      fwOk (pprRecords (modFw s fun f => { f with pprs := f.pprs ++ [r] })) [])

def execPprSchedule (m : Fin 4) (s : State) : Host.Outcome State Fault Refusal := ok (mbxCmd s m 0x0305 4 pprSchedule)

/-- SET_SCRUB: the interval of R256 in each channel. -/
def setScrub (s : State) (a : List Byte) : FwAns :=
  let t := argN a 0 4
  let ns := t * 10 ^ 9 / sliceCount s
  fwArgs s (decide (ns < 2 ^ 32) && (decide (t = 0) || geomSet s))
    (let s := forEach (popChans s) s fun s c =>
      if t = 0 then fwSet s (rScrCfg c.val) [(0, 0, 0)]
      else fwSet (fwSet s (rScrInterval c.val) [(31, 0, ns)]) (rScrCfg c.val) [(0, 0, 1)]
    fwOk s (leBytes 4 (fld s (rScrInterval 0) 31 0)))

def execSetScrub (m : Fin 4) (s : State) : Host.Outcome State Fault Refusal := ok (mbxCmd s m 0x0306 4 setScrub)

/-- DIAG_PASS: a pass started, or with op 0xFF its registers read. -/
def diagPass (s : State) (a : List Byte) : FwAns :=
  let n := argN a 0 1
  let c : Fin 16 := Fin.ofNat 16 n
  let op := argN a 1 1
  let lo := argN a 8 8
  let hi := argN a 16 8
  fwArgs s (argChan s n && argZ a 2 6 && decide (op < 4 ∨ op = 0xFF)
      && decide (lo % 64 = 0 ∧ hi % 64 = 0 ∧ lo < 2 ^ 48 ∧ hi < 2 ^ 48))
    (if op = 0xFF then
      let cmd := fwGetN s (rScrDiagCmd n)
      let (miss, s) := fwRead s (rScrDiagMiss n)
      fwOk s (leBytes 4 cmd ++ leBytes 4 miss.toNat)
    else if (chan s c).code.diag.isSome then fwNo s 1
    else
      let s := fwSet (fwSet s (rScrDiagStart n) [(47, 6, lo / 64)]) (rScrDiagEnd n) [(47, 6, hi / 64)]
      let s := fwPut s (rScrDiagCmd n) (BitVec.ofNat 64 (4 * op + 1))
      if (chan s c).code.diag.isSome || decide ((chan s c).code.diagRes ≠ 2) then fwOk s [] else fwNo s 8)

def execDiagPass (m : Fin 4) (s : State) : Host.Outcome State Fault Refusal := ok (mbxCmd s m 0x0307 24 diagPass)

/-! Veneer (R431). -/

def rangeOp (s : State) (a : List Byte) : FwAns :=
  let op := argN a 0 1
  let lo := argN a 8 8
  let hi := argN a 16 8
  fwArgs s (decide (1 ≤ op ∧ op ≤ 4) && argZ a 1 7 && decide (lo % 64 = 0 ∧ hi % 64 = 0 ∧ lo < 2 ^ 48 ∧ hi < 2 ^ 48))
    (if s.vnr.rop.isSome then fwNo s 1
    else
      let s := fwSet (fwSet s rVnrRopStart [(47, 6, lo / 64)]) rVnrRopEnd [(47, 6, hi / 64)]
      let s := fwPut s rVnrRopCmd (BitVec.ofNat 64 (2 ^ 31 + op))
      if s.vnr.ropRes = 2 then fwNo s 8 else fwOk s [])

def execRangeOp (m : Fin 4) (s : State) : Host.Outcome State Fault Refusal := ok (mbxCmd s m 0x0401 24 rangeOp)

def vnrEnable (s : State) (a : List Byte) : FwAns :=
  let en := argN a 0 1
  fwArgs s (decide (en < 2)) (fwOk (fwPut s rVnrCtl (BitVec.ofNat 64 en)) [])

def execVnrEnable (m : Fin 4) (s : State) : Host.Outcome State Fault Refusal := ok (mbxCmd s m 0x0402 1 vnrEnable)

def vnrStatus (s : State) (_ : List Byte) : FwAns :=
  fwOk s (leBytes 4 (fwGetN s rVnrStatus) ++ leBytes 4 (fwGetN s rVnrRopStatus) ++ leBytes 8 (fwGetN s rVnrRopProg)
    ++ leBytes 4 (fieldOf (fwGet s rVnrDirtyStatus) 21 0) ++ leBytes 4 (fieldOf (fwGet s rVnrPinStatus) 20 0))

def execVnrStatus (m : Fin 4) (s : State) : Host.Outcome State Fault Refusal := ok (mbxCmd s m 0x0403 0 vnrStatus)

/-- SET_DIRTY_BUDGET (G2): the profile becomes Custom. -/
def setDirtyBudget (s : State) (a : List Byte) : FwAns :=
  let b := argN a 0 1
  let pct := argN a 1 1
  fwArgs s (decide (b ≤ 128 ∧ 1 ≤ pct ∧ pct ≤ 100) && argZ a 2 6)
    (if budgetOk s b then
      fwCommitCmd s 0x4 (argN a 8 8) (fun s => fwSet s rVnrDirty [(23, 16, b), (6, 0, pct)])
        (fun s => modFw s fun f => { f with profile := 4 })
    else fwNo s 4)

def execSetDirtyBudget (m : Fin 4) (s : State) : Host.Outcome State Fault Refusal :=
  ok (mbxCmd s m 0x0404 16 setDirtyBudget)

end Sys2Proof.Machine
end

