-- ==== Sys2Proof/Machine/MbxCure.lean ====
section
/-!
DEFINITION. The cure, mirroring, tiering and jig commands of the mailboxes (R432, R433, R440, R443), and the Twin Timeout
(R439).
-/
namespace Sys2Proof.Machine
open Sys2Proof

/-! Cure and mirroring (R432). -/

/-- SET_TWIN: in DETACHED only; the predecessor and the Twin Timeout are firmware's. -/
def setTwin (s : State) (a : List Byte) : FwAns :=
  let us := argN a 4 2
  let ms := argN a 8 4
  fwArgs s (decide (1 ≤ us ∧ 1 ≤ ms ∧ ms ≤ 60000) && argZ a 6 2)
    (if s.cure.mstate ≠ .detached then fwNo s 5
    else
      fwCommitCmd s 0x10 0 (fun s => fwSet s rCurTwin [(31, 16, argN a 0 2), (15, 0, us)])
        (fun s => modFw s fun f => { f with pred := BitVec.ofNat 16 (argN a 2 2), twinMs := ms }))

def execSetTwin (m : Fin 4) (s : State) : Host.Outcome State Fault Refusal := ok (mbxCmd s m 0x0501 12 setTwin)

/-- CUR.CTL written with a trigger, stale_side as it stands. -/
def curCtl (s : State) (v : Nat) : State := fwPut s rCurCtl (BitVec.ofNat 64 (v + 256 * flag s.cure.staleSide))

/-- ATTACH: the outbound mirror connections are OPEN, the state DETACHED or DEGRADED. -/
def attachCmd (s : State) (_ : List Byte) : FwAns :=
  if s.cure.mstate = .attaching then fwNo s 1
  else if !allOutOpen s ∨ (s.cure.mstate ≠ .detached ∧ s.cure.mstate ≠ .degraded) then fwNo s 5
  else
    let s := curCtl s 1
    if s.cure.mstate = .attaching then fwOk s [] else fwNo s 8

def execAttach (m : Fin 4) (s : State) : Host.Outcome State Fault Refusal := ok (mbxCmd s m 0x0502 0 attachCmd)

def degradeCmd (s : State) (_ : List Byte) : FwAns :=
  let s := curCtl s 2
  if s.cure.mstate = .degraded then fwOk s [] else fwNo s 8

def execDegrade (m : Fin 4) (s : State) : Host.Outcome State Fault Refusal := ok (mbxCmd s m 0x0503 0 degradeCmd)

def getCure (s : State) (_ : List Byte) : FwAns :=
  let r4 (r : RegRef) : List Byte := leBytes 4 (fwGetN s r)
  fwOk s (r4 rCurEpoch ++ r4 rCurLocal ++ r4 rCurTwinAck ++ r4 rCurCured ++ r4 rCurStatus ++ r4 rCurPendStatus
    ++ leBytes 8 (fwGetN s rCurRecastProg))

def execGetCure (m : Fin 4) (s : State) : Host.Outcome State Fault Refusal := ok (mbxCmd s m 0x0504 0 getCure)

/-- CUR.FENCE_CMD with its op. -/
def fencePut (s : State) (c op : Nat) : State := fwPut s rCurFenceCmd (BitVec.ofNat 64 (2 ^ 31 + 16 * op + c))

/-- FENCE. -/
def fenceMbx (s : State) (a : List Byte) : FwAns :=
  let c := argN a 0 1
  let op := argN a 1 1
  fwArgs s (argChan s c && decide (op ≤ 2))
    (let s := fencePut s c op
    if s.cure.cmdRes = 2 then fwNo s 8 else fwOk s [])

def execFence (m : Fin 4) (s : State) : Host.Outcome State Fault Refusal := ok (mbxCmd s m 0x0505 2 fenceMbx)

/-- SET_CURE (G4): a cast_pct below 25 is refused by the commit. -/
def setCure (s : State) (a : List Byte) : FwAns :=
  let gbps := argN a 4 1
  fwArgs s (decide (250 ≤ argN a 0 2 ∧ argN a 2 1 ≤ 100 ∧ 1 ≤ argN a 3 1 ∧ argN a 3 1 ≤ 3 ∧ 1 ≤ gbps ∧ gbps ≤ 100)
      && argZ a 5 3)
    (fwCommitCmd s 0x10 (argN a 8 8)
      (fun s => fwSet (fwSet s rCurCfg [(31, 16, argN a 0 2), (14, 8, argN a 2 1), (1, 0, argN a 3 1)]) rCurRecastCfg
        [(6, 0, gbps)])
      fun s => s)

def execSetCure (m : Fin 4) (s : State) : Host.Outcome State Fault Refusal := ok (mbxCmd s m 0x0506 16 setCure)

/-- BLANK_LINE_GET. -/
def blankLineGet (s : State) (a : List Byte) : FwAns :=
  let x := argN a 0 8
  fwArgs s (decide (x < lmsTop s)) (fwOk s (leBytes 64 (bitsLine s.map.blank (panelOf x / 512 * 512)).toNat))

def execBlankLineGet (m : Fin 4) (s : State) : Host.Outcome State Fault Refusal := ok (mbxCmd s m 0x0507 8 blankLineGet)

/-- MAP_REPAIR of a Blank Map line (R440): a TRIM of every panel the twin holds blank and the local map does not. -/
def blankRepair (s : State) (x : Nat) (line : LineData) : State :=
  let p := panelOf x / 512 * 512
  forEach (List.range 512) s fun s i =>
    if line.getLsbD i ∧ !fmGet s.map.blank (p + i) ∧ (p + i) * 65536 < lmsTop s then armReq s .trim ((p + i) * 65536) 0 0 false
    else s

/-- MAP_REPAIR of a Placement Map line: its channel is fenced, and unfenced with unfence-stale once its sweep is done. -/
def placeRepair (m : Fin 4) (s : State) (x : Nat) : FwAns :=
  let c := chanOf s (compBase s 2 + panelOf x / 8 * 64)
  if (mbx s m).step = 0 then
    if s.cure.mstate ≠ .mirrored then fwNo s 5
    else
      let s := fencePut s c.val 0
      if s.cure.cmdRes = 2 then fwNo s 8 else fwWait (fwStep s m 1)
  else if s.cure.sweep[c] then fwWait s
  else
    let s := fencePut s c.val 1
    if s.cure.cmdRes = 2 then fwNo s 8 else fwOk s []

def mapRepair (m : Fin 4) (s : State) (a : List Byte) : FwAns :=
  let k := argN a 0 1
  let x := argN a 8 8
  fwArgs s (decide ((k = 0 ∧ a.length = 80) ∨ (k = 1 ∧ a.length = 16)) && argZ a 1 7 && decide (x < lmsTop s))
    (if k = 0 then fwOk (blankRepair s x (BitVec.ofNat 512 (argN a 16 64))) [] else placeRepair m s x)

def execMapRepair (m : Fin 4) (s : State) : Host.Outcome State Fault Refusal :=
  ok (mbxDo s m 0x0508 (fun n => decide (n = 80 ∨ n = 16)) (mapRepair m))

/-- TWIN_TIMEOUT (R439): CUR.CTL.degrade; a refusal sets the double-fault flag. -/
def twinTimeout (s : State) : State :=
  if s.arm.mode = .running ∧ s.cure.mstate = .stalled then
    let s := curCtl s 2
    if s.cure.mstate = .degraded then s else modFw s fun f => { f with double := true }
  else s

def execTwinTimeout (s : State) : Host.Outcome State Fault Refusal := ok (twinTimeout s)

/-! Tiering and jig lists (R433). -/

/-- SET_TIER (G5). -/
def setTier (s : State) (a : List Byte) : FwAns :=
  let b := argN a 0 1
  let gbps := argN a 1 1
  fwArgs s (decide (b < 4 ∧ 1 ≤ gbps ∧ gbps ≤ 200 ∧ 1 ≤ argN a 2 2 ∧ 1 ≤ argN a 8 2 ∧ argN a 10 1 ≤ 15 ∧ argN a 11 1 ≤ 15
      ∧ argN a 12 4 < 2 ^ 28))
    (fwCommitCmd s 0x20 (argN a 16 8)
      (fun s =>
        let s := fwSet s rTirCtl [(31, 31, b % 2), (30, 30, b / 2), (7, 0, gbps)]
        let s := fwSet s rTirNlb [(15, 0, argN a 2 2)]
        let s := fwSet s rTirThresh [(31, 16, argN a 4 2), (15, 0, argN a 6 2)]
        let s := fwSet s rTirHeatCfg [(31, 16, argN a 8 2), (7, 4, argN a 11 1), (3, 0, argN a 10 1)]
        fwSet s rTirFrameFloor [(27, 0, argN a 12 4)])
      fun s => s)

def execSetTier (m : Fin 4) (s : State) : Host.Outcome State Fault Refusal := ok (mbxCmd s m 0x0601 24 setTier)

/-- SET_NEIGHBOUR (G5): an entry is enabled while its 8 lending connections are OPEN. -/
def setNeighbour (s : State) (a : List Byte) : FwAns :=
  let j := argN a 0 1
  let en := argN a 1 1
  let base := argN a 4 2
  fwArgs s (decide (j < 32 ∧ en < 2 ∧ base < 8192) && argZ a 6 2)
    (if en = 1 ∧ !(List.range 8).all fun k => decide ((connOf s (8 * base + k)).mode = .opened) then fwNo s 5
    else fwCommitCmd s 0x20 (argN a 8 8)
      (fun s => fwSet s (rTirNbr j) [(63, 63, en), (47, 32, argN a 2 2), (31, 19, base)]) fun s => s)

def execSetNeighbour (m : Fin 4) (s : State) : Host.Outcome State Fault Refusal := ok (mbxCmd s m 0x0602 16 setNeighbour)

/-- TIR.GRANT_A written with its hold bit, en as it stands. -/
def grantHoldPut (s : State) (g : Fin 32) (hold : Bool) : State :=
  fwPut s (rTirGrantA g.val) (putField (putField (setting s (rTirGrantA g.val)) 63 63 (flag (grantOn s g))) 61 61 (flag hold))

/-- SET_GRANT: GRANT_B before GRANT_A. -/
def setGrant (s : State) (a : List Byte) : FwAns :=
  let g : Fin 32 := Fin.ofNat 32 (argN a 0 1)
  let op := argN a 1 1
  let free (s : State) : FwAns := fwOk (confWrite s) (leBytes 4 s.tier.grantFree[g])
  fwArgs s (decide (argN a 0 1 < 32 ∧ op ≤ 3 ∧ argN a 4 4 < 2 ^ 28 ∧ argN a 8 4 < 2 ^ 28))
    (match op with
    | 0 =>
      let s := fwPut s (rTirGrantA g.val) (putField (setting s (rTirGrantA g.val)) 63 63 0)
      if grantOn s g then fwNo s 8 else free s
    | 1 =>
      let s := fwSet s (rTirGrantB g.val) [(27, 0, argN a 8 4)]
      let s := fwPut s (rTirGrantA g.val) (packFields [(63, 1), (32, argN a 2 2), (0, argN a 4 4)])
      if grantOn s g then free s else fwNo s 8
    | 2 => free (grantHoldPut s g true)
    | _ => free (grantHoldPut s g false))

def execSetGrant (m : Fin 4) (s : State) : Host.Outcome State Fault Refusal := ok (mbxCmd s m 0x0603 12 setGrant)

/-- MOVE: TIR.MOVE_CMD. -/
def moveMbx (s : State) (a : List Byte) : FwAns :=
  let n := argN a 1 1
  fwArgs s (decide (argN a 0 1 ≤ 1 ∧ (n < 32 ∨ n = 255)) && argZ a 2 2)
    (let s := fwPut s rTirMoveCmd
      (packFields [(63, 1), (59, argN a 0 1), (48, if n = 255 then 0 else n), (47, flag (decide (n = 255))), (0, argN a 4 4)])
    if s.tier.moveRes = 2 then fwNo s 8 else fwOk s [])

def execMove (m : Fin 4) (s : State) : Host.Outcome State Fault Refusal := ok (mbxCmd s m 0x0604 8 moveMbx)

/-- JIG_START; `far` as in JIG_GO. -/
def jigStart (far : List (Nat × LineData)) (s : State) (a : List Byte) : FwAns :=
  let e : Fin 4 := Fin.ofNat 4 (argN a 0 1)
  let x := argN a 8 8
  fwArgs s (decide (argN a 0 1 < 4 ∧ x % 64 = 0 ∧ x < 2 ^ 48) && argZ a 1 7)
    (if s.tier.jigs[e].busy then fwNo s 1
    else
      let s := fwPut s (rTirJigAddr e.val) (BitVec.ofNat 64 x)
      fwOk (regWriteAt s 0x800 (rTirJigCmd e.val).off (BitVec.ofNat 64 (2 ^ 31)) { noEnv with far := far }) [])

def execJigStart (m : Fin 4) (far : List (Nat × LineData)) (s : State) : Host.Outcome State Fault Refusal :=
  ok (mbxCmd s m 0x0605 16 (jigStart far))

def jigStatus (s : State) (a : List Byte) : FwAns :=
  let e := argN a 0 1
  fwArgs s (decide (e < 4)) (fwOk s (leBytes 4 (fwGetN s (rTirJigCmd e)) ++ leBytes 4 (fwGetN s (rTirJigLate e))))

def execJigStatus (m : Fin 4) (s : State) : Host.Outcome State Fault Refusal := ok (mbxCmd s m 0x0606 1 jigStatus)

/-- RECLAIM; `twin` and `frames` as in RECLAIM_CMD. -/
def reclaimMbx (twin : List (Nat × LineData)) (frames : List Nat) (s : State) (a : List Byte) : FwAns :=
  let j := argN a 0 1
  fwArgs s (decide (j < 32))
    (if s.tier.reclaim.isSome then fwNo s 1
    else
      let s := regWriteAt s 0x800 rTirReclaimCmd.off (BitVec.ofNat 64 (2 ^ 31 + j)) { noEnv with far := twin, frames := frames }
      if s.tier.reclRes = 2 then fwNo s 8 else fwOk s [])

def execReclaim (m : Fin 4) (twin : List (Nat × LineData)) (frames : List Nat) (s : State) :
    Host.Outcome State Fault Refusal :=
  ok (mbxCmd s m 0x0607 1 (reclaimMbx twin frames))

/-! The audits (R443). -/

/-- The frames that LOCAL and MOVING entries, and enabled grants, claim. -/
def frameClaims (s : State) : FMap Bool :=
  let fs := (s.map.pmap.ex.filter fun e => decide (peState e.2 = 1) || decide (peState e.2 = 4)).map fun e => peFrame e.2
  let ms := (s.tier.moves.filter fun m => decide (m.stage = .copy)).map fun m => m.lframe
  let gs := ((List.finRange 32).filter (grantOn s)).flatMap fun g => (List.range (grantCount s g)).map (grantFirst s g + ·)
  (fs ++ ms ++ gs).foldl (fun x f => fmSet x f true) (fmFill false)

/-- FRAME_AUDIT: Frame Map bits without a claim are cleared, those claimed and lacking are set. -/
def frameAudit (s : State) (_ : List Byte) : FwAns :=
  let cl := frameClaims s
  let fs := (List.range (frameCount s)).filter fun f => fmGet cl f != fmGet s.map.frames f
  let freed := fs.countP fun f => !fmGet cl f
  let s := forEach fs s fun s f => { s with map := { s.map with frames := fmSet s.map.frames f (fmGet cl f) } }
  fwOk (frameLowUpd (cacheTrim s)) (leBytes 4 freed ++ leBytes 4 (fs.length - freed))

def execFrameAudit (m : Fin 4) (s : State) : Host.Outcome State Fault Refusal := ok (mbxCmd s m 0x0608 0 frameAudit)

/-- The frames held at a neighbour (R349): REMOTE panels, MOVING_UP sources, MOVING_DOWN destinations and Return Table copies. -/
def heldFrames (s : State) (j : Fin 32) : List Nat :=
  let dev := fld s (rTirNbr j.val) 47 32
  let ps := (s.map.pmap.ex.filter fun e =>
    (decide (peState e.2 = 2) || decide (peState e.2 = 3)) && decide (peOwner e.2 = dev)).map fun e => peFrame e.2
  let ms := (s.tier.moves.filter fun m => !m.up && decide (m.nbr = j)
    && (decide (m.stage = .begin) || decide (m.stage = .flush) || decide (m.stage = .copy))).map fun m => m.rframe
  let rs := (s.tier.ret.flatMap fun e => e.2.filter fun r => decide (r.nbr = j)).map fun r => r.frame
  ps ++ ms ++ rs

/-- HELD_LIST, on a borrower. -/
def heldList (s : State) (a : List Byte) : FwAns :=
  let k := argN a 4 4
  fwArgs s (decide (argN a 0 1 < 32) && argZ a 1 3)
    (let bits := (heldFrames s (Fin.ofNat 32 (argN a 0 1))).foldl (fun (x : BitVec 1920) f =>
      if 1920 * k ≤ f ∧ f < 1920 * k + 1920 then x ||| ((1 : BitVec 1920) <<< (f - 1920 * k)) else x) 0
    fwOk s (leBytes 4 k ++ leBytes 4 0 ++ leBytes 240 bits.toNat))

def execHeldList (m : Fin 4) (s : State) : Host.Outcome State Fault Refusal := ok (mbxCmd s m 0x0609 8 heldList)

/-- The frames of a chunk's bitmap that lie in a grant. -/
def chunkHeld (s : State) (g : Fin 32) (k : Nat) (bits : Nat) : List Nat :=
  ((List.range 1920).filter fun i => bits.testBit i).filterMap fun i =>
    let f := 1920 * k + i
    if grantFirst s g < f ∧ f < grantFirst s g + grantCount s g then some f else none

/-- The free chain of a grant rebuilt from every frame that is neither held nor the header; reload; hold cleared. -/
def chainRebuild (s : State) (g : Fin 32) : State :=
  let lo := grantFirst s g
  let free := ((List.range (grantCount s g - 1)).map (lo + 1 + ·)).filter fun f => !s.fw.held.contains f
  let s := forEach (free.zip (free.drop 1 ++ [chainEnd])) s fun s x => dasPut s (x.1 * 65536) (chainLine x.2 0)
  let s := dasPut s (lo * 65536) (chainLine (free.headD chainEnd) free.length)
  grantHoldPut (grantReload s g) g false

/-- GRANT_AUDIT, on the lender. -/
def grantAudit (s : State) (a : List Byte) : FwAns :=
  let g : Fin 32 := Fin.ofNat 32 (argN a 0 1)
  let last := argN a 1 1
  let k := argN a 4 4
  fwArgs s (decide (argN a 0 1 < 32 ∧ last < 2) && argZ a 2 2)
    (if !grantOn s g then fwNo s 5
    else
      let lo := grantFirst s g
      let first : Bool := !rbit s (rTirGrantA g.val) 61 || decide (k = lo / 1920)
      let s := if first then
          modFw (grantHoldPut s g true) fun f => { f with
            held := f.held.filter fun x => decide (x < lo) || decide (lo + grantCount s g ≤ x) }
        else s
      let s := modFw s fun f => { f with held := f.held ++ chunkHeld s g k (argN a 8 240) }
      if last = 1 then
        let s := chainRebuild s g
        fwOk (confWrite s) (leBytes 4 s.tier.grantFree[g])
      else fwOk (if first then confWrite s else s) [])

def execGrantAudit (m : Fin 4) (s : State) : Host.Outcome State Fault Refusal := ok (mbxCmd s m 0x060A 248 grantAudit)

end Sys2Proof.Machine
end

