-- ==== Sys2Proof/Machine/MbxTen.lean ====
section
/-!
DEFINITION. The Tenon commands of the mailboxes (R434).
-/
namespace Sys2Proof.Machine
open Sys2Proof

/-- The connection named by the first argument is selected. -/
def selPut (s : State) (a : List Byte) : State := fwPut s rTenConnSel (BitVec.ofNat 64 (argN a 0 2))

/-- A key with its generation and salt staged; `k` is where the 32 bytes of the key begin. -/
def keyPut (s : State) (gen salt : Nat) (a : List Byte) (k : Nat) : State :=
  let s := fwPut s rTenKeyCfg (packFields [(32, salt), (0, gen)])
  forEach (List.range 4) s fun s i => fwPut s (rTenKeyStage i) (BitVec.ofNat 64 (argN a (k + 8 * i) 8))

/-- A connection command: `stage` writes what it takes, TEN.CONN_CMD starts it, and the answer is made at its result. While
the command register is busy, or the command cannot begin, firmware waits. `why` is the status of a refusal. -/
def connMbx (m : Fin 4) (s : State) (op : Nat) (stage : State → State) (why : State → Nat) (data : State → List Byte) :
    FwAns :=
  let answer (s : State) (no : Nat) : FwAns :=
    if s.ten.connRes = 0 then fwWait s else if s.ten.connRes = 1 then fwOk s (data s) else fwNo s no
  if (mbx s m).step ≠ 0 then answer s 8
  else if !s.ten.closing.isEmpty then fwWait s
  else
    let s := stage s
    let no := why s
    let s := fwPut s rTenConnCmd (BitVec.ofNat 64 (2 ^ 31 + op))
    if s.ten.closing.isEmpty then answer s no else fwWait (fwStep s m 1)

/-- A command that takes the connection alone. -/
def connMbx0 (op : Nat) (data : State → List Byte) (m : Fin 4) (s : State) (a : List Byte) : FwAns :=
  connMbx m s op (fun s => selPut s a) (fun _ => 8) data

/-- What CONN_OPEN stages (R395). -/
def openStage (s : State) (a : List Byte) : State :=
  let fl := argN a 7 1
  let s := selPut s a
  let s := fwPut s rTenConnCfg0 (packFields [(48, argN a 4 2), (32, argN a 2 2), (30, argN a 6 1), (29, fl % 2), (28, fl / 2),
    (26, argN a 8 1), (16, argN a 9 1), (8, argN a 10 1)])
  let s := fwPut s rTenConnIpl (BitVec.ofNat 64 (argN a 16 8))
  let s := fwPut s rTenConnIph (BitVec.ofNat 64 (argN a 24 8))
  let s := fwPut s rTenConnTxseq (BitVec.ofNat 64 (argN a 32 8))
  let s := fwPut s rTenConnRxseq (BitVec.ofNat 64 (argN a 40 8))
  keyPut s (argN a 11 1) (argN a 12 4) a 48

/-- NO_RESOURCE where the pin limit alone refuses an OPEN, HW_FAULT otherwise. -/
def openWhy (s : State) : Nat :=
  match cfgKind s with
  | none => 8
  | some kind =>
    let x := connStaged s kind
    if !openBad s (connSel s) x && pinFull s (connSel s) x then 6 else 8

def connOpenMbx (m : Fin 4) (s : State) (a : List Byte) : FwAns :=
  fwArgs s (decide (argN a 6 1 ≤ 2 ∧ argN a 7 1 ≤ 3 ∧ argN a 8 1 ≤ 3 ∧ argN a 10 1 ≤ 63
      ∧ argN a 32 8 < 2 ^ 57 ∧ argN a 40 8 < 2 ^ 57))
    (connMbx m s 1 (fun s => openStage s a) openWhy fun _ => [])

def execConnOpen (m : Fin 4) (s : State) : Host.Outcome State Fault Refusal := ok (mbxCmd s m 0x0701 80 (connOpenMbx m))

def execConnClose (m : Fin 4) (s : State) : Host.Outcome State Fault Refusal :=
  ok (mbxCmd s m 0x0702 2 (connMbx0 2 (fun _ => []) m))

def keyInstallMbx (m : Fin 4) (s : State) (a : List Byte) : FwAns :=
  fwArgs s (argZ a 3 1)
    (connMbx m s 3 (fun s => keyPut (selPut s a) (argN a 2 1) (argN a 4 4) a 8) (fun _ => 8) fun _ => [])

def execKeyInstall (m : Fin 4) (s : State) : Host.Outcome State Fault Refusal :=
  ok (mbxCmd s m 0x0703 40 (keyInstallMbx m))

def execKeySwitch (m : Fin 4) (s : State) : Host.Outcome State Fault Refusal :=
  ok (mbxCmd s m 0x0704 2 (connMbx0 4 (fun _ => []) m))

def execKeyRetire (m : Fin 4) (s : State) : Host.Outcome State Fault Refusal :=
  ok (mbxCmd s m 0x0705 2 (connMbx0 5 (fun _ => []) m))

def execConnQuery (m : Fin 4) (s : State) : Host.Outcome State Fault Refusal :=
  ok (mbxCmd s m 0x0706 2 (connMbx0 7 (fun s => leBytes 8 (fwGetN s rTenConnStatus)) m))

/-- RKEY_CREATE. -/
def rkeyCreateMbx (s : State) (a : List Byte) : FwAns :=
  let base := argN a 8 8
  let size := argN a 16 8
  fwArgs s (decide (argN a 0 2 < 2 ^ 15 ∧ argN a 4 1 < 16 ∧ argN a 5 1 < 32 ∧ base % 64 = 0 ∧ size % 64 = 0 ∧ base < 2 ^ 48
      ∧ size < 2 ^ 48) && argZ a 6 2)
    (let s := fwPut s rTenRkeySel (BitVec.ofNat 64 (argN a 0 2))
    let s := fwPut s rTenRkeyBase (BitVec.ofNat 64 base)
    let s := fwPut s rTenRkeySize (BitVec.ofNat 64 size)
    let s := fwPut s rTenRkeyAttr (packFields [(16, argN a 2 2), (8, argN a 5 1), (0, argN a 4 1)])
    let s := fwPut s rTenRkeyCmd (BitVec.ofNat 64 (2 ^ 31 + 1))
    if s.ten.rkeyRes = 1 then fwOk s (leBytes 4 (fwGetN s rTenRkeyVal)) else fwNo s 8)

def execRkeyCreate (m : Fin 4) (s : State) : Host.Outcome State Fault Refusal := ok (mbxCmd s m 0x0707 24 rkeyCreateMbx)

/-- RKEY_REVOKE: OK once the entry is Invalid, TIMEOUT after 1 ms (`late`). -/
def rkeyRevokeMbx (m : Fin 4) (late : Bool) (s : State) (a : List Byte) : FwAns :=
  let i := argN a 0 2
  fwArgs s (decide (i < 2 ^ 15))
    (if (mbx s m).step = 0 then
      let s := fwPut s rTenRkeySel (BitVec.ofNat 64 i)
      let s := fwPut s rTenRkeyCmd (BitVec.ofNat 64 (2 ^ 31 + 2))
      if s.ten.rkeyRes = 1 then fwWait (fwStep s m 1) else fwNo s 8
    else if (rkeyRead s i).any fun k => decide (k.mode = .invalid) then fwOk s []
    else if late then fwNo s 7
    else fwWait s)

def execRkeyRevoke (m : Fin 4) (late : Bool) (s : State) : Host.Outcome State Fault Refusal :=
  ok (mbxCmd s m 0x0708 2 (rkeyRevokeMbx m late))

/-- RING_SET: the ring is disabled before its fields are written. -/
def ringSet (s : State) (a : List Byte) : FwAns :=
  let r := argN a 0 1
  let sz := argN a 2 1
  let base := argN a 8 8
  let ctl := argN a 16 8
  fwArgs s (decide (r < 32 ∧ argN a 1 1 < 2 ∧ 4 ≤ sz ∧ sz ≤ 16 ∧ argN a 4 2 < 4096 ∧ base % 64 = 0 ∧ ctl % 64 = 0
      ∧ base < 2 ^ 48 ∧ ctl < 2 ^ 48) && argZ a 3 1 && argZ a 6 2)
    (let s := fwPut s (rTenRingA r) (putField (setting s (rTenRingA r)) 63 63 0)
    let s := fwPut s (rTenRingB r) (BitVec.ofNat 64 ctl)
    fwOk (fwPut s (rTenRingA r) (packFields [(63, argN a 1 1), (48, argN a 4 2), (6, base / 64), (0, sz)])) [])

def execRingSet (m : Fin 4) (s : State) : Host.Outcome State Fault Refusal := ok (mbxCmd s m 0x0709 24 ringSet)

/-- SEG_SET. -/
def segSet (s : State) (a : List Byte) : FwAns :=
  let n := argN a 0 1
  fwArgs s (decide (n < 4 ∧ argN a 1 1 < 2) && argZ a 2 2)
    (let s := fwPut s (rTenSegIp4 n) (BitVec.ofNat 64 (argN a 4 4))
    let s := fwPut s (rTenSegIp6l n) (BitVec.ofNat 64 (argN a 8 8))
    let s := fwPut s (rTenSegIp6h n) (BitVec.ofNat 64 (argN a 16 8))
    fwOk (fwPut s (rTenSegCtl n) (BitVec.ofNat 64 (argN a 1 1))) [])

def execSegSet (m : Fin 4) (s : State) : Host.Outcome State Fault Refusal := ok (mbxCmd s m 0x070A 24 segSet)

end Sys2Proof.Machine
end

