-- ==== Sys2Proof/Machine/Power.lean ====
section
/-!
DEFINITION. The resets and the Keeper's supply (R202, R204, R495, R496, R502 to R504, R508).
-/
namespace Sys2Proof.Machine
open Sys2Proof

/-- The Keeper takes the pins of a channel the PHY owns: retained stays 0, the DRAM contents are not guaranteed, and
PWR.KEEP_LOG.forced has the channel's bit (R204, R504). A channel the Keeper owns keeps its contents while VKEEP is up. -/
def pinsForced (s : State) (c : Fin 16) : State :=
  if (chan s c).keep.owner then doIf (!s.pwr.vkeep) (fun s => loseDram s c) s
  else
    let s := modKeep s c fun k => { k with owner := true, retained := false }
    setFld (loseDram s c) rPwrKeepLog (16 + c.val) (16 + c.val) 1

/-- The registers whose value a reset leaves: OTP, the Keeper domain, and at SRST_N the CNT registers (R19, R451, R503). -/
def regKept (pin : RstPin) (off : Nat) : Bool :=
  decide (off = rPwrDrainLog.off) || decide (off = rPwrKeepLog.off)
    || (regFind off).any fun h => decide (accBits .otp h.desc ≠ 0) || (decide (pin = .srst) && h.desc.cnt.isSome)

/-- A channel in reset: the Keeper's registers stay, and at SRST_N the Inlay entries (R503). -/
def chanReset (pin : RstPin) (x : ChanSt) : ChanSt :=
  { ChanSt.reset with
    keep := x.keep
    code := { CodeSt.reset with inl := if pin = .srst then x.code.inl else [] } }

/-- A slice of the Veneer in reset: its lines are lost, and at SRST_N the ways that an uncorrectable word disabled stay disabled
(R270). -/
def sliceReset (pin : RstPin) (x : VSlice) : VSlice :=
  let off (w : VWay) : VWay := match w with
    | .off => .off
    | _ => .empty
  if pin = .srst then { VSlice.empty with sets := (x.sets.map fun e => (e.1, e.2.map off)).filter fun e => e.2.contains .off }
  else .empty

/-- A reset pin asserts (R503). The DRAM keeps the maps of the Reserve, with the lines found
uncorrectable, and firmware's repair records; keys are derived
anew. -/
def resetAssert (s : State) (pin : RstPin) : State :=
  let s := forEach allChans s pinsForced
  let pin := if s.pwr.rst = some .porst then .porst else pin
  { State.reset with
    pending := s.pending
    csr := { CsrSt.reset with
      val := s.csr.val.filter fun e => regKept pin e.1
      holdReg := if pin = .srst then s.csr.holdReg else [] }
    map := { MapSt.reset with
      blank := s.map.blank, stale := s.map.stale, pmap := s.map.pmap, frames := s.map.frames, damaged := s.map.damaged }
    chans := s.chans.map (chanReset pin)
    vnr := { VnrSt.reset with slices := s.vnr.slices.map (sliceReset pin) }
    ten := { TenSt.reset with keyEra := s.ten.keyEra + 1 }
    fw := { FwSt.reset with pprs := s.fw.pprs }
    pwr := { PwrSt.reset with vkeep := s.pwr.vkeep, rst := some pin }
    dram := s.dram
    dramGen := s.dramGen
    dramZero := s.dramZero
    fresh := s.fresh }

def execPorstAssert (s : State) : Host.Outcome State Fault Refusal := ok (resetAssert s .porst)
def execSrstAssert (s : State) : Host.Outcome State Fault Refusal := ok (resetAssert s .srst)

/-- VDD_CORE falls: the Keeper takes the pins at once, and the core is in PORST_N, which is low while a core rail is out of its
range (R204, R493). -/
def corePowerLoss (s : State) : State := resetAssert s .porst

def execCorePowerLoss (s : State) : Host.Outcome State Fault Refusal := ok (corePowerLoss s)

/-- A reset pin is released (R502, R504): UNSAFE_RESET with a nonzero mask, VKEEP_LOST where a channel lost its Keeper state; a
low level of PFAIL_N is then seen (R508). -/
def resetRelease (s : State) (pfail : Bool) : State :=
  if s.pwr.rst.isSome then
    let s := modPwr s fun p => { p with rst := none }
    let forced := fld s rPwrKeepLog 31 16
    let s := doIf (decide (forced ≠ 0)) (fun s => evd s 35 (detail32 forced)) s
    let s := doIf (allChans.any fun c => (chan s c).keep.lost) (fun s => ev s 37) s
    doIf pfail pfailLow s
  else s

def execResetRelease (pfail : Bool) (s : State) : Host.Outcome State Fault Refusal := ok (resetRelease s pfail)

/-- VKEEP leaves its range (R496): the Keeper no longer drives the pins it owns, and what they held is not guaranteed. In
reset no event is raised. -/
def vkeepFail (s : State) : State :=
  if s.pwr.vkeep then
    let s := modPwr s fun p => { p with vkeep := false }
    let s := forEach allChans s fun s c => doIf (chan s c).keep.owner (fun s => loseDram s c) s
    doIf s.pwr.rst.isNone (fun s => ev s 36) s
  else s

def execVkeepFail (s : State) : Host.Outcome State Fault Refusal := ok (vkeepFail s)

/-- VKEEP comes up (R202, R204): the Keeper resets itself, takes every channel's pins, and its state reads lost. -/
def vkeepPowerUp (s : State) : State :=
  if s.pwr.vkeep then s
  else
    let s := forEach allChans s fun s c => doIf (!(chan s c).keep.owner) (fun s => loseDram s c) s
    let s := forEach allChans s fun s c => modKeep s c fun _ => ChanSt.reset.keep
    let s := setReg (setReg s rPwrDrainLog 0) rPwrKeepLog 0
    modPwr s fun p => { p with vkeep := true }

def execVkeepPowerUp (s : State) : Host.Outcome State Fault Refusal := ok (vkeepPowerUp s)

end Sys2Proof.Machine
end

