-- ==== Sys2Proof/Machine/Dispatch.lean ====
section
/-!
DEFINITION. The dispatch of commands: one arm per constructor of `Instr`.
-/
namespace Sys2Proof.Machine
open Sys2Proof

def exec (i : Instr) (s : State) : Host.Outcome State Fault Refusal :=
  match i with
  | .nop p q => Sys2Proof.Machine.execNop p q s
  | .rdLine p q mapErr => Sys2Proof.Machine.execRdLine p q mapErr s
  | .rdPart p q mapErr => Sys2Proof.Machine.execRdPart p q mapErr s
  | .wrLine p q => Sys2Proof.Machine.execWrLine p q s
  | .wrPart p q => Sys2Proof.Machine.execWrPart p q s
  | .atomAdd8 p q => Sys2Proof.Machine.execAtomAdd8 p q s
  | .atomCas8 p q => Sys2Proof.Machine.execAtomCas8 p q s
  | .trim p q => Sys2Proof.Machine.execTrim p q s
  | .cureFence p q => Sys2Proof.Machine.execCureFence p q s
  | .prefetch p q mapErr => Sys2Proof.Machine.execPrefetch p q mapErr s
  | .reservedOpcode p op q => Sys2Proof.Machine.execReservedOpcode p op q s
  | .wdBeat p d be => Sys2Proof.Machine.execWdBeat p d be s
  | .rdBeatTransfer p => Sys2Proof.Machine.execRdBeatTransfer p s
  | .cmpTransfer p => Sys2Proof.Machine.execCmpTransfer p s
  | .ntcTransfer => Sys2Proof.Machine.execNtcTransfer s
  | .frpLiveLow p => Sys2Proof.Machine.execFrpLiveLow p s
  | .frpLiveHigh p => Sys2Proof.Machine.execFrpLiveHigh p s
  | .portQuiesceDone p => Sys2Proof.Machine.execPortQuiesceDone p s
  | .frpCtlWrite p mid v => Sys2Proof.Machine.execFrpCtlWrite p mid v s
  | .poolSelect pool err mapErr => Sys2Proof.Machine.execPoolSelect pool err mapErr s
  | .lockCeiling p => Sys2Proof.Machine.execLockCeiling p s
  | .prefetchDrop r pool => Sys2Proof.Machine.execPrefetchDrop r pool s
  | .waitLong r pool => Sys2Proof.Machine.execWaitLong r pool s
  | .hwClr => Sys2Proof.Machine.execHwClr s
  | .schedIssue c => Sys2Proof.Machine.execSchedIssue c s
  | .wdrainEval c => Sys2Proof.Machine.execWdrainEval c s
  | .urgencyTick c => Sys2Proof.Machine.execUrgencyTick c s
  | .idleWrite c sub => Sys2Proof.Machine.execIdleWrite c sub s
  | .pageIdleClose c b => Sys2Proof.Machine.execPageIdleClose c b s
  | .queueEntry c => Sys2Proof.Machine.execQueueEntry c s
  | .rankPowerDown c rank => Sys2Proof.Machine.execRankPowerDown c rank s
  | .channelSrEntry c => Sys2Proof.Machine.execChannelSrEntry c s
  | .srWake c => Sys2Proof.Machine.execSrWake c s
  | .chHold c => Sys2Proof.Machine.execChHold c s
  | .chHoldRelease c => Sys2Proof.Machine.execChHoldRelease c s
  | .chHeld c => Sys2Proof.Machine.execChHeld c s
  | .holdExpired c => Sys2Proof.Machine.execHoldExpired c s
  | .chReleased c => Sys2Proof.Machine.execChReleased c s
  | .devHold => Sys2Proof.Machine.execDevHold s
  | .devRelease => Sys2Proof.Machine.execDevRelease s
  | .refreshSlot c k => Sys2Proof.Machine.execRefreshSlot c k s
  | .catchupRefresh c t => Sys2Proof.Machine.execCatchupRefresh c t s
  | .backstopTick c t => Sys2Proof.Machine.execBackstopTick c t s
  | .refBackstop c t => Sys2Proof.Machine.execRefBackstop c t s
  | .tempPoll c r => Sys2Proof.Machine.execTempPoll c r s
  | .tempRate c => Sys2Proof.Machine.execTempRate c s
  | .granChanged c => Sys2Proof.Machine.execGranChanged c s
  | .windowStart c beat len probe => Sys2Proof.Machine.execWindowStart c beat len probe s
  | .neighbourRefresh c => Sys2Proof.Machine.execNeighbourRefresh c s
  | .dstTableClear c => Sys2Proof.Machine.execDstTableClear c s
  | .rfmIssue c b => Sys2Proof.Machine.execRfmIssue c b s
  | .trainCold c => Sys2Proof.Machine.execTrainCold c s
  | .trainWarm c => Sys2Proof.Machine.execTrainWarm c s
  | .trainRetrain c => Sys2Proof.Machine.execTrainRetrain c s
  | .trainDone c e => Sys2Proof.Machine.execTrainDone c e s
  | .trainAbort c step lanes vrefs => Sys2Proof.Machine.execTrainAbort c step lanes vrefs s
  | .handover c => Sys2Proof.Machine.execHandover c s
  | .takeback c => Sys2Proof.Machine.execTakeback c s
  | .discard c => Sys2Proof.Machine.execDiscard c s
  | .clrLost c => Sys2Proof.Machine.execClrLost c s
  | .phyAlert c crc => Sys2Proof.Machine.execPhyAlert c crc s
  | .retrainWindow c osc sweep failed cut => Sys2Proof.Machine.execRetrainWindow c osc sweep failed cut s
  | .probeDwell c => Sys2Proof.Machine.execProbeDwell c s
  | .probeDwellEnd c => Sys2Proof.Machine.execProbeDwellEnd c s
  | .prbAbort c cause => Sys2Proof.Machine.execPrbAbort c cause s
  | .sbTransfer c mid v => Sys2Proof.Machine.execSbTransfer c mid v s
  | .sbDone c e => Sys2Proof.Machine.execSbDone c e s
  | .markSlotSet c k slot chip => Sys2Proof.Machine.execMarkSlotSet c k slot chip s
  | .markSlotClear c k slot => Sys2Proof.Machine.execMarkSlotClear c k slot s
  | .ceWindowEnd c => Sys2Proof.Machine.execCeWindowEnd c s
  | .dramDecode c err => Sys2Proof.Machine.execDramDecode c err s
  | .x8Trial c errA errB => Sys2Proof.Machine.execX8Trial c errA errB s
  | .glueWindowEnd c gid => Sys2Proof.Machine.execGlueWindowEnd c gid s
  | .glueMerge c gid err => Sys2Proof.Machine.execGlueMerge c gid err s
  | .raspUnit eng => Sys2Proof.Machine.execRaspUnit eng s
  | .scrubSliceDue c => Sys2Proof.Machine.execScrubSliceDue c s
  | .ecsPoll c r => Sys2Proof.Machine.execEcsPoll c r s
  | .inlayEntryWrite c k mid v => Sys2Proof.Machine.execInlayEntryWrite c k mid v s
  | .inlCopy c v => Sys2Proof.Machine.execInlCopy c v s
  | .rowCopyDone c errs => Sys2Proof.Machine.execRowCopyDone c errs s
  | .inlPpr c v => Sys2Proof.Machine.execInlPpr c v s
  | .pprDone c e => Sys2Proof.Machine.execPprDone c e s
  | .rawRead c => Sys2Proof.Machine.execRawRead c s
  | .rawWrite c => Sys2Proof.Machine.execRawWrite c s
  | .sramErr c w uncorr => Sys2Proof.Machine.execSramErr c w uncorr s
  | .diagRead c => Sys2Proof.Machine.execDiagRead c s
  | .diagWriteZero c => Sys2Proof.Machine.execDiagWriteZero c s
  | .diagWriteAddr c => Sys2Proof.Machine.execDiagWriteAddr c s
  | .diagCompare c => Sys2Proof.Machine.execDiagCompare c s
  | .vnrFillLand sl => Sys2Proof.Machine.execVnrFillLand sl s
  | .vnrSramErr sl st way uncorr => Sys2Proof.Machine.execVnrSramErr sl st way uncorr s
  | .cleaner sl => Sys2Proof.Machine.execCleaner sl s
  | .victimWriteback sl => Sys2Proof.Machine.execVictimWriteback sl s
  | .ropClean => Sys2Proof.Machine.execRopClean s
  | .ropCleanInvalidate => Sys2Proof.Machine.execRopCleanInvalidate s
  | .ropInvalidate => Sys2Proof.Machine.execRopInvalidate s
  | .ropUnpin => Sys2Proof.Machine.execRopUnpin s
  | .ropRefused => Sys2Proof.Machine.execRopRefused s
  | .ropDone => Sys2Proof.Machine.execRopDone s
  | .vnrCtlEnWrite en => Sys2Proof.Machine.execVnrCtlEnWrite en s
  | .vnrClearingDone => Sys2Proof.Machine.execVnrClearingDone s
  | .vnrDrainDone => Sys2Proof.Machine.execVnrDrainDone s
  | .epochAdvance => Sys2Proof.Machine.execEpochAdvance s
  | .fenceEpochAdvance => Sys2Proof.Machine.execFenceEpochAdvance s
  | .mirrorCapture => Sys2Proof.Machine.execMirrorCapture s
  | .twinSilent k => Sys2Proof.Machine.execTwinSilent k s
  | .curAttach => Sys2Proof.Machine.execCurAttach s
  | .curDegrade => Sys2Proof.Machine.execCurDegrade s
  | .staleSideWrite v => Sys2Proof.Machine.execStaleSideWrite v s
  | .attachPush far => Sys2Proof.Machine.execAttachPush far s
  | .mirrorAttached => Sys2Proof.Machine.execMirrorAttached s
  | .mirrorResend k far => Sys2Proof.Machine.execMirrorResend k far s
  | .repairAnswer => Sys2Proof.Machine.execRepairAnswer s
  | .fenceCmdFence c => Sys2Proof.Machine.execFenceCmdFence c s
  | .chFenced c => Sys2Proof.Machine.execChFenced c s
  | .fenceSweepDone c => Sys2Proof.Machine.execFenceSweepDone c s
  | .unfenceStale c => Sys2Proof.Machine.execUnfenceStale c s
  | .unfenceFull c => Sys2Proof.Machine.execUnfenceFull c s
  | .recastPanel lines => Sys2Proof.Machine.execRecastPanel lines s
  | .recastDone => Sys2Proof.Machine.execRecastDone s
  | .drainStart => Sys2Proof.Machine.execDrainStart s
  | .drainRecords => Sys2Proof.Machine.execDrainRecords s
  | .drainComplete => Sys2Proof.Machine.execDrainComplete s
  | .epochSet mid v => Sys2Proof.Machine.execEpochSet mid v s
  | .mirrorLines e => Sys2Proof.Machine.execMirrorLines e s
  | .mirrorMasked e => Sys2Proof.Machine.execMirrorMasked e s
  | .mirrorPoison e => Sys2Proof.Machine.execMirrorPoison e s
  | .mirrorTrim e => Sys2Proof.Machine.execMirrorTrim e s
  | .mirrorMark e => Sys2Proof.Machine.execMirrorMark e s
  | .mirrorLinesMarked e => Sys2Proof.Machine.execMirrorLinesMarked e s
  | .heatDecay => Sys2Proof.Machine.execHeatDecay s
  | .promotion e => Sys2Proof.Machine.execPromotion e s
  | .demotionHandStep mapErr => Sys2Proof.Machine.execDemotionHandStep mapErr s
  | .demotion e => Sys2Proof.Machine.execDemotion e s
  | .moveStepDone p => Sys2Proof.Machine.execMoveStepDone p s
  | .moveAbandon p => Sys2Proof.Machine.execMoveAbandon p s
  | .frameRefill => Sys2Proof.Machine.execFrameRefill s
  | .nbrRttProbe j frame => Sys2Proof.Machine.execNbrRttProbe j frame s
  | .nbrStateChange j sample => Sys2Proof.Machine.execNbrStateChange j sample s
  | .lendAccess e => Sys2Proof.Machine.execLendAccess e s
  | .lendAlloc e => Sys2Proof.Machine.execLendAlloc e s
  | .lendFree e => Sys2Proof.Machine.execLendFree e s
  | .grantEnable g v => Sys2Proof.Machine.execGrantEnable g v s
  | .grantDisable g => Sys2Proof.Machine.execGrantDisable g s
  | .grantHold g hold => Sys2Proof.Machine.execGrantHold g hold s
  | .grantReload g => Sys2Proof.Machine.execGrantReload g s
  | .reclaimCmd j twin frames => Sys2Proof.Machine.execReclaimCmd j twin frames s
  | .reclaimDone twin frames => Sys2Proof.Machine.execReclaimDone twin frames s
  | .frameCmd => Sys2Proof.Machine.execFrameCmd s
  | .moveCmd v => Sys2Proof.Machine.execMoveCmd v s
  | .jigGo e far => Sys2Proof.Machine.execJigGo e far s
  | .jigStop e => Sys2Proof.Machine.execJigStop e s
  | .jigStepStart e => Sys2Proof.Machine.execJigStepStart e s
  | .jigStepStaged e far => Sys2Proof.Machine.execJigStepStaged e far s
  | .jigLate e => Sys2Proof.Machine.execJigLate e s
  | .jigUnpinStep e => Sys2Proof.Machine.execJigUnpinStep e s
  | .jigDone e => Sys2Proof.Machine.execJigDone e s
  | .segLiveChange n live => Sys2Proof.Machine.execSegLiveChange n live s
  | .segCtlWrite n en => Sys2Proof.Machine.execSegCtlWrite n en s
  | .txDatagram n far => Sys2Proof.Machine.execTxDatagram n far s
  | .rxDatagram n b d => Sys2Proof.Machine.execRxDatagram n b d s
  | .tenonWrite e => Sys2Proof.Machine.execTenonWrite e s
  | .tenonWriteImm e => Sys2Proof.Machine.execTenonWriteImm e s
  | .tenonReadReq e => Sys2Proof.Machine.execTenonReadReq e s
  | .tenonReadResp e => Sys2Proof.Machine.execTenonReadResp e s
  | .tenonAtomAdd8 e => Sys2Proof.Machine.execTenonAtomAdd8 e s
  | .tenonAtomCas8 e => Sys2Proof.Machine.execTenonAtomCas8 e s
  | .tenonCureWrite e => Sys2Proof.Machine.execTenonCureWrite e s
  | .tenonAck e => Sys2Proof.Machine.execTenonAck e s
  | .tenonNak e => Sys2Proof.Machine.execTenonNak e s
  | .tenonContextNotReady e => Sys2Proof.Machine.execTenonContextNotReady e s
  | .ackSend c late => Sys2Proof.Machine.execAckSend c late s
  | .rtoExpiry c => Sys2Proof.Machine.execRtoExpiry c s
  | .noticePost r far => Sys2Proof.Machine.execNoticePost r far s
  | .ringAWrite r v => Sys2Proof.Machine.execRingAWrite r v s
  | .connCmdOpen => Sys2Proof.Machine.execConnCmdOpen s
  | .connCmdClose => Sys2Proof.Machine.execConnCmdClose s
  | .connCmdInstall => Sys2Proof.Machine.execConnCmdInstall s
  | .connCmdSwitch => Sys2Proof.Machine.execConnCmdSwitch s
  | .connCmdRetire => Sys2Proof.Machine.execConnCmdRetire s
  | .connCmdError => Sys2Proof.Machine.execConnCmdError s
  | .connCmdQuery => Sys2Proof.Machine.execConnCmdQuery s
  | .connError c cause => Sys2Proof.Machine.execConnError c cause s
  | .ctxLoadDone e => Sys2Proof.Machine.execCtxLoadDone e s
  | .ctxEvict e => Sys2Proof.Machine.execCtxEvict e s
  | .rkeyCmdCreate => Sys2Proof.Machine.execRkeyCmdCreate s
  | .rkeyCmdRevoke => Sys2Proof.Machine.execRkeyCmdRevoke s
  | .rkeyCmdQuery => Sys2Proof.Machine.execRkeyCmdQuery s
  | .regionRevoked => Sys2Proof.Machine.execRegionRevoked s
  | .armDiverge unit pc => Sys2Proof.Machine.execArmDiverge unit pc s
  | .armTcmErr uncorr pc => Sys2Proof.Machine.execArmTcmErr uncorr pc s
  | .imgBlockDone => Sys2Proof.Machine.execImgBlockDone s
  | .imgFetchTimeout => Sys2Proof.Machine.execImgFetchTimeout s
  | .bootRomStart => Sys2Proof.Machine.execBootRomStart s
  | .armRestart => Sys2Proof.Machine.execArmRestart s
  | .armUpdate => Sys2Proof.Machine.execArmUpdate s
  | .armReady => Sys2Proof.Machine.execArmReady s
  | .mbxRing m => Sys2Proof.Machine.execMbxRing m s
  | .mbxAck m => Sys2Proof.Machine.execMbxAck m s
  | .mbxTake => Sys2Proof.Machine.execMbxTake s
  | .mbxRespond m => Sys2Proof.Machine.execMbxRespond m s
  | .identify m => Sys2Proof.Machine.execIdentify m s
  | .getState m => Sys2Proof.Machine.execGetState m s
  | .setDeviceId m => Sys2Proof.Machine.execSetDeviceId m s
  | .setProfile m => Sys2Proof.Machine.execSetProfile m s
  | .imgUpdate m => Sys2Proof.Machine.execImgUpdate m s
  | .svnAdvance m => Sys2Proof.Machine.execSvnAdvance m s
  | .setAccess m => Sys2Proof.Machine.execSetAccess m s
  | .imgkeyProgram m => Sys2Proof.Machine.execImgkeyProgram m s
  | .imgkeyRevoke m => Sys2Proof.Machine.execImgkeyRevoke m s
  | .getConfig m => Sys2Proof.Machine.execGetConfig m s
  | .setLayout m => Sys2Proof.Machine.execSetLayout m s
  | .setTiming m => Sys2Proof.Machine.execSetTiming m s
  | .setRegion m => Sys2Proof.Machine.execSetRegion m s
  | .getRegion m => Sys2Proof.Machine.execGetRegion m s
  | .setRanks m => Sys2Proof.Machine.execSetRanks m s
  | .setQos m => Sys2Proof.Machine.execSetQos m s
  | .getForecast m => Sys2Proof.Machine.execGetForecast m s
  | .setChoreo m => Sys2Proof.Machine.execSetChoreo m s
  | .getHealth m => Sys2Proof.Machine.execGetHealth m s
  | .setMark m => Sys2Proof.Machine.execSetMark m s
  | .clearMark m => Sys2Proof.Machine.execClearMark m s
  | .inlayAdd m => Sys2Proof.Machine.execInlayAdd m s
  | .pprSchedule m => Sys2Proof.Machine.execPprSchedule m s
  | .setScrub m => Sys2Proof.Machine.execSetScrub m s
  | .diagPass m => Sys2Proof.Machine.execDiagPass m s
  | .rangeOp m => Sys2Proof.Machine.execRangeOp m s
  | .vnrEnable m => Sys2Proof.Machine.execVnrEnable m s
  | .vnrStatus m => Sys2Proof.Machine.execVnrStatus m s
  | .setDirtyBudget m => Sys2Proof.Machine.execSetDirtyBudget m s
  | .setTwin m => Sys2Proof.Machine.execSetTwin m s
  | .attach m => Sys2Proof.Machine.execAttach m s
  | .degrade m => Sys2Proof.Machine.execDegrade m s
  | .getCure m => Sys2Proof.Machine.execGetCure m s
  | .fence m => Sys2Proof.Machine.execFence m s
  | .setCure m => Sys2Proof.Machine.execSetCure m s
  | .blankLineGet m => Sys2Proof.Machine.execBlankLineGet m s
  | .mapRepair m => Sys2Proof.Machine.execMapRepair m s
  | .setTier m => Sys2Proof.Machine.execSetTier m s
  | .setNeighbour m => Sys2Proof.Machine.execSetNeighbour m s
  | .setGrant m => Sys2Proof.Machine.execSetGrant m s
  | .move m => Sys2Proof.Machine.execMove m s
  | .jigStart m far => Sys2Proof.Machine.execJigStart m far s
  | .jigStatus m => Sys2Proof.Machine.execJigStatus m s
  | .reclaim m twin frames => Sys2Proof.Machine.execReclaim m twin frames s
  | .frameAudit m => Sys2Proof.Machine.execFrameAudit m s
  | .heldList m => Sys2Proof.Machine.execHeldList m s
  | .grantAudit m => Sys2Proof.Machine.execGrantAudit m s
  | .connOpen m => Sys2Proof.Machine.execConnOpen m s
  | .connClose m => Sys2Proof.Machine.execConnClose m s
  | .keyInstall m => Sys2Proof.Machine.execKeyInstall m s
  | .keySwitch m => Sys2Proof.Machine.execKeySwitch m s
  | .keyRetire m => Sys2Proof.Machine.execKeyRetire m s
  | .connQuery m => Sys2Proof.Machine.execConnQuery m s
  | .rkeyCreate m => Sys2Proof.Machine.execRkeyCreate m s
  | .rkeyRevoke m late => Sys2Proof.Machine.execRkeyRevoke m late s
  | .ringSet m => Sys2Proof.Machine.execRingSet m s
  | .segSet m => Sys2Proof.Machine.execSegSet m s
  | .setHoldup m => Sys2Proof.Machine.execSetHoldup m s
  | .pwrStateMbx m => Sys2Proof.Machine.execPwrStateMbx m s
  | .pwrStatus m => Sys2Proof.Machine.execPwrStatus m s
  | .regRead m bad => Sys2Proof.Machine.execRegRead m bad s
  | .regWrite m env => Sys2Proof.Machine.execRegWrite m env s
  | .eventForce m => Sys2Proof.Machine.execEventForce m s
  | .journalRead m bads => Sys2Proof.Machine.execJournalRead m bads s
  | .snapshot m => Sys2Proof.Machine.execSnapshot m s
  | .echo m => Sys2Proof.Machine.execEcho m s
  | .badOpcode m => Sys2Proof.Machine.execBadOpcode m s
  | .twinTimeout => Sys2Proof.Machine.execTwinTimeout s
  | .registerWrite mid off v env => Sys2Proof.Machine.execRegisterWrite mid off v env s
  | .rcRead off => Sys2Proof.Machine.execRcRead off s
  | .sqAck src v => Sys2Proof.Machine.execSqAck src v s
  | .regPortAccess wr addr v env => Sys2Proof.Machine.execRegPortAccess wr addr v env s
  | .commitNow mask => Sys2Proof.Machine.execCommitNow mask s
  | .commitSchedule mask => Sys2Proof.Machine.execCommitSchedule mask s
  | .commitCancel mask => Sys2Proof.Machine.execCommitCancel mask s
  | .commitApplied => Sys2Proof.Machine.execCommitApplied s
  | .topSnapshot => Sys2Proof.Machine.execTopSnapshot s
  | .cntClr => Sys2Proof.Machine.execCntClr s
  | .beatSync v => Sys2Proof.Machine.execBeatSync v s
  | .beatFreerun => Sys2Proof.Machine.execBeatFreerun s
  | .eventSignal src ds o uncorr => Sys2Proof.Machine.execEventSignal src ds o uncorr s
  | .faultWindowEnd src => Sys2Proof.Machine.execFaultWindowEnd src s
  | .evtForce src mid => Sys2Proof.Machine.execEvtForce src mid s
  | .levelClr all go src => Sys2Proof.Machine.execLevelClr all go src s
  | .sevClr => Sys2Proof.Machine.execSevClr s
  | .foClr => Sys2Proof.Machine.execFoClr s
  | .fecClr g => Sys2Proof.Machine.execFecClr g s
  | .journalRecord => Sys2Proof.Machine.execJournalRecord s
  | .packetCloseTime => Sys2Proof.Machine.execPacketCloseTime s
  | .jrnFlush => Sys2Proof.Machine.execJrnFlush s
  | .jrnClear => Sys2Proof.Machine.execJrnClear s
  | .jrnPop bad => Sys2Proof.Machine.execJrnPop bad s
  | .stateCmdActive => Sys2Proof.Machine.execStateCmdActive s
  | .stateCmdPowerDown => Sys2Proof.Machine.execStateCmdPowerDown s
  | .stateCmdSelfRefresh => Sys2Proof.Machine.execStateCmdSelfRefresh s
  | .stateCmdOffRetention => Sys2Proof.Machine.execStateCmdOffRetention s
  | .cureWaitEnd late => Sys2Proof.Machine.execCureWaitEnd late s
  | .pfailReturn => Sys2Proof.Machine.execPfailReturn s
  | .porstAssert => Sys2Proof.Machine.execPorstAssert s
  | .srstAssert => Sys2Proof.Machine.execSrstAssert s
  | .resetRelease pfail => Sys2Proof.Machine.execResetRelease pfail s
  | .vkeepFail => Sys2Proof.Machine.execVkeepFail s
  | .vkeepPowerUp => Sys2Proof.Machine.execVkeepPowerUp s
  | .corePowerLoss => Sys2Proof.Machine.execCorePowerLoss s
  | .fwHalt code => Sys2Proof.Machine.execFwHalt code s
  | .bcmdInit => Sys2Proof.Machine.execBcmdInit s
  | .bcmdRebuild => Sys2Proof.Machine.execBcmdRebuild s
  | .bcmdPcInv => Sys2Proof.Machine.execBcmdPcInv s
  | .pllLockLoss c => Sys2Proof.Machine.execPllLockLoss c s
  | .retrainingWindowEnd c => Sys2Proof.Machine.execRetrainingWindowEnd c s

end Sys2Proof.Machine
end

