-- ==== Sys2Proof/Machine/Tick.lean ====
section
/-!
DEFINITION. One FCLK of a block to which no command comes (log entry 3).
-/
namespace Sys2Proof.Machine
open Sys2Proof

/-- The Beat advances by the 0.5 ns of an FCLK, unless it is invalid or holds after a small backward difference (R32). -/
def beatIdle (b : BeatSt) : BeatSt :=
  let b := { b with fclk := b.fclk + 1 }
  if !b.valid then b
  else if 0 < b.holdFor then { b with holdFor := b.holdFor - 1 }
  else { b with half := b.half + 1 }

/-- A Tenon engine holds a notice whose entry is written because the notice queue is full (R75). -/
def noticeHeld (s : State) : Bool :=
  decide (256 ≤ s.ntc.length) && s.ten.engines.toList.any fun g => g.jobs.any fun j =>
    match j.wait with
    | .posting _ => !j.met && !jobWaiting s j
    | _ => false

/-- The block idles for one FCLK: the Beat unit runs and enters free-run once that is due (R34, R35), masking is noted (R134), the
journal takes one record (R478), and the counters of FCLKs count (CUR.STALL_CNT, NTC.FULL_CNT). In reset nothing happens. -/
def idle (s : State) : State :=
  if s.pwr.rst.isSome then s
  else
    let s := maskEdge (beatFreerun s)
    let s := doIf (epochFull s) (fun s => cntInc s rCurStallCnt) s
    let s := doIf (noticeHeld s) (fun s => cntInc s rNtcFullCnt) s
    packOne { s with beat := beatIdle s.beat }

end Sys2Proof.Machine
end

