-- ==== Sys2Proof/Safety.lean ====
section
/-!
DEFINITION. What a safe run of the block is, and the form its stored maps have.
-/
namespace Sys2Proof.Machine
open Sys2Proof

/-- The canonical form of the DRAM's bytes. -/
def Memory.wf (m : List Host.Cell) : Bool := smWf 0 m

/-- The stored maps of the block are in canonical form: keys rise, and no entry holds what an unlisted key reads as. These
are the bytes of the DRAM, the register values in force, the counters' holding registers and the connections. -/
def State.Canonical (s : State) : Prop :=
  Memory.wf s.dram = true ∧ smWf 0 s.csr.val = true ∧ smWf 0 s.csr.holdReg = true ∧ smWf Conn.none s.conns = true

/-- The parts of the state that commands change; `dram` stands for the DRAM bytes and the model's own two fields about them. -/
inductive Part where
  | beat | csr | evt | jrn | ports | ntc | adm | tt | results | map | vnr | chans | sbus | devEnd | cure | tier | conns | ten | arm | fw
  | pwr | dram
deriving DecidableEq, Repr

/-- A part of the state is as it was. -/
def Part.Same (s t : State) : Part → Prop
  | .beat => t.beat = s.beat
  | .csr => t.csr = s.csr
  | .evt => t.evt = s.evt
  | .jrn => t.jrn = s.jrn
  | .ports => t.ports = s.ports
  | .ntc => t.ntc = s.ntc
  | .adm => t.adm = s.adm
  | .tt => t.tt = s.tt
  | .results => t.results = s.results
  | .map => t.map = s.map
  | .vnr => t.vnr = s.vnr
  | .chans => t.chans = s.chans
  | .sbus => t.sbus = s.sbus
  | .devEnd => t.devEnd = s.devEnd
  | .cure => t.cure = s.cure
  | .tier => t.tier = s.tier
  | .conns => t.conns = s.conns
  | .ten => t.ten = s.ten
  | .arm => t.arm = s.arm
  | .fw => t.fw = s.fw
  | .pwr => t.pwr = s.pwr
  | .dram => t.dram = s.dram ∧ t.dramGen = s.dramGen ∧ t.dramZero = s.dramZero

/-- The parts of the state a command may change; what it writes there, its own rules say. -/
def touches : Instr → List Part
  | .grantHold .. | .topSnapshot .. | .cntClr .. => [.csr]
  | .sqAck .. | .faultWindowEnd .. | .levelClr .. | .sevClr .. | .fecClr .. => [.evt]
  | .journalRecord .. | .jrnClear .. => [.jrn]
  | .hwClr .. => [.adm]
  | .bcmdPcInv .. => [.map]
  | .cleaner .. => [.vnr]
  | .idleWrite .. | .pageIdleClose .. | .rankPowerDown .. | .channelSrEntry .. | .backstopTick .. | .dstTableClear ..
  | .handover .. | .takeback .. | .clrLost .. | .markSlotClear .. | .ceWindowEnd .. | .scrubSliceDue .. | .pllLockLoss .. =>
      [.chans]
  | .staleSideWrite .. => [.cure]
  | .heatDecay .. | .frameRefill .. | .grantReload .. => [.tier]
  | .mbxAck .. | .identify .. | .getState .. | .getConfig .. | .getRegion .. | .getForecast .. | .getHealth ..
  | .vnrStatus .. | .getCure .. | .blankLineGet .. | .jigStatus .. | .heldList .. | .pwrStatus .. | .echo ..
  | .badOpcode .. => [.fw]
  | .cureWaitEnd .. => [.pwr]
  | .ntcTransfer .. => [.csr, .ntc]
  | .urgencyTick .. | .srWake .. | .catchupRefresh .. | .neighbourRefresh .. | .rfmIssue .. | .probeDwellEnd ..
  | .inlCopy .. | .inlPpr .. | .diagRead .. | .diagWriteZero .. | .diagWriteAddr .. | .diagCompare ..
  | .retrainingWindowEnd .. => [.csr, .chans]
  | .ringAWrite .. => [.csr, .ten]
  | .mbxTake .. | .imgkeyProgram .. | .imgkeyRevoke .. => [.csr, .fw]
  | .foClr .. => [.csr, .evt]
  | .packetCloseTime .. | .jrnFlush .. | .jrnPop .. => [.csr, .jrn]
  | .jigStop .. => [.adm, .tier]
  | .nbrRttProbe .. => [.cure, .tier]
  | .prefetchDrop .. => [.csr, .ports, .adm]
  | .waitLong .. | .commitCancel .. | .eventSignal .. | .evtForce .. => [.csr, .evt, .jrn]
  | .fenceCmdFence .. => [.csr, .evt, .cure]
  | .moveCmd .. => [.csr, .adm, .tier]
  | .bootRomStart .. => [.csr, .sbus, .arm]
  | .regRead .. | .journalRead .. | .rcRead .. => [.csr, .jrn, .fw]
  | .recastPanel .. => [.adm, .map, .cure]
  | .bcmdInit .. => [.map, .fw, .dram]
  | .wdrainEval .. | .chHeld .. | .refreshSlot .. | .refBackstop .. | .tempPoll .. | .tempRate .. | .granChanged ..
  | .windowStart .. | .trainCold .. | .trainWarm .. | .trainRetrain .. | .trainAbort .. | .discard .. | .retrainWindow ..
  | .probeDwell .. | .prbAbort .. | .markSlotSet .. | .glueWindowEnd .. | .ecsPoll .. | .inlayEntryWrite .. =>
      [.csr, .evt, .jrn, .chans]
  | .rawRead .. | .rawWrite .. => [.csr, .adm, .vnr, .chans]
  | .vnrSramErr .. | .ropRefused .. | .vnrClearingDone .. => [.csr, .evt, .jrn, .vnr]
  | .twinSilent .. | .recastDone .. => [.csr, .evt, .jrn, .cure]
  | .jigLate .. | .jigDone .. => [.csr, .evt, .jrn, .tier]
  | .rkeyCmdQuery .. => [.csr, .evt, .jrn, .ten]
  | .mbxRing .. | .mbxRespond .. | .svnAdvance .. => [.csr, .evt, .jrn, .fw]
  | .setAccess .. | .pprSchedule .. | .setHoldup .. => [.csr, .map, .fw, .dram]
  | .pfailReturn .. => [.csr, .evt, .jrn, .pwr]
  | .vkeepPowerUp .. => [.csr, .chans, .pwr, .dram]
  | .beatFreerun .. => [.beat, .csr, .evt, .jrn, .chans]
  | .frpLiveHigh .. | .portQuiesceDone .. => [.csr, .evt, .jrn, .ports, .adm]
  | .chHold .. | .chHoldRelease .. | .holdExpired .. | .chReleased .. | .devHold .. => [.csr, .evt, .jrn, .chans, .devEnd]
  | .trainDone .. | .phyAlert .. | .x8Trial .. | .rowCopyDone .. | .sramErr .. => [.csr, .evt, .jrn, .chans, .dram]
  | .sbDone .. => [.csr, .evt, .jrn, .chans, .sbus]
  | .glueMerge .. => [.csr, .evt, .jrn, .chans, .cure]
  | .pprDone .. => [.csr, .map, .chans, .fw, .dram]
  | .ropClean .. | .ropCleanInvalidate .. | .ropInvalidate .. | .ropUnpin .. | .ropDone .. | .vnrCtlEnWrite ..
  | .vnrDrainDone .. => [.csr, .evt, .jrn, .map, .vnr]
  | .epochSet .. => [.csr, .evt, .jrn, .cure, .fw]
  | .grantDisable .. | .frameCmd .. => [.csr, .evt, .jrn, .map, .tier]
  | .jigStepStart .. => [.csr, .evt, .jrn, .adm, .tier]
  | .setMark .. | .inlayAdd .. => [.csr, .evt, .jrn, .chans, .fw]
  | .vkeepFail .. => [.csr, .evt, .jrn, .pwr, .dram]
  | .nop .. | .cureFence .. | .reservedOpcode .. | .wdBeat .. | .lockCeiling .. =>
      [.csr, .evt, .jrn, .ports, .adm, .results]
  | .raspUnit .. => [.csr, .evt, .jrn, .adm, .map, .chans]
  | .victimWriteback .. => [.csr, .evt, .jrn, .vnr, .chans, .cure]
  | .attachPush .. | .mirrorResend .. => [.csr, .evt, .jrn, .map, .chans, .cure]
  | .fenceSweepDone .. => [.csr, .evt, .jrn, .map, .vnr, .cure]
  | .unfenceStale .. | .unfenceFull .. => [.csr, .evt, .jrn, .map, .cure, .tier]
  | .drainRecords .. => [.csr, .map, .vnr, .cure, .pwr, .dram]
  | .promotion .. => [.csr, .evt, .jrn, .adm, .map, .tier]
  | .grantEnable .. | .jigGo .. | .jigStepStaged .. => [.csr, .evt, .jrn, .map, .chans, .tier]
  | .jigUnpinStep .. => [.csr, .evt, .jrn, .map, .vnr, .tier]
  | .ctxEvict .. | .rkeyCmdCreate .. | .rkeyCmdRevoke .. => [.csr, .evt, .jrn, .map, .chans, .ten]
  | .frameAudit .. => [.csr, .evt, .jrn, .map, .tier, .fw]
  | .schedIssue .. => [.beat, .csr, .evt, .jrn, .adm, .chans, .dram]
  | .devRelease .. => [.csr, .evt, .jrn, .map, .vnr, .chans, .devEnd]
  | .demotionHandStep .. => [.csr, .evt, .jrn, .adm, .map, .chans, .tier]
  | .armDiverge .. | .armTcmErr .. | .imgFetchTimeout .. | .armRestart .. | .armUpdate .. | .fwHalt .. =>
      [.csr, .evt, .jrn, .ports, .adm, .chans, .arm]
  | .rdBeatTransfer .. | .cmpTransfer .. | .epochAdvance .. | .fenceEpochAdvance .. | .curAttach .. =>
      [.csr, .evt, .jrn, .ports, .adm, .tt, .results, .cure]
  | .segLiveChange .. | .segCtlWrite .. => [.csr, .evt, .jrn, .ports, .adm, .chans, .conns, .ten]
  | .imgBlockDone .. | .imgUpdate .. => [.csr, .evt, .jrn, .ports, .adm, .chans, .arm, .fw]
  | .rdLine .. | .rdPart .. | .wrLine .. | .wrPart .. | .atomAdd8 .. | .atomCas8 .. | .trim .. | .prefetch .. =>
      [.csr, .evt, .jrn, .ports, .adm, .results, .map, .chans, .tier]
  | .frpLiveLow .. | .queueEntry .. => [.csr, .evt, .jrn, .ports, .adm, .tt, .results, .chans, .cure]
  | .mirrorCapture .. => [.csr, .evt, .jrn, .ports, .adm, .tt, .results, .map, .cure]
  | .mirrorAttached .. => [.csr, .evt, .jrn, .ports, .adm, .tt, .results, .cure, .conns]
  | .curDegrade .. => [.csr, .evt, .jrn, .ports, .adm, .tt, .results, .map, .cure, .conns]
  | .nbrStateChange .. => [.csr, .evt, .jrn, .ports, .adm, .tt, .results, .map, .cure, .tier]
  | .dramDecode .. | .repairAnswer .. => [.csr, .evt, .jrn, .ports, .adm, .tt, .results, .map, .vnr, .chans, .cure]
  | .vnrFillLand .. | .demotion .. | .moveStepDone .. | .moveAbandon .. | .reclaimCmd .. | .reclaimDone .. | .commitNow ..
  | .commitSchedule .. | .commitApplied .. =>
      [.csr, .evt, .jrn, .ports, .adm, .tt, .results, .map, .vnr, .chans, .cure, .tier]
  | .chFenced .. => [.csr, .evt, .jrn, .ports, .adm, .tt, .results, .map, .vnr, .chans, .cure, .conns]
  | .drainComplete .. => [.csr, .evt, .jrn, .ports, .adm, .tt, .results, .chans, .cure, .conns, .ten, .pwr]
  | .armReady .. => [.csr, .evt, .jrn, .ports, .adm, .map, .chans, .cure, .conns, .ten, .fw, .dram]
  | .beatSync .. => [.beat, .csr, .evt, .jrn, .ports, .adm, .tt, .results, .map, .vnr, .chans, .cure, .tier]
  | .poolSelect .. => [.csr, .evt, .jrn, .ports, .adm, .tt, .results, .map, .vnr, .chans, .cure, .tier, .ten]
  | .connCmdOpen .. => [.csr, .evt, .jrn, .ports, .adm, .tt, .results, .map, .chans, .cure, .tier, .conns, .ten]
  | .bcmdRebuild .. => [.csr, .evt, .jrn, .ports, .adm, .tt, .results, .map, .chans, .cure, .tier, .arm, .fw]
  | .rxDatagram .. | .tenonReadResp .. | .tenonAck .. | .tenonNak .. | .tenonContextNotReady .. | .rtoExpiry ..
  | .connCmdClose .. | .connCmdInstall .. | .connCmdSwitch .. | .connCmdRetire .. | .connCmdError .. | .connCmdQuery ..
  | .connError .. | .ctxLoadDone .. =>
      [.csr, .evt, .jrn, .ports, .adm, .tt, .results, .map, .vnr, .chans, .cure, .tier, .conns, .ten]
  | .mirrorLines .. | .mirrorMasked .. | .mirrorPoison .. | .mirrorTrim .. | .mirrorMark .. | .mirrorLinesMarked ..
  | .lendAccess .. | .lendAlloc .. | .lendFree .. | .txDatagram .. | .tenonWrite .. | .tenonWriteImm .. | .tenonReadReq ..
  | .tenonAtomAdd8 .. | .tenonAtomCas8 .. | .tenonCureWrite .. | .ackSend .. | .noticePost .. | .regionRevoked .. =>
      [.csr, .evt, .jrn, .ports, .ntc, .adm, .tt, .results, .map, .vnr, .chans, .cure, .tier, .conns, .ten]
  | .stateCmdActive .. | .stateCmdPowerDown .. | .stateCmdSelfRefresh .. | .stateCmdOffRetention .. =>
      [.csr, .evt, .jrn, .ports, .ntc, .adm, .tt, .results, .map, .vnr, .chans, .cure, .tier, .conns, .ten, .pwr,
      .dram]
  | .drainStart .. | .resetRelease .. =>
      [.csr, .evt, .jrn, .ports, .ntc, .adm, .tt, .results, .map, .vnr, .chans, .devEnd, .cure, .tier, .conns, .ten,
      .pwr, .dram]
  | .frpCtlWrite .. | .sbTransfer .. | .setDeviceId .. | .setProfile .. | .setLayout .. | .setTiming .. | .setRegion ..
  | .setRanks .. | .setQos .. | .setChoreo .. | .clearMark .. | .setScrub .. | .diagPass .. | .rangeOp .. | .vnrEnable ..
  | .setDirtyBudget .. | .setTwin .. | .attach .. | .degrade .. | .fence .. | .setCure .. | .mapRepair .. | .setTier ..
  | .setNeighbour .. | .setGrant .. | .move .. | .jigStart .. | .reclaim .. | .grantAudit .. | .connOpen ..
  | .connClose .. | .keyInstall .. | .keySwitch .. | .keyRetire .. | .connQuery .. | .rkeyCreate .. | .rkeyRevoke ..
  | .ringSet .. | .segSet .. | .pwrStateMbx .. | .regWrite .. | .eventForce .. | .snapshot .. | .twinTimeout ..
  | .registerWrite .. | .regPortAccess .. =>
      [.csr, .evt, .jrn, .ports, .ntc, .adm, .tt, .results, .map, .vnr, .chans, .sbus, .devEnd, .cure, .tier, .conns,
      .ten, .arm, .fw, .pwr, .dram]
  | .porstAssert .. | .srstAssert .. | .corePowerLoss .. =>
      [.beat, .csr, .evt, .jrn, .ports, .ntc, .adm, .tt, .results, .map, .vnr, .chans, .sbus, .devEnd, .cure, .tier,
      .conns, .ten, .arm, .fw, .pwr, .dram]

/-- A command run in a state completes, in a state of which `P` holds. -/
def Answers (i : Instr) (s : State) (P : State → Prop) : Prop := ∃ t, exec i s = .next t ∧ P t

/-- A request accepted on a port: counted, and its tag outstanding (R52, R60). -/
def requestTaken (s : State) (p : Fin 8) (q : FrpReq) : State :=
  modPort (cntInc s (rFrpReqCnt p.val)) p fun x => { x with tags := x.tags ++ [q.tag.val] }

/-- The request segment `g` at the front of engine `e` is of row `row`, and is accepted: fewer than 128 requests in the engine;
on a data connection its region key passes (`k`), on a mirror connection R307 accepts it, a READ_REQ once the segments before it
are applied; its bytes lie in the LMS (R376, R408). `u` is the state in which it is carried out. -/
def SegAccepted (s : State) (e : Fin 8) (row : TenRow) (wr : Bool) (len : Seg → Nat) (c : Nat) (g : Seg)
    (k : Option (Nat × Rkey)) (u : State) : Prop :=
  let p := tenTurn s e
  frontSeg p e = some (c, g, row) ∧ jobsFull p e = false ∧ g.hdr.offset.toNat + len g ≤ lmsTop u ∧
  match (connOf p c).kind with
  | .data => ∃ key, keyCheck p e g.hdr = some (true, key) ∧ k = some (g.hdr.rkey.toNat / 2 ^ 17, key) ∧ u = popSeg p e
  | .mirror => (row = .readReq → earlierJobs p e c = false) ∧ (mirrorOk p g.hdr wr (len g)).1 = true ∧ k = none ∧ u = popSeg (mirrorOk p g.hdr wr (len g)).2 e
  | .lending => False

/-- What follows a request carried out: the engine answers what it can, and takes the next segments. -/
def segServed (u : State) (e : Fin 8) : State := tenTurn u e

/-- Firmware runs and has taken from mailbox `m` a request for the command `op`, permitted there, with `n` bytes of
arguments. -/
def RequestHeld (s : State) (m : Fin 4) (op n : Nat) (req : List Byte) : Prop :=
  mbxCur s m = some req ∧ argN req 0 2 = op ∧ mbxMay s m op = true ∧ argN req 3 1 = n

/-- The argument bytes of a request. -/
def reqArgs (req : List Byte) : List Byte := (req.drop 4).take (argN req 3 1)

/-- A commit of the groups of `mask`, after `put`, is not refused: none of the groups is scheduled, and a commit made at once
passes its checks. `u` is the state after it (R432, R438). -/
def CommitsTo (s : State) (mask at_ : Nat) (put : State → State) (u : State) : Prop :=
  let gs := maskGroups (BitVec.ofNat 16 mask)
  gs.any (isSched s) = false ∧ u = fwCommit (put s) mask at_ ∧
  (gs.any (isSched u) = true ∨ gs.any (fun g => rbit u rTopCommitLast (16 + g)) = false)

/-- A step that goes on. -/
def StepsTo (s t : State) : Prop := step s = .next t

/-- The block can make `n` steps from a state. -/
def RunsFor : Nat → State → Prop
  | 0, _ => True
  | n + 1, s => ∃ t, StepsTo s t ∧ RunsFor n t

/-- A state from which no number of steps ends in a fault or a refusal. -/
def Safe (s : State) : Prop := ∀ n, RunsFor n s

end Sys2Proof.Machine
end

