-- ==== Sys2Proof/Certificates/Slice0/Obligations.lean ====
section
/-!
DEFINITION. The statements about the model, for the provers.
-/
open Sys2Proof Sys2Proof.Machine



/-- Where a request presented on REQ completes: it is accepted and passes the checks its port makes first, and in what state
(R49, R52 to R56, R60, R61, R63, R64). -/
def Obligations.RequestsComplete : Prop := ∀ (s : State) (p : Fin 8) (q : FrpReq),
  reqReady s p = true → (port s p).tags.contains q.tag.val = false → q.mid.getLsbD 11 = false →
  let u := requestTaken s p q
  (∀ (c : Instr) (op : MemOp) (far err : RawLine),
    (c, op, err) ∈ [(Instr.rdLine p q far, MemOp.rdLine, far), (.rdPart p q far, .rdPart, far), (.wrLine p q, .wrLine, 0),
      (.wrPart p q, .wrPart, 0), (.atomAdd8 p q, .add8, 0), (.atomCas8 p q, .cas8, 0), (.trim p q, .trim, 0),
      (.prefetch p q far, .prefetch, far)] →
    flagsBad (some op) q = false → inDrain s = false →
    exec c s = .next (acceptMem u p (mkReq u p op q) q.tag.val err) ∧
    (op ≠ .prefetch → q.lock = false → addrBad u op q.addr.toNat = false → servedAtPort u (mkReq u p op q) = false →
      (isWriteOp op = true → (port s p).wdBuf = []) →
      Answers c s fun t => t.adm.wait = s.adm.wait ++ [{ mkReq u p op q with pool := poolOf u (mkReq u p op q) }] ∧
        (port t p).places = (port s p).places + 1 ∧ (port t p).tags = (port s p).tags ++ [q.tag.val])) ∧
  (flagsBad none q = false →
    exec (.nop p q) s = .next (nopPump (modPort u p fun x => { x with
      nops := x.nops ++ [⟨q.tag.val, (port s p).tags.filter fun t => !((port s p).cmpBuf.any fun c => c.tag = t)⟩] }) p)) ∧
  (flagsBad none q = false → inDrain s = false →
    exec (.cureFence p q) s = .next (fencePump (modPort u p fun x => { x with
      fences := x.fences ++ [⟨q.tag.val, fenceCovers u p, (port s p).eps, (port s p).lastEp, (port s p).lastMir⟩] }) p)) ∧
  (∀ op : Fin 6, exec (.reservedOpcode p op q) s = .next (refuseAtPort (lockCounted
    (perr u p 21 q.tag.val { EvtOrigin.none with mid := q.mid }) p q) p false q.tag.val .errRange))

/-- Where the transfers of a port's channels, its lines, and the notice channel complete, and in what state (R50 to R52, R58
to R61, R66, R68, R72). -/
def Obligations.TransfersComplete : Prop := ∀ (s : State) (p : Fin 8),
  ((port s p).mode = .up → (port s p).creds ≠ 0 → ∀ (d : LineData) (be : LineMask),
    let u := modPort (cntInc s (rFrpWdCnt p.val)) p fun x => { x with creds := x.creds - 1 }
    ((port s p).wdWait = [] →
      exec (.wdBeat p d be) s = .next (modPort u p fun x => { x with wdBuf := x.wdBuf ++ [⟨d, be⟩] })) ∧
    (∀ rest : List (Option Nat), (port s p).wdWait = none :: rest →
      exec (.wdBeat p d be) s = .next (beatOut (modPort u p fun x => { x with wdWait := rest }) p)) ∧
    (∀ (rid : Nat) (rest : List (Option Nat)), (port s p).wdWait = some rid :: rest →
      exec (.wdBeat p d be) s = .next (giveData (modPort u p fun x => { x with wdWait := rest }) rid ⟨d, be⟩))) ∧
  ((port s p).mode = .up → ∀ (b : RdBeat) (rest : List RdBeat), (port s p).rdBuf = b :: rest →
    exec (.rdBeatTransfer p) s =
      .next (portPump (cntInc (modPort s p fun x => { x with rdBuf := rest }) (rFrpRdCnt p.val)) p)) ∧
  ((port s p).mode = .up → ∀ (c : Cmp) (rest : List Cmp), (port s p).cmpBuf = c :: rest →
    (port s p).rdBuf.any (fun b => b.tag = c.tag) = false →
    exec (.cmpTransfer p) s =
      .next (portPump (modPort s p fun x => { x with cmpBuf := rest, tags := x.tags.filter fun t => t ≠ c.tag }) p)) ∧
  (exec (.frpLiveLow p) s = .next (portQuiesce (modPort s p fun x => { x with live := false }) p) ∧
    ((port s p).mode ≠ .up → exec (.frpLiveLow p) s = .next (modPort s p fun x => { x with live := false }))) ∧
  (let v := maskNote (modPort s p fun x => { x with live := true }) (Fin.castLE (by decide) p);
    (port s p).mode = .down → isReady v = true → rbit v (rFrpCtl p.val) 0 = true → s.cure.drain ≠ .complete →
    Answers (.frpLiveHigh p) s fun t => (port t p).mode = .up ∧ (port t p).live = true ∧
      (port t p).creds = fld v (rFrpCtl p.val) 15 8 ∧ (port t p).tags = []) ∧
  ((port s p).mode = .quiesce → (tagsInside s p).isEmpty = true →
    exec (.portQuiesceDone p) s = .next (portUpTry (modPort s p fun x => { x with mode := .down, tags := [], places := 0 }) p) ∧
    ((port s p).live = false →
      exec (.portQuiesceDone p) s = .next (maskNote (modPort s p fun x => { x with mode := .down, tags := [], places := 0 })
        (Fin.castLE (by decide) p)))) ∧
  (∀ (mid : BitVec 12) (v : Word32) (h : RegHit), regFind (rFrpCtl p.val).off = some h → h.high = false →
    exec (.frpCtlWrite p mid v) s = .next (Machine.regWrite s mid h (v.setWidth 64) noEnv)) ∧
  (∀ (n : Notice) (rest : List Notice), s.ntc = n :: rest →
    exec .ntcTransfer s = .next (cntInc { s with ntc := rest } rNtcMsgCnt))

/-- Where the commands of admission complete, and in what state (R110 to R133). -/
def Obligations.AdmissionComplete : Prop := ∀ s : State,
  (∀ (pool : Fin 16) (err far : RawLine),
    let u := poolPrep s pool far
    (choose u pool (candidates u pool) = none → exec (.poolSelect pool err far) s = .next u) ∧
    (∀ (r : Req) (k : TtClass), choose u pool (candidates u pool) = some r →
      ttClassFor (poolChosen u pool (candidates u pool) r) pool r.src = some k →
      exec (.poolSelect pool err far) s = .next (admitReq (poolChosen u pool (candidates u pool) r) pool r k err far))) ∧
  (∀ p : Fin 8, (port s p).lock.held = true → exec (.lockCeiling p) s = .next (lockCeilingEv (lockBreak s p .errLock false) (port s p).lock)) ∧
  (∀ (src : Fin 20) (pool : Fin 16) (r : Req), headOf s pool src = some r → eligible s pool r = true →
    (r.op = .prefetch → exec (.prefetchDrop src pool) s = .next (cntInc (unqueue s r) rAdmPfDropCnt)) ∧
    (0 < fld s rAdmWaitAlarm 23 0 → exec (.waitLong src pool) s =
      .next (evo s 135 [BitVec.ofNat 32 src.val, BitVec.ofNat 32 pool.val] (reqOrigin r)))) ∧
  exec .hwClr s = .next { s with adm := { s.adm with high := s.tt.countP inTt } }

/-- Where the commands of a channel's scheduler complete, and in what state (R136, R137, R140, R142, R145, R147, R149, R158
to R160). -/
def Obligations.SchedulerComplete : Prop := ∀ (s : State) (c : Fin 16),
  let q := (chan s c).sch
  let u := mclkEdge s c
  let rest (v : State) : State := seqSlot (seqSlot v c 0) c 1
  (mayIssue u c = false → exec (.schedIssue c) s = .next (rest u)) ∧
  (mayIssue u c = true →
    ((chan u c).sch.sr = .active →
      let v := noteRfmWait (exitPowerDown u c).2 c
      ((exitPowerDown u c).1 = true → exec (.schedIssue c) s = .next (glueAdvance v c)) ∧
      ((exitPowerDown u c).1 = false →
        exec (.schedIssue c) s = .next (glueAdvance (issueSub (issueSub v c 0) c 1) c))) ∧
    ((chan u c).sch.sr = .entry →
      (hasRequest (chan u c).sch = false → exec (.schedIssue c) s = .next (rest (srStep u c))) ∧
      (hasRequest (chan u c).sch = true → exec (.schedIssue c) s = .next (rest (Machine.srWake u c)))) ∧
    ((chan u c).sch.sr = .selfRefresh → exec (.schedIssue c) s = .next (rest (Machine.srWake u c)))) ∧
  (let w := wstateNext q.wstate q.wq.length (fld s (rSchWdrain c.val) 22 16) (fld s (rSchWdrain c.val) 6 0)
      (decide (q.hold = .holding)) (inDrain s) (q.wq.isEmpty && q.glue.isEmpty) (decide (q.hold = .run));
    w ≠ q.wstate → ∃ v, (chan v c).sch = { q with
        wstate := w, runA := 0, runB := 0, breakA := none, breakB := none, wrNowA := none, wrNowB := none
        idleA := false, idleB := false } ∧
      exec (.wdrainEval c) s = .next (match w with
        | .drain => cntInc v (rSchDrainCnt c.val)
        | .flush => glueClose v c (fun _ => true) false
        | .read => v)) ∧
  (exec (.urgencyTick c) s = .next (cntAdd
    (modSch s c fun q => { q with rq := q.rq.map fun e => { e with urg := urgAt s c (tick s) e } }) (rSchUrg3Cnt c.val)
    (q.rq.countP fun e => decide (e.urg < 3) && decide (urgAt s c (tick s) e = 3)))) ∧
  (∀ sub : Fin 2, q.wstate = .read → 0 < fld s (rSchCtl c.val) 7 0 → readQueued s c sub.val = false →
    exec (.idleWrite c sub) s =
      .next (modSch s c fun q => if sub = 0 then { q with idleA := true } else { q with idleB := true })) ∧
  (∀ (b : BankId) (row : Nat),
    let k : Coord := ⟨c.val, b.sub.val, b.rank.val, b.bg.val, b.ba.val, 0, 0⟩
    (bankAt s c (bankKey k)).row = some row → fld s (rSchPage c.val) 1 0 = 2 → rowDone q { k with row := row } = true →
    mayIssue s c = true → bankFree s c k (nowCk s c) = true → earliestPre s c (bankKey k) ≤ nowCk s c + 3 →
    exec (.pageIdleClose c b) s = .next (seqTake (closeBanks s c (· = bankKey k)) c k.sub 1)) ∧
  (∀ (a : Arrival) (rest : List Arrival) (t : State), q.arrive = a :: rest → enterOne s c a = some t →
    exec (.queueEntry c) s =
      .next (arrivalLeft (modSch t c fun q => { q with arrive := eraseFirst (fun x => x = a) q.arrive }) a)) ∧
  (∀ rank : Fin 32, pdEnabled s c = true → schedUp s c = true → (rankAt s c rank.val).pwr = .active → q.sr = .active →
    rankOk s rank.val = true → rankWanted q rank.val = false → (chan s c).phy.window ≠ some (prankOf s rank.val) →
    (rankBusy s c rank.val = false → exec (.rankPowerDown c rank) s = .next (enterPowerDown s c rank.val)) ∧
    (rankBusy s c rank.val = true →
      exec (.rankPowerDown c rank) s = .next (modRank s c rank.val fun x => { x with back := true }))) ∧
  (srEnabled s c = true → schedUp s c = true → q.hold = .run → q.sr = .active → hasRequest q = false →
    (chan s c).phy.window = none → Answers (.channelSrEntry c) s fun t =>
      (chan t c).sch = { q with sr := .entry, sreDone := 0 } ∧ (chan t c).ref.gen = (chan s c).ref.gen + 1) ∧
  (hasRequest q = true →
    (q.sr = .entry → exec (.srWake c) s = .next (cntInc (modRef (srExit s c) c fun r => { r with gen := r.gen + 1 })
      (rSchSreAbandonCnt c.val))) ∧
    (q.sr = .selfRefresh → exec (.srWake c) s = .next (cntInc (refSrExit (srExit s c) c) (rSchSrxCnt c.val))))

/-- Where the commands of the channel Hold and of the device Hold complete, and in what state (R162 to R164, R167). -/
def Obligations.HoldComplete : Prop := ∀ (s : State) (c : Fin 16),
  let q := (chan s c).sch
  let back := wstateNext .flush q.wq.length (fld s (rSchWdrain c.val) 22 16) (fld s (rSchWdrain c.val) 6 0) false (inDrain s)
    (q.wq.isEmpty && q.glue.isEmpty) true
  (q.hold = .run → devHolding s = false →
    let u := probeAbort (glueClose (modSch s c fun q => { q with
      hold := .holding, inDev := false, devNext := false, wstate := .flush, runA := 0, runB := 0, breakA := none, breakB := none
      wrNowA := none, wrNowB := none, idleA := false, idleB := false }) c (fun _ => true) false) c 6
    (s.pwr.pfail = false → exec (.chHold c) s = .next u) ∧
    (s.pwr.pfail = true → exec (.chHold c) s = .next (holdAbort u c 4))) ∧
  (devHolding s = false → q.devNext = false → q.hold = .holding → Answers (.chHoldRelease c) s fun t =>
    (chan t c).sch = { q with hold := .run, lastEnd := 5, inDev := false, wstate := back }) ∧
  (devHolding s = false → q.hold = .held →
    (let v := schRelease s c none
    (v.2 = true → exec (.chHoldRelease c) s =
      .next (setReleasing (chanPendDrop (forecastNote s (trfcRelease v.1 c) c) c) c 2)) ∧
    (v.2 = false → exec (.chHoldRelease c) s =
      .next (setReleasing (chanPendDrop (forecastNote s (trfcRelease v.1 c) c) c) c 1)))) ∧
  (q.hold = .holding → drained s c = true → Answers (.chHeld c) s fun t =>
    (chan t c).sch = { q with hold := .held, banks := (chan t c).sch.banks } ∧
    ∀ x ∈ (chan t c).sch.banks, x.2.row = none) ∧
  (q.hold = .holding ∨ q.hold = .held →
    (q.inDev = false → exec (.holdExpired c) s = .next (ev (setReleasing (chanPendDrop s c) c 3) (chEv c 2))) ∧
    (q.inDev = true → exec (.holdExpired c) s = .next (forEach (popChans s) (devForget s) fun s d =>
      if (chan s d).sch.hold = .holding ∨ (chan s d).sch.hold = .held then ev (holdAbort s d 3) (chEv d 2) else s))) ∧
  (q.hold = .releasing →
    (q.devNext = false → Answers (.chReleased c) s fun t =>
      (chan t c).sch = { q with hold := .run, inDev := false, wstate := back }) ∧
    (q.devNext = true → exec (.chReleased c) s = .next (holdStart
      (evd (modSch s c fun q => { q with hold := .run, inDev := false, wstate := back }) (chEv c 1) (detail32 q.lastEnd))
      c true))) ∧
  (devHolding s = false → exec .devHold s = .next (forEach (popChans s) s fun s c => holdStart s c true)) ∧
  (devState s = 2 → exec .devRelease s = .next (devApply s)) ∧
  (devState s = 1 → exec .devRelease s = .next { devForget (forEach (popChans s) s fun s c =>
      match (chan s c).sch.hold with
      | .holding => toRun (modSch s c fun q => { q with lastEnd := 5 }) c
      | .held => chanRelease s c
      | _ => s) with devEnd := 5 })

/-- Where the commands of refresh and of the disturbance table complete, and in what state (R173 to R192). -/
def Obligations.RefreshComplete : Prop := ∀ (s : State) (c : Fin 16),
  let r := (chan s c).ref
  (∀ k : Nat,
    let u := rtNote (firstSlot s c) c
    let at' := slotStart u c k
    slotDue (firstSlot s c) c k = true → exec (.refreshSlot c k) s = .next
      (forEach (slotKeys (modRef (slotDecide u c k) c fun r => { r with lastSlot := at' }) c k)
        (modRef (slotDecide u c k) c fun r => { r with lastSlot := at' }) fun v key =>
          let d : Int := at' + (key / 4 * fld v (rRefCfg c.val) 29 20 : Nat) - (beatNs v : Nat)
          slotTarget v c (decide (key ∈ slotPostponed u c k)) key (nowCk v c + nsToCk v c d.toNat))) ∧
  (∀ t : RefTgt, 0 < smGet 0 r.owed (tgtKey s c t) → rtQueued s c (tgtKey s c t) = false → windowOn s c = false →
    exec (.catchupRefresh c t) s = .next (cntInc (modRef (refreshTarget s c (tgtKey s c t) (nowCk s c)) c fun r => { r with
      owed := smSet 0 r.owed (tgtKey s c t) (smGet 0 (chan s c).ref.owed (tgtKey s c t) - 1) }) (rRefCatchupCnt c.val))) ∧
  (∀ t : RefTgt, Answers (.backstopTick c t) s fun u =>
    let d := smGet 0 r.debit (tgtKey s c t) + 1
    (chan u c).ref = { r with
      debit := smSet 0 r.debit (tgtKey s c t) d
      backstop := if ((if s.beat.valid then refL r.gran + 1 else 1 : Int)) ≤ d ∧ tgtKey s c t ∉ r.backstop
        then r.backstop ++ [tgtKey s c t] else r.backstop }) ∧
  (∀ t : RefTgt, tgtKey s c t ∈ r.backstop → exec (.refBackstop c t) s = .next (evd (cntInc
    (modRef (refreshTarget (probeAbort (cutWindow s c) c 3) c (tgtKey s c t)
      (nowCk (probeAbort (cutWindow s c) c 3) c)) c fun r => { r with
      backstop := r.backstop.filter (fun x => x ≠ tgtKey s c t) }) (rRefBackstopCnt c.val)) (chEv c 6) (detail32 t.rank.val))) ∧
  (∀ p : PollRead, s.sbus[busOf c].on = true → p.fails = [] →
    let u := cntAdd s (rSbiXferCnt c.val) p.xfers
    let v := if p.mr4.contains .beyond then ev u (chEv c 9) else u
    exec (.tempPoll c p) s = .next (modRef v c fun x => pollNext x (pollM (fld v (rRefTemp c.val) 15 8) p))) ∧
  (∀ m : Nat, r.mNext = some m → Answers (.tempRate c) s fun t =>
    (chan t c).ref = { r with m := m, mNext := none, lowPolls := 0, gen := r.gen + 1 }) ∧
  (∀ g : Nat, r.granNext = some g → r.owed = [] → Answers (.granChanged c) s fun t =>
    (chan t c).ref = { r with gran := g, granNext := none, owed := [], gen := r.gen + 1 }) ∧
  (∀ (b d : Nat) (probe : Bool),
    (refQ s c < d + quietLen s c → exec (.windowStart c b d probe) s = .next (ev (refErr s c 5) (chEv c 12))) ∧
    (d + quietLen s c ≤ refQ s c → windowAt s c b d ≠ b →
      exec (.windowStart c b d probe) s = .next (windowSlip s c ⟨windowAt s c b d, d⟩ probe)) ∧
    (d + quietLen s c ≤ refQ s c → windowAt s c b d = b → Answers (.windowStart c b d probe) s fun t =>
      (probe = true → (chan t c).ref = { r with nextDwell := some ⟨b, d⟩ }) ∧
      (probe = false → r.nextRetrain ≠ some ⟨b, d⟩ →
        (chan t c).ref = { r with nextRetrain := some ⟨b, d⟩, gen := r.gen + 1 }))) ∧
  (∀ x : NbrRow,
    let at' (x : NbrRow) : Coord := ⟨c.val, x.sub, x.rank, x.bg, x.ba, x.row, 0⟩
    (r.nbrQ.find? fun x => mitigates s c (at' x) && !raaFull s c (bankKey (at' x))) = some x →
    exec (.neighbourRefresh c) s = .next (nbrStart (modRef s c fun r => { r with nbrQ := eraseFirst (fun y => y = x) r.nbrQ }) c
      (at' x) (([-2, -1, 1, 2] : List Int).countP fun o => decide (0 ≤ (x.row : Int) + o ∧ (x.row : Int) + o < (2 ^ rowBits s : Int))))) ∧
  exec (.dstTableClear c) s = .next (modRef s c fun r => { r with sets := [], stallSeen := false }) ∧
  (∀ b : BankId,
    let k : Coord := ⟨c.val, b.sub.val, b.rank.val, b.bg.val, b.ba.val, 0, 0⟩
    let key := bankKey k
    (decide (key ∈ r.rfmDue) || r.rfmReq && decide (r.raaimt ≤ smGet 0 r.raa key)) = true → mitigates s c k = true →
    let u := modRef s c fun r => { r with rfmDue := eraseFirst (fun x => x = key) r.rfmDue }
    ((Config.rfmSupported c.val || r.rfmReq) = true → exec (.rfmIssue c b) s = .next (rfmBank u c key)) ∧
    ((Config.rfmSupported c.val || r.rfmReq) = false → exec (.rfmIssue c b) s = .next (refreshRank u c b.rank.val)))

/-- Where the commands of the PHY, of training, of probing and of the sideband complete, and in what state (R201, R203,
R205, R206, R208 to R210, R214, R217, R218, R220, R222, R223, R226, R229). -/
def Obligations.PhyComplete : Prop := ∀ (s : State) (c : Fin 16),
  let x := chan s c
  let z : Vector Nat 4 := Vector.replicate 4 0
  (∀ (i : Instr) (m : TrainMode), (i, m) ∈ [(Instr.trainCold c, .cold), (.trainWarm c, .warm), (.trainRetrain c, .retrain)] →
    trainAccepted s c = true →
    let u := if m = .retrain then s else trainOpen s c
    (m ≠ .cold ∨ (chan u c).keep.retained = false → exec i s = .next (modPhy u c fun p => { p with
      run := some m, train := .training, info := ⟨false, if m = .retrain then 5 else 3, 0, false, 15⟩ })) ∧
    (m = .cold → (chan u c).keep.retained = true → Answers i s fun t =>
      (chan t c).phy.train = .failed ∧ (chan t c).phy.run = none ∧ (chan t c).keep = (chan u c).keep)) ∧
  (∀ (m : TrainMode) (e : TrainEnd), x.phy.run = some m →
    (e.fail = none → Answers (.trainDone c e) s fun t => (chan t c).phy.run = none ∧ (chan t c).phy.train = .trained ∧
      (chan t c).phy.pranks = BitVec.ofNat 4 (2 ^ prankCount t - 1) ∧ (chan t c).phy.info = ⟨false, 14, 0, false, 15⟩) ∧
    (∀ i : TrainInfo, e.fail = some i → (m = .cold ∨ m = .warm ∧ i.step.toNat < 7) → Answers (.trainDone c e) s fun t =>
      (chan t c).phy.run = none ∧ (chan t c).phy.train = .failed ∧ (chan t c).phy.info = { i with fail := true })) ∧
  (∀ (step : BitVec 4) (lanes : List LaneFound) (vrefs : List VrefFound), x.phy.run = some .retrain → x.sch.hold ≠ .held →
    exec (.trainAbort c step lanes vrefs) s = .next (fenceIfInService
      (trainFail (trainApply s c (min 14 (step.toNat + 1)) lanes vrefs) c ⟨true, step, 0, false, 15⟩) c 1)) ∧
  (allSr s c = true → x.keep.owner = false → exec (.handover c) s = .next (modKeep s c fun k => { k with
    owner := true, handovers := k.handovers + 1, retained := true })) ∧
  (x.phy.pllLock = true → exec (.takeback c) s = .next (modKeep s c fun k => { k with owner := false })) ∧
  (devHeld s = true →
    exec (.discard c) s = .next (ev (modKeep s c fun k => { k with retained := false }) (chEv c 20))) ∧
  exec (.clrLost c) s = .next (modKeep s c fun k => { k with lost := false }) ∧
  (∀ crc : Bool, x.keep.owner = true → exec (.phyAlert c crc) s = .next s) ∧
  (∀ crc : Bool, x.keep.owner = false → Answers (.phyAlert c crc) s fun t => (chan t c).phy.lastAlert = some s.beat.fclk ∧
    (chan t c).phy.streak = if x.phy.lastAlert.any (fun u => decide (s.beat.fclk < u + alertFclk (probeAbort s c 4) c + alertFclk (probeAbort s c 4) c))
      then x.phy.streak + 1 else 1) ∧
  (∀ (osc : List OscRead) (sweep : List SweepRead) (failed cut : Bool), s.beat.valid = true →
    rbit s (rPhyRtCfg c.val) 31 = true → x.sch.sr = .active → windowOn s c = false →
    let go := windowCheck s c (4 * fld s (rPhyRtCfg c.val) 9 0) x.ref.nextRetrain false
    (go.1 = false → exec (.retrainWindow c osc sweep failed cut) s = .next go.2) ∧
    (go.1 = true →
      let pr := (chan go.2 c).phy.nextPrank
      let u := retrainOpen go.2 c failed
      let v := if cut then cutWindow u c else retrainAdjust u c pr osc sweep
      (chan u c).phy.window = some pr ∧ (chan u c).ref.nextRetrain = none ∧
      (chan u c).phy.oscFail = smSet 0 (chan go.2 c).phy.oscFail pr (if failed then smGet 0 (chan go.2 c).phy.oscFail pr + 1 else 0) ∧
      (smGet 0 (chan u c).phy.oscFail pr = 3 → exec (.retrainWindow c osc sweep failed cut) s = .next (linkFail v c)) ∧
      (smGet 0 (chan u c).phy.oscFail pr ≠ 3 → exec (.retrainWindow c osc sweep failed cut) s = .next v))) ∧
  (s.beat.valid = true → probeRun s c = true → x.phy.dwelling = false → ∀ t : ProbeTgt,
    let go := windowCheck s c (4 * fld s (rPrbCfg c.val) 18 10) x.ref.nextDwell true
    let u := modRef go.2 c fun r => { r with nextDwell := none }
    (0 < x.phy.dwell → tgtOk s c x.phy.target = true →
      (go.1 = false → exec (.probeDwell c) s = .next go.2) ∧
      (go.1 = true →
        exec (.probeDwell c) s = .next (modPhy u c fun p => { p with dwelling := true, dBits := z, dMisses := z }))) ∧
    (x.phy.dwell = 0 → tgtFrom s c (tgtIdx x.phy.target) = some t →
      (go.1 = false → exec (.probeDwell c) s = .next go.2) ∧
      (go.1 = true → exec (.probeDwell c) s = .next (modPhy u c fun p => { p with
        dwelling := true, target := t, dwell := 0, bits := z, misses := z, dBits := z, dMisses := z })))) ∧
  (x.phy.dwelling = true →
    (x.phy.dwell + 1 < fld (cntInc s (rPrbDwellCnt c.val)) (rPrbCfg c.val) 30 27 → exec (.probeDwellEnd c) s =
      .next (modPhy (cntInc s (rPrbDwellCnt c.val)) c fun p => { p with
        dwelling := false, dwell := x.phy.dwell + 1, bits := addV x.phy.bits x.phy.dBits
        misses := addV x.phy.misses x.phy.dMisses, dBits := z, dMisses := z })) ∧
    (fld (cntInc s (rPrbDwellCnt c.val)) (rPrbCfg c.val) 30 27 ≤ x.phy.dwell + 1 → Answers (.probeDwellEnd c) s fun t =>
      (chan t c).phy.dwelling = false ∧ (chan t c).phy.dwell = 0 ∧
      (chan t c).phy.target = tgtOf ((tgtIdx x.phy.target + 1) % 160)) ∧
    (∀ k : PrbCause, exec (.prbAbort c k) s = .next (evd (cntInc (modPhy s c fun p => { p with
      dwelling := false, dwell := 0, bits := z, misses := z, dBits := z, dMisses := z }) (rPrbAbortCnt c.val))
      (chEv c 18) (detail32 (causeNo k))))) ∧
  (∀ (mid : BitVec 12) (v : Word32) (h : RegHit), regFind (rSbiCmd c.val).off = some h → h.high = false →
    exec (.sbTransfer c mid v) s = .next (Machine.regWrite s mid h (v.setWidth 64) noEnv)) ∧
  (∀ y : SbXfer, x.phy.sb = some y → s.sbus[busOf c].cur = some c →
    let stop (k : BitVec 3) := modPhy s c fun p => { p with sb := none, sbResult := k }
    (∀ d : Word32, exec (.sbDone c (.ok d)) s = .next (busFree (if y.write then stop 0 else setReg (stop 0) (rSbiData c.val)
      (d.setWidth 64 &&& if y.len = 0 then 0xFF else if y.len = 1 then 0xFFFF else 0xFFFF_FFFF)) c)) ∧
    exec (.sbDone c .absent) s = .next (busFree (stop 4) c) ∧
    (y.tries < 3 → ∀ e : SbEnd, e = .nack ∨ e = .timeout → exec (.sbDone c e) s =
      .next (busFree (modPhy s c fun p => { p with sb := some { y with tries := y.tries + 1 } }) c)) ∧
    (3 ≤ y.tries → exec (.sbDone c .nack) s = .next (busFree (sbFailed (stop 1) c 1 y.slot y.lid) c) ∧
      exec (.sbDone c .timeout) s = .next (busFree (sbFailed (stop 2) c 2 y.slot y.lid) c))) ∧
  exec (.pllLockLoss c) s = .next (modPhy s c fun p => { p with pllLock := false }) ∧
  (x.phy.window.isSome = true → exec (.retrainingWindowEnd c) s =
    .next (cntInc (modPhy s c fun p => { p with window := none }) (rPhyRtCnt c.val)))

/-- Where the commands of the code, of Glue-up and of the maintenance engines complete, and in what state (R101, R222, R236,
R241, R242, R244, R245, R249 to R251, R253, R254, R268). -/
def Obligations.CodeComplete : Prop := ∀ (s : State) (c : Fin 16),
  let x := (chan s c).code
  (∀ (i : Fin 8) (slot : Fin 2) (chip : Fin 16),
    let m := marksAt s c i.val
    let mine := if slot.val = 0 then m.m0 else m.m1
    let other := if slot.val = 0 then m.m1 else m.m0
    (chip.val < (if isX8 s c then 5 else 10) → mine = none → other.map Mark.chip ≠ some chip.val →
      (isX8 s c = false ∨ other = none) → exec (.markSlotSet c i slot chip) s = .next (setMark s c i.val slot.val chip.val false)) ∧
    ((chan s c).sch.hold = .held → exec (.markSlotClear c i slot) s =
      .next (putMarks s c i.val (if slot.val = 0 then { m with m0 := none } else { m with m1 := none })))) ∧
  (s.beat.valid = true → exec (.ceWindowEnd c) s = .next (modCode s c fun x => { x with winCnt := [] })) ∧
  (∀ (err : RawLine) (f : Flight), readyFlight s c = some f →
    let r := decodeAt s c f.ent.coord f.probe (f.raw ^^^ err)
    (∀ rid : Nat, f.ent.dest = .raw rid →
      exec (.dramDecode c err) s = .next (ttLeave (rawReturn (dropFlight s c f) c (f.raw ^^^ err)) rid none)) ∧
    ((∀ rid : Nat, f.ent.dest ≠ .raw rid) →
      (f.probe = none →
        let u := countLine s c r.kind
        let v := countChips u c (markIdx u f.ent.coord) r.chips none
        let w := if r.kind = .uncorr then askTrial v c f.ent.coord else v
        exec (.dramDecode c err) s = .next (readReturn (dropFlight w c f) c f.ent r)) ∧
      (∀ chip : Nat, f.probe = some chip →
        (r.kind = .uncorr ∨ r.kind = .poison → exec (.dramDecode c err) s = .next (reread s c f)) ∧
        (r.kind ≠ .uncorr → r.kind ≠ .poison →
          let u := countLine (countProbe s c chip (f.raw ^^^ err) r.data) c r.kind
          exec (.dramDecode c err) s = .next
            (readReturn (dropFlight (countChips u c (markIdx u f.ent.coord) r.chips (some chip)) c f) c f.ent r))))) ∧
  (∀ (errA errB : RawLine) (t : TrialReq) (rest : List TrialReq), x.trials = t :: rest →
    let i := markIdx s (trialCoord s c t)
    (trialSoon s c i = true → exec (.x8Trial c errA errB) s = .next (modCode s c fun x => { x with trials := rest })) ∧
    (trialSoon s c i = false → exec (.x8Trial c errA errB) s =
        .next (trialRun (modCode s c fun x => { x with trials := rest }) c (trialCoord s c t) errA errB) ∧
      Answers (.x8Trial c errA errB) s fun u =>
        (chan u c).code.trials = rest ∧ smGet none (chan u c).code.lastTrial i = some s.beat.fclk)) ∧
  (∀ gid : Nat, exec (.glueWindowEnd c gid) s = .next (glueClose s c (fun g => g.gid = gid) false)) ∧
  (∀ (gid : Nat) (err : RawLine) (f : Flight) (g : GlueEnt),
    (chan s c).sch.flight.find? (fun f => f.ent.dest = .merge gid && !f.again) = some f → logHolds s c g.coord = false →
    (chan s c).sch.glue.find? (fun g => g.gid = gid) = some g → (chan s c).sch.wq.length < 96 → f.probe = none →
    mergeCopy s g.lms.toNat = none → vnrLooks s = false →
    let marks := markChips (marksAt s c (markIdx s g.coord))
    let a := decodeCw (isX8 s c) marks (rawCw (f.raw ^^^ err) 0)
    let b := decodeCw (isX8 s c) marks (rawCw (f.raw ^^^ err) 1)
    let fa := halfFull g.mask 0
    let fb := halfFull g.mask 1
    let u := cntAdd (dropFlight s c f) (rGluHalfCnt c.val) (flag fa + flag fb)
    let kind := lineKind (if fa then .clean else a.kind) (if fb then .clean else b.kind)
    (fa = true → fb = true → exec (.glueMerge c gid err) s = .next (mergeOut u c g g.data (decide (a.kind = .poison)))) ∧
    ((fa = false ∨ fb = false) → kind ≠ .uncorr → kind ≠ .poison → exec (.glueMerge c gid err) s = .next (mergeOut
      (countChips (countLine u c kind) c (markIdx s g.coord)
        ((if fa then [] else attributed (isX8 s c) a) ++ (if fb then [] else attributed (isX8 s c) b)) none)
      c g (mergeLine g.mask g.data (BitVec.ofNat 512 (bytesNat (a.data ++ b.data)))) false))) ∧
  (∀ eng : Fin 4, inDrain s = false → raspBusy s eng = false →
    (∀ b : BcmdRun, s.map.bcmd = some b → s.map.bprog < bmapLines s → exec (.raspUnit eng) s = .next (bcmdUnit s eng b)) ∧
    ((s.map.bcmd = none ∨ bmapLines s ≤ s.map.bprog) → recastReady s = false →
      (∀ f : FillEnt, s.map.fill.find? (fun f => !(fillTodo s f).isEmpty) = some f → exec (.raspUnit eng) s =
        .next (forEach ((fillTodo s f).take 16) s fun s n => fillWrite s eng (f.panel * 65536 + 64 * n))) ∧
      (s.map.fill.find? (fun f => !(fillTodo s f).isEmpty) = none →
        (∀ d : Fin 16, scrubChan s = some d → exec (.raspUnit eng) s = .next (scrubSlice s eng d)) ∧
        (scrubChan s = none → ∀ (d : Fin 16) (r : DiagRun), allChans.find? (fun c => (diagWork s c).isSome) = some d →
          diagWork s d = some r → exec (.raspUnit eng) s = .next (diagUnit s eng d r))))) ∧
  (rbit s (rScrCfg c.val) 0 = true → s.beat.valid = true →
    let v := x.passBeat.orElse fun _ => some (beatNs s)
    (x.owed < 64 → Answers (.scrubSliceDue c) s fun t => (chan t c).code = { x with owed := x.owed + 1, passBeat := v }) ∧
    (64 ≤ x.owed → Answers (.scrubSliceDue c) s fun t => (chan t c).code = { x with late := true, passBeat := v }))

/-- Where the commands of repair and diagnostics complete, and in what state (R255, R257, R259, R261 to R263, R266, R442).
-/
def Obligations.RepairComplete : Prop := ∀ (s : State) (c : Fin 16),
  let x := (chan s c).code
  (∀ r : List EcsRead, Answers (.ecsPoll c r) s fun t => (chan t c).code.ecs = r.foldl (fun m e =>
    smSet EcsRec.none m ((e.rank.val * 2 + e.sub.val) * 16 + e.chip.val) { e.val with polled := true }) x.ecs) ∧
  (∀ (i : Fin 4096) (mid : BitVec 12) (v : Word64), (smGet InlEnt.none x.inl i.val).valid = false → (inlOf v).valid = true →
    inlReason s c i.val (inlOf v) = none →
    let e := inlOf v
    let u := modCode s c fun x => { x with inl := smSet InlEnt.none x.inl i.val { e with active := !e.copy } }
    (e.copy = false → exec (.inlayEntryWrite c i mid v) s = .next (remapQueues u c)) ∧
    (e.copy = true → exec (.inlayEntryWrite c i mid v) s = .next (copyWake (modCode u c fun x => { x with
      copy := some ⟨e.sub, e.rank, e.bg, e.ba, e.row, 2 ^ rowBits u - 18 + e.spare, some i.val⟩ }) c e.rank))) ∧
  (∀ v : Word64,
    let u := setReg s (rInlCopy c.val) (v &&& ~~~ fieldMask 63 61 &&& ~~~ fieldMask 31 18)
    copyBusy u c = false → (offService u c = true ∨ (chan s c).sch.hold = .held) →
    exec (.inlCopy c v) s = .next (copyWake (modCode u c fun x => { x with
      copyRes := 0
      copy := some ⟨fieldOf v 60 60, fieldOf v 59 55, fieldOf v 54 52, fieldOf v 51 50, fieldOf v 17 0, fieldOf v 49 32, none⟩ })
      c (fieldOf v 59 55))) ∧
  (∀ (errs : List (Nat × RawLine)) (r : RowCopy), x.copy = some r → Answers (.rowCopyDone c errs) s fun t =>
    (chan t c).code.copy = none ∧
    ∀ i : Nat, r.entry = some i → (smGet InlEnt.none (chan t c).code.inl i).active = true ∧
      (smGet InlEnt.none (chan t c).code.inl i).copy = false) ∧
  (∀ v : Word64,
    let u := setReg s (rInlPpr c.val) (v &&& ~~~ fieldMask 63 60 &&& ~~~ fieldMask 58 41 &&& ~~~ fieldMask 11 0)
    copyBusy u c = false → (offService u c = true ∨ bitOf v 59 = false ∧ rowSpared u c
      ⟨c.val, fieldOf v 40 40, fieldOf v 39 35, fieldOf v 34 32, fieldOf v 31 30, fieldOf v 29 12, 0⟩ = true) →
    exec (.inlPpr c v) s = .next (modCode u c fun x => { x with
      ppr := some ⟨bitOf v 59, fieldOf v 40 40, fieldOf v 39 35, fieldOf v 34 32, fieldOf v 31 30, fieldOf v 29 12⟩ })) ∧
  (∀ (e : PprEnd) (r : PprRun), x.ppr = some r → isReady s = true → Answers (.pprDone c e) s fun t =>
    (chan t c).code.ppr = none ∧ (chan t c).code.pprRes = match e with | .ok => 0 | .noResource => 2 | .dramFail => 3) ∧
  (∀ (i : Instr) (wr : Bool), (i, wr) ∈ [(Instr.rawRead c, false), (.rawWrite c, true)] → x.raw = none →
    let u := setFld s (rCodeRawCmd c.val) 1 1 (flag wr)
    let das := fld u (rCodeRawAddr c.val) 47 6 * 64
    let v := modCode u c fun x => { x with raw := some ⟨das, wr, rawData u c⟩ }
    let put (w : State) : State := engPut w 19 0 0x800 (if wr then .wrLine else .rdLine) (apertureAddr das) 0 .drop .raw
    rawRefused u c das = false →
    (∀ a : Nat, rawLms v das = some a → exec i s = .next (put (lineFlush v a))) ∧
    (rawLms v das = none → exec i s = .next (put v))) ∧
  (∀ w : SramWhere,
    exec (.sramErr c w false) s = .next (raiseEvt (cntInc s (rCodeSramCeCnt c.val)) (chEv c 31)
      [BitVec.ofNat 32 (sramCode w), 0] .none false false) ∧
    exec (.sramErr c w true) s = .next (raiseEvt (sramPoison s c w) (chEv c 31)
      [BitVec.ofNat 32 (sramCode w), 1] .none true false)) ∧
  (∀ (i : Instr) (op : Nat), (i, op) ∈ [(Instr.diagRead c, 0), (.diagWriteZero c, 1), (.diagWriteAddr c, 2), (.diagCompare c, 3)] →
    let u := setFld s (rScrDiagCmd c.val) 3 2 op
    x.diag = none → (op = 0 ∨ op = 3 ∨ isReady u = false ∧ rbit u (rCodeCfg c.val) 31 = false) →
    exec i s = .next (diagEnd (modCode u c fun x => { x with
      diag := some ⟨op, fld u (rScrDiagStart c.val) 47 6 * 64, false⟩ }) c))

/-- Where the commands of the Veneer complete, and in what state (R270, R274, R278, R282, R285 to R287, R290, R291). -/
def Obligations.VeneerComplete : Prop := ∀ s : State,
  (∀ (sl : Fin 16) (m : MissEnt) (d : LineData) (p : Bool), s.vnr.slices[sl].miss.find? (fun m => m.data.isSome) = some m →
    m.data = some (d, p) → s.vnr.slices[sl].vict.length < 32 →
    exec (.vnrFillLand sl) s = .next (slotPump (fillLand s sl m d p))) ∧
  (∀ (sl : Fin 16) (st : Fin 8192) (way : Fin 16),
    exec (.vnrSramErr sl st way false) s = .next (raiseEvt s 714
      [BitVec.ofNat 32 sl.val, BitVec.ofNat 32 st.val, BitVec.ofNat 32 way.val, 0] .none false false) ∧
    Answers (.vnrSramErr sl st way true) s fun t => t.vnr = (putSet s sl st.val ((getSet s sl st.val).set way.val .off)).vnr) ∧
  (∀ sl : Fin 16,
    let st := s.vnr.slices[sl].clean
    let above : Bool := decide (budget s < charged s)
    let high : Bool := decide (budget s * fld s rVnrDirty 6 0 ≤ 100 * charged s)
    let p (l : VLine) : Bool := l.dirty && chanRuns s l.das && (above || (high && !l.pin && decide (l.age ≤ 1)))
    vnrLooks s = true →
    s.vnr.slices[sl].vict.length + (getSet s sl st).countP (fun w => match w with | .line l => p l | _ => false) ≤ 32 →
    exec (.cleaner sl) s = .next (modSlice (cleanSet s sl st p false) sl fun x => { x with clean := (st + 1) % 8192 })) ∧
  (∀ (sl : Fin 16) (v : VictEnt) (u : State), nextVictim s sl = some v →
    enterWrite s (chanOf s v.das) ⟨0, posOf s v.das, v.das, v.raw, false, false⟩ = some u →
    let w := overUpd (cntInc (modSlice u sl fun x => { x with vict := eraseFirst (fun y => y = v) x.vict }) rVnrWbCnt)
    exec (.victimWriteback sl) s = .next (if inDrain w then vnrClean w else ropGo w)) ∧
  (∀ (i : Instr) (n : Nat) (op : RopOp),
    (i, n, op) ∈ [(.ropClean, 1, .clean), (.ropCleanInvalidate, 2, .cleanInv), (.ropInvalidate, 3, .inv), (.ropUnpin, 4, .unpin)] →
    let u := setFld s rVnrRopCmd 2 0 n
    Machine.ropRefused u (some op) = false →
    exec i s = .next (ropStart u op (fld u rVnrRopStart 47 6) (fld u rVnrRopEnd 47 6) false)) ∧
  (Answers .ropRefused s fun t => t.vnr = { s.vnr with ropRes := 2 }) ∧
  (∀ r : RopRun, s.vnr.rop = some r → r.left = [] → r.drain = false → ropPending s r = false → s.vnr.mode ≠ .draining →
    exec .ropDone s = .next (ropEnd s r)) ∧
  ((s.vnr.mode = .disabled → Answers (.vnrCtlEnWrite true) s fun t => t.vnr = { s.vnr with mode := .enabled }) ∧
    (s.vnr.mode = .draining → Answers (.vnrCtlEnWrite true) s fun t => t.vnr.mode = .enabled) ∧
    (s.vnr.mode = .enabled → exec (.vnrCtlEnWrite false) s = .next (drainTry
      (ev { setFld s rVnrCtl 0 0 0 with vnr := { s.vnr with mode := .draining } } 705)))) ∧
  (s.vnr.mode = .clearing → Answers .vnrClearingDone s fun t =>
    t.vnr = { s.vnr with mode := if rbit s rVnrCtl 0 then .enabled else .disabled }) ∧
  (∀ r : RopRun, s.vnr.mode = .draining → s.vnr.rop = some r → r.left = [] → r.drain = true → ropPending s r = false →
    Answers .vnrDrainDone s fun t => t.vnr.mode = .disabled ∧ t.vnr.rop = none)

/-- Where the commands of the epochs, the mirror and the attach complete, and in what state (R295, R296, R300, R304, R310,
R311, R330, R529). -/
def Obligations.CureComplete : Prop := ∀ s : State,
  (epochFull s = false → ∀ i : Instr, (i = .epochAdvance ∧ s.beat.valid = true) ∨ (i = .fenceEpochAdvance ∧ fenceOnE s = true) →
    exec i s = .next (stallNote (curePump (markPump (modCure s fun x => { x with e := x.e + 1 }))))) ∧
  (isReady s = false → ∀ (mid : BitVec 12) (v : Word32), Answers (.epochSet mid v) s fun t =>
    t.cure.e = v ∧ t.cure.cDet = v - 1 ∧ t.cure.marks = Vector.replicate 8 (v - 1) ∧
    t.cure.markSent = Vector.replicate 8 (v - 1)) ∧
  (∀ k : Fin 8, s.cure.mstate = .mirrored → (s.cure.markOut[k]).isSome = true →
    s.cure.markAt[k] ≠ some s.beat.fclk → Answers (.twinSilent k) s fun t =>
    t.cure.mstate = .stalled ∧ t.cure.stallAck = 0) ∧
  (∀ v : Bool, s.cure.mstate = .detached →
    exec (.staleSideWrite v) s = .next (modCure s fun x => { x with staleSide := v })) ∧
  (∀ (far : List (Nat × LineData)) (p : Nat), s.cure.mstate = .attaching → s.cure.staleSide = true → s.cure.pushWait = none →
    allOutOpen s = true → nextStale s s.cure.pushPos = some p → panelMoving s p = false →
    panelMay s p = true →
    let sent := panelSegs (panelReads s p) p (s.cure.attachE - 1) far (.push p false)
    let u := forEach sent.1.dropLast (cntAdd sent.2 rCurPushLineCnt (sent.1.map fun g => g.lines.length).sum)
      fun t g => outPush t (mirConn p) g
    (∀ g : OutSeg, sent.1.getLast? = some g → exec (.attachPush far) s =
      .next (modCure (outPush u (mirConn p) { g with why := .push p true }) fun x =>
        { x with pushPos := p, pushWait := some p })) ∧
    (sent.1.getLast? = none → exec (.attachPush far) s =
      .next (modCure (staleClear u p) fun x => { x with pushPos := p, pushWait := none }))) ∧
  (∀ (k : Fin 8) (far : List (Nat × LineData)), s.cure.resend.getLsbD k.val = true → outOpen s k.val = true →
    mirrorOn s = true → ((s.cure.pend.filter fun x => x.1 % 8 = k.val).map Prod.fst).all (panelMay s) = true →
    let sent := resendSegs s (s.cure.pend.filter fun x => x.1 % 8 = k.val) far
    exec (.mirrorResend k far) s = .next (markPump (modCure sent.2 fun x => { x with
      out := smSet [] x.out (8 + k.val) (sent.1 ++ smGet [] x.out (8 + k.val))
      resend := x.resend &&& ~~~ ((1 : BitVec 8) <<< k.val) }))) ∧
  (let ready := s.tt.filter fun t => !t.capt && capReady s t
   let u := forEach (ready.filter fun t => !capRoom s t) s capBlocked
   ∀ t : TtEntry, ready.find? (fun t => capRoom u t) = some t →
    let a := if t.req.op = .trim then t.req.addr.toNat else lineAddr t.req.addr.toNat
    let e := t.epoch.getD u.cure.e
    let w := match t.mir with
      | some m => mirPush u (mirConn (panelOf a)) (segMir a m e .mirror)
      | none => u
    exec .mirrorCapture s = .next (markPump (fwdPump (ttSettle (ttMod (modCure w fun x => { x with
      pend := pendPut x.pend (panelOf a) e
      capWait := x.capWait.filter fun r => r ≠ t.req.rid }) t.req.rid fun x => { x with capt := true }) t.req.rid)))) ∧
  ((s.cure.mstate = .detached ∨ s.cure.mstate = .degraded) → (s.cure.staleSide = false ∨ noFence s = true) →
    exec .curAttach s = .next (curePump (markPump (modCure s fun x => { x with
      mstate := .attaching, attachE := x.e, attachAck := 0, stallAck := 0, pushPos := 0, pushWait := none
      markSent := Vector.replicate 8 (x.e - 2) })))) ∧
  (s.cure.mstate ≠ .degraded → noFence s = true → exec .curDegrade s = .next (enterDegraded s)) ∧
  (s.cure.mstate = .attaching →
    let u : State := { s with
      conns := (s.conns.map fun e => (e.1, { e.2 with degr := false })).filter fun e => e.2 ≠ Conn.none }
    let v := curePump (ev (modCure u fun x => { x with mstate := .mirrored, staleSide := false }) 772)
    (s.cure.staleSide = true → s.cure.pushWait = none → nextStale s 0 = none →
      exec .mirrorAttached s = .next v) ∧
    (s.cure.staleSide = false → s.cure.attachAck = BitVec.allOnes 8 → exec .mirrorAttached s = .next v)) ∧
  (∀ (r : Repair) (ans : RepAns), s.cure.repairs.find? (fun r => r.ans.isSome) = some r → r.ans = some ans →
    let u : State := { s with cure := { s.cure with repairs := s.cure.repairs.filter (fun x => x.num ≠ r.num) } }
    ((∀ c line, r.who ≠ .merge c line) → exec .repairAnswer s = .next (repairEnd u r ans)) ∧
    (∀ c line, r.who = .merge c line → (chan s c).sch.wq.length < 96 → exec .repairAnswer s = .next (repairEnd u r ans)))

/-- Where the commands of fences and of Recast complete, and in what state (R314, R315, R319, R320, R329). -/
def Obligations.FenceComplete : Prop := ∀ (s : State) (c : Fin 16),
  (s.cure.fence[c] = .inService → exec (.fenceCmdFence c) s = .next (askFence
    (modCure (setFld (setFld s rCurFenceCmd 5 4 0) rCurFenceCmd 3 0 c.val) fun x => { x with cmdRes := 1 }) c 4 0xFFFF_FFFF)) ∧
  (∀ g : FenceTrig, s.evt.trigs.find? (fun t => t.chan = c) = some g → s.cure.fence[c] = .inService → c.val < chanCount s →
    exec (.chFenced c) s = .next
      (fenceChan { s with evt := { s.evt with trigs := s.evt.trigs.filter fun x => x.chan ≠ c } } c g.code g.evt)) ∧
  (s.cure.sweep[c] = true → exec (.fenceSweepDone c) s = .next (overUpd
    (modCure (victimsDrop (forEach allChans s fun s sl => sweepSlice s c sl) c) fun x => { x with
      sweep := x.sweep.set c false }))) ∧
  (inDrain s = false → s.cure.fence[c] = .fenced → s.cure.sweep[c] = false → (chan s c).phy.train = .trained →
    let u (op : Nat) := setFld (setFld s rCurFenceCmd 5 4 op) rCurFenceCmd 3 0 c.val
    (s.cure.mstate = .mirrored → s.cure.recast = none →
      exec (.unfenceStale c) s = .next (ev (modCure (placeRebuild (mapsRewrite (u 1) c) c) fun x => { x with
        cmdRes := 1, fence := x.fence.set c .recovering, recast := some ⟨c, 0, false, none⟩ }) 774) ∧
      exec (.unfenceFull c) s = .next (ev (modCure (fullStale (placeRebuild (mapsRewrite (u 2) c) c)) fun x => { x with
        cmdRes := 1, fence := x.fence.set c .recovering, recast := some ⟨c, 0, true, none⟩ }) 774)) ∧
    (s.cure.mstate = .degraded ∨ (s.cure.mstate = .detached ∧ s.cure.staleSide = true) →
      exec (.unfenceStale c) s = .next (ev (modCure (u 1) fun x => { x with
        cmdRes := 1, fence := x.fence.set c .inService }) 775))) ∧
  (∀ r : RecastRun, s.cure.recast = some r → r.panel = none → (chan s r.chan).sch.hold = .run →
    (∀ (lines : List (Option LineData)) (p : Nat), recastNext s r.next = some p → allOutOpen s = true →
      panelMoving s p = false → inDrain s = false →
      let todo := panelLinesOn s r.chan p
      let u := modCure s fun x => { x with recast := some { r with next := p, panel := some p } }
      exec (.recastPanel lines) s = .next (recastNote ((todo.zip (List.range todo.length)).foldl
        (fun s x => recastLine s x.2 x.1 (lines.getD x.2 none)) u))) ∧
    (recastNext s r.next = none → Answers .recastDone s fun t => t.cure.recast = none ∧ t.cure.fence[r.chan] = .inService))

/-- Where the segments of the mirror stream complete when they are received, and in what state (R305, R307). -/
def Obligations.MirrorSegmentsComplete : Prop := ∀ (s : State) (e : Fin 8) (c : Nat) (g : Seg) (k : Option (Nat × Rkey)) (u : State),
  let at' := g.hdr.offset.toNat
  let free := drawFree 512 u
  (SegAccepted s e (.mirror 1) true segLen c g k u → exec (.mirrorLines e) s =
    .next (segServed (jobStart u e c g none .lines false (writeReqs u e 0 at' g.data)) e)) ∧
  (SegAccepted s e (.mirror 2) true (fun _ => 64) c g k u → exec (.mirrorMasked e) s =
    .next (segServed (jobStart u e c g none .lines false [fun n i =>
      tenReq u e n i .wrPart at' (payMask g.data) (pieceData (g.data.drop 8) 0 64 0) false]) e)) ∧
  (SegAccepted s e (.mirror 3) true (fun _ => 64) c g k u → exec (.mirrorPoison e) s =
    .next (segServed (jobStart free.2 e c g none .lines false [fun n i =>
      tenReq free.2 e n i .wrLine at' (BitVec.allOnes 64) free.1 true]) e)) ∧
  (SegAccepted s e (.mirror 4) true (fun _ => 65536) c g k u → exec (.mirrorTrim e) s =
    .next (segServed (jobStart u e c g none .lines false [fun n i =>
      tenReq u e n i .trim at' (BitVec.allOnes 64) 0 false]) e)) ∧
  (SegAccepted s e (.mirror 5) false (fun _ => 0) c g k u → exec (.mirrorMark e) s =
    .next (segServed (jobStart u e c g none .lines false []) e)) ∧
  (SegAccepted s e (.mirror 6) true (fun g => 64 * markedLines g) c g k u → exec (.mirrorLinesMarked e) s =
    .next (segServed (jobStart free.2 e c g none .lines false ((List.range (markedLines g)).map fun q n i =>
      if (payMask g.data).getLsbD q then tenReq free.2 e n i .wrLine (at' + 64 * q) (BitVec.allOnes 64) free.1 true
      else tenReq free.2 e n i .wrLine (at' + 64 * q) (BitVec.allOnes 64)
        ((payLines (g.data.drop 8)).getD ((List.range q).countP fun v => !(payMask g.data).getLsbD v) 0) false)) e))

/-- Where the commands of tiering complete, and in what state (R332, R333, R336 to R338, R340 to R342, R345, R347, R348). -/
def Obligations.TieringComplete : Prop := ∀ (s : State) (e : Fin 4) (p : BitVec 32) (err : RawLine),
  exec .heatDecay s = .next (modTier s fun t => { t with
    heat := t.heat.map fun e => (e.1, e.2.map fun x => { x with heat := x.heat / 2 }) }) ∧
  (∀ (q : Nat) (rest : List Nat), jigNext s e = none → mayMove s = true →
    s.tier.moves.find? (fun m => decide (m.eng = e) && decide (m.stage = .decided) && m.up && panelFree s m.panel) = none →
    s.tier.promoQ = q :: rest → panelMoving s q = false → peState (pmapGet s q) = 2 → lenderLost s q = false →
    moveOf s q = none → panelFree s q = true → engMoves s e < 4 → frameFloor s < framesFree s →
    let u := moveAdd (modTier s fun t => { t with promoQ := rest }) q e ⟨true, .policy, none⟩
    ∀ m : MoveRec, moveOf u q = some m → exec (.promotion e) s = .next (promoteStart u m)) ∧
  (∀ m : MoveRec, jigNext s e = none → mayMove s = true →
    s.tier.moves.find? (fun m => decide (m.eng = e) && decide (m.stage = .decided) && m.up && panelFree s m.panel) = some m →
    peState (pmapGet s m.panel) = 2 → lenderLost s m.panel = false → exec (.promotion e) s = .next (promoteStart s m)) ∧
  (∀ q : Nat, jigNext s e = some q → exec (.promotion e) s = .next (jigLocal s e q)) ∧
  (mayMove s = true → rbit s rTirCtl 30 = true → framesFree s < 2 * frameFloor s → 0 < mapPanels s → (nbrBest s []).isSome = true →
    let u := mapLookup (modTier s fun t => { t with handOff := false }) (s.tier.hand * 65536) err
    let q := s.tier.hand
    (demotable u q = true → heatOf u q ≤ fld u rTirThresh 15 0 → moveOf u q = none → ∀ d : Fin 4, moveRoom u = some d →
      exec (.demotionHandStep err) s = .next (handOn (moveAdd u q d ⟨false, .policy, none⟩))) ∧
    (demotable u q = false → panelMoving u q = false → exec (.demotionHandStep err) s = .next (handOn u))) ∧
  (∀ m : MoveRec, mayMove s = true →
    s.tier.moves.find? (fun m => decide (m.eng = e) && decide (m.stage = .decided) && !m.up && panelFree s m.panel) = some m →
    peState (pmapGet s m.panel) = 1 → fillOf s m.panel = none →
    (retFind s m.panel = none → exec (.demotion e) s = .next (allocSend s m)) ∧
    (∀ r : RetEnt, retFind s m.panel = some r → exec (.demotion e) s =
      .next (if r.dirty then allocSend (retFree s m.panel) m else remap s m))) ∧
  (∀ m : MoveRec, moveOf s p.toNat = some m →
    (m.stage = .remap → exec (.moveStepDone p) s = .next (remap s m)) ∧
    ((m.stage = .flush ∨ (m.stage = .begin ∧ panelFree s p.toNat = true)) → mayMove s = true →
      exec (.moveStepDone p) s = .next (demoteFlush s m)) ∧
    (let u := panelPump (copyWork s m)
     ∀ k : MoveRec, m.stage = .copy → moveOf u p.toNat = some k → panelFree u p.toNat = true → mayMove u = true →
      (k.left ≠ [] ∨ k.acks ≠ [] → exec (.moveStepDone p) s = .next u) ∧
      (k.left = [] → k.acks = [] → lendWaiting u p.toNat = false → frameWaiting u k.lframe = false →
        exec (.moveStepDone p) s = .next (if k.up then promoteEnd u k else demoteEnd u k)))) ∧
  (∀ m : MoveRec, moveOf s p.toNat = some m →
    (abandonCause s m = 1 → exec (.moveAbandon p) s = .next (abandon s m true)) ∧
    ((abandonCause s m = 2 ∨ abandonCause s m = 3) → exec (.moveAbandon p) s = .next (abandon s m false))) ∧
  (tiered s = true → exec .frameRefill s = .next
    ((List.range (256 - s.tier.cache.length)).foldl (fun s _ => match frameNext s s.tier.cache s.tier.ptr with
      | some f => modTier s fun t => { t with cache := t.cache ++ [f], ptr := (f + 1) % max 1 (frameCount s) }
      | none => s) s)) ∧
  (∀ (j : Fin 32) (frame : BitVec 28), nbrOn s j = true → s.tier.nbrs[j].mode ≠ .lost →
    s.tier.nbrs[j].rdAt + 1000000 ≤ beatNs s → exec (.nbrRttProbe j frame) s = .next
      (outPush (modNbr s j fun n => { n with rdAt := beatNs s }) (lendConn s j 0)
        (segBare .readReq 1 (frame.toNat * 65536) 1 0 .probe))) ∧
  (∀ (j : Fin 32) (x : BitVec 16), nbrOn s j = true →
    exec (.nbrStateChange j (some x)) s = .next (nbrUpdate (rttSample s j x.toNat) j) ∧
    exec (.nbrStateChange j none) s = .next (nbrUpdate s j)) ∧
  (∀ (f : Nat) (u : State), tiered s = true → frameFloor s < framesFree s → frameTake s = some (f, u) →
    exec .frameCmd s = .next (modTier u fun t => { t with frameRes := 1, frameVal := f })) ∧
  (∀ v : Word64,
    let u := setReg s rTirMoveCmd (v &&& ~~~ fieldMask 63 60 &&& ~~~ fieldMask 58 53 &&& ~~~ fieldMask 46 32)
    let q := fieldOf v 31 0
    let d : MoveDec := ⟨!bitOf v 59, .firmware, if bitOf v 47 then none else some (Fin.ofNat 32 (fieldOf v 52 48))⟩
    mayMove u = true → q < mapPanels u → panelMoving u q = false → moveOf u q = none →
    (bitOf v 59 = false → peState (pmapGet u q) = 2 ∧ lenderLost u q = false) → (bitOf v 59 = true → demotable u q = true) →
    ∀ x : Fin 4, moveRoom u = some x →
      exec (.moveCmd v) s = .next (modTier (moveAdd u q x d) fun t => { t with moveRes := 1 }))

/-- Where the segments of a borrower, the commands of grants and Reclaim complete, and in what state (R350 to R352, R354,
R355). -/
def Obligations.LendingComplete : Prop := ∀ (s : State) (e : Fin 8) (c : Nat) (g : Seg),
  let p := tenTurn s e
  let u := popSeg p e
  let h := g.hdr
  let at' := h.offset.toNat
  let len := if h.opcode = 6 then 8 else h.length.toNat
  (frontSeg p e = some (c, g, .lendAccess) → jobsFull p e = false →
    (grantHolds u h.srcDev.toNat (at' / 65536) ((at' + len - 1) / 65536 - at' / 65536 + 1) = true ∨ isProbe u h = true) →
    at' + len ≤ dasTop u →
    (h.opcode = 1 → exec (.lendAccess e) s =
      .next (segServed (jobStart u e c g none .lines false (writeReqs u e (2 ^ 47) at' g.data)) e)) ∧
    (h.opcode = 3 → exec (.lendAccess e) s =
      .next (segServed (jobStart u e c g none .read false (readReqs u e (2 ^ 47) at' len)) e)) ∧
    (h.opcode ≠ 1 → h.opcode ≠ 3 → exec (.lendAccess e) s = .next (segServed (atomStart u e (2 ^ 47) c g none) e))) ∧
  (∀ (q : Fin 32) (d : LineData), frontSeg p e = some (c, g, .lendAlloc) → jobsFull p e = false → chainMay p e h .lendAlloc = true →
    grantOf u h.srcDev.toNat = some q → inDrain u = false → grantHeld u q = false → u.tier.grantFree[q] ≠ 0 →
    let w := apertureTaken u e [u.tier.grantHead[q] * 65536, grantFirst u q * 65536]
    chainRead w u.tier.grantHead[q] = some d →
    let v := respPush (grantHeader (modGrant w q true true ((lineWord d 0).toNat % 2 ^ 32) (w.tier.grantFree[q] - 1)) q)
      c g 0 (BitVec.ofNat 32 u.tier.grantHead[q]) []
    exec (.lendAlloc e) s = .next (segServed (if g.dup then v else jobStart v e c g none .lines true []) e)) ∧
  (∀ q : Fin 32, frontSeg p e = some (c, g, .lendFree) → jobsFull p e = false → chainMay p e h .lendFree = true →
    grantOfFrame u h.srcDev.toNat h.imm.toNat = some q → inDrain u = false → grantHeld u q = false →
    let w := apertureTaken u e [h.imm.toNat * 65536, grantFirst u q * 65536]
    exec (.lendFree e) s = .next (segServed (jobStart (grantHeader (modGrant
      (dasPut w (h.imm.toNat * 65536) (chainLine w.tier.grantHead[q] 0)) q true true h.imm.toNat (w.tier.grantFree[q] + 1)) q)
      e c g none .lines true []) e)) ∧
  (∀ (q : Fin 32) (v : Word64), grantOn s q = false →
    let w := setReg s (rTirGrantA q.val) (packFields [(61, fieldOf v 61 61), (32, fieldOf v 47 32), (0, fieldOf v 27 0)])
    grantOk w q = true →
    let lo := grantFirst w q
    let n := grantCount w q
    let x := forEach (List.range (n - 1)) (cacheTrim (grantBits w q true)) fun s i =>
      dasPut s ((lo + 1 + i) * 65536) (chainLine (if i + 2 = n then chainEnd else lo + 2 + i) 0)
    exec (.grantEnable q v) s =
      .next (frameLowUpd (ev (grantHeader (modGrant x q true true (lo + 1) (n - 1)) q) 852))) ∧
  (∀ q : Fin 32, grantOn s q = true →
    (s.tier.grantFree[q] + 1 = grantCount s q →
      exec (.grantDisable q) s = .next (frameLowUpd (modGrant (grantBits s q false) q false false 0 0))) ∧
    (∀ d : LineData, dasNow s (grantFirst s q * 65536) = some (some d) → exec (.grantReload q) s =
      .next (modGrant s q true true ((lineWord d 0).toNat % 2 ^ 32) ((lineWord d 1).toNat % 2 ^ 28)))) ∧
  (∀ (q : Fin 32) (hold : Bool), exec (.grantHold q hold) s = .next (setFld s (rTirGrantA q.val) 61 61 (flag hold))) ∧
  (∀ (j : Fin 32) (twin : List (Nat × LineData)) (frames : List Nat), s.tier.reclaim = none → s.cure.mstate = .mirrored →
    s.cure.staleSide = false → s.cure.recast = none → s.tier.nbrs[j].mode = .lost →
    tiered (setFld s rTirReclaimCmd 4 0 j.val) = true → inDrain s = false →
    exec (.reclaimCmd j twin frames) s = .next (reclaimWalk j twin (s.map.pmap.ex.length + 1)
      (modTier (setFld s rTirReclaimCmd 4 0 j.val) fun t => { t with reclRes := 0 }) 0 frames)) ∧
  (∀ (r r' : ReclaimRun) (twin : List (Nat × LineData)) (frames : List Nat), s.tier.reclaim = some r →
    (inDrain s = true →
      exec (.reclaimDone twin frames) s = .next (modTier s fun t => { t with reclaim := none, reclRes := 3 })) ∧
    (inDrain s = false →
      let u := reclaimWalk r.nbr twin (s.map.pmap.ex.length + 1) s r.next frames
      u.tier.reclaim = some r' → (reclaimNext u r'.nbr r'.next).isNone = true → exec (.reclaimDone twin frames) s =
        .next (modTier (retForget u r'.nbr) fun t => { t with
          nbrs := t.nbrs.set r'.nbr { t.nbrs[r'.nbr] with use := 0 }, reclaim := none, reclRes := 1 })))

/-- Where the commands of jig lists complete, and in what state (R356 to R360). -/
def Obligations.JigsComplete : Prop := ∀ (s : State) (e : Fin 4),
  let g := s.tier.jigs[e]
  (∀ far : List (Nat × LineData), g.busy = false → inDrain s = false →
    let a := fld s (rTirJigAddr e.val) 47 6 * 64
    engineMay s 16 a = true →
    let head := (listLine s far a).getD 0
    let count := lineNum head 4 2
    let u := modJig (engineRead s 16 a) e fun _ => { JigSt.idle with
      busy := true, lead := lineNum head 8 4, addr := a, count := count, prev := lineNum head 16 8 }
    exec (.jigGo e far) s = .next (if lineNum head 0 4 = 1 ∧ 1 ≤ count ∧ count ≤ 4096 ∧ lineNum head 6 2 = 0 ∧
      lineNum head 12 4 = 0 ∧ lineNum head 24 8 = 0 then jigAhead e far 0 count u else jigFault u e 0)) ∧
  (g.busy = true →
    let waits := s.adm.wait.filter fun r => !isStaging e r || decide (some (panelOf r.addr.toNat) = stagingPanel s e)
    let moves := s.tier.moves.filter fun m => !(decide (m.who = .jig e) && decide (m.stage = .decided))
    let u : State := { s with adm := { s.adm with wait := waits }, tier := { s.tier with moves := moves } }
    exec (.jigStop e) s = .next (jigStopEnd (modJig u e fun g => { g with stop := true }) e)) ∧
  (∀ x : JigStep, g.steps[g.step]? = some x → g.busy = true → g.begun = false → g.stop = false →
    (x.ok = false → exec (.jigStepStart e) s = .next (jigFault s e g.step)) ∧
    (x.ok = true → x.dl ≤ beatNs s + g.lead →
      (x.tgt = 0 → exec (.jigStepStart e) s = .next (modJig s e fun g => { g with begun := true, pos := 0 })) ∧
      (x.tgt ≠ 0 → exec (.jigStepStart e) s = .next (forEach (List.range x.count)
        (modJig (modJig s e fun g => { g with begun := true, pos := 0 }) e fun g => { g with pos := x.count })
        fun s i => forEach (writtenLines s (x.panel + i)) s fun s a => joinerReq s e .rdLine a 0 false (.joiner e 0) .access)))) ∧
  (∀ far : List (Nat × LineData),
    (g.stop = true → exec (.jigStepStaged e far) s = .next (jigStopEnd s e)) ∧
    (g.stop = false → stepStaged s e = true → (jigLines g).all (engineMay s 16) = true →
      exec (.jigStepStaged e far) s =
        .next (jigAhead e far (g.step + 1) g.count (modJig s e fun g => { g with begun := false, pos := 0 })))) ∧
  (∀ k : Nat, lateStep s e = some k → exec (.jigLate e) s = .next
    (evd (cntInc (modJig s e fun g => { g with lateK := g.lateK ++ [k], late := g.late + 1 }) rTirJigLateCnt) 848
      [BitVec.ofNat 32 e.val, BitVec.ofNat 32 k])) ∧
  (∀ (k : Nat) (x : JigStep), unpinStep s e = some k → g.steps[k]? = some x →
    let u := modJig s e fun g => { g with unpins := g.unpins ++ [k] }
    exec (.jigUnpinStep e) s = .next (if s.vnr.mode = .enabled then
      ropStart u .unpin (x.panel * 1024) ((x.panel + x.count) * 1024) false else ropRefuse u)) ∧
  (g.busy = true → g.stop = false → g.count ≤ g.steps.length → g.steps.length ≤ g.step →
    (∀ k x, g.steps[k]? = some x → x.tgt = 3 → k ∈ g.unpins) → exec (.jigDone e) s = .next (ev (jigEnd s e 1) 849))

/-- Where the request segments and the answers of Tenon complete when they are received, and in what state (R364, R378,
R379, R382, R384, R386, R390, R408). -/
def Obligations.TenonRequestsComplete : Prop := ∀ (s : State) (e : Fin 8) (c : Nat) (g : Seg) (k : Option (Nat × Rkey)) (u : State),
  let at' := g.hdr.offset.toNat
  let idx := k.map Prod.fst
  (SegAccepted s e .write true segLen c g k u → exec (.tenonWrite e) s =
    .next (segServed (jobStart u e c g idx .lines false (writeReqs u e 0 at' g.data)) e)) ∧
  (SegAccepted s e .writeImm true segLen c g k u →
    let r : Fin 32 := (k.map fun x => x.2.ring).getD 0
    rbit u (rTenRingA r.val) 63 = true → exec (.tenonWriteImm e) s =
      .next (segServed (jobStart u e c g idx (.notice r) false (writeReqs u e 0 at' g.data)) e)) ∧
  (SegAccepted s e .readReq false segLen c g k u → exec (.tenonReadReq e) s =
    .next (segServed (jobStart u e c g idx .read false (readReqs u e 0 at' g.hdr.length.toNat)) e)) ∧
  (SegAccepted s e .add8 true (fun _ => 8) c g k u → exec (.tenonAtomAdd8 e) s =
    .next (segServed (atomStart u e 0 c g idx) e)) ∧
  (SegAccepted s e .cas8 true (fun _ => 8) c g k u → exec (.tenonAtomCas8 e) s =
    .next (segServed (atomStart u e 0 c g idx) e)) ∧
  (SegAccepted s e .cureWrite true segLen c g k u → exec (.tenonCureWrite e) s =
    .next (segServed (jobStart u e c g idx .cure false (writeReqs u e 0 at' g.data)) e)) ∧
  (let p := segsGo (nakInvalid s e) e
   let z (w : State) : State := segsGo (nakInvalid w e) e
   let v := popSeg p e
   let x := connOf v c
   (∀ o : OutReq, frontSeg p e = some (c, g, .readResp) →
      x.outst.find? (fun o => decide (o.psn = g.hdr.psn) && wantsData o.seg) = some o →
      exec (.tenonReadResp e) s = .next (z (retire v c [(o, respAns x g o)]))) ∧
   (frontSeg p e = some (c, g, .ack) →
      exec (.tenonAck e) s = .next (z (ackApply v c g.hdr.ackPsn))) ∧
   (∀ o : OutReq, frontSeg p e = some (c, g, .nak) →
      x.outst.find? (fun o => o.psn = g.hdr.ackPsn) = some o →
      let w := cntInc v rTenNakRxCnt
      let syn : BitVec 8 := g.hdr.imm.setWidth 8
      (syn = 1 → exec (.tenonNak e) s = .next (z (goBack (modConn w c fun x => { x with ackAt := some w.beat.fclk }) c g.hdr.ackPsn))) ∧
      (syn ≠ 1 → fatalSyn syn = true →
        exec (.tenonNak e) s = .next (z (connError (nakFatalEv w c syn) c .nakRecv))) ∧
      (fatalSyn syn = false → syn = 4 ∨ syn = 5 ∨ syn = 6 ∨ syn = 8 →
        exec (.tenonNak e) s = .next (z (retire w c [(o, .nak syn)])))) ∧
   (frontSeg p e = some (c, g, .notReady) → x.outst.any (fun o => o.psn = g.hdr.ackPsn) = true →
      exec (.tenonContextNotReady e) s = .next (z (modConn (cntInc v rTenCnrRxCnt) c fun x => { x with
        stopAt := some g.hdr.ackPsn, outst := x.outst.map fun o => { o with retx := false } }))))

/-- Where the Segment Ports, the timers of a connection, the rings and the context cache complete, and in what state (R366
to R370, R376, R381, R386 to R390, R399 to R401, R405). -/
def Obligations.LinkComplete : Prop := ∀ (s : State) (n : Fin 4) (c : BitVec 16) (r : Fin 32) (e : Fin 8),
  let pumped := forEach (List.finRange 8) s tenPump
  (∀ live : Bool, exec (.segLiveChange n live) s = .next (segTry (modSeg s n fun p => { p with live := live }) n)) ∧
  (∀ en : Bool, exec (.segCtlWrite n en) s = .next (segTry (setFld s (rTenSegCtl n.val) 0 0 (flag en)) n)) ∧
  (∀ (far : List (Nat × LineData)) (t : State), pumped.ten.segs[n].up = true →
    (castDue pumped n = true → trySend pumped n true far = some t → exec (.txDatagram n far) s = .next t) ∧
    ((castDue pumped n = false ∨ trySend pumped n true far = none) → trySend pumped n false far = some t →
      exec (.txDatagram n far) s = .next t)) ∧
  (∀ d : Datagram, s.ten.segs[n].up = true →
    let u := cntInc s (rTenRxCnt n.val)
    datagramOk u n d = true → hdrGood d.hdr = true →
    (isOpen u d.hdr.dstConn.toNat = true → respGood (connOf u d.hdr.dstConn.toNat) d.hdr = true) →
    exec (.rxDatagram n .whole d) s = .next (segDispatch u ⟨d.hdr, d.body, d.tag, d.srcPort⟩)) ∧
  (∀ late : Bool,
    let u := tenPump s (engOf c.toNat)
    let x := connOf u c.toNat
    x.mode = .opened → (x.owedNow = true ∨ 0 < x.owed ∧ (late = true ∨ fld u rTenAck 23 16 ≤ x.owed)) →
    exec (.ackSend c late) s = .next (ctlPush
      (modConn u c.toNat fun x => { x with owed := 0, owedNow := false, degr := degrBit u x }) c.toNat 0x10 x.ackPt
      (BitVec.ofNat 32 (flag (degrBit (modConn u c.toNat fun x => { x with owed := 0, owedNow := false, degr := degrBit u x }) x))))) ∧
  (let x := connOf s c.toNat
   x.mode = .opened →
    (let p := (x.stopAt.filter fun p => x.outst.any fun o => o.psn = p).getD x.una
     x.timer = true → x.outst ≠ [] → x.ackAt ≠ some s.beat.fclk →
      (retryOver s c.toNat p = true → x.rxAt ≠ some s.beat.fclk) → exec (.rtoExpiry c) s = .next (goBack
        (modConn (cntInc s rTenRtoCnt) c.toNat fun x => { x with rto := min 1000 (2 * x.rto) }) c.toNat p)) ∧
    (∀ cause : ErrCause, Answers (.connError c cause) s fun t => connOf t c.toNat = { x with
      mode := .error, cause := cause, timer := false, outst := [], stopAt := none, owed := 0, owedNow := false })) ∧
  (∀ (far : List (Nat × LineData)) (d : Fin 8) (j : Job), ringPosting pumped r = false → noticeNext pumped r = some (d, j) →
    (inDrain pumped = true → exec (.noticePost r far) s = .next (tenPump (modJob
      (if j.mute then pumped else nakSend pumped j.conn.toNat j.seg.hdr.psn 6) d j.num fun j => { j with met := true }) d)) ∧
    (inDrain pumped = false →
      let src : Fin 20 := Fin.ofNat 20 (8 + d.val)
      let a := ringCtl pumped r
      let u := if ringFull pumped r = true then ringRead (engineRead pumped src a) r far else pumped
      (ringFull pumped r = true → engineMay pumped src a = true) →
      (ringFull u r = true → exec (.noticePost r far) s = .next (tenPump (modJob u d j.num fun k => { k with
        wait := .posting (ringNote u r j.seg.hdr true), rids := [] }) d)) ∧
      (ringFull u r = false → engineBad u (ringAddr u r) = false →
        let q := ringReq u r d j
        exec (.noticePost r far) s = .next (tenPump (modJob
          { u with adm := { u.adm with wait := u.adm.wait ++ [q], nextRid := u.adm.nextRid + 1 } } d j.num fun k => { k with
            wait := .posting (ringNote u r j.seg.hdr false), rids := [q.rid] }) d)))) ∧
  (∀ v : Word64, rbit s (rTenRingA r.val) 63 = false → 4 ≤ fieldOf v 4 0 → fieldOf v 4 0 ≤ 16 →
    let u := setReg s (rTenRingA r.val)
      (packFields [(63, fieldOf v 63 63), (48, fieldOf v 59 48), (6, fieldOf v 47 6), (0, fieldOf v 4 0)])
    exec (.ringAWrite r v) s = .next (if bitOf v 63 then modTen u fun t => { t with
      rings := t.rings.set r { t.rings[r] with prod := 0, phase := true } } else u)) ∧
  (∀ x : CtxEnt, (eng s e).ctx.find? (fun x => x.load) = some x → apertureMay s e (ctxLines s x.conn.toNat) = true →
    let u := apertureTaken s e (ctxLines s x.conn.toNat)
    exec (.ctxLoadDone e) s = .next (loadTry (if ctxLoads u x.conn.toNat then segsGo (modEng u e fun g => { g with
        ctx := (g.ctx.filter fun y => y.conn ≠ x.conn) ++ [{ x with load := false, dirty := false }] }) e
      else loadFail (ctxDrop u e x.conn) x.conn.toNat) e)) ∧
  (∀ (x : RkeyEnt) (k : Rkey), (eng s e).ctx.find? (fun x => x.load) = none → (eng s e).rkeys.find? (fun x => x.load) = some x →
    apertureMay s e [rkeyBase s x.idx] = true →
    let u := apertureTaken s e [rkeyBase s x.idx]
    rkeyRead u x.idx = some k → exec (.ctxLoadDone e) s = .next (modEng u e fun g => { g with
      rkeys := (g.rkeys.filter fun y => y.idx ≠ x.idx) ++ [⟨x.idx, false, k⟩] })) ∧
  (∀ v : CtxEnt, (eng s e).pend.findSome? (fun p =>
      if (ctxFind s p.hdr.dstConn.toNat).isNone ∧ 8 ≤ setUsed s e (ctxSet p.hdr.dstConn.toNat) then
        ctxVictim s e (ctxSet p.hdr.dstConn.toNat) else none) = some v → apertureMay s e (ctxLines s v.conn.toNat) = true →
    exec (.ctxEvict e) s = .next (loadTry (ctxBack (apertureTaken s e (ctxLines s v.conn.toNat)) e v) e))

/-- Where the connection and region key commands complete, and in what state (R394, R395, R400, R404, R406, R407, R410). -/
def Obligations.ConnectionCommandsComplete : Prop := ∀ s : State,
  let c := connSel s
  let go (op : Nat) := modTen (setFld s rTenConnCmd 3 0 op) fun t => { t with connRes := 0 }
  let done (i : Instr) (u : State) (res : BitVec 3) := exec i s = .next (connEnd u res)
  (s.ten.closing = [] →
    (∀ (kind : ConnKind) (v : State), cfgKind (go 1) = some kind →
      let x := connStaged (go 1) kind
      openBad (go 1) c x = false → pinFull (go 1) c x = false → ctxPlace (go 1) c = some v →
      let w := connEnd (modTen (cntInc (ctxWrite (ctxPut (modConn v c fun _ => x) c false) c) rTenCtxWbCnt) fun t =>
        { t with keyVal := 0 }) 1
      exec .connCmdOpen s = .next (nbrOfConn (if 8 ≤ c ∧ c < 16 then markPump w else w) c)) ∧
    ((connOf s c).mode ≠ .free → exec .connCmdClose s = .next (closeTry (modTen (connEnd (go 2) 0) fun t => { t with
      closing := t.closing ++ [BitVec.ofNat 16 c] }) (BitVec.ofNat 16 c))) ∧
    (ctxHeld s c = true →
      let x := connOf s c
      let k := keyStaged (go 3)
      (x.mode = .opened → (slotOther x).mode = .empty → k.gen ≠ (keyActive x).gen → k.gen ∉ x.retired →
        done .connCmdInstall (ctxTouch (modConn (go 3) c fun x => setOther x k) c true) 1) ∧
      (x.mode ≠ .free → (slotOther x).mode = .ready →
        let u := modConn (go 4) c switched
        done .connCmdSwitch (ctxTouch (evd u 915 [BitVec.ofNat 32 c, (keyActive (connOf u c)).gen.setWidth 32]) c true) 1) ∧
      (x.mode ≠ .free → (slotOther x).mode = .draining → done .connCmdRetire (ctxTouch (modConn (go 5) c keyErased) c true) 1) ∧
      (x.mode = .opened → done .connCmdError (connError (go 6) c .command) 1)) ∧
    ((connOf s c).mode = .free ∨ ctxHeld s c = true →
      done .connCmdQuery (modTen (go 7) fun t => { t with connStat := connReport (go 7) c }) 1)) ∧
  (let i := rkeySel s
   let go (op : Nat) := setFld s rTenRkeyCmd 1 0 op
   ∀ k : Rkey,
    (rkeyRead (go 1) i = some k →
      let n := rkeyStaged (go 1) (k.gen + 1)
      k.mode = .invalid → n.base + n.size ≤ lmsTop (go 1) → (n.perm.getLsbD 3 = true → rbit (go 1) (rTenRingA n.ring.val) 63 = true) →
      n.perm ≠ 0 → exec .rkeyCmdCreate s = .next (rkeyEnd (modTen (rkeyPut (go 1) i n) fun t => { t with
        rkeyVal := rkeyWord (go 1) i n.gen, rkeyLast := some i }) 1)) ∧
    (rkeyRead (go 2) i = some k → k.mode = .valid →
      let u := rkeyPut (go 2) i { k with mode := .revoking }
      exec .rkeyCmdRevoke s = .next (rkeyEnd (modTen u fun t => { t with
        engines := t.engines.map fun g => { g with
          jobs := g.jobs.map fun j => if j.rkey = some i ∧ jobInFlight u j then { j with snap := true } else j }
        revoke := t.revoke ++ [i], rkeyLast := some i }) 1)) ∧
    (rkeyRead (go 3) i = some k → exec .rkeyCmdQuery s = .next (rkeyEnd (modTen (go 3) fun t => { t with
      rkeyVal := rkeyWord (go 3) i k.gen, rkeyLast := some i }) 1))) ∧
  (let u := forEach (List.finRange 8) s tenPump
   exec .regionRevoked s = .next (forEach u.ten.revoke u revokeEnd))

/-- Where the Armature's commands complete, and in what state (R28, R101, R106, R414, R419 to R422). -/
def Obligations.ArmatureComplete : Prop := ∀ s : State,
  (s.arm.mode = .running → ∀ (unit : Fin 3) (pc : BitVec 48) (code : Word32),
    (Answers (.armDiverge unit pc) s fun t => t.arm.mode = .diverged) ∧
    (Answers (.armTcmErr true pc) s fun t => t.arm.mode = .tcmError) ∧
    (Answers (.fwHalt code) s fun t => t.arm.mode = .halted) ∧
    exec .armUpdate s = .next (armBoot s .update)) ∧
  (∀ pc : BitVec 48, exec (.armTcmErr false pc) s = .next (cntInc s rArmTcmCeCnt)) ∧
  (∀ b : BootRun, s.arm.boot = some b →
    let bs := b.bytes ++ (List.range 32768).map fun i => smGet 0 s.arm.win i
    exec .imgBlockDone s = .next (if !imgHeader bs then bootFail s 2
      else if imgNum bs 8 4 ≤ bs.length then bootWhole s b (bs.take (imgNum bs 8 4))
      else modArm s fun a => { a with boot := some { b with block := b.block + 1, bytes := bs, asked := s.beat.fclk } }) ∧
    (b.asked ≠ s.beat.fclk → exec .imgFetchTimeout s = .next (bootFail s 1))) ∧
  (s.arm.mode = .bootRom → s.arm.boot = none → s.pwr.rst = none →
    Answers .bootRomStart s fun t => t.arm.tcm = false ∧
      t.arm.boot = some ⟨if anyRetained s then .warm else .cold, 1, 0, [], false, s.beat.fclk⟩) ∧
  (∀ m : ArmMode, m ∈ [.diverged, .tcmError, .halted, .bootFailed] → s.arm.mode = m →
    exec .armRestart s = .next (armBoot s .resume)) ∧
  (s.arm.mode = .running → isReady s = false → exec .armReady s = .next
    (forEach (List.finRange 4) (forEach (List.finRange 8)
      (modFw (ev (setFld (if geomSet s then scrubDefault (readyFw s) else s) rArmCtl 31 31 1) 996) fun f => { f with waitMir := false })
      portUpTry) segTry)) ∧
  (isReady s = false → s.map.bcmd = none → (popChans s).all (fun c => decide ((chan s c).sch.hold = .run)) = true →
    Answers .bcmdInit s fun t => t.map.bcmd = some .init ∧ t.map.bprog = 0) ∧
  (s.map.bcmd = none → (s.arm.mode ≠ .running ∨ (warmRestore s).arm.mode = .running) →
    Answers .bcmdRebuild s fun t => t.map.bcmd = some .rebuild ∧ t.map.bprog = 0) ∧
  (s.map.bcmd = none → exec .bcmdPcInv s = .next { s with map := { s.map with pcache := [] } })

/-- Where the mailbox protocol's commands complete, and in what state (R423, R425, R436, R439). -/
def Obligations.MailboxProtocolComplete : Prop := ∀ (s : State) (m : Fin 4),
  ((mbx s m).mode = .idle ∨ (mbx s m).mode = .done → Answers (.mbxRing m) s fun t => (mbx t m).mode = .pending) ∧
  ((mbx s m).mode = .pending ∨ (mbx s m).mode = .busy → Answers (.mbxRing m) s fun t =>
    (mbx t m).mode = (mbx s m).mode ∧ (mbx t m).overrun = true) ∧
  ((mbx s m).mode = .done → (mbx s m).doneAt ≠ s.beat.fclk → exec (.mbxAck m) s = .next (modMbx s m fun b => { b with mode := .idle })) ∧
  (s.arm.mode = .running → mbxNext s = some m → Answers .mbxTake s fun t =>
    (mbx t m).mode = .busy ∧ (mbx t m).req = [] ∧ t.fw.rr = m ∧
    (mbx t m).cur = some ((List.range 256).map fun i => smGet 0 (mbx s m).req i)) ∧
  (∀ bs : List Byte, s.arm.mode = .running → (mbx s m).mode = .busy → (mbx s m).ans = some bs →
    Answers (.mbxRespond m) s fun t => (mbx t m).mode = .done ∧ (mbx t m).ans = none ∧
      (mbx t m).rsp = bs.zipIdx.foldl (fun q x => smSet 0 q x.2 x.1) []) ∧
  (∀ req : List Byte, mbxCur s m = some req → mbxOps.contains (argN req 0 2) = false →
    exec (.badOpcode m) s = .next (mbxAnswer s m req 2 [])) ∧
  (s.arm.mode = .running → s.cure.mstate = .stalled → exec .twinTimeout s = .next
    (if (curCtl s 2).cure.mstate = .degraded then curCtl s 2 else modFw (curCtl s 2) fun f => { f with double := true }))

/-- Where firmware carries out the device commands of the mailboxes, and in what state it then is (R418, R424 to R426,
R428): each answers OK. -/
def Obligations.DeviceCommandsComplete : Prop := ∀ (s : State) (m : Fin 4) (req : List Byte),
  let a := reqArgs req
  let ok (i : Instr) (u : State) (data : List Byte) := exec i s = .next (mbxAnswer u m req 0 data)
  let svn := (s.arm.img.map fun i => i.svn).getD 0
  (RequestHeld s m 0x0101 0 req → ok (.identify m) s (leBytes 2 (deviceId s) ++ leBytes 2 svn ++ leBytes 4 (fwGetN s rArmFwVer)
    ++ leBytes 1 s.fw.profile ++ leBytes 1 (if isReady s then 2 else if s.fw.waitMir then 1 else 0) ++ leBytes 2 0)) ∧
  (RequestHeld s m 0x0102 0 req → ok (.getState m) s (leBytes 8 (beatNs s) ++ leBytes 4 (fwGetN s rCurStatus)
    ++ leBytes 4 (fwGetN s rCurFenceStatus) ++ leBytes 4 (fwGetN s rVnrStatus)
    ++ leBytes 4 (flag (isReady s) + 2 * flag s.beat.freerun + 4 * flag s.fw.double))) ∧
  (RequestHeld s m 0x0103 2 req → 1 ≤ argN a 0 2 → argN a 0 2 ≤ 0xFFFE → isReady s = false →
    ok (.setDeviceId m) (confWrite (fwPut s rTopDeviceId (BitVec.ofNat 64 (argN a 0 2)))) []) ∧
  (∀ u : State, RequestHeld s m 0x0104 16 req → argN a 0 1 < 4 → argZ a 1 7 = true →
    budgetOk s ([64, 32, 16, 64].getD (argN a 0 1) 0) = true →
    CommitsTo s 0x1E (argN a 8 8)
      (fun s => (profileFields s (argN a 0 1)).foldl (fun s f => fwSet s f.1 [(f.2.1, f.2.2.1, f.2.2.2)]) s) u →
    ok (.setProfile m) (confWrite (modFw u fun f => { f with profile := argN a 0 1 })) []) ∧
  (RequestHeld s m 0x0105 0 req →
    exec (.imgUpdate m) s = .next (armUpdate (mbxRespond (mbxAnswer s m req 0 []) m))) ∧
  (RequestHeld s m 0x0106 2 req → argN a 0 2 ≤ 64 → argN a 0 2 ≤ svn →
    let u := if fld s rArmSvn 6 0 < argN a 0 2 then evd (setFld s rArmSvn 6 0 (argN a 0 2)) 1007 (detail32 (argN a 0 2)) else s
    ok (.svnAdvance m) u (leBytes 2 (fld u rArmSvn 6 0))) ∧
  (RequestHeld s m 0x0107 4 req → m = 0 → argN a 0 1 ∈ [0, 1, 3] → argZ a 1 1 = true →
    ok (.setAccess m) (confWrite (modFw s fun f => { f with
      masks := f.masks.set (Fin.ofNat 4 (argN a 0 1)) (BitVec.ofNat 16 (argN a 2 2)) })) []) ∧
  (RequestHeld s m 0x0108 56 req → m = 3 → 1 ≤ argN a 0 1 → argN a 0 1 ≤ 3 → argZ a 1 7 = true → isReady s = false →
    rbit s rArmIkeyState (argN a 0 1) = false →
    ok (.imgkeyProgram m) (setFld (forEach (List.range 6) s fun s w =>
      setReg s (rArmIkeyHash w (argN a 0 1)) (BitVec.ofNat 64 (argN a (8 + 8 * w) 8))) rArmIkeyState (argN a 0 1) (argN a 0 1) 1) []) ∧
  (RequestHeld s m 0x0109 1 req → argN a 0 1 < 4 → s.arm.img.any (fun i => decide (i.slot = argN a 0 1)) = false →
    ok (.imgkeyRevoke m) (setFld s rArmIkeyState (argN a 0 1 + 4) (argN a 0 1 + 4) 1) [])

/-- Where firmware carries out the power and diagnostic commands, and in what state it then is (R424, R426, R435 to R437):
each answers OK; a request outside the command set answers BAD_OPCODE. -/
def Obligations.PowerAndDiagnosticCommandsComplete : Prop := ∀ (s : State) (m : Fin 4) (req : List Byte),
  let a := reqArgs req
  let ok (i : Instr) (u : State) (data : List Byte) := exec i s = .next (mbxAnswer u m req 0 data)
  let n4 := argN a 0 4
  let n1 := argN a 0 1
  (RequestHeld s m 0x0801 4 req → (budgetMax n4).any (fun b => decide (fld s rVnrDirty 23 16 ≤ b)) = true →
    ok (.setHoldup m) (confWrite (modFw s fun f => { f with warn := n4 })) (leBytes 1 ((budgetMax n4).getD 0))) ∧
  (RequestHeld s m 0x0802 1 req → n1 < 4 →
    let u := fwPut s rPwrStateCmd (BitVec.ofNat 64 (2 ^ 31 + n1))
    u.pwr.cmdRes ≠ 2 → ok (.pwrStateMbx m) u []) ∧
  (RequestHeld s m 0x0803 0 req → ok (.pwrStatus m) s (leBytes 2 (bitsOf 16 fun i => (chan s (chanNo i)).keep.retained)
    ++ leBytes 2 (bitsOf 16 fun i => (chan s (chanNo i)).keep.owner) ++ leBytes 4 s.fw.warn ++ budgetByte s)) ∧
  (∀ bad : Fin 3, RequestHeld s m 0x0F01 5 req → n4 < 2 ^ 24 →
    (∀ v u, argN a 4 1 = 4 → n4 % 4 = 0 → wordRead s true n4 bad.val = (some v, u) → ok (.regRead m bad) u (leBytes 8 v.toNat)) ∧
    (∀ h : RegHit, argN a 4 1 = 8 → n4 % 8 = 0 → holdIdx n4 = none → regFind n4 = some h → h.desc.wide = true →
      let r := regRead (setLat s true none none) h bad.val
      ok (.regRead m bad) r.2 (leBytes 8 r.1.toNat))) ∧
  (∀ env : RegEnv, RequestHeld s m 0x0F02 16 req → argZ a 5 3 = true → n4 < 2 ^ 24 →
    (n4 < 0xA0000 ∨ 0xB0000 ≤ n4) → (n4 < 0x91040 ∨ 0x91060 ≤ n4) →
    (∀ u, argN a 4 1 = 4 → n4 % 4 = 0 → argZ a 12 4 = true →
      wordWrite s true 0x800 n4 ((BitVec.ofNat 64 (argN a 8 8)).setWidth 32) env = (true, u) → ok (.regWrite m env) u []) ∧
    (∀ h : RegHit, argN a 4 1 = 8 → n4 % 8 = 0 → regFind n4 = some h → h.desc.wide = true →
      ok (.regWrite m env) (Machine.regWrite (setLat s true none none) 0x800 h (BitVec.ofNat 64 (argN a 8 8)) env) [])) ∧
  (RequestHeld s m 0x0F03 2 req → evtUsed (argN a 0 2) = true →
    ok (.eventForce m) (fwPut s (rEvtForce (argN a 0 2 / 32)) ((1 : Word64) <<< (argN a 0 2 % 32))) []) ∧
  (∀ bads : List (Fin 3), RequestHeld s m 0x0F04 1 req → 1 ≤ n1 → n1 ≤ 15 →
    let r := (List.range n1).foldl (fun (x : State × List (BitVec 128)) i => if x.1.jrn.pkts.isEmpty then x
      else (jrnPop x.1 (bads.getD i 0).val, x.2 ++ [(jrnPop x.1 (bads.getD i 0).val).jrn.latch])) (s, [])
    ok (.journalRead m bads) r.1 (leBytes 1 r.2.length ++ leBytes 7 0 ++ r.2.flatMap fun w => leBytes 16 w.toNat)) ∧
  (RequestHeld s m 0x0F05 0 req → ok (.snapshot m) (fwPut s rTopSnapshot 1) (leBytes 2 (fld (fwPut s rTopSnapshot 1) rTopSnapStatus 15 0))) ∧
  (RequestHeld s m 0x0F06 (argN req 3 1) req → argN req 3 1 ≤ 248 → ok (.echo m) s a) ∧
  (mbxCur s m = some req → mbxOps.contains (argN req 0 2) = false → exec (.badOpcode m) s = .next (mbxAnswer s m req 2 []))

/-- A change that firmware makes under a channel Hold (R438), for SET_TIMING and CLEAR_MARK: the Hold is asked for, the
change and the Release follow once the channel is HELD, and the answer is made once it is back in RUN. -/
def Obligations.ChannelHoldCommandsComplete : Prop := ∀ (s : State) (m : Fin 4) (req : List Byte),
  let a := reqArgs req
  let c : Fin 16 := Fin.ofNat 16 (argN a 0 1)
  let q := (chan s c).sch
  let step := (mbx s m).step
  let regs := [rSchTim0 c.val, rSchTim1 c.val, rSchTim2 c.val, rSchTim3 c.val, rSchTim4 c.val, rSchTim5 c.val]
  ∀ (i : Instr) (n op : Nat) (change : State → State) (ans : List Byte → List Byte),
    (i = .setTiming m ∧ op = 0x0203 ∧ n = 28 ∧ argZ a 1 3 = true ∧ (ans = fun d => d) ∧
      change = fun s => forEach regs.zipIdx s fun s r => fwPut s r.1 (BitVec.ofNat 64 (argN a (4 + 4 * r.2) 4))) ∨
    (i = .clearMark m ∧ op = 0x0303 ∧ n = 4 ∧ argN a 1 1 < 4 ∧ argN a 2 1 < 2 ∧ argN a 3 1 < 2 ∧ (ans = fun _ => []) ∧
      change = fun s => markClear s c (argN a 1 1 * 2 + argN a 2 1) (argN a 3 1)) →
    RequestHeld s m op n req → argN a 0 1 < chanCount s →
    (step = 0 → q.hold = .run → devHolding s = false →
      exec i s = .next (fwStep (fwPut (fwRead s (rSchRelErr c.val)).2 (rSchHold c.val) 1) m 1)) ∧
    (step = 1 → q.hold = .held → exec i s = .next (fwStep (fwPut (change s) (rSchHold c.val) 2) m 2)) ∧
    (step = 2 → q.hold = .run → (chan (holdData s c).2 c).sch.lastEnd = 1 →
      exec i s = .next (mbxAnswer (holdData s c).2 m req 0 (ans (holdData s c).1)))

/-- Where firmware carries out the memory configuration commands, and in what state it then is (R102, R103, R429, R438). -/
def Obligations.ConfigurationCommandsComplete : Prop := ∀ (s : State) (m : Fin 4) (req : List Byte),
  let a := reqArgs req
  let ok (i : Instr) (u : State) (data : List Byte) := exec i s = .next (mbxAnswer u m req 0 data)
  let r4 (r : RegRef) : List Byte := leBytes 4 (fwGetN s r)
  let n := argN a 0 1
  (RequestHeld s m 0x0201 0 req → ok (.getConfig m) s (r4 rMapCfg ++ r4 rMapGeom ++ leBytes 4 s.map.das ++ r4 rMapLmsTop
    ++ r4 rMapRsvBase ++ leBytes 1 (fld s (rSchSpeed 0) 3 0) ++ leBytes 1 (chanCount s) ++ leBytes 2 0)) ∧
  (RequestHeld s m 0x0202 8 req → n < 2 → argN a 4 4 < 2 ^ 23 → argZ a 1 3 = true → isReady s = false → startCold s = true →
    ((mbx s m).step = 0 → devState s = 0 → exec (.setLayout m) s = .next (fwStep (fwPut s rTopHold 1) m 1)) ∧
    ((mbx s m).step = 1 → devState s = 2 → exec (.setLayout m) s =
      .next (fwStep (fwPut (layoutWrite s (decide (n = 1)) (argN a 4 4)) rTopHold 2) m 2)) ∧
    ((mbx s m).step = 2 → devState s = 0 → s.devEnd = 1 → ok (.setLayout m) (confWrite s) [])) ∧
  (∀ u : State, RequestHeld s m 0x0204 32 req → n ≤ 62 → argN a 1 1 ≤ 1 → argN a 2 1 ≤ 4 → argN a 3 1 ≤ 3 → argZ a 4 4 = true →
    argN a 8 8 % 4096 = 0 → argN a 16 8 % 4096 = 0 → argN a 8 8 < 2 ^ 48 → argN a 16 8 < 2 ^ 48 →
    CommitsTo s 0x14 (argN a 24 8) (fun s => fwSet (fwSet (fwSet s (rVnrRgnA n)
      [(63, 63, argN a 1 1), (58, 56, argN a 2 1), (47, 12, argN a 8 8 / 4096)]) (rVnrRgnB n) [(47, 12, argN a 16 8 / 4096)])
      (rCurRgnMode (n / 16)) [(2 * (n % 16) + 1, 2 * (n % 16), argN a 3 1)]) u → ok (.setRegion m) (confWrite u) []) ∧
  (RequestHeld s m 0x0205 1 req → n < 64 → ok (.getRegion m) s (leBytes 8 (fwGetN s (rVnrRgnA n)) ++ leBytes 8 (fwGetN s (rVnrRgnB n))
    ++ leBytes 1 (fld s (rCurRgnMode (n / 16)) (2 * (n % 16) + 1) (2 * (n % 16))))) ∧
  (∀ u : State, RequestHeld s m 0x0206 32 req → (∀ i < 20, argN a i 1 ≤ 7) → argZ a 20 4 = true →
    CommitsTo s 0x1 (argN a 24 8) (fun s =>
      fwSet (fwSet s rAdmRank0 ((List.range 10).map fun i => (3 * i + 2, 3 * i, argN a (0 + i) 1))) rAdmRank1
        ((List.range 10).map fun i => (3 * i + 2, 3 * i, argN a (10 + i) 1))) u → ok (.setRanks m) (confWrite u) []) ∧
  (∀ u : State, RequestHeld s m 0x0207 24 req → n < 8 → argZ a 1 7 = true →
    CommitsTo s 0x2 (argN a 16 8)
      (fun s => forEach (popChans s) s fun s c => fwPut s (rSchTgtFrp c.val n) (BitVec.ofNat 64 (argN a 8 8))) u →
    ok (.setQos m) (confWrite u) []) ∧
  (RequestHeld s m 0x0208 3 req → n < chanCount s → argN a 1 1 ≤ 63 → 1 ≤ argN a 2 1 → argN a 2 1 ≤ 28 →
    argN a 1 1 + argN a 2 1 ≤ 64 → ok (.getForecast m) s (leBytes 2 (fwGetN s (rRefQwfGen n)) ++ leBytes 2 (argN a 2 1) ++ leBytes 4 0
      ++ (List.range (argN a 2 1)).flatMap fun i => leBytes 8 (fwGetN s (rRefQwf n (argN a 1 1 + i))))) ∧
  (∀ u : State, RequestHeld s m 0x0209 16 req → argN a 0 2 ≤ 4095 → argN a 2 1 ≤ 1 → argN a 3 1 ≤ 2 → argZ a 4 4 = true →
    CommitsTo s 0x8 (argN a 8 8) (fun s => forEach (popChans s) s fun s c =>
      fwSet (fwSet s (rRefPhase c.val) [(11, 0, argN a 0 2)]) (rRefCfg c.val) [(8, 8, argN a 2 1), (1, 0, argN a 3 1)]) u →
    ok (.setChoreo m) (confWrite u) [])

/-- Where firmware carries out the integrity, repair and Veneer commands, and in what state it then is (R430, R431, R437,
R442). -/
def Obligations.IntegrityCommandsComplete : Prop := ∀ (s : State) (m : Fin 4) (req : List Byte),
  let a := reqArgs req
  let ok (i : Instr) (u : State) (data : List Byte) := exec i s = .next (mbxAnswer u m req 0 data)
  let n := argN a 0 1
  let c : Fin 16 := Fin.ofNat 16 n
  let lo := argN a 8 8
  let hi := argN a 16 8
  (RequestHeld s m 0x0301 1 req → n < chanCount s → ok (.getHealth m) s
    (((List.range 8).flatMap fun i => leBytes 4 (fwGetN s (rCodeMark n i))) ++ leBytes 8 (fwGetN s (rCodeCeCnt n))
      ++ leBytes 8 (fwGetN s (rCodeUeCnt n)) ++ leBytes 4 (fwGetN s (rPhyStatus n)) ++ leBytes 4 (fwGetN s (rScrLastPass n)))) ∧
  (RequestHeld s m 0x0302 4 req → n < chanCount s → argN a 1 1 < 4 → argN a 2 1 < 2 → argN a 3 1 < 10 →
    let i := argN a 1 1 * 2 + argN a 2 1
    let u := markWrite s c i (if (marksAt s c i).m0.isNone then 0 else 1) (argN a 3 1)
    marksAt u c i ≠ marksAt s c i → ok (.setMark m) u []) ∧
  (∀ i : Nat, RequestHeld s m 0x0304 12 req → n < chanCount s → argZ a 7 1 = true →
    let e : InlEnt := { valid := true, active := false, copy := decide (argN a 6 1 = 1), sub := argN a 1 1, rank := argN a 2 1,
                        bg := argN a 3 1, ba := argN a 4 1, row := argN a 8 4, spare := argN a 5 1 }
    e.sub < 2 → e.rank < 32 → e.bg < 8 → e.ba < 4 → e.spare < 16 → argN a 6 1 < 2 → e.row < 2 ^ 18 →
    (List.range 4096).find? (fun i => inlFcount ≤ i && !(smGet InlEnt.none (chan s c).code.inl i).valid) = some i →
    inlReason s c i e = none → ok (.inlayAdd m) (inlWrite s c i 0x800 (inlVal e)) (leBytes 2 i ++ leBytes 1 0)) ∧
  (RequestHeld s m 0x0305 4 req → n < chanCount s → argZ a 1 1 = true → argN a 2 2 < 4096 →
    let e := smGet InlEnt.none (chan s c).code.inl (argN a 2 2)
    e.valid = true → s.fw.pprs.length < 14335 → ok (.pprSchedule m) (pprRecords (modFw s fun f => { f with pprs := f.pprs ++
      [{ kind := 1, chan := c, sub := e.sub, rank := e.rank, bg := e.bg, ba := e.ba, idx := argN a 2 2, row := e.row
         beat := BitVec.ofNat 64 (beatNs s) }] })) []) ∧
  (RequestHeld s m 0x0306 4 req →
    let ns := argN a 0 4 * 10 ^ 9 / sliceCount s
    ns < 2 ^ 32 → (argN a 0 4 = 0 ∨ geomSet s = true) →
    let u := forEach (popChans s) s fun s c => if argN a 0 4 = 0 then fwSet s (rScrCfg c.val) [(0, 0, 0)]
      else fwSet (fwSet s (rScrInterval c.val) [(31, 0, ns)]) (rScrCfg c.val) [(0, 0, 1)]
    ok (.setScrub m) u (leBytes 4 (fld u (rScrInterval 0) 31 0))) ∧
  (RequestHeld s m 0x0307 24 req → n < chanCount s → argZ a 2 6 = true → lo % 64 = 0 → hi % 64 = 0 → lo < 2 ^ 48 → hi < 2 ^ 48 →
    (argN a 1 1 = 0xFF → ok (.diagPass m) (fwRead s (rScrDiagMiss n)).2
      (leBytes 4 (fwGetN s (rScrDiagCmd n)) ++ leBytes 4 (fwRead s (rScrDiagMiss n)).1.toNat)) ∧
    (argN a 1 1 < 4 → (chan s c).code.diag.isSome = false →
      let u := fwPut (fwSet (fwSet s (rScrDiagStart n) [(47, 6, lo / 64)]) (rScrDiagEnd n) [(47, 6, hi / 64)]) (rScrDiagCmd n)
        (BitVec.ofNat 64 (4 * argN a 1 1 + 1))
      (chan u c).code.diag.isSome = true ∨ (chan u c).code.diagRes ≠ 2 → ok (.diagPass m) u [])) ∧
  (RequestHeld s m 0x0401 24 req → 1 ≤ n → n ≤ 4 → argZ a 1 7 = true → lo % 64 = 0 → hi % 64 = 0 → lo < 2 ^ 48 → hi < 2 ^ 48 →
    s.vnr.rop.isSome = false →
    let u := fwPut (fwSet (fwSet s rVnrRopStart [(47, 6, lo / 64)]) rVnrRopEnd [(47, 6, hi / 64)]) rVnrRopCmd
      (BitVec.ofNat 64 (2 ^ 31 + n))
    u.vnr.ropRes ≠ 2 → ok (.rangeOp m) u []) ∧
  (RequestHeld s m 0x0402 1 req → n < 2 → ok (.vnrEnable m) (fwPut s rVnrCtl (BitVec.ofNat 64 n)) []) ∧
  (RequestHeld s m 0x0403 0 req → ok (.vnrStatus m) s (leBytes 4 (fwGetN s rVnrStatus) ++ leBytes 4 (fwGetN s rVnrRopStatus)
    ++ leBytes 8 (fwGetN s rVnrRopProg) ++ leBytes 4 (fieldOf (fwGet s rVnrDirtyStatus) 21 0)
    ++ leBytes 4 (fieldOf (fwGet s rVnrPinStatus) 20 0))) ∧
  (∀ u : State, RequestHeld s m 0x0404 16 req → n ≤ 128 → 1 ≤ argN a 1 1 → argN a 1 1 ≤ 100 → argZ a 2 6 = true → budgetOk s n = true →
    CommitsTo s 0x4 lo (fun s => fwSet s rVnrDirty [(23, 16, n), (6, 0, argN a 1 1)]) u →
    ok (.setDirtyBudget m) (confWrite (modFw u fun f => { f with profile := 4 })) [])

/-- Where firmware carries out the cure and mirroring commands, and in what state it then is (R311, R323, R329, R432, R438
to R440). -/
def Obligations.CureCommandsComplete : Prop := ∀ (s : State) (m : Fin 4) (req : List Byte),
  let a := reqArgs req
  let ok (i : Instr) (u : State) (data : List Byte) := exec i s = .next (mbxAnswer u m req 0 data)
  let r4 (r : RegRef) : List Byte := leBytes 4 (fwGetN s r)
  let n := argN a 0 1
  (∀ u : State, RequestHeld s m 0x0501 12 req → 1 ≤ argN a 4 2 → 1 ≤ argN a 8 4 → argN a 8 4 ≤ 60000 → argZ a 6 2 = true →
    s.cure.mstate = .detached → CommitsTo s 0x10 0 (fun s => fwSet s rCurTwin [(31, 16, argN a 0 2), (15, 0, argN a 4 2)]) u →
    ok (.setTwin m) (confWrite (modFw u fun f => { f with pred := BitVec.ofNat 16 (argN a 2 2), twinMs := argN a 8 4 })) []) ∧
  (RequestHeld s m 0x0502 0 req → allOutOpen s = true → (s.cure.mstate = .detached ∨ s.cure.mstate = .degraded) →
    (curCtl s 1).cure.mstate = .attaching → ok (.attach m) (curCtl s 1) []) ∧
  (RequestHeld s m 0x0503 0 req → (curCtl s 2).cure.mstate = .degraded → ok (.degrade m) (curCtl s 2) []) ∧
  (RequestHeld s m 0x0504 0 req → ok (.getCure m) s (r4 rCurEpoch ++ r4 rCurLocal ++ r4 rCurTwinAck ++ r4 rCurCured ++ r4 rCurStatus
    ++ r4 rCurPendStatus ++ leBytes 8 (fwGetN s rCurRecastProg))) ∧
  (RequestHeld s m 0x0505 2 req → n < chanCount s → argN a 1 1 ≤ 2 → (fencePut s n (argN a 1 1)).cure.cmdRes ≠ 2 →
    ok (.fence m) (fencePut s n (argN a 1 1)) []) ∧
  (∀ u : State, RequestHeld s m 0x0506 16 req → 250 ≤ argN a 0 2 → argN a 2 1 ≤ 100 → 1 ≤ argN a 3 1 → argN a 3 1 ≤ 3 →
    1 ≤ argN a 4 1 → argN a 4 1 ≤ 100 → argZ a 5 3 = true →
    CommitsTo s 0x10 (argN a 8 8) (fun s =>
      fwSet (fwSet s rCurCfg [(31, 16, argN a 0 2), (14, 8, argN a 2 1), (1, 0, argN a 3 1)]) rCurRecastCfg [(6, 0, argN a 4 1)]) u →
    ok (.setCure m) (confWrite u) []) ∧
  (RequestHeld s m 0x0507 8 req → argN a 0 8 < lmsTop s →
    ok (.blankLineGet m) s (leBytes 64 (bitsLine s.map.blank (panelOf (argN a 0 8) / 512 * 512)).toNat)) ∧
  (RequestHeld s m 0x0508 80 req → n = 0 → argZ a 1 7 = true → argN a 8 8 < lmsTop s → a.length = 80 →
    ok (.mapRepair m) (blankRepair s (argN a 8 8) (BitVec.ofNat 512 (argN a 16 64))) []) ∧
  (RequestHeld s m 0x0508 16 req → n = 1 → argZ a 1 7 = true → argN a 8 8 < lmsTop s → a.length = 16 →
    let c := chanOf s (compBase s 2 + panelOf (argN a 8 8) / 8 * 64)
    ((mbx s m).step = 0 → s.cure.mstate = .mirrored → (fencePut s c.val 0).cure.cmdRes ≠ 2 →
      exec (.mapRepair m) s = .next (fwStep (fencePut s c.val 0) m 1)) ∧
    ((mbx s m).step ≠ 0 → s.cure.sweep[c] = false → (fencePut s c.val 1).cure.cmdRes ≠ 2 →
      ok (.mapRepair m) (fencePut s c.val 1) [])) ∧
  (s.arm.mode = .running → s.cure.mstate = .stalled → exec .twinTimeout s = .next
    (if (curCtl s 2).cure.mstate = .degraded then curCtl s 2 else modFw (curCtl s 2) fun f => { f with double := true }))

/-- Where firmware carries out the tiering, lending and jig commands, and in what state it then is (R349, R352, R433, R438,
R443). -/
def Obligations.TierCommandsComplete : Prop := ∀ (s : State) (m : Fin 4) (req : List Byte),
  let a := reqArgs req
  let ok (i : Instr) (u : State) (data : List Byte) := exec i s = .next (mbxAnswer u m req 0 data)
  let n := argN a 0 1
  let g : Fin 32 := Fin.ofNat 32 n
  (∀ u : State, RequestHeld s m 0x0601 24 req → n < 4 → 1 ≤ argN a 1 1 → argN a 1 1 ≤ 200 → 1 ≤ argN a 2 2 → 1 ≤ argN a 8 2 →
    argN a 10 1 ≤ 15 → argN a 11 1 ≤ 15 → argN a 12 4 < 2 ^ 28 →
    CommitsTo s 0x20 (argN a 16 8) (fun s =>
      let s := fwSet s rTirCtl [(31, 31, n % 2), (30, 30, n / 2), (7, 0, argN a 1 1)]
      let s := fwSet s rTirNlb [(15, 0, argN a 2 2)]
      let s := fwSet s rTirThresh [(31, 16, argN a 4 2), (15, 0, argN a 6 2)]
      let s := fwSet s rTirHeatCfg [(31, 16, argN a 8 2), (7, 4, argN a 11 1), (3, 0, argN a 10 1)]
      fwSet s rTirFrameFloor [(27, 0, argN a 12 4)]) u → ok (.setTier m) (confWrite u) []) ∧
  (∀ u : State, RequestHeld s m 0x0602 16 req → n < 32 → argN a 1 1 < 2 → argN a 4 2 < 8192 → argZ a 6 2 = true →
    (argN a 1 1 = 1 → ∀ k < 8, (connOf s (8 * argN a 4 2 + k)).mode = .opened) →
    CommitsTo s 0x20 (argN a 8 8) (fun s => fwSet s (rTirNbr n) [(63, 63, argN a 1 1), (47, 32, argN a 2 2), (31, 19, argN a 4 2)]) u →
    ok (.setNeighbour m) (confWrite u) []) ∧
  (RequestHeld s m 0x0603 12 req → n < 32 → argN a 4 4 < 2 ^ 28 → argN a 8 4 < 2 ^ 28 →
    (argN a 1 1 = 0 →
      let u := fwPut s (rTirGrantA g.val) (putField (setting s (rTirGrantA g.val)) 63 63 0)
      grantOn u g = false → ok (.setGrant m) (confWrite u) (leBytes 4 u.tier.grantFree[g])) ∧
    (argN a 1 1 = 1 →
      let u := fwPut (fwSet s (rTirGrantB g.val) [(27, 0, argN a 8 4)]) (rTirGrantA g.val)
        (packFields [(63, 1), (32, argN a 2 2), (0, argN a 4 4)])
      grantOn u g = true → ok (.setGrant m) (confWrite u) (leBytes 4 u.tier.grantFree[g])) ∧
    (∀ hold : Bool, argN a 1 1 = (if hold then 2 else 3) →
      ok (.setGrant m) (confWrite (grantHoldPut s g hold)) (leBytes 4 (grantHoldPut s g hold).tier.grantFree[g]))) ∧
  (RequestHeld s m 0x0604 8 req → n ≤ 1 → (argN a 1 1 < 32 ∨ argN a 1 1 = 255) → argZ a 2 2 = true →
    let u := fwPut s rTirMoveCmd (packFields [(63, 1), (59, n), (48, if argN a 1 1 = 255 then 0 else argN a 1 1),
      (47, flag (decide (argN a 1 1 = 255))), (0, argN a 4 4)])
    u.tier.moveRes ≠ 2 → ok (.move m) u []) ∧
  (∀ far : List (Nat × LineData), RequestHeld s m 0x0605 16 req → n < 4 → argN a 8 8 % 64 = 0 → argN a 8 8 < 2 ^ 48 →
    argZ a 1 7 = true →
    let e : Fin 4 := Fin.ofNat 4 n
    s.tier.jigs[e].busy = false → ok (.jigStart m far) (regWriteAt (fwPut s (rTirJigAddr e.val) (BitVec.ofNat 64 (argN a 8 8))) 0x800
      (rTirJigCmd e.val).off (BitVec.ofNat 64 (2 ^ 31)) { noEnv with far := far }) []) ∧
  (RequestHeld s m 0x0606 1 req → n < 4 →
    ok (.jigStatus m) s (leBytes 4 (fwGetN s (rTirJigCmd n)) ++ leBytes 4 (fwGetN s (rTirJigLate n)))) ∧
  (∀ (twin : List (Nat × LineData)) (frames : List Nat), RequestHeld s m 0x0607 1 req → n < 32 → s.tier.reclaim.isSome = false →
    let u := regWriteAt s 0x800 rTirReclaimCmd.off (BitVec.ofNat 64 (2 ^ 31 + n)) { noEnv with far := twin, frames := frames }
    u.tier.reclRes ≠ 2 → ok (.reclaim m twin frames) u []) ∧
  (RequestHeld s m 0x0608 0 req →
    let cl := frameClaims s
    let fs := (List.range (frameCount s)).filter fun f => fmGet cl f != fmGet s.map.frames f
    let freed := fs.countP fun f => !fmGet cl f
    ok (.frameAudit m) (frameLowUpd (cacheTrim (forEach fs s fun s f =>
      { s with map := { s.map with frames := fmSet s.map.frames f (fmGet cl f) } }))) (leBytes 4 freed ++ leBytes 4 (fs.length - freed))) ∧
  (RequestHeld s m 0x0609 8 req → n < 32 → argZ a 1 3 = true →
    let k := argN a 4 4
    let bits := (heldFrames s g).foldl (fun (x : BitVec 1920) f =>
      if 1920 * k ≤ f ∧ f < 1920 * k + 1920 then x ||| ((1 : BitVec 1920) <<< (f - 1920 * k)) else x) 0
    ok (.heldList m) s (leBytes 4 k ++ leBytes 4 0 ++ leBytes 240 bits.toNat)) ∧
  (RequestHeld s m 0x060A 248 req → n < 32 → argN a 1 1 < 2 → argZ a 2 2 = true → grantOn s g = true →
    let k := argN a 4 4
    let lo := grantFirst s g
    let first := !rbit s (rTirGrantA g.val) 61 || decide (k = lo / 1920)
    let u := if first then
        modFw (grantHoldPut s g true) fun f => { f with
          held := f.held.filter fun x => decide (x < lo) || decide (lo + grantCount s g ≤ x) }
      else s
    let v := modFw u fun f => { f with held := f.held ++ chunkHeld u g k (argN a 8 240) }
    (argN a 1 1 = 0 → ok (.grantAudit m) (if first then confWrite v else v) []) ∧
    (argN a 1 1 = 1 → ok (.grantAudit m) (confWrite (chainRebuild v g)) (leBytes 4 (chainRebuild v g).tier.grantFree[g])))

/-- The connection commands of the mailboxes (R434): firmware stages the connection and what the command takes, writes
TEN.CONN_CMD, and answers OK where it succeeds; while the connection closes, it waits and answers after. -/
def Obligations.ConnectionMailboxCommandsComplete : Prop := ∀ (s : State) (m : Fin 4) (req : List Byte),
  let a := reqArgs req
  let none_ (_ : State) : List Byte := []
  ∀ (i : Instr) (mop n op : Nat) (stage : State → State) (data : State → List Byte),
    (i = .connOpen m ∧ mop = 0x0701 ∧ n = 80 ∧ op = 1 ∧ (stage = fun s => openStage s a) ∧ data = none_ ∧
        argN a 6 1 ≤ 2 ∧ argN a 7 1 ≤ 3 ∧ argN a 8 1 ≤ 3 ∧ argN a 10 1 ≤ 63 ∧ argN a 32 8 < 2 ^ 57 ∧ argN a 40 8 < 2 ^ 57) ∨
    (i = .connClose m ∧ mop = 0x0702 ∧ n = 2 ∧ op = 2 ∧ (stage = fun s => selPut s a) ∧ data = none_) ∨
    (i = .keyInstall m ∧ mop = 0x0703 ∧ n = 40 ∧ op = 3 ∧
        (stage = fun s => keyPut (selPut s a) (argN a 2 1) (argN a 4 4) a 8) ∧ data = none_ ∧ argZ a 3 1 = true) ∨
    (i = .keySwitch m ∧ mop = 0x0704 ∧ n = 2 ∧ op = 4 ∧ (stage = fun s => selPut s a) ∧ data = none_) ∨
    (i = .keyRetire m ∧ mop = 0x0705 ∧ n = 2 ∧ op = 5 ∧ (stage = fun s => selPut s a) ∧ data = none_) ∨
    (i = .connQuery m ∧ mop = 0x0706 ∧ n = 2 ∧ op = 7 ∧ (stage = fun s => selPut s a) ∧
        data = fun s => leBytes 8 (fwGetN s rTenConnStatus)) →
    RequestHeld s m mop n req →
    let u := fwPut (stage s) rTenConnCmd (BitVec.ofNat 64 (2 ^ 31 + op))
    ((mbx s m).step = 0 → s.ten.closing = [] →
      (u.ten.closing = [] → u.ten.connRes = 1 → exec i s = .next (mbxAnswer u m req 0 (data u))) ∧
      (u.ten.closing ≠ [] → exec i s = .next (fwStep u m 1))) ∧
    ((mbx s m).step ≠ 0 → s.ten.connRes = 1 → exec i s = .next (mbxAnswer s m req 0 (data s)))

/-- Where firmware carries out RKEY_CREATE, RKEY_REVOKE, RING_SET and SEG_SET, and in what state it then is (R434). -/
def Obligations.TenonTableCommandsComplete : Prop := ∀ (s : State) (m : Fin 4) (req : List Byte),
  let a := reqArgs req
  let ok (i : Instr) (u : State) (data : List Byte) := exec i s = .next (mbxAnswer u m req 0 data)
  let n := argN a 0 2
  let r := argN a 0 1
  let lo := argN a 8 8
  let hi := argN a 16 8
  (RequestHeld s m 0x0707 24 req → n < 2 ^ 15 → argN a 4 1 < 16 → argN a 5 1 < 32 → lo % 64 = 0 → hi % 64 = 0 →
    lo < 2 ^ 48 → hi < 2 ^ 48 → argZ a 6 2 = true →
    let u := fwPut s rTenRkeySel (BitVec.ofNat 64 n)
    let u := fwPut u rTenRkeyBase (BitVec.ofNat 64 lo)
    let u := fwPut u rTenRkeySize (BitVec.ofNat 64 hi)
    let u := fwPut u rTenRkeyAttr (packFields [(16, argN a 2 2), (8, argN a 5 1), (0, argN a 4 1)])
    let u := fwPut u rTenRkeyCmd (BitVec.ofNat 64 (2 ^ 31 + 1))
    u.ten.rkeyRes = 1 → ok (.rkeyCreate m) u (leBytes 4 (fwGetN u rTenRkeyVal))) ∧
  (RequestHeld s m 0x0708 2 req → n < 2 ^ 15 →
    ((mbx s m).step = 0 → ∀ late : Bool,
      let u := fwPut (fwPut s rTenRkeySel (BitVec.ofNat 64 n)) rTenRkeyCmd (BitVec.ofNat 64 (2 ^ 31 + 2))
      u.ten.rkeyRes = 1 → exec (.rkeyRevoke m late) s = .next (fwStep u m 1)) ∧
    ((mbx s m).step ≠ 0 → ∀ late : Bool,
      (((rkeyRead s n).any fun k => decide (k.mode = .invalid)) = true → ok (.rkeyRevoke m late) s []))) ∧
  (RequestHeld s m 0x0709 24 req → r < 32 → argN a 1 1 < 2 → 4 ≤ argN a 2 1 → argN a 2 1 ≤ 16 → argN a 4 2 < 4096 → lo % 64 = 0 →
    hi % 64 = 0 → lo < 2 ^ 48 → hi < 2 ^ 48 → argZ a 3 1 = true → argZ a 6 2 = true →
    ok (.ringSet m) (fwPut (fwPut (fwPut s (rTenRingA r) (putField (setting s (rTenRingA r)) 63 63 0)) (rTenRingB r)
      (BitVec.ofNat 64 hi)) (rTenRingA r) (packFields [(63, argN a 1 1), (48, argN a 4 2), (6, lo / 64), (0, argN a 2 1)])) []) ∧
  (RequestHeld s m 0x070A 24 req → r < 4 → argN a 1 1 < 2 → argZ a 2 2 = true →
    ok (.segSet m) (fwPut (fwPut (fwPut (fwPut s (rTenSegIp4 r) (BitVec.ofNat 64 (argN a 4 4))) (rTenSegIp6l r)
      (BitVec.ofNat 64 lo)) (rTenSegIp6h r) (BitVec.ofNat 64 hi)) (rTenSegCtl r) (BitVec.ofNat 64 (argN a 1 1))) [])

/-- Where register accesses, commits, snapshots and the Beat's commands complete, and in what state (R31 to R34, R449 to
R460). -/
def Obligations.RegisterCommandsComplete : Prop := ∀ s : State,
  (∀ (mid : BitVec 12) (off : BitVec 24) (v : Word64) (env : RegEnv) (h : RegHit), regFind off.toNat = some h →
    exec (.registerWrite mid off v env) s = .next (regWrite s mid h
      (if h.high then (v <<< 32) ||| (regValue s h &&& 0xFFFF_FFFF) else v) env)) ∧
  (∀ (off : BitVec 24) (h : RegHit), regFind off.toNat = some h → exec (.rcRead off) s = .next (Machine.regRead s h 0).2) ∧
  (s.pwr.rst = none → ∀ (addr : BitVec 22) (v : Word32) (env : RegEnv),
    exec (.regPortAccess true addr v env) s = .next (portRsp (wordWrite s false 0xFFF (4 * addr.toNat) v env).2
      ⟨0, !(wordWrite s false 0xFFF (4 * addr.toNat) v env).1⟩) ∧
    exec (.regPortAccess false addr v env) s = .next (portRsp (wordRead s false (4 * addr.toNat) env.bad.val).2
      ⟨((wordRead s false (4 * addr.toNat) env.bad.val).1).getD 0, (wordRead s false (4 * addr.toNat) env.bad.val).1.isNone⟩)) ∧
  (∀ mask : BitVec 16, mask ≠ 0 → (maskGroups mask).any (isSched s) = false →
    exec (.commitNow mask) s = .next (commitApply s mask) ∧
    exec (.commitSchedule mask) s = .next (if s.beat.valid ∧ (getReg s rTopCommitAt).toNat ≤ beatNs s then commitApply s mask
      else modCsr s fun c => { c with
        sched := (maskGroups mask).foldl (fun x g => smSet none x g (some (getReg s rTopCommitAt))) c.sched })) ∧
  (∀ mask : BitVec 16, (maskGroups mask).all (isSched s) = true → exec (.commitCancel mask) s =
    .next (modCsr s fun c => { c with sched := (maskGroups mask).foldl (fun x g => smSet none x g none) c.sched })) ∧
  (∀ b : Nat, schedDue s = some b →
    let gs := s.csr.sched.filterMap fun e => if e.2.map BitVec.toNat = some b then some e.1 else none
    exec .commitApplied s = .next (commitApply
      (modCsr s fun c => { c with sched := gs.foldl (fun x g => smSet none x g none) c.sched })
      (gs.foldl (fun m g => m ||| ((1 : BitVec 16) <<< g)) 0))) ∧
  (Answers .topSnapshot s fun t => t.csr.holdReg = (counters s).foldl (fun m e => smSet 0 m e.1 e.2) []) ∧
  exec .cntClr s = .next (modCsr s fun c => { c with val := c.val.filter fun e => ((regFind e.1).bind cntIndex).isNone }) ∧
  (s.pwr.rst = none → ∀ v : Word64,
    let d : Int := 2 * (v.toNat : Int) - (s.beat.half : Int)
    (s.beat.valid = false → Answers (.beatSync v) s fun t => t.beat.valid = true ∧ t.beat.half = 2 * v.toNat ∧ t.beat.holdFor = 0) ∧
    (s.beat.valid = true → d < -2048 → Answers (.beatSync v) s fun t => t.beat.half = s.beat.half ∧ t.beat.freerun = true) ∧
    (s.beat.valid = true → -2048 ≤ d → d < -4 → Answers (.beatSync v) s fun t =>
      t.beat.half = s.beat.half ∧ t.beat.holdFor = (-d).toNat ∧ t.beat.freerun = false) ∧
    (s.beat.valid = true → -4 ≤ d → d ≤ 4 → Answers (.beatSync v) s fun t =>
      t.beat.half = s.beat.half ∧ t.beat.holdFor = s.beat.holdFor ∧ t.beat.freerun = false) ∧
    (s.beat.valid = true → 4 < d → Answers (.beatSync v) s fun t => t.beat.freerun = false)) ∧
  (s.pwr.rst = none → s.beat.freerun = false →
    (s.beat.valid = true ∧ s.beat.sync + 32000 < s.beat.half) ∨ (s.beat.valid = false ∧ 32000 < s.beat.fclk) →
    Answers .beatFreerun s fun t => t.beat.freerun = true ∧ t.beat.valid = true ∧
      t.beat.half = if s.beat.valid then s.beat.half else 0)

/-- Where the commands of the event collector complete, for every source, and in what state (R467 to R477, R489). -/
def Obligations.EventsComplete : Prop := ∀ s : State,
  (∀ (src : Fin 1024) (ds : List Word32) (o : EvtOrigin) (u : Bool), evtUsed src.val = true →
    Answers (.eventSignal src ds o u) s fun t => smGet 0 t.evt.sq src.val = sqAdvance (smGet 0 s.evt.sq src.val)) ∧
  (∀ (src : Fin 1024) (mid : BitVec 12), evtUsed src.val = true →
    Answers (.evtForce src mid) s fun t => smGet 0 t.evt.sq src.val = sqAdvance (smGet 0 s.evt.sq src.val)) ∧
  (∀ src : Fin 1024, s.beat.valid = true →
    let w := winOf s src.val
    let n := fld s (rFltCfg src.val) 63 56
    let w' : WinRec := if 0 < n ∧ n ≤ w.count then { w with count := 0, run := min 3 (w.run + 1) }
      else { count := 0, run := 0, level := if w.level = .serious then .normal else w.level }
    exec (.faultWindowEnd src) s = .next { s with evt := { s.evt with win := smSet WinRec.empty s.evt.win src.val w' } }) ∧
  (∀ src : Fin 1024, exec (.levelClr false true src) s = .next { s with evt := { s.evt with
    win := smSet WinRec.empty s.evt.win src.val (levelClear (winOf s src.val)) } }) ∧
  (∀ (go : Bool) (src : Fin 1024), exec (.levelClr true go src) s = .next { s with evt := { s.evt with
    win := s.evt.win.foldl (fun m e => smSet WinRec.empty m e.1 (levelClear e.2)) s.evt.win } }) ∧
  (∀ g : Fin 32, exec (.fecClr g) s = .next { s with evt := { s.evt with fec := smSet FecRec.empty s.evt.fec g.val FecRec.empty } }) ∧
  exec .sevClr s = .next { s with evt := { s.evt with severe := false, sevSrc := none } } ∧
  exec .foClr s = .next { s with evt := { s.evt with failover := false, foRefused := false } } ∧
  (∀ (src : Fin 1024) (v : Word32), fieldOf v 15 0 = sqSeq (smGet 0 s.evt.sq src.val) →
    exec (.sqAck src v) s = .next { s with evt := { s.evt with
      sq := smSet 0 s.evt.sq src.val (BitVec.ofNat 32 (sqSeq (smGet 0 s.evt.sq src.val)))
      ipend := s.evt.ipend &&& ~~~ ((1 : BitVec 1024) <<< src.val) } })

/-- Where the commands of the journal complete, and in what state (R478, R479, R484, R485, R487). -/
def Obligations.JournalComplete : Prop := ∀ s : State,
  (∀ (e : JrnEvt) (q : List JrnEvt), s.jrn.queue = e :: q → s.jrn.chain.length + (chainOf e).length ≤ 16 →
    exec .journalRecord s = .next { s with jrn := { s.jrn with queue := q, chain := s.jrn.chain ++ chainOf e } }) ∧
  (∀ o : OpenPkt, s.jrn.cur = some o → o.midEvt = false →
    (closeDue s = true → exec .packetCloseTime s = .next (closePkt s .time)) ∧ exec .jrnFlush s = .next (closePkt s .flush) ∧ (closePkt s .time).jrn.cur = none ∧
      (closePkt s .flush).jrn.cur = none) ∧
  (∀ o : OpenPkt, s.jrn.cur = some o → o.midEvt = true →
    (closeDue s = true → exec .packetCloseTime s =
      .next { s with jrn := { s.jrn with cur := some { o with closing := some (o.closing.getD .time) } } }) ∧
    exec .jrnFlush s = .next { s with jrn := { s.jrn with cur := some { o with closing := some (o.closing.getD .flush) } } }) ∧
  exec .jrnClear s = .next { s with jrn := { s.jrn with pkts := [], cur := none, ring := [] } } ∧
  (∀ (bad : Fin 3) (p : Pkt) (ps : List Pkt), s.jrn.pkts = p :: ps →
    Answers (.jrnPop bad) s fun t =>
      t.jrn.tag = popTag { p with lenBad := p.lenBad || decide (p.read = 0 ∧ bad.val = 2) } s.jrn.lost bad.val ∧
      (bad.val ≠ 2 → t.jrn.latch = smGet 0 s.jrn.ring ((p.start + p.read) % ringSize)) ∧ t.jrn.lost = false ∧
      t.jrn.pkts = if p.read + 1 = p.words then ps
        else { p with read := p.read + 1, lenBad := p.lenBad || decide (p.read = 0 ∧ bad.val = 2) } :: ps) ∧
  (∀ bad : Fin 3, s.jrn.pkts = [] → exec (.jrnPop bad) s = .next { s with jrn := { s.jrn with tag := 0, latch := 0 } })

/-- Where the power-state commands, the drain and the reset pins complete, and in what state (R202, R204, R322, R496, R498
to R510). -/
def Obligations.PowerComplete : Prop := ∀ s : State,
  (∀ (c : Instr) (x : PwrState),
    (c, x) ∈ [(.stateCmdActive, .active), (.stateCmdPowerDown, .powerDown), (.stateCmdSelfRefresh, .selfRefresh)] →
    stateRefusal (setFld s rPwrStateCmd 1 0 (pwrNo x)) x = 0 →
    Answers c s fun t => t.pwr.state = x ∧ t.pwr.cmdRes = 1) ∧
  (stateRefusal (setFld s rPwrStateCmd 1 0 3) .off = 0 → exec .stateCmdOffRetention s = .next
    (drainBegin (modPwr (setFld s rPwrStateCmd 1 0 3) fun p => { p with cmdRes := 1, cmdWhy := 0 }) true)) ∧
  (s.pwr.pfail = true → s.pwr.rst = none → Answers .pfailReturn s fun t => t.pwr.pfail = false ∧ t.cure.drain = s.cure.drain) ∧
  (s.pwr.rst = none → s.pwr.pfail = false →
    let u := pwrArm (pfailChans (cntInc (modPwr s fun p => { p with pfail := true, seen := true }) rPwrPfailCnt))
    (u.cure.drain = .none → exec .drainStart s = .next (drainBegin (ev u 782) false)) ∧
    (u.cure.drain = .complete ∨ u.cure.drain ≠ .none ∧ u.pwr.asked = false → exec .drainStart s = .next u) ∧
    (u.cure.drain ≠ .none → u.cure.drain ≠ .complete → u.pwr.asked = true → exec .drainStart s =
      .next (ev (modPwr u fun p => { p with
        asked := false, cureWait := false, cureMet := if u.pwr.cureWait then epLe u.pwr.e1 (curC u) else u.pwr.cureMet }) 782))) ∧
  (∀ late : Bool, s.pwr.cureWait = true →
    (late = true ∨ epLe s.pwr.e1 (curC s) = true ∨ s.cure.mstate = .degraded ∨ s.cure.mstate = .detached) →
    exec (.cureWaitEnd late) s = .next (modPwr s fun p => { p with cureWait := false, cureMet := epLe s.pwr.e1 (curC s) })) ∧
  (s.cure.drain = .started → s.pwr.cureWait = false → drainQuiet (vnrClean s) = true →
    Answers .drainRecords s fun t => t.cure.drain = .recorded) ∧
  (s.cure.drain = .recorded → allChans.all (fun c => (chan s c).phy.run.isNone && (!drainChan s c || chanEmpty s c)) = true →
    Answers .drainComplete s fun t => t.pwr.state = .off) ∧
  (∀ (c : Instr), c ∈ [Instr.porstAssert, .corePowerLoss] → Answers c s fun t =>
    t.pwr.rst = some .porst ∧ t.pending = s.pending ∧ t.conns = [] ∧ t.tt = [] ∧ t.ports = State.reset.ports ∧
    t.evt = State.reset.evt ∧ t.jrn = State.reset.jrn ∧
    t.vnr = { State.reset.vnr with slices := s.vnr.slices.map (sliceReset .porst) } ∧ t.cure = State.reset.cure ∧
    t.tier = State.reset.tier ∧ t.arm = State.reset.arm) ∧
  (Answers .srstAssert s fun t =>
    t.pwr.rst = some (if s.pwr.rst = some .porst then .porst else .srst) ∧ t.pending = s.pending ∧ t.conns = [] ∧ t.tt = [] ∧
    t.ports = State.reset.ports ∧ t.evt = State.reset.evt ∧ t.jrn = State.reset.jrn ∧
    t.vnr = { State.reset.vnr with slices := s.vnr.slices.map (sliceReset (if s.pwr.rst = some .porst then .porst else .srst)) } ∧
    t.cure = State.reset.cure ∧ t.tier = State.reset.tier ∧ t.arm = State.reset.arm) ∧
  (s.pwr.rst ≠ none → ∃ u, exec (.resetRelease false) s = .next u ∧ u.pwr = { s.pwr with rst := none } ∧
    exec (.resetRelease true) s = .next (pfailLow u)) ∧
  (s.pwr.vkeep = true → Answers .vkeepFail s fun t => t.pwr = { s.pwr with vkeep := false } ∧ t.chans = s.chans) ∧
  (s.pwr.vkeep = false → Answers .vkeepPowerUp s fun t => t.pwr = { s.pwr with vkeep := true } ∧ ∀ c, (chan t c).keep = ChanSt.reset.keep)

/-- A step runs the command at the front of the queue on the state with the queue's rest (log entry 2). -/
def Obligations.CommandAtFrontRuns : Prop := ∀ (c : Instr) (s : State) (rest : List Instr),
  s.pending = c :: rest → step s = exec c { s with pending := rest }

/-- On an empty queue the block idles: one FCLK passes outside reset (log entry 3). The internal Beat then enters free-run
where that is due (R34, R35), and advances by 0.5 ns where it is valid and not held (R31, R32). Only the Beat unit, what a valid
Beat starts in the channels, admission's record of the masked requesters, the registers, the events and the journal can
change. -/
def Obligations.EmptyQueueIdles : Prop := ∀ s : State, s.pending = [] →
  (s.pwr.rst.isSome = true → step s = .next s) ∧
  (s.pwr.rst = none → ∃ t, step s = .next t ∧ t.pending = [] ∧ t.beat.fclk = s.beat.fclk + 1 ∧
    (freerunDue s = true → t.beat.freerun = true ∧ t.beat.valid = true ∧ t.beat.holdFor = 0 ∧
      t.beat.half = (if s.beat.valid then s.beat.half else 0) + 1) ∧
    (freerunDue s = false → t.beat.freerun = s.beat.freerun ∧ t.beat.valid = s.beat.valid ∧
      (s.beat.valid = false → t.beat.half = s.beat.half) ∧
      (s.beat.valid = true → s.beat.holdFor = 0 → t.beat.half = s.beat.half + 1 ∧ t.beat.holdFor = 0) ∧
      (s.beat.valid = true → 0 < s.beat.holdFor → t.beat.half = s.beat.half ∧ t.beat.holdFor = s.beat.holdFor - 1)) ∧
    ∀ k : Part, k ∉ [Part.beat, .csr, .evt, .jrn, .adm, .chans] → Part.Same s t k)

/-- No command stops, in any state: every number of steps can be made from every state. -/
def Obligations.EveryStateIsSafe : Prop := ∀ s : State, Safe s

/-- The stored maps are in canonical form after reset. -/
def Obligations.ResetIsCanonical : Prop := State.reset.Canonical

/-- Every step keeps the canonical form of the DRAM's bytes, of the register values, of the counters' holding registers and of
the connections. -/
def Obligations.StepsKeepCanonicalForm : Prop := ∀ s t : State, s.Canonical → step s = .next t → t.Canonical

/-- What a command leaves: the queue, every part of the state that is not among its own (`touches`), and the count of free
values drawn, which never falls. A step with the command at the front leaves the queue's rest. -/
def Obligations.CommandsKeepTheRest : Prop := ∀ (c : Instr) (s t : State),
  (exec c s = .next t → t.pending = s.pending ∧ s.fresh ≤ t.fresh ∧ ∀ k : Part, k ∉ touches c → Part.Same s t k) ∧
  (∀ rest, s.pending = c :: rest → step s = .next t → t.pending = rest ∧ s.fresh ≤ t.fresh ∧
    ∀ k : Part, k ∉ touches c → Part.Same s t k)

/-- A register holds what is put into it, and no register at another offset changes. -/
def Obligations.RegistersReadBack : Prop := ∀ (s : State) (r q : RegRef) (v : Word64), s.Canonical →
  getReg (setReg s r v) r = v ∧ (q.off ≠ r.off → getReg (setReg s r v) q = getReg s q) ∧ (setReg s r v).Canonical

/-- The 80 bytes stored at a position of DRAM (R83, R85, R234) read back, and no other position changes. -/
def Obligations.DramLinesReadBack : Prop :=
  let fits (k : Coord) : Prop := k.chan < 16 ∧ k.sub < 2 ∧ k.rank < 32 ∧ k.bg < 8 ∧ k.ba < 4 ∧ k.row < 2 ^ 18 ∧ k.col < 128
  ∀ (s : State) (k j : Coord) (r : RawLine), s.Canonical → fits k → fits j →
    dramLine (setDramLine s k r) k = r ∧ (j ≠ k → dramLine (setDramLine s k r) j = dramLine s j) ∧ (setDramLine s k r).Canonical

/-- The decode of an address into a position (R81 to R85) can be undone: two lines of the DAS never share a position. -/
def Obligations.AddressDecodeInverts : Prop := ∀ (s : State) (a : Nat), lineIdxOf s a < chanLines s →
  (coordOf s a).chan = (chanOf s a).val ∧ dasOfCoord s (chanOf s a) (coordOf s a) = a / 64 * 64

/-- The worked example of R85: the address 0x12_3456_7AC0 in the geometry after reset. -/
def Obligations.DecodeExample : Prop :=
  coordOf State.reset 0x1234567AC0 = { chan := 11, sub := 1, rank := 0, row := 0x1234, col := 79, bg := 1, ba := 0 }

/-- After PORST_N the first register of every heading of the register maps reads its Reset value (R19). PWR.STATUS shows
pins; image keys, ARM.SVN, trims and Inlay entries are factory-programmed, and SCH.FLR and REF.TRFC_FLR hold factory minima: these
are not stated. -/
def Obligations.RegistersResetToTheirColumn : Prop := ∀ l ∈ [regsTop, regsEvt, regsFlt, regsJrn, regsAdm,
    regsFrp, regsNtc, regsMap, regsVnr, regsCur, regsTir, regsTen, regsArm, regsMbx, regsPwr, regsSch, regsRef, regsDst, regsPhy,
    regsPrb, regsSbi, regsCode, regsGlu, regsScr, regsInl],
  ∀ d ∈ l, d.base ∉ [0xB0008, 0xA0040, 0x100130, 0x100134, 0x100138, 0x10013C, 0x100140, 0x100144, 0x100428, 0x101040, 0x108000, 0xA000C, 0xA0010] →
    ∃ h, regFind d.base = some h ∧ h.desc = d ∧ regValue State.reset h = h.ref.rst

/-- What reset leaves: the internal Beat is invalid (R35), every port is DOWN with nothing outstanding (R69, R72), every Segment
Port is DOWN (R366), the Armature is in its boot ROM (R414), and no request is in the block. -/
def Obligations.ResetLeaves : Prop :=
  State.reset.beat.valid = false ∧ State.reset.beat.freerun = false ∧
  (∀ p, (port State.reset p).mode = .down ∧ (port State.reset p).tags = [] ∧ (port State.reset p).creds = 0 ∧ reqReady State.reset p = false) ∧
  (∀ g : Fin 4, State.reset.ten.segs[g].up = false) ∧ isReady State.reset = false ∧
  State.reset.arm.mode = .bootRom ∧ State.reset.tt = [] ∧ State.reset.adm.wait = [] ∧ State.reset.ntc = [] ∧
  State.reset.cure.mstate = .detached ∧ (∀ c, State.reset.cure.fence[(c : Fin 16)] = .inService) ∧ State.reset.pending = []

/-- A request whose address violates its alignment, lies beyond the LMS or inside the Reserve (which begins at the LMS top or
above it, R79; LMS addresses below that top are no addresses of the Reserve) completes with ERR_RANGE and is not admitted; a
PREFETCH is not refused (R54). -/
def Obligations.BadAddressesAreRefused : Prop := ∀ (s : State) (p : Fin 8) (q : FrpReq) (err : RawLine) (i : Instr) (op : MemOp) (align : Nat),
  (i, op, align) ∈ [(Instr.rdLine p q err, MemOp.rdLine, 64), (.rdPart p q err, .rdPart, 64), (.wrLine p q, .wrLine, 64),
    (.wrPart p q, .wrPart, 64), (.atomAdd8 p q, .add8, 8), (.atomCas8 p q, .cas8, 8), (.trim p q, .trim, 65536),
    (.prefetch p q err, .prefetch, 64)] →
  reqReady s p = true → (port s p).tags.contains q.tag.val = false → q.mid.getLsbD 11 = false → flagsBad (some op) q = false →
  inDrain s = false → q.lock = false → (q.addr.toNat % align ≠ 0 ∨ lmsTop s ≤ q.addr.toNat ∨ (lmsTop s ≤ rsvBase s ∧ rsvBase s ≤ q.addr.toNat)) →
  let code : Code := if op = .prefetch then .ok else .errRange
  Answers i s fun t => t.adm.wait = s.adm.wait ∧ t.tt = s.tt ∧
    ((∃ c ∈ (port t p).cmpBuf, c.tag = q.tag.val ∧ c.code = code) ∨ (∃ d ∈ (port t p).due, d.tag = q.tag.val ∧ d.code = code))

/-- When a requester is masked (R119): an FRP unless its port is UP, a Tenon engine while every Segment Port is DOWN, the
Armature unless it runs, Joiner, Rasp and Casting never. A request of a masked requester other than an FRP is eligible in no
pool; a write of a masked FRP whose beat has arrived stays (R71), and so does a frame access that an admitted request has caused
(the model's choice, log entry 83). -/
def Obligations.MaskedRequesters : Prop := ∀ s : State,
  (∀ p : Fin 8, reqMasked s (Fin.castLE (by decide) p) = true ↔ (port s p).mode = .quiesce ∨ (port s p).mode = .down) ∧
  (∀ e : Fin 20, 8 ≤ e.val → e.val < 16 → (reqMasked s e = true ↔ ∀ g : Fin 4, s.ten.segs[g].up = false)) ∧
  (reqMasked s 19 = true ↔ s.arm.mode ≠ .running) ∧
  (∀ e : Fin 20, 16 ≤ e.val → e.val < 19 → reqMasked s e = false) ∧
  (∀ (r : Req) (pool : Fin 16), 8 ≤ r.src.val → reqMasked s r.src = true → r.kind = .access ∨ r.kind = .raw →
    eligible s pool r = false)

/-- A line's outcome from its two codewords (R238); erasures filled alone leave a codeword clean. -/
def Obligations.LineOutcomes : Prop := ∀ (x8 : Bool) (marks : List Nat) (raw : RawLine),
  let a := decodeCw x8 marks (rawCw raw 0)
  let b := decodeCw x8 marks (rawCw raw 1)
  let line := decodeLine x8 marks raw
  (a.kind = .poison ∨ b.kind = .poison → line.kind = .poison) ∧
  (a.kind ≠ .poison → b.kind ≠ .poison → (a.kind = .uncorr ∨ b.kind = .uncorr) → line.kind = .uncorr) ∧
  (a.kind ≠ .poison → b.kind ≠ .poison → a.kind ≠ .uncorr → b.kind ≠ .uncorr →
    (line.kind = .corrected ↔ a.kind = .corrected ∨ b.kind = .corrected) ∧
    (line.kind = .clean ↔ a.kind = .clean ∧ b.kind = .clean)) ∧
  (∀ (cw c : List Nat), rsBounded x8 marks cw = some (c, []) → (decodeCw x8 marks cw).kind = .clean)

/-- The layouts of mailbox requests and responses (R424). -/
def Obligations.MailboxLayouts : Prop :=
  (∀ (op : BitVec 16) (tag : Byte) (args tail : List Byte), args.length ≤ 252 →
    let req : List Byte := leBytes 2 op.toNat ++ [tag, BitVec.ofNat 8 args.length] ++ args ++ tail
    argN req 0 2 = op.toNat ∧ argN req 2 1 = tag.toNat ∧ argN req 3 1 = args.length ∧ reqArgs req = args) ∧
  (∀ (req : List Byte) (status : Nat) (data : List Byte), 4 ≤ req.length → status < 256 → data.length ≤ 248 →
    let rsp := mbxBytes req status data
    argN rsp 0 2 = argN req 0 2 ∧ argN rsp 2 1 = argN req 2 1 ∧ argN rsp 3 1 = status ∧ argN rsp 4 1 = data.length ∧
    argN rsp 5 3 = 0 ∧ rsp.drop 8 = data ∧ rsp.length ≤ 256)

/-- Panel, line and region of an LMS address, with the worked example (R87). -/
def Obligations.PanelsAndLines : Prop :=
  (∀ a : BitVec 48, panelOf a.toNat = (a.extractLsb 47 16).toNat ∧ panelLine a.toNat = (a.extractLsb 15 6).toNat ∧
    panelLine a.toNat < 1024 ∧ regionOf16 (panelOf a.toNat) = (a.extractLsb 47 24).toNat) ∧
  (∀ p r : Nat, regionOf16 p = r ↔ ∃ k < 256, p = 256 * r + k) ∧
  panelOf 0x1234567AC0 = 0x123456 ∧ panelLine 0x1234567AC0 = 0x1EB ∧ regionOf16 (panelOf 0x1234567AC0) = 0x1234

/-- Writes of ADM.LOCK_CFG keep the ceilings at or below the hardware limit: max_req above 256 or max_time above 250 is
ignored, and so is 0, a reserved value (R20, R126). -/
def Obligations.LockCeilingWrites : Prop := ∀ (s : State) (mid : BitVec 12) (v : Word64) (env : RegEnv), s.Canonical →
  let time := fieldOf v 23 16
  let reqs := fieldOf v 8 0
  Answers (.registerWrite mid 0x40018 v env) s fun t =>
    fld t rAdmLockCfg 23 16 = (if 1 ≤ time ∧ time ≤ 250 then time else fld s rAdmLockCfg 23 16) ∧
    fld t rAdmLockCfg 8 0 = (if 1 ≤ reqs ∧ reqs ≤ 256 then reqs else fld s rAdmLockCfg 8 0)

/-- Writes of SCH.TIM0, SCH.TIM2, SCH.TIM3 and SCH.TIM4, registers with RWH fields alone (R166): outside HELD nothing but
CFG_REFUSED; in HELD the value is pending, and the last write stands. The value in force does not change. -/
def Obligations.HoldRegisterWrites : Prop := ∀ (s : State) (c : Fin 16) (mid : BitVec 12) (v : Word32) (env : RegEnv) (k : Nat),
  k ∈ [0, 2, 3, 4] → c.val < chanCount s →
  let off := 0x100110 + 4 * k + 0x40000 * c.val
  let i := Instr.registerWrite mid (BitVec.ofNat 24 off) (v.setWidth 64) env
  ((chan s c).sch.hold ≠ .held → exec i s = .next (ev s (chEv c 4))) ∧
  ((chan s c).sch.hold = .held → Answers i s fun t =>
    (smGet none t.csr.pendH off).map (·.setWidth 32) = some v ∧ t.csr.val = s.csr.val ∧ chanPend t c = true)

/-- The cured epoch C in the mirror states (R299); in DETACHED it is the value held since reset or CUR.EPOCH_SET. CUR.EPOCH,
CUR.LOCAL, CUR.TWIN_ACK and CUR.CURED read E, Lc, T and C. -/
def Obligations.CuredEpoch : Prop := ∀ s : State,
  let lc := curLc s
  let tw := curT s
  ((s.cure.mstate = .mirrored ∨ s.cure.mstate = .stalled) → curC s = epMin lc tw) ∧
  (s.cure.mstate = .attaching → curC s = epMin (epMin lc tw) (s.cure.attachE - 1)) ∧
  (s.cure.mstate = .degraded → curC s = lc) ∧ (s.cure.mstate = .detached → curC s = s.cure.cDet) ∧
  (∀ x ∈ [(rCurEpoch, s.cure.e), (rCurLocal, lc), (rCurTwinAck, tw), (rCurCured, curC s)],
    (fwGet s x.1).setWidth 32 = x.2)

/-- A read of a register that acts returns its value and clears its RC bits (R453); no other register changes. The journal's
word register is a pop (R484), and MBX.STATUS keeps its overrun bit with the mailbox. -/
def Obligations.ReadsClearLeafStatus : Prop := ∀ (s : State) (off : BitVec 24) (h : RegHit), s.Canonical →
  regFind off.toNat = some h → regActs s h = true → h.desc.base ≠ 0x30008 →
  (Machine.regRead s h 0).1 = regValue s h ∧
  Answers (.rcRead off) s fun t =>
    (h.desc.base ≠ 0xA1204 → getReg t h.ref = getReg s h.ref &&& ~~~ accBits .rc h.desc) ∧
    (h.desc.base = 0xA1204 → accBits .rc h.desc ≠ 0 → (mbx t (Fin.ofNat 4 h.i)).overrun = false) ∧
    (∀ q : RegRef, q.off ≠ h.ref.off → getReg t q = getReg s q) ∧
    ∀ k : Part, k ∉ [Part.csr, .fw] → Part.Same s t k

/-- While PFAIL_N is seen low or the drain has begun, a request that would be admitted completes ERR_POWER, a CURE_FENCE too
(R65). -/
def Obligations.PowerFailRefusals : Prop := ∀ (s : State) (p : Fin 8) (q : FrpReq) (err : RawLine) (i : Instr) (op : Option MemOp),
  (i, op) ∈ [(Instr.rdLine p q err, some MemOp.rdLine), (.rdPart p q err, some .rdPart), (.wrLine p q, some .wrLine),
    (.wrPart p q, some .wrPart), (.atomAdd8 p q, some .add8), (.atomCas8 p q, some .cas8), (.trim p q, some .trim),
    (.prefetch p q err, some .prefetch), (.cureFence p q, none)] →
  reqReady s p = true → (port s p).tags.contains q.tag.val = false → q.mid.getLsbD 11 = false → flagsBad op q = false →
  inDrain s = true →
  Answers i s fun t => t.adm.wait = s.adm.wait ∧ t.tt = s.tt ∧
    ((∃ c ∈ (port t p).cmpBuf, c.tag = q.tag.val ∧ c.code = .errPower) ∨
      (∃ d ∈ (port t p).due, d.tag = q.tag.val ∧ d.code = .errPower))

/-- The outputs of the collector: FAULT_SEVERE and the interrupt lines (R475, R476), and the journal notice (R486). -/
def Obligations.CollectorOutputs : Prop := ∀ s : State,
  (s.pwr.rst.isSome = true → faultSevere s = false ∧ (∀ l, irqLine s l = false) ∧ irqArm s = false) ∧
  (s.pwr.rst = none → faultSevere s = s.evt.severe) ∧
  (∀ id : Nat, (assertSevere s id).evt.severe = true ∧
    (assertSevere s id).evt.sevSrc = some (s.evt.sevSrc.getD (BitVec.ofNat 10 id))) ∧
  Answers .sevClr s (fun t => t.evt.severe = false ∧ t.evt.sevSrc = none) ∧
  (jrnNotice s = true ↔ s.jrn.pkts ≠ []) ∧
  (s.pwr.rst = none → ∀ l < 4, (irqLine s l = true ↔ rbit s rEvtLineEn l = true ∧
    ((∃ i < 1024, s.evt.ipend.getLsbD i = true ∧ routeOf s i / 4 % 2 = 1 ∧ routeOf s i % 4 = l) ∨
     (s.jrn.pkts ≠ [] ∧ fld s rJrnNotice 3 0 / 4 % 2 = 1 ∧ fld s rJrnNotice 3 0 % 4 = l))))

/-- Retained data is guarded (R206): with retained = 1 a cold training run fails at step 3 with KEEP_GUARD; the discard that a
cold start then requires is accepted only while the device is HELD, raises KEEP_GUARD, and is ignored at any other time. -/
def Obligations.RetainedDataIsGuarded : Prop := ∀ (s : State) (c : Fin 16),
  (trainAccepted s c = true → (chan s c).keep.retained = true →
    ∃ u, exec (.trainCold c) s = .next (ev u (chEv c 20)) ∧ (chan u c).keep.retained = true ∧ (chan u c).phy.train = .failed ∧
      (chan u c).phy.info.step = 3) ∧
  (trainAccepted s c = true → (chan s c).keep.retained = false →
    Answers (.trainCold c) s fun t => (chan t c).phy.run = some .cold ∧ (chan t c).phy.train = .training) ∧
  (devState s = 2 → exec (.discard c) s = .next (ev (modKeep s c fun k => { k with retained := false }) (chEv c 20))) ∧
  (devState s ≠ 2 → exec (.discard c) s = .next s)

/-- Promotion candidates (R337): with promote_en = 1 the check of an update to a REMOTE panel queues the panel whose heat has
reached promote_heat, unless it is queued already or the queue of 64 is full; nothing else changes. -/
def Obligations.PromotionCandidates : Prop := ∀ (s : State) (p : Nat),
  let q := s.tier.promoQ
  let hot : Prop := rbit s rTirCtl 31 = true ∧ peState (pmapGet s p) = 2 ∧ fld s rTirThresh 31 16 ≤ heatOf s p
  (hot → p ∉ q → q.length < 64 → promoCheck s p = modTier s fun t => { t with promoQ := q ++ [p] }) ∧
  ((¬ hot ∨ p ∈ q ∨ 64 ≤ q.length) → promoCheck s p = s) ∧
  (q.length ≤ 64 → (promoCheck s p).tier.promoQ.length ≤ 64)
end

