-- ==== Sys2Proof/Laws/Maps.lean ====
section
/-!
SUPPORT. Sparse maps: reading after a write, and the canonical form that a write keeps.
-/
namespace Sys2Proof.Machine
set_option linter.all false
set_option Elab.async false
open Sys2Proof

variable {α : Type} [DecidableEq α]

/-- Every key of a map in canonical form lies above its bound. -/
theorem smGet_below (d : α) {m : SMap α} {x j : Nat} (h : smWfFrom d (some x) m = true) (hj : j ≤ x) : smGet d m j = d := by
  induction m generalizing x with
  | nil => rfl
  | cons e m ih =>
    obtain ⟨k, w⟩ := e
    simp only [smWfFrom, Bool.and_eq_true, decide_eq_true_eq] at h
    have hne : j ≠ k := by omega
    simp only [smGet, hne, if_false]
    exact ih h.2 (by omega)

/-- A bound may be lowered. -/
theorem smWfFrom_mono (d : α) {m : SMap α} {x y : Nat} (h : smWfFrom d (some x) m = true) (hy : y ≤ x) :
    smWfFrom d (some y) m = true := by
  cases m with
  | nil => rfl
  | cons e m =>
    obtain ⟨k, w⟩ := e
    simp only [smWfFrom, Bool.and_eq_true, decide_eq_true_eq] at h ⊢
    exact ⟨⟨by omega, h.1.2⟩, h.2⟩

/-- A write above the bound keeps the canonical form over the bound. -/
theorem smWfFrom_smSet (d : α) {m : SMap α} {b : Option Nat} (i : Nat) (v : α) (h : smWfFrom d b m = true)
    (hb : ∀ x, b = some x → x < i) : smWfFrom d b (smSet d m i v) = true := by
  induction m generalizing b with
  | nil =>
    by_cases hv : v = d
    · simp [smSet, hv, smWfFrom]
    · cases b with
      | none => simp [smSet, hv, smWfFrom]
      | some x => simp [smSet, hv, smWfFrom, hb x rfl]
  | cons e m ih =>
    obtain ⟨k, w⟩ := e
    have h' := h
    simp only [smWfFrom, Bool.and_eq_true, decide_eq_true_eq] at h'
    obtain ⟨⟨h1, h2⟩, h3⟩ := h'
    simp only [smSet]
    split
    · rename_i hik
      split
      · exact h
      · rename_i hv
        simp only [smWfFrom, Bool.and_eq_true, decide_eq_true_eq]
        refine ⟨⟨?_, hv⟩, ⟨hik, h2⟩, h3⟩
        cases b with
        | none => rfl
        | some x => simpa using hb x rfl
    · split
      · rename_i hik
        split
        · cases b with
          | none => cases m with
            | nil => rfl
            | cons e m =>
              simp only [smWfFrom, Bool.and_eq_true, decide_eq_true_eq] at h3 ⊢
              exact ⟨⟨trivial, h3.1.2⟩, h3.2⟩
          | some x => exact smWfFrom_mono d h3 (by have := hb x rfl; omega)
        · rename_i hv
          simp only [smWfFrom, Bool.and_eq_true, decide_eq_true_eq]
          exact ⟨⟨h1, hv⟩, h3⟩
      · simp only [smWfFrom, Bool.and_eq_true, decide_eq_true_eq]
        exact ⟨⟨h1, h2⟩, ih h3 (fun x hx => by cases hx; omega)⟩

/-- A write keeps the canonical form. -/
theorem smWf_smSet (d : α) {m : SMap α} (i : Nat) (v : α) (h : smWf d m = true) : smWf d (smSet d m i v) = true :=
  smWfFrom_smSet d i v h (fun _ hx => by cases hx)

/-- What is read after a write, over a map in canonical form. -/
theorem smGet_smSet_from (d : α) {m : SMap α} {b : Option Nat} (i j : Nat) (v : α) (h : smWfFrom d b m = true) :
    smGet d (smSet d m i v) j = if j = i then v else smGet d m j := by
  induction m generalizing b with
  | nil =>
    by_cases hv : v = d <;> by_cases hj : j = i <;> simp [smSet, smGet, hv, hj]
  | cons e m ih =>
    obtain ⟨k, w⟩ := e
    simp only [smWfFrom, Bool.and_eq_true, decide_eq_true_eq] at h
    obtain ⟨⟨_, h2⟩, h3⟩ := h
    simp only [smSet]
    split
    · rename_i hik
      split
      · rename_i hv
        by_cases hj : j = i
        · subst hj
          have hne : j ≠ k := by omega
          simp only [if_true, smGet, hne, if_false, hv]
          exact smGet_below d h3 (by omega)
        · simp [hj]
      · by_cases hj : j = i <;> simp [smGet, hj]
    · split
      · rename_i hik
        subst hik
        split
        · rename_i hv
          by_cases hj : j = i
          · subst hj
            simp [smGet_below d h3 (Nat.le_refl _), hv]
          · simp [smGet, hj]
        · by_cases hj : j = i <;> simp [smGet, hj]
      · rename_i hki hne
        by_cases hjk : j = k
        · subst hjk
          have hji : j ≠ i := fun e => hne e.symm
          simp [smGet, hji]
        · simp only [smGet, hjk, if_false]
          exact ih h3

/-- What is read after a write. -/
theorem smGet_smSet (d : α) {m : SMap α} (i j : Nat) (v : α) (h : smWf d m = true) :
    smGet d (smSet d m i v) j = if j = i then v else smGet d m j :=
  smGet_smSet_from d i j v h

/-- A value that is listed is read back, whatever the map's form. -/
theorem smGet_smSet_self (d : α) (m : SMap α) (i : Nat) {v : α} (hv : v ≠ d) : smGet d (smSet d m i v) i = v := by
  induction m with
  | nil => simp [smSet, smGet, hv]
  | cons e m ih =>
    obtain ⟨k, w⟩ := e
    unfold smSet
    split
    · simp [smGet]
    · split
      · simp_all [smGet]
      · simp_all [smGet]

/-- Leaving entries out keeps the canonical form. -/
theorem smWfFrom_filter (d : α) {m : SMap α} {b : Option Nat} (p : Nat × α → Bool) (h : smWfFrom d b m = true) :
    smWfFrom d b (m.filter p) = true := by
  induction m generalizing b with
  | nil => rfl
  | cons e m ih =>
    obtain ⟨k, w⟩ := e
    have h' := h
    simp only [smWfFrom, Bool.and_eq_true, decide_eq_true_eq] at h'
    obtain ⟨⟨h1, h2⟩, h3⟩ := h'
    rw [List.filter_cons]
    split
    · simp only [smWfFrom, Bool.and_eq_true, decide_eq_true_eq]
      exact ⟨⟨h1, h2⟩, ih h3⟩
    · refine ih ?_
      cases b with
      | none => cases m with
        | nil => rfl
        | cons e m =>
          simp only [smWfFrom, Bool.and_eq_true, decide_eq_true_eq] at h3 ⊢
          exact ⟨⟨trivial, h3.1.2⟩, h3.2⟩
      | some x => exact smWfFrom_mono d h3 (by simpa using Nat.le_of_lt (by simpa using h1))

/-- Leaving entries out keeps the canonical form. -/
theorem smWf_filter (d : α) {m : SMap α} (p : Nat × α → Bool) (h : smWf d m = true) : smWf d (m.filter p) = true :=
  smWfFrom_filter d p h

/-- Steps that keep the canonical form keep it one after another. -/
theorem smWf_foldl {β : Type} (d : α) (f : SMap α → β → SMap α) (hf : ∀ m x, smWf d m = true → smWf d (f m x) = true)
    (l : List β) {m : SMap α} (h : smWf d m = true) : smWf d (l.foldl f m) = true := by
  induction l generalizing m with
  | nil => exact h
  | cons x l ih => exact ih (hf m x h)

/-- A change of the values, and the entries that then hold the default left out, keep the canonical form. -/
theorem smWfFrom_map_filter (d : α) (f : Nat × α → α) {m : SMap α} {b : Option Nat} (h : smWfFrom d b m = true) :
    smWfFrom d b ((m.map fun e => (e.1, f e)).filter fun e => e.2 ≠ d) = true := by
  induction m generalizing b with
  | nil => rfl
  | cons e m ih =>
    obtain ⟨k, w⟩ := e
    simp only [smWfFrom, Bool.and_eq_true, decide_eq_true_eq] at h
    obtain ⟨⟨h1, _⟩, h3⟩ := h
    have key : ∀ {b' : Option Nat}, (∀ x, b' = some x → x < k) → smWfFrom d b' ((m.map fun e => (e.1, f e)).filter fun e => e.2 ≠ d) = true := by
      intro b' hb
      cases b' with
      | none =>
        have := ih h3
        cases hm : (m.map fun e => (e.1, f e)).filter fun e => e.2 ≠ d with
        | nil => rfl
        | cons e l =>
          rw [hm] at this
          simp only [smWfFrom, Bool.and_eq_true, decide_eq_true_eq] at this ⊢
          exact ⟨⟨trivial, this.1.2⟩, this.2⟩
      | some x => exact smWfFrom_mono d (ih h3) (Nat.le_of_lt (hb x rfl))
    rw [List.map_cons, List.filter_cons]
    split
    · rename_i hd
      simp only [smWfFrom, Bool.and_eq_true, decide_eq_true_eq]
      exact ⟨⟨h1, by simpa using hd⟩, ih h3⟩
    · refine key fun x hx => ?_
      subst hx
      simpa using h1

end Sys2Proof.Machine
end

