-- ==== Sys2Proof/Laws/Kept.lean ====
section
/-!
SUPPORT. What every operation of the block keeps: the queue of commands, the canonical form of the stored maps, the count of
free values, which only grows, and every part of the state that the operation does not work on. The lemmas of the named
operations follow in one file per file of Machine/; each names the parts its operation may change.
-/
namespace Sys2Proof.Machine
set_option linter.all false
set_option Elab.async false
open Sys2Proof

/-- Every part of a list may change. -/
def Allow (al : Part → Bool) (l : List Part) : Prop := ∀ k ∈ l, al k = true

theorem Allow.mono {al : Part → Bool} {l m : List Part} (h : Allow al l) (e : m.all l.contains = true) : Allow al m := fun k hk =>
  h k (List.contains_iff_mem.1 (List.all_eq_true.1 e k hk))

/-- From `s0` to `s` the queue is unchanged, canonical maps stay canonical, the count of free values has not fallen, and
every part that `al` does not let change is as it was. -/
structure Kept (al : Part → Bool) (s0 s : State) : Prop where
  pending : s.pending = s0.pending
  canon   : s0.Canonical → s.Canonical
  fresh   : s0.fresh ≤ s.fresh
  same    : ∀ k, al k = false → Part.Same s0 s k

/-- Every state an option holds is kept. -/
structure KeptOpt (al : Part → Bool) (s0 : State) (x : Option State) : Prop where
  all : ∀ t, x = some t → Kept al s0 t

variable {al : Part → Bool}

theorem Part.Same.refl (s : State) (k : Part) : Part.Same s s k := by
  cases k <;> first | rfl | exact ⟨rfl, rfl, rfl⟩

theorem Part.Same.trans {s t u : State} {k : Part} (h : Part.Same s t k) (g : Part.Same t u k) : Part.Same s u k := by
  cases k <;> first | exact Eq.trans g h | exact ⟨g.1.trans h.1, g.2.1.trans h.2.1, g.2.2.trans h.2.2⟩

theorem Kept.refl (s : State) : Kept al s s := ⟨rfl, id, Nat.le_refl _, fun k _ => Part.Same.refl s k⟩

theorem Kept.trans {s0 s t : State} (h : Kept al s0 s) (k : Kept al s t) : Kept al s0 t :=
  ⟨k.pending.trans h.pending, fun c => k.canon (h.canon c), Nat.le_trans h.fresh k.fresh, fun p hp =>
    (h.same p hp).trans (k.same p hp)⟩

/-- A change of one part, of which the canonical form is kept. -/
theorem Kept.put {s0 s t : State} (p : Part) (hw : Allow al [p]) (h : Kept al s0 s) (hp : t.pending = s.pending)
    (hc : s.Canonical → t.Canonical) (hf : s.fresh ≤ t.fresh) (hs : ∀ k, k ≠ p → Part.Same s t k) : Kept al s0 t := by
  refine ⟨hp.trans h.pending, fun c => hc (h.canon c), Nat.le_trans h.fresh hf, fun k hk => ?_⟩
  have : k ≠ p := by
    rintro rfl
    rw [hw k (List.mem_singleton.2 rfl)] at hk
    cases hk
  exact (h.same k hk).trans (hs k this)

/-- Everything but one part may change: no list without that part touches it. -/
theorem Allow.but {p : Part} {l : List Part} (e : l.contains p = false) : Allow (fun k => decide (k ≠ p)) l := by
  intro k hk
  rw [decide_eq_true_eq]
  rintro rfl
  rw [List.contains_iff_mem.2 hk] at e
  cases e

theorem Kept.but {p : Part} {s0 s : State} (h : Kept (fun k => decide (k ≠ p)) s0 s) : Part.Same s0 s p :=
  h.same p (decide_eq_false fun hn => hn rfl)

theorem KeptOpt.none (s0 : State) : KeptOpt al s0 none := ⟨fun _ h => by cases h⟩
theorem KeptOpt.some {s0 t : State} (h : Kept al s0 t) : KeptOpt al s0 (some t) :=
  ⟨fun _ e => Option.some.inj e ▸ h⟩
theorem KeptOpt.get {s0 t : State} {x : Option State} (e : x = Option.some t) (h : KeptOpt al s0 x) : Kept al s0 t := h.all t e
theorem KeptOpt.getD {s0 s : State} {x : Option State} (h : KeptOpt al s0 x) (k : Kept al s0 s) : Kept al s0 (x.getD s) := by
  cases x with
  | none => exact k
  | some t => exact h.all t rfl
theorem KeptOpt.map {α : Type} {s0 : State} {x : Option α} {f : α → State} (h : ∀ a, Kept al s0 (f a)) :
    KeptOpt al s0 (x.map f) := by
  cases x with
  | none => exact KeptOpt.none s0
  | some a => exact KeptOpt.some (h a)
theorem KeptOpt.findSome {α : Type} {s0 : State} {xs : List α} {f : α → Option State} (h : ∀ a, KeptOpt al s0 (f a)) :
    KeptOpt al s0 (xs.findSome? f) := by
  induction xs with
  | nil => exact KeptOpt.none s0
  | cons x xs ih =>
    rw [List.findSome?_cons]
    split
    · rename_i e
      exact ⟨fun t ht => (h x).all t (e.trans ht)⟩
    · exact ih
theorem KeptOpt.then {s0 : State} {x : Option State} {f : State → State} (h : KeptOpt al s0 x) (k : ∀ s, Kept al s0 s → Kept al s0 (f s)) :
    KeptOpt al s0 (x.map f) := by
  cases x with
  | none => exact KeptOpt.none s0
  | some a => exact KeptOpt.some (k a (h.all a rfl))

/-! Updates of one part. -/

variable {s0 s : State}

theorem keptBeat {x : BeatSt} (hw : Allow al [.beat]) :
    Kept al s0
    { pending := s.pending, beat := x, csr := s.csr, evt := s.evt, jrn := s.jrn, ports := s.ports, ntc := s.ntc,
      adm := s.adm, tt := s.tt, results := s.results, map := s.map, vnr := s.vnr, chans := s.chans,
      sbus := s.sbus, devEnd := s.devEnd, cure := s.cure, tier := s.tier, conns := s.conns, ten := s.ten, arm := s.arm,
      fw := s.fw, pwr := s.pwr, dram := s.dram, dramGen := s.dramGen, dramZero := s.dramZero, fresh := s.fresh } ↔ Kept al s0 s :=
  ⟨fun h => h.put (t := s) .beat hw rfl id (Nat.le_refl _) (by intro k hk; cases k <;> first | exact absurd rfl hk | exact rfl | exact ⟨rfl, rfl, rfl⟩),
   fun h => h.put .beat hw rfl id (Nat.le_refl _) (by intro k hk; cases k <;> first | exact absurd rfl hk | exact rfl | exact ⟨rfl, rfl, rfl⟩)⟩

theorem keptEvt {x : EvtSt} (hw : Allow al [.evt]) :
    Kept al s0
    { pending := s.pending, beat := s.beat, csr := s.csr, evt := x, jrn := s.jrn, ports := s.ports,
      ntc := s.ntc, adm := s.adm, tt := s.tt, results := s.results, map := s.map, vnr := s.vnr,
      chans := s.chans, sbus := s.sbus, devEnd := s.devEnd, cure := s.cure, tier := s.tier, conns := s.conns, ten := s.ten,
      arm := s.arm, fw := s.fw, pwr := s.pwr, dram := s.dram, dramGen := s.dramGen, dramZero := s.dramZero,
      fresh := s.fresh } ↔ Kept al s0 s :=
  ⟨fun h => h.put (t := s) .evt hw rfl id (Nat.le_refl _) (by intro k hk; cases k <;> first | exact absurd rfl hk | exact rfl | exact ⟨rfl, rfl, rfl⟩),
   fun h => h.put .evt hw rfl id (Nat.le_refl _) (by intro k hk; cases k <;> first | exact absurd rfl hk | exact rfl | exact ⟨rfl, rfl, rfl⟩)⟩

theorem keptJrn {x : JrnSt} (hw : Allow al [.jrn]) :
    Kept al s0
    { pending := s.pending, beat := s.beat, csr := s.csr, evt := s.evt, jrn := x, ports := s.ports,
      ntc := s.ntc, adm := s.adm, tt := s.tt, results := s.results, map := s.map, vnr := s.vnr,
      chans := s.chans, sbus := s.sbus, devEnd := s.devEnd, cure := s.cure, tier := s.tier, conns := s.conns, ten := s.ten,
      arm := s.arm, fw := s.fw, pwr := s.pwr, dram := s.dram, dramGen := s.dramGen, dramZero := s.dramZero,
      fresh := s.fresh } ↔ Kept al s0 s :=
  ⟨fun h => h.put (t := s) .jrn hw rfl id (Nat.le_refl _) (by intro k hk; cases k <;> first | exact absurd rfl hk | exact rfl | exact ⟨rfl, rfl, rfl⟩),
   fun h => h.put .jrn hw rfl id (Nat.le_refl _) (by intro k hk; cases k <;> first | exact absurd rfl hk | exact rfl | exact ⟨rfl, rfl, rfl⟩)⟩

theorem keptPorts {x : Vector Port 8} (hw : Allow al [.ports]) :
    Kept al s0
    { pending := s.pending, beat := s.beat, csr := s.csr, evt := s.evt, jrn := s.jrn, ports := x, ntc := s.ntc,
      adm := s.adm, tt := s.tt, results := s.results, map := s.map, vnr := s.vnr, chans := s.chans,
      sbus := s.sbus, devEnd := s.devEnd, cure := s.cure, tier := s.tier, conns := s.conns, ten := s.ten, arm := s.arm,
      fw := s.fw, pwr := s.pwr, dram := s.dram, dramGen := s.dramGen, dramZero := s.dramZero, fresh := s.fresh } ↔ Kept al s0 s :=
  ⟨fun h => h.put (t := s) .ports hw rfl id (Nat.le_refl _) (by intro k hk; cases k <;> first | exact absurd rfl hk | exact rfl | exact ⟨rfl, rfl, rfl⟩),
   fun h => h.put .ports hw rfl id (Nat.le_refl _) (by intro k hk; cases k <;> first | exact absurd rfl hk | exact rfl | exact ⟨rfl, rfl, rfl⟩)⟩

theorem keptNtc {x : List Notice} (hw : Allow al [.ntc]) :
    Kept al s0
    { pending := s.pending, beat := s.beat, csr := s.csr, evt := s.evt, jrn := s.jrn, ports := s.ports,
      ntc := x, adm := s.adm, tt := s.tt, results := s.results, map := s.map, vnr := s.vnr, chans := s.chans,
      sbus := s.sbus, devEnd := s.devEnd, cure := s.cure, tier := s.tier, conns := s.conns, ten := s.ten, arm := s.arm,
      fw := s.fw, pwr := s.pwr, dram := s.dram, dramGen := s.dramGen, dramZero := s.dramZero, fresh := s.fresh } ↔ Kept al s0 s :=
  ⟨fun h => h.put (t := s) .ntc hw rfl id (Nat.le_refl _) (by intro k hk; cases k <;> first | exact absurd rfl hk | exact rfl | exact ⟨rfl, rfl, rfl⟩),
   fun h => h.put .ntc hw rfl id (Nat.le_refl _) (by intro k hk; cases k <;> first | exact absurd rfl hk | exact rfl | exact ⟨rfl, rfl, rfl⟩)⟩

theorem keptAdm {x : AdmSt} (hw : Allow al [.adm]) :
    Kept al s0
    { pending := s.pending, beat := s.beat, csr := s.csr, evt := s.evt, jrn := s.jrn, ports := s.ports,
      ntc := s.ntc, adm := x, tt := s.tt, results := s.results, map := s.map, vnr := s.vnr, chans := s.chans,
      sbus := s.sbus, devEnd := s.devEnd, cure := s.cure, tier := s.tier, conns := s.conns, ten := s.ten, arm := s.arm,
      fw := s.fw, pwr := s.pwr, dram := s.dram, dramGen := s.dramGen, dramZero := s.dramZero, fresh := s.fresh } ↔ Kept al s0 s :=
  ⟨fun h => h.put (t := s) .adm hw rfl id (Nat.le_refl _) (by intro k hk; cases k <;> first | exact absurd rfl hk | exact rfl | exact ⟨rfl, rfl, rfl⟩),
   fun h => h.put .adm hw rfl id (Nat.le_refl _) (by intro k hk; cases k <;> first | exact absurd rfl hk | exact rfl | exact ⟨rfl, rfl, rfl⟩)⟩

theorem keptTt {x : List TtEntry} (hw : Allow al [.tt]) :
    Kept al s0
    { pending := s.pending, beat := s.beat, csr := s.csr, evt := s.evt, jrn := s.jrn, ports := s.ports,
      ntc := s.ntc, adm := s.adm, tt := x, results := s.results, map := s.map, vnr := s.vnr, chans := s.chans,
      sbus := s.sbus, devEnd := s.devEnd, cure := s.cure, tier := s.tier, conns := s.conns, ten := s.ten, arm := s.arm,
      fw := s.fw, pwr := s.pwr, dram := s.dram, dramGen := s.dramGen, dramZero := s.dramZero, fresh := s.fresh } ↔ Kept al s0 s :=
  ⟨fun h => h.put (t := s) .tt hw rfl id (Nat.le_refl _) (by intro k hk; cases k <;> first | exact absurd rfl hk | exact rfl | exact ⟨rfl, rfl, rfl⟩),
   fun h => h.put .tt hw rfl id (Nat.le_refl _) (by intro k hk; cases k <;> first | exact absurd rfl hk | exact rfl | exact ⟨rfl, rfl, rfl⟩)⟩

theorem keptResults {x : List EngRes} (hw : Allow al [.results]) :
    Kept al s0
    { pending := s.pending, beat := s.beat, csr := s.csr, evt := s.evt, jrn := s.jrn, ports := s.ports,
      ntc := s.ntc, adm := s.adm, tt := s.tt, results := x, map := s.map, vnr := s.vnr, chans := s.chans,
      sbus := s.sbus, devEnd := s.devEnd, cure := s.cure, tier := s.tier, conns := s.conns, ten := s.ten, arm := s.arm,
      fw := s.fw, pwr := s.pwr, dram := s.dram, dramGen := s.dramGen, dramZero := s.dramZero, fresh := s.fresh } ↔ Kept al s0 s :=
  ⟨fun h => h.put (t := s) .results hw rfl id (Nat.le_refl _) (by intro k hk; cases k <;> first | exact absurd rfl hk | exact rfl | exact ⟨rfl, rfl, rfl⟩),
   fun h => h.put .results hw rfl id (Nat.le_refl _) (by intro k hk; cases k <;> first | exact absurd rfl hk | exact rfl | exact ⟨rfl, rfl, rfl⟩)⟩

theorem keptMap {x : MapSt} (hw : Allow al [.map]) :
    Kept al s0
    { pending := s.pending, beat := s.beat, csr := s.csr, evt := s.evt, jrn := s.jrn, ports := s.ports,
      ntc := s.ntc, adm := s.adm, tt := s.tt, results := s.results, map := x, vnr := s.vnr, chans := s.chans,
      sbus := s.sbus, devEnd := s.devEnd, cure := s.cure, tier := s.tier, conns := s.conns, ten := s.ten, arm := s.arm,
      fw := s.fw, pwr := s.pwr, dram := s.dram, dramGen := s.dramGen, dramZero := s.dramZero, fresh := s.fresh } ↔ Kept al s0 s :=
  ⟨fun h => h.put (t := s) .map hw rfl id (Nat.le_refl _) (by intro k hk; cases k <;> first | exact absurd rfl hk | exact rfl | exact ⟨rfl, rfl, rfl⟩),
   fun h => h.put .map hw rfl id (Nat.le_refl _) (by intro k hk; cases k <;> first | exact absurd rfl hk | exact rfl | exact ⟨rfl, rfl, rfl⟩)⟩

theorem keptVnr {x : VnrSt} (hw : Allow al [.vnr]) :
    Kept al s0
    { pending := s.pending, beat := s.beat, csr := s.csr, evt := s.evt, jrn := s.jrn, ports := s.ports,
      ntc := s.ntc, adm := s.adm, tt := s.tt, results := s.results, map := s.map, vnr := x, chans := s.chans,
      sbus := s.sbus, devEnd := s.devEnd, cure := s.cure, tier := s.tier, conns := s.conns, ten := s.ten, arm := s.arm,
      fw := s.fw, pwr := s.pwr, dram := s.dram, dramGen := s.dramGen, dramZero := s.dramZero, fresh := s.fresh } ↔ Kept al s0 s :=
  ⟨fun h => h.put (t := s) .vnr hw rfl id (Nat.le_refl _) (by intro k hk; cases k <;> first | exact absurd rfl hk | exact rfl | exact ⟨rfl, rfl, rfl⟩),
   fun h => h.put .vnr hw rfl id (Nat.le_refl _) (by intro k hk; cases k <;> first | exact absurd rfl hk | exact rfl | exact ⟨rfl, rfl, rfl⟩)⟩

theorem keptChans {x : Vector ChanSt 16} (hw : Allow al [.chans]) :
    Kept al s0
    { pending := s.pending, beat := s.beat, csr := s.csr, evt := s.evt, jrn := s.jrn, ports := s.ports,
      ntc := s.ntc, adm := s.adm, tt := s.tt, results := s.results, map := s.map, vnr := s.vnr, chans := x,
      sbus := s.sbus, devEnd := s.devEnd, cure := s.cure, tier := s.tier, conns := s.conns, ten := s.ten, arm := s.arm,
      fw := s.fw, pwr := s.pwr, dram := s.dram, dramGen := s.dramGen, dramZero := s.dramZero, fresh := s.fresh } ↔ Kept al s0 s :=
  ⟨fun h => h.put (t := s) .chans hw rfl id (Nat.le_refl _) (by intro k hk; cases k <;> first | exact absurd rfl hk | exact rfl | exact ⟨rfl, rfl, rfl⟩),
   fun h => h.put .chans hw rfl id (Nat.le_refl _) (by intro k hk; cases k <;> first | exact absurd rfl hk | exact rfl | exact ⟨rfl, rfl, rfl⟩)⟩

theorem keptSbus {x : Vector SbBus 2} (hw : Allow al [.sbus]) :
    Kept al s0
    { pending := s.pending, beat := s.beat, csr := s.csr, evt := s.evt, jrn := s.jrn, ports := s.ports,
      ntc := s.ntc, adm := s.adm, tt := s.tt, results := s.results, map := s.map, vnr := s.vnr,
      chans := s.chans, sbus := x, devEnd := s.devEnd, cure := s.cure, tier := s.tier, conns := s.conns, ten := s.ten,
      arm := s.arm, fw := s.fw, pwr := s.pwr, dram := s.dram, dramGen := s.dramGen, dramZero := s.dramZero,
      fresh := s.fresh } ↔ Kept al s0 s :=
  ⟨fun h => h.put (t := s) .sbus hw rfl id (Nat.le_refl _) (by intro k hk; cases k <;> first | exact absurd rfl hk | exact rfl | exact ⟨rfl, rfl, rfl⟩),
   fun h => h.put .sbus hw rfl id (Nat.le_refl _) (by intro k hk; cases k <;> first | exact absurd rfl hk | exact rfl | exact ⟨rfl, rfl, rfl⟩)⟩

theorem keptDevEnd {x : Nat} (hw : Allow al [.devEnd]) :
    Kept al s0
    { pending := s.pending, beat := s.beat, csr := s.csr, evt := s.evt, jrn := s.jrn, ports := s.ports,
      ntc := s.ntc, adm := s.adm, tt := s.tt, results := s.results, map := s.map, vnr := s.vnr,
      chans := s.chans, sbus := s.sbus, devEnd := x, cure := s.cure, tier := s.tier, conns := s.conns, ten := s.ten,
      arm := s.arm, fw := s.fw, pwr := s.pwr, dram := s.dram, dramGen := s.dramGen, dramZero := s.dramZero,
      fresh := s.fresh } ↔ Kept al s0 s :=
  ⟨fun h => h.put (t := s) .devEnd hw rfl id (Nat.le_refl _) (by intro k hk; cases k <;> first | exact absurd rfl hk | exact rfl | exact ⟨rfl, rfl, rfl⟩),
   fun h => h.put .devEnd hw rfl id (Nat.le_refl _) (by intro k hk; cases k <;> first | exact absurd rfl hk | exact rfl | exact ⟨rfl, rfl, rfl⟩)⟩

theorem keptCure {x : CureSt} (hw : Allow al [.cure]) :
    Kept al s0
    { pending := s.pending, beat := s.beat, csr := s.csr, evt := s.evt, jrn := s.jrn, ports := s.ports,
      ntc := s.ntc, adm := s.adm, tt := s.tt, results := s.results, map := s.map, vnr := s.vnr,
      chans := s.chans, sbus := s.sbus, devEnd := s.devEnd, cure := x, tier := s.tier, conns := s.conns, ten := s.ten,
      arm := s.arm, fw := s.fw, pwr := s.pwr, dram := s.dram, dramGen := s.dramGen, dramZero := s.dramZero,
      fresh := s.fresh } ↔ Kept al s0 s :=
  ⟨fun h => h.put (t := s) .cure hw rfl id (Nat.le_refl _) (by intro k hk; cases k <;> first | exact absurd rfl hk | exact rfl | exact ⟨rfl, rfl, rfl⟩),
   fun h => h.put .cure hw rfl id (Nat.le_refl _) (by intro k hk; cases k <;> first | exact absurd rfl hk | exact rfl | exact ⟨rfl, rfl, rfl⟩)⟩

theorem keptTier {x : TierSt} (hw : Allow al [.tier]) :
    Kept al s0
    { pending := s.pending, beat := s.beat, csr := s.csr, evt := s.evt, jrn := s.jrn, ports := s.ports,
      ntc := s.ntc, adm := s.adm, tt := s.tt, results := s.results, map := s.map, vnr := s.vnr,
      chans := s.chans, sbus := s.sbus, devEnd := s.devEnd, cure := s.cure, tier := x, conns := s.conns, ten := s.ten,
      arm := s.arm, fw := s.fw, pwr := s.pwr, dram := s.dram, dramGen := s.dramGen, dramZero := s.dramZero,
      fresh := s.fresh } ↔ Kept al s0 s :=
  ⟨fun h => h.put (t := s) .tier hw rfl id (Nat.le_refl _) (by intro k hk; cases k <;> first | exact absurd rfl hk | exact rfl | exact ⟨rfl, rfl, rfl⟩),
   fun h => h.put .tier hw rfl id (Nat.le_refl _) (by intro k hk; cases k <;> first | exact absurd rfl hk | exact rfl | exact ⟨rfl, rfl, rfl⟩)⟩

theorem keptTen {x : TenSt} (hw : Allow al [.ten]) :
    Kept al s0
    { pending := s.pending, beat := s.beat, csr := s.csr, evt := s.evt, jrn := s.jrn, ports := s.ports,
      ntc := s.ntc, adm := s.adm, tt := s.tt, results := s.results, map := s.map, vnr := s.vnr,
      chans := s.chans, sbus := s.sbus, devEnd := s.devEnd, cure := s.cure, tier := s.tier, conns := s.conns, ten := x,
      arm := s.arm, fw := s.fw, pwr := s.pwr, dram := s.dram, dramGen := s.dramGen, dramZero := s.dramZero,
      fresh := s.fresh } ↔ Kept al s0 s :=
  ⟨fun h => h.put (t := s) .ten hw rfl id (Nat.le_refl _) (by intro k hk; cases k <;> first | exact absurd rfl hk | exact rfl | exact ⟨rfl, rfl, rfl⟩),
   fun h => h.put .ten hw rfl id (Nat.le_refl _) (by intro k hk; cases k <;> first | exact absurd rfl hk | exact rfl | exact ⟨rfl, rfl, rfl⟩)⟩

theorem keptArm {x : ArmSt} (hw : Allow al [.arm]) :
    Kept al s0
    { pending := s.pending, beat := s.beat, csr := s.csr, evt := s.evt, jrn := s.jrn, ports := s.ports,
      ntc := s.ntc, adm := s.adm, tt := s.tt, results := s.results, map := s.map, vnr := s.vnr,
      chans := s.chans, sbus := s.sbus, devEnd := s.devEnd, cure := s.cure, tier := s.tier, conns := s.conns, ten := s.ten,
      arm := x, fw := s.fw, pwr := s.pwr, dram := s.dram, dramGen := s.dramGen, dramZero := s.dramZero,
      fresh := s.fresh } ↔ Kept al s0 s :=
  ⟨fun h => h.put (t := s) .arm hw rfl id (Nat.le_refl _) (by intro k hk; cases k <;> first | exact absurd rfl hk | exact rfl | exact ⟨rfl, rfl, rfl⟩),
   fun h => h.put .arm hw rfl id (Nat.le_refl _) (by intro k hk; cases k <;> first | exact absurd rfl hk | exact rfl | exact ⟨rfl, rfl, rfl⟩)⟩

theorem keptFw {x : FwSt} (hw : Allow al [.fw]) :
    Kept al s0
    { pending := s.pending, beat := s.beat, csr := s.csr, evt := s.evt, jrn := s.jrn, ports := s.ports,
      ntc := s.ntc, adm := s.adm, tt := s.tt, results := s.results, map := s.map, vnr := s.vnr,
      chans := s.chans, sbus := s.sbus, devEnd := s.devEnd, cure := s.cure, tier := s.tier, conns := s.conns, ten := s.ten,
      arm := s.arm, fw := x, pwr := s.pwr, dram := s.dram, dramGen := s.dramGen, dramZero := s.dramZero,
      fresh := s.fresh } ↔ Kept al s0 s :=
  ⟨fun h => h.put (t := s) .fw hw rfl id (Nat.le_refl _) (by intro k hk; cases k <;> first | exact absurd rfl hk | exact rfl | exact ⟨rfl, rfl, rfl⟩),
   fun h => h.put .fw hw rfl id (Nat.le_refl _) (by intro k hk; cases k <;> first | exact absurd rfl hk | exact rfl | exact ⟨rfl, rfl, rfl⟩)⟩

theorem keptPwr {x : PwrSt} (hw : Allow al [.pwr]) :
    Kept al s0
    { pending := s.pending, beat := s.beat, csr := s.csr, evt := s.evt, jrn := s.jrn, ports := s.ports,
      ntc := s.ntc, adm := s.adm, tt := s.tt, results := s.results, map := s.map, vnr := s.vnr,
      chans := s.chans, sbus := s.sbus, devEnd := s.devEnd, cure := s.cure, tier := s.tier, conns := s.conns, ten := s.ten,
      arm := s.arm, fw := s.fw, pwr := x, dram := s.dram, dramGen := s.dramGen, dramZero := s.dramZero,
      fresh := s.fresh } ↔ Kept al s0 s :=
  ⟨fun h => h.put (t := s) .pwr hw rfl id (Nat.le_refl _) (by intro k hk; cases k <;> first | exact absurd rfl hk | exact rfl | exact ⟨rfl, rfl, rfl⟩),
   fun h => h.put .pwr hw rfl id (Nat.le_refl _) (by intro k hk; cases k <;> first | exact absurd rfl hk | exact rfl | exact ⟨rfl, rfl, rfl⟩)⟩

/-! Updates of two parts. -/

theorem keptVnrDevEnd {x : VnrSt} {y : Nat} (hw : Allow al [.vnr, .devEnd]) :
    Kept al s0
    { pending := s.pending, beat := s.beat, csr := s.csr, evt := s.evt, jrn := s.jrn, ports := s.ports, ntc :=
      s.ntc, adm := s.adm, tt := s.tt, results := s.results, map := s.map, vnr := x, chans := s.chans, sbus := s.sbus, devEnd := y,
      cure := s.cure, tier := s.tier, conns := s.conns, ten := s.ten, arm := s.arm, fw := s.fw, pwr := s.pwr, dram
      := s.dram, dramGen := s.dramGen, dramZero := s.dramZero, fresh := s.fresh } ↔ Kept al s0 s :=
  (keptVnr (s := { s with devEnd := y }) (hw.mono rfl)).trans (keptDevEnd (hw.mono rfl))

theorem keptAdmMap {x : AdmSt} {y : MapSt} (hw : Allow al [.adm, .map]) :
    Kept al s0
    { pending := s.pending, beat := s.beat, csr := s.csr, evt := s.evt, jrn := s.jrn, ports := s.ports, ntc :=
      s.ntc, adm := x, tt := s.tt, results := s.results, map := y, vnr := s.vnr, chans := s.chans, sbus := s.sbus, devEnd :=
      s.devEnd, cure := s.cure, tier := s.tier, conns := s.conns, ten := s.ten, arm := s.arm, fw := s.fw, pwr :=
      s.pwr, dram := s.dram, dramGen := s.dramGen, dramZero := s.dramZero, fresh := s.fresh } ↔ Kept al s0 s :=
  (keptAdm (s := { s with map := y }) (hw.mono rfl)).trans (keptMap (hw.mono rfl))

theorem keptAdmResults {x : AdmSt} {y : List EngRes} (hw : Allow al [.adm, .results]) :
    Kept al s0
    { pending := s.pending, beat := s.beat, csr := s.csr, evt := s.evt, jrn := s.jrn, ports := s.ports, ntc :=
      s.ntc, adm := x, tt := s.tt, results := y, map := s.map, vnr := s.vnr, chans := s.chans, sbus := s.sbus, devEnd :=
      s.devEnd, cure := s.cure, tier := s.tier, conns := s.conns, ten := s.ten, arm := s.arm, fw := s.fw, pwr :=
      s.pwr, dram := s.dram, dramGen := s.dramGen, dramZero := s.dramZero, fresh := s.fresh } ↔ Kept al s0 s :=
  (keptAdm (s := { s with results := y }) (hw.mono rfl)).trans (keptResults (hw.mono rfl))

/-- An update of the register fabric outside the values in force and the holding registers. -/
theorem keptCsr {shadow pendH : SMap (Option Word64)} {grpPend : BitVec 16} {sched : SMap (Option Word64)}
    {portLat armLat portBuf armBuf : Option (Nat × Word32)} {portRsp : List RegRsp} (hw : Allow al [.csr]) :
    Kept al s0 { s with csr := { val := s.csr.val, shadow := shadow, pendH := pendH, grpPend := grpPend, sched := sched,
                                 holdReg := s.csr.holdReg, portLat := portLat, armLat := armLat, portBuf := portBuf,
                                 armBuf := armBuf, portRsp := portRsp } } ↔ Kept al s0 s :=
  ⟨fun h => h.put (t := s) .csr hw rfl id (Nat.le_refl _) (by intro k hk; cases k <;> first | exact absurd rfl hk | exact rfl | exact ⟨rfl, rfl, rfl⟩),
   fun h => h.put .csr hw rfl id (Nat.le_refl _) (by intro k hk; cases k <;> first | exact absurd rfl hk | exact rfl | exact ⟨rfl, rfl, rfl⟩)⟩

/-! The named operations that write what is kept. -/

theorem setReg_kept (hw : Allow al [.csr]) (h : Kept al s0 s) (r : RegRef) (v : Word64) : Kept al s0 (setReg s r v) :=
  h.put .csr hw rfl (fun c => ⟨c.1, smWf_smSet 0 _ _ c.2.1, c.2.2⟩) (Nat.le_refl _)
    (by intro k hk; cases k <;> first | exact absurd rfl hk | exact rfl | exact ⟨rfl, rfl, rfl⟩)

theorem modConn_kept (hw : Allow al [.conns]) (h : Kept al s0 s) (c : Nat) (f : Conn → Conn) : Kept al s0 (modConn s c f) :=
  h.put .conns hw rfl (fun k => ⟨k.1, k.2.1, k.2.2.1, smWf_smSet Conn.none _ _ k.2.2.2⟩) (Nat.le_refl _)
    (by intro k hk; cases k <;> first | exact absurd rfl hk | exact rfl | exact ⟨rfl, rfl, rfl⟩)

theorem drawFree_kept (h : Kept al s0 s) (n : Nat) : Kept al s0 (drawFree n s).2 :=
  ⟨h.pending, h.canon, Nat.le_succ_of_le h.fresh, fun k hk => (h.same k hk).trans (by cases k <;> first | exact rfl | exact ⟨rfl, rfl, rfl⟩)⟩

/-- An update of the connections that keeps their canonical form. -/
theorem Kept.conns {m : SMap Conn} (hw : Allow al [.conns]) (h : Kept al s0 s)
    (hm : smWf Conn.none s.conns = true → smWf Conn.none m = true) : Kept al s0 { s with conns := m } :=
  h.put .conns hw rfl (fun k => ⟨k.1, k.2.1, k.2.2.1, hm k.2.2.2⟩) (Nat.le_refl _)
    (by intro k hk; cases k <;> first | exact absurd rfl hk | exact rfl | exact ⟨rfl, rfl, rfl⟩)

/-- An update of the register fabric that keeps the canonical form of the values in force and of the holding registers. -/
theorem Kept.csr {x : CsrSt} (hw : Allow al [.csr]) (h : Kept al s0 s) (hv : smWf 0 s.csr.val = true → smWf 0 x.val = true)
    (hr : smWf 0 s.csr.holdReg = true → smWf 0 x.holdReg = true) : Kept al s0 { s with csr := x } :=
  h.put .csr hw rfl (fun c => ⟨c.1, hv c.2.1, hr c.2.2.1, c.2.2.2⟩) (Nat.le_refl _)
    (by intro k hk; cases k <;> first | exact absurd rfl hk | exact rfl | exact ⟨rfl, rfl, rfl⟩)

/-- An update of the DRAM that keeps the canonical form of its bytes. -/
theorem Kept.setDram {m : List Host.Cell} {gen : SMap Nat} {zero : SMap (Option ZeroSpan)} (hw : Allow al [.dram])
    (h : Kept al s0 s) (hm : smWf 0 s.dram = true → smWf 0 m = true) :
    Kept al s0 { s with dram := m, dramGen := gen, dramZero := zero } :=
  h.put .dram hw rfl (fun c => ⟨hm c.1, c.2⟩) (Nat.le_refl _)
    (by intro k hk; cases k <;> first | exact absurd rfl hk | exact rfl | exact ⟨rfl, rfl, rfl⟩)

theorem setDramLine_kept (hw : Allow al [.dram]) (h : Kept al s0 s) (k : Coord) (r : RawLine) : Kept al s0 (setDramLine s k r) := by
  unfold setDramLine
  exact h.setDram hw fun c => smWf_foldl 0 _ (fun m x hm => smWf_smSet 0 _ _ hm) _ c

theorem loseDram_kept (hw : Allow al [.dram]) (h : Kept al s0 s) (c : Fin 16) : Kept al s0 (loseDram s c) := by
  have k : Kept al s0 { s with fresh := s.fresh + 1 } :=
    ⟨h.pending, h.canon, Nat.le_succ_of_le h.fresh, fun k hk => (h.same k hk).trans (by cases k <;> first | exact rfl | exact ⟨rfl, rfl, rfl⟩)⟩
  unfold loseDram
  exact k.setDram hw (smWf_filter 0 _)

theorem kept_fst {β : Type} {p : State × β} {t : State} {x : β} (e : p = (t, x)) (h : Kept al s0 p.1) : Kept al s0 t := by
  subst e; exact h

theorem kept_snd {β : Type} {p : β × State} {t : State} {x : β} (e : p = (x, t)) (h : Kept al s0 p.2) : Kept al s0 t := by
  subst e; exact h

theorem kept_ite {t u : State} {p : Prop} [Decidable p] (ht : Kept al s0 t) (hu : Kept al s0 u) : Kept al s0 (if p then t else u) := by
  split
  · exact ht
  · exact hu

/-! Iteration. -/

theorem forEach_kept {α : Type} (h : Kept al s0 s) (xs : List α) (f : State → α → State)
    (hf : ∀ s x, Kept al s0 s → Kept al s0 (f s x)) : Kept al s0 (forEach xs s f) := by
  unfold forEach
  induction xs generalizing s with
  | nil => exact h
  | cons x xs ih => exact ih (hf s x h)

theorem foldl_kept {α : Type} (h : Kept al s0 s) (xs : List α) (f : State → α → State)
    (hf : ∀ s x, Kept al s0 s → Kept al s0 (f s x)) : Kept al s0 (xs.foldl f s) := forEach_kept h xs f hf

theorem foldl_kept_fst {α β : Type} (xs : List α) (f : State × β → α → State × β)
    (hf : ∀ p x, Kept al s0 p.1 → Kept al s0 (f p x).1) (p : State × β) (h : Kept al s0 p.1) : Kept al s0 (xs.foldl f p).1 := by
  induction xs generalizing p with
  | nil => exact h
  | cons x xs ih => exact ih _ (hf p x h)

theorem foldl_kept_snd {α β : Type} (xs : List α) (f : β × State → α → β × State)
    (hf : ∀ p x, Kept al s0 p.2 → Kept al s0 (f p x).2) (p : β × State) (h : Kept al s0 p.2) : Kept al s0 (xs.foldl f p).2 := by
  induction xs generalizing p with
  | nil => exact h
  | cons x xs ih => exact ih _ (hf p x h)

theorem foldl_kept_of {α β : Type} (g : β → State) (xs : List α) (f : β → α → β)
    (hf : ∀ a x, Kept al s0 (g a) → Kept al s0 (g (f a x))) (a : β) (h : Kept al s0 (g a)) : Kept al s0 (g (xs.foldl f a)) := by
  induction xs generalizing a with
  | nil => exact h
  | cons x xs ih => exact ih _ (hf a x h)

theorem doIf_kept (c : Bool) (f : State → State) (h : Kept al s0 s) (hf : ∀ s, Kept al s0 s → Kept al s0 (f s)) : Kept al s0 (doIf c f s) := by
  unfold doIf
  split
  · exact hf s h
  · exact h

end Sys2Proof.Machine
end

