-- ==== Sys2Proof/Laws/KeptOps.lean ====
section
/-!
SUPPORT. What the operations of Machine/Ops.lean keep.
-/
namespace Sys2Proof.Machine
set_option linter.all false
set_option Elab.async false
open Sys2Proof

variable {al : Part → Bool} {s0 s : State}

theorem setFld_kept (hal : Allow al [.csr]) (h : Kept al s0 s) (r : RegRef) (hi lo x : Nat) : Kept al s0
    (setFld s r hi lo x) := by
  unfold setFld
  repeat' first | exact hal.mono rfl | with_reducible assumption | with_reducible apply setReg_kept (hal.mono rfl)

theorem cntAdd_kept (hal : Allow al [.csr]) (h : Kept al s0 s) (r : RegRef) (k : Nat) : Kept al s0 (cntAdd s r k) := by
  unfold cntAdd
  repeat' first | exact hal.mono rfl | with_reducible assumption | with_reducible apply setReg_kept (hal.mono rfl)

theorem cntInc_kept (hal : Allow al [.csr]) (h : Kept al s0 s) (r : RegRef) : Kept al s0 (cntInc s r) := by
  unfold cntInc
  repeat' first | exact hal.mono rfl | with_reducible assumption | with_reducible apply cntAdd_kept (hal.mono rfl)

theorem rcAdd_kept (hal : Allow al [.csr]) (h : Kept al s0 s) (r : RegRef) (k : Nat) : Kept al s0 (rcAdd s r k) := by
  unfold rcAdd
  repeat' first | exact hal.mono rfl | with_reducible assumption | with_reducible apply setReg_kept (hal.mono rfl)

theorem rcOr_kept (hal : Allow al [.csr]) (h : Kept al s0 s) (r : RegRef) (v : Word64) : Kept al s0 (rcOr s r v) := by
  unfold rcOr
  repeat' first | exact hal.mono rfl | with_reducible assumption | with_reducible apply setReg_kept (hal.mono rfl)

theorem modPort_kept (hal : Allow al [.ports]) (h : Kept al s0 s) (p : Fin 8) (f : Port → Port) : Kept al s0
    (modPort s p f) := (keptPorts (s := s) (hal.mono rfl)).2 h

theorem modChan_kept (hal : Allow al [.chans]) (h : Kept al s0 s) (c : Fin 16) (f : ChanSt → ChanSt) : Kept al s0
    (modChan s c f) := (keptChans (s := s) (hal.mono rfl)).2 h

theorem modSch_kept (hal : Allow al [.chans]) (h : Kept al s0 s) (c : Fin 16) (f : SchedSt → SchedSt) : Kept al s0
    (modSch s c f) := (keptChans (s := s) (hal.mono rfl)).2 h

theorem modRef_kept (hal : Allow al [.chans]) (h : Kept al s0 s) (c : Fin 16) (f : RefSt → RefSt) : Kept al s0
    (modRef s c f) := (keptChans (s := s) (hal.mono rfl)).2 h

theorem modPhy_kept (hal : Allow al [.chans]) (h : Kept al s0 s) (c : Fin 16) (f : PhySt → PhySt) : Kept al s0
    (modPhy s c f) := (keptChans (s := s) (hal.mono rfl)).2 h

theorem modKeep_kept (hal : Allow al [.chans]) (h : Kept al s0 s) (c : Fin 16) (f : KeepSt → KeepSt) : Kept al s0
    (modKeep s c f) := (keptChans (s := s) (hal.mono rfl)).2 h

theorem modCode_kept (hal : Allow al [.chans]) (h : Kept al s0 s) (c : Fin 16) (f : CodeSt → CodeSt) : Kept al s0
    (modCode s c f) := (keptChans (s := s) (hal.mono rfl)).2 h

end Sys2Proof.Machine
end

