-- ==== Sys2Proof/Laws/KeptCollect.lean ====
section
/-!
SUPPORT. What the operations of Machine/Collect.lean keep.
-/
namespace Sys2Proof.Machine
set_option linter.all false
set_option Elab.async false
open Sys2Proof

variable {al : Part → Bool} {s0 s : State}

theorem jrnEnqueue_kept (hal : Allow al [.csr, .jrn]) (h : Kept al s0 s) (e : JrnEvt) : Kept al s0 (jrnEnqueue s e) := by
  unfold jrnEnqueue
  repeat' first
    | exact hal.mono rfl | with_reducible assumption | with_reducible apply cntInc_kept (hal.mono rfl)
    | with_reducible apply kept_ite | simp only [keptJrn (hal.mono rfl)]

theorem askFence_kept (hal : Allow al [.evt]) (h : Kept al s0 s) (c : Fin 16) (code evt : Nat) : Kept al s0
    (askFence s c code evt) := (keptEvt (s := s) (hal.mono rfl)).2 h

theorem failover_kept (hal : Allow al [.csr, .evt]) (h : Kept al s0 s) (id : Nat) : Kept al s0 (failover s id) := by
  unfold failover
  repeat' first
    | exact hal.mono rfl | with_reducible assumption | with_reducible apply forEach_kept
    | with_reducible apply askFence_kept (hal.mono rfl)
    | with_reducible apply cntInc_kept (hal.mono rfl) | intro _ | with_reducible apply kept_ite
    | simp only [keptEvt (hal.mono rfl)]

theorem assertSevere_kept (hal : Allow al [.evt]) (h : Kept al s0 s) (id : Nat) : Kept al s0 (assertSevere s id) :=
    (keptEvt (s := s) (hal.mono rfl)).2 h

theorem react_kept (hal : Allow al [.csr, .evt, .jrn]) (h : Kept al s0 s) (id mask : Nat) (act : Bool) (e : JrnEvt) : Kept
    al s0 (react s id mask act e) := by
  unfold react
  repeat' first
    | exact hal.mono rfl | with_reducible assumption | with_reducible apply doIf_kept
    | with_reducible apply jrnEnqueue_kept (hal.mono rfl)
    | with_reducible apply cntInc_kept (hal.mono rfl) | with_reducible apply askFence_kept (hal.mono rfl)
    | with_reducible apply failover_kept (hal.mono rfl)
    | with_reducible apply assertSevere_kept (hal.mono rfl) | intro _ | simp only [keptEvt (hal.mono rfl)]

theorem raiseEvt_kept (hal : Allow al [.csr, .evt, .jrn]) (h : Kept al s0 s) (id : Nat) (ds : List Word32) (o : EvtOrigin)
    (uncorr forced : Bool) : Kept al s0 (raiseEvt s id ds o uncorr forced) := by
  unfold raiseEvt
  repeat' first
    | exact hal.mono rfl | with_reducible assumption | with_reducible apply cntInc_kept (hal.mono rfl)
    | with_reducible apply doIf_kept
    | with_reducible apply react_kept (hal.mono rfl) | intro _ | with_reducible apply kept_ite
    | simp only [keptEvt (hal.mono rfl)]

theorem ev_kept (hal : Allow al [.csr, .evt, .jrn]) (h : Kept al s0 s) (id : Nat) : Kept al s0 (ev s id) := by
  unfold ev
  repeat' first | exact hal.mono rfl | with_reducible assumption | with_reducible apply raiseEvt_kept (hal.mono rfl)

theorem evd_kept (hal : Allow al [.csr, .evt, .jrn]) (h : Kept al s0 s) (id : Nat) (ds : List Word32) : Kept al s0
    (evd s id ds) := by
  unfold evd
  repeat' first | exact hal.mono rfl | with_reducible assumption | with_reducible apply raiseEvt_kept (hal.mono rfl)

theorem evo_kept (hal : Allow al [.csr, .evt, .jrn]) (h : Kept al s0 s) (id : Nat) (ds : List Word32) (o : EvtOrigin) :
    Kept al s0 (evo s id ds o) := by
  unfold evo
  repeat' first | exact hal.mono rfl | with_reducible assumption | with_reducible apply raiseEvt_kept (hal.mono rfl)

theorem lockViolation_kept (hal : Allow al [.csr, .evt, .jrn]) (h : Kept al s0 s) (off : Nat) (mid : BitVec 12) : Kept al
    s0 (lockViolation s off mid) := by
  unfold lockViolation
  repeat' first
    | exact hal.mono rfl | with_reducible assumption | with_reducible apply setReg_kept (hal.mono rfl)
    | with_reducible apply evo_kept (hal.mono rfl)
    | with_reducible apply cntInc_kept (hal.mono rfl)

theorem faultWindowEnd_kept (hal : Allow al [.evt]) (h : Kept al s0 s) (src : Nat) : Kept al s0 (faultWindowEnd s src) := by
  unfold faultWindowEnd
  try dsimp only
  repeat' first
    | exact hal.mono rfl
    | with_reducible assumption
    | intro _
    | with_reducible apply kept_ite
    | split
    | simp only [keptEvt (hal.mono rfl)]
    | dsimp only

theorem evtForce_kept (hal : Allow al [.csr, .evt, .jrn]) (h : Kept al s0 s) (src : Nat) (mid : BitVec 12) : Kept al s0
    (evtForce s src mid) := by
  unfold evtForce
  repeat' first | exact hal.mono rfl | with_reducible assumption | with_reducible apply raiseEvt_kept (hal.mono rfl)

theorem levelClr_kept (hal : Allow al [.evt]) (h : Kept al s0 s) (all go : Bool) (src : Nat) : Kept al s0
    (levelClr s all go src) := (keptEvt (s := s) (hal.mono rfl)).2 h

theorem sevClr_kept (hal : Allow al [.evt]) (h : Kept al s0 s) : Kept al s0 (sevClr s) :=
    (keptEvt (s := s) (hal.mono rfl)).2 h

theorem foClr_kept (hal : Allow al [.csr, .evt]) (h : Kept al s0 s) : Kept al s0 (foClr s) :=
    (keptEvt (s := s) (hal.mono rfl)).2 h

theorem fecClr_kept (hal : Allow al [.evt]) (h : Kept al s0 s) (g : Nat) : Kept al s0 (fecClr s g) :=
    (keptEvt (s := s) (hal.mono rfl)).2 h

theorem sqAck_kept (hal : Allow al [.evt]) (h : Kept al s0 s) (src : Nat) (v : Word32) : Kept al s0 (sqAck s src v) := by
  unfold sqAck
  try dsimp only
  repeat' first
    | exact hal.mono rfl
    | with_reducible assumption
    | intro _
    | with_reducible apply kept_ite
    | split
    | simp only [keptEvt (hal.mono rfl)]
    | dsimp only

end Sys2Proof.Machine
end

