-- ==== Sys2Proof/Laws/KeptAddress.lean ====
section
/-!
SUPPORT. What the operations of Machine/Address.lean keep.
-/
namespace Sys2Proof.Machine
set_option linter.all false
set_option Elab.async false
open Sys2Proof

variable {al : Part → Bool} {s0 s : State}

theorem pmapSet_kept (hal : Allow al [.map]) (h : Kept al s0 s) (p : Nat) (e : Word64) : Kept al s0 (pmapSet s p e) :=
    (keptMap (s := s) (hal.mono rfl)).2 h

theorem setMapLine_kept (hal : Allow al [.map]) (h : Kept al s0 s) (das : Nat) (d : LineData) : Kept al s0
    (setMapLine s das d) := by
  unfold setMapLine
  repeat' first
    | exact hal.mono rfl | with_reducible assumption | with_reducible apply pmapSet_kept (hal.mono rfl)
    | with_reducible apply foldl_kept | intro _ | split
    | simp only [keptMap (hal.mono rfl)]

theorem memWrite_kept (hal : Allow al [.map, .dram]) (h : Kept al s0 s) (das : Nat) (k : Coord) (r : RawLine) : Kept al s0
    (memWrite s das k r) := by
  unfold memWrite
  repeat' first
    | exact hal.mono rfl | with_reducible assumption | with_reducible apply setDramLine_kept (hal.mono rfl)
    | with_reducible apply setMapLine_kept (hal.mono rfl) | split
    | dsimp only

theorem mapWrite_kept (hal : Allow al [.map]) (h : Kept al s0 s) (das : Nat) (mask : LineMask) (d : LineData) : Kept al s0
    (mapWrite s das mask d) := by
  unfold mapWrite
  repeat' first | exact hal.mono rfl | with_reducible assumption | with_reducible apply setMapLine_kept (hal.mono rfl) | split

theorem pcLookup_kept (hal : Allow al [.csr, .map]) (h : Kept al s0 s) (n : Nat) : Kept al s0 (pcLookup s n) := by
  unfold pcLookup
  repeat' first
    | exact hal.mono rfl | with_reducible assumption | with_reducible apply cntInc_kept (hal.mono rfl)
    | with_reducible apply kept_ite | simp only [keptMap (hal.mono rfl)]

theorem classLookup_kept (hal : Allow al [.csr, .map]) (h : Kept al s0 s) (a : Nat) : Kept al s0 (classLookup s a) := by
  unfold classLookup
  try dsimp only
  repeat' first
    | exact hal.mono rfl
    | with_reducible assumption
    | with_reducible apply pcLookup_kept (hal.mono rfl)
    | intro _
    | with_reducible apply kept_ite
    | split
    | dsimp only

theorem setBlank_kept (hal : Allow al [.map]) (h : Kept al s0 s) (p : Nat) (v : Bool) : Kept al s0 (setBlank s p v) :=
    (keptMap (s := s) (hal.mono rfl)).2 h

end Sys2Proof.Machine
end

