-- ==== Sys2Proof/Laws/KeptPhy.lean ====
section
/-!
SUPPORT. What the operations of Machine/Phy.lean keep.
-/
namespace Sys2Proof.Machine
set_option linter.all false
set_option Elab.async false
open Sys2Proof

variable {al : Part → Bool} {s0 s : State}

theorem takeTrims_kept (hal : Allow al [.chans]) (h : Kept al s0 s) (c : Fin 16) (prank : Nat) : Kept al s0
    (takeTrims s c prank) := by
  unfold takeTrims
  try dsimp only
  repeat' first
    | exact hal.mono rfl
    | with_reducible assumption
    | with_reducible apply modPhy_kept (hal.mono rfl)
    | with_reducible apply foldl_kept
    | with_reducible apply foldl_kept_fst
    | with_reducible apply foldl_kept_snd
    | intro _
    | with_reducible apply kept_ite
    | split
    | dsimp only

theorem applyLane_kept (hal : Allow al [.csr, .evt, .jrn, .chans]) (h : Kept al s0 s) (c : Fin 16) (prank sub lane : Nat)
    : Kept al s0 (applyLane s c prank sub lane) := by
  unfold applyLane
  repeat' first
    | exact hal.mono rfl | with_reducible assumption | with_reducible apply modPhy_kept (hal.mono rfl)
    | with_reducible apply doIf_kept
    | with_reducible apply evd_kept (hal.mono rfl) | intro _

theorem applyPrank_kept (hal : Allow al [.csr, .evt, .jrn, .chans]) (h : Kept al s0 s) (c : Fin 16) (prank : Nat) : Kept
    al s0 (applyPrank s c prank) := by
  unfold applyPrank
  repeat' first
    | exact hal.mono rfl | with_reducible assumption | with_reducible apply forEach_kept
    | with_reducible apply applyLane_kept (hal.mono rfl) | intro _

theorem handoverSteps_kept (hal : Allow al [.chans]) (h : Kept al s0 s) (c : Fin 16) (keep : Bool) : Kept al s0
    (handoverSteps s c keep) :=
  (keptChans (s := s) (hal.mono rfl)).2 h

theorem handover_kept (hal : Allow al [.chans]) (h : Kept al s0 s) (c : Fin 16) : Kept al s0 (handover s c) := by
  unfold handover
  try dsimp only
  repeat' first
    | exact hal.mono rfl
    | with_reducible assumption
    | with_reducible apply handoverSteps_kept (hal.mono rfl)
    | intro _
    | with_reducible apply kept_ite
    | split
    | dsimp only

theorem takeback_kept (hal : Allow al [.chans]) (h : Kept al s0 s) (c : Fin 16) : Kept al s0 (takeback s c) := by
  unfold takeback
  try dsimp only
  repeat' first
    | exact hal.mono rfl
    | with_reducible assumption
    | with_reducible apply modKeep_kept (hal.mono rfl)
    | intro _
    | with_reducible apply kept_ite
    | split
    | dsimp only

theorem discard_kept (hal : Allow al [.csr, .evt, .jrn, .chans]) (h : Kept al s0 s) (c : Fin 16) : Kept al s0
    (discard s c) := by
  unfold discard
  repeat' first
    | exact hal.mono rfl | with_reducible assumption | with_reducible apply ev_kept (hal.mono rfl)
    | with_reducible apply modKeep_kept (hal.mono rfl)
    | with_reducible apply kept_ite

theorem clrLost_kept (hal : Allow al [.chans]) (h : Kept al s0 s) (c : Fin 16) : Kept al s0 (clrLost s c) :=
    (keptChans (s := s) (hal.mono rfl)).2 h

theorem pllLoss_kept (hal : Allow al [.chans]) (h : Kept al s0 s) (c : Fin 16) : Kept al s0 (pllLoss s c) :=
    (keptChans (s := s) (hal.mono rfl)).2 h

theorem trainFail_kept (hal : Allow al [.csr, .evt, .jrn, .chans]) (h : Kept al s0 s) (c : Fin 16) (i : TrainInfo) : Kept
    al s0 (trainFail s c i) := by
  unfold trainFail
  try dsimp only
  repeat' first
    | exact hal.mono rfl
    | with_reducible assumption
    | with_reducible apply modPhy_kept (hal.mono rfl)
    | with_reducible apply evd_kept (hal.mono rfl)
    | intro _
    | with_reducible apply kept_ite
    | split
    | dsimp only

theorem fenceIfInService_kept (hal : Allow al [.evt]) (h : Kept al s0 s) (c : Fin 16) (code : Nat) : Kept al s0
    (fenceIfInService s c code) := by
  unfold fenceIfInService
  try dsimp only
  repeat' first
    | exact hal.mono rfl
    | with_reducible assumption
    | with_reducible apply askFence_kept (hal.mono rfl)
    | intro _
    | with_reducible apply kept_ite
    | split
    | dsimp only

theorem trainOpen_kept (hal : Allow al [.chans]) (h : Kept al s0 s) (c : Fin 16) : Kept al s0 (trainOpen s c) := by
  unfold trainOpen
  try dsimp only
  repeat' first
    | exact hal.mono rfl
    | with_reducible assumption
    | with_reducible apply modKeep_kept (hal.mono rfl)
    | with_reducible apply modPhy_kept (hal.mono rfl)
    | intro _
    | with_reducible apply kept_ite
    | split
    | dsimp only

theorem trainGo_kept (hal : Allow al [.csr, .evt, .jrn, .chans]) (h : Kept al s0 s) (c : Fin 16) (m : TrainMode) : Kept al
    s0 (trainGo s c m) := by
  unfold trainGo
  try dsimp only
  repeat' first
    | exact hal.mono rfl
    | with_reducible assumption
    | with_reducible apply trainOpen_kept (hal.mono rfl)
    | with_reducible apply ev_kept (hal.mono rfl)
    | with_reducible apply trainFail_kept (hal.mono rfl)
    | with_reducible apply modPhy_kept (hal.mono rfl)
    | intro _
    | with_reducible apply kept_ite
    | split
    | dsimp only

theorem trainApply_kept (hal : Allow al [.csr, .evt, .jrn, .chans]) (h : Kept al s0 s) (c : Fin 16) (n : Nat)
    (lanes : List LaneFound) (vrefs : List VrefFound) : Kept al s0 (trainApply s c n lanes vrefs) := by
  unfold trainApply
  try dsimp only
  repeat' first
    | exact hal.mono rfl
    | with_reducible assumption
    | with_reducible apply forEach_kept
    | with_reducible apply modPhy_kept (hal.mono rfl)
    | with_reducible apply applyPrank_kept (hal.mono rfl)
    | with_reducible apply doIf_kept
    | with_reducible apply takeTrims_kept (hal.mono rfl)
    | intro _
    | with_reducible apply kept_ite
    | split
    | dsimp only

theorem ranksUp_kept (hal : Allow al [.chans]) (h : Kept al s0 s) (c : Fin 16) : Kept al s0 (ranksUp s c) :=
    (keptChans (s := s) (hal.mono rfl)).2 h

theorem trainSteps_kept (hal : Allow al [.chans, .dram]) (h : Kept al s0 s) (c : Fin 16) (m : TrainMode) (n : Nat) : Kept
    al s0 (trainSteps s c m n) := by
  unfold trainSteps
  repeat' first
    | exact hal.mono rfl | with_reducible assumption | with_reducible apply doIf_kept
    | with_reducible apply modPhy_kept (hal.mono rfl)
    | with_reducible apply modKeep_kept (hal.mono rfl) | with_reducible apply loseDram_kept (hal.mono rfl)
    | with_reducible apply ranksUp_kept (hal.mono rfl)
    | with_reducible apply handoverSteps_kept (hal.mono rfl) | intro _ | split

theorem trainDone_kept (hal : Allow al [.csr, .evt, .jrn, .chans, .dram]) (h : Kept al s0 s) (c : Fin 16) (e : TrainEnd) :
    Kept al s0 (trainDone s c e) := by
  unfold trainDone
  try dsimp only
  repeat' first
    | exact hal.mono rfl
    | with_reducible assumption
    | with_reducible apply cntAdd_kept (hal.mono rfl)
    | with_reducible apply trainSteps_kept (hal.mono rfl)
    | with_reducible apply trainApply_kept (hal.mono rfl)
    | with_reducible apply doIf_kept
    | with_reducible apply modRef_kept (hal.mono rfl)
    | with_reducible apply modPhy_kept (hal.mono rfl)
    | with_reducible apply trainFail_kept (hal.mono rfl)
    | with_reducible apply fenceIfInService_kept (hal.mono rfl)
    | intro _
    | with_reducible apply kept_ite
    | split
    | dsimp only

theorem trainAbort_kept (hal : Allow al [.csr, .evt, .jrn, .chans]) (h : Kept al s0 s) (c : Fin 16) (step : BitVec 4)
    (lanes : List LaneFound) (vrefs : List VrefFound) : Kept al s0 (trainAbort s c step lanes vrefs) := by
  unfold trainAbort
  try dsimp only
  repeat' first
    | exact hal.mono rfl
    | with_reducible assumption
    | with_reducible apply trainApply_kept (hal.mono rfl)
    | with_reducible apply fenceIfInService_kept (hal.mono rfl)
    | with_reducible apply trainFail_kept (hal.mono rfl)
    | intro _
    | with_reducible apply kept_ite
    | split
    | dsimp only

theorem linkFail_kept (hal : Allow al [.csr, .evt, .jrn, .chans]) (h : Kept al s0 s) (c : Fin 16) : Kept al s0
    (linkFail s c) := by
  unfold linkFail
  repeat' first
    | exact hal.mono rfl | with_reducible assumption | with_reducible apply modPhy_kept (hal.mono rfl)
    | with_reducible apply rcOr_kept (hal.mono rfl)
    | with_reducible apply ev_kept (hal.mono rfl) | with_reducible apply fenceIfInService_kept (hal.mono rfl)

theorem probeAbort_kept (hal : Allow al [.csr, .evt, .jrn, .chans]) (h : Kept al s0 s) (c : Fin 16) (cause : Nat) : Kept
    al s0 (probeAbort s c cause) := by
  unfold probeAbort
  repeat' first
    | exact hal.mono rfl | with_reducible assumption | with_reducible apply modPhy_kept (hal.mono rfl)
    | with_reducible apply evd_kept (hal.mono rfl)
    | with_reducible apply cntInc_kept (hal.mono rfl) | with_reducible apply kept_ite

theorem phyAlert_kept (hal : Allow al [.csr, .evt, .jrn, .chans, .dram]) (h : Kept al s0 s) (c : Fin 16) (crc : Bool) :
    Kept al s0 (phyAlert s c crc) := by
  unfold phyAlert
  repeat' first
    | exact hal.mono rfl | with_reducible assumption | with_reducible apply probeAbort_kept (hal.mono rfl)
    | with_reducible apply modSch_kept (hal.mono rfl)
    | with_reducible apply forEach_kept | with_reducible apply setDramLine_kept (hal.mono rfl)
    | with_reducible apply modPhy_kept (hal.mono rfl)
    | with_reducible apply cntInc_kept (hal.mono rfl) | with_reducible apply cntAdd_kept (hal.mono rfl)
    | with_reducible apply rcOr_kept (hal.mono rfl)
    | with_reducible apply setFld_kept (hal.mono rfl) | with_reducible apply evd_kept (hal.mono rfl)
    | with_reducible apply linkFail_kept (hal.mono rfl) | intro _
    | with_reducible apply kept_ite | split

theorem cutWindow_kept (hal : Allow al [.csr, .chans]) (h : Kept al s0 s) (c : Fin 16) : Kept al s0 (cutWindow s c) := by
  unfold cutWindow
  repeat' first
    | exact hal.mono rfl | with_reducible assumption | with_reducible apply cntInc_kept (hal.mono rfl)
    | with_reducible apply modPhy_kept (hal.mono rfl)
    | with_reducible apply kept_ite

theorem decideAt_kept (hal : Allow al [.csr, .chans]) (h : Kept al s0 s) (c : Fin 16) (key : Nat) (right : Bool)
    (bits misses : Nat) : Kept al s0 (decideAt s c key right bits misses) := by
  unfold decideAt
  repeat' first
    | exact hal.mono rfl | with_reducible assumption | with_reducible apply modPhy_kept (hal.mono rfl)
    | with_reducible apply doIf_kept
    | with_reducible apply cntInc_kept (hal.mono rfl) | intro _

theorem retrainOpen_kept (hal : Allow al [.chans]) (h : Kept al s0 s) (c : Fin 16) (failed : Bool) : Kept al s0
    (retrainOpen s c failed) := by
  unfold retrainOpen
  try dsimp only
  repeat' first
    | exact hal.mono rfl
    | with_reducible assumption
    | with_reducible apply modPhy_kept (hal.mono rfl)
    | with_reducible apply modRef_kept (hal.mono rfl)
    | with_reducible apply modSch_kept (hal.mono rfl)
    | intro _
    | with_reducible apply kept_ite
    | split
    | dsimp only

theorem retrainAdjust_kept (hal : Allow al [.csr, .evt, .jrn, .chans]) (h : Kept al s0 s) (c : Fin 16) (pr : Nat)
    (osc : List OscRead) (sweep : List SweepRead) : Kept al s0 (retrainAdjust s c pr osc sweep) := by
  unfold retrainAdjust
  try dsimp only
  repeat' first
    | exact hal.mono rfl
    | with_reducible assumption
    | with_reducible apply modPhy_kept (hal.mono rfl)
    | with_reducible apply applyPrank_kept (hal.mono rfl)
    | with_reducible apply takeTrims_kept (hal.mono rfl)
    | with_reducible apply forEach_kept
    | with_reducible apply decideAt_kept (hal.mono rfl)
    | with_reducible apply foldl_kept
    | with_reducible apply foldl_kept_fst
    | with_reducible apply foldl_kept_snd
    | intro _
    | with_reducible apply kept_ite
    | split
    | dsimp only

theorem retrainEnd_kept (hal : Allow al [.csr, .chans]) (h : Kept al s0 s) (c : Fin 16) : Kept al s0 (retrainEnd s c) := by
  unfold retrainEnd
  repeat' first
    | exact hal.mono rfl | with_reducible assumption | with_reducible apply cntInc_kept (hal.mono rfl)
    | with_reducible apply modPhy_kept (hal.mono rfl)
    | with_reducible apply kept_ite

theorem probeDwellEnd_kept (hal : Allow al [.csr, .chans]) (h : Kept al s0 s) (c : Fin 16) : Kept al s0
    (probeDwellEnd s c) := by
  unfold probeDwellEnd
  repeat' first
    | exact hal.mono rfl | with_reducible assumption | with_reducible apply cntInc_kept (hal.mono rfl)
    | with_reducible apply forEach_kept
    | with_reducible apply decideAt_kept (hal.mono rfl) | with_reducible apply modPhy_kept (hal.mono rfl) | intro _
    | with_reducible apply kept_ite

theorem modBus_kept (hal : Allow al [.sbus]) (h : Kept al s0 s) (b : Fin 2) (f : SbBus → SbBus) : Kept al s0
    (modBus s b f) := by
  unfold modBus
  try dsimp only
  repeat' first
    | exact hal.mono rfl
    | with_reducible assumption
    | intro _
    | with_reducible apply kept_ite
    | split
    | simp only [keptSbus (hal.mono rfl)]
    | dsimp only

theorem busPump_kept (hal : Allow al [.csr, .sbus]) (h : Kept al s0 s) (b : Fin 2) : Kept al s0 (busPump s b) := by
  unfold busPump
  try dsimp only
  repeat' first
    | exact hal.mono rfl
    | with_reducible assumption
    | with_reducible apply cntInc_kept (hal.mono rfl)
    | with_reducible apply modBus_kept (hal.mono rfl)
    | intro _
    | with_reducible apply kept_ite
    | split
    | exact KeptOpt.none _
    | with_reducible apply KeptOpt.some
    | with_reducible apply KeptOpt.getD
    | with_reducible apply KeptOpt.then
    | with_reducible apply KeptOpt.map
    | with_reducible apply KeptOpt.findSome
    | refine KeptOpt.get (by with_reducible assumption) ?_
    | dsimp only

theorem busFree_kept (hal : Allow al [.csr, .sbus]) (h : Kept al s0 s) (c : Fin 16) : Kept al s0 (busFree s c) := by
  unfold busFree
  try dsimp only
  repeat' first
    | exact hal.mono rfl
    | with_reducible assumption
    | with_reducible apply busPump_kept (hal.mono rfl)
    | with_reducible apply modBus_kept (hal.mono rfl)
    | intro _
    | with_reducible apply kept_ite
    | split
    | dsimp only

theorem busEnable_kept (hal : Allow al [.csr, .sbus]) (h : Kept al s0 s) (b : Fin 2) : Kept al s0 (busEnable s b) := by
  unfold busEnable
  try dsimp only
  repeat' first
    | exact hal.mono rfl
    | with_reducible assumption
    | with_reducible apply busPump_kept (hal.mono rfl)
    | with_reducible apply modBus_kept (hal.mono rfl)
    | intro _
    | with_reducible apply kept_ite
    | split
    | dsimp only

theorem sbFailed_kept (hal : Allow al [.csr, .evt, .jrn, .chans]) (h : Kept al s0 s) (c : Fin 16) (code : BitVec 3)
    (slot : Bool) (lid : BitVec 4) : Kept al s0 (sbFailed s c code slot lid) := by
  unfold sbFailed
  repeat' first
    | exact hal.mono rfl | with_reducible assumption | with_reducible apply cntInc_kept (hal.mono rfl)
    | with_reducible apply modPhy_kept (hal.mono rfl)
    | with_reducible apply evd_kept (hal.mono rfl)

theorem sbTransfer_kept (hal : Allow al [.csr, .chans, .sbus]) (h : Kept al s0 s) (c : Fin 16) (v : Word32) : Kept al s0
    (sbTransfer s c v) := by
  unfold sbTransfer
  try dsimp only
  repeat' first
    | exact hal.mono rfl
    | with_reducible assumption
    | with_reducible apply busPump_kept (hal.mono rfl)
    | with_reducible apply modPhy_kept (hal.mono rfl)
    | intro _
    | with_reducible apply kept_ite
    | split
    | dsimp only

theorem sbDone_kept (hal : Allow al [.csr, .evt, .jrn, .chans, .sbus]) (h : Kept al s0 s) (c : Fin 16) (e : SbEnd) : Kept
    al s0 (sbDone s c e) := by
  unfold sbDone
  try dsimp only
  repeat' first
    | exact hal.mono rfl
    | with_reducible assumption
    | with_reducible apply modPhy_kept (hal.mono rfl)
    | with_reducible apply sbFailed_kept (hal.mono rfl)
    | with_reducible apply setReg_kept (hal.mono rfl)
    | with_reducible apply busFree_kept (hal.mono rfl)
    | intro _
    | with_reducible apply kept_ite
    | split
    | dsimp only

end Sys2Proof.Machine
end

