-- ==== Sys2Proof/Laws/KeptTiming.lean ====
section
/-!
SUPPORT. What the operations of Machine/Timing.lean keep.
-/
namespace Sys2Proof.Machine
set_option linter.all false
set_option Elab.async false
open Sys2Proof

variable {al : Part → Bool} {s0 s : State}

theorem modBank_kept (hal : Allow al [.chans]) (h : Kept al s0 s) (c : Fin 16) (b : Nat) (f : BankSt → BankSt) : Kept al
    s0 (modBank s c b f) :=
  (keptChans (s := s) (hal.mono rfl)).2 h

theorem modRank_kept (hal : Allow al [.chans]) (h : Kept al s0 s) (c : Fin 16) (r : Nat) (f : RankSt → RankSt) : Kept al
    s0 (modRank s c r f) := by
  unfold modRank
  try dsimp only
  repeat' first
    | exact hal.mono rfl
    | with_reducible assumption
    | with_reducible apply modSch_kept (hal.mono rfl)
    | intro _
    | with_reducible apply kept_ite
    | split
    | dsimp only

theorem seqTake_kept (hal : Allow al [.chans]) (h : Kept al s0 s) (c : Fin 16) (sub n : Nat) : Kept al s0
    (seqTake s c sub n) := by
  unfold seqTake
  try dsimp only
  repeat' first
    | exact hal.mono rfl
    | with_reducible assumption
    | with_reducible apply modSch_kept (hal.mono rfl)
    | intro _
    | with_reducible apply kept_ite
    | split
    | dsimp only

theorem seqBoth_kept (hal : Allow al [.chans]) (h : Kept al s0 s) (c : Fin 16) (n : Nat) : Kept al s0 (seqBoth s c n) := by
  unfold seqBoth
  try dsimp only
  repeat' first
    | exact hal.mono rfl
    | with_reducible assumption
    | with_reducible apply seqTake_kept (hal.mono rfl)
    | intro _
    | with_reducible apply kept_ite
    | split
    | dsimp only

theorem closeBanks_kept (hal : Allow al [.chans]) (h : Kept al s0 s) (c : Fin 16) (p : Nat → Bool) : Kept al s0
    (closeBanks s c p) := by
  unfold closeBanks
  try dsimp only
  repeat' first
    | exact hal.mono rfl
    | with_reducible assumption
    | with_reducible apply modSch_kept (hal.mono rfl)
    | intro _
    | with_reducible apply kept_ite
    | split
    | dsimp only

end Sys2Proof.Machine
end

