-- ==== Sys2Proof/Laws/KeptRefresh.lean ====
section
/-!
SUPPORT. What the operations of Machine/Refresh.lean keep.
-/
namespace Sys2Proof.Machine
set_option linter.all false
set_option Elab.async false
open Sys2Proof

variable {al : Part → Bool} {s0 s : State}

theorem rankWake_kept (hal : Allow al [.chans]) (h : Kept al s0 s) (c : Fin 16) (rank : Nat) : Kept al s0
    (rankWake s c rank) := by
  unfold rankWake
  try dsimp only
  repeat' first
    | exact hal.mono rfl
    | with_reducible assumption
    | with_reducible apply seqBoth_kept (hal.mono rfl)
    | with_reducible apply modRank_kept (hal.mono rfl)
    | intro _
    | with_reducible apply kept_ite
    | split
    | dsimp only

theorem closeTarget_kept (hal : Allow al [.chans]) (h : Kept al s0 s) (c : Fin 16) (key : Nat) : Kept al s0
    (closeTarget s c key) := by
  unfold closeTarget
  try dsimp only
  repeat' first
    | exact hal.mono rfl
    | with_reducible assumption
    | with_reducible apply seqBoth_kept (hal.mono rfl)
    | with_reducible apply closeBanks_kept (hal.mono rfl)
    | intro _
    | with_reducible apply kept_ite
    | split
    | dsimp only

theorem refreshBusy_kept (hal : Allow al [.chans]) (h : Kept al s0 s) (c : Fin 16) (key planned len : Nat) : Kept al s0
    (refreshBusy s c key planned len) := by
  unfold refreshBusy
  try dsimp only
  repeat' first
    | exact hal.mono rfl
    | with_reducible assumption
    | with_reducible apply closeTarget_kept (hal.mono rfl)
    | with_reducible apply rankWake_kept (hal.mono rfl)
    | with_reducible apply modRef_kept (hal.mono rfl)
    | with_reducible apply seqBoth_kept (hal.mono rfl)
    | with_reducible apply foldl_kept
    | with_reducible apply foldl_kept_fst
    | with_reducible apply foldl_kept_snd
    | intro _
    | with_reducible apply kept_ite
    | split
    | dsimp only

theorem refreshTarget_kept (hal : Allow al [.chans]) (h : Kept al s0 s) (c : Fin 16) (key planned : Nat) : Kept al s0
    (refreshTarget s c key planned) := by
  unfold refreshTarget
  try dsimp only
  repeat' first
    | exact hal.mono rfl
    | with_reducible assumption
    | with_reducible apply refreshBusy_kept (hal.mono rfl)
    | with_reducible apply modRef_kept (hal.mono rfl)
    | intro _
    | with_reducible apply kept_ite
    | split
    | dsimp only

theorem refreshRank_kept (hal : Allow al [.chans]) (h : Kept al s0 s) (c : Fin 16) (rank : Nat) : Kept al s0
    (refreshRank s c rank) := by
  unfold refreshRank
  repeat' first
    | exact hal.mono rfl | with_reducible assumption | with_reducible apply forEach_kept
    | with_reducible apply refreshBusy_kept (hal.mono rfl) | intro _

theorem slotDecide_kept (hal : Allow al [.chans]) (h : Kept al s0 s) (c : Fin 16) (k : Int) : Kept al s0
    (slotDecide s c k) := by
  unfold slotDecide
  try dsimp only
  repeat' first
    | exact hal.mono rfl
    | with_reducible assumption
    | with_reducible apply modRef_kept (hal.mono rfl)
    | with_reducible apply forEach_kept
    | with_reducible apply closeTarget_kept (hal.mono rfl)
    | intro _
    | with_reducible apply kept_ite
    | split
    | dsimp only

theorem rtNote_kept (hal : Allow al [.chans]) (h : Kept al s0 s) (c : Fin 16) : Kept al s0 (rtNote s c) := by
  unfold rtNote
  try dsimp only
  repeat' first
    | exact hal.mono rfl
    | with_reducible assumption
    | with_reducible apply modRef_kept (hal.mono rfl)
    | intro _
    | with_reducible apply kept_ite
    | split
    | dsimp only

theorem slotTarget_kept (hal : Allow al [.csr, .evt, .jrn, .chans]) (h : Kept al s0 s) (c : Fin 16) (post : Bool)
    (key planned : Nat) : Kept al s0 (slotTarget s c post key planned) := by
  unfold slotTarget
  try dsimp only
  repeat' first
    | exact hal.mono rfl
    | with_reducible assumption
    | with_reducible apply cntInc_kept (hal.mono rfl)
    | with_reducible apply modRef_kept (hal.mono rfl)
    | with_reducible apply ev_kept (hal.mono rfl)
    | with_reducible apply refreshTarget_kept (hal.mono rfl)
    | intro _
    | with_reducible apply kept_ite
    | split
    | dsimp only

theorem firstSlot_kept (hal : Allow al [.chans]) (h : Kept al s0 s) (c : Fin 16) : Kept al s0 (firstSlot s c) := by
  unfold firstSlot
  try dsimp only
  repeat' first
    | exact hal.mono rfl
    | with_reducible assumption
    | with_reducible apply modRef_kept (hal.mono rfl)
    | intro _
    | with_reducible apply kept_ite
    | split
    | dsimp only

theorem refreshSlot_kept (hal : Allow al [.csr, .evt, .jrn, .chans]) (h : Kept al s0 s) (c : Fin 16) (k : Nat) : Kept al
    s0 (refreshSlot s c k) := by
  unfold refreshSlot
  try dsimp only
  repeat' first
    | exact hal.mono rfl
    | with_reducible assumption
    | with_reducible apply firstSlot_kept (hal.mono rfl)
    | with_reducible apply rtNote_kept (hal.mono rfl)
    | with_reducible apply slotDecide_kept (hal.mono rfl)
    | with_reducible apply modRef_kept (hal.mono rfl)
    | with_reducible apply forEach_kept
    | with_reducible apply slotTarget_kept (hal.mono rfl)
    | intro _
    | with_reducible apply kept_ite
    | split
    | dsimp only

theorem catchup_kept (hal : Allow al [.csr, .chans]) (h : Kept al s0 s) (c : Fin 16) (t : RefTgt) : Kept al s0
    (catchup s c t) := by
  unfold catchup
  repeat' first
    | exact hal.mono rfl | with_reducible assumption | with_reducible apply refreshTarget_kept (hal.mono rfl)
    | with_reducible apply cntInc_kept (hal.mono rfl)
    | with_reducible apply modRef_kept (hal.mono rfl) | with_reducible apply kept_ite

theorem backstopTick_kept (hal : Allow al [.chans]) (h : Kept al s0 s) (c : Fin 16) (t : RefTgt) : Kept al s0
    (backstopTick s c t) := (keptChans (s := s) (hal.mono rfl)).2 h

theorem refBackstop_kept (hal : Allow al [.csr, .evt, .jrn, .chans]) (h : Kept al s0 s) (c : Fin 16) (t : RefTgt) : Kept
    al s0 (refBackstop s c t) := by
  unfold refBackstop
  repeat' first
    | exact hal.mono rfl | with_reducible assumption | with_reducible apply probeAbort_kept (hal.mono rfl)
    | with_reducible apply cutWindow_kept (hal.mono rfl)
    | with_reducible apply refreshTarget_kept (hal.mono rfl) | with_reducible apply modRef_kept (hal.mono rfl)
    | with_reducible apply evd_kept (hal.mono rfl)
    | with_reducible apply cntInc_kept (hal.mono rfl) | with_reducible apply kept_ite

theorem tempPoll_kept (hal : Allow al [.csr, .evt, .jrn, .chans]) (h : Kept al s0 s) (c : Fin 16) (r : PollRead) : Kept al
    s0 (tempPoll s c r) := by
  unfold tempPoll
  repeat' first
    | exact hal.mono rfl | with_reducible assumption | with_reducible apply cntAdd_kept (hal.mono rfl)
    | with_reducible apply forEach_kept
    | with_reducible apply sbFailed_kept (hal.mono rfl) | with_reducible apply doIf_kept
    | with_reducible apply ev_kept (hal.mono rfl)
    | with_reducible apply modRef_kept (hal.mono rfl) | intro _

theorem tempRate_kept (hal : Allow al [.csr, .evt, .jrn, .chans]) (h : Kept al s0 s) (c : Fin 16) : Kept al s0
    (tempRate s c) := by
  unfold tempRate
  try dsimp only
  repeat' first
    | exact hal.mono rfl
    | with_reducible assumption
    | with_reducible apply modRef_kept (hal.mono rfl)
    | with_reducible apply evd_kept (hal.mono rfl)
    | intro _
    | with_reducible apply kept_ite
    | split
    | dsimp only

theorem granChanged_kept (hal : Allow al [.csr, .evt, .jrn, .chans]) (h : Kept al s0 s) (c : Fin 16) : Kept al s0
    (granChanged s c) := by
  unfold granChanged
  try dsimp only
  repeat' first
    | exact hal.mono rfl
    | with_reducible assumption
    | with_reducible apply ev_kept (hal.mono rfl)
    | with_reducible apply modRef_kept (hal.mono rfl)
    | intro _
    | with_reducible apply kept_ite
    | split
    | dsimp only

theorem refErr_kept (hal : Allow al [.csr]) (h : Kept al s0 s) (c : Fin 16) (reason : Nat) : Kept al s0
    (refErr s c reason) := by
  unfold refErr
  try dsimp only
  repeat' first
    | exact hal.mono rfl
    | with_reducible assumption
    | with_reducible apply setReg_kept (hal.mono rfl)
    | intro _
    | with_reducible apply kept_ite
    | split
    | dsimp only

theorem windowSlip_kept (hal : Allow al [.csr, .chans]) (h : Kept al s0 s) (c : Fin 16) (w : WinReq) (probe : Bool) : Kept
    al s0 (windowSlip s c w probe) := by
  unfold windowSlip
  try dsimp only
  repeat' first
    | exact hal.mono rfl
    | with_reducible assumption
    | with_reducible apply modRef_kept (hal.mono rfl)
    | with_reducible apply cntInc_kept (hal.mono rfl)
    | intro _
    | with_reducible apply kept_ite
    | split
    | dsimp only

theorem windowStart_kept (hal : Allow al [.csr, .evt, .jrn, .chans]) (h : Kept al s0 s) (c : Fin 16) (b d : Nat)
    (probe : Bool) : Kept al s0 (windowStart s c b d probe) := by
  unfold windowStart
  try dsimp only
  repeat' first
    | exact hal.mono rfl
    | with_reducible assumption
    | with_reducible apply ev_kept (hal.mono rfl)
    | with_reducible apply refErr_kept (hal.mono rfl)
    | with_reducible apply windowSlip_kept (hal.mono rfl)
    | with_reducible apply modRef_kept (hal.mono rfl)
    | intro _
    | with_reducible apply kept_ite
    | split
    | dsimp only

theorem windowCheck_kept (hal : Allow al [.csr, .evt, .jrn, .chans]) (h : Kept al s0 s) (c : Fin 16) (d : Nat)
    (wait : Option WinReq) (probe : Bool) : Kept al s0 (windowCheck s c d wait probe).2 := by
  unfold windowCheck
  try dsimp only
  repeat' first
    | exact hal.mono rfl
    | with_reducible assumption
    | with_reducible apply ev_kept (hal.mono rfl)
    | with_reducible apply refErr_kept (hal.mono rfl)
    | with_reducible apply windowSlip_kept (hal.mono rfl)
    | intro _
    | with_reducible apply kept_ite
    | split
    | exact KeptOpt.none _
    | with_reducible apply KeptOpt.some
    | with_reducible apply KeptOpt.getD
    | with_reducible apply KeptOpt.then
    | with_reducible apply KeptOpt.map
    | with_reducible apply KeptOpt.findSome
    | refine KeptOpt.get (by with_reducible assumption) ?_
    | dsimp only

theorem retrainWindow_kept (hal : Allow al [.csr, .evt, .jrn, .chans]) (h : Kept al s0 s) (c : Fin 16)
    (osc : List OscRead) (sweep : List SweepRead) (failed cut : Bool) : Kept al s0
    (retrainWindow s c osc sweep failed cut) := by
  unfold retrainWindow
  try dsimp only
  repeat' first
    | exact hal.mono rfl
    | with_reducible assumption
    | with_reducible apply windowCheck_kept (hal.mono rfl)
    | with_reducible apply retrainOpen_kept (hal.mono rfl)
    | with_reducible apply cutWindow_kept (hal.mono rfl)
    | with_reducible apply retrainAdjust_kept (hal.mono rfl)
    | with_reducible apply linkFail_kept (hal.mono rfl)
    | intro _
    | with_reducible apply kept_ite
    | split
    | refine kept_snd (by with_reducible assumption) (windowCheck_kept (hal.mono rfl) ?_ ..)
    | dsimp only

theorem probeDwell_kept (hal : Allow al [.csr, .evt, .jrn, .chans]) (h : Kept al s0 s) (c : Fin 16) : Kept al s0
    (probeDwell s c) := by
  unfold probeDwell
  try dsimp only
  repeat' first
    | exact hal.mono rfl
    | with_reducible assumption
    | with_reducible apply windowCheck_kept (hal.mono rfl)
    | with_reducible apply modRef_kept (hal.mono rfl)
    | with_reducible apply modPhy_kept (hal.mono rfl)
    | intro _
    | with_reducible apply kept_ite
    | split
    | refine kept_snd (by with_reducible assumption) (windowCheck_kept (hal.mono rfl) ?_ ..)
    | dsimp only

theorem queueNbr_kept (hal : Allow al [.chans]) (h : Kept al s0 s) (c : Fin 16) (k : Coord) : Kept al s0
    (queueNbr s c k) := (keptChans (s := s) (hal.mono rfl)).2 h

theorem countAct_kept (hal : Allow al [.csr, .evt, .jrn, .chans]) (h : Kept al s0 s) (c : Fin 16) (k : Coord) : Kept al s0
    (countAct s c k) := by
  unfold countAct
  repeat' first
    | exact hal.mono rfl | with_reducible assumption | with_reducible apply modRef_kept (hal.mono rfl)
    | with_reducible apply queueNbr_kept (hal.mono rfl)
    | with_reducible apply evd_kept (hal.mono rfl) | with_reducible apply cntInc_kept (hal.mono rfl)
    | with_reducible apply drawFree_kept
    | with_reducible apply kept_ite | split

theorem nbrStart_kept (hal : Allow al [.csr, .chans]) (h : Kept al s0 s) (c : Fin 16) (k : Coord) (n : Nat) : Kept al s0
    (nbrStart s c k n) := by
  unfold nbrStart
  try dsimp only
  repeat' first
    | exact hal.mono rfl
    | with_reducible assumption
    | with_reducible apply closeBanks_kept (hal.mono rfl)
    | with_reducible apply rankWake_kept (hal.mono rfl)
    | with_reducible apply modBank_kept (hal.mono rfl)
    | with_reducible apply modRef_kept (hal.mono rfl)
    | with_reducible apply cntInc_kept (hal.mono rfl)
    | with_reducible apply seqTake_kept (hal.mono rfl)
    | intro _
    | with_reducible apply kept_ite
    | split
    | dsimp only

theorem neighbourRefresh_kept (hal : Allow al [.csr, .chans]) (h : Kept al s0 s) (c : Fin 16) : Kept al s0
    (neighbourRefresh s c) := by
  unfold neighbourRefresh
  try dsimp only
  repeat' first
    | exact hal.mono rfl
    | with_reducible assumption
    | with_reducible apply nbrStart_kept (hal.mono rfl)
    | with_reducible apply modRef_kept (hal.mono rfl)
    | intro _
    | with_reducible apply kept_ite
    | split
    | dsimp only

theorem dstTableClear_kept (hal : Allow al [.chans]) (h : Kept al s0 s) (c : Fin 16) : Kept al s0 (dstTableClear s c) :=
    (keptChans (s := s) (hal.mono rfl)).2 h

theorem rfmBank_kept (hal : Allow al [.csr, .chans]) (h : Kept al s0 s) (c : Fin 16) (b : Nat) : Kept al s0
    (rfmBank s c b) := by
  unfold rfmBank
  try dsimp only
  repeat' first
    | exact hal.mono rfl
    | with_reducible assumption
    | with_reducible apply closeBanks_kept (hal.mono rfl)
    | with_reducible apply rankWake_kept (hal.mono rfl)
    | with_reducible apply modBank_kept (hal.mono rfl)
    | with_reducible apply modRef_kept (hal.mono rfl)
    | with_reducible apply cntInc_kept (hal.mono rfl)
    | with_reducible apply seqTake_kept (hal.mono rfl)
    | intro _
    | with_reducible apply kept_ite
    | split
    | dsimp only

theorem rfmIssue_kept (hal : Allow al [.csr, .chans]) (h : Kept al s0 s) (c : Fin 16) (b : BankId) : Kept al s0
    (rfmIssue s c b) := by
  unfold rfmIssue
  try dsimp only
  repeat' first
    | exact hal.mono rfl
    | with_reducible assumption
    | with_reducible apply modRef_kept (hal.mono rfl)
    | with_reducible apply rfmBank_kept (hal.mono rfl)
    | with_reducible apply refreshRank_kept (hal.mono rfl)
    | intro _
    | with_reducible apply kept_ite
    | split
    | dsimp only

theorem refSrExit_kept (hal : Allow al [.chans]) (h : Kept al s0 s) (c : Fin 16) : Kept al s0 (refSrExit s c) :=
    (keptChans (s := s) (hal.mono rfl)).2 h

end Sys2Proof.Machine
end

