-- ==== Sys2Proof/Laws/KeptTt.lean ====
section
/-!
SUPPORT. What the operations of Machine/Tt.lean keep.
-/
namespace Sys2Proof.Machine
set_option linter.all false
set_option Elab.async false
open Sys2Proof

variable {al : Part → Bool} {s0 s : State}

theorem ttMod_kept (hal : Allow al [.tt]) (h : Kept al s0 s) (rid : Nat) (f : TtEntry → TtEntry) : Kept al s0
    (ttMod s rid f) := (keptTt (s := s) (hal.mono rfl)).2 h

theorem ttClear_kept (hal : Allow al [.adm]) (h : Kept al s0 s) : Kept al s0 (ttClear s) := by
  unfold ttClear
  try dsimp only
  repeat' first
    | exact hal.mono rfl
    | with_reducible assumption
    | with_reducible apply foldl_kept
    | with_reducible apply foldl_kept_fst
    | with_reducible apply foldl_kept_snd
    | intro _
    | with_reducible apply kept_ite
    | split
    | simp only [keptAdm (hal.mono rfl)]
    | dsimp only

theorem fenceFold_kept (hal : Allow al [.ports]) (h : Kept al s0 s) (p : Fin 8) (rid : Nat) : Kept al s0
    (fenceFold s p rid) := by
  unfold fenceFold
  try dsimp only
  repeat' first
    | exact hal.mono rfl
    | with_reducible assumption
    | with_reducible apply modPort_kept (hal.mono rfl)
    | intro _
    | with_reducible apply kept_ite
    | split
    | dsimp only

theorem ttDrop_kept (hal : Allow al [.ports, .adm, .tt]) (h : Kept al s0 s) (rid : Nat) : Kept al s0 (ttDrop s rid) := by
  unfold ttDrop
  try dsimp only
  repeat' first
    | exact hal.mono rfl
    | with_reducible assumption
    | with_reducible apply fenceFold_kept (hal.mono rfl)
    | with_reducible apply ttClear_kept (hal.mono rfl)
    | intro _
    | with_reducible apply kept_ite
    | split
    | simp only [keptTt (hal.mono rfl)]
    | dsimp only

theorem portDiscard_kept (hal : Allow al [.csr, .evt, .jrn, .ports]) (h : Kept al s0 s) (p : Fin 8) (n : Nat) : Kept al s0
    (portDiscard s p n) := by
  unfold portDiscard
  repeat' first
    | exact hal.mono rfl | with_reducible assumption | with_reducible apply cntAdd_kept (hal.mono rfl)
    | with_reducible apply ev_kept (hal.mono rfl)
    | with_reducible apply modPort_kept (hal.mono rfl) | with_reducible apply kept_ite

theorem portPlace_kept (hal : Allow al [.csr, .evt, .jrn, .ports]) (h : Kept al s0 s) (p : Fin 8) (tag : Nat)
    (read : Bool) (code : Code) (data : LineData) : Kept al s0 (portPlace s p tag read code data) := by
  unfold portPlace
  repeat' first
    | exact hal.mono rfl | with_reducible assumption | with_reducible apply doIf_kept
    | with_reducible apply cntInc_kept (hal.mono rfl)
    | with_reducible apply ev_kept (hal.mono rfl) | with_reducible apply modPort_kept (hal.mono rfl) | intro _
    | with_reducible apply kept_ite

theorem nopPump_kept (hal : Allow al [.csr, .evt, .jrn, .ports]) (h : Kept al s0 s) (p : Fin 8) : Kept al s0
    (nopPump s p) := by
  unfold nopPump
  repeat' first
    | exact hal.mono rfl | with_reducible assumption | with_reducible apply forEach_kept
    | with_reducible apply portPlace_kept (hal.mono rfl)
    | with_reducible apply modPort_kept (hal.mono rfl) | intro _ | split

theorem portComplete_kept (hal : Allow al [.csr, .evt, .jrn, .ports]) (h : Kept al s0 s) (p : Fin 8) (tag : Nat)
    (read : Bool) (code : Code) (data : LineData) : Kept al s0 (portComplete s p tag read code data).2 := by
  unfold portComplete
  repeat' first
    | exact hal.mono rfl | with_reducible assumption | with_reducible apply modPort_kept (hal.mono rfl)
    | with_reducible apply portDiscard_kept (hal.mono rfl)
    | with_reducible apply nopPump_kept (hal.mono rfl) | with_reducible apply portPlace_kept (hal.mono rfl) | split

theorem deliver_kept (hal : Allow al [.csr, .evt, .jrn, .ports, .results]) (h : Kept al s0 s) (d : Dest) (read : Bool)
    (code : Code) (data : LineData) : Kept al s0 (deliver s d read code data).2 := by
  unfold deliver
  try dsimp only
  repeat' first
    | exact hal.mono rfl
    | with_reducible assumption
    | with_reducible apply portComplete_kept (hal.mono rfl)
    | intro _
    | with_reducible apply kept_ite
    | split
    | simp only [keptResults (hal.mono rfl)]
    | refine kept_snd (by with_reducible assumption) (portComplete_kept (hal.mono rfl) ?_ ..)
    | dsimp only

theorem placeDue_kept (hal : Allow al [.csr, .evt, .jrn, .ports, .results, .cure]) (h : Kept al s0 s) (t : TtEntry)
    (x : CmpDue) : Kept al s0 (placeDue s t x).2 := by
  unfold placeDue
  repeat' first
    | exact hal.mono rfl | with_reducible assumption | with_reducible apply deliver_kept (hal.mono rfl)
    | with_reducible apply doIf_kept
    | with_reducible apply cntInc_kept (hal.mono rfl) | with_reducible apply ev_kept (hal.mono rfl) | intro _ | split
    | simp only [keptCure (hal.mono rfl)]

theorem ttSettle_kept (hal : Allow al [.csr, .evt, .jrn, .ports, .adm, .tt, .results, .cure]) (h : Kept al s0 s)
    (rid : Nat) : Kept al s0 (ttSettle s rid) := by
  unfold ttSettle
  repeat' first
    | exact hal.mono rfl | with_reducible assumption | with_reducible apply ttMod_kept (hal.mono rfl)
    | with_reducible apply ttDrop_kept (hal.mono rfl)
    | with_reducible apply kept_ite | split
    | refine kept_snd (by with_reducible assumption) (placeDue_kept (hal.mono rfl) ?_ ..)

theorem ttLeave_kept (hal : Allow al [.csr, .evt, .jrn, .ports, .adm, .tt, .results, .cure]) (h : Kept al s0 s)
    (rid : Nat) (cmp : Option CmpDue) : Kept al s0 (ttLeave s rid cmp) := by
  unfold ttLeave
  try dsimp only
  repeat' first
    | exact hal.mono rfl
    | with_reducible assumption
    | with_reducible apply ttSettle_kept (hal.mono rfl)
    | with_reducible apply ttMod_kept (hal.mono rfl)
    | intro _
    | with_reducible apply kept_ite
    | split
    | dsimp only

theorem ttDue_kept (hal : Allow al [.csr, .evt, .jrn, .ports, .adm, .tt, .results, .cure]) (h : Kept al s0 s) (rid : Nat)
    (x : CmpDue) : Kept al s0 (ttDue s rid x) := by
  unfold ttDue
  try dsimp only
  repeat' first
    | exact hal.mono rfl
    | with_reducible assumption
    | with_reducible apply ttSettle_kept (hal.mono rfl)
    | with_reducible apply ttMod_kept (hal.mono rfl)
    | intro _
    | with_reducible apply kept_ite
    | split
    | dsimp only

theorem ttPump_kept (hal : Allow al [.csr, .evt, .jrn, .ports, .adm, .tt, .results, .cure]) (h : Kept al s0 s) : Kept al
    s0 (ttPump s) := by
  unfold ttPump
  repeat' first
    | exact hal.mono rfl | with_reducible assumption | with_reducible apply forEach_kept
    | with_reducible apply ttSettle_kept (hal.mono rfl) | intro _

theorem waitPump_kept (hal : Allow al [.csr, .evt, .jrn, .ports, .results, .cure]) (h : Kept al s0 s) : Kept al s0
    (waitPump s) := by
  unfold waitPump
  repeat' first
    | exact hal.mono rfl | with_reducible assumption | with_reducible apply forEach_kept
    | with_reducible apply deliver_kept (hal.mono rfl)
    | with_reducible apply doIf_kept | with_reducible apply cntInc_kept (hal.mono rfl) | intro _
    | with_reducible apply kept_ite
    | simp only [keptCure (hal.mono rfl)]

theorem portDone_kept (hal : Allow al [.csr, .evt, .jrn, .ports]) (h : Kept al s0 s) (p : Fin 8) (tag : Nat) (read : Bool)
    (code : Code) (data : LineData) : Kept al s0 (portDone s p tag read code data) := by
  unfold portDone
  repeat' first
    | exact hal.mono rfl | with_reducible assumption | with_reducible apply portComplete_kept (hal.mono rfl)
    | with_reducible apply modPort_kept (hal.mono rfl)
    | with_reducible apply kept_ite

theorem fencePump_kept (hal : Allow al [.csr, .evt, .jrn, .ports]) (h : Kept al s0 s) (p : Fin 8) : Kept al s0
    (fencePump s p) := by
  unfold fencePump
  repeat' first
    | exact hal.mono rfl | with_reducible assumption | with_reducible apply forEach_kept
    | with_reducible apply modPort_kept (hal.mono rfl)
    | with_reducible apply cntInc_kept (hal.mono rfl) | with_reducible apply portDone_kept (hal.mono rfl) | intro _ | split

theorem curePump_kept (hal : Allow al [.csr, .evt, .jrn, .ports, .adm, .tt, .results, .cure]) (h : Kept al s0 s) : Kept al
    s0 (curePump s) := by
  unfold curePump
  repeat' first
    | exact hal.mono rfl | with_reducible assumption | with_reducible apply forEach_kept
    | with_reducible apply waitPump_kept (hal.mono rfl)
    | with_reducible apply ttPump_kept (hal.mono rfl) | with_reducible apply fencePump_kept (hal.mono rfl) | intro _

theorem portPump_kept (hal : Allow al [.csr, .evt, .jrn, .ports, .adm, .tt, .results, .cure]) (h : Kept al s0 s)
    (p : Fin 8) : Kept al s0 (portPump s p) := by
  unfold portPump
  repeat' first
    | exact hal.mono rfl | with_reducible assumption | with_reducible apply modPort_kept (hal.mono rfl)
    | with_reducible apply forEach_kept
    | with_reducible apply portDone_kept (hal.mono rfl) | with_reducible apply nopPump_kept (hal.mono rfl)
    | with_reducible apply waitPump_kept (hal.mono rfl)
    | with_reducible apply ttPump_kept (hal.mono rfl) | intro _

theorem fenceNote_kept (hal : Allow al [.csr, .evt, .jrn, .ports]) (h : Kept al s0 s) (p : Fin 8) (rid : Nat)
    (e : Option (BitVec 32)) (mir : Bool) : Kept al s0 (fenceNote s p rid e mir) := by
  unfold fenceNote
  try dsimp only
  repeat' first
    | exact hal.mono rfl
    | with_reducible assumption
    | with_reducible apply modPort_kept (hal.mono rfl)
    | with_reducible apply fencePump_kept (hal.mono rfl)
    | intro _
    | with_reducible apply kept_ite
    | split
    | dsimp only

end Sys2Proof.Machine
end

