-- ==== Sys2Proof/Laws/KeptSched.lean ====
section
/-!
SUPPORT. What the operations of Machine/Sched.lean keep.
-/
namespace Sys2Proof.Machine
set_option linter.all false
set_option Elab.async false
open Sys2Proof

variable {al : Part → Bool} {s0 s : State}

theorem remapQueues_kept (hal : Allow al [.chans]) (h : Kept al s0 s) (c : Fin 16) : Kept al s0 (remapQueues s c) := by
  unfold remapQueues
  try dsimp only
  repeat' first
    | exact hal.mono rfl
    | with_reducible assumption
    | with_reducible apply modSch_kept (hal.mono rfl)
    | intro _
    | with_reducible apply kept_ite
    | split
    | dsimp only

theorem urgencyTick_kept (hal : Allow al [.csr, .chans]) (h : Kept al s0 s) (c : Fin 16) : Kept al s0 (urgencyTick s c) := by
  unfold urgencyTick
  try dsimp only
  repeat' first
    | exact hal.mono rfl
    | with_reducible assumption
    | with_reducible apply modSch_kept (hal.mono rfl)
    | with_reducible apply cntAdd_kept (hal.mono rfl)
    | intro _
    | with_reducible apply kept_ite
    | split
    | dsimp only

theorem wqCheck_kept (hal : Allow al [.csr, .evt, .jrn]) (h : Kept al s0 s) (c : Fin 16) : Kept al s0 (wqCheck s c) := by
  unfold wqCheck
  try dsimp only
  repeat' first
    | exact hal.mono rfl
    | with_reducible assumption
    | with_reducible apply ev_kept (hal.mono rfl)
    | intro _
    | with_reducible apply kept_ite
    | split
    | dsimp only

theorem promoteLine_kept (hal : Allow al [.csr, .chans]) (h : Kept al s0 s) (c : Fin 16) (k : Coord) (arr : Nat) : Kept al
    s0 (promoteLine s c k arr) := by
  unfold promoteLine
  try dsimp only
  repeat' first
    | exact hal.mono rfl
    | with_reducible assumption
    | with_reducible apply modSch_kept (hal.mono rfl)
    | with_reducible apply cntAdd_kept (hal.mono rfl)
    | intro _
    | with_reducible apply kept_ite
    | split
    | dsimp only

theorem strictOnArrival_kept (hal : Allow al [.chans]) (h : Kept al s0 s) (c : Fin 16) (k : Coord) : Kept al s0
    (strictOnArrival s c k) := by
  unfold strictOnArrival
  try dsimp only
  repeat' first
    | exact hal.mono rfl
    | with_reducible assumption
    | with_reducible apply modBank_kept (hal.mono rfl)
    | intro _
    | with_reducible apply kept_ite
    | split
    | dsimp only

theorem noteScrub_kept (hal : Allow al [.chans, .cure]) (h : Kept al s0 s) (c : Fin 16) (k : Coord) : Kept al s0
    (noteScrub s c k) := by
  unfold noteScrub
  try dsimp only
  repeat' first
    | exact hal.mono rfl
    | with_reducible assumption
    | with_reducible apply modSch_kept (hal.mono rfl)
    | intro _
    | with_reducible apply kept_ite
    | split
    | simp only [keptCure (hal.mono rfl)]
    | dsimp only

theorem pushWrite_kept (hal : Allow al [.csr, .evt, .jrn, .chans]) (h : Kept al s0 s) (c : Fin 16) (w : WrEnt) : Kept al
    s0 (pushWrite s c w) := by
  unfold pushWrite
  repeat' first
    | exact hal.mono rfl | with_reducible assumption | with_reducible apply strictOnArrival_kept (hal.mono rfl)
    | with_reducible apply wqCheck_kept (hal.mono rfl)
    | with_reducible apply modSch_kept (hal.mono rfl)

theorem pushGlue_kept (hal : Allow al [.csr, .evt, .jrn, .chans]) (h : Kept al s0 s) (c : Fin 16) (g : GlueEnt)
    (raw : RawLine) : Kept al s0 (pushGlue s c g raw) := by
  unfold pushGlue
  try dsimp only
  repeat' first
    | exact hal.mono rfl
    | with_reducible assumption
    | with_reducible apply pushWrite_kept (hal.mono rfl)
    | with_reducible apply doIf_kept
    | with_reducible apply cntInc_kept (hal.mono rfl)
    | intro _
    | with_reducible apply kept_ite
    | split
    | dsimp only

theorem glueStep_kept (hal : Allow al [.csr, .evt, .jrn, .chans]) (h : Kept al s0 s) (c : Fin 16) (g : GlueEnt) : Kept al
    s0 (glueStep s c g) := by
  unfold glueStep
  try dsimp only
  repeat' first
    | exact hal.mono rfl
    | with_reducible assumption
    | with_reducible apply modSch_kept (hal.mono rfl)
    | with_reducible apply cntInc_kept (hal.mono rfl)
    | with_reducible apply pushGlue_kept (hal.mono rfl)
    | with_reducible apply promoteLine_kept (hal.mono rfl)
    | with_reducible apply strictOnArrival_kept (hal.mono rfl)
    | intro _
    | with_reducible apply kept_ite
    | split
    | dsimp only

theorem glueAdvance_kept (hal : Allow al [.csr, .evt, .jrn, .chans]) (h : Kept al s0 s) (c : Fin 16) : Kept al s0
    (glueAdvance s c) := by
  unfold glueAdvance
  repeat' first
    | exact hal.mono rfl | with_reducible assumption | with_reducible apply forEach_kept
    | with_reducible apply glueStep_kept (hal.mono rfl) | intro _

theorem glueClose_kept (hal : Allow al [.csr, .evt, .jrn, .chans]) (h : Kept al s0 s) (c : Fin 16) (p : GlueEnt → Bool)
    (byRead : Bool) : Kept al s0 (glueClose s c p byRead) := by
  unfold glueClose
  try dsimp only
  repeat' first
    | exact hal.mono rfl
    | with_reducible assumption
    | with_reducible apply glueAdvance_kept (hal.mono rfl)
    | with_reducible apply modSch_kept (hal.mono rfl)
    | intro _
    | with_reducible apply kept_ite
    | split
    | dsimp only

theorem glueJoin_kept (_hal : Allow al []) (h : Kept al s0 s) (w : PartWr) (g : GlueEnt) : Kept al s0 (glueJoin s w g).2 := by
  unfold glueJoin
  repeat' first | exact hal.mono rfl | with_reducible assumption | split

theorem fillOpen_kept (_hal : Allow al []) (h : Kept al s0 s) (g : GlueEnt) : Kept al s0 (fillOpen s g).2 := by
  unfold fillOpen
  repeat' first | exact hal.mono rfl | with_reducible assumption | with_reducible apply drawFree_kept | split

theorem gluePut_kept (hal : Allow al [.csr, .evt, .jrn, .chans]) (h : Kept al s0 s) (c : Fin 16) (w : PartWr) : KeptOpt al
    s0 (gluePut s c w) := by
  unfold gluePut
  repeat' first
    | exact hal.mono rfl | with_reducible assumption | with_reducible apply glueJoin_kept (hal.mono rfl)
    | with_reducible apply fillOpen_kept (hal.mono rfl)
    | with_reducible apply glueAdvance_kept (hal.mono rfl) | with_reducible apply modSch_kept (hal.mono rfl) | split
    | dsimp only
    | exact KeptOpt.none _ | with_reducible apply KeptOpt.some

theorem enterRead_kept (hal : Allow al [.csr, .evt, .jrn, .chans]) (h : Kept al s0 s) (c : Fin 16) (e : RdEnt) : KeptOpt
    al s0 (enterRead s c e) := by
  unfold enterRead
  repeat' first
    | exact hal.mono rfl | with_reducible assumption | with_reducible apply strictOnArrival_kept (hal.mono rfl)
    | with_reducible apply modSch_kept (hal.mono rfl)
    | with_reducible apply promoteLine_kept (hal.mono rfl) | with_reducible apply glueClose_kept (hal.mono rfl) | split
    | dsimp only
    | exact KeptOpt.none _ | with_reducible apply KeptOpt.some

theorem enterWrite_kept (hal : Allow al [.csr, .evt, .jrn, .chans, .cure]) (h : Kept al s0 s) (c : Fin 16) (w : WrEnt) :
    KeptOpt al s0 (enterWrite s c w) := by
  unfold enterWrite
  repeat' first
    | exact hal.mono rfl | with_reducible assumption | with_reducible apply noteScrub_kept (hal.mono rfl)
    | with_reducible apply gluePut_kept (hal.mono rfl)
    | with_reducible apply pushWrite_kept (hal.mono rfl) | with_reducible apply modSch_kept (hal.mono rfl) | split
    | dsimp only
    | exact KeptOpt.none _ | with_reducible apply KeptOpt.some

theorem enterOne_kept (hal : Allow al [.csr, .evt, .jrn, .chans, .cure]) (h : Kept al s0 s) (c : Fin 16) (a : Arrival) :
    KeptOpt al s0 (enterOne s c a) := by
  unfold enterOne
  repeat' first
    | exact hal.mono rfl | with_reducible assumption | with_reducible apply enterRead_kept (hal.mono rfl)
    | with_reducible apply enterWrite_kept (hal.mono rfl)
    | with_reducible apply gluePut_kept (hal.mono rfl) | with_reducible apply noteScrub_kept (hal.mono rfl) | split

theorem arrivalLeft_kept (hal : Allow al [.csr, .evt, .jrn, .ports, .adm, .tt, .results, .cure]) (h : Kept al s0 s)
    (a : Arrival) : Kept al s0 (arrivalLeft s a) := by
  unfold arrivalLeft
  try dsimp only
  repeat' first
    | exact hal.mono rfl
    | with_reducible assumption
    | with_reducible apply ttMod_kept (hal.mono rfl)
    | with_reducible apply ttLeave_kept (hal.mono rfl)
    | intro _
    | with_reducible apply kept_ite
    | split
    | dsimp only

theorem glueShut_kept (hal : Allow al [.csr, .evt, .jrn, .chans]) (h : Kept al s0 s) (c : Fin 16) (a : Arrival) : Kept al
    s0 (glueShut s c a) := by
  unfold glueShut
  try dsimp only
  repeat' first
    | exact hal.mono rfl
    | with_reducible assumption
    | with_reducible apply modSch_kept (hal.mono rfl)
    | with_reducible apply glueClose_kept (hal.mono rfl)
    | intro _
    | with_reducible apply kept_ite
    | split
    | dsimp only

theorem queueEntryFrom_kept (hal : Allow al [.csr, .evt, .jrn, .ports, .adm, .tt, .results, .chans, .cure]) (c : Fin 16) :
    ∀ (xs : List Arrival) (seen : List Coord) (s : State), Kept al s0 s →
    Kept al s0 (queueEntryFrom s c xs seen)
  | [], _, _, h => h
  | a :: rest, seen, s, h => by
    have ih := queueEntryFrom_kept (hal.mono rfl) c rest
    unfold queueEntryFrom
    split
    · exact ih seen s h
    · split
      · rename_i s' e
        have k : Kept al s0 s' := KeptOpt.get e (enterOne_kept (hal.mono rfl) h c a)
        exact arrivalLeft_kept (hal.mono rfl) (modSch_kept (hal.mono rfl) k c _) a
      · exact ih _ _ (glueShut_kept (hal.mono rfl) h ..)

theorem queueEntry_kept (hal : Allow al [.csr, .evt, .jrn, .ports, .adm, .tt, .results, .chans, .cure]) (h : Kept al s0 s)
    (c : Fin 16) : Kept al s0 (queueEntry s c) :=
  queueEntryFrom_kept (hal.mono rfl) c _ _ s h

theorem wdrainEval_kept (hal : Allow al [.csr, .evt, .jrn, .chans]) (h : Kept al s0 s) (c : Fin 16) : Kept al s0
    (wdrainEval s c) := by
  unfold wdrainEval
  repeat' first
    | exact hal.mono rfl | with_reducible assumption | with_reducible apply modSch_kept (hal.mono rfl)
    | with_reducible apply cntInc_kept (hal.mono rfl)
    | with_reducible apply glueClose_kept (hal.mono rfl) | with_reducible apply kept_ite | split

theorem idleWrite_kept (hal : Allow al [.chans]) (h : Kept al s0 s) (c : Fin 16) (sub : Fin 2) : Kept al s0
    (idleWrite s c sub) := by
  unfold idleWrite
  try dsimp only
  repeat' first
    | exact hal.mono rfl
    | with_reducible assumption
    | with_reducible apply modSch_kept (hal.mono rfl)
    | intro _
    | with_reducible apply kept_ite
    | split
    | dsimp only

theorem breakUpdate_kept (hal : Allow al [.csr, .chans]) (h : Kept al s0 s) (c : Fin 16) (sub : Nat) : Kept al s0
    (breakUpdate s c sub) := by
  unfold breakUpdate
  try dsimp only
  repeat' first
    | exact hal.mono rfl
    | with_reducible assumption
    | with_reducible apply modSch_kept (hal.mono rfl)
    | with_reducible apply cntInc_kept (hal.mono rfl)
    | intro _
    | with_reducible apply kept_ite
    | split
    | dsimp only

theorem logCmd_kept (hal : Allow al [.chans]) (h : Kept al s0 s) (c : Fin 16) (cmd : RdEnt ⊕ WrEnt) : Kept al s0
    (logCmd s c cmd) := (keptChans (s := s) (hal.mono rfl)).2 h

theorem strictEnd_kept (hal : Allow al [.chans]) (h : Kept al s0 s) (c : Fin 16) (b : Nat) : Kept al s0
    (strictEnd s c b) := by
  unfold strictEnd
  try dsimp only
  repeat' first
    | exact hal.mono rfl
    | with_reducible assumption
    | with_reducible apply modBank_kept (hal.mono rfl)
    | intro _
    | with_reducible apply kept_ite
    | split
    | dsimp only

theorem issueCol_kept (hal : Allow al [.csr, .chans, .dram]) (h : Kept al s0 s) (c : Fin 16) (r : QReq) (t : Nat) : Kept
    al s0 (issueCol s c r t) := by
  unfold issueCol
  repeat' first
    | exact hal.mono rfl | with_reducible assumption | with_reducible apply doIf_kept
    | with_reducible apply cntInc_kept (hal.mono rfl)
    | with_reducible apply modSch_kept (hal.mono rfl) | with_reducible apply logCmd_kept (hal.mono rfl)
    | with_reducible apply modBank_kept (hal.mono rfl)
    | with_reducible apply setDramLine_kept (hal.mono rfl) | with_reducible apply strictEnd_kept (hal.mono rfl) | intro _
    | split

theorem issueAct_kept (hal : Allow al [.csr, .evt, .jrn, .chans]) (h : Kept al s0 s) (c : Fin 16) (k : Coord) (t : Nat) :
    Kept al s0 (issueAct s c k t) := by
  unfold issueAct
  repeat' first
    | exact hal.mono rfl | with_reducible assumption | with_reducible apply modBank_kept (hal.mono rfl)
    | with_reducible apply modSch_kept (hal.mono rfl)
    | with_reducible apply doIf_kept | with_reducible apply cntInc_kept (hal.mono rfl)
    | with_reducible apply countAct_kept (hal.mono rfl) | intro _

theorem issueCmd_kept (hal : Allow al [.csr, .evt, .jrn, .chans, .dram]) (h : Kept al s0 s) (c : Fin 16) (r : QReq)
    (cmd : NextCmd) (t : Nat) : Kept al s0 (issueCmd s c r cmd t) := by
  unfold issueCmd
  repeat' first
    | exact hal.mono rfl | with_reducible assumption | with_reducible apply issueCol_kept (hal.mono rfl)
    | with_reducible apply issueAct_kept (hal.mono rfl)
    | with_reducible apply modBank_kept (hal.mono rfl) | split

theorem noteRfmWait_kept (hal : Allow al [.csr, .evt, .jrn, .chans]) (h : Kept al s0 s) (c : Fin 16) : Kept al s0
    (noteRfmWait s c) := by
  unfold noteRfmWait
  repeat' first
    | exact hal.mono rfl | with_reducible assumption | with_reducible apply forEach_kept
    | with_reducible apply cntInc_kept (hal.mono rfl)
    | with_reducible apply modRef_kept (hal.mono rfl) | with_reducible apply ev_kept (hal.mono rfl) | intro _
    | with_reducible apply kept_ite

theorem exitPowerDown_kept (hal : Allow al [.csr, .chans]) (h : Kept al s0 s) (c : Fin 16) : Kept al s0
    (exitPowerDown s c).2 := by
  unfold exitPowerDown
  try dsimp only
  repeat' first
    | exact hal.mono rfl
    | with_reducible assumption
    | with_reducible apply cntInc_kept (hal.mono rfl)
    | with_reducible apply modRank_kept (hal.mono rfl)
    | intro _
    | with_reducible apply kept_ite
    | split
    | dsimp only

theorem enterPowerDown_kept (hal : Allow al [.chans]) (h : Kept al s0 s) (c : Fin 16) (rank : Nat) : Kept al s0
    (enterPowerDown s c rank) := by
  unfold enterPowerDown
  try dsimp only
  repeat' first
    | exact hal.mono rfl
    | with_reducible assumption
    | with_reducible apply seqBoth_kept (hal.mono rfl)
    | with_reducible apply modRank_kept (hal.mono rfl)
    | intro _
    | with_reducible apply kept_ite
    | split
    | dsimp only

theorem pdReturn_kept (hal : Allow al [.chans]) (h : Kept al s0 s) (c : Fin 16) : Kept al s0 (pdReturn s c) := by
  unfold pdReturn
  try dsimp only
  repeat' first
    | exact hal.mono rfl
    | with_reducible assumption
    | with_reducible apply forEach_kept
    | with_reducible apply modRank_kept (hal.mono rfl)
    | with_reducible apply enterPowerDown_kept (hal.mono rfl)
    | intro _
    | with_reducible apply kept_ite
    | split
    | dsimp only

theorem rereadPump_kept (hal : Allow al [.chans]) (h : Kept al s0 s) (c : Fin 16) : Kept al s0 (rereadPump s c) := by
  unfold rereadPump
  try dsimp only
  repeat' first
    | exact hal.mono rfl
    | with_reducible assumption
    | with_reducible apply modSch_kept (hal.mono rfl)
    | intro _
    | with_reducible apply kept_ite
    | split
    | dsimp only

theorem seqSlot_kept (hal : Allow al [.chans]) (h : Kept al s0 s) (c : Fin 16) (sub : Nat) : Kept al s0
    (seqSlot s c sub) := by
  unfold seqSlot
  try dsimp only
  repeat' first
    | exact hal.mono rfl
    | with_reducible assumption
    | with_reducible apply modSch_kept (hal.mono rfl)
    | intro _
    | with_reducible apply kept_ite
    | split
    | dsimp only

theorem issueSub_kept (hal : Allow al [.beat, .csr, .evt, .jrn, .adm, .chans, .dram]) (h : Kept al s0 s) (c : Fin 16)
    (sub : Nat) : Kept al s0 (issueSub s c sub) := by
  unfold issueSub
  try dsimp only
  repeat' first
    | exact hal.mono rfl
    | with_reducible assumption
    | with_reducible apply doIf_kept
    | with_reducible apply breakUpdate_kept (hal.mono rfl)
    | with_reducible apply modSch_kept (hal.mono rfl)
    | with_reducible apply seqSlot_kept (hal.mono rfl)
    | with_reducible apply issueCmd_kept (hal.mono rfl)
    | intro _
    | with_reducible apply kept_ite
    | split
    | dsimp only

theorem srExit_kept (hal : Allow al [.chans]) (h : Kept al s0 s) (c : Fin 16) : Kept al s0 (srExit s c) := by
  unfold srExit
  try dsimp only
  repeat' first
    | exact hal.mono rfl
    | with_reducible assumption
    | with_reducible apply forEach_kept
    | with_reducible apply modRank_kept (hal.mono rfl)
    | with_reducible apply modSch_kept (hal.mono rfl)
    | with_reducible apply modRef_kept (hal.mono rfl)
    | with_reducible apply modKeep_kept (hal.mono rfl)
    | with_reducible apply foldl_kept
    | with_reducible apply foldl_kept_fst
    | with_reducible apply foldl_kept_snd
    | intro _
    | with_reducible apply kept_ite
    | split
    | dsimp only

theorem srLeave_kept (hal : Allow al [.csr, .chans]) (h : Kept al s0 s) (c : Fin 16) : Kept al s0 (srLeave s c) := by
  unfold srLeave
  try dsimp only
  repeat' first
    | exact hal.mono rfl
    | with_reducible assumption
    | with_reducible apply cntInc_kept (hal.mono rfl)
    | with_reducible apply modRef_kept (hal.mono rfl)
    | with_reducible apply srExit_kept (hal.mono rfl)
    | with_reducible apply refSrExit_kept (hal.mono rfl)
    | intro _
    | with_reducible apply kept_ite
    | split
    | dsimp only

theorem srWake_kept (hal : Allow al [.csr, .chans]) (h : Kept al s0 s) (c : Fin 16) : Kept al s0 (srWake s c) := by
  unfold srWake
  try dsimp only
  repeat' first
    | exact hal.mono rfl
    | with_reducible assumption
    | with_reducible apply srLeave_kept (hal.mono rfl)
    | intro _
    | with_reducible apply kept_ite
    | split
    | dsimp only

theorem srCommit_kept (hal : Allow al [.chans]) (h : Kept al s0 s) (c : Fin 16) (rank : Nat) : Kept al s0
    (srCommit s c rank) := by
  unfold srCommit
  try dsimp only
  repeat' first
    | exact hal.mono rfl
    | with_reducible assumption
    | with_reducible apply modSch_kept (hal.mono rfl)
    | intro _
    | with_reducible apply kept_ite
    | split
    | dsimp only

theorem srStep_kept (hal : Allow al [.chans]) (h : Kept al s0 s) (c : Fin 16) : Kept al s0 (srStep s c) := by
  unfold srStep
  try dsimp only
  repeat' first
    | exact hal.mono rfl
    | with_reducible assumption
    | with_reducible apply closeBanks_kept (hal.mono rfl)
    | with_reducible apply modRank_kept (hal.mono rfl)
    | with_reducible apply rankWake_kept (hal.mono rfl)
    | with_reducible apply srCommit_kept (hal.mono rfl)
    | intro _
    | with_reducible apply kept_ite
    | split
    | dsimp only

theorem channelSrEntry_kept (hal : Allow al [.chans]) (h : Kept al s0 s) (c : Fin 16) : Kept al s0 (channelSrEntry s c) := by
  unfold channelSrEntry
  try dsimp only
  repeat' first
    | exact hal.mono rfl
    | with_reducible assumption
    | with_reducible apply modRef_kept (hal.mono rfl)
    | with_reducible apply modSch_kept (hal.mono rfl)
    | intro _
    | with_reducible apply kept_ite
    | split
    | dsimp only

theorem rankPowerDown_kept (hal : Allow al [.chans]) (h : Kept al s0 s) (c : Fin 16) (rank : Nat) : Kept al s0
    (rankPowerDown s c rank) := by
  unfold rankPowerDown
  try dsimp only
  repeat' first
    | exact hal.mono rfl
    | with_reducible assumption
    | with_reducible apply modRank_kept (hal.mono rfl)
    | with_reducible apply enterPowerDown_kept (hal.mono rfl)
    | intro _
    | with_reducible apply kept_ite
    | split
    | dsimp only

theorem mclkEdge_kept (hal : Allow al [.chans]) (h : Kept al s0 s) (c : Fin 16) : Kept al s0 (mclkEdge s c) := by
  unfold mclkEdge
  try dsimp only
  repeat' first
    | exact hal.mono rfl
    | with_reducible assumption
    | with_reducible apply rtNote_kept (hal.mono rfl)
    | with_reducible apply modSch_kept (hal.mono rfl)
    | with_reducible apply slotDecide_kept (hal.mono rfl)
    | with_reducible apply doIf_kept
    | with_reducible apply pdReturn_kept (hal.mono rfl)
    | with_reducible apply rereadPump_kept (hal.mono rfl)
    | intro _
    | with_reducible apply kept_ite
    | split
    | dsimp only

theorem schedIssue_kept (hal : Allow al [.beat, .csr, .evt, .jrn, .adm, .chans, .dram]) (h : Kept al s0 s) (c : Fin 16) :
    Kept al s0 (schedIssue s c) := by
  unfold schedIssue
  try dsimp only
  repeat' first
    | exact hal.mono rfl
    | with_reducible assumption
    | with_reducible apply mclkEdge_kept (hal.mono rfl)
    | with_reducible apply seqSlot_kept (hal.mono rfl)
    | with_reducible apply exitPowerDown_kept (hal.mono rfl)
    | with_reducible apply noteRfmWait_kept (hal.mono rfl)
    | with_reducible apply glueAdvance_kept (hal.mono rfl)
    | with_reducible apply issueSub_kept (hal.mono rfl)
    | with_reducible apply srWake_kept (hal.mono rfl)
    | with_reducible apply srStep_kept (hal.mono rfl)
    | intro _
    | with_reducible apply kept_ite
    | split
    | refine kept_snd (by with_reducible assumption) (exitPowerDown_kept (hal.mono rfl) ?_ ..)
    | dsimp only

theorem pageIdleClose_kept (hal : Allow al [.chans]) (h : Kept al s0 s) (c : Fin 16) (b : BankId) : Kept al s0
    (pageIdleClose s c b) := by
  unfold pageIdleClose
  try dsimp only
  repeat' first
    | exact hal.mono rfl
    | with_reducible assumption
    | with_reducible apply seqTake_kept (hal.mono rfl)
    | with_reducible apply closeBanks_kept (hal.mono rfl)
    | intro _
    | with_reducible apply kept_ite
    | split
    | dsimp only

theorem glueWindowEnd_kept (hal : Allow al [.csr, .evt, .jrn, .chans]) (h : Kept al s0 s) (c : Fin 16) (gid : Nat) : Kept
    al s0 (glueWindowEnd s c gid) := by
  unfold glueWindowEnd
  repeat' first | exact hal.mono rfl | with_reducible assumption | with_reducible apply glueClose_kept (hal.mono rfl)

end Sys2Proof.Machine
end

