-- ==== Sys2Proof/Laws/KeptHold.lean ====
section
/-!
SUPPORT. What the operations of Machine/Hold.lean keep.
-/
namespace Sys2Proof.Machine
set_option linter.all false
set_option Elab.async false
open Sys2Proof

variable {al : Part → Bool} {s0 s : State}

theorem pendApply_kept (hal : Allow al [.csr]) (h : Kept al s0 s) (r : RegRef) : Kept al s0 (pendApply s r) := by
  unfold pendApply
  repeat' first | exact hal.mono rfl | with_reducible assumption | with_reducible apply setReg_kept (hal.mono rfl) | split

theorem pendDrop_kept (hal : Allow al [.csr]) (h : Kept al s0 s) (lo hi : Nat) : Kept al s0 (pendDrop s lo hi) :=
    (keptCsr (hal.mono rfl)).2 h

theorem chanPendDrop_kept (hal : Allow al [.csr]) (h : Kept al s0 s) (c : Fin 16) : Kept al s0 (chanPendDrop s c) :=
    (keptCsr (hal.mono rfl)).2 h

theorem relErr_kept (hal : Allow al [.csr, .evt, .jrn]) (h : Kept al s0 s) (c : Fin 16) (n : Nat) : Kept al s0
    (relErr s c n) := by
  unfold relErr
  repeat' first
    | exact hal.mono rfl | with_reducible assumption | with_reducible apply setReg_kept (hal.mono rfl)
    | with_reducible apply evd_kept (hal.mono rfl)
    | with_reducible apply kept_ite

theorem schRelease_kept (hal : Allow al [.csr, .evt, .jrn]) (h : Kept al s0 s) (c : Fin 16) (gradeErr : Option Nat) : Kept
    al s0 (schRelease s c gradeErr).1 := by
  unfold schRelease
  repeat' first
    | exact hal.mono rfl | with_reducible assumption | with_reducible apply pendApply_kept (hal.mono rfl)
    | with_reducible apply relErr_kept (hal.mono rfl)
    | with_reducible apply foldl_kept | intro _ | split | dsimp only

theorem trfcRelease_kept (hal : Allow al [.csr, .evt, .jrn]) (h : Kept al s0 s) (c : Fin 16) : Kept al s0
    (trfcRelease s c) := by
  unfold trfcRelease
  repeat' first
    | exact hal.mono rfl | with_reducible assumption | with_reducible apply pendApply_kept (hal.mono rfl)
    | with_reducible apply modRef_kept (hal.mono rfl)
    | with_reducible apply evd_kept (hal.mono rfl) | with_reducible apply refErr_kept (hal.mono rfl)
    | with_reducible apply kept_ite | split

theorem forecastNote_kept (hal : Allow al [.chans]) (old : State) (h : Kept al s0 s) (c : Fin 16) : Kept al s0
    (forecastNote old s c) := by
  unfold forecastNote
  exact kept_ite h (modRef_kept (hal.mono rfl) h ..)

theorem setDas_kept (hal : Allow al [.map]) (h : Kept al s0 s) : Kept al s0 (setDas s) :=
    (keptMap (s := s) (hal.mono rfl)).2 h

theorem mapRelease_kept (hal : Allow al [.csr, .evt, .jrn, .map]) (h : Kept al s0 s) : Kept al s0 (mapRelease s).1 := by
  unfold mapRelease
  repeat' first
    | exact hal.mono rfl | with_reducible assumption | with_reducible apply pendApply_kept (hal.mono rfl)
    | with_reducible apply ev_kept (hal.mono rfl)
    | with_reducible apply foldl_kept | intro _ | split | simp only [keptMap (hal.mono rfl)]

theorem setReleasing_kept (hal : Allow al [.chans]) (h : Kept al s0 s) (c : Fin 16) (e : Nat) : Kept al s0
    (setReleasing s c e) := (keptChans (s := s) (hal.mono rfl)).2 h

theorem holdAbort_kept (hal : Allow al [.csr, .chans, .devEnd]) (h : Kept al s0 s) (c : Fin 16) (e : Nat) : Kept al s0
    (holdAbort s c e) := by
  unfold holdAbort
  repeat' first
    | exact hal.mono rfl | with_reducible assumption | with_reducible apply pendDrop_kept (hal.mono rfl)
    | with_reducible apply setReleasing_kept (hal.mono rfl)
    | with_reducible apply chanPendDrop_kept (hal.mono rfl) | with_reducible apply kept_ite
    | simp only [keptDevEnd (hal.mono rfl)]

theorem holdStart_kept (hal : Allow al [.csr, .evt, .jrn, .chans, .devEnd]) (h : Kept al s0 s) (c : Fin 16) (dev : Bool) :
    Kept al s0 (holdStart s c dev) := by
  unfold holdStart
  try dsimp only
  repeat' first
    | exact hal.mono rfl
    | with_reducible assumption
    | with_reducible apply modSch_kept (hal.mono rfl)
    | with_reducible apply probeAbort_kept (hal.mono rfl)
    | with_reducible apply glueClose_kept (hal.mono rfl)
    | with_reducible apply holdAbort_kept (hal.mono rfl)
    | intro _
    | with_reducible apply kept_ite
    | split
    | dsimp only

theorem chHold_kept (hal : Allow al [.csr, .evt, .jrn, .chans, .devEnd]) (h : Kept al s0 s) (c : Fin 16) : Kept al s0
    (chHold s c) := by
  unfold chHold
  try dsimp only
  repeat' first
    | exact hal.mono rfl
    | with_reducible assumption
    | with_reducible apply holdStart_kept (hal.mono rfl)
    | intro _
    | with_reducible apply kept_ite
    | split
    | dsimp only

theorem chHeld_kept (hal : Allow al [.csr, .evt, .jrn, .chans]) (h : Kept al s0 s) (c : Fin 16) : Kept al s0
    (chHeld s c) := by
  unfold chHeld
  try dsimp only
  repeat' first
    | exact hal.mono rfl
    | with_reducible assumption
    | with_reducible apply ev_kept (hal.mono rfl)
    | with_reducible apply modSch_kept (hal.mono rfl)
    | with_reducible apply closeBanks_kept (hal.mono rfl)
    | intro _
    | with_reducible apply kept_ite
    | split
    | dsimp only

theorem toRun_kept (hal : Allow al [.csr, .evt, .jrn, .chans, .devEnd]) (h : Kept al s0 s) (c : Fin 16) : Kept al s0
    (toRun s c) := by
  unfold toRun
  try dsimp only
  repeat' first
    | exact hal.mono rfl
    | with_reducible assumption
    | with_reducible apply evd_kept (hal.mono rfl)
    | with_reducible apply modSch_kept (hal.mono rfl)
    | with_reducible apply holdStart_kept (hal.mono rfl)
    | intro _
    | with_reducible apply kept_ite
    | split
    | dsimp only

theorem chanRelease_kept (hal : Allow al [.csr, .evt, .jrn, .chans]) (h : Kept al s0 s) (c : Fin 16) : Kept al s0
    (chanRelease s c) := by
  unfold chanRelease
  try dsimp only
  repeat' first
    | exact hal.mono rfl
    | with_reducible assumption
    | with_reducible apply schRelease_kept (hal.mono rfl)
    | with_reducible apply setReleasing_kept (hal.mono rfl)
    | with_reducible apply chanPendDrop_kept (hal.mono rfl)
    | with_reducible apply forecastNote_kept (hal.mono rfl)
    | with_reducible apply trfcRelease_kept (hal.mono rfl)
    | intro _
    | with_reducible apply kept_ite
    | split
    | refine kept_fst (by with_reducible assumption) (schRelease_kept (hal.mono rfl) ?_ ..)
    | dsimp only

theorem chHoldRelease_kept (hal : Allow al [.csr, .evt, .jrn, .chans, .devEnd]) (h : Kept al s0 s) (c : Fin 16) : Kept al
    s0 (chHoldRelease s c) := by
  unfold chHoldRelease
  repeat' first
    | exact hal.mono rfl | with_reducible assumption | with_reducible apply toRun_kept (hal.mono rfl)
    | with_reducible apply modSch_kept (hal.mono rfl)
    | with_reducible apply chanRelease_kept (hal.mono rfl) | split

theorem devForget_kept (hal : Allow al [.chans]) (h : Kept al s0 s) : Kept al s0 (devForget s) := by
  unfold devForget
  try dsimp only
  repeat' first
    | exact hal.mono rfl
    | with_reducible assumption
    | with_reducible apply forEach_kept
    | with_reducible apply modSch_kept (hal.mono rfl)
    | intro _
    | with_reducible apply kept_ite
    | split
    | dsimp only

theorem holdExpired_kept (hal : Allow al [.csr, .evt, .jrn, .chans, .devEnd]) (h : Kept al s0 s) (c : Fin 16) : Kept al s0
    (holdExpired s c) := by
  unfold holdExpired
  try dsimp only
  repeat' first
    | exact hal.mono rfl
    | with_reducible assumption
    | with_reducible apply forEach_kept
    | with_reducible apply doIf_kept
    | with_reducible apply devForget_kept (hal.mono rfl)
    | with_reducible apply ev_kept (hal.mono rfl)
    | with_reducible apply holdAbort_kept (hal.mono rfl)
    | intro _
    | with_reducible apply kept_ite
    | split
    | dsimp only

theorem chReleased_kept (hal : Allow al [.csr, .evt, .jrn, .chans, .devEnd]) (h : Kept al s0 s) (c : Fin 16) : Kept al s0
    (chReleased s c) := by
  unfold chReleased
  try dsimp only
  repeat' first
    | exact hal.mono rfl
    | with_reducible assumption
    | with_reducible apply toRun_kept (hal.mono rfl)
    | intro _
    | with_reducible apply kept_ite
    | split
    | dsimp only

theorem devHold_kept (hal : Allow al [.csr, .evt, .jrn, .chans, .devEnd]) (h : Kept al s0 s) : Kept al s0 (devHold s) := by
  unfold devHold
  repeat' first
    | exact hal.mono rfl | with_reducible assumption | with_reducible apply forEach_kept
    | with_reducible apply holdStart_kept (hal.mono rfl) | intro _
    | with_reducible apply kept_ite

theorem phyRelease_kept (hal : Allow al [.csr, .evt, .jrn]) (h : Kept al s0 s) : Kept al s0 (phyRelease s).1 := by
  unfold phyRelease
  repeat' first
    | exact hal.mono rfl | with_reducible assumption | with_reducible apply pendApply_kept (hal.mono rfl)
    | with_reducible apply forEach_kept
    | with_reducible apply ev_kept (hal.mono rfl) | with_reducible apply foldl_kept | intro _ | split | dsimp only

theorem devApply_kept (hal : Allow al [.csr, .evt, .jrn, .map, .vnr, .chans, .devEnd]) (h : Kept al s0 s) : Kept al s0
    (devApply s) := by
  unfold devApply
  try dsimp only
  repeat' first
    | exact hal.mono rfl
    | with_reducible assumption
    | with_reducible apply mapRelease_kept (hal.mono rfl)
    | with_reducible apply setDas_kept (hal.mono rfl)
    | with_reducible apply phyRelease_kept (hal.mono rfl)
    | with_reducible apply pendApply_kept (hal.mono rfl)
    | with_reducible apply schRelease_kept (hal.mono rfl)
    | with_reducible apply forecastNote_kept (hal.mono rfl)
    | with_reducible apply trfcRelease_kept (hal.mono rfl)
    | with_reducible apply setReleasing_kept (hal.mono rfl)
    | with_reducible apply chanPendDrop_kept (hal.mono rfl)
    | with_reducible apply pendDrop_kept (hal.mono rfl)
    | with_reducible apply foldl_kept
    | with_reducible apply foldl_kept_fst
    | with_reducible apply foldl_kept_snd
    | intro _
    | with_reducible apply kept_ite
    | split
    | simp only [keptVnrDevEnd (hal.mono rfl)]
    | refine kept_fst (by with_reducible assumption) (mapRelease_kept (hal.mono rfl) ?_ ..)
    | refine kept_fst (by with_reducible assumption) (phyRelease_kept (hal.mono rfl) ?_ ..)
    | refine kept_fst (by with_reducible assumption) (schRelease_kept (hal.mono rfl) ?_ ..)
    | dsimp only

theorem devRelease_kept (hal : Allow al [.csr, .evt, .jrn, .map, .vnr, .chans, .devEnd]) (h : Kept al s0 s) : Kept al s0
    (devRelease s) := by
  unfold devRelease
  try dsimp only
  repeat' first
    | exact hal.mono rfl
    | with_reducible assumption
    | with_reducible apply devApply_kept (hal.mono rfl)
    | with_reducible apply forEach_kept
    | with_reducible apply toRun_kept (hal.mono rfl)
    | with_reducible apply modSch_kept (hal.mono rfl)
    | with_reducible apply chanRelease_kept (hal.mono rfl)
    | with_reducible apply devForget_kept (hal.mono rfl)
    | intro _
    | with_reducible apply kept_ite
    | split
    | simp only [keptDevEnd (hal.mono rfl)]
    | dsimp only

end Sys2Proof.Machine
end

