-- ==== Sys2Proof/Laws/KeptMirror.lean ====
section
/-!
SUPPORT. What the operations of Machine/Mirror.lean keep.
-/
namespace Sys2Proof.Machine
set_option linter.all false
set_option Elab.async false
open Sys2Proof

variable {al : Part → Bool} {s0 s : State}

theorem staleSet_kept (hal : Allow al [.map]) (h : Kept al s0 s) (p : Nat) : Kept al s0 (staleSet s p) :=
    (keptMap (s := s) (hal.mono rfl)).2 h

theorem staleClear_kept (hal : Allow al [.map]) (h : Kept al s0 s) (p : Nat) : Kept al s0 (staleClear s p) :=
    (keptMap (s := s) (hal.mono rfl)).2 h

theorem outPush_kept (hal : Allow al [.cure]) (h : Kept al s0 s) (c : Nat) (g : OutSeg) : Kept al s0 (outPush s c g) :=
    (keptCure (s := s) (hal.mono rfl)).2 h

theorem markWritten_kept (hal : Allow al [.map]) (h : Kept al s0 s) (t : TtEntry) : Kept al s0 (markWritten s t) := by
  unfold markWritten
  try dsimp only
  repeat' first
    | exact hal.mono rfl
    | with_reducible assumption
    | with_reducible apply doIf_kept
    | with_reducible apply staleSet_kept (hal.mono rfl)
    | intro _
    | with_reducible apply kept_ite
    | split
    | dsimp only

theorem noteEpoch_kept (hal : Allow al [.csr, .evt, .jrn, .ports]) (h : Kept al s0 s) (t : TtEntry)
    (e : Option (BitVec 32)) : Kept al s0 (noteEpoch s t e) := by
  unfold noteEpoch
  repeat' first | exact hal.mono rfl | with_reducible assumption | with_reducible apply fenceNote_kept (hal.mono rfl) | split

theorem performed_kept (hal : Allow al [.csr, .evt, .jrn, .ports, .adm, .tt, .results, .map, .cure]) (h : Kept al s0 s)
    (t : TtEntry) (ap : Applied) (hold : Bool) : Kept al s0 (performed s t ap hold) := by
  unfold performed
  try dsimp only
  repeat' first
    | exact hal.mono rfl
    | with_reducible assumption
    | with_reducible apply ttMod_kept (hal.mono rfl)
    | with_reducible apply ttDue_kept (hal.mono rfl)
    | with_reducible apply noteEpoch_kept (hal.mono rfl)
    | with_reducible apply markWritten_kept (hal.mono rfl)
    | intro _
    | with_reducible apply kept_ite
    | split
    | dsimp only

theorem failReq_kept (hal : Allow al [.csr, .evt, .jrn, .ports, .adm, .tt, .results, .cure]) (h : Kept al s0 s)
    (t : TtEntry) (code : Code) : Kept al s0 (failReq s t code) := by
  unfold failReq
  repeat' first
    | exact hal.mono rfl | with_reducible assumption | with_reducible apply noteEpoch_kept (hal.mono rfl)
    | with_reducible apply ttMod_kept (hal.mono rfl)
    | with_reducible apply ttLeave_kept (hal.mono rfl)

theorem partDone_kept (hal : Allow al [.csr, .evt, .jrn, .ports, .adm, .tt, .results, .cure]) (h : Kept al s0 s)
    (rid : Nat) : Kept al s0 (partDone s rid) := by
  unfold partDone
  try dsimp only
  repeat' first
    | exact hal.mono rfl
    | with_reducible assumption
    | with_reducible apply ttMod_kept (hal.mono rfl)
    | with_reducible apply ttLeave_kept (hal.mono rfl)
    | intro _
    | with_reducible apply kept_ite
    | split
    | dsimp only

theorem forward_kept (hal : Allow al [.csr, .evt, .jrn, .ports, .adm, .tt, .results, .map, .cure]) (h : Kept al s0 s)
    (rid : Nat) : Kept al s0 (forward s rid) := by
  unfold forward
  repeat' first
    | exact hal.mono rfl | with_reducible assumption | with_reducible apply ttLeave_kept (hal.mono rfl)
    | with_reducible apply ttMod_kept (hal.mono rfl)
    | with_reducible apply failReq_kept (hal.mono rfl) | with_reducible apply cntInc_kept (hal.mono rfl)
    | with_reducible apply doIf_kept
    | with_reducible apply staleSet_kept (hal.mono rfl) | with_reducible apply outPush_kept (hal.mono rfl) | intro _
    | with_reducible apply kept_ite
    | split

theorem fwdPump_kept (hal : Allow al [.csr, .evt, .jrn, .ports, .adm, .tt, .results, .map, .cure]) (h : Kept al s0 s) :
    Kept al s0 (fwdPump s) := by
  unfold fwdPump
  try dsimp only
  repeat' first
    | exact hal.mono rfl
    | with_reducible assumption
    | with_reducible apply forEach_kept
    | with_reducible apply forward_kept (hal.mono rfl)
    | intro _
    | with_reducible apply kept_ite
    | split
    | dsimp only

theorem fwdAnswer_kept (hal : Allow al [.csr, .evt, .jrn, .ports, .adm, .tt, .results, .map, .cure]) (h : Kept al s0 s)
    (rid : Nat) (ans : SegAns) : Kept al s0 (fwdAnswer s rid ans) := by
  unfold fwdAnswer
  repeat' first
    | exact hal.mono rfl | with_reducible assumption | with_reducible apply ttLeave_kept (hal.mono rfl)
    | with_reducible apply ttMod_kept (hal.mono rfl)
    | with_reducible apply noteEpoch_kept (hal.mono rfl) | with_reducible apply failReq_kept (hal.mono rfl)
    | with_reducible apply fwdPump_kept (hal.mono rfl) | split

theorem toSlot_kept (hal : Allow al [.tt]) (h : Kept al s0 s) (rid : Nat) (e : Fin 8) (f : TtEntry → TtEntry) : Kept al s0
    (toSlot s rid e f) :=
  (keptTt (s := s) (hal.mono rfl)).2 h

theorem frameAccess_kept (hal : Allow al [.adm]) (h : Kept al s0 s) (t : TtEntry) (das : Nat) (data : LineData)
    (poison : Bool) : Kept al s0 (frameAccess s t das data poison) :=
  (keptAdm (s := s) (hal.mono rfl)).2 h

theorem lendWrite_kept (hal : Allow al [.csr, .adm, .tt, .cure]) (h : Kept al s0 s) (t : TtEntry) (data : LineData)
    (poison : Bool) : Kept al s0 (lendWrite s t data poison) := by
  unfold lendWrite
  repeat' first
    | exact hal.mono rfl | with_reducible assumption | with_reducible apply toSlot_kept (hal.mono rfl)
    | with_reducible apply cntInc_kept (hal.mono rfl)
    | with_reducible apply outPush_kept (hal.mono rfl) | with_reducible apply frameAccess_kept (hal.mono rfl)
    | with_reducible apply ttMod_kept (hal.mono rfl) | split
    | dsimp only

end Sys2Proof.Machine
end

