-- ==== Sys2Proof/Laws/KeptVeneer.lean ====
section
/-!
SUPPORT. What the operations of Machine/Veneer.lean keep.
-/
namespace Sys2Proof.Machine
set_option linter.all false
set_option Elab.async false
open Sys2Proof

variable {al : Part → Bool} {s0 s : State}

theorem modSlice_kept (hal : Allow al [.vnr]) (h : Kept al s0 s) (sl : Fin 16) (f : VSlice → VSlice) : Kept al s0
    (modSlice s sl f) := (keptVnr (s := s) (hal.mono rfl)).2 h

theorem putSet_kept (hal : Allow al [.vnr]) (h : Kept al s0 s) (sl : Fin 16) (st : Nat) (w : List VWay) : Kept al s0
    (putSet s sl st w) :=
  (keptVnr (s := s) (hal.mono rfl)).2 h

theorem putLine_kept (hal : Allow al [.vnr]) (h : Kept al s0 s) (sl : Fin 16) (st tag : Nat) (l : Option VLine) : Kept al
    s0 (putLine s sl st tag l) :=
  (keptVnr (s := s) (hal.mono rfl)).2 h

theorem modMiss_kept (hal : Allow al [.vnr]) (h : Kept al s0 s) (sl : Fin 16) (tag : Nat) (f : MissEnt → MissEnt) : Kept
    al s0 (modMiss s sl tag f) :=
  (keptVnr (s := s) (hal.mono rfl)).2 h

theorem forceWt_kept (hal : Allow al [.csr, .evt, .jrn, .vnr]) (h : Kept al s0 s) : Kept al s0 (forceWt s) := by
  unfold forceWt
  repeat' first
    | exact hal.mono rfl | with_reducible assumption | with_reducible apply cntInc_kept (hal.mono rfl)
    | with_reducible apply ev_kept (hal.mono rfl)
    | with_reducible apply kept_ite | simp only [keptVnr (hal.mono rfl)]

theorem overUpd_kept (hal : Allow al [.vnr]) (h : Kept al s0 s) : Kept al s0 (overUpd s) := by
  unfold overUpd
  try dsimp only
  repeat' first
    | exact hal.mono rfl
    | with_reducible assumption
    | intro _
    | with_reducible apply kept_ite
    | split
    | simp only [keptVnr (hal.mono rfl)]
    | dsimp only

theorem toChan_kept (hal : Allow al [.chans]) (h : Kept al s0 s) (das : Nat) (rid : Option Nat)
    (w : RdEnt ⊕ WrEnt ⊕ PartWr) : Kept al s0 (toChan s das rid w) :=
  (keptChans (s := s) (hal.mono rfl)).2 h

theorem lineToWq_kept (hal : Allow al [.map, .chans]) (h : Kept al s0 s) (das : Nat) (rid : Option Nat) (raw : RawLine)
    (rt : Bool) : Kept al s0 (lineToWq s das rid raw rt) := by
  unfold lineToWq
  try dsimp only
  repeat' first
    | exact hal.mono rfl
    | with_reducible assumption
    | with_reducible apply toChan_kept (hal.mono rfl)
    | with_reducible apply mapWrite_kept (hal.mono rfl)
    | intro _
    | with_reducible apply kept_ite
    | split
    | dsimp only

theorem lineToRq_kept (hal : Allow al [.chans]) (h : Kept al s0 s) (das : Nat) (rid : Option Nat) (r : Req) (stamp : Nat)
    (dest : RdDest) : Kept al s0 (lineToRq s das rid r stamp dest) :=
  (keptChans (s := s) (hal.mono rfl)).2 h

theorem partToGlue_kept (hal : Allow al [.map, .chans]) (h : Kept al s0 s) (das : Nat) (rid : Option Nat) (t : TtEntry) :
    Kept al s0 (partToGlue s das rid t) := by
  unfold partToGlue
  try dsimp only
  repeat' first
    | exact hal.mono rfl
    | with_reducible assumption
    | with_reducible apply toChan_kept (hal.mono rfl)
    | with_reducible apply mapWrite_kept (hal.mono rfl)
    | intro _
    | with_reducible apply kept_ite
    | split
    | dsimp only

theorem install_kept (hal : Allow al [.csr, .vnr]) (h : Kept al s0 s) (sl : Fin 16) (st : Nat) (l : VLine) : KeptOpt al s0
    (install s sl st l) := by
  unfold install
  repeat' first
    | exact hal.mono rfl | with_reducible assumption | with_reducible apply modSlice_kept (hal.mono rfl)
    | with_reducible apply cntInc_kept (hal.mono rfl)
    | with_reducible apply putSet_kept (hal.mono rfl) | intro _ | split | with_reducible apply KeptOpt.map

theorem pinAllowed_kept (hal : Allow al [.csr, .evt, .jrn]) (h : Kept al s0 s) (sl : Fin 16) (st : Nat) : Kept al s0
    (pinAllowed s sl st).2 := by
  unfold pinAllowed
  try dsimp only
  repeat' first
    | exact hal.mono rfl
    | with_reducible assumption
    | with_reducible apply evd_kept (hal.mono rfl)
    | with_reducible apply cntInc_kept (hal.mono rfl)
    | intro _
    | with_reducible apply kept_ite
    | split
    | dsimp only

theorem writeHeld_kept (hal : Allow al [.csr, .evt, .jrn, .ports, .adm, .tt, .results, .map, .vnr, .chans, .cure])
    (h : Kept al s0 s) (t : TtEntry) (sl : Fin 16) (st : Nat) (l : VLine) (attr : Nat) (ap : Applied) : Kept al s0
    (writeHeld s t sl st l attr ap) := by
  unfold writeHeld
  try dsimp only
  repeat' first
    | exact hal.mono rfl
    | with_reducible assumption
    | with_reducible apply lineToWq_kept (hal.mono rfl)
    | with_reducible apply ttMod_kept (hal.mono rfl)
    | with_reducible apply putLine_kept (hal.mono rfl)
    | with_reducible apply lendWrite_kept (hal.mono rfl)
    | with_reducible apply ttLeave_kept (hal.mono rfl)
    | with_reducible apply overUpd_kept (hal.mono rfl)
    | with_reducible apply forceWt_kept (hal.mono rfl)
    | intro _
    | with_reducible apply kept_ite
    | split
    | dsimp only

theorem serveHit_kept (hal : Allow al [.csr, .evt, .jrn, .ports, .adm, .tt, .results, .map, .vnr, .chans, .cure])
    (h : Kept al s0 s) (t : TtEntry) (sl : Fin 16) (st : Nat) (l : VLine) (attr : Nat) (data : LineData) (poison : Bool) :
    Kept al s0 (serveHit s t sl st l attr data poison) := by
  unfold serveHit
  repeat' first
    | exact hal.mono rfl | with_reducible assumption | with_reducible apply performed_kept (hal.mono rfl)
    | with_reducible apply writeHeld_kept (hal.mono rfl)
    | with_reducible apply putLine_kept (hal.mono rfl) | with_reducible apply ttLeave_kept (hal.mono rfl)
    | with_reducible apply ttMod_kept (hal.mono rfl)
    | with_reducible apply kept_ite

theorem serveVictim_kept (hal : Allow al [.csr, .evt, .jrn, .ports, .adm, .tt, .results, .map, .vnr, .cure])
    (h : Kept al s0 s) (t : TtEntry) (sl : Fin 16) (st : Nat) (v : VictEnt) (attr : Nat) (d : LineRes) : Kept al s0
    (serveVictim s t sl st v attr d) := by
  unfold serveVictim
  try dsimp only
  repeat' first
    | exact hal.mono rfl
    | with_reducible assumption
    | with_reducible apply modSlice_kept (hal.mono rfl)
    | with_reducible apply performed_kept (hal.mono rfl)
    | with_reducible apply putLine_kept (hal.mono rfl)
    | with_reducible apply ttLeave_kept (hal.mono rfl)
    | with_reducible apply ttMod_kept (hal.mono rfl)
    | intro _
    | with_reducible apply kept_ite
    | split
    | dsimp only

theorem nbrRead_kept (hal : Allow al [.tier]) (h : Kept al s0 s) (j : Fin 32) : Kept al s0 (nbrRead s j) :=
    (keptTier (s := s) (hal.mono rfl)).2 h

theorem startFill_kept (hal : Allow al [.csr, .tt, .vnr, .chans, .cure, .tier]) (h : Kept al s0 s) (t : TtEntry)
    (sl : Fin 16) (attr : Nat) (how : Install) : Kept al s0 (startFill s t sl attr how) := by
  unfold startFill
  repeat' first
    | exact hal.mono rfl | with_reducible assumption | with_reducible apply doIf_kept
    | with_reducible apply cntInc_kept (hal.mono rfl)
    | with_reducible apply ttMod_kept (hal.mono rfl) | with_reducible apply lineToRq_kept (hal.mono rfl)
    | with_reducible apply modSlice_kept (hal.mono rfl)
    | with_reducible apply toSlot_kept (hal.mono rfl) | with_reducible apply nbrRead_kept (hal.mono rfl)
    | with_reducible apply outPush_kept (hal.mono rfl) | intro _
    | split | dsimp only

theorem missFull_kept (hal : Allow al [.csr, .evt, .jrn, .ports, .adm, .tt, .results, .map, .vnr, .chans, .cure])
    (h : Kept al s0 s) (t : TtEntry) (sl : Fin 16) (st : Nat) (attr : Nat) :
    Kept al s0 (missFull s t sl st attr) := by
  unfold missFull
  extract_lets a rid ap raw
  clear_value raw ap a rid
  split
  · exact lendWrite_kept (hal.mono rfl) h ..
  · split
    · exact lendWrite_kept (hal.mono rfl) h ..
    · extract_lets out l
      have ho : ∀ s, Kept al s0 s → Kept al s0 (out s) := fun s h => lineToWq_kept (hal.mono rfl) (ttMod_kept (hal.mono rfl) h ..) ..
      clear_value out l
      split
      · split
        · split
          · exact ttLeave_kept (hal.mono rfl) (KeptOpt.get (by assumption) (install_kept (hal.mono rfl) (overUpd_kept (hal.mono rfl) h) ..)) ..
          · exact ho _ h
        · exact ho _ (KeptOpt.getD (install_kept (hal.mono rfl) (forceWt_kept (hal.mono rfl) h) ..) (forceWt_kept (hal.mono rfl) h))
      · exact ho _ (KeptOpt.getD (install_kept (hal.mono rfl) h ..) h)
      · exact ho _ h

theorem stageHit_kept (hal : Allow al [.csr, .evt, .jrn, .ports, .adm, .tt, .results, .vnr, .cure]) (h : Kept al s0 s)
    (t : TtEntry) (sl : Fin 16) (st tag : Nat) : Kept al s0 (stageHit s t sl st tag) := by
  unfold stageHit
  repeat' first
    | exact hal.mono rfl | with_reducible assumption | with_reducible apply putLine_kept (hal.mono rfl)
    | with_reducible apply pinAllowed_kept (hal.mono rfl)
    | with_reducible apply ttLeave_kept (hal.mono rfl) | with_reducible apply ttDue_kept (hal.mono rfl)
    | with_reducible apply ttMod_kept (hal.mono rfl)
    | with_reducible apply kept_ite | split

theorem serveMiss_kept (hal : Allow al [.csr, .evt, .jrn, .ports, .adm, .tt, .results, .map, .vnr, .chans, .cure, .tier])
    (h : Kept al s0 s) (t : TtEntry) (sl : Fin 16) (st : Nat) (attr : Nat) : Kept al s0 (serveMiss s t sl st attr) := by
  unfold serveMiss
  repeat' first
    | exact hal.mono rfl | with_reducible assumption | with_reducible apply missFull_kept (hal.mono rfl)
    | with_reducible apply startFill_kept (hal.mono rfl)
    | with_reducible apply partToGlue_kept (hal.mono rfl) | with_reducible apply ttMod_kept (hal.mono rfl)
    | with_reducible apply kept_ite | split

theorem askRepair_kept (hal : Allow al [.csr, .cure]) (h : Kept al s0 s) (lms das : Nat) (who : RepWho) : Kept al s0
    (askRepair s lms das who) := by
  unfold askRepair
  repeat' first
    | exact hal.mono rfl | with_reducible assumption | with_reducible apply cntInc_kept (hal.mono rfl)
    | with_reducible apply outPush_kept (hal.mono rfl)
    | with_reducible apply kept_ite | simp only [keptCure (hal.mono rfl)]

theorem vnrUe_kept (hal : Allow al [.csr, .evt, .jrn]) (h : Kept al s0 s) (sl : Fin 16) (a : Nat) (dirty : Bool) : Kept al
    s0 (vnrUe s sl a dirty) := by
  unfold vnrUe
  try dsimp only
  repeat' first
    | exact hal.mono rfl
    | with_reducible assumption
    | with_reducible apply evo_kept (hal.mono rfl)
    | with_reducible apply cntInc_kept (hal.mono rfl)
    | intro _
    | with_reducible apply kept_ite
    | split
    | dsimp only

theorem dirtyLost_kept (hal : Allow al [.csr, .evt, .jrn, .ports, .adm, .tt, .results, .map, .vnr, .chans, .cure])
    (h : Kept al s0 s) (t : TtEntry) (sl : Fin 16) (attr tag : Nat) (das : Option Nat) : Kept al s0
    (dirtyLost s t sl attr tag das) := by
  unfold dirtyLost
  try dsimp only
  repeat' first
    | exact hal.mono rfl
    | with_reducible assumption
    | with_reducible apply ttMod_kept (hal.mono rfl)
    | with_reducible apply modSlice_kept (hal.mono rfl)
    | with_reducible apply askRepair_kept (hal.mono rfl)
    | with_reducible apply drawFree_kept
    | with_reducible apply performed_kept (hal.mono rfl)
    | with_reducible apply lineToWq_kept (hal.mono rfl)
    | intro _
    | with_reducible apply kept_ite
    | split
    | refine kept_snd (by with_reducible assumption) (drawFree_kept ?_ ..)
    | exact KeptOpt.none _
    | with_reducible apply KeptOpt.some
    | with_reducible apply KeptOpt.getD
    | with_reducible apply KeptOpt.then
    | with_reducible apply KeptOpt.map
    | with_reducible apply KeptOpt.findSome
    | refine KeptOpt.get (by with_reducible assumption) ?_
    | dsimp only

theorem lookupHit_kept (hal : Allow al [.csr, .evt, .jrn, .ports, .adm, .tt, .results, .map, .vnr, .chans, .cure, .tier])
    (h : Kept al s0 s) (t : TtEntry) (sl : Fin 16) (st : Nat) (l : VLine) (attr : Nat) (err : RawLine) : Kept al s0
    (lookupHit s t sl st l attr err) := by
  unfold lookupHit
  try dsimp only
  repeat' first
    | exact hal.mono rfl
    | with_reducible assumption
    | with_reducible apply serve_kept (hal.mono rfl)
    | with_reducible apply serveHit_kept (hal.mono rfl)
    | with_reducible apply stageHit_kept (hal.mono rfl)
    | with_reducible apply putLine_kept (hal.mono rfl)
    | with_reducible apply cntInc_kept (hal.mono rfl)
    | with_reducible apply vnrUe_kept (hal.mono rfl)
    | with_reducible apply dirtyLost_kept (hal.mono rfl)
    | with_reducible apply serveMiss_kept (hal.mono rfl)
    | intro _
    | with_reducible apply kept_ite
    | split
    | dsimp only

theorem stageVictim_kept (hal : Allow al [.csr, .evt, .jrn, .ports, .adm, .tt, .results, .vnr, .cure]) (h : Kept al s0 s)
    (t : TtEntry) (sl : Fin 16) (st : Nat) (v : VictEnt) (d : LineRes) : Kept al s0 (stageVictim s t sl st v d) := by
  unfold stageVictim
  try dsimp only
  repeat' first
    | exact hal.mono rfl
    | with_reducible assumption
    | with_reducible apply install_kept (hal.mono rfl)
    | with_reducible apply stageHit_kept (hal.mono rfl)
    | intro _
    | with_reducible apply kept_ite
    | split
    | refine KeptOpt.get (by with_reducible assumption) (install_kept (hal.mono rfl) ?_ ..)
    | exact KeptOpt.none _
    | with_reducible apply KeptOpt.some
    | with_reducible apply KeptOpt.getD
    | with_reducible apply KeptOpt.then
    | with_reducible apply KeptOpt.map
    | with_reducible apply KeptOpt.findSome
    | refine KeptOpt.get (by with_reducible assumption) ?_
    | dsimp only

theorem victimHit_kept (hal : Allow al [.csr, .evt, .jrn, .ports, .adm, .tt, .results, .map, .vnr, .chans, .cure, .tier])
    (h : Kept al s0 s) (t : TtEntry) (sl : Fin 16) (st : Nat) (v : VictEnt) (attr : Nat) (err : RawLine) : Kept al s0
    (victimHit s t sl st v attr err) := by
  unfold victimHit
  try dsimp only
  repeat' first
    | exact hal.mono rfl
    | with_reducible assumption
    | with_reducible apply serve_kept (hal.mono rfl)
    | with_reducible apply serveVictim_kept (hal.mono rfl)
    | with_reducible apply stageVictim_kept (hal.mono rfl)
    | with_reducible apply cntInc_kept (hal.mono rfl)
    | with_reducible apply putLine_kept (hal.mono rfl)
    | with_reducible apply vnrUe_kept (hal.mono rfl)
    | with_reducible apply modSlice_kept (hal.mono rfl)
    | with_reducible apply dirtyLost_kept (hal.mono rfl)
    | intro _
    | with_reducible apply kept_ite
    | split
    | dsimp only

theorem vnrServe_kept (hal : Allow al [.csr, .evt, .jrn, .ports, .adm, .tt, .results, .map, .vnr, .chans, .cure, .tier])
    (h : Kept al s0 s) (rid : Nat) (err : RawLine) : Kept al s0 (vnrServe s rid err) := by
  unfold vnrServe
  try dsimp only
  repeat' first
    | exact hal.mono rfl
    | with_reducible assumption
    | with_reducible apply doIf_kept
    | with_reducible apply cntInc_kept (hal.mono rfl)
    | with_reducible apply modMiss_kept (hal.mono rfl)
    | with_reducible apply ttMod_kept (hal.mono rfl)
    | with_reducible apply victimHit_kept (hal.mono rfl)
    | with_reducible apply lookupHit_kept (hal.mono rfl)
    | with_reducible apply serveMiss_kept (hal.mono rfl)
    | intro _
    | with_reducible apply kept_ite
    | split
    | dsimp only

theorem slotPump_kept (hal : Allow al [.csr, .evt, .jrn, .ports, .adm, .tt, .results, .map, .vnr, .chans, .cure, .tier])
    (h : Kept al s0 s) : Kept al s0 (slotPump s) := by
  unfold slotPump
  try dsimp only
  repeat' first
    | exact hal.mono rfl
    | with_reducible assumption
    | with_reducible apply lendWrite_kept (hal.mono rfl)
    | with_reducible apply vnrServe_kept (hal.mono rfl)
    | with_reducible apply ttMod_kept (hal.mono rfl)
    | intro _
    | with_reducible apply kept_ite
    | split
    | dsimp only

theorem landOne_kept (hal : Allow al [.csr, .evt, .jrn, .ports, .adm, .tt, .results, .map, .chans, .cure])
    (das : Option Nat) (acc : LandAcc) (w : MissWait) (h : Kept al s0 acc.s) :
    Kept al s0 (landOne das acc w).s := by
  unfold landOne
  split
  · exact h
  · dsimp only
    split
    · split
      · split
        · exact lendWrite_kept (hal.mono rfl) (performed_kept (hal.mono rfl) h ..) ..
        · dsimp only
          split
          · exact ttLeave_kept (hal.mono rfl) (performed_kept (hal.mono rfl) h ..) ..
          · exact performed_kept (hal.mono rfl) h ..
      · exact ttLeave_kept (hal.mono rfl) (ttMod_kept (hal.mono rfl) (performed_kept (hal.mono rfl) h ..) ..) ..
    · split
      · exact h
      · split
        · exact partToGlue_kept (hal.mono rfl) (ttMod_kept (hal.mono rfl) h ..) ..
        · exact ttLeave_kept (hal.mono rfl) (ttMod_kept (hal.mono rfl) (performed_kept (hal.mono rfl) h ..) ..) ..

theorem landWaits_kept (hal : Allow al [.csr, .evt, .jrn, .ports, .adm, .tt, .results, .map, .vnr, .chans, .cure])
    (h : Kept al s0 s) (sl : Fin 16) (m : MissEnt) (line : Option (LineData × Bool)) :
    Kept al s0 (landWaits s sl m line).s := by
  unfold landWaits
  refine foldl_kept_of LandAcc.s _ _ (fun a w k => landOne_kept (hal.mono rfl) _ a w k) _ ?_
  dsimp only
  exact modSlice_kept (hal.mono rfl) h sl _

theorem howLine_kept (hal : Allow al [.csr, .evt, .jrn]) (h : Kept al s0 s) (sl : Fin 16) (st : Nat) (m : MissEnt)
    (l : VLine) : Kept al s0 (howLine s sl st m l).2 := by
  unfold howLine
  try dsimp only
  repeat' first
    | exact hal.mono rfl
    | with_reducible assumption
    | with_reducible apply pinAllowed_kept (hal.mono rfl)
    | intro _
    | with_reducible apply kept_ite
    | split
    | refine kept_snd (by with_reducible assumption) (pinAllowed_kept (hal.mono rfl) ?_ ..)
    | dsimp only

theorem landRead_kept (hal : Allow al [.csr, .evt, .jrn, .vnr]) (h : Kept al s0 s) (sl : Fin 16) (st : Nat) (m : MissEnt)
    (l : VLine) (attr : Nat) : Kept al s0 (landRead s sl st m l attr) := by
  unfold landRead
  try dsimp only
  repeat' first
    | exact hal.mono rfl
    | with_reducible assumption
    | with_reducible apply howLine_kept (hal.mono rfl)
    | with_reducible apply install_kept (hal.mono rfl)
    | intro _
    | with_reducible apply kept_ite
    | split
    | refine kept_snd (by with_reducible assumption) (howLine_kept (hal.mono rfl) ?_ ..)
    | refine KeptOpt.get (by with_reducible assumption) (install_kept (hal.mono rfl) ?_ ..)
    | exact KeptOpt.none _
    | with_reducible apply KeptOpt.some
    | with_reducible apply KeptOpt.getD
    | with_reducible apply KeptOpt.then
    | with_reducible apply KeptOpt.map
    | with_reducible apply KeptOpt.findSome
    | refine KeptOpt.get (by with_reducible assumption) ?_
    | dsimp only

theorem fillLand_kept (hal : Allow al [.csr, .evt, .jrn, .ports, .adm, .tt, .results, .map, .vnr, .chans, .cure])
    (h : Kept al s0 s) (sl : Fin 16) (m : MissEnt) (data : LineData) (poison : Bool) :
    Kept al s0 (fillLand s sl m data poison) := by
  unfold fillLand
  extract_lets d st drop attr0 acc s1 keep
  have hk : Kept al s0 s1 := doIf_kept _ _ (landWaits_kept (hal.mono rfl) h ..) fun _ k => cntInc_kept (hal.mono rfl) k _
  clear_value keep s1 acc attr0 drop st d
  split
  · exact hk
  · extract_lets raw l
    clear_value l raw
    split
    · extract_lets out
      have ho : ∀ s, Kept al s0 s → Kept al s0 (out s) := fun s h => lineToWq_kept (hal.mono rfl) (ttMod_kept (hal.mono rfl) h ..) ..
      clear_value out
      split
      · exact ho _ hk
      · split
        rename_i x l' t e
        have ht : Kept al s0 t := kept_snd e (howLine_kept (hal.mono rfl) hk ..)
        split
        · split
          · split
            · exact ttLeave_kept (hal.mono rfl) (KeptOpt.get (by assumption) (install_kept (hal.mono rfl) (overUpd_kept (hal.mono rfl) ht) ..)) ..
            · exact ho _ ht
          · exact ho _ (KeptOpt.getD (install_kept (hal.mono rfl) (forceWt_kept (hal.mono rfl) ht) ..) (forceWt_kept (hal.mono rfl) ht))
        · exact ho _ (KeptOpt.getD (install_kept (hal.mono rfl) ht ..) ht)
        · exact ho _ (KeptOpt.getD (install_kept (hal.mono rfl) ht ..) ht)
        · exact ho _ (kept_ite ht (KeptOpt.getD (install_kept (hal.mono rfl) ht ..) ht))
    · split
      · exact landRead_kept (hal.mono rfl) hk ..
      · exact hk

theorem vnrFillLand_kept
    (hal : Allow al [.csr, .evt, .jrn, .ports, .adm, .tt, .results, .map, .vnr, .chans, .cure, .tier]) (h : Kept al s0 s)
    (sl : Fin 16) : Kept al s0 (vnrFillLand s sl) := by
  unfold vnrFillLand
  try dsimp only
  repeat' first
    | exact hal.mono rfl
    | with_reducible assumption
    | with_reducible apply slotPump_kept (hal.mono rfl)
    | with_reducible apply fillLand_kept (hal.mono rfl)
    | intro _
    | with_reducible apply kept_ite
    | split
    | dsimp only

theorem fillLost_kept (hal : Allow al [.csr, .evt, .jrn, .ports, .adm, .tt, .results, .map, .vnr, .chans, .cure])
    (h : Kept al s0 s) (sl : Fin 16) (m : MissEnt) : Kept al s0 (fillLost s sl m) := by
  unfold fillLost
  repeat' first
    | exact hal.mono rfl | with_reducible assumption | with_reducible apply landWaits_kept (hal.mono rfl)
    | with_reducible apply lineToWq_kept (hal.mono rfl)
    | with_reducible apply ttMod_kept (hal.mono rfl) | split | dsimp only

theorem fillRepaired_kept (hal : Allow al [.csr, .evt, .jrn, .ports, .adm, .tt, .results, .map, .vnr, .chans, .cure])
    (h : Kept al s0 s) (sl : Fin 16) (m : MissEnt) (data : LineData) (poison : Bool) : Kept al s0
    (fillRepaired s sl m data poison) := by
  unfold fillRepaired
  repeat' first
    | exact hal.mono rfl | with_reducible assumption | with_reducible apply landWaits_kept (hal.mono rfl)
    | with_reducible apply lineToWq_kept (hal.mono rfl)
    | with_reducible apply ttMod_kept (hal.mono rfl) | split | dsimp only

theorem cleanSet_kept (hal : Allow al [.vnr]) (h : Kept al s0 s) (sl : Fin 16) (st : Nat) (p : VLine → Bool) (drop : Bool)
    : Kept al s0 (cleanSet s sl st p drop) := by
  unfold cleanSet
  repeat' first
    | exact hal.mono rfl | with_reducible assumption | with_reducible apply forEach_kept
    | with_reducible apply modSlice_kept (hal.mono rfl)
    | with_reducible apply putLine_kept (hal.mono rfl) | intro _ | with_reducible apply kept_ite

theorem cleaner_kept (hal : Allow al [.vnr]) (h : Kept al s0 s) (sl : Fin 16) : Kept al s0 (cleaner s sl) := by
  unfold cleaner
  repeat' first
    | exact hal.mono rfl | with_reducible assumption | with_reducible apply modSlice_kept (hal.mono rfl)
    | with_reducible apply cleanSet_kept (hal.mono rfl)
    | with_reducible apply kept_ite

theorem vnrSramErr_kept (hal : Allow al [.csr, .evt, .jrn, .vnr]) (h : Kept al s0 s) (sl : Fin 16) (st way : Nat)
    (uncorr : Bool) : Kept al s0 (vnrSramErr s sl st way uncorr) := by
  unfold vnrSramErr
  repeat' first
    | exact hal.mono rfl | with_reducible assumption | with_reducible apply doIf_kept
    | with_reducible apply putSet_kept (hal.mono rfl)
    | with_reducible apply raiseEvt_kept (hal.mono rfl) | intro _

theorem ropRefuse_kept (hal : Allow al [.csr, .evt, .jrn, .vnr]) (h : Kept al s0 s) : Kept al s0 (ropRefuse s) := by
  unfold ropRefuse
  try dsimp only
  repeat' first
    | exact hal.mono rfl
    | with_reducible assumption
    | with_reducible apply ev_kept (hal.mono rfl)
    | intro _
    | with_reducible apply kept_ite
    | split
    | simp only [keptVnr (hal.mono rfl)]
    | dsimp only

theorem ropLine_kept (hal : Allow al [.vnr]) (h : Kept al s0 s) (op : RopOp) (sl : Fin 16) (st : Nat) (l : VLine) : Kept
    al s0 (ropLine s op sl st l).1 := by
  unfold ropLine
  try dsimp only
  repeat' first
    | exact hal.mono rfl
    | with_reducible assumption
    | with_reducible apply modSlice_kept (hal.mono rfl)
    | with_reducible apply putLine_kept (hal.mono rfl)
    | intro _
    | with_reducible apply kept_ite
    | split
    | exact KeptOpt.none _
    | with_reducible apply KeptOpt.some
    | with_reducible apply KeptOpt.getD
    | with_reducible apply KeptOpt.then
    | with_reducible apply KeptOpt.map
    | with_reducible apply KeptOpt.findSome
    | refine KeptOpt.get (by with_reducible assumption) ?_
    | dsimp only

theorem walkLine_kept (hal : Allow al [.vnr]) (op : RopOp) (sl : Fin 16) (acc : WalkAcc) (x : Nat × VLine)
    (h : Kept al s0 acc.s) :
    Kept al s0 (walkLine op sl acc x).s := by
  unfold walkLine
  split
  · exact h
  · exact ropLine_kept (hal.mono rfl) h ..

theorem ropWalk_kept (hal : Allow al [.vnr]) (h : Kept al s0 s) (op : RopOp) (lo hi : Nat) : Kept al s0
    (ropWalk s op lo hi).s :=
  foldl_kept_of WalkAcc.s _ _ (fun a _ k => foldl_kept_of WalkAcc.s _ _ (fun a x k => walkLine_kept (hal.mono rfl) op _ a x k) a k) _ h

theorem ropRewalk_kept (hal : Allow al [.vnr]) (h : Kept al s0 s) (op : RopOp) (left : List (Fin 16 × Nat × Nat)) :
    Kept al s0 (ropRewalk s op left).s := by
  unfold ropRewalk
  refine foldl_kept_of WalkAcc.s _ _ (fun a x k => ?_) _ h
  split
  · exact walkLine_kept (hal.mono rfl) op _ a _ k
  · exact k

theorem walkNote_kept (hal : Allow al [.csr, .evt, .jrn, .vnr]) (r : RopRun) (w : WalkAcc) (h : Kept al s0 w.s) : Kept al
    s0 (walkNote r w) := by
  unfold walkNote
  dsimp only
  split
  · exact evd_kept (hal.mono rfl) ((keptVnr (hal.mono rfl)).2 h) ..
  · exact (keptVnr (hal.mono rfl)).2 h

theorem ropGo_kept (hal : Allow al [.csr, .evt, .jrn, .vnr]) (h : Kept al s0 s) : Kept al s0 (ropGo s) := by
  unfold ropGo
  split
  · split
    · exact h
    · exact walkNote_kept (hal.mono rfl) _ _ (ropRewalk_kept (hal.mono rfl) h ..)
  · exact h

theorem ropLookups_kept (hal : Allow al [.csr, .map]) (h : Kept al s0 s) (lo hi : Nat) : Kept al s0 (ropLookups s lo hi) := by
  unfold ropLookups
  try dsimp only
  repeat' first
    | exact hal.mono rfl
    | with_reducible assumption
    | with_reducible apply forEach_kept
    | with_reducible apply cntAdd_kept (hal.mono rfl)
    | with_reducible apply pcLookup_kept (hal.mono rfl)
    | intro _
    | with_reducible apply kept_ite
    | split
    | dsimp only

theorem ropSnap_kept (hal : Allow al [.vnr]) (h : Kept al s0 s) (op : RopOp) (lo hi : Nat) : Kept al s0
    (ropSnap s op lo hi) := by
  unfold ropSnap
  try dsimp only
  repeat' first
    | exact hal.mono rfl
    | with_reducible assumption
    | intro _
    | with_reducible apply kept_ite
    | split
    | simp only [keptVnr (hal.mono rfl)]
    | dsimp only

theorem ropStart_kept (hal : Allow al [.csr, .evt, .jrn, .map, .vnr]) (h : Kept al s0 s) (op : RopOp) (lo hi : Nat)
    (drain : Bool) :
    Kept al s0 (ropStart s op lo hi drain) := by
  unfold ropStart
  extract_lets bySet s1 s2 v s3
  have h1 : Kept al s0 s1 := ropSnap_kept (hal.mono rfl) h ..
  clear_value s1 bySet
  have h2 : Kept al s0 s2 := kept_ite h1 (ropLookups_kept (hal.mono rfl) h1 ..)
  clear_value s2
  have h3 : Kept al s0 s3 := (keptVnr (hal.mono rfl)).2 h2
  clear_value s3 v
  exact walkNote_kept (hal.mono rfl) _ _ (ropWalk_kept (hal.mono rfl) h3 ..)

theorem vnrClean_kept (hal : Allow al [.vnr]) (h : Kept al s0 s) : Kept al s0 (vnrClean s) := by
  unfold vnrClean
  repeat' first | exact hal.mono rfl | with_reducible assumption | with_reducible apply ropWalk_kept (hal.mono rfl)

theorem victimWriteback_kept (hal : Allow al [.csr, .evt, .jrn, .vnr, .chans, .cure]) (h : Kept al s0 s) (sl : Fin 16) :
    Kept al s0 (victimWriteback s sl) := by
  unfold victimWriteback
  repeat' first
    | exact hal.mono rfl | with_reducible assumption | with_reducible apply overUpd_kept (hal.mono rfl)
    | with_reducible apply cntInc_kept (hal.mono rfl)
    | with_reducible apply modSlice_kept (hal.mono rfl) | with_reducible apply vnrClean_kept (hal.mono rfl)
    | with_reducible apply ropGo_kept (hal.mono rfl)
    | with_reducible apply kept_ite | split
    | refine KeptOpt.get (by with_reducible assumption) (enterWrite_kept (hal.mono rfl) ?_ ..)

theorem ropCmd_kept (hal : Allow al [.csr, .evt, .jrn, .map, .vnr]) (h : Kept al s0 s) (op : RopOp) : Kept al s0
    (ropCmd s op) := by
  unfold ropCmd
  repeat' first
    | exact hal.mono rfl | with_reducible assumption | with_reducible apply ropRefuse_kept (hal.mono rfl)
    | with_reducible apply ropStart_kept (hal.mono rfl)
    | with_reducible apply kept_ite

theorem snapClear_kept (hal : Allow al [.vnr]) (h : Kept al s0 s) : Kept al s0 (snapClear s) :=
    (keptVnr (s := s) (hal.mono rfl)).2 h

theorem ropEnd_kept (hal : Allow al [.csr, .evt, .jrn, .vnr]) (h : Kept al s0 s) (r : RopRun) : Kept al s0 (ropEnd s r) := by
  unfold ropEnd
  repeat' first
    | exact hal.mono rfl | with_reducible assumption | with_reducible apply snapClear_kept (hal.mono rfl)
    | with_reducible apply evd_kept (hal.mono rfl)
    | simp only [keptVnr (hal.mono rfl)]

theorem ropDone_kept (hal : Allow al [.csr, .evt, .jrn, .vnr]) (h : Kept al s0 s) : Kept al s0 (ropDone s) := by
  unfold ropDone
  repeat' first
    | exact hal.mono rfl | with_reducible assumption | with_reducible apply ropGo_kept (hal.mono rfl)
    | with_reducible apply ropEnd_kept (hal.mono rfl) | split
    | dsimp only

theorem drainStart_kept (hal : Allow al [.csr, .evt, .jrn, .map, .vnr]) (h : Kept al s0 s) : Kept al s0 (drainStart s) := by
  unfold drainStart
  repeat' first | exact hal.mono rfl | with_reducible assumption | with_reducible apply ropStart_kept (hal.mono rfl)

theorem drainTry_kept (hal : Allow al [.csr, .evt, .jrn, .map, .vnr]) (h : Kept al s0 s) : Kept al s0 (drainTry s) := by
  unfold drainTry
  try dsimp only
  repeat' first
    | exact hal.mono rfl
    | with_reducible assumption
    | with_reducible apply drainStart_kept (hal.mono rfl)
    | intro _
    | with_reducible apply kept_ite
    | split
    | dsimp only

theorem vnrCtlEn_kept (hal : Allow al [.csr, .evt, .jrn, .map, .vnr]) (h : Kept al s0 s) (en : Bool) : Kept al s0
    (vnrCtlEn s en) := by
  unfold vnrCtlEn
  repeat' first
    | exact hal.mono rfl | with_reducible assumption | with_reducible apply setFld_kept (hal.mono rfl)
    | with_reducible apply ev_kept (hal.mono rfl)
    | with_reducible apply snapClear_kept (hal.mono rfl) | with_reducible apply drainTry_kept (hal.mono rfl) | split
    | simp only [keptVnr (hal.mono rfl)]

theorem vnrClearingDone_kept (hal : Allow al [.csr, .evt, .jrn, .vnr]) (h : Kept al s0 s) : Kept al s0
    (vnrClearingDone s) := by
  unfold vnrClearingDone
  repeat' first
    | exact hal.mono rfl | with_reducible assumption | with_reducible apply ev_kept (hal.mono rfl)
    | with_reducible apply kept_ite | simp only [keptVnr (hal.mono rfl)]

theorem vnrDrainDone_kept (hal : Allow al [.csr, .evt, .jrn, .map, .vnr]) (h : Kept al s0 s) : Kept al s0
    (vnrDrainDone s) := by
  unfold vnrDrainDone
  repeat' first
    | exact hal.mono rfl | with_reducible assumption | with_reducible apply ropGo_kept (hal.mono rfl)
    | with_reducible apply drainTry_kept (hal.mono rfl)
    | with_reducible apply ev_kept (hal.mono rfl) | with_reducible apply snapClear_kept (hal.mono rfl) | split
    | simp only [keptVnr (hal.mono rfl)]

theorem lineFlush_kept (hal : Allow al [.vnr]) (h : Kept al s0 s) (a : Nat) : Kept al s0 (lineFlush s a) := by
  unfold lineFlush
  repeat' first
    | exact hal.mono rfl | with_reducible assumption | with_reducible apply cntInc_kept (hal.mono rfl)
    | with_reducible apply lineToWq_kept (hal.mono rfl)
    | with_reducible apply modSlice_kept (hal.mono rfl) | with_reducible apply overUpd_kept (hal.mono rfl)
    | with_reducible apply putLine_kept (hal.mono rfl) | split
    | dsimp only

theorem panelFlush_kept (hal : Allow al [.vnr]) (h : Kept al s0 s) (p : Nat) : Kept al s0 (panelFlush s p) := by
  unfold panelFlush
  repeat' first
    | exact hal.mono rfl | with_reducible assumption | with_reducible apply forEach_kept
    | with_reducible apply lineFlush_kept (hal.mono rfl) | intro _

theorem panelDrop_kept (hal : Allow al [.vnr]) (h : Kept al s0 s) (p : Nat) : Kept al s0 (panelDrop s p) := by
  unfold panelDrop
  repeat' first
    | exact hal.mono rfl | with_reducible assumption | with_reducible apply forEach_kept
    | with_reducible apply putLine_kept (hal.mono rfl)
    | with_reducible apply modSlice_kept (hal.mono rfl) | intro _

end Sys2Proof.Machine
end

