-- ==== Sys2Proof/Laws/KeptCode.lean ====
section
/-!
SUPPORT. What the operations of Machine/Code.lean keep.
-/
namespace Sys2Proof.Machine
set_option linter.all false
set_option Elab.async false
open Sys2Proof

variable {al : Part → Bool} {s0 s : State}

theorem putMarks_kept (hal : Allow al [.chans]) (h : Kept al s0 s) (c : Fin 16) (i : Nat) (m : MarkPair) : Kept al s0
    (putMarks s c i m) :=
  (keptChans (s := s) (hal.mono rfl)).2 h

theorem setMark_kept (hal : Allow al [.csr, .evt, .jrn, .chans]) (h : Kept al s0 s) (c : Fin 16) (i slot chip : Nat)
    (hw : Bool) : Kept al s0 (setMark s c i slot chip hw) := by
  unfold setMark
  try dsimp only
  repeat' first
    | exact hal.mono rfl
    | with_reducible assumption
    | with_reducible apply putMarks_kept (hal.mono rfl)
    | with_reducible apply evd_kept (hal.mono rfl)
    | with_reducible apply doIf_kept
    | with_reducible apply probeAbort_kept (hal.mono rfl)
    | with_reducible apply ev_kept (hal.mono rfl)
    | intro _
    | with_reducible apply kept_ite
    | split
    | dsimp only

theorem markWrite_kept (hal : Allow al [.csr, .evt, .jrn, .chans]) (h : Kept al s0 s) (c : Fin 16) (i slot chip : Nat) :
    Kept al s0 (markWrite s c i slot chip) := by
  unfold markWrite
  repeat' first
    | exact hal.mono rfl | with_reducible assumption | with_reducible apply ev_kept (hal.mono rfl)
    | with_reducible apply setMark_kept (hal.mono rfl)
    | with_reducible apply kept_ite

theorem markClear_kept (hal : Allow al [.chans]) (h : Kept al s0 s) (c : Fin 16) (i slot : Nat) : Kept al s0
    (markClear s c i slot) := by
  unfold markClear
  try dsimp only
  repeat' first
    | exact hal.mono rfl
    | with_reducible assumption
    | with_reducible apply putMarks_kept (hal.mono rfl)
    | intro _
    | with_reducible apply kept_ite
    | split
    | dsimp only

theorem countChip_kept (hal : Allow al [.csr, .evt, .jrn, .chans]) (h : Kept al s0 s) (c : Fin 16) (i chip : Nat) : Kept
    al s0 (countChip s c i chip) := by
  unfold countChip
  repeat' first
    | exact hal.mono rfl | with_reducible assumption | with_reducible apply rcAdd_kept (hal.mono rfl)
    | with_reducible apply modCode_kept (hal.mono rfl)
    | with_reducible apply evd_kept (hal.mono rfl) | with_reducible apply setMark_kept (hal.mono rfl)
    | with_reducible apply kept_ite

theorem ceWindowEnd_kept (hal : Allow al [.chans]) (h : Kept al s0 s) (c : Fin 16) : Kept al s0 (ceWindowEnd s c) := by
  unfold ceWindowEnd
  try dsimp only
  repeat' first
    | exact hal.mono rfl
    | with_reducible assumption
    | with_reducible apply modCode_kept (hal.mono rfl)
    | intro _
    | with_reducible apply kept_ite
    | split
    | dsimp only

theorem codeUe_kept (hal : Allow al [.csr, .evt, .jrn]) (h : Kept al s0 s) (c : Fin 16) (das : Nat) (k : Coord)
    (src : Nat) : Kept al s0 (codeUe s c das k src) := by
  unfold codeUe
  repeat' first | exact hal.mono rfl | with_reducible assumption | with_reducible apply evo_kept (hal.mono rfl)

theorem countLine_kept (hal : Allow al [.csr]) (h : Kept al s0 s) (c : Fin 16) (k : DecKind) : Kept al s0
    (countLine s c k) := by
  unfold countLine
  repeat' first | exact hal.mono rfl | with_reducible assumption | with_reducible apply cntInc_kept (hal.mono rfl) | split

theorem countChips_kept (hal : Allow al [.csr, .evt, .jrn, .chans]) (h : Kept al s0 s) (c : Fin 16) (i : Nat)
    (chips : List Nat) (probe : Option Nat) : Kept al s0 (countChips s c i chips probe) := by
  unfold countChips
  repeat' first
    | exact hal.mono rfl | with_reducible assumption | with_reducible apply forEach_kept
    | with_reducible apply countChip_kept (hal.mono rfl) | intro _

theorem countProbe_kept (hal : Allow al [.csr, .chans]) (h : Kept al s0 s) (c : Fin 16) (chip : Nat) (raw : RawLine)
    (data : LineData) : Kept al s0 (countProbe s c chip raw data) := by
  unfold countProbe
  try dsimp only
  repeat' first
    | exact hal.mono rfl
    | with_reducible assumption
    | with_reducible apply cntAdd_kept (hal.mono rfl)
    | with_reducible apply modPhy_kept (hal.mono rfl)
    | intro _
    | with_reducible apply kept_ite
    | split
    | dsimp only

theorem askTrial_kept (hal : Allow al [.chans]) (h : Kept al s0 s) (c : Fin 16) (k : Coord) : Kept al s0
    (askTrial s c k) := by
  unfold askTrial
  try dsimp only
  repeat' first
    | exact hal.mono rfl
    | with_reducible assumption
    | with_reducible apply modCode_kept (hal.mono rfl)
    | intro _
    | with_reducible apply kept_ite
    | split
    | dsimp only

theorem decodeNow_kept (hal : Allow al [.csr, .evt, .jrn, .chans]) (h : Kept al s0 s) (c : Fin 16) (k : Coord)
    (raw : RawLine) : Kept al s0 (decodeNow s c k raw).1 := by
  unfold decodeNow
  try dsimp only
  repeat' first
    | exact hal.mono rfl
    | with_reducible assumption
    | with_reducible apply probeAbort_kept (hal.mono rfl)
    | with_reducible apply cntInc_kept (hal.mono rfl)
    | with_reducible apply countProbe_kept (hal.mono rfl)
    | with_reducible apply countChips_kept (hal.mono rfl)
    | with_reducible apply countLine_kept (hal.mono rfl)
    | intro _
    | with_reducible apply kept_ite
    | split
    | dsimp only

theorem mapDamage_kept (hal : Allow al [.csr, .evt, .jrn, .map]) (h : Kept al s0 s) (das : Nat) : Kept al s0
    (mapDamage s das) := by
  unfold mapDamage
  repeat' first
    | exact hal.mono rfl | with_reducible assumption | with_reducible apply forEach_kept
    | with_reducible apply setBlank_kept (hal.mono rfl)
    | with_reducible apply ev_kept (hal.mono rfl) | with_reducible apply staleSet_kept (hal.mono rfl) | intro _ | split
    | simp only [keptMap (hal.mono rfl)]

theorem engPut_kept (hal : Allow al [.adm]) (h : Kept al s0 s) (src : Fin 20) (eng : Nat) (mid : BitVec 12) (op : MemOp)
    (a : BitVec 48) (d : LineData) (dest : Dest) (k : ReqKind) : Kept al s0 (engPut s src eng mid op a d dest k) := by
  unfold engPut
  try dsimp only
  repeat' first
    | exact hal.mono rfl
    | with_reducible assumption
    | intro _
    | with_reducible apply kept_ite
    | split
    | simp only [keptAdm (hal.mono rfl)]
    | dsimp only

theorem raspPut_kept (hal : Allow al [.adm]) (h : Kept al s0 s) (eng : Fin 4) (op : MemOp) (das : Nat) (d : LineData)
    (w : RaspWork) : Kept al s0 (raspPut s eng op das d w) := by
  unfold raspPut
  try dsimp only
  repeat' first
    | exact hal.mono rfl
    | with_reducible assumption
    | with_reducible apply engPut_kept (hal.mono rfl)
    | intro _
    | with_reducible apply kept_ite
    | split
    | dsimp only

theorem scrubPresent_kept (hal : Allow al [.adm, .map]) (h : Kept al s0 s) (eng : Fin 4) : Kept al s0
    (scrubPresent s eng) := by
  unfold scrubPresent
  try dsimp only
  repeat' first
    | exact hal.mono rfl
    | with_reducible assumption
    | with_reducible apply forEach_kept
    | with_reducible apply raspPut_kept (hal.mono rfl)
    | intro _
    | with_reducible apply kept_ite
    | split
    | simp only [keptMap (hal.mono rfl)]
    | dsimp only

theorem rebuildLine_kept (hal : Allow al [.map]) (h : Kept al s0 s) (das : Nat) : Kept al s0 (rebuildLine s das) := by
  unfold rebuildLine
  try dsimp only
  repeat' first
    | exact hal.mono rfl
    | with_reducible assumption
    | with_reducible apply forEach_kept
    | intro _
    | with_reducible apply kept_ite
    | split
    | simp only [keptMap (hal.mono rfl)]
    | dsimp only

theorem bcmdEnd_kept (hal : Allow al [.csr, .evt, .jrn, .map]) (h : Kept al s0 s) : Kept al s0 (bcmdEnd s) := by
  unfold bcmdEnd
  try dsimp only
  repeat' first
    | exact hal.mono rfl
    | with_reducible assumption
    | with_reducible apply ev_kept (hal.mono rfl)
    | intro _
    | with_reducible apply kept_ite
    | split
    | simp only [keptMap (hal.mono rfl)]
    | dsimp only

theorem diagEnd_kept (hal : Allow al [.chans]) (h : Kept al s0 s) (c : Fin 16) : Kept al s0 (diagEnd s c) := by
  unfold diagEnd
  try dsimp only
  repeat' first
    | exact hal.mono rfl
    | with_reducible assumption
    | with_reducible apply modCode_kept (hal.mono rfl)
    | intro _
    | with_reducible apply kept_ite
    | split
    | dsimp only

theorem raspAfter_kept (hal : Allow al [.csr, .evt, .jrn, .adm, .map, .chans]) (h : Kept al s0 s) (r : Req) : Kept al s0
    (raspAfter s r) := by
  unfold raspAfter
  try dsimp only
  repeat' first
    | exact hal.mono rfl
    | with_reducible assumption
    | with_reducible apply scrubPresent_kept (hal.mono rfl)
    | with_reducible apply bcmdEnd_kept (hal.mono rfl)
    | with_reducible apply rebuildLine_kept (hal.mono rfl)
    | with_reducible apply diagEnd_kept (hal.mono rfl)
    | intro _
    | with_reducible apply kept_ite
    | split
    | dsimp only

theorem diagRead_kept (hal : Allow al [.csr, .evt, .jrn, .chans]) (h : Kept al s0 s) (c : Fin 16) (e : RdEnt) (cmp : Bool)
    (r : LineRes) : Kept al s0 (diagRead s c e cmp r) := by
  unfold diagRead
  try dsimp only
  repeat' first
    | exact hal.mono rfl
    | with_reducible assumption
    | with_reducible apply doIf_kept
    | with_reducible apply codeUe_kept (hal.mono rfl)
    | with_reducible apply rcAdd_kept (hal.mono rfl)
    | with_reducible apply modCode_kept (hal.mono rfl)
    | intro _
    | with_reducible apply kept_ite
    | split
    | dsimp only

theorem rawReturn_kept (hal : Allow al [.csr, .chans]) (h : Kept al s0 s) (c : Fin 16) (raw : RawLine) : Kept al s0
    (rawReturn s c raw) := by
  unfold rawReturn
  try dsimp only
  repeat' first
    | exact hal.mono rfl
    | with_reducible assumption
    | with_reducible apply modCode_kept (hal.mono rfl)
    | with_reducible apply setReg_kept (hal.mono rfl)
    | with_reducible apply foldl_kept
    | with_reducible apply foldl_kept_fst
    | with_reducible apply foldl_kept_snd
    | intro _
    | with_reducible apply kept_ite
    | split
    | dsimp only

theorem readReturn_kept (hal : Allow al [.csr, .evt, .jrn, .ports, .adm, .tt, .results, .map, .vnr, .chans, .cure])
    (h : Kept al s0 s) (c : Fin 16) (e : RdEnt) (r : LineRes) : Kept al s0 (readReturn s c e r) := by
  unfold readReturn
  try dsimp only
  repeat' first
    | exact hal.mono rfl
    | with_reducible assumption
    | with_reducible apply doIf_kept
    | with_reducible apply mapDamage_kept (hal.mono rfl)
    | with_reducible apply codeUe_kept (hal.mono rfl)
    | with_reducible apply performed_kept (hal.mono rfl)
    | with_reducible apply lineToWq_kept (hal.mono rfl)
    | with_reducible apply ttMod_kept (hal.mono rfl)
    | with_reducible apply raspAfter_kept (hal.mono rfl)
    | with_reducible apply ttLeave_kept (hal.mono rfl)
    | with_reducible apply askRepair_kept (hal.mono rfl)
    | with_reducible apply modMiss_kept (hal.mono rfl)
    | with_reducible apply fillLost_kept (hal.mono rfl)
    | with_reducible apply cntInc_kept (hal.mono rfl)
    | with_reducible apply diagRead_kept (hal.mono rfl)
    | intro _
    | with_reducible apply kept_ite
    | split
    | dsimp only

theorem reread_kept (hal : Allow al [.csr, .evt, .jrn, .chans]) (h : Kept al s0 s) (c : Fin 16) (f : Flight) : Kept al s0
    (reread s c f) := by
  unfold reread
  try dsimp only
  repeat' first
    | exact hal.mono rfl
    | with_reducible assumption
    | with_reducible apply probeAbort_kept (hal.mono rfl)
    | with_reducible apply cntInc_kept (hal.mono rfl)
    | with_reducible apply rereadPump_kept (hal.mono rfl)
    | with_reducible apply modSch_kept (hal.mono rfl)
    | intro _
    | with_reducible apply kept_ite
    | split
    | dsimp only

theorem dropFlight_kept (hal : Allow al [.chans]) (h : Kept al s0 s) (c : Fin 16) (f : Flight) : Kept al s0
    (dropFlight s c f) := (keptChans (s := s) (hal.mono rfl)).2 h

theorem dramDecode_kept (hal : Allow al [.csr, .evt, .jrn, .ports, .adm, .tt, .results, .map, .vnr, .chans, .cure])
    (h : Kept al s0 s) (c : Fin 16) (err : RawLine) : Kept al s0 (dramDecode s c err) := by
  unfold dramDecode
  try dsimp only
  repeat' first
    | exact hal.mono rfl
    | with_reducible assumption
    | with_reducible apply ttLeave_kept (hal.mono rfl)
    | with_reducible apply rawReturn_kept (hal.mono rfl)
    | with_reducible apply dropFlight_kept (hal.mono rfl)
    | with_reducible apply reread_kept (hal.mono rfl)
    | with_reducible apply countProbe_kept (hal.mono rfl)
    | with_reducible apply countLine_kept (hal.mono rfl)
    | with_reducible apply countChips_kept (hal.mono rfl)
    | with_reducible apply doIf_kept
    | with_reducible apply askTrial_kept (hal.mono rfl)
    | with_reducible apply readReturn_kept (hal.mono rfl)
    | intro _
    | with_reducible apply kept_ite
    | split
    | dsimp only

theorem mergeOut_kept (hal : Allow al [.csr, .evt, .jrn, .chans]) (h : Kept al s0 s) (c : Fin 16) (g : GlueEnt)
    (data : LineData) (poison : Bool) : Kept al s0 (mergeOut s c g data poison) := by
  unfold mergeOut
  try dsimp only
  repeat' first
    | exact hal.mono rfl
    | with_reducible assumption
    | with_reducible apply modSch_kept (hal.mono rfl)
    | with_reducible apply pushGlue_kept (hal.mono rfl)
    | intro _
    | with_reducible apply kept_ite
    | split
    | dsimp only

theorem glueMerge_kept (hal : Allow al [.csr, .evt, .jrn, .chans, .cure]) (h : Kept al s0 s) (c : Fin 16) (gid : Nat)
    (err : RawLine) : Kept al s0 (glueMerge s c gid err) := by
  unfold glueMerge
  try dsimp only
  repeat' first
    | exact hal.mono rfl
    | with_reducible assumption
    | with_reducible apply cntInc_kept (hal.mono rfl)
    | with_reducible apply reread_kept (hal.mono rfl)
    | with_reducible apply countProbe_kept (hal.mono rfl)
    | with_reducible apply dropFlight_kept (hal.mono rfl)
    | with_reducible apply cntAdd_kept (hal.mono rfl)
    | with_reducible apply mergeOut_kept (hal.mono rfl)
    | with_reducible apply countChips_kept (hal.mono rfl)
    | with_reducible apply countLine_kept (hal.mono rfl)
    | with_reducible apply codeUe_kept (hal.mono rfl)
    | with_reducible apply askTrial_kept (hal.mono rfl)
    | with_reducible apply modSch_kept (hal.mono rfl)
    | with_reducible apply askRepair_kept (hal.mono rfl)
    | with_reducible apply ev_kept (hal.mono rfl)
    | intro _
    | with_reducible apply kept_ite
    | split
    | exact KeptOpt.none _
    | with_reducible apply KeptOpt.some
    | with_reducible apply KeptOpt.getD
    | with_reducible apply KeptOpt.then
    | with_reducible apply KeptOpt.map
    | with_reducible apply KeptOpt.findSome
    | refine KeptOpt.get (by with_reducible assumption) ?_
    | dsimp only

theorem twinEv_kept (hal : Allow al [.csr, .evt, .jrn]) (h : Kept al s0 s) (id lms : Nat) : Kept al s0 (twinEv s id lms) := by
  unfold twinEv
  repeat' first | exact hal.mono rfl | with_reducible assumption | with_reducible apply evo_kept (hal.mono rfl)

theorem repairEnd_kept (hal : Allow al [.csr, .evt, .jrn, .ports, .adm, .tt, .results, .map, .vnr, .chans, .cure])
    (h : Kept al s0 s) (r : Repair) (ans : RepAns) : Kept al s0 (repairEnd s r ans) := by
  unfold repairEnd
  try dsimp only
  repeat' first
    | exact hal.mono rfl
    | with_reducible assumption
    | with_reducible apply fillRepaired_kept (hal.mono rfl)
    | with_reducible apply twinEv_kept (hal.mono rfl)
    | with_reducible apply cntInc_kept (hal.mono rfl)
    | with_reducible apply drawFree_kept
    | with_reducible apply fillLost_kept (hal.mono rfl)
    | with_reducible apply mergeOut_kept (hal.mono rfl)
    | with_reducible apply ev_kept (hal.mono rfl)
    | with_reducible apply lineToWq_kept (hal.mono rfl)
    | intro _
    | with_reducible apply kept_ite
    | split
    | refine kept_snd (by with_reducible assumption) (drawFree_kept ?_ ..)
    | dsimp only

theorem repairAnswer_kept (hal : Allow al [.csr, .evt, .jrn, .ports, .adm, .tt, .results, .map, .vnr, .chans, .cure])
    (h : Kept al s0 s) : Kept al s0 (repairAnswer s) := by
  unfold repairAnswer
  try dsimp only
  repeat' first
    | exact hal.mono rfl
    | with_reducible assumption
    | with_reducible apply repairEnd_kept (hal.mono rfl)
    | intro _
    | with_reducible apply kept_ite
    | split
    | simp only [keptCure (hal.mono rfl)]
    | dsimp only

theorem trialRun_kept (hal : Allow al [.csr, .evt, .jrn, .chans, .dram]) (h : Kept al s0 s) (c : Fin 16) (k : Coord)
    (errA errB : RawLine) : Kept al s0 (trialRun s c k errA errB) := by
  unfold trialRun
  try dsimp only
  repeat' first
    | exact hal.mono rfl
    | with_reducible assumption
    | with_reducible apply modCode_kept (hal.mono rfl)
    | with_reducible apply setDramLine_kept (hal.mono rfl)
    | with_reducible apply closeBanks_kept (hal.mono rfl)
    | with_reducible apply evd_kept (hal.mono rfl)
    | with_reducible apply setMark_kept (hal.mono rfl)
    | intro _
    | with_reducible apply kept_ite
    | split
    | exact KeptOpt.none _
    | with_reducible apply KeptOpt.some
    | with_reducible apply KeptOpt.getD
    | with_reducible apply KeptOpt.then
    | with_reducible apply KeptOpt.map
    | with_reducible apply KeptOpt.findSome
    | refine KeptOpt.get (by with_reducible assumption) ?_
    | dsimp only

theorem x8Trial_kept (hal : Allow al [.csr, .evt, .jrn, .chans, .dram]) (h : Kept al s0 s) (c : Fin 16)
    (errA errB : RawLine) : Kept al s0 (x8Trial s c errA errB) := by
  unfold x8Trial
  try dsimp only
  repeat' first
    | exact hal.mono rfl
    | with_reducible assumption
    | with_reducible apply modCode_kept (hal.mono rfl)
    | with_reducible apply trialRun_kept (hal.mono rfl)
    | intro _
    | with_reducible apply kept_ite
    | split
    | dsimp only

theorem scrubDue_kept (hal : Allow al [.chans]) (h : Kept al s0 s) (c : Fin 16) : Kept al s0 (scrubDue s c) := by
  unfold scrubDue
  try dsimp only
  repeat' first
    | exact hal.mono rfl
    | with_reducible assumption
    | with_reducible apply modCode_kept (hal.mono rfl)
    | intro _
    | with_reducible apply kept_ite
    | split
    | dsimp only

theorem scrubSlice_kept (hal : Allow al [.csr, .adm, .map, .chans]) (h : Kept al s0 s) (eng : Fin 4) (c : Fin 16) : Kept
    al s0 (scrubSlice s eng c) := by
  unfold scrubSlice
  try dsimp only
  repeat' first
    | exact hal.mono rfl
    | with_reducible assumption
    | with_reducible apply scrubPresent_kept (hal.mono rfl)
    | with_reducible apply raspPut_kept (hal.mono rfl)
    | with_reducible apply modCode_kept (hal.mono rfl)
    | with_reducible apply cntInc_kept (hal.mono rfl)
    | intro _
    | with_reducible apply kept_ite
    | split
    | simp only [keptMap (hal.mono rfl)]
    | exact KeptOpt.none _
    | with_reducible apply KeptOpt.some
    | with_reducible apply KeptOpt.getD
    | with_reducible apply KeptOpt.then
    | with_reducible apply KeptOpt.map
    | with_reducible apply KeptOpt.findSome
    | refine KeptOpt.get (by with_reducible assumption) ?_
    | dsimp only

theorem ecsPoll_kept (hal : Allow al [.csr, .evt, .jrn, .chans]) (h : Kept al s0 s) (c : Fin 16) (r : List EcsRead) : Kept
    al s0 (ecsPoll s c r) := by
  unfold ecsPoll
  repeat' first
    | exact hal.mono rfl | with_reducible assumption | with_reducible apply forEach_kept
    | with_reducible apply modCode_kept (hal.mono rfl)
    | with_reducible apply evd_kept (hal.mono rfl) | intro _ | with_reducible apply kept_ite

end Sys2Proof.Machine
end

