-- ==== Sys2Proof/Laws/KeptRepair.lean ====
section
/-!
SUPPORT. What the operations of Machine/Repair.lean keep.
-/
namespace Sys2Proof.Machine
set_option linter.all false
set_option Elab.async false
open Sys2Proof

variable {al : Part → Bool} {s0 s : State}

theorem inlRewrite_kept (hal : Allow al [.csr, .evt, .jrn]) (h : Kept al s0 s) (c : Fin 16) (i reason : Nat) : Kept al s0
    (inlRewrite s c i reason) := by
  unfold inlRewrite
  repeat' first | exact hal.mono rfl | with_reducible assumption | with_reducible apply evd_kept (hal.mono rfl)

theorem copyWake_kept (hal : Allow al [.csr, .chans]) (h : Kept al s0 s) (c : Fin 16) (rank : Nat) : Kept al s0
    (copyWake s c rank) := by
  unfold copyWake
  try dsimp only
  repeat' first
    | exact hal.mono rfl
    | with_reducible assumption
    | with_reducible apply srLeave_kept (hal.mono rfl)
    | with_reducible apply modRank_kept (hal.mono rfl)
    | with_reducible apply rankWake_kept (hal.mono rfl)
    | with_reducible apply cntInc_kept (hal.mono rfl)
    | intro _
    | with_reducible apply kept_ite
    | split
    | dsimp only

theorem inlWrite_kept (hal : Allow al [.csr, .evt, .jrn, .chans]) (h : Kept al s0 s) (c : Fin 16) (i : Nat)
    (mid : BitVec 12) (v : Word64) : Kept al s0 (inlWrite s c i mid v) := by
  unfold inlWrite
  try dsimp only
  repeat' first
    | exact hal.mono rfl
    | with_reducible assumption
    | with_reducible apply inlRewrite_kept (hal.mono rfl)
    | with_reducible apply lockViolation_kept (hal.mono rfl)
    | with_reducible apply modCode_kept (hal.mono rfl)
    | with_reducible apply copyWake_kept (hal.mono rfl)
    | with_reducible apply remapQueues_kept (hal.mono rfl)
    | intro _
    | with_reducible apply kept_ite
    | split
    | dsimp only

theorem inlCopy_kept (hal : Allow al [.csr, .chans]) (h : Kept al s0 s) (c : Fin 16) (v : Word64) : Kept al s0
    (inlCopy s c v) := by
  unfold inlCopy
  repeat' first
    | exact hal.mono rfl | with_reducible assumption | with_reducible apply setReg_kept (hal.mono rfl)
    | with_reducible apply copyWake_kept (hal.mono rfl)
    | with_reducible apply modCode_kept (hal.mono rfl) | with_reducible apply kept_ite

theorem copyLine_kept (hal : Allow al [.csr, .evt, .jrn, .chans, .dram]) (h : Kept al s0 s) (c : Fin 16) (r : RowCopy)
    (col : Nat) (err : RawLine) : Kept al s0 (copyLine s c r col err).1 := by
  unfold copyLine
  try dsimp only
  repeat' first
    | exact hal.mono rfl
    | with_reducible assumption
    | with_reducible apply decodeNow_kept (hal.mono rfl)
    | with_reducible apply codeUe_kept (hal.mono rfl)
    | with_reducible apply askTrial_kept (hal.mono rfl)
    | with_reducible apply setDramLine_kept (hal.mono rfl)
    | intro _
    | with_reducible apply kept_ite
    | split
    | refine kept_fst (by with_reducible assumption) (decodeNow_kept (hal.mono rfl) ?_ ..)
    | dsimp only

theorem rowCopyDone_kept (hal : Allow al [.csr, .evt, .jrn, .chans, .dram]) (h : Kept al s0 s) (c : Fin 16)
    (errs : List (Nat × RawLine)) : Kept al s0 (rowCopyDone s c errs) := by
  unfold rowCopyDone
  try dsimp only
  repeat' first
    | exact hal.mono rfl
    | with_reducible assumption
    | with_reducible apply copyLine_kept (hal.mono rfl)
    | with_reducible apply modCode_kept (hal.mono rfl)
    | with_reducible apply remapQueues_kept (hal.mono rfl)
    | with_reducible apply foldl_kept
    | with_reducible apply foldl_kept_fst
    | with_reducible apply foldl_kept_snd
    | intro _
    | with_reducible apply kept_ite
    | split
    | refine kept_fst (by with_reducible assumption) (copyLine_kept (hal.mono rfl) ?_ ..)
    | exact KeptOpt.none _
    | with_reducible apply KeptOpt.some
    | with_reducible apply KeptOpt.getD
    | with_reducible apply KeptOpt.then
    | with_reducible apply KeptOpt.map
    | with_reducible apply KeptOpt.findSome
    | refine KeptOpt.get (by with_reducible assumption) ?_
    | dsimp only

theorem inlPpr_kept (hal : Allow al [.csr, .chans]) (h : Kept al s0 s) (c : Fin 16) (v : Word64) : Kept al s0
    (inlPpr s c v) := by
  unfold inlPpr
  repeat' first
    | exact hal.mono rfl | with_reducible assumption | with_reducible apply setReg_kept (hal.mono rfl)
    | with_reducible apply modCode_kept (hal.mono rfl)
    | with_reducible apply kept_ite

theorem pprDone_kept (hal : Allow al [.chans, .dram]) (h : Kept al s0 s) (c : Fin 16) (e : PprEnd) : Kept al s0
    (pprDone s c e) := by
  unfold pprDone
  repeat' first
    | exact hal.mono rfl | with_reducible assumption | with_reducible apply modCode_kept (hal.mono rfl)
    | with_reducible apply forEach_kept
    | with_reducible apply drawFree_kept | with_reducible apply setDramLine_kept (hal.mono rfl) | intro _ | split

theorem rawAccess_kept (hal : Allow al [.csr, .adm, .vnr, .chans]) (h : Kept al s0 s) (c : Fin 16) (write : Bool) : Kept
    al s0 (rawAccess s c write) := by
  unfold rawAccess
  try dsimp only
  repeat' first
    | exact hal.mono rfl
    | with_reducible assumption
    | with_reducible apply setFld_kept (hal.mono rfl)
    | with_reducible apply modCode_kept (hal.mono rfl)
    | with_reducible apply lineFlush_kept (hal.mono rfl)
    | with_reducible apply engPut_kept (hal.mono rfl)
    | intro _
    | with_reducible apply kept_ite
    | split
    | dsimp only

theorem rawServe_kept (hal : Allow al [.csr, .evt, .jrn, .ports, .adm, .tt, .results, .chans, .cure]) (h : Kept al s0 s)
    (t : TtEntry) : Kept al s0 (rawServe s t) := by
  unfold rawServe
  try dsimp only
  repeat' first
    | exact hal.mono rfl
    | with_reducible assumption
    | with_reducible apply ttMod_kept (hal.mono rfl)
    | with_reducible apply toChan_kept (hal.mono rfl)
    | with_reducible apply modCode_kept (hal.mono rfl)
    | with_reducible apply lineToRq_kept (hal.mono rfl)
    | with_reducible apply ttLeave_kept (hal.mono rfl)
    | intro _
    | with_reducible apply kept_ite
    | split
    | dsimp only

theorem sramPoison_kept (hal : Allow al [.csr, .evt, .jrn, .chans, .dram]) (h : Kept al s0 s) (c : Fin 16) (w : SramWhere)
    : Kept al s0 (sramPoison s c w) := by
  unfold sramPoison
  try dsimp only
  repeat' first
    | exact hal.mono rfl
    | with_reducible assumption
    | with_reducible apply modSch_kept (hal.mono rfl)
    | with_reducible apply fillOpen_kept (hal.mono rfl)
    | with_reducible apply glueAdvance_kept (hal.mono rfl)
    | with_reducible apply setDramLine_kept (hal.mono rfl)
    | intro _
    | with_reducible apply kept_ite
    | split
    | refine kept_snd (by with_reducible assumption) (fillOpen_kept (hal.mono rfl) ?_ ..)
    | dsimp only

theorem sramErr_kept (hal : Allow al [.csr, .evt, .jrn, .chans, .dram]) (h : Kept al s0 s) (c : Fin 16) (w : SramWhere)
    (uncorr : Bool) : Kept al s0 (sramErr s c w uncorr) := by
  unfold sramErr
  repeat' first
    | exact hal.mono rfl | with_reducible assumption | with_reducible apply sramPoison_kept (hal.mono rfl)
    | with_reducible apply cntInc_kept (hal.mono rfl)
    | with_reducible apply raiseEvt_kept (hal.mono rfl) | with_reducible apply kept_ite

theorem diagGo_kept (hal : Allow al [.csr, .chans]) (h : Kept al s0 s) (c : Fin 16) (op : Nat) : Kept al s0
    (diagGo s c op) := by
  unfold diagGo
  try dsimp only
  repeat' first
    | exact hal.mono rfl
    | with_reducible assumption
    | with_reducible apply setFld_kept (hal.mono rfl)
    | with_reducible apply modCode_kept (hal.mono rfl)
    | with_reducible apply diagEnd_kept (hal.mono rfl)
    | intro _
    | with_reducible apply kept_ite
    | split
    | dsimp only

theorem diagUnit_kept (hal : Allow al [.adm, .chans]) (h : Kept al s0 s) (eng : Fin 4) (c : Fin 16) (r : DiagRun) : Kept
    al s0 (diagUnit s eng c r) := by
  unfold diagUnit
  try dsimp only
  repeat' first
    | exact hal.mono rfl
    | with_reducible assumption
    | with_reducible apply modCode_kept (hal.mono rfl)
    | with_reducible apply forEach_kept
    | with_reducible apply raspPut_kept (hal.mono rfl)
    | with_reducible apply diagEnd_kept (hal.mono rfl)
    | intro _
    | with_reducible apply kept_ite
    | split
    | dsimp only

theorem fillWrite_kept (hal : Allow al [.adm]) (h : Kept al s0 s) (eng : Fin 4) (a : Nat) : Kept al s0
    (fillWrite s eng a) := (keptAdm (s := s) (hal.mono rfl)).2 h

theorem bcmdUnit_kept (hal : Allow al [.csr, .evt, .jrn, .adm, .map]) (h : Kept al s0 s) (eng : Fin 4) (b : BcmdRun) :
    Kept al s0 (bcmdUnit s eng b) := by
  unfold bcmdUnit
  try dsimp only
  repeat' first
    | exact hal.mono rfl
    | with_reducible assumption
    | with_reducible apply forEach_kept
    | with_reducible apply raspPut_kept (hal.mono rfl)
    | with_reducible apply bcmdEnd_kept (hal.mono rfl)
    | intro _
    | with_reducible apply kept_ite
    | split
    | simp only [keptMap (hal.mono rfl)]
    | dsimp only

theorem raspUnit_kept (hal : Allow al [.csr, .evt, .jrn, .adm, .map, .chans]) (h : Kept al s0 s) (eng : Fin 4) : Kept al
    s0 (raspUnit s eng) := by
  unfold raspUnit
  try dsimp only
  repeat' first
    | exact hal.mono rfl
    | with_reducible assumption
    | with_reducible apply bcmdUnit_kept (hal.mono rfl)
    | with_reducible apply forEach_kept
    | with_reducible apply fillWrite_kept (hal.mono rfl)
    | with_reducible apply scrubSlice_kept (hal.mono rfl)
    | with_reducible apply diagUnit_kept (hal.mono rfl)
    | intro _
    | with_reducible apply kept_ite
    | split
    | dsimp only

end Sys2Proof.Machine
end

