-- ==== Sys2Proof/Laws/KeptHeat.lean ====
section
/-!
SUPPORT. What the operations of Machine/Heat.lean keep.
-/
namespace Sys2Proof.Machine
set_option linter.all false
set_option Elab.async false
open Sys2Proof

variable {al : Part → Bool} {s0 s : State}

theorem modTier_kept (hal : Allow al [.tier]) (h : Kept al s0 s) (f : TierSt → TierSt) : Kept al s0 (modTier s f) :=
    (keptTier (s := s) (hal.mono rfl)).2 h

theorem frameRefill_kept (hal : Allow al [.tier]) (h : Kept al s0 s) : Kept al s0 (frameRefill s) := by
  unfold frameRefill
  repeat' first
    | exact hal.mono rfl | with_reducible assumption | with_reducible apply modTier_kept (hal.mono rfl)
    | with_reducible apply foldl_kept | intro _ | split

theorem frameLowUpd_kept (hal : Allow al [.csr, .evt, .jrn, .tier]) (h : Kept al s0 s) : Kept al s0 (frameLowUpd s) := by
  unfold frameLowUpd
  repeat' first
    | exact hal.mono rfl | with_reducible assumption | with_reducible apply modTier_kept (hal.mono rfl)
    | with_reducible apply ev_kept (hal.mono rfl)
    | with_reducible apply kept_ite

theorem frameTake_kept {t : State} (hal : Allow al [.csr, .evt, .jrn, .map, .tier]) (h : Kept al s0 s) {f : Nat}
    (e : frameTake s = some (f, t)) : Kept al s0 t := by
  have k : Kept al s0 (match s.tier.cache with | [] => frameRefill s | _ => s) := by
    split
    · exact frameRefill_kept (hal.mono rfl) h
    · exact h
  unfold frameTake at e
  dsimp only at e
  split at e
  · cases e
    exact frameLowUpd_kept (hal.mono rfl) (modTier_kept (hal.mono rfl) ((keptMap (hal.mono rfl)).2 k) _)
  · cases e

theorem frameGive_kept (hal : Allow al [.csr, .evt, .jrn, .map, .tier]) (h : Kept al s0 s) (f : Nat) : Kept al s0
    (frameGive s f) := by
  unfold frameGive
  try dsimp only
  repeat' first
    | exact hal.mono rfl
    | with_reducible assumption
    | with_reducible apply frameLowUpd_kept (hal.mono rfl)
    | intro _
    | with_reducible apply kept_ite
    | split
    | simp only [keptMap (hal.mono rfl)]
    | dsimp only

theorem nbrUse_kept (hal : Allow al [.tier]) (h : Kept al s0 s) (j : Fin 32) (up : Bool) : Kept al s0 (nbrUse s j up) :=
    (keptTier (s := s) (hal.mono rfl)).2 h

theorem sendFree_kept (hal : Allow al [.cure, .tier]) (h : Kept al s0 s) (j : Fin 32) (p f : Nat) : Kept al s0
    (sendFree s j p f) := by
  unfold sendFree
  try dsimp only
  repeat' first
    | exact hal.mono rfl
    | with_reducible assumption
    | with_reducible apply nbrUse_kept (hal.mono rfl)
    | with_reducible apply modTier_kept (hal.mono rfl)
    | with_reducible apply outPush_kept (hal.mono rfl)
    | intro _
    | with_reducible apply kept_ite
    | split
    | dsimp only

theorem retDrop_kept (hal : Allow al [.tier]) (h : Kept al s0 s) (p : Nat) : Kept al s0 (retDrop s p) :=
    (keptTier (s := s) (hal.mono rfl)).2 h

theorem retFree_kept (hal : Allow al [.cure, .tier]) (h : Kept al s0 s) (p : Nat) : Kept al s0 (retFree s p) := by
  unfold retFree
  try dsimp only
  repeat' first
    | exact hal.mono rfl
    | with_reducible assumption
    | with_reducible apply sendFree_kept (hal.mono rfl)
    | with_reducible apply retDrop_kept (hal.mono rfl)
    | intro _
    | with_reducible apply kept_ite
    | split
    | dsimp only

theorem retDirty_kept (hal : Allow al [.tier]) (h : Kept al s0 s) (p : Nat) : Kept al s0 (retDirty s p) :=
    (keptTier (s := s) (hal.mono rfl)).2 h

theorem retInsert_kept (hal : Allow al [.cure, .tier]) (h : Kept al s0 s) (e : RetEnt) : Kept al s0 (retInsert s e) := by
  unfold retInsert
  repeat' first
    | exact hal.mono rfl | with_reducible assumption | with_reducible apply modTier_kept (hal.mono rfl)
    | with_reducible apply sendFree_kept (hal.mono rfl) | split
    | dsimp only

theorem putHeat_kept (hal : Allow al [.tier]) (h : Kept al s0 s) (p : Nat) (l : List HeatEnt) : Kept al s0
    (putHeat s p l) := (keptTier (s := s) (hal.mono rfl)).2 h

theorem promoCheck_kept (hal : Allow al [.tier]) (h : Kept al s0 s) (p : Nat) : Kept al s0 (promoCheck s p) := by
  unfold promoCheck
  try dsimp only
  repeat' first
    | exact hal.mono rfl
    | with_reducible assumption
    | with_reducible apply modTier_kept (hal.mono rfl)
    | intro _
    | with_reducible apply kept_ite
    | split
    | dsimp only

theorem heatBank_kept (hal : Allow al [.csr, .tier]) (h : Kept al s0 s) (pool p : Nat) : Kept al s0
    (heatBank s pool p).2 := by
  unfold heatBank
  repeat' first
    | exact hal.mono rfl | with_reducible assumption | with_reducible apply cntInc_kept (hal.mono rfl)
    | with_reducible apply modTier_kept (hal.mono rfl) | split
    | dsimp only

theorem heatUpdate_kept (hal : Allow al [.csr, .tier]) (h : Kept al s0 s) (pool p : Nat) (op : MemOp) : Kept al s0
    (heatUpdate s pool p op) := by
  unfold heatUpdate
  repeat' first
    | exact hal.mono rfl | with_reducible assumption | with_reducible apply heatBank_kept (hal.mono rfl)
    | with_reducible apply putHeat_kept (hal.mono rfl)
    | with_reducible apply cntInc_kept (hal.mono rfl) | with_reducible apply promoCheck_kept (hal.mono rfl)
    | with_reducible apply kept_ite | split

theorem heatDecay_kept (hal : Allow al [.tier]) (h : Kept al s0 s) : Kept al s0 (heatDecay s) :=
    (keptTier (s := s) (hal.mono rfl)).2 h

end Sys2Proof.Machine
end

