-- ==== Sys2Proof/Laws/KeptPanel.lean ====
section
/-!
SUPPORT. What the operations of Machine/Panel.lean keep.
-/
namespace Sys2Proof.Machine
set_option linter.all false
set_option Elab.async false
open Sys2Proof

variable {al : Part → Bool} {s0 s : State}

theorem fillAlloc_kept (hal : Allow al [.csr, .evt, .jrn, .map]) (h : Kept al s0 s) (p : Nat) : Kept al s0
    (fillAlloc s p) := by
  unfold fillAlloc
  repeat' first
    | exact hal.mono rfl | with_reducible assumption | with_reducible apply cntInc_kept (hal.mono rfl)
    | with_reducible apply ev_kept (hal.mono rfl)
    | with_reducible apply kept_ite | simp only [keptMap (hal.mono rfl)]

theorem setValid_kept (hal : Allow al [.csr, .map]) (h : Kept al s0 s) (a : Nat) : Kept al s0 (setValid s a) := by
  unfold setValid
  try dsimp only
  repeat' first
    | exact hal.mono rfl
    | with_reducible assumption
    | with_reducible apply cntAdd_kept (hal.mono rfl)
    | intro _
    | with_reducible apply kept_ite
    | split
    | simp only [keptMap (hal.mono rfl)]
    | dsimp only

theorem serveTwin_kept (hal : Allow al [.csr, .evt, .jrn, .ports, .adm, .tt, .results, .map, .cure]) (h : Kept al s0 s)
    (rid : Nat) : Kept al s0 (serveTwin s rid) := by
  unfold serveTwin
  repeat' first
    | exact hal.mono rfl | with_reducible assumption | with_reducible apply failReq_kept (hal.mono rfl)
    | with_reducible apply forward_kept (hal.mono rfl)
    | with_reducible apply kept_ite | split

theorem firstFrame_kept (hal : Allow al [.csr, .evt, .jrn, .map, .tier]) (h : Kept al s0 s) (p : Nat) : Kept al s0
    (firstFrame s p) := by
  unfold firstFrame
  repeat' first
    | exact hal.mono rfl | with_reducible assumption | with_reducible apply pmapSet_kept (hal.mono rfl) | split
    | refine frameTake_kept (hal.mono rfl) ?_ (by with_reducible assumption)

theorem firstSteps_kept (hal : Allow al [.csr, .evt, .jrn, .map, .tier]) (h : Kept al s0 s) (p : Nat) : Kept al s0
    (firstSteps s p) := by
  unfold firstSteps
  repeat' first
    | exact hal.mono rfl | with_reducible assumption | with_reducible apply setBlank_kept (hal.mono rfl)
    | with_reducible apply firstFrame_kept (hal.mono rfl)
    | with_reducible apply fillAlloc_kept (hal.mono rfl)

theorem zeroWrite_kept (hal : Allow al [.csr, .evt, .jrn, .ports, .adm, .tt, .results, .map, .vnr, .chans, .cure])
    (h : Kept al s0 s) (rid : Nat) : Kept al s0 (zeroWrite s rid) := by
  unfold zeroWrite
  repeat' first
    | exact hal.mono rfl | with_reducible assumption | with_reducible apply setValid_kept (hal.mono rfl)
    | with_reducible apply serveTwin_kept (hal.mono rfl)
    | with_reducible apply performed_kept (hal.mono rfl) | with_reducible apply missFull_kept (hal.mono rfl)
    | with_reducible apply kept_ite | split

theorem blankWrite_kept (hal : Allow al [.csr, .evt, .jrn, .ports, .adm, .tt, .results, .map, .vnr, .chans, .cure, .tier])
    (h : Kept al s0 s) (rid : Nat) : Kept al s0 (blankWrite s rid) := by
  unfold blankWrite
  try dsimp only
  repeat' first
    | exact hal.mono rfl
    | with_reducible assumption
    | with_reducible apply zeroWrite_kept (hal.mono rfl)
    | with_reducible apply firstSteps_kept (hal.mono rfl)
    | with_reducible apply ttMod_kept (hal.mono rfl)
    | with_reducible apply setBlank_kept (hal.mono rfl)
    | with_reducible apply firstFrame_kept (hal.mono rfl)
    | with_reducible apply doIf_kept
    | with_reducible apply cntInc_kept (hal.mono rfl)
    | intro _
    | with_reducible apply kept_ite
    | split
    | simp only [keptCure (hal.mono rfl)]
    | dsimp only

theorem trimSteps_kept (hal : Allow al [.csr, .evt, .jrn, .adm, .map, .vnr, .cure, .tier]) (h : Kept al s0 s) (p : Nat) :
    Kept al s0 (trimSteps s p) := by
  unfold trimSteps
  try dsimp only
  repeat' first
    | exact hal.mono rfl
    | with_reducible assumption
    | with_reducible apply panelDrop_kept (hal.mono rfl)
    | with_reducible apply retFree_kept (hal.mono rfl)
    | with_reducible apply frameGive_kept (hal.mono rfl)
    | with_reducible apply sendFree_kept (hal.mono rfl)
    | with_reducible apply pmapSet_kept (hal.mono rfl)
    | with_reducible apply setBlank_kept (hal.mono rfl)
    | intro _
    | with_reducible apply kept_ite
    | split
    | simp only [keptAdmMap (hal.mono rfl)]
    | dsimp only

theorem trimServe_kept (hal : Allow al [.csr, .evt, .jrn, .ports, .adm, .tt, .results, .map, .vnr, .cure, .tier])
    (h : Kept al s0 s) (rid : Nat) : Kept al s0 (trimServe s rid) := by
  unfold trimServe
  repeat' first
    | exact hal.mono rfl | with_reducible assumption | with_reducible apply ttMod_kept (hal.mono rfl)
    | with_reducible apply cntInc_kept (hal.mono rfl)
    | with_reducible apply trimSteps_kept (hal.mono rfl) | with_reducible apply serveTwin_kept (hal.mono rfl)
    | with_reducible apply ttLeave_kept (hal.mono rfl) | split
    | simp only [keptMap (hal.mono rfl)]

theorem apertureServe_kept (hal : Allow al [.csr, .evt, .jrn, .ports, .adm, .tt, .results, .map, .chans, .cure])
    (h : Kept al s0 s) (t : TtEntry) : Kept al s0 (apertureServe s t) := by
  unfold apertureServe
  repeat' first
    | exact hal.mono rfl | with_reducible assumption | with_reducible apply ttLeave_kept (hal.mono rfl)
    | with_reducible apply cntInc_kept (hal.mono rfl)
    | with_reducible apply performed_kept (hal.mono rfl) | with_reducible apply mapDamage_kept (hal.mono rfl)
    | with_reducible apply lineToWq_kept (hal.mono rfl)
    | with_reducible apply ttMod_kept (hal.mono rfl) | with_reducible apply partToGlue_kept (hal.mono rfl)
    | with_reducible apply lineToRq_kept (hal.mono rfl)
    | with_reducible apply kept_ite

theorem fillServe_kept (hal : Allow al [.csr, .evt, .jrn, .ports, .adm, .tt, .results, .map, .chans, .cure])
    (h : Kept al s0 s) (t : TtEntry) : Kept al s0 (fillServe s t) := by
  unfold fillServe
  repeat' first
    | exact hal.mono rfl | with_reducible assumption | with_reducible apply setValid_kept (hal.mono rfl)
    | with_reducible apply ttLeave_kept (hal.mono rfl)
    | with_reducible apply lineToWq_kept (hal.mono rfl) | with_reducible apply ttMod_kept (hal.mono rfl) | split | dsimp only

theorem raspServe_kept (hal : Allow al [.csr, .evt, .jrn, .ports, .adm, .tt, .results, .map, .chans, .cure])
    (h : Kept al s0 s) (t : TtEntry) : Kept al s0 (raspServe s t) := by
  unfold raspServe
  try dsimp only
  repeat' first
    | exact hal.mono rfl
    | with_reducible assumption
    | with_reducible apply apertureServe_kept (hal.mono rfl)
    | with_reducible apply doIf_kept
    | with_reducible apply raspAfter_kept (hal.mono rfl)
    | intro _
    | with_reducible apply kept_ite
    | split
    | dsimp only

theorem recastNote_kept (hal : Allow al [.map, .cure]) (h : Kept al s0 s) : Kept al s0 (recastNote s) := by
  unfold recastNote
  try dsimp only
  repeat' first
    | exact hal.mono rfl
    | with_reducible assumption
    | with_reducible apply staleClear_kept (hal.mono rfl)
    | intro _
    | with_reducible apply kept_ite
    | split
    | simp only [keptCure (hal.mono rfl)]
    | dsimp only

theorem recastServe_kept (hal : Allow al [.csr, .evt, .jrn, .ports, .adm, .tt, .results, .map, .chans, .cure])
    (h : Kept al s0 s) (t : TtEntry) (das : Nat) : Kept al s0 (recastServe s t das) := by
  unfold recastServe
  try dsimp only
  repeat' first
    | exact hal.mono rfl
    | with_reducible assumption
    | with_reducible apply ttLeave_kept (hal.mono rfl)
    | with_reducible apply recastNote_kept (hal.mono rfl)
    | with_reducible apply lineToWq_kept (hal.mono rfl)
    | with_reducible apply ttMod_kept (hal.mono rfl)
    | with_reducible apply cntInc_kept (hal.mono rfl)
    | intro _
    | with_reducible apply kept_ite
    | split
    | dsimp only

theorem zeroServe_kept (hal : Allow al [.csr, .evt, .jrn, .ports, .adm, .tt, .results, .map, .cure]) (h : Kept al s0 s)
    (t : TtEntry) : Kept al s0 (zeroServe s t) := by
  unfold zeroServe
  try dsimp only
  repeat' first
    | exact hal.mono rfl
    | with_reducible assumption
    | with_reducible apply doIf_kept
    | with_reducible apply cntInc_kept (hal.mono rfl)
    | with_reducible apply ttLeave_kept (hal.mono rfl)
    | with_reducible apply performed_kept (hal.mono rfl)
    | intro _
    | with_reducible apply kept_ite
    | split
    | dsimp only

theorem serve_kept (hal : Allow al [.csr, .evt, .jrn, .ports, .adm, .tt, .results, .map, .vnr, .chans, .cure, .tier])
    (h : Kept al s0 s) (rid : Nat) (err : RawLine) : Kept al s0 (serve s rid err) := by
  unfold serve
  try dsimp only
  repeat' first
    | exact hal.mono rfl
    | with_reducible assumption
    | with_reducible apply fillServe_kept (hal.mono rfl)
    | with_reducible apply partDone_kept (hal.mono rfl)
    | with_reducible apply ttLeave_kept (hal.mono rfl)
    | with_reducible apply lineToWq_kept (hal.mono rfl)
    | with_reducible apply ttMod_kept (hal.mono rfl)
    | with_reducible apply rawServe_kept (hal.mono rfl)
    | with_reducible apply recastServe_kept (hal.mono rfl)
    | with_reducible apply raspServe_kept (hal.mono rfl)
    | with_reducible apply apertureServe_kept (hal.mono rfl)
    | with_reducible apply trimServe_kept (hal.mono rfl)
    | with_reducible apply zeroServe_kept (hal.mono rfl)
    | with_reducible apply blankWrite_kept (hal.mono rfl)
    | with_reducible apply serveTwin_kept (hal.mono rfl)
    | with_reducible apply vnrServe_kept (hal.mono rfl)
    | intro _
    | with_reducible apply kept_ite
    | split
    | dsimp only

theorem panelPump_kept (hal : Allow al [.csr, .evt, .jrn, .ports, .adm, .tt, .results, .map, .vnr, .chans, .cure, .tier])
    (h : Kept al s0 s) : Kept al s0 (panelPump s) := by
  unfold panelPump
  try dsimp only
  repeat' first
    | exact hal.mono rfl
    | with_reducible assumption
    | with_reducible apply forEach_kept
    | with_reducible apply serve_kept (hal.mono rfl)
    | intro _
    | with_reducible apply kept_ite
    | split
    | dsimp only

end Sys2Proof.Machine
end

