-- ==== Sys2Proof/Laws/KeptAdmit.lean ====
section
/-!
SUPPORT. What the operations of Machine/Admit.lean keep.
-/
namespace Sys2Proof.Machine
set_option linter.all false
set_option Elab.async false
open Sys2Proof

variable {al : Part → Bool} {s0 s : State}

theorem maskNote_kept (hal : Allow al [.csr, .evt, .jrn, .adm]) (h : Kept al s0 s) (r : Fin 20) : Kept al s0
    (maskNote s r) := by
  unfold maskNote
  repeat' first
    | exact hal.mono rfl | with_reducible assumption | with_reducible apply evd_kept (hal.mono rfl)
    | with_reducible apply kept_ite | simp only [keptAdm (hal.mono rfl)]

theorem maskEdge_kept (hal : Allow al [.csr, .evt, .jrn, .adm]) (h : Kept al s0 s) : Kept al s0 (maskEdge s) := by
  unfold maskEdge
  try dsimp only
  repeat' first
    | exact hal.mono rfl
    | with_reducible assumption
    | with_reducible apply forEach_kept
    | with_reducible apply maskNote_kept (hal.mono rfl)
    | intro _
    | with_reducible apply kept_ite
    | split
    | dsimp only

theorem beatOut_kept (hal : Allow al [.ports]) (h : Kept al s0 s) (p : Fin 8) : Kept al s0 (beatOut s p) := by
  unfold beatOut
  try dsimp only
  repeat' first
    | exact hal.mono rfl
    | with_reducible assumption
    | with_reducible apply modPort_kept (hal.mono rfl)
    | intro _
    | with_reducible apply kept_ite
    | split
    | dsimp only

theorem unqueue_kept (hal : Allow al [.ports, .adm]) (h : Kept al s0 s) (r : Req) : Kept al s0 (unqueue s r) := by
  unfold unqueue
  repeat' first
    | exact hal.mono rfl | with_reducible assumption | with_reducible apply modPort_kept (hal.mono rfl)
    | with_reducible apply doIf_kept
    | with_reducible apply beatOut_kept (hal.mono rfl) | intro _ | split | simp only [keptAdm (hal.mono rfl)]

theorem refuse_kept (hal : Allow al [.csr, .evt, .jrn, .ports, .adm, .results]) (h : Kept al s0 s) (r : Req) (code : Code)
    (data : LineData) : Kept al s0 (refuse s r code data) := by
  unfold refuse
  repeat' first
    | exact hal.mono rfl | with_reducible assumption | with_reducible apply doIf_kept
    | with_reducible apply cntInc_kept (hal.mono rfl)
    | with_reducible apply unqueue_kept (hal.mono rfl) | with_reducible apply portDone_kept (hal.mono rfl)
    | with_reducible apply fenceNote_kept (hal.mono rfl)
    | with_reducible apply deliver_kept (hal.mono rfl) | intro _ | split

theorem powerRefuse_kept (hal : Allow al [.csr, .evt, .jrn, .ports, .adm, .results, .map, .chans]) (h : Kept al s0 s) :
    Kept al s0 (powerRefuse s) := by
  unfold powerRefuse
  try dsimp only
  repeat' first
    | exact hal.mono rfl
    | with_reducible assumption
    | with_reducible apply forEach_kept
    | with_reducible apply doIf_kept
    | with_reducible apply modCode_kept (hal.mono rfl)
    | with_reducible apply refuse_kept (hal.mono rfl)
    | intro _
    | with_reducible apply kept_ite
    | split
    | simp only [keptMap (hal.mono rfl)]
    | dsimp only

theorem withdraw_kept (hal : Allow al [.csr, .evt, .jrn, .ports, .adm, .chans]) (h : Kept al s0 s) (r : Req) : Kept al s0
    (withdraw s r) := by
  unfold withdraw
  try dsimp only
  repeat' first
    | exact hal.mono rfl
    | with_reducible assumption
    | with_reducible apply cntInc_kept (hal.mono rfl)
    | with_reducible apply unqueue_kept (hal.mono rfl)
    | with_reducible apply doIf_kept
    | with_reducible apply portDiscard_kept (hal.mono rfl)
    | with_reducible apply modPort_kept (hal.mono rfl)
    | with_reducible apply modCode_kept (hal.mono rfl)
    | intro _
    | with_reducible apply kept_ite
    | split
    | dsimp only

theorem withdrawAll_kept (hal : Allow al [.csr, .evt, .jrn, .ports, .adm, .chans]) (h : Kept al s0 s) (r : Fin 20) : Kept
    al s0 (withdrawAll s r) := by
  unfold withdrawAll
  repeat' first
    | exact hal.mono rfl | with_reducible assumption | with_reducible apply forEach_kept
    | with_reducible apply withdraw_kept (hal.mono rfl) | intro _
    | simp only [keptAdm (hal.mono rfl)]

theorem modLock_kept (hal : Allow al [.ports]) (h : Kept al s0 s) (p : Fin 8) (f : LockSt → LockSt) : Kept al s0
    (modLock s p f) := (keptPorts (s := s) (hal.mono rfl)).2 h

theorem lockFinish_kept (hal : Allow al [.ports, .adm]) (h : Kept al s0 s) (p : Fin 8) : Kept al s0 (lockFinish s p) := by
  unfold lockFinish
  try dsimp only
  repeat' first
    | exact hal.mono rfl
    | with_reducible assumption
    | with_reducible apply modLock_kept (hal.mono rfl)
    | intro _
    | with_reducible apply kept_ite
    | split
    | simp only [keptAdm (hal.mono rfl)]
    | dsimp only

theorem lockBreak_kept (hal : Allow al [.csr, .evt, .jrn, .ports, .adm, .results]) (h : Kept al s0 s) (p : Fin 8)
    (code : Code) (endSeen : Bool) : Kept al s0 (lockBreak s p code endSeen) := by
  unfold lockBreak
  repeat' first
    | exact hal.mono rfl | with_reducible assumption | with_reducible apply modLock_kept (hal.mono rfl)
    | with_reducible apply forEach_kept
    | with_reducible apply refuse_kept (hal.mono rfl) | intro _

theorem lockBroken_kept (hal : Allow al [.csr, .evt, .jrn]) (h : Kept al s0 s) (l : LockSt) : Kept al s0
    (lockBroken s l) := by
  unfold lockBroken
  repeat' first | exact hal.mono rfl | with_reducible assumption | with_reducible apply evo_kept (hal.mono rfl)

theorem lockFence_kept (hal : Allow al [.csr, .evt, .jrn, .ports, .adm, .results]) (h : Kept al s0 s) (pool : Fin 16) :
    Kept al s0 (lockFence s pool) := by
  unfold lockFence
  repeat' first
    | exact hal.mono rfl | with_reducible assumption | with_reducible apply forEach_kept
    | with_reducible apply lockBroken_kept (hal.mono rfl)
    | with_reducible apply lockBreak_kept (hal.mono rfl) | intro _ | with_reducible apply kept_ite

theorem lockCeilingEv_kept (hal : Allow al [.csr, .evt, .jrn]) (h : Kept al s0 s) (l : LockSt) : Kept al s0
    (lockCeilingEv s l) := by
  unfold lockCeilingEv
  try dsimp only
  repeat' first
    | exact hal.mono rfl
    | with_reducible assumption
    | with_reducible apply evo_kept (hal.mono rfl)
    | intro _
    | with_reducible apply kept_ite
    | split
    | dsimp only

theorem lockCeiling_kept (hal : Allow al [.csr, .evt, .jrn, .ports, .adm, .results]) (h : Kept al s0 s) (p : Fin 8) : Kept
    al s0 (lockCeiling s p) := by
  unfold lockCeiling
  try dsimp only
  repeat' first
    | exact hal.mono rfl
    | with_reducible assumption
    | with_reducible apply lockCeilingEv_kept (hal.mono rfl)
    | with_reducible apply lockBreak_kept (hal.mono rfl)
    | intro _
    | with_reducible apply kept_ite
    | split
    | dsimp only

theorem lockAccept_kept (hal : Allow al [.csr, .evt, .jrn, .ports, .adm, .results]) (h : Kept al s0 s) (p : Fin 8)
    (mid : BitVec 12) (endFlag : Bool) (pool : Option (Fin 16)) : Kept al s0 (lockAccept s p mid endFlag pool).2 := by
  unfold lockAccept
  try dsimp only
  repeat' first
    | exact hal.mono rfl
    | with_reducible assumption
    | with_reducible apply doIf_kept
    | with_reducible apply modLock_kept (hal.mono rfl)
    | with_reducible apply lockCeilingEv_kept (hal.mono rfl)
    | with_reducible apply lockBreak_kept (hal.mono rfl)
    | with_reducible apply lockFinish_kept (hal.mono rfl)
    | with_reducible apply evo_kept (hal.mono rfl)
    | intro _
    | with_reducible apply kept_ite
    | split
    | dsimp only

theorem reservedEntries_kept (hal : Allow al [.csr, .evt, .jrn, .map]) (h : Kept al s0 s) (p : Nat) : Kept al s0
    (reservedEntries s p) := by
  unfold reservedEntries
  try dsimp only
  repeat' first
    | exact hal.mono rfl
    | with_reducible assumption
    | with_reducible apply ev_kept (hal.mono rfl)
    | with_reducible apply forEach_kept
    | with_reducible apply staleSet_kept (hal.mono rfl)
    | intro _
    | with_reducible apply kept_ite
    | split
    | dsimp only

theorem mapLookup_kept (hal : Allow al [.csr, .evt, .jrn, .map, .chans]) (h : Kept al s0 s) (a : Nat) (err : RawLine) :
    Kept al s0 (mapLookup s a err) := by
  unfold mapLookup
  try dsimp only
  repeat' first
    | exact hal.mono rfl
    | with_reducible assumption
    | with_reducible apply classLookup_kept (hal.mono rfl)
    | with_reducible apply mapDamage_kept (hal.mono rfl)
    | with_reducible apply decodeNow_kept (hal.mono rfl)
    | with_reducible apply codeUe_kept (hal.mono rfl)
    | with_reducible apply askTrial_kept (hal.mono rfl)
    | with_reducible apply reservedEntries_kept (hal.mono rfl)
    | intro _
    | with_reducible apply kept_ite
    | split
    | refine kept_fst (by with_reducible assumption) (decodeNow_kept (hal.mono rfl) ?_ ..)
    | dsimp only

theorem engineDram_kept (hal : Allow al [.csr, .evt, .jrn, .chans]) (h : Kept al s0 s) (das : Nat) : Kept al s0
    (engineDram s das) := by
  unfold engineDram
  try dsimp only
  repeat' first
    | exact hal.mono rfl
    | with_reducible assumption
    | with_reducible apply decodeNow_kept (hal.mono rfl)
    | intro _
    | with_reducible apply kept_ite
    | split
    | refine kept_fst (by with_reducible assumption) (decodeNow_kept (hal.mono rfl) ?_ ..)
    | dsimp only

theorem engineRead_kept (hal : Allow al [.csr, .evt, .jrn, .map, .chans]) (h : Kept al s0 s) (src : Fin 20) (a : Nat) :
    Kept al s0 (engineRead s src a) := by
  unfold engineRead
  try dsimp only
  repeat' first
    | exact hal.mono rfl
    | with_reducible assumption
    | with_reducible apply cntInc_kept (hal.mono rfl)
    | with_reducible apply engineDram_kept (hal.mono rfl)
    | with_reducible apply classLookup_kept (hal.mono rfl)
    | with_reducible apply doIf_kept
    | intro _
    | with_reducible apply kept_ite
    | split
    | dsimp only

theorem serveZero_kept (hal : Allow al [.csr, .evt, .jrn, .ports, .adm, .results]) (h : Kept al s0 s) (r : Req) : Kept al
    s0 (serveZero s r) := by
  unfold serveZero
  repeat' first
    | exact hal.mono rfl | with_reducible assumption | with_reducible apply doIf_kept
    | with_reducible apply cntInc_kept (hal.mono rfl)
    | with_reducible apply unqueue_kept (hal.mono rfl) | with_reducible apply refuse_kept (hal.mono rfl)
    | with_reducible apply lockFinish_kept (hal.mono rfl) | intro _
    | split

theorem modWait_kept (hal : Allow al [.adm]) (h : Kept al s0 s) (rid : Nat) (f : Req → Req) : Kept al s0
    (modWait s rid f) := (keptAdm (s := s) (hal.mono rfl)).2 h

theorem ttNote_kept (hal : Allow al [.csr, .evt, .jrn, .adm]) (h : Kept al s0 s) (pool : Fin 16) : Kept al s0
    (ttNote s pool) := by
  unfold ttNote
  repeat' first
    | exact hal.mono rfl | with_reducible assumption | with_reducible apply ev_kept (hal.mono rfl)
    | with_reducible apply evd_kept (hal.mono rfl)
    | with_reducible apply kept_ite | simp only [keptAdm (hal.mono rfl)]

theorem lockAdmit_kept (hal : Allow al [.csr, .ports, .adm]) (h : Kept al s0 s) (pool : Fin 16) (r : Req) : Kept al s0
    (lockAdmit s pool r) := by
  unfold lockAdmit
  repeat' first
    | exact hal.mono rfl | with_reducible assumption | with_reducible apply cntInc_kept (hal.mono rfl)
    | with_reducible apply modLock_kept (hal.mono rfl)
    | with_reducible apply doIf_kept | with_reducible apply lockFinish_kept (hal.mono rfl) | intro _ | split

theorem jobNote_kept (hal : Allow al [.ten]) (h : Kept al s0 s) (d : Dest) (e : Option (BitVec 32)) (mir : Bool) : Kept al
    s0 (jobNote s d e mir) := by
  unfold jobNote
  repeat' first | exact hal.mono rfl | with_reducible assumption | split | simp only [keptTen (hal.mono rfl)]

theorem admitEffects_kept (hal : Allow al [.csr, .evt, .jrn, .ports, .map, .tier, .ten]) (h : Kept al s0 s) (t : TtEntry)
    : Kept al s0 (admitEffects s t) := by
  unfold admitEffects
  try dsimp only
  repeat' first
    | exact hal.mono rfl
    | with_reducible assumption
    | with_reducible apply markWritten_kept (hal.mono rfl)
    | with_reducible apply doIf_kept
    | with_reducible apply evo_kept (hal.mono rfl)
    | with_reducible apply fenceNote_kept (hal.mono rfl)
    | with_reducible apply jobNote_kept (hal.mono rfl)
    | with_reducible apply retDirty_kept (hal.mono rfl)
    | with_reducible apply heatUpdate_kept (hal.mono rfl)
    | intro _
    | with_reducible apply kept_ite
    | split
    | dsimp only

theorem admitReq_kept
    (hal : Allow al [.csr, .evt, .jrn, .ports, .adm, .tt, .results, .map, .vnr, .chans, .cure, .tier, .ten])
    (h : Kept al s0 s) (pool : Fin 16) (r : Req) (cls : TtClass) (err mapErr : RawLine) : Kept al s0
    (admitReq s pool r cls err mapErr) := by
  unfold admitReq
  try dsimp only
  repeat' first
    | exact hal.mono rfl
    | with_reducible assumption
    | with_reducible apply ttClear_kept (hal.mono rfl)
    | with_reducible apply lockAdmit_kept (hal.mono rfl)
    | with_reducible apply cntInc_kept (hal.mono rfl)
    | with_reducible apply unqueue_kept (hal.mono rfl)
    | with_reducible apply ttNote_kept (hal.mono rfl)
    | with_reducible apply admitEffects_kept (hal.mono rfl)
    | with_reducible apply doIf_kept
    | with_reducible apply mapLookup_kept (hal.mono rfl)
    | with_reducible apply ttMod_kept (hal.mono rfl)
    | with_reducible apply ttDue_kept (hal.mono rfl)
    | with_reducible apply curePump_kept (hal.mono rfl)
    | with_reducible apply panelPump_kept (hal.mono rfl)
    | with_reducible apply serve_kept (hal.mono rfl)
    | intro _
    | with_reducible apply kept_ite
    | split
    | simp only [keptTt (hal.mono rfl)]
    | dsimp only

theorem waitCounts_kept (hal : Allow al [.csr]) (h : Kept al s0 s) (cs : List Req) (r : Req) : Kept al s0
    (waitCounts s cs r) := by
  unfold waitCounts
  repeat' first
    | exact hal.mono rfl | with_reducible assumption | with_reducible apply forEach_kept
    | with_reducible apply cntInc_kept (hal.mono rfl)
    | with_reducible apply doIf_kept | with_reducible apply setReg_kept (hal.mono rfl) | intro _

theorem noteEligible_kept (hal : Allow al [.adm]) (h : Kept al s0 s) (pool : Fin 16) : Kept al s0 (noteEligible s pool) :=
    (keptAdm (s := s) (hal.mono rfl)).2 h

theorem frameWaits_kept (hal : Allow al [.csr, .evt, .jrn, .tier]) (h : Kept al s0 s) (pool : Fin 16) : Kept al s0
    (frameWaits s pool) := by
  unfold frameWaits
  repeat' first
    | exact hal.mono rfl | with_reducible assumption | with_reducible apply cntAdd_kept (hal.mono rfl)
    | with_reducible apply modTier_kept (hal.mono rfl)
    | with_reducible apply ev_kept (hal.mono rfl) | with_reducible apply kept_ite

theorem poolPrep_kept (hal : Allow al [.csr, .evt, .jrn, .ports, .adm, .tt, .results, .map, .vnr, .chans, .cure, .tier])
    (h : Kept al s0 s) (pool : Fin 16) (mapErr : RawLine) : Kept al s0 (poolPrep s pool mapErr) := by
  unfold poolPrep
  try dsimp only
  repeat' first
    | exact hal.mono rfl
    | with_reducible assumption
    | with_reducible apply panelPump_kept (hal.mono rfl)
    | with_reducible apply maskEdge_kept (hal.mono rfl)
    | with_reducible apply powerRefuse_kept (hal.mono rfl)
    | with_reducible apply forEach_kept
    | with_reducible apply mapLookup_kept (hal.mono rfl)
    | with_reducible apply serveZero_kept (hal.mono rfl)
    | with_reducible apply lineFlush_kept (hal.mono rfl)
    | with_reducible apply noteEligible_kept (hal.mono rfl)
    | with_reducible apply frameWaits_kept (hal.mono rfl)
    | intro _
    | with_reducible apply kept_ite
    | split
    | dsimp only

theorem poolChosen_kept (hal : Allow al [.csr, .adm]) (h : Kept al s0 s) (pool : Fin 16) (cs : List Req) (r : Req) : Kept
    al s0 (poolChosen s pool cs r) := by
  unfold poolChosen
  try dsimp only
  repeat' first
    | exact hal.mono rfl
    | with_reducible assumption
    | with_reducible apply waitCounts_kept (hal.mono rfl)
    | intro _
    | with_reducible apply kept_ite
    | split
    | simp only [keptAdm (hal.mono rfl)]
    | dsimp only

theorem poolSelect_kept
    (hal : Allow al [.csr, .evt, .jrn, .ports, .adm, .tt, .results, .map, .vnr, .chans, .cure, .tier, .ten])
    (h : Kept al s0 s) (pool : Fin 16) (err mapErr : RawLine) : Kept al s0 (poolSelect s pool err mapErr) := by
  unfold poolSelect
  try dsimp only
  repeat' first
    | exact hal.mono rfl
    | with_reducible assumption
    | with_reducible apply poolPrep_kept (hal.mono rfl)
    | with_reducible apply poolChosen_kept (hal.mono rfl)
    | with_reducible apply admitReq_kept (hal.mono rfl)
    | intro _
    | with_reducible apply kept_ite
    | split
    | dsimp only

theorem prefetchDrop_kept (hal : Allow al [.csr, .ports, .adm]) (h : Kept al s0 s) (src : Fin 20) (pool : Fin 16) : Kept
    al s0 (prefetchDrop s src pool) := by
  unfold prefetchDrop
  try dsimp only
  repeat' first
    | exact hal.mono rfl
    | with_reducible assumption
    | with_reducible apply cntInc_kept (hal.mono rfl)
    | with_reducible apply unqueue_kept (hal.mono rfl)
    | intro _
    | with_reducible apply kept_ite
    | split
    | dsimp only

theorem waitLong_kept (hal : Allow al [.csr, .evt, .jrn]) (h : Kept al s0 s) (src : Fin 20) (pool : Fin 16) : Kept al s0
    (waitLong s src pool) := by
  unfold waitLong
  repeat' first | exact hal.mono rfl | with_reducible assumption | with_reducible apply evo_kept (hal.mono rfl) | split

theorem hwClr_kept (hal : Allow al [.adm]) (h : Kept al s0 s) : Kept al s0 (hwClr s) := (keptAdm (s := s) (hal.mono rfl)).2 h

end Sys2Proof.Machine
end

