-- ==== Sys2Proof/Laws/KeptPorts.lean ====
section
/-!
SUPPORT. What the operations of Machine/Ports.lean keep.
-/
namespace Sys2Proof.Machine
set_option linter.all false
set_option Elab.async false
open Sys2Proof

variable {al : Part → Bool} {s0 s : State}

theorem perr_kept (hal : Allow al [.csr, .evt, .jrn]) (h : Kept al s0 s) (p : Fin 8) (bit tag : Nat) (o : EvtOrigin) :
    Kept al s0 (perr s p bit tag o) := by
  unfold perr
  try dsimp only
  repeat' first
    | exact hal.mono rfl
    | with_reducible assumption
    | with_reducible apply evo_kept (hal.mono rfl)
    | with_reducible apply rcOr_kept (hal.mono rfl)
    | intro _
    | with_reducible apply kept_ite
    | split
    | dsimp only

theorem dropBeat_kept (hal : Allow al [.ports]) (h : Kept al s0 s) (p : Fin 8) : Kept al s0 (dropBeat s p) := by
  unfold dropBeat
  try dsimp only
  repeat' first
    | exact hal.mono rfl
    | with_reducible assumption
    | with_reducible apply beatOut_kept (hal.mono rfl)
    | with_reducible apply modPort_kept (hal.mono rfl)
    | intro _
    | with_reducible apply kept_ite
    | split
    | dsimp only

theorem takeReq_kept (hal : Allow al [.csr, .evt, .jrn, .ports]) (h : Kept al s0 s) (p : Fin 8) (wr : Bool) (q : FrpReq) :
    Kept al s0 (takeReq s p wr q).2 := by
  unfold takeReq
  repeat' first
    | exact hal.mono rfl | with_reducible assumption | with_reducible apply cntInc_kept (hal.mono rfl)
    | with_reducible apply perr_kept (hal.mono rfl)
    | with_reducible apply doIf_kept | with_reducible apply dropBeat_kept (hal.mono rfl)
    | with_reducible apply modPort_kept (hal.mono rfl) | intro _
    | split | dsimp only

theorem refuseAtPort_kept (hal : Allow al [.csr, .evt, .jrn, .ports]) (h : Kept al s0 s) (p : Fin 8) (wr : Bool)
    (tag : Nat) (code : Code) : Kept al s0 (refuseAtPort s p wr tag code) := by
  unfold refuseAtPort
  repeat' first
    | exact hal.mono rfl | with_reducible assumption | with_reducible apply doIf_kept
    | with_reducible apply cntInc_kept (hal.mono rfl)
    | with_reducible apply dropBeat_kept (hal.mono rfl) | with_reducible apply portDone_kept (hal.mono rfl) | intro _

theorem lockCounted_kept (hal : Allow al [.csr, .evt, .jrn, .ports, .adm, .results]) (h : Kept al s0 s) (p : Fin 8)
    (q : FrpReq) : Kept al s0 (lockCounted s p q) := by
  unfold lockCounted
  try dsimp only
  repeat' first
    | exact hal.mono rfl
    | with_reducible assumption
    | with_reducible apply lockAccept_kept (hal.mono rfl)
    | intro _
    | with_reducible apply kept_ite
    | split
    | refine kept_snd (by with_reducible assumption) (lockAccept_kept (hal.mono rfl) ?_ ..)
    | dsimp only

theorem firstChecks_kept (hal : Allow al [.csr, .evt, .jrn, .ports, .adm, .results]) (h : Kept al s0 s) (p : Fin 8)
    (op : Option MemOp) (nop : Bool) (q : FrpReq) : Kept al s0 (firstChecks s p op nop q).2 := by
  unfold firstChecks
  try dsimp only
  repeat' first
    | exact hal.mono rfl
    | with_reducible assumption
    | with_reducible apply lockCounted_kept (hal.mono rfl)
    | with_reducible apply perr_kept (hal.mono rfl)
    | intro _
    | with_reducible apply kept_ite
    | split
    | dsimp only

theorem emptyWrite_kept (hal : Allow al [.csr, .evt, .jrn, .ports, .adm, .results]) (h : Kept al s0 s) (rid : Nat) : Kept
    al s0 (emptyWrite s rid) := by
  unfold emptyWrite
  repeat' first
    | exact hal.mono rfl | with_reducible assumption | with_reducible apply refuse_kept (hal.mono rfl)
    | with_reducible apply doIf_kept
    | with_reducible apply lockFinish_kept (hal.mono rfl) | intro _ | split

theorem giveData_kept (hal : Allow al [.csr, .evt, .jrn, .ports, .adm, .results]) (h : Kept al s0 s) (rid : Nat)
    (b : WdBeat) : Kept al s0 (giveData s rid b) := by
  unfold giveData
  try dsimp only
  repeat' first
    | exact hal.mono rfl
    | with_reducible assumption
    | with_reducible apply emptyWrite_kept (hal.mono rfl)
    | with_reducible apply modWait_kept (hal.mono rfl)
    | intro _
    | with_reducible apply kept_ite
    | split
    | dsimp only

theorem enqueue_kept (hal : Allow al [.csr, .evt, .jrn, .ports, .adm, .results, .tier]) (h : Kept al s0 s) (p : Fin 8)
    (r : Req) : Kept al s0 (enqueue s p r) := by
  unfold enqueue
  try dsimp only
  repeat' first
    | exact hal.mono rfl
    | with_reducible assumption
    | with_reducible apply modPort_kept (hal.mono rfl)
    | with_reducible apply doIf_kept
    | with_reducible apply retDirty_kept (hal.mono rfl)
    | with_reducible apply giveData_kept (hal.mono rfl)
    | intro _
    | with_reducible apply kept_ite
    | split
    | simp only [keptAdm (hal.mono rfl)]
    | dsimp only

theorem zeroLookup_kept (hal : Allow al [.csr, .evt, .jrn, .map, .chans]) (h : Kept al s0 s) (r : Req) (mapErr : RawLine)
    : Kept al s0 (zeroLookup s r mapErr) := by
  unfold zeroLookup
  try dsimp only
  repeat' first
    | exact hal.mono rfl
    | with_reducible assumption
    | with_reducible apply doIf_kept
    | with_reducible apply mapLookup_kept (hal.mono rfl)
    | intro _
    | with_reducible apply kept_ite
    | split
    | dsimp only

theorem acceptMem_kept (hal : Allow al [.csr, .evt, .jrn, .ports, .adm, .results, .map, .chans, .tier]) (h : Kept al s0 s)
    (p : Fin 8) (r : Req) (tag : Nat) (mapErr : RawLine) : Kept al s0 (acceptMem s p r tag mapErr) := by
  unfold acceptMem
  try dsimp only
  repeat' first
    | exact hal.mono rfl
    | with_reducible assumption
    | with_reducible apply zeroLookup_kept (hal.mono rfl)
    | with_reducible apply portDone_kept (hal.mono rfl)
    | with_reducible apply enqueue_kept (hal.mono rfl)
    | with_reducible apply lockAccept_kept (hal.mono rfl)
    | with_reducible apply refuseAtPort_kept (hal.mono rfl)
    | with_reducible apply cntInc_kept (hal.mono rfl)
    | with_reducible apply doIf_kept
    | intro _
    | with_reducible apply kept_ite
    | split
    | refine kept_snd (by with_reducible assumption) (lockAccept_kept (hal.mono rfl) ?_ ..)
    | dsimp only

theorem acceptReq_kept (hal : Allow al [.csr, .evt, .jrn, .ports, .adm, .results, .map, .chans, .tier]) (h : Kept al s0 s)
    (p : Fin 8) (op : MemOp) (q : FrpReq) (mapErr : RawLine) : Kept al s0 (acceptReq s p op q mapErr) := by
  unfold acceptReq
  try dsimp only
  repeat' first
    | exact hal.mono rfl
    | with_reducible assumption
    | with_reducible apply takeReq_kept (hal.mono rfl)
    | with_reducible apply firstChecks_kept (hal.mono rfl)
    | with_reducible apply refuseAtPort_kept (hal.mono rfl)
    | with_reducible apply acceptMem_kept (hal.mono rfl)
    | intro _
    | with_reducible apply kept_ite
    | split
    | refine kept_snd (by with_reducible assumption) (takeReq_kept (hal.mono rfl) ?_ ..)
    | refine kept_snd (by with_reducible assumption) (firstChecks_kept (hal.mono rfl) ?_ ..)
    | dsimp only

theorem acceptNop_kept (hal : Allow al [.csr, .evt, .jrn, .ports, .adm, .results]) (h : Kept al s0 s) (p : Fin 8)
    (q : FrpReq) : Kept al s0 (acceptNop s p q) := by
  unfold acceptNop
  repeat' first
    | exact hal.mono rfl | with_reducible assumption | with_reducible apply refuseAtPort_kept (hal.mono rfl)
    | with_reducible apply nopPump_kept (hal.mono rfl)
    | with_reducible apply modPort_kept (hal.mono rfl) | split
    | refine kept_snd (by with_reducible assumption) (takeReq_kept (hal.mono rfl) ?_ ..)
    | refine kept_snd (by with_reducible assumption) (firstChecks_kept (hal.mono rfl) ?_ ..)

theorem acceptFence_kept (hal : Allow al [.csr, .evt, .jrn, .ports, .adm, .results]) (h : Kept al s0 s) (p : Fin 8)
    (q : FrpReq) : Kept al s0 (acceptFence s p q) := by
  unfold acceptFence
  repeat' first
    | exact hal.mono rfl | with_reducible assumption | with_reducible apply refuseAtPort_kept (hal.mono rfl)
    | with_reducible apply fencePump_kept (hal.mono rfl)
    | with_reducible apply modPort_kept (hal.mono rfl) | split
    | refine kept_snd (by with_reducible assumption) (takeReq_kept (hal.mono rfl) ?_ ..)
    | refine kept_snd (by with_reducible assumption) (firstChecks_kept (hal.mono rfl) ?_ ..)

theorem acceptReserved_kept (hal : Allow al [.csr, .evt, .jrn, .ports, .adm, .results]) (h : Kept al s0 s) (p : Fin 8)
    (q : FrpReq) : Kept al s0 (acceptReserved s p q) := by
  unfold acceptReserved
  repeat' first
    | exact hal.mono rfl | with_reducible assumption | with_reducible apply refuseAtPort_kept (hal.mono rfl)
    | with_reducible apply lockCounted_kept (hal.mono rfl)
    | with_reducible apply perr_kept (hal.mono rfl) | split
    | refine kept_snd (by with_reducible assumption) (takeReq_kept (hal.mono rfl) ?_ ..)

theorem wdBeat_kept (hal : Allow al [.csr, .evt, .jrn, .ports, .adm, .results]) (h : Kept al s0 s) (p : Fin 8)
    (d : LineData) (be : LineMask) : Kept al s0 (wdBeat s p d be) := by
  unfold wdBeat
  repeat' first
    | exact hal.mono rfl | with_reducible assumption | with_reducible apply cntInc_kept (hal.mono rfl)
    | with_reducible apply perr_kept (hal.mono rfl)
    | with_reducible apply modPort_kept (hal.mono rfl) | with_reducible apply giveData_kept (hal.mono rfl)
    | with_reducible apply beatOut_kept (hal.mono rfl) | split
    | dsimp only

theorem rdTransfer_kept (hal : Allow al [.csr, .evt, .jrn, .ports, .adm, .tt, .results, .cure]) (h : Kept al s0 s)
    (p : Fin 8) : Kept al s0 (rdTransfer s p) := by
  unfold rdTransfer
  repeat' first
    | exact hal.mono rfl | with_reducible assumption | with_reducible apply portPump_kept (hal.mono rfl)
    | with_reducible apply cntInc_kept (hal.mono rfl)
    | with_reducible apply modPort_kept (hal.mono rfl) | split

theorem cmpTransfer_kept (hal : Allow al [.csr, .evt, .jrn, .ports, .adm, .tt, .results, .cure]) (h : Kept al s0 s)
    (p : Fin 8) : Kept al s0 (cmpTransfer s p) := by
  unfold cmpTransfer
  try dsimp only
  repeat' first
    | exact hal.mono rfl
    | with_reducible assumption
    | with_reducible apply portPump_kept (hal.mono rfl)
    | with_reducible apply modPort_kept (hal.mono rfl)
    | intro _
    | with_reducible apply kept_ite
    | split
    | dsimp only

theorem ntcPush_kept (hal : Allow al [.csr, .evt, .jrn, .ntc]) (h : Kept al s0 s) (n : Notice) : Kept al s0
    (ntcPush s n) := by
  unfold ntcPush
  repeat' first
    | exact hal.mono rfl | with_reducible assumption | with_reducible apply doIf_kept
    | with_reducible apply ev_kept (hal.mono rfl) | intro _
    | simp only [keptNtc (hal.mono rfl)]

theorem ntcTransfer_kept (hal : Allow al [.csr, .ntc]) (h : Kept al s0 s) : Kept al s0 (ntcTransfer s) := by
  unfold ntcTransfer
  try dsimp only
  repeat' first
    | exact hal.mono rfl
    | with_reducible assumption
    | with_reducible apply cntInc_kept (hal.mono rfl)
    | intro _
    | with_reducible apply kept_ite
    | split
    | simp only [keptNtc (hal.mono rfl)]
    | dsimp only

theorem portUpTry_kept (hal : Allow al [.csr, .evt, .jrn, .ports, .adm]) (h : Kept al s0 s) (p : Fin 8) : Kept al s0
    (portUpTry s p) := by
  unfold portUpTry
  repeat' first
    | exact hal.mono rfl | with_reducible assumption | with_reducible apply modPort_kept (hal.mono rfl)
    | with_reducible apply maskNote_kept (hal.mono rfl)
    | with_reducible apply ev_kept (hal.mono rfl) | with_reducible apply kept_ite

theorem portQuiesce_kept (hal : Allow al [.csr, .evt, .jrn, .ports, .adm, .tt, .results, .chans, .cure])
    (h : Kept al s0 s) (p : Fin 8) : Kept al s0 (portQuiesce s p) := by
  unfold portQuiesce
  repeat' first
    | exact hal.mono rfl | with_reducible assumption | with_reducible apply modPort_kept (hal.mono rfl)
    | with_reducible apply ev_kept (hal.mono rfl)
    | with_reducible apply doIf_kept | with_reducible apply lockBroken_kept (hal.mono rfl)
    | with_reducible apply modLock_kept (hal.mono rfl)
    | with_reducible apply maskNote_kept (hal.mono rfl) | with_reducible apply withdrawAll_kept (hal.mono rfl)
    | with_reducible apply portDiscard_kept (hal.mono rfl)
    | with_reducible apply ttPump_kept (hal.mono rfl) | with_reducible apply waitPump_kept (hal.mono rfl) | intro _
    | with_reducible apply kept_ite

theorem liveLow_kept (hal : Allow al [.csr, .evt, .jrn, .ports, .adm, .tt, .results, .chans, .cure]) (h : Kept al s0 s)
    (p : Fin 8) : Kept al s0 (liveLow s p) := by
  unfold liveLow
  try dsimp only
  repeat' first
    | exact hal.mono rfl
    | with_reducible assumption
    | with_reducible apply portQuiesce_kept (hal.mono rfl)
    | with_reducible apply modPort_kept (hal.mono rfl)
    | intro _
    | with_reducible apply kept_ite
    | split
    | dsimp only

theorem liveHigh_kept (hal : Allow al [.csr, .evt, .jrn, .ports, .adm]) (h : Kept al s0 s) (p : Fin 8) : Kept al s0
    (liveHigh s p) := by
  unfold liveHigh
  try dsimp only
  repeat' first
    | exact hal.mono rfl
    | with_reducible assumption
    | with_reducible apply portUpTry_kept (hal.mono rfl)
    | with_reducible apply modPort_kept (hal.mono rfl)
    | intro _
    | with_reducible apply kept_ite
    | split
    | dsimp only

theorem quiesceDone_kept (hal : Allow al [.csr, .evt, .jrn, .ports, .adm]) (h : Kept al s0 s) (p : Fin 8) : Kept al s0
    (quiesceDone s p) := by
  unfold quiesceDone
  repeat' first
    | exact hal.mono rfl | with_reducible assumption | with_reducible apply portUpTry_kept (hal.mono rfl)
    | with_reducible apply modPort_kept (hal.mono rfl)
    | with_reducible apply kept_ite

theorem frpCtlEffect_kept (hal : Allow al [.csr, .evt, .jrn, .ports, .adm, .tt, .results, .chans, .cure])
    (h : Kept al s0 s) (p : Fin 8) : Kept al s0 (frpCtlEffect s p) := by
  unfold frpCtlEffect
  repeat' first
    | exact hal.mono rfl | with_reducible assumption | with_reducible apply portUpTry_kept (hal.mono rfl)
    | with_reducible apply portQuiesce_kept (hal.mono rfl)
    | with_reducible apply kept_ite

end Sys2Proof.Machine
end

