-- ==== Sys2Proof/Laws/KeptCure.lean ====
section
/-!
SUPPORT. What the operations of Machine/Cure.lean keep.
-/
namespace Sys2Proof.Machine
set_option linter.all false
set_option Elab.async false
open Sys2Proof

variable {al : Part → Bool} {s0 s : State}

theorem modCure_kept (hal : Allow al [.cure]) (h : Kept al s0 s) (f : CureSt → CureSt) : Kept al s0 (modCure s f) :=
    (keptCure (s := s) (hal.mono rfl)).2 h

theorem markOne_kept (hal : Allow al [.cure]) (h : Kept al s0 s) (k : Fin 8) : Kept al s0 (markOne s k) := by
  unfold markOne
  repeat' first
    | exact hal.mono rfl | with_reducible assumption | with_reducible apply modCure_kept (hal.mono rfl)
    | with_reducible apply outPush_kept (hal.mono rfl)
    | with_reducible apply kept_ite

theorem markPump_kept (hal : Allow al [.cure]) (h : Kept al s0 s) : Kept al s0 (markPump s) := by
  unfold markPump
  try dsimp only
  repeat' first
    | exact hal.mono rfl
    | with_reducible assumption
    | with_reducible apply forEach_kept
    | with_reducible apply markOne_kept (hal.mono rfl)
    | intro _
    | with_reducible apply kept_ite
    | split
    | dsimp only

theorem stallNote_kept (hal : Allow al [.csr, .evt, .jrn, .cure]) (h : Kept al s0 s) : Kept al s0 (stallNote s) := by
  unfold stallNote
  repeat' first
    | exact hal.mono rfl | with_reducible assumption | with_reducible apply ev_kept (hal.mono rfl)
    | with_reducible apply modCure_kept (hal.mono rfl)
    | with_reducible apply kept_ite

theorem epochAdvance_kept (hal : Allow al [.csr, .evt, .jrn, .ports, .adm, .tt, .results, .cure]) (h : Kept al s0 s) :
    Kept al s0 (epochAdvance s) := by
  unfold epochAdvance
  repeat' first
    | exact hal.mono rfl | with_reducible assumption | with_reducible apply stallNote_kept (hal.mono rfl)
    | with_reducible apply curePump_kept (hal.mono rfl)
    | with_reducible apply markPump_kept (hal.mono rfl) | with_reducible apply modCure_kept (hal.mono rfl)
    | with_reducible apply kept_ite

theorem epochSet_kept (hal : Allow al [.csr, .evt, .jrn, .cure, .fw]) (h : Kept al s0 s) (mid : BitVec 12) (v : Word32) :
    Kept al s0 (epochSet s mid v) := by
  unfold epochSet
  repeat' first
    | exact hal.mono rfl | with_reducible assumption | with_reducible apply lockViolation_kept (hal.mono rfl)
    | with_reducible apply modCure_kept (hal.mono rfl)
    | with_reducible apply kept_ite | simp only [keptFw (hal.mono rfl)]

theorem mirPush_kept (hal : Allow al [.cure]) (h : Kept al s0 s) (c : Nat) (g : OutSeg) : Kept al s0 (mirPush s c g) := by
  unfold mirPush
  repeat' first
    | exact hal.mono rfl | with_reducible assumption | with_reducible apply modCure_kept (hal.mono rfl)
    | with_reducible apply outPush_kept (hal.mono rfl) | split
    | dsimp only

theorem pendPump_kept (hal : Allow al [.cure]) (h : Kept al s0 s) : Kept al s0 (pendPump s) :=
    (keptCure (s := s) (hal.mono rfl)).2 h

theorem capBlocked_kept (hal : Allow al [.csr, .evt, .jrn, .cure]) (h : Kept al s0 s) (t : TtEntry) : Kept al s0
    (capBlocked s t) := by
  unfold capBlocked
  repeat' first
    | exact hal.mono rfl | with_reducible assumption | with_reducible apply cntInc_kept (hal.mono rfl)
    | with_reducible apply modCure_kept (hal.mono rfl)
    | with_reducible apply ev_kept (hal.mono rfl) | with_reducible apply kept_ite

theorem mirrorCapture_kept (hal : Allow al [.csr, .evt, .jrn, .ports, .adm, .tt, .results, .map, .cure])
    (h : Kept al s0 s) : Kept al s0 (mirrorCapture s) := by
  unfold mirrorCapture
  try dsimp only
  repeat' first
    | exact hal.mono rfl
    | with_reducible assumption
    | with_reducible apply forEach_kept
    | with_reducible apply capBlocked_kept (hal.mono rfl)
    | with_reducible apply mirPush_kept (hal.mono rfl)
    | with_reducible apply modCure_kept (hal.mono rfl)
    | with_reducible apply markPump_kept (hal.mono rfl)
    | with_reducible apply fwdPump_kept (hal.mono rfl)
    | with_reducible apply ttSettle_kept (hal.mono rfl)
    | with_reducible apply ttMod_kept (hal.mono rfl)
    | intro _
    | with_reducible apply kept_ite
    | split
    | exact KeptOpt.none _
    | with_reducible apply KeptOpt.some
    | with_reducible apply KeptOpt.getD
    | with_reducible apply KeptOpt.then
    | with_reducible apply KeptOpt.map
    | with_reducible apply KeptOpt.findSome
    | refine KeptOpt.get (by with_reducible assumption) ?_
    | dsimp only

theorem enterStalled_kept (hal : Allow al [.csr, .evt, .jrn, .cure]) (h : Kept al s0 s) (conn : Nat) : Kept al s0
    (enterStalled s conn) := by
  unfold enterStalled
  try dsimp only
  repeat' first
    | exact hal.mono rfl
    | with_reducible assumption
    | with_reducible apply evd_kept (hal.mono rfl)
    | with_reducible apply modCure_kept (hal.mono rfl)
    | intro _
    | with_reducible apply kept_ite
    | split
    | dsimp only

theorem twinSilent_kept (hal : Allow al [.csr, .evt, .jrn, .cure]) (h : Kept al s0 s) (k : Fin 8) : Kept al s0
    (twinSilent s k) := by
  unfold twinSilent
  try dsimp only
  repeat' first
    | exact hal.mono rfl
    | with_reducible assumption
    | with_reducible apply enterStalled_kept (hal.mono rfl)
    | intro _
    | with_reducible apply kept_ite
    | split
    | dsimp only

theorem markAck_kept (hal : Allow al [.csr, .evt, .jrn, .ports, .adm, .tt, .results, .cure]) (h : Kept al s0 s)
    (k : Fin 8) (e : BitVec 32) : Kept al s0 (markAck s k e) := by
  unfold markAck
  repeat' first
    | exact hal.mono rfl | with_reducible assumption | with_reducible apply modCure_kept (hal.mono rfl)
    | with_reducible apply ev_kept (hal.mono rfl)
    | with_reducible apply stallNote_kept (hal.mono rfl) | with_reducible apply curePump_kept (hal.mono rfl)
    | with_reducible apply markPump_kept (hal.mono rfl)
    | with_reducible apply pendPump_kept (hal.mono rfl) | with_reducible apply kept_ite

theorem enterDegraded_kept (hal : Allow al [.csr, .evt, .jrn, .ports, .adm, .tt, .results, .map, .cure, .conns])
    (h : Kept al s0 s) : Kept al s0 (enterDegraded s) := by
  unfold enterDegraded
  extract_lets c late s1 s2 cs s3 s4 s5
  have h1 : Kept al s0 s1 := forEach_kept h _ _ fun s p k => staleSet_kept (hal.mono rfl) k p
  clear_value s1
  have h2 : Kept al s0 s2 := (keptTt (hal.mono rfl)).2 h1
  clear_value s2
  have hc : smWf Conn.none s2.conns = true → smWf Conn.none cs = true :=
    smWf_foldl Conn.none _ (fun m k hm => smWf_smSet Conn.none _ _ hm) _
  clear_value cs
  have h3 : Kept al s0 s3 := h2.conns (hal.mono rfl) hc
  clear_value s3
  have h4 : Kept al s0 s4 := modCure_kept (hal.mono rfl) h3 _
  clear_value s4
  exact stallNote_kept (hal.mono rfl) (curePump_kept (hal.mono rfl) (fwdPump_kept (hal.mono rfl) (forEach_kept (ev_kept (hal.mono rfl) h4 771) _ _ fun s t k => ttSettle_kept (hal.mono rfl) k _)))

theorem curDegrade_kept (hal : Allow al [.csr, .evt, .jrn, .ports, .adm, .tt, .results, .map, .cure, .conns])
    (h : Kept al s0 s) : Kept al s0 (curDegrade s) := by
  unfold curDegrade
  repeat' first
    | exact hal.mono rfl | with_reducible assumption | with_reducible apply enterDegraded_kept (hal.mono rfl)
    | with_reducible apply ev_kept (hal.mono rfl)
    | with_reducible apply kept_ite

theorem curAttach_kept (hal : Allow al [.csr, .evt, .jrn, .ports, .adm, .tt, .results, .cure]) (h : Kept al s0 s) : Kept
    al s0 (curAttach s) := by
  unfold curAttach
  repeat' first
    | exact hal.mono rfl | with_reducible assumption | with_reducible apply ev_kept (hal.mono rfl)
    | with_reducible apply modCure_kept (hal.mono rfl)
    | with_reducible apply curePump_kept (hal.mono rfl) | with_reducible apply markPump_kept (hal.mono rfl)
    | with_reducible apply kept_ite

theorem staleSideWrite_kept (hal : Allow al [.cure]) (h : Kept al s0 s) (v : Bool) : Kept al s0 (staleSideWrite s v) := by
  unfold staleSideWrite
  try dsimp only
  repeat' first
    | exact hal.mono rfl
    | with_reducible assumption
    | with_reducible apply modCure_kept (hal.mono rfl)
    | intro _
    | with_reducible apply kept_ite
    | split
    | dsimp only

theorem poisonSent_kept (hal : Allow al [.csr, .evt, .jrn]) (h : Kept al s0 s) (p : Nat)
    (ls : List (Nat × Option (Option LineData))) : Kept al s0 (poisonSent s p ls) := by
  unfold poisonSent
  try dsimp only
  repeat' first
    | exact hal.mono rfl
    | with_reducible assumption
    | with_reducible apply forEach_kept
    | with_reducible apply evo_kept (hal.mono rfl)
    | intro _
    | with_reducible apply kept_ite
    | split
    | dsimp only

theorem panelSegs_kept (hal : Allow al [.csr, .evt, .jrn]) (h : Kept al s0 s) (p : Nat) (e : BitVec 32)
    (far : List (Nat × LineData)) (why : Why) : Kept al s0 (panelSegs s p e far why).2 := by
  unfold panelSegs
  repeat' first | exact hal.mono rfl | with_reducible assumption | with_reducible apply poisonSent_kept (hal.mono rfl)

theorem panelReads_kept (hal : Allow al [.csr, .evt, .jrn, .map, .chans]) (h : Kept al s0 s) (p : Nat) : Kept al s0
    (panelReads s p) := by
  unfold panelReads
  try dsimp only
  repeat' first
    | exact hal.mono rfl
    | with_reducible assumption
    | with_reducible apply forEach_kept
    | with_reducible apply engineRead_kept (hal.mono rfl)
    | intro _
    | with_reducible apply kept_ite
    | split
    | dsimp only

theorem pushSend_kept (hal : Allow al [.csr, .map, .cure]) (p : Nat) (x : List OutSeg × State) (h : Kept al s0 x.2) : Kept
    al s0 (pushSend p x) := by
  unfold pushSend
  extract_lets s1
  have h1 : Kept al s0 s1 := forEach_kept (cntAdd_kept (hal.mono rfl) h ..) _ _ fun _ _ k => outPush_kept (hal.mono rfl) k ..
  clear_value s1
  split
  · exact modCure_kept (hal.mono rfl) (outPush_kept (hal.mono rfl) h1 ..) _
  · exact modCure_kept (hal.mono rfl) (staleClear_kept (hal.mono rfl) h1 ..) _

theorem resendStep_kept (hal : Allow al [.csr, .evt, .jrn, .map, .chans]) (far : List (Nat × LineData))
    (acc : List OutSeg × State) (x : Nat × Word32)
    (h : Kept al s0 acc.2) : Kept al s0 (resendStep far acc x).2 := by
  unfold resendStep
  dsimp only
  have h1 := panelReads_kept (hal.mono rfl) h x.1
  generalize panelReads acc.2 x.1 = t at h1 ⊢
  exact panelSegs_kept (hal.mono rfl) h1 ..

theorem resendSegs_kept (hal : Allow al [.csr, .evt, .jrn, .map, .chans]) (h : Kept al s0 s) (ps : List (Nat × Word32))
    (far : List (Nat × LineData)) :
    Kept al s0 (resendSegs s ps far).2 := by
  have gen : ∀ (ps : List (Nat × Word32)) (acc : List OutSeg × State), Kept al s0 acc.2 →
      Kept al s0 (ps.foldl (resendStep far) acc).2 := by
    intro ps
    induction ps with
    | nil => exact fun _ h => h
    | cons x ps ih => exact fun acc h => ih _ (resendStep_kept (hal.mono rfl) far acc x h)
  exact gen ps _ h

theorem attachPush_kept (hal : Allow al [.csr, .evt, .jrn, .map, .chans, .cure]) (h : Kept al s0 s)
    (far : List (Nat × LineData)) : Kept al s0 (attachPush s far) := by
  unfold attachPush
  split
  · split
    · split
      · exact h
      · exact pushSend_kept (hal.mono rfl) _ _ (panelSegs_kept (hal.mono rfl) (panelReads_kept (hal.mono rfl) h ..) ..)
    · exact modCure_kept (hal.mono rfl) h _
  · exact h

theorem pushAck_kept (hal : Allow al [.map, .cure]) (h : Kept al s0 s) (p : Nat) : Kept al s0 (pushAck s p) := by
  unfold pushAck
  repeat' first
    | exact hal.mono rfl | with_reducible assumption | with_reducible apply modCure_kept (hal.mono rfl)
    | with_reducible apply staleClear_kept (hal.mono rfl)
    | with_reducible apply kept_ite

theorem mirrorAttached_kept (hal : Allow al [.csr, .evt, .jrn, .ports, .adm, .tt, .results, .cure, .conns])
    (h : Kept al s0 s) : Kept al s0 (mirrorAttached s) := by
  unfold mirrorAttached
  dsimp only
  refine kept_ite (curePump_kept (hal.mono rfl) (ev_kept (hal.mono rfl) (modCure_kept (hal.mono rfl) (h.conns (hal.mono rfl) fun k => ?_) _) 772)) h
  exact smWfFrom_map_filter Conn.none _ k

theorem mirrorLost_kept (hal : Allow al [.csr, .evt, .jrn, .cure]) (h : Kept al s0 s) (k : Fin 8) : Kept al s0
    (mirrorLost s k) := by
  unfold mirrorLost
  repeat' first
    | exact hal.mono rfl | with_reducible assumption | with_reducible apply enterStalled_kept (hal.mono rfl)
    | with_reducible apply modCure_kept (hal.mono rfl)
    | with_reducible apply kept_ite

theorem mirrorResend_kept (hal : Allow al [.csr, .evt, .jrn, .map, .chans, .cure]) (h : Kept al s0 s) (k : Fin 8)
    (far : List (Nat × LineData)) : Kept al s0 (mirrorResend s k far) := by
  unfold mirrorResend
  dsimp only
  split
  · exact markPump_kept (hal.mono rfl) (modCure_kept (hal.mono rfl) (resendSegs_kept (hal.mono rfl) h ..) _)
  · exact h

end Sys2Proof.Machine
end

