-- ==== Sys2Proof/Laws/KeptFence.lean ====
section
/-!
SUPPORT. What the operations of Machine/Fence.lean keep.
-/
namespace Sys2Proof.Machine
set_option linter.all false
set_option Elab.async false
open Sys2Proof

variable {al : Part → Bool} {s0 s : State}

theorem fenceCmd_kept (hal : Allow al [.csr, .evt, .cure]) (h : Kept al s0 s) (c : Fin 16) : Kept al s0 (fenceCmd s c) := by
  unfold fenceCmd
  repeat' first
    | exact hal.mono rfl | with_reducible assumption | with_reducible apply setFld_kept (hal.mono rfl)
    | with_reducible apply modCure_kept (hal.mono rfl)
    | with_reducible apply fenceIfInService_kept (hal.mono rfl)

theorem lineLost_kept (hal : Allow al [.csr, .evt, .jrn, .map]) (h : Kept al s0 s) (das : Nat) : Kept al s0
    (lineLost s das) := by
  unfold lineLost
  repeat' first
    | exact hal.mono rfl | with_reducible assumption | with_reducible apply staleSet_kept (hal.mono rfl)
    | with_reducible apply evo_kept (hal.mono rfl)
    | with_reducible apply cntInc_kept (hal.mono rfl) | split

theorem victimsDrop_kept (hal : Allow al [.csr, .evt, .jrn, .map, .vnr]) (h : Kept al s0 s) (c : Fin 16) : Kept al s0
    (victimsDrop s c) := by
  unfold victimsDrop
  repeat' first
    | exact hal.mono rfl | with_reducible assumption | with_reducible apply forEach_kept
    | with_reducible apply lineLost_kept (hal.mono rfl)
    | with_reducible apply modSlice_kept (hal.mono rfl) | intro _

theorem serveFenced_kept (hal : Allow al [.csr, .evt, .jrn, .ports, .adm, .tt, .results, .map, .chans, .cure])
    (h : Kept al s0 s) (rid : Nat) : Kept al s0 (serveFenced s rid) := by
  unfold serveFenced
  repeat' first
    | exact hal.mono rfl | with_reducible assumption | with_reducible apply apertureServe_kept (hal.mono rfl)
    | with_reducible apply serveTwin_kept (hal.mono rfl) | split

theorem repairsStop_kept (hal : Allow al [.chans]) (h : Kept al s0 s) (c : Fin 16) : Kept al s0 (repairsStop s c) :=
    (keptChans (s := s) (hal.mono rfl)).2 h

theorem fenceChan_kept (hal : Allow al [.csr, .evt, .jrn, .ports, .adm, .tt, .results, .map, .vnr, .chans, .cure, .conns])
    (h : Kept al s0 s) (c : Fin 16) (code evt : Nat) : Kept al s0 (fenceChan s c code evt) := by
  unfold fenceChan
  repeat' first
    | exact hal.mono rfl | with_reducible assumption | with_reducible apply enterDegraded_kept (hal.mono rfl)
    | with_reducible apply modCure_kept (hal.mono rfl)
    | with_reducible apply evd_kept (hal.mono rfl) | with_reducible apply lockFence_kept (hal.mono rfl)
    | with_reducible apply forEach_kept
    | with_reducible apply lineLost_kept (hal.mono rfl) | with_reducible apply victimsDrop_kept (hal.mono rfl)
    | with_reducible apply modSch_kept (hal.mono rfl)
    | with_reducible apply modSlice_kept (hal.mono rfl) | with_reducible apply repairsStop_kept (hal.mono rfl)
    | with_reducible apply ttLeave_kept (hal.mono rfl)
    | with_reducible apply serveFenced_kept (hal.mono rfl) | with_reducible apply stallNote_kept (hal.mono rfl)
    | with_reducible apply curePump_kept (hal.mono rfl)
    | intro _ | with_reducible apply kept_ite

theorem chFenced_kept (hal : Allow al [.csr, .evt, .jrn, .ports, .adm, .tt, .results, .map, .vnr, .chans, .cure, .conns])
    (h : Kept al s0 s) (c : Fin 16) : Kept al s0 (chFenced s c) := by
  unfold chFenced
  try dsimp only
  repeat' first
    | exact hal.mono rfl
    | with_reducible assumption
    | with_reducible apply fenceChan_kept (hal.mono rfl)
    | intro _
    | with_reducible apply kept_ite
    | split
    | simp only [keptEvt (hal.mono rfl)]
    | dsimp only

theorem sweepSlice_kept (hal : Allow al [.csr, .evt, .jrn, .map, .vnr]) (h : Kept al s0 s) (c : Fin 16) (sl : Fin 16) :
    Kept al s0 (sweepSlice s c sl) := by
  unfold sweepSlice
  repeat' first
    | exact hal.mono rfl | with_reducible assumption | with_reducible apply forEach_kept | with_reducible apply doIf_kept
    | with_reducible apply lineLost_kept (hal.mono rfl) | with_reducible apply putLine_kept (hal.mono rfl) | intro _ | split

theorem fenceSweepDone_kept (hal : Allow al [.csr, .evt, .jrn, .map, .vnr, .cure]) (h : Kept al s0 s) (c : Fin 16) : Kept
    al s0 (fenceSweepDone s c) := by
  unfold fenceSweepDone
  repeat' first
    | exact hal.mono rfl | with_reducible assumption | with_reducible apply victimsDrop_kept (hal.mono rfl)
    | with_reducible apply forEach_kept
    | with_reducible apply sweepSlice_kept (hal.mono rfl) | with_reducible apply overUpd_kept (hal.mono rfl)
    | with_reducible apply modCure_kept (hal.mono rfl) | intro _
    | with_reducible apply kept_ite

theorem mapsRewrite_kept (hal : Allow al [.map]) (h : Kept al s0 s) (c : Fin 16) : Kept al s0 (mapsRewrite s c) := by
  unfold mapsRewrite
  repeat' first
    | exact hal.mono rfl | with_reducible assumption | with_reducible apply forEach_kept
    | with_reducible apply setBlank_kept (hal.mono rfl)
    | with_reducible apply staleSet_kept (hal.mono rfl) | intro _

theorem fullStale_kept (hal : Allow al [.map]) (h : Kept al s0 s) : Kept al s0 (fullStale s) := by
  unfold fullStale
  repeat' first
    | exact hal.mono rfl | with_reducible assumption | with_reducible apply forEach_kept
    | with_reducible apply staleSet_kept (hal.mono rfl) | intro _
    | with_reducible apply kept_ite

theorem placeRebuild_kept (hal : Allow al [.csr, .evt, .jrn, .map, .tier]) (h : Kept al s0 s) (c : Fin 16) : Kept al s0
    (placeRebuild s c) := by
  unfold placeRebuild
  repeat' first
    | exact hal.mono rfl | with_reducible assumption | with_reducible apply forEach_kept
    | with_reducible apply pmapSet_kept (hal.mono rfl)
    | with_reducible apply modTier_kept (hal.mono rfl) | intro _ | with_reducible apply kept_ite | split
    | refine frameTake_kept (hal.mono rfl) ?_ (by with_reducible assumption)

theorem unfence_kept (hal : Allow al [.csr, .evt, .jrn, .map, .cure, .tier]) (h : Kept al s0 s) (c : Fin 16) (full : Bool)
    : Kept al s0 (unfence s c full) := by
  unfold unfence
  try dsimp only
  repeat' first
    | exact hal.mono rfl
    | with_reducible assumption
    | with_reducible apply setFld_kept (hal.mono rfl)
    | with_reducible apply modCure_kept (hal.mono rfl)
    | with_reducible apply placeRebuild_kept (hal.mono rfl)
    | with_reducible apply mapsRewrite_kept (hal.mono rfl)
    | with_reducible apply doIf_kept
    | with_reducible apply fullStale_kept (hal.mono rfl)
    | with_reducible apply ev_kept (hal.mono rfl)
    | intro _
    | with_reducible apply kept_ite
    | split
    | dsimp only

theorem recastLine_kept (hal : Allow al [.adm]) (h : Kept al s0 s) (k a : Nat) (ans : Option LineData) : Kept al s0
    (recastLine s k a ans) := by
  unfold recastLine
  try dsimp only
  repeat' first
    | exact hal.mono rfl
    | with_reducible assumption
    | with_reducible apply engPut_kept (hal.mono rfl)
    | with_reducible apply drawFree_kept
    | with_reducible apply modWait_kept (hal.mono rfl)
    | intro _
    | with_reducible apply kept_ite
    | split
    | refine kept_snd (by with_reducible assumption) (drawFree_kept ?_ ..)
    | dsimp only

theorem recastPanel_kept (hal : Allow al [.adm, .map, .cure]) (h : Kept al s0 s) (lines : List (Option LineData)) : Kept
    al s0 (recastPanel s lines) := by
  unfold recastPanel
  try dsimp only
  repeat' first
    | exact hal.mono rfl
    | with_reducible assumption
    | with_reducible apply modCure_kept (hal.mono rfl)
    | with_reducible apply recastLine_kept (hal.mono rfl)
    | with_reducible apply recastNote_kept (hal.mono rfl)
    | with_reducible apply foldl_kept
    | with_reducible apply foldl_kept_fst
    | with_reducible apply foldl_kept_snd
    | intro _
    | with_reducible apply kept_ite
    | split
    | exact KeptOpt.none _
    | with_reducible apply KeptOpt.some
    | with_reducible apply KeptOpt.getD
    | with_reducible apply KeptOpt.then
    | with_reducible apply KeptOpt.map
    | with_reducible apply KeptOpt.findSome
    | refine KeptOpt.get (by with_reducible assumption) ?_
    | dsimp only

theorem recastDone_kept (hal : Allow al [.csr, .evt, .jrn, .cure]) (h : Kept al s0 s) : Kept al s0 (recastDone s) := by
  unfold recastDone
  try dsimp only
  repeat' first
    | exact hal.mono rfl
    | with_reducible assumption
    | with_reducible apply modCure_kept (hal.mono rfl)
    | with_reducible apply ev_kept (hal.mono rfl)
    | intro _
    | with_reducible apply kept_ite
    | split
    | dsimp only

end Sys2Proof.Machine
end

