-- ==== Sys2Proof/Laws/KeptTier.lean ====
section
/-!
SUPPORT. What the operations of Machine/Tier.lean keep.
-/
namespace Sys2Proof.Machine
set_option linter.all false
set_option Elab.async false
open Sys2Proof

variable {al : Part → Bool} {s0 s : State}

theorem modNbr_kept (hal : Allow al [.tier]) (h : Kept al s0 s) (j : Fin 32) (f : NbrSt → NbrSt) : Kept al s0
    (modNbr s j f) := (keptTier (s := s) (hal.mono rfl)).2 h

theorem nbrLostServe_kept (hal : Allow al [.csr, .evt, .jrn, .ports, .adm, .tt, .results, .map, .cure]) (h : Kept al s0 s)
    : Kept al s0 (nbrLostServe s) := by
  unfold nbrLostServe
  repeat' first
    | exact hal.mono rfl | with_reducible assumption | with_reducible apply forEach_kept
    | with_reducible apply serveTwin_kept (hal.mono rfl) | intro _

theorem nbrUpdate_kept (hal : Allow al [.csr, .evt, .jrn, .ports, .adm, .tt, .results, .map, .cure, .tier])
    (h : Kept al s0 s) (j : Fin 32) : Kept al s0 (nbrUpdate s j) := by
  unfold nbrUpdate
  repeat' first
    | exact hal.mono rfl | with_reducible assumption | with_reducible apply modNbr_kept (hal.mono rfl)
    | with_reducible apply evd_kept (hal.mono rfl)
    | with_reducible apply nbrLostServe_kept (hal.mono rfl) | with_reducible apply kept_ite | split

theorem rttSample_kept (hal : Allow al [.tier]) (h : Kept al s0 s) (j : Fin 32) (x : Nat) : Kept al s0
    (rttSample s j x) := (keptTier (s := s) (hal.mono rfl)).2 h

theorem nbrStateChange_kept (hal : Allow al [.csr, .evt, .jrn, .ports, .adm, .tt, .results, .map, .cure, .tier])
    (h : Kept al s0 s) (j : Fin 32) (sample : Option (BitVec 16)) : Kept al s0 (nbrStateChange s j sample) := by
  unfold nbrStateChange
  repeat' first
    | exact hal.mono rfl | with_reducible assumption | with_reducible apply rttSample_kept (hal.mono rfl)
    | with_reducible apply nbrUpdate_kept (hal.mono rfl) | split

theorem nbrProbe_kept (hal : Allow al [.cure, .tier]) (h : Kept al s0 s) (j : Fin 32) (frame : BitVec 28) : Kept al s0
    (nbrProbe s j frame) := by
  unfold nbrProbe
  repeat' first
    | exact hal.mono rfl | with_reducible assumption | with_reducible apply modNbr_kept (hal.mono rfl)
    | with_reducible apply outPush_kept (hal.mono rfl)
    | with_reducible apply kept_ite

theorem modMove_kept (hal : Allow al [.tier]) (h : Kept al s0 s) (p : Nat) (f : MoveRec → MoveRec) : Kept al s0
    (modMove s p f) := (keptTier (s := s) (hal.mono rfl)).2 h

theorem dropMove_kept (hal : Allow al [.tier]) (h : Kept al s0 s) (p : Nat) : Kept al s0 (dropMove s p) :=
    (keptTier (s := s) (hal.mono rfl)).2 h

theorem moveAdd_kept (hal : Allow al [.adm, .tier]) (h : Kept al s0 s) (p : Nat) (e : Fin 4) (d : MoveDec) : Kept al s0
    (moveAdd s p e d) := by
  unfold moveAdd
  try dsimp only
  repeat' first
    | exact hal.mono rfl
    | with_reducible assumption
    | with_reducible apply modTier_kept (hal.mono rfl)
    | intro _
    | with_reducible apply kept_ite
    | split
    | simp only [keptAdm (hal.mono rfl)]
    | dsimp only

theorem deferMove_kept (hal : Allow al [.tier]) (h : Kept al s0 s) (p : Nat) (d : MoveDec) : Kept al s0
    (deferMove s p d) := (keptTier (s := s) (hal.mono rfl)).2 h

theorem copyDrop_kept (hal : Allow al [.adm, .results]) (h : Kept al s0 s) (m : MoveRec) : Kept al s0 (copyDrop s m) := by
  unfold copyDrop
  extract_lets mine
  clear_value mine
  exact (keptAdmResults (hal.mono rfl)).2 h

theorem moveEnd_kept (hal : Allow al [.csr, .evt, .jrn, .ports, .adm, .tt, .results, .map, .vnr, .chans, .cure, .tier])
    (h : Kept al s0 s) (m : MoveRec) : Kept al s0 (moveEnd s m) := by
  unfold moveEnd
  try dsimp only
  repeat' first
    | exact hal.mono rfl
    | with_reducible assumption
    | with_reducible apply dropMove_kept (hal.mono rfl)
    | with_reducible apply copyDrop_kept (hal.mono rfl)
    | with_reducible apply moveAdd_kept (hal.mono rfl)
    | with_reducible apply cntInc_kept (hal.mono rfl)
    | with_reducible apply slotPump_kept (hal.mono rfl)
    | with_reducible apply panelPump_kept (hal.mono rfl)
    | intro _
    | with_reducible apply kept_ite
    | split
    | dsimp only

theorem joinerReq_kept (hal : Allow al [.adm]) (h : Kept al s0 s) (e : Fin 4) (op : MemOp) (a : Nat) (data : LineData)
    (poison : Bool) (dest : Dest) (kind : ReqKind) : Kept al s0 (joinerReq s e op a data poison dest kind) := by
  unfold joinerReq
  try dsimp only
  repeat' first
    | exact hal.mono rfl
    | with_reducible assumption
    | intro _
    | with_reducible apply kept_ite
    | split
    | simp only [keptAdm (hal.mono rfl)]
    | dsimp only

theorem copyBegin_kept (hal : Allow al [.adm, .tier]) (h : Kept al s0 s) (m : MoveRec) : Kept al s0 (copyBegin s m) := by
  unfold copyBegin
  try dsimp only
  repeat' first
    | exact hal.mono rfl
    | with_reducible assumption
    | with_reducible apply modMove_kept (hal.mono rfl)
    | with_reducible apply forEach_kept
    | with_reducible apply joinerReq_kept (hal.mono rfl)
    | intro _
    | with_reducible apply kept_ite
    | split
    | dsimp only

theorem copyLineOut_kept (hal : Allow al [.csr, .adm, .cure, .tier]) (h : Kept al s0 s) (m : MoveRec) (n : Nat)
    (data : LineData) (poison : Bool) : Kept al s0 (copyLineOut s m n data poison) := by
  unfold copyLineOut
  try dsimp only
  repeat' first
    | exact hal.mono rfl
    | with_reducible assumption
    | with_reducible apply modMove_kept (hal.mono rfl)
    | with_reducible apply joinerReq_kept (hal.mono rfl)
    | with_reducible apply cntInc_kept (hal.mono rfl)
    | with_reducible apply outPush_kept (hal.mono rfl)
    | intro _
    | with_reducible apply kept_ite
    | split
    | dsimp only

theorem copyWork_kept (hal : Allow al [.csr, .adm, .results, .cure, .tier]) (h : Kept al s0 s) (m : MoveRec) : Kept al s0
    (copyWork s m) := by
  unfold copyWork
  try dsimp only
  repeat' first
    | exact hal.mono rfl
    | with_reducible assumption
    | with_reducible apply forEach_kept
    | with_reducible apply copyLineOut_kept (hal.mono rfl)
    | intro _
    | with_reducible apply kept_ite
    | split
    | simp only [keptResults (hal.mono rfl)]
    | dsimp only

theorem promoteStart_kept (hal : Allow al [.csr, .evt, .jrn, .adm, .map, .tier]) (h : Kept al s0 s) (m : MoveRec) : Kept
    al s0 (promoteStart s m) := by
  unfold promoteStart
  try dsimp only
  repeat' first
    | exact hal.mono rfl
    | with_reducible assumption
    | with_reducible apply pmapSet_kept (hal.mono rfl)
    | with_reducible apply modMove_kept (hal.mono rfl)
    | with_reducible apply copyBegin_kept (hal.mono rfl)
    | intro _
    | with_reducible apply kept_ite
    | split
    | refine frameTake_kept (hal.mono rfl) ?_ (by with_reducible assumption)
    | dsimp only

theorem jigMark_kept (hal : Allow al [.csr, .tier]) (h : Kept al s0 s) (p : Nat) (e : Fin 4) : Kept al s0
    (jigMark s p e) := by
  unfold jigMark
  repeat' first
    | exact hal.mono rfl | with_reducible assumption | with_reducible apply putHeat_kept (hal.mono rfl)
    | with_reducible apply cntInc_kept (hal.mono rfl)
    | with_reducible apply kept_ite | split

theorem jigLocal_kept (hal : Allow al [.csr, .adm, .tier]) (h : Kept al s0 s) (e : Fin 4) (p : Nat) : Kept al s0
    (jigLocal s e p) := by
  unfold jigLocal
  repeat' first
    | exact hal.mono rfl | with_reducible assumption | with_reducible apply modTier_kept (hal.mono rfl)
    | with_reducible apply jigMark_kept (hal.mono rfl)
    | with_reducible apply moveAdd_kept (hal.mono rfl) | with_reducible apply deferMove_kept (hal.mono rfl) | split

theorem promotion_kept (hal : Allow al [.csr, .evt, .jrn, .adm, .map, .tier]) (h : Kept al s0 s) (e : Fin 4) : Kept al s0
    (promotion s e) := by
  unfold promotion
  repeat' first
    | exact hal.mono rfl | with_reducible assumption | with_reducible apply jigLocal_kept (hal.mono rfl)
    | with_reducible apply promoteStart_kept (hal.mono rfl)
    | with_reducible apply dropMove_kept (hal.mono rfl) | with_reducible apply modTier_kept (hal.mono rfl)
    | with_reducible apply deferMove_kept (hal.mono rfl)
    | with_reducible apply moveAdd_kept (hal.mono rfl) | split | dsimp only

theorem handOn_kept (hal : Allow al [.tier]) (h : Kept al s0 s) : Kept al s0 (handOn s) :=
    (keptTier (s := s) (hal.mono rfl)).2 h

theorem handStep_kept (hal : Allow al [.csr, .evt, .jrn, .adm, .map, .chans, .tier]) (h : Kept al s0 s) (mapErr : RawLine)
    : Kept al s0 (handStep s mapErr) := by
  unfold handStep
  try dsimp only
  repeat' first
    | exact hal.mono rfl
    | with_reducible assumption
    | with_reducible apply modTier_kept (hal.mono rfl)
    | with_reducible apply mapLookup_kept (hal.mono rfl)
    | with_reducible apply ev_kept (hal.mono rfl)
    | with_reducible apply handOn_kept (hal.mono rfl)
    | with_reducible apply moveAdd_kept (hal.mono rfl)
    | with_reducible apply deferMove_kept (hal.mono rfl)
    | intro _
    | with_reducible apply kept_ite
    | split
    | dsimp only

theorem allocSend_kept (hal : Allow al [.csr, .evt, .jrn, .ports, .adm, .tt, .results, .map, .vnr, .chans, .cure, .tier])
    (h : Kept al s0 s) (m : MoveRec) : Kept al s0 (allocSend s m) := by
  unfold allocSend
  repeat' first
    | exact hal.mono rfl | with_reducible assumption | with_reducible apply outPush_kept (hal.mono rfl)
    | with_reducible apply modMove_kept (hal.mono rfl)
    | with_reducible apply moveEnd_kept (hal.mono rfl) | split | dsimp only

theorem remapTo_kept (hal : Allow al [.csr, .evt, .jrn, .ports, .adm, .tt, .results, .map, .vnr, .chans, .cure, .tier])
    (h : Kept al s0 s) (m : MoveRec) (r : RetEnt) : Kept al s0 (remapTo s m r) := by
  unfold remapTo
  try dsimp only
  repeat' first
    | exact hal.mono rfl
    | with_reducible assumption
    | with_reducible apply pmapSet_kept (hal.mono rfl)
    | with_reducible apply moveEnd_kept (hal.mono rfl)
    | with_reducible apply cntInc_kept (hal.mono rfl)
    | with_reducible apply retDrop_kept (hal.mono rfl)
    | with_reducible apply frameGive_kept (hal.mono rfl)
    | intro _
    | with_reducible apply kept_ite
    | split
    | dsimp only

theorem remapGone_kept (hal : Allow al [.csr, .evt, .jrn, .ports, .adm, .tt, .results, .map, .vnr, .chans, .cure, .tier])
    (h : Kept al s0 s) (m : MoveRec) : Kept al s0 (remapGone s m) := by
  unfold remapGone
  split
  · exact kept_ite (remapTo_kept (hal.mono rfl) h ..) h
  · exact moveEnd_kept (hal.mono rfl) h _

theorem remap_kept (hal : Allow al [.csr, .evt, .jrn, .ports, .adm, .tt, .results, .map, .vnr, .chans, .cure, .tier])
    (h : Kept al s0 s) (m : MoveRec) : Kept al s0 (remap s m) := by
  delta remap
  exact remapGone_kept (hal.mono rfl) (panelFlush_kept (hal.mono rfl) (modMove_kept (hal.mono rfl) h ..) ..) _

theorem demotion_kept (hal : Allow al [.csr, .evt, .jrn, .ports, .adm, .tt, .results, .map, .vnr, .chans, .cure, .tier])
    (h : Kept al s0 s) (e : Fin 4) : Kept al s0 (demotion s e) := by
  unfold demotion
  try dsimp only
  repeat' first
    | exact hal.mono rfl
    | with_reducible assumption
    | with_reducible apply allocSend_kept (hal.mono rfl)
    | with_reducible apply retFree_kept (hal.mono rfl)
    | with_reducible apply remap_kept (hal.mono rfl)
    | with_reducible apply dropMove_kept (hal.mono rfl)
    | intro _
    | with_reducible apply kept_ite
    | split
    | dsimp only

theorem allocAnswer_kept
    (hal : Allow al [.csr, .evt, .jrn, .ports, .adm, .tt, .results, .map, .vnr, .chans, .cure, .tier]) (h : Kept al s0 s)
    (p : Nat) (conn : Nat) (ans : SegAns) : Kept al s0 (allocAnswer s p conn ans) := by
  unfold allocAnswer
  repeat' first
    | exact hal.mono rfl | with_reducible assumption | with_reducible apply outPush_kept (hal.mono rfl)
    | with_reducible apply nbrUse_kept (hal.mono rfl)
    | with_reducible apply modMove_kept (hal.mono rfl) | with_reducible apply modNbr_kept (hal.mono rfl)
    | with_reducible apply allocSend_kept (hal.mono rfl) | split
    | dsimp only

theorem copyAck_kept (hal : Allow al [.csr, .evt, .jrn, .ports, .adm, .tt, .results, .map, .vnr, .chans, .cure, .tier])
    (h : Kept al s0 s) (num n : Nat) : Kept al s0 (copyAck s num n) := by
  unfold copyAck
  try dsimp only
  repeat' first
    | exact hal.mono rfl
    | with_reducible assumption
    | with_reducible apply panelPump_kept (hal.mono rfl)
    | with_reducible apply modTier_kept (hal.mono rfl)
    | intro _
    | with_reducible apply kept_ite
    | split
    | dsimp only

theorem demoteFlush_kept (hal : Allow al [.adm, .map, .vnr, .tier]) (h : Kept al s0 s) (m : MoveRec) : Kept al s0
    (demoteFlush s m) := by
  unfold demoteFlush
  try dsimp only
  repeat' first
    | exact hal.mono rfl
    | with_reducible assumption
    | with_reducible apply panelFlush_kept (hal.mono rfl)
    | with_reducible apply modMove_kept (hal.mono rfl)
    | with_reducible apply pmapSet_kept (hal.mono rfl)
    | with_reducible apply copyBegin_kept (hal.mono rfl)
    | intro _
    | with_reducible apply kept_ite
    | split
    | dsimp only

theorem promoteEnd_kept (hal : Allow al [.csr, .evt, .jrn, .ports, .adm, .tt, .results, .map, .vnr, .chans, .cure, .tier])
    (h : Kept al s0 s) (m : MoveRec) : Kept al s0 (promoteEnd s m) := by
  unfold promoteEnd
  try dsimp only
  repeat' first
    | exact hal.mono rfl
    | with_reducible assumption
    | with_reducible apply panelDrop_kept (hal.mono rfl)
    | with_reducible apply pmapSet_kept (hal.mono rfl)
    | with_reducible apply moveEnd_kept (hal.mono rfl)
    | with_reducible apply cntInc_kept (hal.mono rfl)
    | with_reducible apply retInsert_kept (hal.mono rfl)
    | intro _
    | with_reducible apply kept_ite
    | split
    | dsimp only

theorem demoteEnd_kept (hal : Allow al [.csr, .evt, .jrn, .ports, .adm, .tt, .results, .map, .vnr, .chans, .cure, .tier])
    (h : Kept al s0 s) (m : MoveRec) : Kept al s0 (demoteEnd s m) := by
  unfold demoteEnd
  repeat' first
    | exact hal.mono rfl | with_reducible assumption | with_reducible apply pmapSet_kept (hal.mono rfl)
    | with_reducible apply panelDrop_kept (hal.mono rfl)
    | with_reducible apply moveEnd_kept (hal.mono rfl) | with_reducible apply cntInc_kept (hal.mono rfl)
    | with_reducible apply frameGive_kept (hal.mono rfl)

theorem moveStepDone_kept
    (hal : Allow al [.csr, .evt, .jrn, .ports, .adm, .tt, .results, .map, .vnr, .chans, .cure, .tier]) (h : Kept al s0 s)
    (p : Nat) : Kept al s0 (moveStepDone s p) := by
  unfold moveStepDone
  try dsimp only
  repeat' first
    | exact hal.mono rfl
    | with_reducible assumption
    | with_reducible apply remap_kept (hal.mono rfl)
    | with_reducible apply demoteFlush_kept (hal.mono rfl)
    | with_reducible apply panelPump_kept (hal.mono rfl)
    | with_reducible apply copyWork_kept (hal.mono rfl)
    | with_reducible apply promoteEnd_kept (hal.mono rfl)
    | with_reducible apply demoteEnd_kept (hal.mono rfl)
    | intro _
    | with_reducible apply kept_ite
    | split
    | dsimp only

theorem frameDrop_kept (hal : Allow al [.csr, .evt, .jrn, .ports, .adm, .tt, .results, .cure]) (h : Kept al s0 s)
    (f : Nat) : Kept al s0 (frameDrop s f) := by
  unfold frameDrop
  repeat' first
    | exact hal.mono rfl | with_reducible assumption | with_reducible apply forEach_kept
    | with_reducible apply partDone_kept (hal.mono rfl) | intro _
    | simp only [keptAdm (hal.mono rfl)]

theorem abandonNote_kept (hal : Allow al [.csr, .evt, .jrn]) (h : Kept al s0 s) (p : Nat) : Kept al s0 (abandonNote s p) := by
  unfold abandonNote
  repeat' first
    | exact hal.mono rfl | with_reducible assumption | with_reducible apply drawFree_kept
    | with_reducible apply evd_kept (hal.mono rfl)
    | with_reducible apply cntInc_kept (hal.mono rfl)

theorem abandon_kept (hal : Allow al [.csr, .evt, .jrn, .ports, .adm, .tt, .results, .map, .vnr, .chans, .cure, .tier])
    (h : Kept al s0 s) (m : MoveRec) (free : Bool) : Kept al s0 (abandon s m free) := by
  unfold abandon
  repeat' first
    | exact hal.mono rfl | with_reducible assumption | with_reducible apply sendFree_kept (hal.mono rfl)
    | with_reducible apply nbrUse_kept (hal.mono rfl)
    | with_reducible apply moveEnd_kept (hal.mono rfl) | with_reducible apply abandonNote_kept (hal.mono rfl)
    | with_reducible apply frameGive_kept (hal.mono rfl)
    | with_reducible apply frameDrop_kept (hal.mono rfl) | with_reducible apply pmapSet_kept (hal.mono rfl)
    | with_reducible apply panelDrop_kept (hal.mono rfl) | split

theorem moveAbandon_kept
    (hal : Allow al [.csr, .evt, .jrn, .ports, .adm, .tt, .results, .map, .vnr, .chans, .cure, .tier]) (h : Kept al s0 s)
    (p : Nat) : Kept al s0 (moveAbandon s p) := by
  unfold moveAbandon
  repeat' first | exact hal.mono rfl | with_reducible assumption | with_reducible apply abandon_kept (hal.mono rfl) | split

theorem frameCmd_kept (hal : Allow al [.csr, .evt, .jrn, .map, .tier]) (h : Kept al s0 s) : Kept al s0 (frameCmd s) := by
  unfold frameCmd
  repeat' first
    | exact hal.mono rfl | with_reducible assumption | with_reducible apply modTier_kept (hal.mono rfl) | split
    | refine frameTake_kept (hal.mono rfl) ?_ (by with_reducible assumption)

theorem moveCmd_kept (hal : Allow al [.csr, .adm, .tier]) (h : Kept al s0 s) (v : Word64) : Kept al s0 (moveCmd s v) := by
  unfold moveCmd
  extract_lets s1 p d res fits
  have h1 : Kept al s0 s1 := setReg_kept (hal.mono rfl) h ..
  have hr : ∀ s n, Kept al s0 s → Kept al s0 (res s n) := fun s n k => modTier_kept (hal.mono rfl) k _
  clear_value fits res d p s1
  refine kept_ite (hr _ _ h1) (kept_ite (hr _ _ (deferMove_kept (hal.mono rfl) h1 ..)) ?_)
  split
  · exact kept_ite (hr _ _ (moveAdd_kept (hal.mono rfl) h1 ..)) (hr _ _ h1)
  · exact hr _ _ h1

end Sys2Proof.Machine
end

