-- ==== Sys2Proof/Laws/KeptJig.lean ====
section
/-!
SUPPORT. What the operations of Machine/Jig.lean keep.
-/
namespace Sys2Proof.Machine
set_option linter.all false
set_option Elab.async false
open Sys2Proof

variable {al : Part → Bool} {s0 s : State}

theorem dasPut_kept (hal : Allow al [.csr, .map, .chans]) (h : Kept al s0 s) (das : Nat) (d : LineData) : Kept al s0
    (dasPut s das d) := by
  unfold dasPut
  repeat' first
    | exact hal.mono rfl | with_reducible assumption | with_reducible apply cntInc_kept (hal.mono rfl)
    | with_reducible apply lineToWq_kept (hal.mono rfl)
    | with_reducible apply kept_ite

theorem grantHeader_kept (hal : Allow al [.csr, .map, .chans]) (h : Kept al s0 s) (g : Fin 32) : Kept al s0
    (grantHeader s g) := by
  unfold grantHeader
  repeat' first | exact hal.mono rfl | with_reducible assumption | with_reducible apply dasPut_kept (hal.mono rfl)

theorem grantBits_kept (hal : Allow al [.map]) (h : Kept al s0 s) (g : Fin 32) (b : Bool) : Kept al s0 (grantBits s g b) := by
  unfold grantBits
  try dsimp only
  repeat' first
    | exact hal.mono rfl
    | with_reducible assumption
    | with_reducible apply forEach_kept
    | intro _
    | with_reducible apply kept_ite
    | split
    | simp only [keptMap (hal.mono rfl)]
    | dsimp only

theorem modGrant_kept (hal : Allow al [.tier]) (h : Kept al s0 s) (g : Fin 32) (en rdy : Bool) (head free : Nat) : Kept al
    s0 (modGrant s g en rdy head free) :=
  (keptTier (s := s) (hal.mono rfl)).2 h

theorem cacheTrim_kept (hal : Allow al [.tier]) (h : Kept al s0 s) : Kept al s0 (cacheTrim s) :=
    (keptTier (s := s) (hal.mono rfl)).2 h

theorem grantEnable_kept (hal : Allow al [.csr, .evt, .jrn, .map, .chans, .tier]) (h : Kept al s0 s) (g : Fin 32)
    (v : Word64) : Kept al s0 (grantEnable s g v) := by
  unfold grantEnable
  repeat' first
    | exact hal.mono rfl | with_reducible assumption | with_reducible apply setReg_kept (hal.mono rfl)
    | with_reducible apply cacheTrim_kept (hal.mono rfl)
    | with_reducible apply grantBits_kept (hal.mono rfl) | with_reducible apply forEach_kept
    | with_reducible apply dasPut_kept (hal.mono rfl)
    | with_reducible apply grantHeader_kept (hal.mono rfl) | with_reducible apply modGrant_kept (hal.mono rfl)
    | with_reducible apply frameLowUpd_kept (hal.mono rfl)
    | with_reducible apply ev_kept (hal.mono rfl) | intro _ | with_reducible apply kept_ite

theorem grantDisable_kept (hal : Allow al [.csr, .evt, .jrn, .map, .tier]) (h : Kept al s0 s) (g : Fin 32) : Kept al s0
    (grantDisable s g) := by
  unfold grantDisable
  repeat' first
    | exact hal.mono rfl | with_reducible assumption | with_reducible apply frameLowUpd_kept (hal.mono rfl)
    | with_reducible apply modGrant_kept (hal.mono rfl)
    | with_reducible apply grantBits_kept (hal.mono rfl) | with_reducible apply ev_kept (hal.mono rfl)
    | with_reducible apply kept_ite

theorem grantHold_kept (hal : Allow al [.csr]) (h : Kept al s0 s) (g : Fin 32) (hold : Bool) : Kept al s0
    (grantHold s g hold) := by
  unfold grantHold
  repeat' first | exact hal.mono rfl | with_reducible assumption | with_reducible apply setFld_kept (hal.mono rfl)

theorem grantReload_kept (hal : Allow al [.tier]) (h : Kept al s0 s) (g : Fin 32) : Kept al s0 (grantReload s g) := by
  unfold grantReload
  repeat' first | exact hal.mono rfl | with_reducible assumption | with_reducible apply modGrant_kept (hal.mono rfl) | split

theorem reclaimLine_kept (hal : Allow al [.csr, .map, .chans]) (h : Kept al s0 s) (das : Nat) (ans : Option LineData) :
    Kept al s0 (reclaimLine s das ans) := by
  unfold reclaimLine
  try dsimp only
  repeat' first
    | exact hal.mono rfl
    | with_reducible assumption
    | with_reducible apply cntInc_kept (hal.mono rfl)
    | with_reducible apply lineToWq_kept (hal.mono rfl)
    | with_reducible apply drawFree_kept
    | intro _
    | with_reducible apply kept_ite
    | split
    | refine kept_snd (by with_reducible assumption) (drawFree_kept ?_ ..)
    | dsimp only

theorem reclaimPanel_kept {t : State} (hal : Allow al [.csr, .evt, .jrn, .map, .vnr, .chans, .cure, .tier])
    (h : Kept al s0 s) {j : Fin 32} {p : Nat} {twin : List (Nat × LineData)}
    {frames rest : List Nat} (e : reclaimPanel s j p twin frames = some (t, rest)) : Kept al s0 t := by
  unfold reclaimPanel at e
  extract_lets e0 done sb src data at e
  have hd : ∀ s e, Kept al s0 s → Kept al s0 (done s e) :=
    fun s e h => nbrUse_kept (hal.mono rfl) (staleClear_kept (hal.mono rfl) (pmapSet_kept (hal.mono rfl) (panelDrop_kept (hal.mono rfl) h ..) ..) ..) ..
  have kb : Kept al s0 sb := hd _ _ h
  clear_value sb done e0 data
  split at e
  · have q := evo_kept (hal.mono rfl) (setBlank_kept (hal.mono rfl) kb p true) 779 (detail64 (p * 65536))
      { EvtOrigin.none with kind := .lms, addr := BitVec.ofNat 64 (p * 65536) }
    rw [Option.some.injEq, Prod.mk.injEq] at e
    exact e.1 ▸ q
  · split at e
    · split at e
      · rename_i f u ef
        extract_lets s1 at e
        have k : Kept al s0 s1 := forEach_kept (frameTake_kept (hal.mono rfl) h ef) _ _ fun _ _ k => reclaimLine_kept (hal.mono rfl) k ..
        clear_value s1
        generalize (List.range 1024) = may at e
        split at e
        rotate_left
        · cases e
        have q := hd s1 (pePut e0 1 (deviceId s1) f) k
        rw [Option.some.injEq, Prod.mk.injEq] at e
        exact e.1 ▸ q
      · cases e
    · split at e
      · rename_i k' f rest' _ _
        extract_lets segs s1 at e
        have k : Kept al s0 s1 := forEach_kept (cntAdd_kept (hal.mono rfl) (nbrUse_kept (hal.mono rfl) h ..) ..) _ _ fun s g k => outPush_kept (hal.mono rfl) k ..
        clear_value s1
        rw [Option.some.injEq, Prod.mk.injEq] at e
        exact e.1 ▸ hd _ _ k
      · cases e

theorem reclaimWalk_kept
    (hal : Allow al [.csr, .evt, .jrn, .ports, .adm, .tt, .results, .map, .vnr, .chans, .cure, .tier]) (j : Fin 32)
    (twin : List (Nat × LineData)) : ∀ (fuel : Nat) (s : State) (p : Nat)
    (frames : List Nat), Kept al s0 s → Kept al s0 (reclaimWalk j twin fuel s p frames)
  | 0, _, _, _, h => h
  | fuel + 1, s, p, frames, h => by
    unfold reclaimWalk
    dsimp only
    split
    · exact modTier_kept (hal.mono rfl) h _
    · split
      · exact modTier_kept (hal.mono rfl) h _
      · split
        · rename_i t rest e
          exact reclaimWalk_kept (hal.mono rfl) j twin fuel _ _ _ (panelPump_kept (hal.mono rfl) (reclaimPanel_kept (hal.mono rfl) h e))
        · exact modTier_kept (hal.mono rfl) h _

theorem reclaimCmd_kept (hal : Allow al [.csr, .evt, .jrn, .ports, .adm, .tt, .results, .map, .vnr, .chans, .cure, .tier])
    (h : Kept al s0 s) (j : Fin 32) (twin : List (Nat × LineData)) (frames : List Nat) : Kept al s0
    (reclaimCmd s j twin frames) := by
  unfold reclaimCmd
  repeat' first
    | exact hal.mono rfl | with_reducible assumption | with_reducible apply setFld_kept (hal.mono rfl)
    | with_reducible apply modTier_kept (hal.mono rfl)
    | refine reclaimWalk_kept (hal.mono rfl) _ _ _ _ _ _ ?_ | with_reducible apply kept_ite

theorem retForget_kept (hal : Allow al [.tier]) (h : Kept al s0 s) (j : Fin 32) : Kept al s0 (retForget s j) :=
    (keptTier (s := s) (hal.mono rfl)).2 h

theorem reclaimDone_kept
    (hal : Allow al [.csr, .evt, .jrn, .ports, .adm, .tt, .results, .map, .vnr, .chans, .cure, .tier]) (h : Kept al s0 s)
    (twin : List (Nat × LineData)) (frames : List Nat) : Kept al s0 (reclaimDone s twin frames) := by
  unfold reclaimDone
  repeat' first
    | exact hal.mono rfl | with_reducible assumption | with_reducible apply modTier_kept (hal.mono rfl)
    | with_reducible apply retForget_kept (hal.mono rfl)
    | refine reclaimWalk_kept (hal.mono rfl) _ _ _ _ _ _ ?_ | split | dsimp only

theorem modJig_kept (hal : Allow al [.tier]) (h : Kept al s0 s) (e : Fin 4) (f : JigSt → JigSt) : Kept al s0
    (modJig s e f) := (keptTier (s := s) (hal.mono rfl)).2 h

theorem jigRead_kept (hal : Allow al [.tier]) (h : Kept al s0 s) (e : Fin 4) (far : List (Nat × LineData)) : Kept al s0
    (jigRead s e far) := by
  unfold jigRead
  try dsimp only
  repeat' first
    | exact hal.mono rfl
    | with_reducible assumption
    | with_reducible apply modJig_kept (hal.mono rfl)
    | intro _
    | with_reducible apply kept_ite
    | split
    | dsimp only

theorem jigAhead_kept (hal : Allow al [.csr, .evt, .jrn, .map, .chans, .tier]) (e : Fin 4) (far : List (Nat × LineData))
    (k : Nat) : ∀ (fuel : Nat) (s : State), Kept al s0 s → Kept al s0 (jigAhead e far k fuel s)
  | 0, _, h => modJig_kept (hal.mono rfl) h ..
  | fuel + 1, s, h => by
    unfold jigAhead
    split
    · exact jigAhead_kept (hal.mono rfl) e far k fuel _ (jigRead_kept (hal.mono rfl) (engineRead_kept (hal.mono rfl) h ..) ..)
    · exact modJig_kept (hal.mono rfl) h ..

theorem jigBitsClear_kept (hal : Allow al [.tier]) (h : Kept al s0 s) (e : Fin 4) : Kept al s0 (jigBitsClear s e) :=
    (keptTier (s := s) (hal.mono rfl)).2 h

theorem jigEnd_kept (hal : Allow al [.tier]) (h : Kept al s0 s) (e : Fin 4) (res : BitVec 3) : Kept al s0
    (jigEnd s e res) := (keptTier (s := s) (hal.mono rfl)).2 h

theorem jigFault_kept (hal : Allow al [.csr, .evt, .jrn, .tier]) (h : Kept al s0 s) (e : Fin 4) (k : Nat) : Kept al s0
    (jigFault s e k) := by
  unfold jigFault
  repeat' first
    | exact hal.mono rfl | with_reducible assumption | with_reducible apply evd_kept (hal.mono rfl)
    | with_reducible apply jigEnd_kept (hal.mono rfl)
    | with_reducible apply modJig_kept (hal.mono rfl)

theorem jigGo_kept (hal : Allow al [.csr, .evt, .jrn, .map, .chans, .tier]) (h : Kept al s0 s) (e : Fin 4)
    (far : List (Nat × LineData)) : Kept al s0 (jigGo s e far) := by
  unfold jigGo
  try dsimp only
  repeat' first
    | exact hal.mono rfl
    | with_reducible assumption
    | with_reducible apply modJig_kept (hal.mono rfl)
    | with_reducible apply engineRead_kept (hal.mono rfl)
    | refine jigAhead_kept (hal.mono rfl) _ _ _ _ _ ?_
    | with_reducible apply jigFault_kept (hal.mono rfl)
    | intro _
    | with_reducible apply kept_ite
    | split
    | exact KeptOpt.none _
    | with_reducible apply KeptOpt.some
    | with_reducible apply KeptOpt.getD
    | with_reducible apply KeptOpt.then
    | with_reducible apply KeptOpt.map
    | with_reducible apply KeptOpt.findSome
    | refine KeptOpt.get (by with_reducible assumption) ?_
    | dsimp only

theorem jigStopEnd_kept (hal : Allow al [.tier]) (h : Kept al s0 s) (e : Fin 4) : Kept al s0 (jigStopEnd s e) := by
  unfold jigStopEnd
  try dsimp only
  repeat' first
    | exact hal.mono rfl
    | with_reducible assumption
    | with_reducible apply jigEnd_kept (hal.mono rfl)
    | intro _
    | with_reducible apply kept_ite
    | split
    | dsimp only

theorem jigStop_kept (hal : Allow al [.adm, .tier]) (h : Kept al s0 s) (e : Fin 4) : Kept al s0 (jigStop s e) := by
  unfold jigStop
  try dsimp only
  repeat' first
    | exact hal.mono rfl
    | with_reducible assumption
    | with_reducible apply modTier_kept (hal.mono rfl)
    | with_reducible apply jigStopEnd_kept (hal.mono rfl)
    | with_reducible apply modJig_kept (hal.mono rfl)
    | intro _
    | with_reducible apply kept_ite
    | split
    | simp only [keptAdm (hal.mono rfl)]
    | dsimp only

theorem jigStepStart_kept (hal : Allow al [.csr, .evt, .jrn, .adm, .tier]) (h : Kept al s0 s) (e : Fin 4) : Kept al s0
    (jigStepStart s e) := by
  unfold jigStepStart
  try dsimp only
  repeat' first
    | exact hal.mono rfl
    | with_reducible assumption
    | with_reducible apply jigFault_kept (hal.mono rfl)
    | with_reducible apply modJig_kept (hal.mono rfl)
    | with_reducible apply forEach_kept
    | with_reducible apply joinerReq_kept (hal.mono rfl)
    | intro _
    | with_reducible apply kept_ite
    | split
    | dsimp only

theorem jigStepStaged_kept (hal : Allow al [.csr, .evt, .jrn, .map, .chans, .tier]) (h : Kept al s0 s) (e : Fin 4)
    (far : List (Nat × LineData)) : Kept al s0 (jigStepStaged s e far) := by
  unfold jigStepStaged
  try dsimp only
  repeat' first
    | exact hal.mono rfl
    | with_reducible assumption
    | with_reducible apply jigStopEnd_kept (hal.mono rfl)
    | with_reducible apply modJig_kept (hal.mono rfl)
    | refine jigAhead_kept (hal.mono rfl) _ _ _ _ _ ?_
    | intro _
    | with_reducible apply kept_ite
    | split
    | dsimp only

theorem jigLate_kept (hal : Allow al [.csr, .evt, .jrn, .tier]) (h : Kept al s0 s) (e : Fin 4) : Kept al s0
    (jigLate s e) := by
  unfold jigLate
  repeat' first
    | exact hal.mono rfl | with_reducible assumption | with_reducible apply modJig_kept (hal.mono rfl)
    | with_reducible apply evd_kept (hal.mono rfl)
    | with_reducible apply cntInc_kept (hal.mono rfl) | split

theorem jigUnpin_kept (hal : Allow al [.csr, .evt, .jrn, .map, .vnr, .tier]) (h : Kept al s0 s) (e : Fin 4) : Kept al s0
    (jigUnpin s e) := by
  unfold jigUnpin
  repeat' first
    | exact hal.mono rfl | with_reducible assumption | with_reducible apply modJig_kept (hal.mono rfl)
    | with_reducible apply ropStart_kept (hal.mono rfl)
    | with_reducible apply ropRefuse_kept (hal.mono rfl) | split | dsimp only

theorem jigDone_kept (hal : Allow al [.csr, .evt, .jrn, .tier]) (h : Kept al s0 s) (e : Fin 4) : Kept al s0
    (jigDone s e) := by
  unfold jigDone
  repeat' first
    | exact hal.mono rfl | with_reducible assumption | with_reducible apply jigFault_kept (hal.mono rfl)
    | with_reducible apply ev_kept (hal.mono rfl)
    | with_reducible apply jigEnd_kept (hal.mono rfl) | with_reducible apply kept_ite | split

end Sys2Proof.Machine
end

