-- ==== Sys2Proof/Laws/KeptTen.lean ====
section
/-!
SUPPORT. What the operations of Machine/Ten.lean keep.
-/
namespace Sys2Proof.Machine
set_option linter.all false
set_option Elab.async false
open Sys2Proof

variable {al : Part → Bool} {s0 s : State}

theorem modTen_kept (hal : Allow al [.ten]) (h : Kept al s0 s) (f : TenSt → TenSt) : Kept al s0 (modTen s f) :=
    (keptTen (s := s) (hal.mono rfl)).2 h

theorem modEng_kept (hal : Allow al [.ten]) (h : Kept al s0 s) (e : Fin 8) (f : Engine → Engine) : Kept al s0
    (modEng s e f) := (keptTen (s := s) (hal.mono rfl)).2 h

theorem openDetail_kept (_hal : Allow al []) (h : Kept al s0 s) : Kept al s0 (openDetail s).2 := by
  unfold openDetail
  repeat' first | exact hal.mono rfl | with_reducible assumption | with_reducible apply drawFree_kept

theorem modSeg_kept (hal : Allow al [.ten]) (h : Kept al s0 s) (n : Fin 4) (f : SegPort → SegPort) : Kept al s0
    (modSeg s n f) := (keptTen (s := s) (hal.mono rfl)).2 h

theorem jobsWithdraw_kept (hal : Allow al [.conns, .ten]) (h : Kept al s0 s) (e : Fin 8) : Kept al s0 (jobsWithdraw s e) := by
  unfold jobsWithdraw
  repeat' first
    | exact hal.mono rfl | with_reducible assumption | with_reducible apply forEach_kept
    | with_reducible apply modEng_kept (hal.mono rfl)
    | with_reducible apply modConn_kept (hal.mono rfl) | intro _ | with_reducible apply kept_ite

theorem segMask_kept (hal : Allow al [.csr, .evt, .jrn, .ports, .adm, .chans, .conns, .ten]) (h : Kept al s0 s) : Kept al
    s0 (segMask s) := by
  unfold segMask
  repeat' first
    | exact hal.mono rfl | with_reducible assumption | with_reducible apply forEach_kept
    | with_reducible apply withdrawAll_kept (hal.mono rfl)
    | with_reducible apply jobsWithdraw_kept (hal.mono rfl) | with_reducible apply maskNote_kept (hal.mono rfl) | intro _
    | with_reducible apply kept_ite

theorem segTry_kept (hal : Allow al [.csr, .evt, .jrn, .ports, .adm, .chans, .conns, .ten]) (h : Kept al s0 s) (n : Fin 4)
    : Kept al s0 (segTry s n) := by
  unfold segTry
  repeat' first
    | exact hal.mono rfl | with_reducible assumption | with_reducible apply segMask_kept (hal.mono rfl)
    | with_reducible apply evd_kept (hal.mono rfl)
    | with_reducible apply modSeg_kept (hal.mono rfl) | with_reducible apply kept_ite

theorem segLive_kept (hal : Allow al [.csr, .evt, .jrn, .ports, .adm, .chans, .conns, .ten]) (h : Kept al s0 s)
    (n : Fin 4) (live : Bool) : Kept al s0 (segLive s n live) := by
  unfold segLive
  try dsimp only
  repeat' first
    | exact hal.mono rfl
    | with_reducible assumption
    | with_reducible apply segTry_kept (hal.mono rfl)
    | with_reducible apply modSeg_kept (hal.mono rfl)
    | intro _
    | with_reducible apply kept_ite
    | split
    | dsimp only

theorem segCtl_kept (hal : Allow al [.csr, .evt, .jrn, .ports, .adm, .chans, .conns, .ten]) (h : Kept al s0 s) (n : Fin 4)
    (en : Bool) : Kept al s0 (segCtl s n en) := by
  unfold segCtl
  try dsimp only
  repeat' first
    | exact hal.mono rfl
    | with_reducible assumption
    | with_reducible apply segTry_kept (hal.mono rfl)
    | with_reducible apply setFld_kept (hal.mono rfl)
    | intro _
    | with_reducible apply kept_ite
    | split
    | dsimp only

theorem ctxWrite_kept (hal : Allow al [.csr, .map, .chans]) (h : Kept al s0 s) (c : Nat) : Kept al s0 (ctxWrite s c) := by
  unfold ctxWrite
  try dsimp only
  repeat' first
    | exact hal.mono rfl
    | with_reducible assumption
    | with_reducible apply forEach_kept
    | with_reducible apply dasPut_kept (hal.mono rfl)
    | intro _
    | with_reducible apply kept_ite
    | split
    | dsimp only

theorem ctxTouch_kept (hal : Allow al [.ten]) (h : Kept al s0 s) (c : Nat) (dirty : Bool) : Kept al s0
    (ctxTouch s c dirty) := by
  unfold ctxTouch
  repeat' first | exact hal.mono rfl | with_reducible assumption | with_reducible apply modEng_kept (hal.mono rfl) | split

theorem ctxDrop_kept (hal : Allow al [.ten]) (h : Kept al s0 s) (e : Fin 8) (c : BitVec 16) : Kept al s0
    (ctxDrop s e c) := (keptTen (s := s) (hal.mono rfl)).2 h

theorem ctxRoom_kept (hal : Allow al [.ten]) (h : Kept al s0 s) (e : Fin 8) (set : Nat) : KeptOpt al s0
    (ctxRoom s e set) := by
  unfold ctxRoom
  repeat' first
    | exact hal.mono rfl | with_reducible assumption | with_reducible apply ctxDrop_kept (hal.mono rfl) | split
    | exact KeptOpt.none _
    | with_reducible apply KeptOpt.some

theorem loadTry_kept (hal : Allow al [.csr, .ten]) (h : Kept al s0 s) (e : Fin 8) : Kept al s0 (loadTry s e) := by
  unfold loadTry
  repeat' first
    | exact hal.mono rfl | with_reducible assumption | with_reducible apply forEach_kept
    | with_reducible apply modEng_kept (hal.mono rfl)
    | with_reducible apply cntInc_kept (hal.mono rfl) | intro _ | with_reducible apply kept_ite | split
    | refine KeptOpt.get (by with_reducible assumption) (ctxRoom_kept (hal.mono rfl) ?_ ..)

theorem ctxBack_kept (hal : Allow al [.csr, .map, .chans, .ten]) (h : Kept al s0 s) (e : Fin 8) (v : CtxEnt) : Kept al s0
    (ctxBack s e v) := by
  unfold ctxBack
  repeat' first
    | exact hal.mono rfl | with_reducible assumption | with_reducible apply ctxDrop_kept (hal.mono rfl)
    | with_reducible apply cntInc_kept (hal.mono rfl)
    | with_reducible apply ctxWrite_kept (hal.mono rfl)

theorem apertureTaken_kept (hal : Allow al [.csr, .evt, .jrn, .map, .chans]) (h : Kept al s0 s) (e : Fin 8)
    (ls : List Nat) : Kept al s0 (apertureTaken s e ls) := by
  unfold apertureTaken
  try dsimp only
  repeat' first
    | exact hal.mono rfl
    | with_reducible assumption
    | with_reducible apply forEach_kept
    | with_reducible apply engineRead_kept (hal.mono rfl)
    | intro _
    | with_reducible apply kept_ite
    | split
    | dsimp only

theorem ctxEvict_kept (hal : Allow al [.csr, .evt, .jrn, .map, .chans, .ten]) (h : Kept al s0 s) (e : Fin 8) : Kept al s0
    (ctxEvict s e) := by
  unfold ctxEvict
  try dsimp only
  repeat' first
    | exact hal.mono rfl
    | with_reducible assumption
    | with_reducible apply loadTry_kept (hal.mono rfl)
    | with_reducible apply ctxBack_kept (hal.mono rfl)
    | with_reducible apply apertureTaken_kept (hal.mono rfl)
    | intro _
    | with_reducible apply kept_ite
    | split
    | dsimp only

theorem fillGone_kept (hal : Allow al [.csr, .evt, .jrn, .ports, .adm, .tt, .results, .map, .vnr, .cure])
    (h : Kept al s0 s) (sl : Fin 16) (line : Nat) (code : Option Code) : Kept al s0 (fillGone s sl line code) := by
  unfold fillGone
  repeat' first
    | exact hal.mono rfl | with_reducible assumption | with_reducible apply modSlice_kept (hal.mono rfl)
    | with_reducible apply forEach_kept
    | with_reducible apply failReq_kept (hal.mono rfl) | with_reducible apply serveTwin_kept (hal.mono rfl) | intro _ | split

theorem repairSet_kept (hal : Allow al [.cure]) (h : Kept al s0 s) (n : Nat) (a : RepAns) : Kept al s0
    (repairSet s n a) := (keptCure (s := s) (hal.mono rfl)).2 h

theorem segDone_kept (hal : Allow al [.csr, .evt, .jrn, .ports, .adm, .tt, .results, .map, .vnr, .chans, .cure, .tier])
    (h : Kept al s0 s) (c : Nat) (g : OutSeg) (ans : SegAns) : Kept al s0 (segDone s c g ans) := by
  unfold segDone
  repeat' first
    | exact hal.mono rfl | with_reducible assumption | with_reducible apply markAck_kept (hal.mono rfl)
    | with_reducible apply fwdAnswer_kept (hal.mono rfl)
    | with_reducible apply repairSet_kept (hal.mono rfl) | with_reducible apply cntInc_kept (hal.mono rfl)
    | with_reducible apply pushAck_kept (hal.mono rfl)
    | with_reducible apply partDone_kept (hal.mono rfl) | with_reducible apply ttLeave_kept (hal.mono rfl)
    | with_reducible apply failReq_kept (hal.mono rfl)
    | with_reducible apply serveTwin_kept (hal.mono rfl) | with_reducible apply modMiss_kept (hal.mono rfl)
    | with_reducible apply fillGone_kept (hal.mono rfl)
    | with_reducible apply allocAnswer_kept (hal.mono rfl) | with_reducible apply copyAck_kept (hal.mono rfl) | split

theorem unaUpd_kept (hal : Allow al [.conns]) (h : Kept al s0 s) (c : Nat) : Kept al s0 (unaUpd s c) := by
  unfold unaUpd
  repeat' first | exact hal.mono rfl | with_reducible assumption | with_reducible apply modConn_kept (hal.mono rfl)

theorem retire_kept
    (hal : Allow al [.csr, .evt, .jrn, .ports, .adm, .tt, .results, .map, .vnr, .chans, .cure, .tier, .conns])
    (h : Kept al s0 s) (c : Nat) (done : List (OutReq × SegAns)) : Kept al s0 (retire s c done) := by
  unfold retire
  repeat' first
    | exact hal.mono rfl | with_reducible assumption | with_reducible apply modConn_kept (hal.mono rfl)
    | with_reducible apply forEach_kept
    | with_reducible apply unaUpd_kept (hal.mono rfl) | with_reducible apply segDone_kept (hal.mono rfl)
    | with_reducible apply stallNote_kept (hal.mono rfl)
    | with_reducible apply curePump_kept (hal.mono rfl) | with_reducible apply slotPump_kept (hal.mono rfl) | intro _

theorem nbrOfConn_kept (hal : Allow al [.csr, .evt, .jrn, .ports, .adm, .tt, .results, .map, .cure, .tier])
    (h : Kept al s0 s) (c : Nat) : Kept al s0 (nbrOfConn s c) := by
  unfold nbrOfConn
  repeat' first
    | exact hal.mono rfl | with_reducible assumption | with_reducible apply forEach_kept
    | with_reducible apply nbrUpdate_kept (hal.mono rfl) | intro _
    | with_reducible apply kept_ite

theorem connLost_kept (hal : Allow al [.csr, .evt, .jrn, .ports, .adm, .tt, .results, .map, .cure, .tier])
    (h : Kept al s0 s) (c : Nat) : Kept al s0 (connLost s c) := by
  unfold connLost
  repeat' first
    | exact hal.mono rfl | with_reducible assumption | with_reducible apply enterStalled_kept (hal.mono rfl)
    | with_reducible apply mirrorLost_kept (hal.mono rfl)
    | with_reducible apply nbrOfConn_kept (hal.mono rfl) | with_reducible apply kept_ite

theorem connError_kept
    (hal : Allow al [.csr, .evt, .jrn, .ports, .adm, .tt, .results, .map, .vnr, .chans, .cure, .tier, .conns, .ten])
    (h : Kept al s0 s) (c : Nat) (cause : ErrCause) : Kept al s0 (connError s c cause) := by
  unfold connError
  repeat' first
    | exact hal.mono rfl | with_reducible assumption | with_reducible apply modConn_kept (hal.mono rfl)
    | with_reducible apply evd_kept (hal.mono rfl)
    | with_reducible apply cntInc_kept (hal.mono rfl) | with_reducible apply modEng_kept (hal.mono rfl)
    | with_reducible apply modCure_kept (hal.mono rfl)
    | with_reducible apply connLost_kept (hal.mono rfl) | with_reducible apply ctxTouch_kept (hal.mono rfl)
    | with_reducible apply forEach_kept
    | with_reducible apply cntAdd_kept (hal.mono rfl) | with_reducible apply segDone_kept (hal.mono rfl)
    | with_reducible apply stallNote_kept (hal.mono rfl)
    | with_reducible apply curePump_kept (hal.mono rfl) | with_reducible apply slotPump_kept (hal.mono rfl) | intro _
    | with_reducible apply kept_ite

theorem ctlPush_kept (hal : Allow al [.ten]) (h : Kept al s0 s) (c : Nat) (opcode : BitVec 8) (ack : BitVec 24)
    (imm : Word32) : Kept al s0 (ctlPush s c opcode ack imm) :=
  (keptTen (s := s) (hal.mono rfl)).2 h

theorem nakFatalEv_kept (hal : Allow al [.csr, .evt, .jrn]) (h : Kept al s0 s) (c : Nat) (syn : BitVec 8) : Kept al s0
    (nakFatalEv s c syn) := by
  unfold nakFatalEv
  try dsimp only
  repeat' first
    | exact hal.mono rfl
    | with_reducible assumption
    | with_reducible apply openDetail_kept (hal.mono rfl)
    | with_reducible apply evd_kept (hal.mono rfl)
    | intro _
    | with_reducible apply kept_ite
    | split
    | refine kept_snd (by with_reducible assumption) (openDetail_kept (hal.mono rfl) ?_ ..)
    | dsimp only

theorem nakSend_kept
    (hal : Allow al [.csr, .evt, .jrn, .ports, .adm, .tt, .results, .map, .vnr, .chans, .cure, .tier, .conns, .ten])
    (h : Kept al s0 s) (c : Nat) (psn : BitVec 24) (syn : BitVec 8) : Kept al s0 (nakSend s c psn syn) := by
  unfold nakSend
  repeat' first
    | exact hal.mono rfl | with_reducible assumption | with_reducible apply connError_kept (hal.mono rfl)
    | with_reducible apply nakFatalEv_kept (hal.mono rfl)
    | with_reducible apply ctlPush_kept (hal.mono rfl) | with_reducible apply kept_ite

end Sys2Proof.Machine
end

