-- ==== Sys2Proof/Laws/KeptTenRx.lean ====
section
/-!
SUPPORT. What the operations of Machine/TenRx.lean keep.
-/
namespace Sys2Proof.Machine
set_option linter.all false
set_option Elab.async false
open Sys2Proof

variable {al : Part → Bool} {s0 s : State}

theorem rxDrop_kept (hal : Allow al [.csr, .evt, .jrn]) (h : Kept al s0 s) (n : Fin 4) (count : Bool) : Kept al s0
    (rxDrop s n count) := by
  unfold rxDrop
  repeat' first
    | exact hal.mono rfl | with_reducible assumption | with_reducible apply doIf_kept
    | with_reducible apply cntInc_kept (hal.mono rfl)
    | with_reducible apply openDetail_kept (hal.mono rfl) | with_reducible apply evd_kept (hal.mono rfl) | intro _

theorem popSeg_kept (hal : Allow al [.ten]) (h : Kept al s0 s) (e : Fin 8) : Kept al s0 (popSeg s e) :=
    (keptTen (s := s) (hal.mono rfl)).2 h

theorem nakFront_kept
    (hal : Allow al [.csr, .evt, .jrn, .ports, .adm, .tt, .results, .map, .vnr, .chans, .cure, .tier, .conns, .ten])
    (e : Fin 8) : ∀ (fuel : Nat) (s : State), Kept al s0 s → Kept al s0 (nakFront e fuel s)
  | 0, _, h => h
  | fuel + 1, s, h => by
    unfold nakFront
    split
    · exact nakFront_kept (hal.mono rfl) e fuel _ (nakSend_kept (hal.mono rfl) (popSeg_kept (hal.mono rfl) h e) _ _ _)
    · exact h

theorem nakInvalid_kept
    (hal : Allow al [.csr, .evt, .jrn, .ports, .adm, .tt, .results, .map, .vnr, .chans, .cure, .tier, .conns, .ten])
    (h : Kept al s0 s) (e : Fin 8) : Kept al s0 (nakInvalid s e) := by
  unfold nakInvalid
  repeat' first | exact hal.mono rfl | with_reducible assumption | refine nakFront_kept (hal.mono rfl) _ _ _ ?_

theorem ackApply_kept
    (hal : Allow al [.csr, .evt, .jrn, .ports, .adm, .tt, .results, .map, .vnr, .chans, .cure, .tier, .conns])
    (h : Kept al s0 s) (c : Nat) (ack : BitVec 24) : Kept al s0 (ackApply s c ack) := by
  unfold ackApply
  repeat' first
    | exact hal.mono rfl | with_reducible assumption | with_reducible apply modConn_kept (hal.mono rfl)
    | with_reducible apply retire_kept (hal.mono rfl)
    | with_reducible apply kept_ite

theorem seqCheck_kept
    (hal : Allow al [.csr, .evt, .jrn, .ports, .adm, .tt, .results, .map, .vnr, .chans, .cure, .tier, .conns, .ten])
    (h : Kept al s0 s) (c : Nat) (h : SegHdr) (data : List Byte) : Kept al s0 (seqCheck s c h data) := by
  unfold seqCheck
  repeat' first
    | exact hal.mono rfl | with_reducible assumption | with_reducible apply nakInvalid_kept (hal.mono rfl)
    | with_reducible apply modEng_kept (hal.mono rfl)
    | with_reducible apply connError_kept (hal.mono rfl) | with_reducible apply evd_kept (hal.mono rfl)
    | with_reducible apply modConn_kept (hal.mono rfl)
    | with_reducible apply nakSend_kept (hal.mono rfl) | with_reducible apply cntInc_kept (hal.mono rfl)
    | with_reducible apply kept_ite

theorem segRecv_kept
    (hal : Allow al [.csr, .evt, .jrn, .ports, .adm, .tt, .results, .map, .vnr, .chans, .cure, .tier, .conns, .ten])
    (h : Kept al s0 s) (p : PendSeg) : Kept al s0 (segRecv s p) := by
  unfold segRecv
  repeat' first
    | exact hal.mono rfl | with_reducible assumption | with_reducible apply modEng_kept (hal.mono rfl)
    | with_reducible apply ctxTouch_kept (hal.mono rfl)
    | with_reducible apply cntInc_kept (hal.mono rfl) | with_reducible apply evd_kept (hal.mono rfl)
    | with_reducible apply ev_kept (hal.mono rfl)
    | with_reducible apply seqCheck_kept (hal.mono rfl) | with_reducible apply ackApply_kept (hal.mono rfl)
    | with_reducible apply modConn_kept (hal.mono rfl) | split
    | dsimp only

theorem segTake_kept
    (hal : Allow al [.csr, .evt, .jrn, .ports, .adm, .tt, .results, .map, .vnr, .chans, .cure, .tier, .conns, .ten])
    (h : Kept al s0 s) (p : PendSeg) : Kept al s0 (segTake s p) := by
  unfold segTake
  repeat' first
    | exact hal.mono rfl | with_reducible assumption | with_reducible apply segRecv_kept (hal.mono rfl)
    | with_reducible apply cntInc_kept (hal.mono rfl)
    | with_reducible apply kept_ite

theorem pendGo_kept
    (hal : Allow al [.csr, .evt, .jrn, .ports, .adm, .tt, .results, .map, .vnr, .chans, .cure, .tier, .conns, .ten])
    (e : Fin 8) : ∀ (fuel : Nat) (s : State), Kept al s0 s → Kept al s0 (pendGo e fuel s)
  | 0, _, h => h
  | fuel + 1, s, h => by
    unfold pendGo
    split
    · split
      · exact h
      · exact pendGo_kept (hal.mono rfl) e fuel _ (segTake_kept (hal.mono rfl) (modEng_kept (hal.mono rfl) h ..) ..)
    · exact h

theorem segsGo_kept
    (hal : Allow al [.csr, .evt, .jrn, .ports, .adm, .tt, .results, .map, .vnr, .chans, .cure, .tier, .conns, .ten])
    (h : Kept al s0 s) (e : Fin 8) : Kept al s0 (segsGo s e) := by
  unfold segsGo
  try dsimp only
  repeat' first
    | exact hal.mono rfl
    | with_reducible assumption
    | refine pendGo_kept (hal.mono rfl) _ _ _ ?_
    | intro _
    | with_reducible apply kept_ite
    | split
    | dsimp only

theorem cnrPush_kept (hal : Allow al [.ten]) (h : Kept al s0 s) (p : PendSeg) : Kept al s0 (cnrPush s p) :=
    (keptTen (s := s) (hal.mono rfl)).2 h

theorem segDispatch_kept
    (hal : Allow al [.csr, .evt, .jrn, .ports, .adm, .tt, .results, .map, .vnr, .chans, .cure, .tier, .conns, .ten])
    (h : Kept al s0 s) (p : PendSeg) : Kept al s0 (segDispatch s p) := by
  unfold segDispatch
  try dsimp only
  repeat' first
    | exact hal.mono rfl
    | with_reducible assumption
    | with_reducible apply cntInc_kept (hal.mono rfl)
    | with_reducible apply doIf_kept
    | with_reducible apply segRecv_kept (hal.mono rfl)
    | with_reducible apply modEng_kept (hal.mono rfl)
    | with_reducible apply evd_kept (hal.mono rfl)
    | with_reducible apply loadTry_kept (hal.mono rfl)
    | with_reducible apply cnrPush_kept (hal.mono rfl)
    | intro _
    | with_reducible apply kept_ite
    | split
    | dsimp only

theorem rxDatagram_kept
    (hal : Allow al [.csr, .evt, .jrn, .ports, .adm, .tt, .results, .map, .vnr, .chans, .cure, .tier, .conns, .ten])
    (h : Kept al s0 s) (n : Fin 4) (b : RxBeats) (d : Datagram) : Kept al s0 (rxDatagram s n b d) := by
  unfold rxDatagram
  repeat' first
    | exact hal.mono rfl | with_reducible assumption | with_reducible apply cntInc_kept (hal.mono rfl)
    | with_reducible apply rxDrop_kept (hal.mono rfl)
    | with_reducible apply segDispatch_kept (hal.mono rfl) | with_reducible apply kept_ite

theorem loadFail_kept
    (hal : Allow al [.csr, .evt, .jrn, .ports, .adm, .tt, .results, .map, .vnr, .chans, .cure, .tier, .conns, .ten])
    (h : Kept al s0 s) (c : Nat) : Kept al s0 (loadFail s c) := by
  unfold loadFail
  try dsimp only
  repeat' first
    | exact hal.mono rfl
    | with_reducible assumption
    | with_reducible apply connError_kept (hal.mono rfl)
    | with_reducible apply evd_kept (hal.mono rfl)
    | intro _
    | with_reducible apply kept_ite
    | split
    | dsimp only

theorem ctxLoadDone_kept
    (hal : Allow al [.csr, .evt, .jrn, .ports, .adm, .tt, .results, .map, .vnr, .chans, .cure, .tier, .conns, .ten])
    (h : Kept al s0 s) (e : Fin 8) : Kept al s0 (ctxLoadDone s e) := by
  unfold ctxLoadDone
  try dsimp only
  repeat' first
    | exact hal.mono rfl
    | with_reducible assumption
    | with_reducible apply apertureTaken_kept (hal.mono rfl)
    | with_reducible apply modEng_kept (hal.mono rfl)
    | with_reducible apply loadTry_kept (hal.mono rfl)
    | with_reducible apply segsGo_kept (hal.mono rfl)
    | with_reducible apply loadFail_kept (hal.mono rfl)
    | with_reducible apply ctxDrop_kept (hal.mono rfl)
    | intro _
    | with_reducible apply kept_ite
    | split
    | dsimp only

theorem takeFront_kept
    (hal : Allow al [.csr, .evt, .jrn, .ports, .adm, .tt, .results, .map, .vnr, .chans, .cure, .tier, .conns, .ten])
    (h : Kept al s0 s) (e : Fin 8) (row : TenRow) (f : State → Nat → Seg → State)
    (h_f : ∀ (t : State) (a1 : Nat) (a2 : Seg), Kept al s0 t → Kept al s0 (f t a1 a2)) : Kept al s0
    (takeFront s e row f) := by
  unfold takeFront
  try dsimp only
  repeat' first
    | exact hal.mono rfl
    | with_reducible assumption
    | with_reducible apply segsGo_kept (hal.mono rfl)
    | with_reducible apply nakInvalid_kept (hal.mono rfl)
    | with_reducible apply popSeg_kept (hal.mono rfl)
    | with_reducible apply h_f
    | intro _
    | with_reducible apply kept_ite
    | split
    | dsimp only

theorem tenAck_kept
    (hal : Allow al [.csr, .evt, .jrn, .ports, .adm, .tt, .results, .map, .vnr, .chans, .cure, .tier, .conns, .ten])
    (h : Kept al s0 s) (e : Fin 8) : Kept al s0 (tenAck s e) := by
  unfold tenAck
  repeat' first
    | exact hal.mono rfl | with_reducible assumption | with_reducible apply takeFront_kept (hal.mono rfl)
    | with_reducible apply ackApply_kept (hal.mono rfl) | intro _

theorem goBack_kept
    (hal : Allow al [.csr, .evt, .jrn, .ports, .adm, .tt, .results, .map, .vnr, .chans, .cure, .tier, .conns, .ten])
    (h : Kept al s0 s) (c : Nat) (p : BitVec 24) : Kept al s0 (goBack s c p) := by
  unfold goBack
  repeat' first
    | exact hal.mono rfl | with_reducible assumption | with_reducible apply connError_kept (hal.mono rfl)
    | with_reducible apply evd_kept (hal.mono rfl)
    | with_reducible apply modConn_kept (hal.mono rfl) | with_reducible apply kept_ite

theorem tenNak_kept
    (hal : Allow al [.csr, .evt, .jrn, .ports, .adm, .tt, .results, .map, .vnr, .chans, .cure, .tier, .conns, .ten])
    (h : Kept al s0 s) (e : Fin 8) : Kept al s0 (tenNak s e) := by
  unfold tenNak
  try dsimp only
  repeat' first
    | exact hal.mono rfl
    | with_reducible assumption
    | with_reducible apply takeFront_kept (hal.mono rfl)
    | with_reducible apply cntInc_kept (hal.mono rfl)
    | with_reducible apply goBack_kept (hal.mono rfl)
    | with_reducible apply modConn_kept (hal.mono rfl)
    | with_reducible apply connError_kept (hal.mono rfl)
    | with_reducible apply nakFatalEv_kept (hal.mono rfl)
    | with_reducible apply retire_kept (hal.mono rfl)
    | intro _
    | with_reducible apply kept_ite
    | split
    | dsimp only

theorem tenNotReady_kept
    (hal : Allow al [.csr, .evt, .jrn, .ports, .adm, .tt, .results, .map, .vnr, .chans, .cure, .tier, .conns, .ten])
    (h : Kept al s0 s) (e : Fin 8) : Kept al s0 (tenNotReady s e) := by
  unfold tenNotReady
  repeat' first
    | exact hal.mono rfl | with_reducible assumption | with_reducible apply takeFront_kept (hal.mono rfl)
    | with_reducible apply cntInc_kept (hal.mono rfl)
    | with_reducible apply modConn_kept (hal.mono rfl) | intro _ | with_reducible apply kept_ite

theorem tenResp_kept
    (hal : Allow al [.csr, .evt, .jrn, .ports, .adm, .tt, .results, .map, .vnr, .chans, .cure, .tier, .conns, .ten])
    (h : Kept al s0 s) (e : Fin 8) : Kept al s0 (tenResp s e) := by
  unfold tenResp
  repeat' first
    | exact hal.mono rfl | with_reducible assumption | with_reducible apply takeFront_kept (hal.mono rfl)
    | with_reducible apply retire_kept (hal.mono rfl) | intro _ | split
    | dsimp only

theorem rtoExpiry_kept
    (hal : Allow al [.csr, .evt, .jrn, .ports, .adm, .tt, .results, .map, .vnr, .chans, .cure, .tier, .conns, .ten])
    (h : Kept al s0 s) (c : Nat) : Kept al s0 (rtoExpiry s c) := by
  unfold rtoExpiry
  repeat' first
    | exact hal.mono rfl | with_reducible assumption | with_reducible apply modConn_kept (hal.mono rfl)
    | with_reducible apply cntInc_kept (hal.mono rfl)
    | with_reducible apply goBack_kept (hal.mono rfl) | with_reducible apply kept_ite

end Sys2Proof.Machine
end

