-- ==== Sys2Proof/Laws/KeptTenExec.lean ====
section
/-!
SUPPORT. What the operations of Machine/TenExec.lean keep.
-/
namespace Sys2Proof.Machine
set_option linter.all false
set_option Elab.async false
open Sys2Proof

variable {al : Part → Bool} {s0 s : State}

theorem modJob_kept (hal : Allow al [.ten]) (h : Kept al s0 s) (e : Fin 8) (n : Nat) (f : Job → Job) : Kept al s0
    (modJob s e n f) := (keptTen (s := s) (hal.mono rfl)).2 h

theorem dropJob_kept (hal : Allow al [.ten]) (h : Kept al s0 s) (e : Fin 8) (n : Nat) : Kept al s0 (dropJob s e n) :=
    (keptTen (s := s) (hal.mono rfl)).2 h

theorem takeResults_kept (hal : Allow al [.results, .ten]) (h : Kept al s0 s) (e : Fin 8) : Kept al s0 (takeResults s e) := by
  unfold takeResults
  repeat' first
    | exact hal.mono rfl | with_reducible assumption | with_reducible apply forEach_kept
    | with_reducible apply modJob_kept (hal.mono rfl) | intro _ | split
    | simp only [keptResults (hal.mono rfl)]

theorem respPush_kept (hal : Allow al [.ten]) (h : Kept al s0 s) (c : Nat) (g : Seg) (rkey imm : Word32)
    (data : List Byte) : Kept al s0 (respPush s c g rkey imm data) :=
  (keptTen (s := s) (hal.mono rfl)).2 h

theorem readAnswer_kept (hal : Allow al [.ten]) (h : Kept al s0 s) (j : Job) (x : Conn) : Kept al s0 (readAnswer s j x) :=
    (keptTen (s := s) (hal.mono rfl)).2 h

theorem atomStore_kept (hal : Allow al [.ten]) (h : Kept al s0 s) (e : Fin 8) (j : Job) (old : Word64) : Kept al s0
    (atomStore s e j old) :=
  (keptTen (s := s) (hal.mono rfl)).2 h

theorem ringNext_kept (hal : Allow al [.ten]) (h : Kept al s0 s) (r : Fin 32) : Kept al s0 (ringNext s r) :=
    (keptTen (s := s) (hal.mono rfl)).2 h

theorem jobStep_kept
    (hal : Allow al [.csr, .evt, .jrn, .ports, .ntc, .adm, .tt, .results, .map, .vnr, .chans, .cure, .tier, .conns, .ten])
    (h : Kept al s0 s) (e : Fin 8) (j : Job) : Kept al s0 (jobStep e s j) := by
  unfold jobStep
  repeat' first
    | exact hal.mono rfl | with_reducible assumption | with_reducible apply modJob_kept (hal.mono rfl)
    | with_reducible apply nakSend_kept (hal.mono rfl)
    | with_reducible apply ntcPush_kept (hal.mono rfl) | with_reducible apply ringNext_kept (hal.mono rfl)
    | with_reducible apply modConn_kept (hal.mono rfl)
    | with_reducible apply readAnswer_kept (hal.mono rfl) | with_reducible apply respPush_kept (hal.mono rfl)
    | with_reducible apply atomStore_kept (hal.mono rfl)
    | intro _ | with_reducible apply kept_ite | split | exact KeptOpt.none _ | with_reducible apply KeptOpt.getD
    | with_reducible apply KeptOpt.map | refine KeptOpt.get (by with_reducible assumption) ?_

theorem jobRetire_kept (hal : Allow al [.conns, .ten]) (h : Kept al s0 s) (e : Fin 8) (j : Job) : Kept al s0
    (jobRetire e s j) := by
  unfold jobRetire
  try dsimp only
  repeat' first
    | exact hal.mono rfl
    | with_reducible assumption
    | with_reducible apply dropJob_kept (hal.mono rfl)
    | with_reducible apply modConn_kept (hal.mono rfl)
    | intro _
    | with_reducible apply kept_ite
    | split
    | dsimp only

theorem closeTry_kept
    (hal : Allow al [.csr, .evt, .jrn, .ports, .adm, .tt, .results, .map, .vnr, .chans, .cure, .tier, .conns, .ten])
    (h : Kept al s0 s) (c : BitVec 16) : Kept al s0 (closeTry s c) := by
  unfold closeTry
  repeat' first
    | exact hal.mono rfl | with_reducible assumption | with_reducible apply modCure_kept (hal.mono rfl)
    | with_reducible apply modConn_kept (hal.mono rfl)
    | with_reducible apply connLost_kept (hal.mono rfl) | with_reducible apply forEach_kept
    | with_reducible apply segDone_kept (hal.mono rfl)
    | with_reducible apply modEng_kept (hal.mono rfl) | with_reducible apply ctxDrop_kept (hal.mono rfl)
    | with_reducible apply modTen_kept (hal.mono rfl)
    | with_reducible apply ctxWrite_kept (hal.mono rfl) | with_reducible apply nbrOfConn_kept (hal.mono rfl) | intro _
    | with_reducible apply kept_ite

theorem tenPump_kept
    (hal : Allow al [.csr, .evt, .jrn, .ports, .ntc, .adm, .tt, .results, .map, .vnr, .chans, .cure, .tier, .conns, .ten])
    (h : Kept al s0 s) (e : Fin 8) : Kept al s0 (tenPump s e) := by
  unfold tenPump
  repeat' first
    | exact hal.mono rfl | with_reducible assumption | with_reducible apply takeResults_kept (hal.mono rfl)
    | with_reducible apply forEach_kept
    | with_reducible apply jobStep_kept (hal.mono rfl) | with_reducible apply jobRetire_kept (hal.mono rfl)
    | with_reducible apply closeTry_kept (hal.mono rfl) | intro _

theorem jobStart_kept (hal : Allow al [.csr, .evt, .jrn, .ports, .adm, .results, .map, .chans, .ten]) (h : Kept al s0 s)
    (e : Fin 8) (c : Nat) (g : Seg) (rkey : Option Nat) (wait : JobWait) (met : Bool) (rs : List (Nat → Nat → Req)) : Kept
    al s0 (jobStart s e c g rkey wait met rs) := by
  unfold jobStart
  repeat' first
    | exact hal.mono rfl | with_reducible assumption | with_reducible apply modEng_kept (hal.mono rfl)
    | with_reducible apply powerRefuse_kept (hal.mono rfl)
    | with_reducible apply kept_ite | simp only [keptAdm (hal.mono rfl)]

theorem keyLoad_kept (hal : Allow al [.ten]) (h : Kept al s0 s) (e : Fin 8) (i : Nat) : Kept al s0 (keyLoad s e i) := by
  unfold keyLoad
  try dsimp only
  repeat' first
    | exact hal.mono rfl
    | with_reducible assumption
    | with_reducible apply modEng_kept (hal.mono rfl)
    | intro _
    | with_reducible apply kept_ite
    | split
    | dsimp only

theorem keyDeny_kept
    (hal : Allow al [.csr, .evt, .jrn, .ports, .adm, .tt, .results, .map, .vnr, .chans, .cure, .tier, .conns, .ten])
    (h : Kept al s0 s) (c : Nat) (h : SegHdr) : Kept al s0 (keyDeny s c h) := by
  unfold keyDeny
  repeat' first
    | exact hal.mono rfl | with_reducible assumption | with_reducible apply openDetail_kept (hal.mono rfl)
    | with_reducible apply evd_kept (hal.mono rfl)
    | with_reducible apply cntInc_kept (hal.mono rfl) | with_reducible apply nakSend_kept (hal.mono rfl)

theorem mirrorOk_kept (hal : Allow al [.csr, .evt, .jrn]) (h : Kept al s0 s) (h : SegHdr) (wr : Bool) (len : Nat) : Kept
    al s0 (mirrorOk s h wr len).2 := by
  unfold mirrorOk
  try dsimp only
  repeat' first
    | exact hal.mono rfl
    | with_reducible assumption
    | with_reducible apply ev_kept (hal.mono rfl)
    | intro _
    | with_reducible apply kept_ite
    | split
    | dsimp only

theorem tenTurn_kept
    (hal : Allow al [.csr, .evt, .jrn, .ports, .ntc, .adm, .tt, .results, .map, .vnr, .chans, .cure, .tier, .conns, .ten])
    (h : Kept al s0 s) (e : Fin 8) : Kept al s0 (tenTurn s e) := by
  unfold tenTurn
  try dsimp only
  repeat' first
    | exact hal.mono rfl
    | with_reducible assumption
    | with_reducible apply segsGo_kept (hal.mono rfl)
    | with_reducible apply nakInvalid_kept (hal.mono rfl)
    | with_reducible apply tenPump_kept (hal.mono rfl)
    | intro _
    | with_reducible apply kept_ite
    | split
    | dsimp only

theorem takeReq8_kept
    (hal : Allow al [.csr, .evt, .jrn, .ports, .ntc, .adm, .tt, .results, .map, .vnr, .chans, .cure, .tier, .conns, .ten])
    (h : Kept al s0 s) (e : Fin 8) (row : TenRow) (wr : Bool) (len : Seg → Nat)
    (f : State → Nat → Seg → Option (Nat × Rkey) → State)
    (h_f : ∀ (t : State) (a1 : Nat) (a2 : Seg) (a3 : Option (Nat × Rkey)), Kept al s0 t → Kept al s0 (f t a1 a2 a3)) :
    Kept al s0 (takeReq8 s e row wr len f) := by
  unfold takeReq8
  try dsimp only
  repeat' first
    | exact hal.mono rfl
    | with_reducible assumption
    | with_reducible apply tenTurn_kept (hal.mono rfl)
    | with_reducible apply nakSend_kept (hal.mono rfl)
    | with_reducible apply cntInc_kept (hal.mono rfl)
    | with_reducible apply keyLoad_kept (hal.mono rfl)
    | with_reducible apply popSeg_kept (hal.mono rfl)
    | with_reducible apply keyDeny_kept (hal.mono rfl)
    | with_reducible apply mirrorOk_kept (hal.mono rfl)
    | with_reducible apply h_f
    | intro _
    | with_reducible apply kept_ite
    | split
    | refine kept_snd (by with_reducible assumption) (mirrorOk_kept (hal.mono rfl) ?_ ..)
    | dsimp only

theorem tenWrite_kept
    (hal : Allow al [.csr, .evt, .jrn, .ports, .ntc, .adm, .tt, .results, .map, .vnr, .chans, .cure, .tier, .conns, .ten])
    (h : Kept al s0 s) (e : Fin 8) : Kept al s0 (tenWrite s e) := by
  unfold tenWrite
  repeat' first
    | exact hal.mono rfl | with_reducible assumption | with_reducible apply takeReq8_kept (hal.mono rfl)
    | with_reducible apply jobStart_kept (hal.mono rfl) | intro _

theorem tenWriteImm_kept
    (hal : Allow al [.csr, .evt, .jrn, .ports, .ntc, .adm, .tt, .results, .map, .vnr, .chans, .cure, .tier, .conns, .ten])
    (h : Kept al s0 s) (e : Fin 8) : Kept al s0 (tenWriteImm s e) := by
  unfold tenWriteImm
  repeat' first
    | exact hal.mono rfl | with_reducible assumption | with_reducible apply takeReq8_kept (hal.mono rfl)
    | with_reducible apply jobStart_kept (hal.mono rfl)
    | with_reducible apply nakSend_kept (hal.mono rfl) | with_reducible apply evd_kept (hal.mono rfl) | intro _
    | with_reducible apply kept_ite

theorem tenCureWrite_kept
    (hal : Allow al [.csr, .evt, .jrn, .ports, .ntc, .adm, .tt, .results, .map, .vnr, .chans, .cure, .tier, .conns, .ten])
    (h : Kept al s0 s) (e : Fin 8) : Kept al s0 (tenCureWrite s e) := by
  unfold tenCureWrite
  repeat' first
    | exact hal.mono rfl | with_reducible assumption | with_reducible apply takeReq8_kept (hal.mono rfl)
    | with_reducible apply jobStart_kept (hal.mono rfl) | intro _

theorem tenRead_kept
    (hal : Allow al [.csr, .evt, .jrn, .ports, .ntc, .adm, .tt, .results, .map, .vnr, .chans, .cure, .tier, .conns, .ten])
    (h : Kept al s0 s) (e : Fin 8) : Kept al s0 (tenRead s e) := by
  unfold tenRead
  repeat' first
    | exact hal.mono rfl | with_reducible assumption | with_reducible apply takeReq8_kept (hal.mono rfl)
    | with_reducible apply jobStart_kept (hal.mono rfl) | intro _

theorem atomStart_kept
    (hal : Allow al [.csr, .evt, .jrn, .ports, .adm, .tt, .results, .map, .vnr, .chans, .cure, .tier, .conns, .ten])
    (h : Kept al s0 s) (e : Fin 8) (base : Nat) (c : Nat) (g : Seg) (k : Option Nat) : Kept al s0
    (atomStart s e base c g k) := by
  unfold atomStart
  repeat' first
    | exact hal.mono rfl | with_reducible assumption | with_reducible apply respPush_kept (hal.mono rfl)
    | with_reducible apply jobStart_kept (hal.mono rfl)
    | with_reducible apply nakSend_kept (hal.mono rfl) | with_reducible apply ev_kept (hal.mono rfl) | split | dsimp only

theorem tenAtom_kept
    (hal : Allow al [.csr, .evt, .jrn, .ports, .ntc, .adm, .tt, .results, .map, .vnr, .chans, .cure, .tier, .conns, .ten])
    (h : Kept al s0 s) (e : Fin 8) (row : TenRow) : Kept al s0 (tenAtom s e row) := by
  unfold tenAtom
  repeat' first
    | exact hal.mono rfl | with_reducible assumption | with_reducible apply takeReq8_kept (hal.mono rfl)
    | with_reducible apply atomStart_kept (hal.mono rfl) | intro _

theorem mirrorLines_kept
    (hal : Allow al [.csr, .evt, .jrn, .ports, .ntc, .adm, .tt, .results, .map, .vnr, .chans, .cure, .tier, .conns, .ten])
    (h : Kept al s0 s) (e : Fin 8) : Kept al s0 (mirrorLines s e) := by
  unfold mirrorLines
  repeat' first
    | exact hal.mono rfl | with_reducible assumption | with_reducible apply takeReq8_kept (hal.mono rfl)
    | with_reducible apply jobStart_kept (hal.mono rfl) | intro _

theorem mirrorMasked_kept
    (hal : Allow al [.csr, .evt, .jrn, .ports, .ntc, .adm, .tt, .results, .map, .vnr, .chans, .cure, .tier, .conns, .ten])
    (h : Kept al s0 s) (e : Fin 8) : Kept al s0 (mirrorMasked s e) := by
  unfold mirrorMasked
  repeat' first
    | exact hal.mono rfl | with_reducible assumption | with_reducible apply takeReq8_kept (hal.mono rfl)
    | with_reducible apply jobStart_kept (hal.mono rfl) | intro _

theorem mirrorPoison_kept
    (hal : Allow al [.csr, .evt, .jrn, .ports, .ntc, .adm, .tt, .results, .map, .vnr, .chans, .cure, .tier, .conns, .ten])
    (h : Kept al s0 s) (e : Fin 8) : Kept al s0 (mirrorPoison s e) := by
  unfold mirrorPoison
  repeat' first
    | exact hal.mono rfl | with_reducible assumption | with_reducible apply takeReq8_kept (hal.mono rfl)
    | with_reducible apply drawFree_kept
    | with_reducible apply jobStart_kept (hal.mono rfl) | intro _

theorem mirrorTrim_kept
    (hal : Allow al [.csr, .evt, .jrn, .ports, .ntc, .adm, .tt, .results, .map, .vnr, .chans, .cure, .tier, .conns, .ten])
    (h : Kept al s0 s) (e : Fin 8) : Kept al s0 (mirrorTrim s e) := by
  unfold mirrorTrim
  repeat' first
    | exact hal.mono rfl | with_reducible assumption | with_reducible apply takeReq8_kept (hal.mono rfl)
    | with_reducible apply jobStart_kept (hal.mono rfl) | intro _

theorem mirrorMark_kept
    (hal : Allow al [.csr, .evt, .jrn, .ports, .ntc, .adm, .tt, .results, .map, .vnr, .chans, .cure, .tier, .conns, .ten])
    (h : Kept al s0 s) (e : Fin 8) : Kept al s0 (mirrorMark s e) := by
  unfold mirrorMark
  repeat' first
    | exact hal.mono rfl | with_reducible assumption | with_reducible apply takeReq8_kept (hal.mono rfl)
    | with_reducible apply jobStart_kept (hal.mono rfl) | intro _

theorem mirrorMarked_kept
    (hal : Allow al [.csr, .evt, .jrn, .ports, .ntc, .adm, .tt, .results, .map, .vnr, .chans, .cure, .tier, .conns, .ten])
    (h : Kept al s0 s) (e : Fin 8) : Kept al s0 (mirrorMarked s e) := by
  unfold mirrorMarked
  repeat' first
    | exact hal.mono rfl | with_reducible assumption | with_reducible apply takeReq8_kept (hal.mono rfl)
    | with_reducible apply drawFree_kept
    | with_reducible apply jobStart_kept (hal.mono rfl) | intro _

theorem ringRead_kept (hal : Allow al [.ten]) (h : Kept al s0 s) (r : Fin 32) (far : List (Nat × LineData)) : Kept al s0
    (ringRead s r far) := by
  unfold ringRead
  try dsimp only
  repeat' first
    | exact hal.mono rfl
    | with_reducible assumption
    | with_reducible apply modTen_kept (hal.mono rfl)
    | intro _
    | with_reducible apply kept_ite
    | split
    | dsimp only

theorem ringPut_kept (hal : Allow al [.csr, .adm, .ten]) (h : Kept al s0 s) (r : Fin 32) (e : Fin 8) (j : Job) : Kept al
    s0 (ringPut s r e j) := by
  unfold ringPut
  try dsimp only
  repeat' first
    | exact hal.mono rfl
    | with_reducible assumption
    | with_reducible apply modJob_kept (hal.mono rfl)
    | with_reducible apply cntInc_kept (hal.mono rfl)
    | intro _
    | with_reducible apply kept_ite
    | split
    | simp only [keptAdm (hal.mono rfl)]
    | dsimp only

theorem noticePost_kept
    (hal : Allow al [.csr, .evt, .jrn, .ports, .ntc, .adm, .tt, .results, .map, .vnr, .chans, .cure, .tier, .conns, .ten])
    (h : Kept al s0 s) (r : Fin 32) (far : List (Nat × LineData)) : Kept al s0 (noticePost s r far) := by
  unfold noticePost
  try dsimp only
  repeat' first
    | exact hal.mono rfl
    | with_reducible assumption
    | with_reducible apply forEach_kept
    | with_reducible apply tenPump_kept (hal.mono rfl)
    | with_reducible apply modJob_kept (hal.mono rfl)
    | with_reducible apply nakSend_kept (hal.mono rfl)
    | with_reducible apply ringPut_kept (hal.mono rfl)
    | with_reducible apply ringRead_kept (hal.mono rfl)
    | with_reducible apply engineRead_kept (hal.mono rfl)
    | intro _
    | with_reducible apply kept_ite
    | split
    | dsimp only

theorem ringAWrite_kept (hal : Allow al [.csr, .ten]) (h : Kept al s0 s) (r : Fin 32) (v : Word64) : Kept al s0
    (ringAWrite s r v) := by
  unfold ringAWrite
  repeat' first
    | exact hal.mono rfl | with_reducible assumption | with_reducible apply setFld_kept (hal.mono rfl)
    | with_reducible apply setReg_kept (hal.mono rfl)
    | with_reducible apply modTen_kept (hal.mono rfl) | with_reducible apply kept_ite

theorem ackSend_kept
    (hal : Allow al [.csr, .evt, .jrn, .ports, .ntc, .adm, .tt, .results, .map, .vnr, .chans, .cure, .tier, .conns, .ten])
    (h : Kept al s0 s) (c : Nat) (late : Bool) : Kept al s0 (ackSend s c late) := by
  unfold ackSend
  repeat' first
    | exact hal.mono rfl | with_reducible assumption | with_reducible apply tenPump_kept (hal.mono rfl)
    | with_reducible apply modConn_kept (hal.mono rfl)
    | with_reducible apply ctlPush_kept (hal.mono rfl) | with_reducible apply kept_ite

theorem lendDeny_kept
    (hal : Allow al [.csr, .evt, .jrn, .ports, .adm, .tt, .results, .map, .vnr, .chans, .cure, .tier, .conns, .ten])
    (h : Kept al s0 s) (c : Nat) (h : SegHdr) : Kept al s0 (lendDeny s c h) := by
  unfold lendDeny
  repeat' first
    | exact hal.mono rfl | with_reducible assumption | with_reducible apply nakSend_kept (hal.mono rfl)
    | with_reducible apply evd_kept (hal.mono rfl)
    | with_reducible apply cntInc_kept (hal.mono rfl)

theorem takeLend_kept
    (hal : Allow al [.csr, .evt, .jrn, .ports, .ntc, .adm, .tt, .results, .map, .vnr, .chans, .cure, .tier, .conns, .ten])
    (h : Kept al s0 s) (e : Fin 8) (row : TenRow) (f : State → Nat → Seg → State)
    (h_f : ∀ (t : State) (a1 : Nat) (a2 : Seg), Kept al s0 t → Kept al s0 (f t a1 a2)) : Kept al s0 (takeLend s e row f) := by
  unfold takeLend
  try dsimp only
  repeat' first
    | exact hal.mono rfl
    | with_reducible assumption
    | with_reducible apply tenTurn_kept (hal.mono rfl)
    | with_reducible apply popSeg_kept (hal.mono rfl)
    | with_reducible apply h_f
    | intro _
    | with_reducible apply kept_ite
    | split
    | dsimp only

theorem lendAccess_kept
    (hal : Allow al [.csr, .evt, .jrn, .ports, .ntc, .adm, .tt, .results, .map, .vnr, .chans, .cure, .tier, .conns, .ten])
    (h : Kept al s0 s) (e : Fin 8) : Kept al s0 (lendAccess s e) := by
  unfold lendAccess
  try dsimp only
  repeat' first
    | exact hal.mono rfl
    | with_reducible assumption
    | with_reducible apply takeLend_kept (hal.mono rfl)
    | with_reducible apply nakSend_kept (hal.mono rfl)
    | with_reducible apply cntInc_kept (hal.mono rfl)
    | with_reducible apply jobStart_kept (hal.mono rfl)
    | with_reducible apply atomStart_kept (hal.mono rfl)
    | with_reducible apply lendDeny_kept (hal.mono rfl)
    | intro _
    | with_reducible apply kept_ite
    | split
    | dsimp only

theorem lendAlloc_kept
    (hal : Allow al [.csr, .evt, .jrn, .ports, .ntc, .adm, .tt, .results, .map, .vnr, .chans, .cure, .tier, .conns, .ten])
    (h : Kept al s0 s) (e : Fin 8) : Kept al s0 (lendAlloc s e) := by
  unfold lendAlloc
  try dsimp only
  repeat' first
    | exact hal.mono rfl
    | with_reducible assumption
    | with_reducible apply takeLend_kept (hal.mono rfl)
    | with_reducible apply nakSend_kept (hal.mono rfl)
    | with_reducible apply jobStart_kept (hal.mono rfl)
    | with_reducible apply lendDeny_kept (hal.mono rfl)
    | with_reducible apply apertureTaken_kept (hal.mono rfl)
    | with_reducible apply grantHeader_kept (hal.mono rfl)
    | with_reducible apply modGrant_kept (hal.mono rfl)
    | with_reducible apply respPush_kept (hal.mono rfl)
    | intro _
    | with_reducible apply kept_ite
    | split
    | dsimp only

theorem lendFree_kept
    (hal : Allow al [.csr, .evt, .jrn, .ports, .ntc, .adm, .tt, .results, .map, .vnr, .chans, .cure, .tier, .conns, .ten])
    (h : Kept al s0 s) (e : Fin 8) : Kept al s0 (lendFree s e) := by
  unfold lendFree
  try dsimp only
  repeat' first
    | exact hal.mono rfl
    | with_reducible assumption
    | with_reducible apply takeLend_kept (hal.mono rfl)
    | with_reducible apply lendDeny_kept (hal.mono rfl)
    | with_reducible apply nakSend_kept (hal.mono rfl)
    | with_reducible apply jobStart_kept (hal.mono rfl)
    | with_reducible apply apertureTaken_kept (hal.mono rfl)
    | with_reducible apply dasPut_kept (hal.mono rfl)
    | with_reducible apply grantHeader_kept (hal.mono rfl)
    | with_reducible apply modGrant_kept (hal.mono rfl)
    | intro _
    | with_reducible apply kept_ite
    | split
    | dsimp only

end Sys2Proof.Machine
end

