-- ==== Sys2Proof/Laws/KeptTenTx.lean ====
section
/-!
SUPPORT. What the operations of Machine/TenTx.lean keep.
-/
namespace Sys2Proof.Machine
set_option linter.all false
set_option Elab.async false
open Sys2Proof

variable {al : Part → Bool} {s0 s : State}

theorem txSend_kept (hal : Allow al [.csr, .ten]) (h : Kept al s0 s) (n : Fin 4) (cast : Bool) (d : Datagram) : Kept al s0
    (txSend s n cast d) := by
  unfold txSend
  repeat' first
    | exact hal.mono rfl | with_reducible assumption | with_reducible apply cntInc_kept (hal.mono rfl)
    | with_reducible apply modSeg_kept (hal.mono rfl)
    | with_reducible apply modTen_kept (hal.mono rfl)

theorem sendCtl_kept
    (hal : Allow al [.csr, .evt, .jrn, .ports, .adm, .tt, .results, .map, .vnr, .chans, .cure, .tier, .conns, .ten])
    (h : Kept al s0 s) (n : Fin 4) (e : Fin 8) (a : TxAns) : Kept al s0 (sendCtl s n e a) := by
  unfold sendCtl
  repeat' first
    | exact hal.mono rfl | with_reducible assumption | with_reducible apply modEng_kept (hal.mono rfl)
    | with_reducible apply txSend_kept (hal.mono rfl)
    | with_reducible apply cntInc_kept (hal.mono rfl) | with_reducible apply connError_kept (hal.mono rfl)
    | with_reducible apply evd_kept (hal.mono rfl)
    | with_reducible apply ctxTouch_kept (hal.mono rfl) | with_reducible apply modConn_kept (hal.mono rfl)
    | with_reducible apply doIf_kept | intro _
    | with_reducible apply kept_ite

theorem ackCarried_kept (hal : Allow al [.conns, .ten]) (h : Kept al s0 s) (c : Nat) : Kept al s0 (ackCarried s c) := by
  unfold ackCarried
  try dsimp only
  repeat' first
    | exact hal.mono rfl
    | with_reducible assumption
    | with_reducible apply ctxTouch_kept (hal.mono rfl)
    | with_reducible apply modConn_kept (hal.mono rfl)
    | intro _
    | with_reducible apply kept_ite
    | split
    | dsimp only

theorem sendRsp_kept (hal : Allow al [.csr, .conns, .ten]) (h : Kept al s0 s) (n : Fin 4) (e : Fin 8) (a : TxAns) : Kept
    al s0 (sendRsp s n e a) := by
  unfold sendRsp
  repeat' first
    | exact hal.mono rfl | with_reducible assumption | with_reducible apply modEng_kept (hal.mono rfl)
    | with_reducible apply txSend_kept (hal.mono rfl)
    | with_reducible apply ackCarried_kept (hal.mono rfl) | with_reducible apply kept_ite

theorem segPayload_kept (_hal : Allow al []) (h : Kept al s0 s) (g : OutSeg) : Kept al s0 (segPayload s g).2 := by
  unfold segPayload
  try dsimp only
  repeat' first | exact hal.mono rfl | with_reducible assumption | with_reducible apply drawFree_kept | split

theorem mirCount_kept (hal : Allow al [.csr]) (h : Kept al s0 s) (c : Nat) (g : OutSeg) : Kept al s0 (mirCount s c g) := by
  unfold mirCount
  repeat' first
    | exact hal.mono rfl | with_reducible assumption | with_reducible apply cntInc_kept (hal.mono rfl)
    | with_reducible apply cntAdd_kept (hal.mono rfl)
    | with_reducible apply kept_ite

theorem sendReq_kept (hal : Allow al [.csr, .conns, .ten]) (h : Kept al s0 s) (n : Fin 4) (c : Nat) (psn : BitVec 24)
    (wrap tries : Nat) (g : OutSeg) : Kept al s0 (sendReq s n c psn wrap tries g) := by
  unfold sendReq
  repeat' first
    | exact hal.mono rfl | with_reducible assumption | with_reducible apply segPayload_kept (hal.mono rfl)
    | with_reducible apply mirCount_kept (hal.mono rfl)
    | with_reducible apply drawFree_kept | with_reducible apply txSend_kept (hal.mono rfl)
    | with_reducible apply ackCarried_kept (hal.mono rfl)

theorem rebuild_kept (hal : Allow al [.csr, .evt, .jrn, .map, .chans]) (h : Kept al s0 s) (g : OutSeg)
    (far : List (Nat × LineData)) : Kept al s0 (rebuild s g far).2 := by
  unfold rebuild
  try dsimp only
  repeat' first
    | exact hal.mono rfl
    | with_reducible assumption
    | with_reducible apply forEach_kept
    | with_reducible apply engineRead_kept (hal.mono rfl)
    | with_reducible apply cntAdd_kept (hal.mono rfl)
    | with_reducible apply poisonSent_kept (hal.mono rfl)
    | intro _
    | with_reducible apply kept_ite
    | split
    | dsimp only

theorem sendRetx_kept (hal : Allow al [.csr, .evt, .jrn, .map, .chans, .conns, .ten]) (h : Kept al s0 s) (n : Fin 4)
    (c : Nat) (o : OutReq) (far : List (Nat × LineData)) : Kept al s0 (sendRetx s n c o far) := by
  unfold sendRetx
  repeat' first
    | exact hal.mono rfl | with_reducible assumption | with_reducible apply modConn_kept (hal.mono rfl)
    | with_reducible apply cntInc_kept (hal.mono rfl)
    | with_reducible apply rebuild_kept (hal.mono rfl) | with_reducible apply sendReq_kept (hal.mono rfl) | split

theorem sendNew_kept
    (hal : Allow al [.csr, .evt, .jrn, .ports, .adm, .tt, .results, .map, .vnr, .chans, .cure, .tier, .conns, .ten])
    (h : Kept al s0 s) (n : Fin 4) (c : Nat) (g : OutSeg) : Kept al s0 (sendNew s n c g) := by
  unfold sendNew
  repeat' first
    | exact hal.mono rfl | with_reducible assumption | with_reducible apply connError_kept (hal.mono rfl)
    | with_reducible apply evd_kept (hal.mono rfl)
    | with_reducible apply modCure_kept (hal.mono rfl) | with_reducible apply modConn_kept (hal.mono rfl)
    | with_reducible apply sendReq_kept (hal.mono rfl)
    | with_reducible apply kept_ite

theorem sendNext_kept
    (hal : Allow al [.csr, .evt, .jrn, .ports, .adm, .tt, .results, .map, .vnr, .chans, .cure, .tier, .conns, .ten])
    (h : Kept al s0 s) (n : Fin 4) (e : Fin 8) (c : Nat) (far : List (Nat × LineData)) : Kept al s0
    (sendNext s n e c far) := by
  unfold sendNext
  repeat' first
    | exact hal.mono rfl | with_reducible assumption | with_reducible apply modEng_kept (hal.mono rfl)
    | with_reducible apply sendRetx_kept (hal.mono rfl)
    | with_reducible apply stallNote_kept (hal.mono rfl) | with_reducible apply curePump_kept (hal.mono rfl)
    | with_reducible apply sendNew_kept (hal.mono rfl) | split
    | dsimp only

theorem engSend_kept
    (hal : Allow al [.csr, .evt, .jrn, .ports, .adm, .tt, .results, .map, .vnr, .chans, .cure, .tier, .conns, .ten])
    (h : Kept al s0 s) (n : Fin 4) (e : Fin 8) (cast : Bool) (far : List (Nat × LineData)) : KeptOpt al s0
    (engSend s n e cast far) := by
  unfold engSend
  repeat' first
    | exact hal.mono rfl | with_reducible assumption | with_reducible apply sendCtl_kept (hal.mono rfl)
    | with_reducible apply sendRsp_kept (hal.mono rfl)
    | with_reducible apply sendNext_kept (hal.mono rfl) | intro _ | split | dsimp only | exact KeptOpt.none _
    | with_reducible apply KeptOpt.some | with_reducible apply KeptOpt.map

theorem trySend_kept
    (hal : Allow al [.csr, .evt, .jrn, .ports, .adm, .tt, .results, .map, .vnr, .chans, .cure, .tier, .conns, .ten])
    (h : Kept al s0 s) (n : Fin 4) (cast : Bool) (far : List (Nat × LineData)) : KeptOpt al s0 (trySend s n cast far) := by
  unfold trySend
  repeat' first
    | exact hal.mono rfl | with_reducible assumption | with_reducible apply engSend_kept (hal.mono rfl)
    | with_reducible apply modSeg_kept (hal.mono rfl) | intro _
    | with_reducible apply KeptOpt.then | with_reducible apply KeptOpt.findSome

theorem txDatagram_kept
    (hal : Allow al [.csr, .evt, .jrn, .ports, .ntc, .adm, .tt, .results, .map, .vnr, .chans, .cure, .tier, .conns, .ten])
    (h : Kept al s0 s) (n : Fin 4) (far : List (Nat × LineData)) : Kept al s0 (txDatagram s n far) := by
  unfold txDatagram
  repeat' first
    | exact hal.mono rfl | with_reducible assumption | with_reducible apply forEach_kept
    | with_reducible apply tenPump_kept (hal.mono rfl)
    | with_reducible apply trySend_kept (hal.mono rfl) | intro _ | with_reducible apply kept_ite | split
    | exact KeptOpt.none _
    | with_reducible apply KeptOpt.getD | refine KeptOpt.get (by with_reducible assumption) ?_

end Sys2Proof.Machine
end

