-- ==== Sys2Proof/Laws/KeptConn.lean ====
section
/-!
SUPPORT. What the operations of Machine/Conn.lean keep.
-/
namespace Sys2Proof.Machine
set_option linter.all false
set_option Elab.async false
open Sys2Proof

variable {al : Part → Bool} {s0 s : State}

theorem connEnd_kept (hal : Allow al [.ten]) (h : Kept al s0 s) (res : BitVec 3) : Kept al s0 (connEnd s res) :=
    (keptTen (s := s) (hal.mono rfl)).2 h

theorem connRefuse_kept (hal : Allow al [.csr, .evt, .jrn, .ten]) (h : Kept al s0 s) (op : Nat) : Kept al s0
    (connRefuse s op) := by
  unfold connRefuse
  try dsimp only
  repeat' first
    | exact hal.mono rfl
    | with_reducible assumption
    | with_reducible apply connEnd_kept (hal.mono rfl)
    | with_reducible apply evd_kept (hal.mono rfl)
    | intro _
    | with_reducible apply kept_ite
    | split
    | dsimp only

theorem connCmd_kept (hal : Allow al [.csr, .ten]) (h : Kept al s0 s) (op : Nat) (f : State → Nat → State)
    (h_f : ∀ (t : State) (a1 : Nat), Kept al s0 t → Kept al s0 (f t a1)) : Kept al s0 (connCmd s op f) := by
  unfold connCmd
  repeat' first
    | exact hal.mono rfl | with_reducible assumption | with_reducible apply modTen_kept (hal.mono rfl)
    | with_reducible apply setFld_kept (hal.mono rfl)
    | with_reducible apply h_f | with_reducible apply kept_ite

theorem ctxPlace_kept (hal : Allow al [.csr, .evt, .jrn, .map, .chans, .ten]) (h : Kept al s0 s) (c : Nat) : KeptOpt al s0
    (ctxPlace s c) := by
  unfold ctxPlace
  try dsimp only
  repeat' first
    | exact hal.mono rfl
    | with_reducible assumption
    | with_reducible apply ctxRoom_kept (hal.mono rfl)
    | with_reducible apply ctxBack_kept (hal.mono rfl)
    | with_reducible apply apertureTaken_kept (hal.mono rfl)
    | intro _
    | with_reducible apply kept_ite
    | split
    | refine KeptOpt.get (by with_reducible assumption) (ctxRoom_kept (hal.mono rfl) ?_ ..)
    | exact KeptOpt.none _
    | with_reducible apply KeptOpt.some
    | with_reducible apply KeptOpt.getD
    | with_reducible apply KeptOpt.then
    | with_reducible apply KeptOpt.map
    | with_reducible apply KeptOpt.findSome
    | refine KeptOpt.get (by with_reducible assumption) ?_
    | dsimp only

theorem ctxPut_kept (hal : Allow al [.ten]) (h : Kept al s0 s) (c : Nat) (dirty : Bool) : Kept al s0 (ctxPut s c dirty) :=
    (keptTen (s := s) (hal.mono rfl)).2 h

theorem withCtx_kept
    (hal : Allow al [.csr, .evt, .jrn, .ports, .adm, .tt, .results, .map, .vnr, .chans, .cure, .tier, .conns, .ten])
    (h : Kept al s0 s) (c : Nat) (f : State → State) (h_f : ∀ (t : State), Kept al s0 t → Kept al s0 (f t)) : Kept al s0
    (withCtx s c f) := by
  unfold withCtx
  try dsimp only
  repeat' first
    | exact hal.mono rfl
    | with_reducible assumption
    | with_reducible apply ctxPlace_kept (hal.mono rfl)
    | with_reducible apply cntInc_kept (hal.mono rfl)
    | with_reducible apply apertureTaken_kept (hal.mono rfl)
    | with_reducible apply ctxPut_kept (hal.mono rfl)
    | with_reducible apply connEnd_kept (hal.mono rfl)
    | with_reducible apply loadFail_kept (hal.mono rfl)
    | with_reducible apply h_f
    | intro _
    | with_reducible apply kept_ite
    | split
    | refine KeptOpt.get (by with_reducible assumption) (ctxPlace_kept (hal.mono rfl) ?_ ..)
    | exact KeptOpt.none _
    | with_reducible apply KeptOpt.some
    | with_reducible apply KeptOpt.getD
    | with_reducible apply KeptOpt.then
    | with_reducible apply KeptOpt.map
    | with_reducible apply KeptOpt.findSome
    | refine KeptOpt.get (by with_reducible assumption) ?_
    | dsimp only

theorem connOpen_kept
    (hal : Allow al [.csr, .evt, .jrn, .ports, .adm, .tt, .results, .map, .chans, .cure, .tier, .conns, .ten])
    (h : Kept al s0 s) : Kept al s0 (connOpen s) := by
  unfold connOpen
  repeat' first
    | exact hal.mono rfl | with_reducible assumption | with_reducible apply connCmd_kept (hal.mono rfl)
    | with_reducible apply connRefuse_kept (hal.mono rfl)
    | with_reducible apply evd_kept (hal.mono rfl) | with_reducible apply cntInc_kept (hal.mono rfl)
    | with_reducible apply ctxWrite_kept (hal.mono rfl)
    | with_reducible apply ctxPut_kept (hal.mono rfl) | with_reducible apply modConn_kept (hal.mono rfl)
    | with_reducible apply connEnd_kept (hal.mono rfl)
    | with_reducible apply modTen_kept (hal.mono rfl) | with_reducible apply nbrOfConn_kept (hal.mono rfl)
    | with_reducible apply markPump_kept (hal.mono rfl) | intro _
    | with_reducible apply kept_ite | split
    | refine KeptOpt.get (by with_reducible assumption) (ctxPlace_kept (hal.mono rfl) ?_ ..)

theorem connClose_kept
    (hal : Allow al [.csr, .evt, .jrn, .ports, .adm, .tt, .results, .map, .vnr, .chans, .cure, .tier, .conns, .ten])
    (h : Kept al s0 s) : Kept al s0 (connClose s) := by
  unfold connClose
  repeat' first
    | exact hal.mono rfl | with_reducible assumption | with_reducible apply connCmd_kept (hal.mono rfl)
    | with_reducible apply connRefuse_kept (hal.mono rfl)
    | with_reducible apply closeTry_kept (hal.mono rfl) | with_reducible apply modTen_kept (hal.mono rfl)
    | with_reducible apply connEnd_kept (hal.mono rfl) | intro _
    | with_reducible apply kept_ite

theorem keyCmd_kept
    (hal : Allow al [.csr, .evt, .jrn, .ports, .adm, .tt, .results, .map, .vnr, .chans, .cure, .tier, .conns, .ten])
    (h : Kept al s0 s) (op : Nat) (can : State → Conn → Bool) (f : State → Nat → State)
    (h_f : ∀ (t : State) (a1 : Nat), Kept al s0 t → Kept al s0 (f t a1)) : Kept al s0 (keyCmd s op can f) := by
  unfold keyCmd
  repeat' first
    | exact hal.mono rfl | with_reducible assumption | with_reducible apply connCmd_kept (hal.mono rfl)
    | with_reducible apply connRefuse_kept (hal.mono rfl)
    | with_reducible apply withCtx_kept (hal.mono rfl) | with_reducible apply connEnd_kept (hal.mono rfl)
    | with_reducible apply ctxTouch_kept (hal.mono rfl)
    | with_reducible apply h_f | intro _ | with_reducible apply kept_ite

theorem keyInstall_kept
    (hal : Allow al [.csr, .evt, .jrn, .ports, .adm, .tt, .results, .map, .vnr, .chans, .cure, .tier, .conns, .ten])
    (h : Kept al s0 s) : Kept al s0 (keyInstall s) := by
  unfold keyInstall
  try dsimp only
  repeat' first
    | exact hal.mono rfl
    | with_reducible assumption
    | with_reducible apply keyCmd_kept (hal.mono rfl)
    | with_reducible apply modConn_kept (hal.mono rfl)
    | intro _
    | with_reducible apply kept_ite
    | split
    | dsimp only

theorem keySwitch_kept
    (hal : Allow al [.csr, .evt, .jrn, .ports, .adm, .tt, .results, .map, .vnr, .chans, .cure, .tier, .conns, .ten])
    (h : Kept al s0 s) : Kept al s0 (keySwitch s) := by
  unfold keySwitch
  repeat' first
    | exact hal.mono rfl | with_reducible assumption | with_reducible apply keyCmd_kept (hal.mono rfl)
    | with_reducible apply modConn_kept (hal.mono rfl)
    | with_reducible apply evd_kept (hal.mono rfl) | intro _

theorem keyRetire_kept
    (hal : Allow al [.csr, .evt, .jrn, .ports, .adm, .tt, .results, .map, .vnr, .chans, .cure, .tier, .conns, .ten])
    (h : Kept al s0 s) : Kept al s0 (keyRetire s) := by
  unfold keyRetire
  try dsimp only
  repeat' first
    | exact hal.mono rfl
    | with_reducible assumption
    | with_reducible apply keyCmd_kept (hal.mono rfl)
    | with_reducible apply modConn_kept (hal.mono rfl)
    | intro _
    | with_reducible apply kept_ite
    | split
    | dsimp only

theorem connErrCmd_kept
    (hal : Allow al [.csr, .evt, .jrn, .ports, .adm, .tt, .results, .map, .vnr, .chans, .cure, .tier, .conns, .ten])
    (h : Kept al s0 s) : Kept al s0 (connErrCmd s) := by
  unfold connErrCmd
  repeat' first
    | exact hal.mono rfl | with_reducible assumption | with_reducible apply connCmd_kept (hal.mono rfl)
    | with_reducible apply withCtx_kept (hal.mono rfl)
    | with_reducible apply connEnd_kept (hal.mono rfl) | with_reducible apply connError_kept (hal.mono rfl)
    | with_reducible apply connRefuse_kept (hal.mono rfl)
    | intro _ | with_reducible apply kept_ite

theorem connQuery_kept
    (hal : Allow al [.csr, .evt, .jrn, .ports, .adm, .tt, .results, .map, .vnr, .chans, .cure, .tier, .conns, .ten])
    (h : Kept al s0 s) : Kept al s0 (connQuery s) := by
  unfold connQuery
  try dsimp only
  repeat' first
    | exact hal.mono rfl
    | with_reducible assumption
    | with_reducible apply connCmd_kept (hal.mono rfl)
    | with_reducible apply connEnd_kept (hal.mono rfl)
    | with_reducible apply modTen_kept (hal.mono rfl)
    | with_reducible apply apertureTaken_kept (hal.mono rfl)
    | with_reducible apply loadFail_kept (hal.mono rfl)
    | intro _
    | with_reducible apply kept_ite
    | split
    | dsimp only

theorem rkeyEnd_kept (hal : Allow al [.ten]) (h : Kept al s0 s) (res : BitVec 2) : Kept al s0 (rkeyEnd s res) :=
    (keptTen (s := s) (hal.mono rfl)).2 h

theorem rkeyRefuse_kept (hal : Allow al [.csr, .evt, .jrn, .ten]) (h : Kept al s0 s) (op : Nat) : Kept al s0
    (rkeyRefuse s op) := by
  unfold rkeyRefuse
  try dsimp only
  repeat' first
    | exact hal.mono rfl
    | with_reducible assumption
    | with_reducible apply rkeyEnd_kept (hal.mono rfl)
    | with_reducible apply evd_kept (hal.mono rfl)
    | intro _
    | with_reducible apply kept_ite
    | split
    | dsimp only

theorem rkeyCmd_kept (hal : Allow al [.csr]) (h : Kept al s0 s) (op : Nat) (f : State → Nat → State)
    (h_f : ∀ (t : State) (a1 : Nat), Kept al s0 t → Kept al s0 (f t a1)) : Kept al s0 (rkeyCmd s op f) := by
  unfold rkeyCmd
  try dsimp only
  repeat' first
    | exact hal.mono rfl
    | with_reducible assumption
    | with_reducible apply setFld_kept (hal.mono rfl)
    | with_reducible apply h_f
    | intro _
    | with_reducible apply kept_ite
    | split
    | dsimp only

theorem rkeyPut_kept (hal : Allow al [.csr, .map, .chans, .ten]) (h : Kept al s0 s) (i : Nat) (k : Rkey) : Kept al s0
    (rkeyPut s i k) := by
  unfold rkeyPut
  try dsimp only
  repeat' first
    | exact hal.mono rfl
    | with_reducible assumption
    | with_reducible apply dasPut_kept (hal.mono rfl)
    | with_reducible apply modTen_kept (hal.mono rfl)
    | intro _
    | with_reducible apply kept_ite
    | split
    | dsimp only

theorem rkeyCreate_kept (hal : Allow al [.csr, .evt, .jrn, .map, .chans, .ten]) (h : Kept al s0 s) : Kept al s0
    (rkeyCreate s) := by
  unfold rkeyCreate
  repeat' first
    | exact hal.mono rfl | with_reducible assumption | with_reducible apply rkeyCmd_kept (hal.mono rfl)
    | with_reducible apply rkeyRefuse_kept (hal.mono rfl)
    | with_reducible apply rkeyEnd_kept (hal.mono rfl) | with_reducible apply modTen_kept (hal.mono rfl)
    | with_reducible apply rkeyPut_kept (hal.mono rfl) | intro _
    | with_reducible apply kept_ite | split

theorem revokeEnd_kept (hal : Allow al [.csr, .evt, .jrn, .map, .chans, .ten]) (h : Kept al s0 s) (i : Nat) : Kept al s0
    (revokeEnd s i) := by
  unfold revokeEnd
  repeat' first
    | exact hal.mono rfl | with_reducible assumption | with_reducible apply rkeyPut_kept (hal.mono rfl)
    | with_reducible apply evd_kept (hal.mono rfl)
    | with_reducible apply modTen_kept (hal.mono rfl) | with_reducible apply kept_ite

theorem regionRevoked_kept
    (hal : Allow al [.csr, .evt, .jrn, .ports, .ntc, .adm, .tt, .results, .map, .vnr, .chans, .cure, .tier, .conns, .ten])
    (h : Kept al s0 s) : Kept al s0 (regionRevoked s) := by
  unfold regionRevoked
  repeat' first
    | exact hal.mono rfl | with_reducible assumption | with_reducible apply forEach_kept
    | with_reducible apply tenPump_kept (hal.mono rfl)
    | with_reducible apply revokeEnd_kept (hal.mono rfl) | intro _

theorem rkeyRevoke_kept (hal : Allow al [.csr, .evt, .jrn, .map, .chans, .ten]) (h : Kept al s0 s) : Kept al s0
    (rkeyRevoke s) := by
  unfold rkeyRevoke
  repeat' first
    | exact hal.mono rfl | with_reducible assumption | with_reducible apply rkeyCmd_kept (hal.mono rfl)
    | with_reducible apply rkeyRefuse_kept (hal.mono rfl)
    | with_reducible apply rkeyPut_kept (hal.mono rfl) | with_reducible apply modTen_kept (hal.mono rfl)
    | with_reducible apply rkeyEnd_kept (hal.mono rfl) | intro _
    | split

theorem rkeyQuery_kept (hal : Allow al [.csr, .evt, .jrn, .ten]) (h : Kept al s0 s) : Kept al s0 (rkeyQuery s) := by
  unfold rkeyQuery
  repeat' first
    | exact hal.mono rfl | with_reducible assumption | with_reducible apply rkeyCmd_kept (hal.mono rfl)
    | with_reducible apply rkeyRefuse_kept (hal.mono rfl)
    | with_reducible apply rkeyEnd_kept (hal.mono rfl) | with_reducible apply modTen_kept (hal.mono rfl) | intro _ | split

end Sys2Proof.Machine
end

