-- ==== Sys2Proof/Laws/KeptDrain.lean ====
section
/-!
SUPPORT. What the operations of Machine/Drain.lean keep.
-/
namespace Sys2Proof.Machine
set_option linter.all false
set_option Elab.async false
open Sys2Proof

variable {al : Part → Bool} {s0 s : State}

theorem modPwr_kept (hal : Allow al [.pwr]) (h : Kept al s0 s) (f : PwrSt → PwrSt) : Kept al s0 (modPwr s f) :=
    (keptPwr (s := s) (hal.mono rfl)).2 h

theorem recLine_kept (hal : Allow al [.csr, .map, .dram]) (h : Kept al s0 s) (das : Nat) (d : LineData) : Kept al s0
    (recLine s das d) := by
  unfold recLine
  repeat' first
    | exact hal.mono rfl | with_reducible assumption | with_reducible apply cntInc_kept (hal.mono rfl)
    | with_reducible apply memWrite_kept (hal.mono rfl)
    | with_reducible apply kept_ite

theorem recLines_kept (hal : Allow al [.csr, .map, .dram]) (h : Kept al s0 s) (base lo hi : Nat) (w : Nat → Word64) : Kept
    al s0 (recLines s base lo hi w) := by
  unfold recLines
  try dsimp only
  repeat' first
    | exact hal.mono rfl
    | with_reducible assumption
    | with_reducible apply forEach_kept
    | with_reducible apply recLine_kept (hal.mono rfl)
    | with_reducible apply foldl_kept
    | with_reducible apply foldl_kept_fst
    | with_reducible apply foldl_kept_snd
    | intro _
    | with_reducible apply kept_ite
    | split
    | dsimp only

theorem fillRecord_kept (hal : Allow al [.csr, .map, .dram]) (h : Kept al s0 s) : Kept al s0 (fillRecord s) := by
  unfold fillRecord
  repeat' first | exact hal.mono rfl | with_reducible assumption | with_reducible apply recLines_kept (hal.mono rfl)

theorem inlayImage_kept (hal : Allow al [.csr, .map, .dram]) (h : Kept al s0 s) : Kept al s0 (inlayImage s) := by
  unfold inlayImage
  repeat' first | exact hal.mono rfl | with_reducible assumption | with_reducible apply recLines_kept (hal.mono rfl)

theorem cureRecord_kept (hal : Allow al [.csr, .map, .dram]) (h : Kept al s0 s) : Kept al s0 (cureRecord s) := by
  unfold cureRecord
  repeat' first | exact hal.mono rfl | with_reducible assumption | with_reducible apply recLines_kept (hal.mono rfl)

theorem sealClear_kept (hal : Allow al [.csr, .map, .dram]) (h : Kept al s0 s) : Kept al s0 (sealClear s) := by
  unfold sealClear
  try dsimp only
  repeat' first
    | exact hal.mono rfl
    | with_reducible assumption
    | with_reducible apply recLine_kept (hal.mono rfl)
    | intro _
    | with_reducible apply kept_ite
    | split
    | exact KeptOpt.none _
    | with_reducible apply KeptOpt.some
    | with_reducible apply KeptOpt.getD
    | with_reducible apply KeptOpt.then
    | with_reducible apply KeptOpt.map
    | with_reducible apply KeptOpt.findSome
    | refine KeptOpt.get (by with_reducible assumption) ?_
    | dsimp only

theorem portsPower_kept (hal : Allow al [.csr, .evt, .jrn, .ports, .adm, .results, .map, .chans]) (h : Kept al s0 s) :
    Kept al s0 (portsPower s) := by
  unfold portsPower
  repeat' first
    | exact hal.mono rfl | with_reducible assumption | with_reducible apply forEach_kept
    | with_reducible apply modPort_kept (hal.mono rfl)
    | with_reducible apply portDone_kept (hal.mono rfl) | with_reducible apply powerRefuse_kept (hal.mono rfl)
    | with_reducible apply modLock_kept (hal.mono rfl)
    | intro _ | with_reducible apply kept_ite | simp only [keptAdm (hal.mono rfl)]

theorem trainStop_kept (hal : Allow al [.csr, .evt, .jrn, .chans, .dram]) (h : Kept al s0 s) (c : Fin 16) : Kept al s0
    (trainStop s c) := by
  unfold trainStop
  try dsimp only
  repeat' first
    | exact hal.mono rfl
    | with_reducible assumption
    | with_reducible apply drawFree_kept
    | with_reducible apply doIf_kept
    | with_reducible apply loseDram_kept (hal.mono rfl)
    | with_reducible apply trainSteps_kept (hal.mono rfl)
    | with_reducible apply trainFail_kept (hal.mono rfl)
    | with_reducible apply fenceIfInService_kept (hal.mono rfl)
    | intro _
    | with_reducible apply kept_ite
    | split
    | refine kept_snd (by with_reducible assumption) (drawFree_kept ?_ ..)
    | dsimp only

theorem pfailChans_kept (hal : Allow al [.csr, .evt, .jrn, .chans, .devEnd, .dram]) (h : Kept al s0 s) : Kept al s0
    (pfailChans s) := by
  unfold pfailChans
  try dsimp only
  repeat' first
    | exact hal.mono rfl
    | with_reducible assumption
    | with_reducible apply devForget_kept (hal.mono rfl)
    | with_reducible apply forEach_kept
    | with_reducible apply probeAbort_kept (hal.mono rfl)
    | with_reducible apply trainStop_kept (hal.mono rfl)
    | with_reducible apply holdAbort_kept (hal.mono rfl)
    | intro _
    | with_reducible apply kept_ite
    | split
    | dsimp only

theorem chanPower_kept (hal : Allow al [.csr, .evt, .jrn, .chans]) (h : Kept al s0 s) (c : Fin 16) : Kept al s0
    (chanPower s c) := by
  unfold chanPower
  repeat' first
    | exact hal.mono rfl | with_reducible assumption | with_reducible apply trainStop_kept (hal.mono rfl)
    | with_reducible apply holdAbort_kept (hal.mono rfl)
    | with_reducible apply probeAbort_kept (hal.mono rfl) | with_reducible apply modCode_kept (hal.mono rfl)
    | with_reducible apply modSch_kept (hal.mono rfl)
    | with_reducible apply glueClose_kept (hal.mono rfl)

theorem pwrArm_kept (hal : Allow al [.ports]) (h : Kept al s0 s) : Kept al s0 (pwrArm s) := by
  unfold pwrArm
  try dsimp only
  repeat' first
    | exact hal.mono rfl
    | with_reducible assumption
    | with_reducible apply forEach_kept
    | with_reducible apply modPort_kept (hal.mono rfl)
    | intro _
    | with_reducible apply kept_ite
    | split
    | dsimp only

theorem tierPower_kept (hal : Allow al [.csr, .evt, .jrn, .ports, .adm, .tt, .results, .map, .vnr, .chans, .cure, .tier])
    (h : Kept al s0 s) : Kept al s0 (tierPower s) := by
  unfold tierPower
  repeat' first
    | exact hal.mono rfl | with_reducible assumption | with_reducible apply forEach_kept
    | with_reducible apply abandon_kept (hal.mono rfl)
    | with_reducible apply jigEnd_kept (hal.mono rfl) | with_reducible apply modTier_kept (hal.mono rfl)
    | with_reducible apply modCure_kept (hal.mono rfl) | intro _
    | with_reducible apply kept_ite

theorem drainBegin_kept
    (hal : Allow al [.csr, .evt, .jrn, .ports, .ntc, .adm, .tt, .results, .map, .vnr, .chans, .cure, .tier, .conns, .ten, .pwr, .dram]) (h : Kept al s0 s) (asked : Bool) : Kept al s0 (drainBegin s asked) := by
  unfold drainBegin
  repeat' first
    | exact hal.mono rfl | with_reducible assumption | with_reducible apply modCure_kept (hal.mono rfl)
    | with_reducible apply modPwr_kept (hal.mono rfl)
    | with_reducible apply sealClear_kept (hal.mono rfl) | with_reducible apply tierPower_kept (hal.mono rfl)
    | with_reducible apply portsPower_kept (hal.mono rfl)
    | with_reducible apply forEach_kept | with_reducible apply chanPower_kept (hal.mono rfl)
    | with_reducible apply panelPump_kept (hal.mono rfl)
    | with_reducible apply tenPump_kept (hal.mono rfl) | with_reducible apply vnrClean_kept (hal.mono rfl) | intro _ | split
    | simp only [keptVnr (hal.mono rfl)]

theorem pfailLow_kept
    (hal : Allow al [.csr, .evt, .jrn, .ports, .ntc, .adm, .tt, .results, .map, .vnr, .chans, .devEnd, .cure, .tier, .conns, .ten, .pwr, .dram]) (h : Kept al s0 s) : Kept al s0 (pfailLow s) := by
  unfold pfailLow
  try dsimp only
  repeat' first
    | exact hal.mono rfl
    | with_reducible assumption
    | with_reducible apply cntInc_kept (hal.mono rfl)
    | with_reducible apply modPwr_kept (hal.mono rfl)
    | with_reducible apply pwrArm_kept (hal.mono rfl)
    | with_reducible apply pfailChans_kept (hal.mono rfl)
    | with_reducible apply drainBegin_kept (hal.mono rfl)
    | with_reducible apply ev_kept (hal.mono rfl)
    | intro _
    | with_reducible apply kept_ite
    | split
    | dsimp only

theorem cureWaitEnd_kept (hal : Allow al [.pwr]) (h : Kept al s0 s) (late : Bool) : Kept al s0 (cureWaitEnd s late) := by
  unfold cureWaitEnd
  try dsimp only
  repeat' first
    | exact hal.mono rfl
    | with_reducible assumption
    | with_reducible apply modPwr_kept (hal.mono rfl)
    | intro _
    | with_reducible apply kept_ite
    | split
    | dsimp only

theorem drainRecords_kept (hal : Allow al [.csr, .map, .vnr, .cure, .pwr, .dram]) (h : Kept al s0 s) : Kept al s0
    (drainRecords s) := by
  unfold drainRecords
  repeat' first
    | exact hal.mono rfl | with_reducible assumption | with_reducible apply vnrClean_kept (hal.mono rfl)
    | with_reducible apply modPwr_kept (hal.mono rfl)
    | with_reducible apply inlayImage_kept (hal.mono rfl) | with_reducible apply fillRecord_kept (hal.mono rfl)
    | with_reducible apply cureRecord_kept (hal.mono rfl)
    | with_reducible apply modCure_kept (hal.mono rfl) | with_reducible apply kept_ite

theorem drainHand_kept (hal : Allow al [.chans]) (h : Kept al s0 s) (c : Fin 16) : Kept al s0 (drainHand s c) := by
  unfold drainHand
  repeat' first
    | exact hal.mono rfl | with_reducible assumption | with_reducible apply modSch_kept (hal.mono rfl)
    | with_reducible apply handoverSteps_kept (hal.mono rfl)
    | with_reducible apply kept_ite

theorem pwrSet_kept (hal : Allow al [.csr, .evt, .jrn, .pwr]) (h : Kept al s0 s) (x : PwrState) : Kept al s0
    (pwrSet s x) := by
  unfold pwrSet
  repeat' first
    | exact hal.mono rfl | with_reducible assumption | with_reducible apply evd_kept (hal.mono rfl)
    | with_reducible apply cntInc_kept (hal.mono rfl)
    | with_reducible apply modPwr_kept (hal.mono rfl) | with_reducible apply kept_ite

theorem drainLog_kept (hal : Allow al [.csr]) (h : Kept al s0 s) : Kept al s0 (drainLog s) := by
  unfold drainLog
  repeat' first | exact hal.mono rfl | with_reducible assumption | with_reducible apply setReg_kept (hal.mono rfl)

theorem drainComplete_kept
    (hal : Allow al [.csr, .evt, .jrn, .ports, .adm, .tt, .results, .chans, .cure, .conns, .ten, .pwr]) (h : Kept al s0 s)
    : Kept al s0 (drainComplete s) := by
  unfold drainComplete
  repeat' first
    | exact hal.mono rfl | with_reducible assumption | with_reducible apply forEach_kept
    | with_reducible apply drainHand_kept (hal.mono rfl)
    | with_reducible apply drainLog_kept (hal.mono rfl) | with_reducible apply ev_kept (hal.mono rfl)
    | with_reducible apply modCure_kept (hal.mono rfl)
    | with_reducible apply portQuiesce_kept (hal.mono rfl) | with_reducible apply segTry_kept (hal.mono rfl)
    | with_reducible apply pwrSet_kept (hal.mono rfl) | intro _
    | with_reducible apply kept_ite

theorem pfailReturn_kept (hal : Allow al [.csr, .evt, .jrn, .pwr]) (h : Kept al s0 s) : Kept al s0 (pfailReturn s) := by
  unfold pfailReturn
  repeat' first
    | exact hal.mono rfl | with_reducible assumption | with_reducible apply modPwr_kept (hal.mono rfl)
    | with_reducible apply ev_kept (hal.mono rfl)
    | with_reducible apply kept_ite

theorem stateCmd_kept
    (hal : Allow al [.csr, .evt, .jrn, .ports, .ntc, .adm, .tt, .results, .map, .vnr, .chans, .cure, .tier, .conns, .ten, .pwr, .dram]) (h : Kept al s0 s) (x : PwrState) : Kept al s0 (stateCmd s x) := by
  unfold stateCmd
  repeat' first
    | exact hal.mono rfl | with_reducible assumption | with_reducible apply setFld_kept (hal.mono rfl)
    | with_reducible apply evd_kept (hal.mono rfl)
    | with_reducible apply modPwr_kept (hal.mono rfl) | with_reducible apply drainBegin_kept (hal.mono rfl)
    | with_reducible apply pwrSet_kept (hal.mono rfl)
    | with_reducible apply kept_ite

end Sys2Proof.Machine
end

