-- ==== Sys2Proof/Laws/KeptJournal.lean ====
section
/-!
SUPPORT. What the operations of Machine/Journal.lean keep.
-/
namespace Sys2Proof.Machine
set_option linter.all false
set_option Elab.async false
open Sys2Proof

variable {al : Part → Bool} {s0 s : State}

theorem journalRecord_kept (hal : Allow al [.jrn]) (h : Kept al s0 s) : Kept al s0 (journalRecord s) := by
  unfold journalRecord
  repeat' first | exact hal.mono rfl | with_reducible assumption | split | simp only [keptJrn (hal.mono rfl)]

theorem makeRoom_kept (hal : Allow al [.csr, .jrn]) (h : Kept al s0 s) : Kept al s0 (makeRoom s) := by
  unfold makeRoom
  try dsimp only
  repeat' first
    | exact hal.mono rfl
    | with_reducible assumption
    | with_reducible apply cntInc_kept (hal.mono rfl)
    | intro _
    | with_reducible apply kept_ite
    | split
    | simp only [keptJrn (hal.mono rfl)]
    | dsimp only

theorem putWord_kept (hal : Allow al [.jrn]) (h : Kept al s0 s) (slot : Nat) (w : BitVec 128) : Kept al s0
    (putWord s slot w) := (keptJrn (s := s) (hal.mono rfl)).2 h

theorem packRecord_kept (hal : Allow al [.csr, .jrn]) (h : Kept al s0 s) (w : Word32) : Kept al s0 (packRecord s w) := by
  unfold packRecord
  repeat' first
    | exact hal.mono rfl | with_reducible assumption | with_reducible apply makeRoom_kept (hal.mono rfl)
    | with_reducible apply putWord_kept (hal.mono rfl) | split
    | simp only [keptJrn (hal.mono rfl)]

theorem closePkt_kept (hal : Allow al [.csr, .jrn]) (h : Kept al s0 s) (cause : CloseCause) : Kept al s0
    (closePkt s cause) := by
  unfold closePkt
  repeat' first
    | exact hal.mono rfl | with_reducible assumption | with_reducible apply makeRoom_kept (hal.mono rfl)
    | with_reducible apply putWord_kept (hal.mono rfl)
    | with_reducible apply cntInc_kept (hal.mono rfl) | split | simp only [keptJrn (hal.mono rfl)]

theorem openPkt_kept (hal : Allow al [.csr, .jrn]) (h : Kept al s0 s) (b : Word64) : Kept al s0 (openPkt s b) := by
  unfold openPkt
  repeat' first
    | exact hal.mono rfl | with_reducible assumption | with_reducible apply makeRoom_kept (hal.mono rfl)
    | with_reducible apply forEach_kept
    | with_reducible apply packRecord_kept (hal.mono rfl) | intro _ | simp only [keptJrn (hal.mono rfl)]

theorem startEvt_kept (hal : Allow al [.csr, .jrn]) (h : Kept al s0 s) (e : JrnEvt) : Kept al s0 (startEvt s e) := by
  unfold startEvt
  repeat' first
    | exact hal.mono rfl | with_reducible assumption | with_reducible apply closePkt_kept (hal.mono rfl)
    | with_reducible apply openPkt_kept (hal.mono rfl)
    | with_reducible apply forEach_kept | with_reducible apply packRecord_kept (hal.mono rfl) | intro _ | split
    | simp only [keptJrn (hal.mono rfl)]

theorem packOne_kept (hal : Allow al [.csr, .jrn]) (h : Kept al s0 s) : Kept al s0 (packOne s) := by
  unfold packOne
  repeat' first
    | exact hal.mono rfl | with_reducible assumption | with_reducible apply startEvt_kept (hal.mono rfl)
    | with_reducible apply packRecord_kept (hal.mono rfl)
    | with_reducible apply closePkt_kept (hal.mono rfl) | split | simp only [keptJrn (hal.mono rfl)]

theorem closeFor_kept (hal : Allow al [.csr, .jrn]) (h : Kept al s0 s) (cause : CloseCause) : Kept al s0
    (closeFor s cause) := by
  unfold closeFor
  try dsimp only
  repeat' first
    | exact hal.mono rfl
    | with_reducible assumption
    | with_reducible apply closePkt_kept (hal.mono rfl)
    | intro _
    | with_reducible apply kept_ite
    | split
    | simp only [keptJrn (hal.mono rfl)]
    | exact KeptOpt.none _
    | with_reducible apply KeptOpt.some
    | with_reducible apply KeptOpt.getD
    | with_reducible apply KeptOpt.then
    | with_reducible apply KeptOpt.map
    | with_reducible apply KeptOpt.findSome
    | refine KeptOpt.get (by with_reducible assumption) ?_
    | dsimp only

theorem packetCloseTime_kept (hal : Allow al [.csr, .jrn]) (h : Kept al s0 s) : Kept al s0 (packetCloseTime s) := by
  unfold packetCloseTime
  try dsimp only
  repeat' first
    | exact hal.mono rfl
    | with_reducible assumption
    | with_reducible apply closeFor_kept (hal.mono rfl)
    | intro _
    | with_reducible apply kept_ite
    | split
    | dsimp only

theorem jrnFlush_kept (hal : Allow al [.csr, .jrn]) (h : Kept al s0 s) : Kept al s0 (jrnFlush s) := by
  unfold jrnFlush
  repeat' first | exact hal.mono rfl | with_reducible assumption | with_reducible apply closeFor_kept (hal.mono rfl)

theorem jrnClear_kept (hal : Allow al [.jrn]) (h : Kept al s0 s) : Kept al s0 (jrnClear s) :=
    (keptJrn (s := s) (hal.mono rfl)).2 h

theorem jrnPop_kept (hal : Allow al [.csr, .jrn]) (h : Kept al s0 s) (bad : Nat) : Kept al s0 (jrnPop s bad) := by
  unfold jrnPop
  repeat' first
    | exact hal.mono rfl | with_reducible assumption | with_reducible apply doIf_kept
    | with_reducible apply cntInc_kept (hal.mono rfl)
    | with_reducible apply drawFree_kept | intro _ | split | simp only [keptJrn (hal.mono rfl)]

end Sys2Proof.Machine
end

