-- ==== Sys2Proof/Laws/KeptBoot.lean ====
section
/-!
SUPPORT. What the operations of Machine/Boot.lean keep.
-/
namespace Sys2Proof.Machine
set_option linter.all false
set_option Elab.async false
open Sys2Proof

variable {al : Part → Bool} {s0 s : State}

theorem modArm_kept (hal : Allow al [.arm]) (h : Kept al s0 s) (f : ArmSt → ArmSt) : Kept al s0 (modArm s f) :=
    (keptArm (s := s) (hal.mono rfl)).2 h

theorem modFw_kept (hal : Allow al [.fw]) (h : Kept al s0 s) (f : FwSt → FwSt) : Kept al s0 (modFw s f) :=
    (keptFw (s := s) (hal.mono rfl)).2 h

theorem armHalt_kept (hal : Allow al [.csr, .evt, .jrn, .ports, .adm, .chans, .arm]) (h : Kept al s0 s) (m : ArmMode) :
    Kept al s0 (armHalt s m) := by
  unfold armHalt
  repeat' first
    | exact hal.mono rfl | with_reducible assumption | with_reducible apply maskNote_kept (hal.mono rfl)
    | with_reducible apply withdrawAll_kept (hal.mono rfl)
    | with_reducible apply modArm_kept (hal.mono rfl)

theorem fwHalt_kept (hal : Allow al [.csr, .evt, .jrn, .ports, .adm, .chans, .arm]) (h : Kept al s0 s) (code : Word32) :
    Kept al s0 (fwHalt s code) := by
  unfold fwHalt
  repeat' first
    | exact hal.mono rfl | with_reducible assumption | with_reducible apply armHalt_kept (hal.mono rfl)
    | with_reducible apply evd_kept (hal.mono rfl)
    | with_reducible apply kept_ite

theorem confWrite_kept (hal : Allow al [.csr, .map, .dram]) (h : Kept al s0 s) : Kept al s0 (confWrite s) := by
  unfold confWrite
  try dsimp only
  repeat' first
    | exact hal.mono rfl
    | with_reducible assumption
    | with_reducible apply recLines_kept (hal.mono rfl)
    | intro _
    | with_reducible apply kept_ite
    | split
    | dsimp only

theorem confLoad_kept (hal : Allow al [.csr, .tier, .fw]) (h : Kept al s0 s) (ls : List LineData) : Kept al s0
    (confLoad s ls) := by
  unfold confLoad
  repeat' first
    | exact hal.mono rfl | with_reducible assumption | with_reducible apply setReg_kept (hal.mono rfl)
    | with_reducible apply setFld_kept (hal.mono rfl)
    | with_reducible apply modFw_kept (hal.mono rfl) | with_reducible apply forEach_kept
    | with_reducible apply grantReload_kept (hal.mono rfl)
    | with_reducible apply modGrant_kept (hal.mono rfl) | with_reducible apply foldl_kept | intro _
    | with_reducible apply kept_ite

theorem useCount_kept (hal : Allow al [.tier]) (h : Kept al s0 s) : Kept al s0 (useCount s) := by
  unfold useCount
  try dsimp only
  repeat' first
    | exact hal.mono rfl
    | with_reducible assumption
    | with_reducible apply forEach_kept
    | with_reducible apply modNbr_kept (hal.mono rfl)
    | intro _
    | with_reducible apply kept_ite
    | split
    | dsimp only

theorem pprRecords_kept (hal : Allow al [.csr, .map, .dram]) (h : Kept al s0 s) : Kept al s0 (pprRecords s) := by
  unfold pprRecords
  try dsimp only
  repeat' first
    | exact hal.mono rfl
    | with_reducible assumption
    | with_reducible apply recLines_kept (hal.mono rfl)
    | intro _
    | with_reducible apply kept_ite
    | split
    | dsimp only

theorem pprNote_kept (hal : Allow al [.csr, .map, .chans, .fw, .dram]) (h : Kept al s0 s) (c : Fin 16) (e : PprEnd) : Kept
    al s0 (pprNote s c e) := by
  unfold pprNote
  repeat' first
    | exact hal.mono rfl | with_reducible assumption | with_reducible apply pprDone_kept (hal.mono rfl)
    | with_reducible apply pprRecords_kept (hal.mono rfl)
    | with_reducible apply modFw_kept (hal.mono rfl) | with_reducible apply kept_ite | split

theorem inlayReplay_kept (hal : Allow al [.csr, .evt, .jrn, .chans]) (h : Kept al s0 s) : Kept al s0 (inlayReplay s) := by
  unfold inlayReplay
  repeat' first
    | exact hal.mono rfl | with_reducible assumption | with_reducible apply forEach_kept
    | with_reducible apply inlWrite_kept (hal.mono rfl)
    | with_reducible apply markWrite_kept (hal.mono rfl) | intro _ | with_reducible apply kept_ite | split

theorem fillTake_kept (hal : Allow al [.csr, .evt, .jrn, .map]) (h : Kept al s0 s) (n : Nat) : ∀ x, Kept al s0
    (fillTake s n x)
  | none => h
  | some _ => ev_kept (hal.mono rfl) ((keptMap (hal.mono rfl)).2 h) 837

theorem fillHead_kept (hal : Allow al [.csr, .evt, .jrn, .map]) (h : Kept al s0 s) : ∀ x, Kept al s0 (fillHead s x)
  | none => h
  | some _ => fillTake_kept (hal.mono rfl) h ..

theorem fillReload_kept (hal : Allow al [.csr, .evt, .jrn, .map]) (h : Kept al s0 s) : Kept al s0 (fillReload s) :=
    fillHead_kept (hal.mono rfl) h _

theorem overZeroEnt_kept (hal : Allow al [.csr, .map, .chans]) (h : Kept al s0 s) (p : Nat) (v : BitVec 1024) : Kept al s0
    (overZeroEnt s p v) := by
  unfold overZeroEnt
  refine forEach_kept h _ _ fun s i hs => ?_
  split
  · exact dasPut_kept (hal.mono rfl) hs ..
  · exact hs

theorem overZeroIn_kept (hal : Allow al [.csr, .map, .chans]) (h : Kept al s0 s) (n : Nat) : ∀ x, Kept al s0
    (overZeroIn s n x)
  | none => h
  | some _ => forEach_kept h _ _ fun _ _ hs => overZeroEnt_kept (hal.mono rfl) hs ..

theorem overZero_kept (hal : Allow al [.csr, .map, .chans]) (h : Kept al s0 s) (hd : List LineData) : Kept al s0
    (overZero s hd) := overZeroIn_kept (hal.mono rfl) h ..

theorem cureRestore_kept (hal : Allow al [.csr, .evt, .jrn, .map, .chans, .cure, .fw]) (h : Kept al s0 s) : Kept al s0
    (cureRestore s) := by
  unfold cureRestore
  repeat' first
    | exact hal.mono rfl | with_reducible assumption | with_reducible apply forEach_kept
    | with_reducible apply fenceCmd_kept (hal.mono rfl)
    | with_reducible apply epochSet_kept (hal.mono rfl) | with_reducible apply overZero_kept (hal.mono rfl)
    | with_reducible apply staleSideWrite_kept (hal.mono rfl)
    | with_reducible apply staleSet_kept (hal.mono rfl) | intro _ | with_reducible apply kept_ite | split

theorem warmRestore_kept
    (hal : Allow al [.csr, .evt, .jrn, .ports, .adm, .tt, .results, .map, .chans, .cure, .tier, .arm, .fw])
    (h : Kept al s0 s) : Kept al s0 (warmRestore s) := by
  unfold warmRestore
  repeat' first
    | exact hal.mono rfl | with_reducible assumption | with_reducible apply modArm_kept (hal.mono rfl)
    | with_reducible apply useCount_kept (hal.mono rfl)
    | with_reducible apply confLoad_kept (hal.mono rfl) | with_reducible apply forEach_kept
    | with_reducible apply nbrUpdate_kept (hal.mono rfl)
    | with_reducible apply cureRestore_kept (hal.mono rfl) | with_reducible apply fillReload_kept (hal.mono rfl)
    | with_reducible apply inlayReplay_kept (hal.mono rfl)
    | with_reducible apply modFw_kept (hal.mono rfl) | with_reducible apply frameLowUpd_kept (hal.mono rfl)
    | with_reducible apply frameRefill_kept (hal.mono rfl)
    | with_reducible apply drawFree_kept | with_reducible apply fwHalt_kept (hal.mono rfl) | intro _ | split

theorem reserveZero_kept (hal : Allow al [.map, .fw, .dram]) (h : Kept al s0 s) : Kept al s0 (reserveZero s) := by
  unfold reserveZero
  extract_lets r0 z first cs new only s1 s2
  clear_value new only z
  have h1 : Kept al s0 s1 := (keptMap (hal.mono rfl)).2 (h.setDram (hal.mono rfl) (smWf_filter 0 _))
  clear_value s1
  have h2 : Kept al s0 s2 := by
    refine forEach_kept h1 _ _ fun s c hs => forEach_kept hs _ _ fun s e hs => ?_
    extract_lets k
    clear_value k
    refine kept_ite ?_ hs
    exact forEach_kept hs _ _ fun s col hs => setDramLine_kept (hal.mono rfl) hs ..
  clear_value s2
  exact modFw_kept (hal.mono rfl) ((keptMap (hal.mono rfl)).2 h2) _

theorem bcmdInit_kept (hal : Allow al [.map, .fw, .dram]) (h : Kept al s0 s) : Kept al s0 (bcmdInit s) := by
  unfold bcmdInit
  repeat' first
    | exact hal.mono rfl | with_reducible assumption | with_reducible apply reserveZero_kept (hal.mono rfl)
    | with_reducible apply kept_ite
    | simp only [keptMap (hal.mono rfl)]

theorem bcmdRebuild_kept
    (hal : Allow al [.csr, .evt, .jrn, .ports, .adm, .tt, .results, .map, .chans, .cure, .tier, .arm, .fw])
    (h : Kept al s0 s) : Kept al s0 (bcmdRebuild s) := by
  unfold bcmdRebuild
  repeat' first
    | exact hal.mono rfl | with_reducible assumption | with_reducible apply warmRestore_kept (hal.mono rfl)
    | with_reducible apply kept_ite
    | simp only [keptMap (hal.mono rfl)]

theorem bcmdPcInv_kept (hal : Allow al [.map]) (h : Kept al s0 s) : Kept al s0 (bcmdPcInv s) := by
  unfold bcmdPcInv
  try dsimp only
  repeat' first
    | exact hal.mono rfl
    | with_reducible assumption
    | intro _
    | with_reducible apply kept_ite
    | split
    | simp only [keptMap (hal.mono rfl)]
    | dsimp only

end Sys2Proof.Machine
end

