-- ==== Sys2Proof/Laws/KeptCommit.lean ====
section
/-!
SUPPORT. What the operations of Machine/Commit.lean keep.
-/
namespace Sys2Proof.Machine
set_option linter.all false
set_option Elab.async false
open Sys2Proof

variable {al : Part → Bool} {s0 s : State}

theorem modCsr_kept (hal : Allow al [.csr]) (h : Kept al s0 s) (f : CsrSt → CsrSt) (hv : ∀ c, (f c).val = c.val)
    (hr : ∀ c, (f c).holdReg = c.holdReg) : Kept al s0 (modCsr s f) :=
  h.csr (hal.mono rfl) (fun k => by rw [hv]; exact k) (fun k => by rw [hr]; exact k)

theorem takeShadow_kept (hal : Allow al [.csr]) (h : Kept al s0 s) (xs : List (RegHit × Word64)) : Kept al s0
    (takeShadow s xs) := by
  unfold takeShadow
  try dsimp only
  repeat' first
    | exact hal.mono rfl
    | with_reducible assumption
    | with_reducible apply setReg_kept (hal.mono rfl)
    | with_reducible apply foldl_kept
    | with_reducible apply foldl_kept_fst
    | with_reducible apply foldl_kept_snd
    | intro _
    | with_reducible apply kept_ite
    | split
    | dsimp only

theorem applySch_kept (hal : Allow al [.csr, .evt, .jrn]) (h : Kept al s0 s) (xs : List (RegHit × Word64)) : Kept al s0
    (applySch s xs).1 := by
  unfold applySch
  repeat' first
    | exact hal.mono rfl | with_reducible assumption | with_reducible apply takeShadow_kept (hal.mono rfl)
    | with_reducible apply forEach_kept
    | with_reducible apply ev_kept (hal.mono rfl) | intro _

theorem applyVnr_kept (hal : Allow al [.csr, .evt, .jrn, .vnr]) (h : Kept al s0 s) (xs : List (RegHit × Word64)) : Kept al
    s0 (applyVnr s xs).1 := by
  unfold applyVnr
  repeat' first
    | exact hal.mono rfl | with_reducible assumption | with_reducible apply takeShadow_kept (hal.mono rfl)
    | with_reducible apply overUpd_kept (hal.mono rfl)
    | with_reducible apply ev_kept (hal.mono rfl) | split | dsimp only

theorem applyRef_kept (hal : Allow al [.csr, .evt, .jrn, .chans]) (h : Kept al s0 s) (c : Fin 16)
    (xs : List (RegHit × Word64)) : Kept al s0 (applyRef s c xs).1 := by
  unfold applyRef
  repeat' first
    | exact hal.mono rfl | with_reducible assumption | with_reducible apply takeShadow_kept (hal.mono rfl)
    | with_reducible apply evd_kept (hal.mono rfl)
    | with_reducible apply refErr_kept (hal.mono rfl) | with_reducible apply modRef_kept (hal.mono rfl) | split | dsimp only

theorem applyRefs_kept (hal : Allow al [.csr, .evt, .jrn, .chans]) (h : Kept al s0 s) (xs : List (RegHit × Word64)) : Kept
    al s0 (applyRefs s xs).1 := by
  unfold applyRefs
  repeat' first
    | exact hal.mono rfl | with_reducible assumption | with_reducible apply applyRef_kept (hal.mono rfl)
    | with_reducible apply foldl_kept_fst | intro _

theorem applyCur_kept (hal : Allow al [.csr, .evt, .jrn]) (h : Kept al s0 s) (xs : List (RegHit × Word64)) : Kept al s0
    (applyCur s xs).1 := by
  unfold applyCur
  repeat' first
    | exact hal.mono rfl | with_reducible assumption | with_reducible apply takeShadow_kept (hal.mono rfl)
    | with_reducible apply ev_kept (hal.mono rfl)
    | with_reducible apply setFld_kept (hal.mono rfl) | split | dsimp only

theorem applyTir_kept (hal : Allow al [.csr, .evt, .jrn, .ports, .adm, .tt, .results, .map, .cure, .tier])
    (h : Kept al s0 s) (xs : List (RegHit × Word64)) : Kept al s0 (applyTir s xs).1 := by
  unfold applyTir
  repeat' first
    | exact hal.mono rfl | with_reducible assumption | with_reducible apply takeShadow_kept (hal.mono rfl)
    | with_reducible apply forEach_kept
    | with_reducible apply nbrUpdate_kept (hal.mono rfl) | with_reducible apply frameLowUpd_kept (hal.mono rfl)
    | with_reducible apply modTier_kept (hal.mono rfl)
    | with_reducible apply ev_kept (hal.mono rfl) | intro _ | split | dsimp only

theorem applyFlt_kept (hal : Allow al [.csr, .evt]) (h : Kept al s0 s) (xs : List (RegHit × Word64)) : Kept al s0
    (applyFlt s xs).1 := by
  unfold applyFlt
  repeat' first
    | exact hal.mono rfl | with_reducible assumption | with_reducible apply forEach_kept
    | with_reducible apply takeShadow_kept (hal.mono rfl) | intro _
    | simp only [keptEvt (hal.mono rfl)]

theorem applyGroup_kept (hal : Allow al [.csr, .evt, .jrn, .ports, .adm, .tt, .results, .map, .vnr, .chans, .cure, .tier])
    (h : Kept al s0 s) (g : Nat) : Kept al s0 (applyGroup s g).1 := by
  unfold applyGroup
  repeat' first
    | rfl | exact hal.mono rfl | with_reducible assumption | with_reducible apply applySch_kept (hal.mono rfl)
    | with_reducible apply applyVnr_kept (hal.mono rfl)
    | with_reducible apply applyRefs_kept (hal.mono rfl) | with_reducible apply applyCur_kept (hal.mono rfl)
    | with_reducible apply applyTir_kept (hal.mono rfl)
    | with_reducible apply applyFlt_kept (hal.mono rfl) | with_reducible apply takeShadow_kept (hal.mono rfl)
    | with_reducible apply modCsr_kept (hal.mono rfl) | intro _
    | split

theorem commitApply_kept
    (hal : Allow al [.csr, .evt, .jrn, .ports, .adm, .tt, .results, .map, .vnr, .chans, .cure, .tier]) (h : Kept al s0 s)
    (m : BitVec 16) : Kept al s0 (commitApply s m) := by
  unfold commitApply
  repeat' first
    | exact hal.mono rfl | with_reducible assumption | with_reducible apply applyGroup_kept (hal.mono rfl)
    | with_reducible apply setReg_kept (hal.mono rfl)
    | with_reducible apply evd_kept (hal.mono rfl) | with_reducible apply cntInc_kept (hal.mono rfl)
    | with_reducible apply foldl_kept_fst | intro _

theorem commitRefuse_kept (hal : Allow al [.csr, .evt, .jrn]) (h : Kept al s0 s) (reason : Nat) (m : BitVec 16) : Kept al
    s0 (commitRefuse s reason m) := by
  unfold commitRefuse
  try dsimp only
  repeat' first
    | exact hal.mono rfl
    | with_reducible assumption
    | with_reducible apply evd_kept (hal.mono rfl)
    | with_reducible apply cntInc_kept (hal.mono rfl)
    | intro _
    | with_reducible apply kept_ite
    | split
    | dsimp only

theorem commitNow_kept (hal : Allow al [.csr, .evt, .jrn, .ports, .adm, .tt, .results, .map, .vnr, .chans, .cure, .tier])
    (h : Kept al s0 s) (m : BitVec 16) : Kept al s0 (commitNow s m) := by
  unfold commitNow
  repeat' first
    | exact hal.mono rfl | with_reducible assumption | with_reducible apply commitRefuse_kept (hal.mono rfl)
    | with_reducible apply commitApply_kept (hal.mono rfl)
    | with_reducible apply kept_ite

theorem commitSchedule_kept
    (hal : Allow al [.csr, .evt, .jrn, .ports, .adm, .tt, .results, .map, .vnr, .chans, .cure, .tier]) (h : Kept al s0 s)
    (m : BitVec 16) : Kept al s0 (commitSchedule s m) := by
  unfold commitSchedule
  repeat' first
    | rfl | exact hal.mono rfl | with_reducible assumption | with_reducible apply commitRefuse_kept (hal.mono rfl)
    | with_reducible apply commitApply_kept (hal.mono rfl)
    | with_reducible apply modCsr_kept (hal.mono rfl) | intro _ | with_reducible apply kept_ite

theorem commitCancel_kept (hal : Allow al [.csr, .evt, .jrn]) (h : Kept al s0 s) (m : BitVec 16) : Kept al s0
    (commitCancel s m) := by
  unfold commitCancel
  repeat' first
    | rfl | exact hal.mono rfl | with_reducible assumption | with_reducible apply modCsr_kept (hal.mono rfl)
    | with_reducible apply commitRefuse_kept (hal.mono rfl) | intro _
    | with_reducible apply kept_ite

theorem commitDue_kept (hal : Allow al [.csr, .evt, .jrn, .ports, .adm, .tt, .results, .map, .vnr, .chans, .cure, .tier])
    (h : Kept al s0 s) : Kept al s0 (commitDue s) := by
  unfold commitDue
  repeat' first
    | rfl | exact hal.mono rfl | with_reducible assumption | with_reducible apply commitApply_kept (hal.mono rfl)
    | with_reducible apply modCsr_kept (hal.mono rfl) | intro _
    | split

theorem modBeat_kept (hal : Allow al [.beat]) (h : Kept al s0 s) (f : BeatSt → BeatSt) : Kept al s0 (modBeat s f) :=
    (keptBeat (s := s) (hal.mono rfl)).2 h

theorem genAll_kept (hal : Allow al [.chans]) (h : Kept al s0 s) : Kept al s0 (genAll s) := by
  unfold genAll
  try dsimp only
  repeat' first
    | exact hal.mono rfl
    | with_reducible assumption
    | with_reducible apply forEach_kept
    | with_reducible apply modRef_kept (hal.mono rfl)
    | intro _
    | with_reducible apply kept_ite
    | split
    | dsimp only

/-- Every piece of work that may be due keeps what is kept. -/
theorem firstDue_kept (hal : Allow al [.csr, .evt, .jrn, .ports, .adm, .tt, .results, .map, .vnr, .chans, .cure, .tier])
    {f : State → State} (e : firstDue s = some f) (h : Kept al s0 s) : Kept al s0 (f s) := by
  have pick : ∀ (xs : List (Option Nat × (State → State))) (b : Option (Nat × (State → State))),
      (∀ x ∈ xs, ∀ s, Kept al s0 s → Kept al s0 (x.2 s)) → (∀ y, b = some y → ∀ s, Kept al s0 s → Kept al s0 (y.2 s)) →
      ∀ y, xs.foldl (fun (best : Option (Nat × (State → State))) x =>
        match x.1, best with
        | some b, some y => if b < y.1 then some (b, x.2) else best
        | some b, none => some (b, x.2)
        | none, _ => best) b = some y → ∀ s, Kept al s0 s → Kept al s0 (y.2 s) := by
    intro xs
    induction xs with
    | nil => intro b _ hb y hy; exact hb y hy
    | cons x xs ih =>
      intro b hx hb
      refine ih _ (fun y hy => hx y (List.mem_cons_of_mem _ hy)) ?_
      have h0 := hx x (List.mem_cons_self ..)
      intro y hy
      dsimp only at hy
      split at hy
      · split at hy
        · cases hy; exact h0
        · exact hb y hy
      · cases hy; exact h0
      · exact hb y hy
  unfold firstDue at e
  simp only [Option.map_eq_some_iff] at e
  obtain ⟨y, hy, rfl⟩ := e
  refine pick _ none ?_ (fun _ hn => by cases hn) y hy s h
  intro x hx
  rcases List.mem_cons.1 hx with rfl | hx
  · exact fun s k => commitDue_kept (hal.mono rfl) k
  · simp only [List.mem_flatMap, List.mem_cons, List.not_mem_nil, or_false] at hx
    obtain ⟨e, -, rfl | rfl⟩ := hx
    · exact fun s k => jigLate_kept (hal.mono rfl) k e
    · exact fun s k => jigUnpin_kept (hal.mono rfl) k e

theorem deadlines_kept (hal : Allow al [.csr, .evt, .jrn, .ports, .adm, .tt, .results, .map, .vnr, .chans, .cure, .tier])
    (h : Kept al s0 s) : Kept al s0 (deadlines s) := by
  unfold deadlines
  repeat' first
    | exact hal.mono rfl | with_reducible assumption | with_reducible apply forEach_kept
    | refine firstDue_kept (hal.mono rfl) (by with_reducible assumption) ?_
    | intro _ | split

theorem windowsEnd_kept (hal : Allow al [.evt, .chans]) (h : Kept al s0 s) : Kept al s0 (windowsEnd s) := by
  unfold windowsEnd
  repeat' first
    | exact hal.mono rfl | with_reducible assumption | with_reducible apply forEach_kept
    | with_reducible apply faultWindowEnd_kept (hal.mono rfl)
    | with_reducible apply ceWindowEnd_kept (hal.mono rfl) | intro _

theorem freerunEnter_kept (hal : Allow al [.beat, .csr, .evt, .jrn, .chans]) (h : Kept al s0 s) : Kept al s0
    (freerunEnter s) := by
  unfold freerunEnter
  repeat' first
    | exact hal.mono rfl | with_reducible assumption | with_reducible apply genAll_kept (hal.mono rfl)
    | with_reducible apply ev_kept (hal.mono rfl)
    | with_reducible apply modBeat_kept (hal.mono rfl)

theorem freerunLeave_kept (hal : Allow al [.beat, .csr, .evt, .jrn]) (h : Kept al s0 s) : Kept al s0 (freerunLeave s) := by
  unfold freerunLeave
  repeat' first
    | exact hal.mono rfl | with_reducible assumption | with_reducible apply ev_kept (hal.mono rfl)
    | with_reducible apply modBeat_kept (hal.mono rfl)
    | with_reducible apply kept_ite

theorem syncMark_kept (hal : Allow al [.beat]) (h : Kept al s0 s) : Kept al s0 (syncMark s) := by
  unfold syncMark
  try dsimp only
  repeat' first
    | exact hal.mono rfl
    | with_reducible assumption
    | with_reducible apply modBeat_kept (hal.mono rfl)
    | intro _
    | with_reducible apply kept_ite
    | split
    | dsimp only

theorem slotsSkip_kept (hal : Allow al [.chans]) (h : Kept al s0 s) : Kept al s0 (slotsSkip s) := by
  unfold slotsSkip
  try dsimp only
  repeat' first
    | exact hal.mono rfl
    | with_reducible assumption
    | with_reducible apply forEach_kept
    | with_reducible apply modRef_kept (hal.mono rfl)
    | intro _
    | with_reducible apply kept_ite
    | split
    | dsimp only

theorem beatSync_kept
    (hal : Allow al [.beat, .csr, .evt, .jrn, .ports, .adm, .tt, .results, .map, .vnr, .chans, .cure, .tier])
    (h : Kept al s0 s) (v : Word64) : Kept al s0 (beatSync s v) := by
  unfold beatSync
  try dsimp only
  repeat' first
    | exact hal.mono rfl
    | with_reducible assumption
    | with_reducible apply modBeat_kept (hal.mono rfl)
    | with_reducible apply slotsSkip_kept (hal.mono rfl)
    | with_reducible apply genAll_kept (hal.mono rfl)
    | with_reducible apply syncMark_kept (hal.mono rfl)
    | with_reducible apply ev_kept (hal.mono rfl)
    | with_reducible apply freerunEnter_kept (hal.mono rfl)
    | with_reducible apply cntInc_kept (hal.mono rfl)
    | with_reducible apply evd_kept (hal.mono rfl)
    | with_reducible apply deadlines_kept (hal.mono rfl)
    | with_reducible apply windowsEnd_kept (hal.mono rfl)
    | with_reducible apply freerunLeave_kept (hal.mono rfl)
    | intro _
    | with_reducible apply kept_ite
    | split
    | dsimp only

theorem beatFreerun_kept (hal : Allow al [.beat, .csr, .evt, .jrn, .chans]) (h : Kept al s0 s) : Kept al s0
    (beatFreerun s) := by
  unfold beatFreerun
  try dsimp only
  repeat' first
    | exact hal.mono rfl
    | with_reducible assumption
    | with_reducible apply freerunEnter_kept (hal.mono rfl)
    | with_reducible apply slotsSkip_kept (hal.mono rfl)
    | with_reducible apply modBeat_kept (hal.mono rfl)
    | intro _
    | with_reducible apply kept_ite
    | split
    | dsimp only

theorem snapshot_kept (hal : Allow al [.csr]) (h : Kept al s0 s) : Kept al s0 (snapshot s) := by
  unfold snapshot
  extract_lets hold s1 s2
  have hh : smWf 0 hold = true := smWf_foldl 0 _ (fun m e hm => smWf_smSet 0 _ _ hm) _ rfl
  clear_value hold
  have h1 : Kept al s0 s1 := h.csr (hal.mono rfl) (fun k => k) fun _ => hh
  clear_value s1
  exact cntInc_kept (hal.mono rfl) (setReg_kept (hal.mono rfl) (setFld_kept (hal.mono rfl) h1 ..) ..) _

theorem cntClear_kept (hal : Allow al [.csr]) (h : Kept al s0 s) : Kept al s0 (cntClear s) :=
  h.csr (hal.mono rfl) (smWf_filter 0 _) fun k => k

end Sys2Proof.Machine
end

