-- ==== Sys2Proof/Laws/KeptArm.lean ====
section
/-!
SUPPORT. What the operations of Machine/Arm.lean keep.
-/
namespace Sys2Proof.Machine
set_option linter.all false
set_option Elab.async false
open Sys2Proof

variable {al : Part → Bool} {s0 s : State}

theorem armStop_kept (hal : Allow al [.csr, .evt, .jrn, .ports, .adm, .chans, .arm]) (h : Kept al s0 s) (m : ArmMode)
    (id unit : Nat) (pc : BitVec 48) : Kept al s0 (armStop s m id unit pc) := by
  unfold armStop
  repeat' first
    | exact hal.mono rfl | with_reducible assumption | with_reducible apply setReg_kept (hal.mono rfl)
    | with_reducible apply armHalt_kept (hal.mono rfl)
    | with_reducible apply evd_kept (hal.mono rfl) | with_reducible apply kept_ite

theorem bootStart_kept (hal : Allow al [.csr, .sbus, .arm]) (h : Kept al s0 s) : Kept al s0 (bootStart s) := by
  unfold bootStart
  try dsimp only
  repeat' first
    | exact hal.mono rfl
    | with_reducible assumption
    | with_reducible apply modArm_kept (hal.mono rfl)
    | with_reducible apply busEnable_kept (hal.mono rfl)
    | intro _
    | with_reducible apply kept_ite
    | split
    | dsimp only

theorem bootFail_kept (hal : Allow al [.csr, .evt, .jrn, .ports, .adm, .chans, .arm]) (h : Kept al s0 s) (n : Nat) : Kept
    al s0 (bootFail s n) := by
  unfold bootFail
  repeat' first
    | exact hal.mono rfl | with_reducible assumption | with_reducible apply evd_kept (hal.mono rfl)
    | with_reducible apply armHalt_kept (hal.mono rfl)
    | with_reducible apply modArm_kept (hal.mono rfl)

theorem fwStart_kept (hal : Allow al [.csr, .evt, .jrn, .adm, .arm, .fw]) (h : Kept al s0 s) (b : BootRun)
    (info : ImgInfo) : Kept al s0 (fwStart s b info) := by
  unfold fwStart
  repeat' first
    | exact hal.mono rfl | with_reducible assumption | with_reducible apply modArm_kept (hal.mono rfl)
    | with_reducible apply maskNote_kept (hal.mono rfl)
    | with_reducible apply setReg_kept (hal.mono rfl) | with_reducible apply evd_kept (hal.mono rfl)
    | with_reducible apply cntInc_kept (hal.mono rfl)
    | with_reducible apply modFw_kept (hal.mono rfl) | with_reducible apply kept_ite

theorem bootWhole_kept (hal : Allow al [.csr, .evt, .jrn, .ports, .adm, .chans, .arm, .fw]) (h : Kept al s0 s)
    (b : BootRun) (bs : List Byte) : Kept al s0 (bootWhole s b bs) := by
  unfold bootWhole
  repeat' first
    | exact hal.mono rfl | with_reducible assumption | with_reducible apply bootFail_kept (hal.mono rfl)
    | with_reducible apply modArm_kept (hal.mono rfl)
    | with_reducible apply fwStart_kept (hal.mono rfl) | with_reducible apply kept_ite

theorem imgBlock_kept (hal : Allow al [.csr, .evt, .jrn, .ports, .adm, .chans, .arm, .fw]) (h : Kept al s0 s) : Kept al s0
    (imgBlock s) := by
  unfold imgBlock
  repeat' first
    | exact hal.mono rfl | with_reducible assumption | with_reducible apply bootFail_kept (hal.mono rfl)
    | with_reducible apply bootWhole_kept (hal.mono rfl)
    | with_reducible apply modArm_kept (hal.mono rfl) | with_reducible apply kept_ite | split

theorem imgTimeout_kept (hal : Allow al [.csr, .evt, .jrn, .ports, .adm, .chans, .arm]) (h : Kept al s0 s) : Kept al s0
    (imgTimeout s) := by
  unfold imgTimeout
  try dsimp only
  repeat' first
    | exact hal.mono rfl
    | with_reducible assumption
    | with_reducible apply bootFail_kept (hal.mono rfl)
    | intro _
    | with_reducible apply kept_ite
    | split
    | dsimp only

theorem armBoot_kept (hal : Allow al [.csr, .evt, .jrn, .ports, .adm, .chans, .arm]) (h : Kept al s0 s) (why : ArmWhy) :
    Kept al s0 (armBoot s why) := by
  unfold armBoot
  try dsimp only
  repeat' first
    | exact hal.mono rfl
    | with_reducible assumption
    | with_reducible apply armHalt_kept (hal.mono rfl)
    | with_reducible apply modArm_kept (hal.mono rfl)
    | intro _
    | with_reducible apply kept_ite
    | split
    | dsimp only

theorem armRestart_kept (hal : Allow al [.csr, .evt, .jrn, .ports, .adm, .chans, .arm]) (h : Kept al s0 s) : Kept al s0
    (armRestart s) := by
  unfold armRestart
  repeat' first | exact hal.mono rfl | with_reducible assumption | with_reducible apply armBoot_kept (hal.mono rfl) | split

theorem armUpdate_kept (hal : Allow al [.csr, .evt, .jrn, .ports, .adm, .chans, .arm]) (h : Kept al s0 s) : Kept al s0
    (armUpdate s) := by
  unfold armUpdate
  try dsimp only
  repeat' first
    | exact hal.mono rfl
    | with_reducible assumption
    | with_reducible apply armBoot_kept (hal.mono rfl)
    | intro _
    | with_reducible apply kept_ite
    | split
    | dsimp only

theorem armReq_kept (hal : Allow al [.adm]) (h : Kept al s0 s) (op : MemOp) (a : Nat) (mask : LineMask) (data : LineData)
    (poison : Bool) : Kept al s0 (armReq s op a mask data poison) :=
  (keptAdm (s := s) (hal.mono rfl)).2 h

theorem replayLends_kept (hal : Allow al [.adm]) (h : Kept al s0 s) (n : Nat) : ∀ x, Kept al s0 (replayLends s n x)
  | none => h
  | some _ => forEach_kept h _ _ fun _ _ hs => armReq_kept (hal.mono rfl) hs ..

theorem replayFwd_kept (hal : Allow al [.adm]) (h : Kept al s0 s) (w a : Nat) (mask : BitVec 64) (data : LineData) :
    Kept al s0 (replayFwd s w a mask data) := by
  unfold replayFwd
  generalize w % 8 = k
  split
  · exact kept_ite (armReq_kept (hal.mono rfl) h ..) (armReq_kept (hal.mono rfl) h ..)
  · exact armReq_kept (hal.mono rfl) h ..
  · exact armReq_kept (hal.mono rfl) h ..
  · exact h

theorem replayFwds_kept (hal : Allow al [.adm]) (h : Kept al s0 s) (n : Nat) : ∀ x, Kept al s0 (replayFwds s n x)
  | none => h
  | some _ => forEach_kept h _ _ fun _ _ hs => replayFwd_kept (hal.mono rfl) hs ..

theorem cureReplay_kept (hal : Allow al [.adm]) (h : Kept al s0 s) (hd : List LineData) : Kept al s0 (cureReplay s hd) :=
  replayFwds_kept (hal.mono rfl) (replayLends_kept (hal.mono rfl) h ..) ..

theorem writeBack_kept (hal : Allow al [.adm]) (h : Kept al s0 s) (ps : List Nat) : Kept al s0 (writeBack s ps) := by
  unfold writeBack
  repeat' first
    | exact hal.mono rfl | with_reducible assumption | with_reducible apply forEach_kept
    | with_reducible apply armReq_kept (hal.mono rfl) | intro _
    | with_reducible apply kept_ite | split

theorem readyFw_kept (hal : Allow al [.csr, .evt, .adm, .map, .cure, .dram]) (h : Kept al s0 s) : Kept al s0 (readyFw s) := by
  unfold readyFw
  repeat' first
    | exact hal.mono rfl | with_reducible assumption | with_reducible apply cureReplay_kept (hal.mono rfl)
    | with_reducible apply doIf_kept
    | with_reducible apply writeBack_kept (hal.mono rfl) | with_reducible apply sealClear_kept (hal.mono rfl)
    | with_reducible apply forEach_kept
    | with_reducible apply fenceCmd_kept (hal.mono rfl) | with_reducible apply confWrite_kept (hal.mono rfl) | intro _ | split

theorem scrubDefault_kept (hal : Allow al [.csr]) (h : Kept al s0 s) : Kept al s0 (scrubDefault s) := by
  unfold scrubDefault
  try dsimp only
  repeat' first
    | exact hal.mono rfl
    | with_reducible assumption
    | with_reducible apply forEach_kept
    | with_reducible apply setFld_kept (hal.mono rfl)
    | intro _
    | with_reducible apply kept_ite
    | split
    | dsimp only

theorem armReady_kept (hal : Allow al [.csr, .evt, .jrn, .ports, .adm, .map, .chans, .cure, .conns, .ten, .fw, .dram])
    (h : Kept al s0 s) : Kept al s0 (armReady s) := by
  unfold armReady
  try dsimp only
  repeat' first
    | exact hal.mono rfl
    | with_reducible assumption
    | with_reducible apply scrubDefault_kept (hal.mono rfl)
    | with_reducible apply readyFw_kept (hal.mono rfl)
    | with_reducible apply ev_kept (hal.mono rfl)
    | with_reducible apply setFld_kept (hal.mono rfl)
    | with_reducible apply modFw_kept (hal.mono rfl)
    | with_reducible apply forEach_kept
    | with_reducible apply portUpTry_kept (hal.mono rfl)
    | with_reducible apply segTry_kept (hal.mono rfl)
    | intro _
    | with_reducible apply kept_ite
    | split
    | dsimp only

theorem modMbx_kept (hal : Allow al [.fw]) (h : Kept al s0 s) (m : Fin 4) (f : Mbx → Mbx) : Kept al s0 (modMbx s m f) :=
    (keptFw (s := s) (hal.mono rfl)).2 h

theorem mbxRing_kept (hal : Allow al [.csr, .evt, .jrn, .fw]) (h : Kept al s0 s) (m : Fin 4) : Kept al s0 (mbxRing s m) := by
  unfold mbxRing
  repeat' first
    | exact hal.mono rfl | with_reducible assumption | with_reducible apply ev_kept (hal.mono rfl)
    | with_reducible apply modMbx_kept (hal.mono rfl)
    | with_reducible apply evd_kept (hal.mono rfl) | split

theorem mbxAck_kept (hal : Allow al [.fw]) (h : Kept al s0 s) (m : Fin 4) : Kept al s0 (mbxAck s m) := by
  unfold mbxAck
  try dsimp only
  repeat' first
    | exact hal.mono rfl
    | with_reducible assumption
    | with_reducible apply modMbx_kept (hal.mono rfl)
    | intro _
    | with_reducible apply kept_ite
    | split
    | dsimp only

theorem doorbell_kept (hal : Allow al [.csr, .evt, .jrn, .fw]) (h : Kept al s0 s) (m : Fin 4) (ring ack : Bool) : Kept al
    s0 (doorbell s m ring ack) := by
  unfold doorbell
  repeat' first
    | exact hal.mono rfl | with_reducible assumption | with_reducible apply mbxRing_kept (hal.mono rfl)
    | with_reducible apply mbxAck_kept (hal.mono rfl)
    | with_reducible apply kept_ite

theorem mbxReqWrite_kept (hal : Allow al [.fw]) (h : Kept al s0 s) (m : Fin 4) (k : Nat) (v : Word32) : Kept al s0
    (mbxReqWrite s m k v) := by
  unfold mbxReqWrite
  repeat' first | exact hal.mono rfl | with_reducible assumption | with_reducible apply modMbx_kept (hal.mono rfl) | split

theorem imgWinWrite_kept (hal : Allow al [.arm]) (h : Kept al s0 s) (k : Nat) (v : Word32) : Kept al s0
    (imgWinWrite s k v) := (keptArm (s := s) (hal.mono rfl)).2 h

theorem mbxTake_kept (hal : Allow al [.csr, .fw]) (h : Kept al s0 s) : Kept al s0 (mbxTake s) := by
  unfold mbxTake
  repeat' first
    | exact hal.mono rfl | with_reducible assumption | with_reducible apply modMbx_kept (hal.mono rfl)
    | with_reducible apply cntInc_kept (hal.mono rfl)
    | with_reducible apply modFw_kept (hal.mono rfl) | split

theorem mbxRespond_kept (hal : Allow al [.csr, .evt, .jrn, .fw]) (h : Kept al s0 s) (m : Fin 4) : Kept al s0
    (mbxRespond s m) := by
  unfold mbxRespond
  repeat' first
    | exact hal.mono rfl | with_reducible assumption | with_reducible apply ev_kept (hal.mono rfl)
    | with_reducible apply modMbx_kept (hal.mono rfl) | split
    | dsimp only

end Sys2Proof.Machine
end

