-- ==== Sys2Proof/Laws/KeptRegisters.lean ====
section
/-!
SUPPORT. What the operations of Machine/Registers.lean keep.
-/
namespace Sys2Proof.Machine
set_option linter.all false
set_option Elab.async false
open Sys2Proof

variable {al : Part → Bool} {s0 s : State}

theorem rpChanged_kept (hal : Allow al [.csr, .evt, .jrn]) (h : Kept al s0 s) (h : RegHit) (mid : BitVec 12) : Kept al s0
    (rpChanged s h mid) := by
  unfold rpChanged
  try dsimp only
  repeat' first
    | exact hal.mono rfl
    | with_reducible assumption
    | with_reducible apply setReg_kept (hal.mono rfl)
    | with_reducible apply evo_kept (hal.mono rfl)
    | intro _
    | with_reducible apply kept_ite
    | split
    | dsimp only

theorem writeRws_kept (hal : Allow al [.csr, .evt, .jrn]) (h : Kept al s0 s) (h : RegHit) (v : Word64) : Kept al s0
    (writeRws s h v) := by
  unfold writeRws
  repeat' first
    | rfl | exact hal.mono rfl | with_reducible assumption | with_reducible apply commitRefuse_kept (hal.mono rfl)
    | with_reducible apply modCsr_kept (hal.mono rfl) | intro _
    | with_reducible apply kept_ite | split

theorem writeRwh_kept (hal : Allow al [.csr, .evt, .jrn]) (h : Kept al s0 s) (h : RegHit) (v : Word64) : Kept al s0
    (writeRwh s h v) := by
  unfold writeRwh
  repeat' first
    | rfl | exact hal.mono rfl | with_reducible assumption | with_reducible apply modCsr_kept (hal.mono rfl)
    | with_reducible apply ev_kept (hal.mono rfl) | intro _
    | with_reducible apply kept_ite

theorem writeRw_kept (hal : Allow al [.csr]) (h : Kept al s0 s) (h : RegHit) (v : Word64) : Kept al s0 (writeRw s h v) := by
  unfold writeRw
  try dsimp only
  repeat' first
    | exact hal.mono rfl
    | with_reducible assumption
    | with_reducible apply setReg_kept (hal.mono rfl)
    | intro _
    | with_reducible apply kept_ite
    | split
    | dsimp only

theorem storeRw_kept (hal : Allow al [.csr]) (h : Kept al s0 s) (h : RegHit) (v : Word64) : Kept al s0 (storeRw s h v) := by
  unfold storeRw
  repeat' first | exact hal.mono rfl | with_reducible assumption | with_reducible apply setReg_kept (hal.mono rfl)

theorem trigTop_kept
    (hal : Allow al [.csr, .evt, .jrn, .ports, .adm, .tt, .results, .map, .vnr, .chans, .devEnd, .cure, .tier])
    (h : Kept al s0 s) (mid : BitVec 12) (h : RegHit) (v : Word64) : Kept al s0 (trigTop s mid h v) := by
  unfold trigTop
  repeat' first
    | exact hal.mono rfl | with_reducible assumption | with_reducible apply commitCancel_kept (hal.mono rfl)
    | with_reducible apply commitSchedule_kept (hal.mono rfl)
    | with_reducible apply commitNow_kept (hal.mono rfl) | with_reducible apply doIf_kept
    | with_reducible apply devRelease_kept (hal.mono rfl)
    | with_reducible apply devHold_kept (hal.mono rfl) | with_reducible apply snapshot_kept (hal.mono rfl)
    | with_reducible apply cntClear_kept (hal.mono rfl)
    | with_reducible apply sqAck_kept (hal.mono rfl) | with_reducible apply forEach_kept
    | with_reducible apply evtForce_kept (hal.mono rfl)
    | with_reducible apply fecClr_kept (hal.mono rfl) | with_reducible apply levelClr_kept (hal.mono rfl)
    | with_reducible apply foClr_kept (hal.mono rfl)
    | with_reducible apply sevClr_kept (hal.mono rfl) | with_reducible apply jrnClear_kept (hal.mono rfl)
    | with_reducible apply jrnFlush_kept (hal.mono rfl) | intro _
    | split

theorem trigMid_kept
    (hal : Allow al [.csr, .evt, .jrn, .ports, .adm, .tt, .results, .map, .vnr, .chans, .cure, .tier, .conns, .arm, .fw, .dram]) (h : Kept al s0 s) (mid : BitVec 12) (h : RegHit) (v : Word64) : Kept al s0 (trigMid s mid h v) := by
  unfold trigMid
  try dsimp only
  repeat' first
    | exact hal.mono rfl
    | with_reducible assumption
    | with_reducible apply storeRw_kept (hal.mono rfl)
    | with_reducible apply doIf_kept
    | with_reducible apply hwClr_kept (hal.mono rfl)
    | with_reducible apply frpCtlEffect_kept (hal.mono rfl)
    | with_reducible apply bcmdPcInv_kept (hal.mono rfl)
    | with_reducible apply bcmdRebuild_kept (hal.mono rfl)
    | with_reducible apply bcmdInit_kept (hal.mono rfl)
    | with_reducible apply vnrCtlEn_kept (hal.mono rfl)
    | with_reducible apply ropCmd_kept (hal.mono rfl)
    | with_reducible apply ropRefuse_kept (hal.mono rfl)
    | with_reducible apply staleSideWrite_kept (hal.mono rfl)
    | with_reducible apply curDegrade_kept (hal.mono rfl)
    | with_reducible apply curAttach_kept (hal.mono rfl)
    | with_reducible apply fenceCmd_kept (hal.mono rfl)
    | with_reducible apply unfence_kept (hal.mono rfl)
    | with_reducible apply epochSet_kept (hal.mono rfl)
    | intro _
    | with_reducible apply kept_ite
    | split
    | dsimp only

theorem grantAWrite_kept (hal : Allow al [.csr, .evt, .jrn, .map, .chans, .tier]) (h : Kept al s0 s) (g : Fin 32)
    (v : Word64) : Kept al s0 (grantAWrite s g v) := by
  unfold grantAWrite
  repeat' first
    | exact hal.mono rfl | with_reducible assumption | with_reducible apply grantHold_kept (hal.mono rfl)
    | with_reducible apply grantDisable_kept (hal.mono rfl)
    | with_reducible apply grantEnable_kept (hal.mono rfl) | with_reducible apply setReg_kept (hal.mono rfl)
    | with_reducible apply doIf_kept
    | with_reducible apply grantReload_kept (hal.mono rfl) | intro _ | with_reducible apply kept_ite

theorem trigTir_kept (hal : Allow al [.csr, .evt, .jrn, .ports, .adm, .tt, .results, .map, .vnr, .chans, .cure, .tier])
    (h : Kept al s0 s) (h : RegHit) (v : Word64) (env : RegEnv) : Kept al s0 (trigTir s h v env) := by
  unfold trigTir
  repeat' first
    | exact hal.mono rfl | with_reducible assumption | with_reducible apply doIf_kept
    | with_reducible apply moveCmd_kept (hal.mono rfl)
    | with_reducible apply reclaimCmd_kept (hal.mono rfl) | with_reducible apply frameCmd_kept (hal.mono rfl)
    | with_reducible apply grantAWrite_kept (hal.mono rfl)
    | with_reducible apply storeRw_kept (hal.mono rfl) | with_reducible apply jigGo_kept (hal.mono rfl)
    | with_reducible apply jigStop_kept (hal.mono rfl) | intro _
    | split

theorem trigTen_kept
    (hal : Allow al [.csr, .evt, .jrn, .ports, .adm, .tt, .results, .map, .vnr, .chans, .cure, .tier, .conns, .ten])
    (h : Kept al s0 s) (h : RegHit) (v : Word64) : Kept al s0 (trigTen s h v) := by
  unfold trigTen
  repeat' first
    | exact hal.mono rfl | with_reducible assumption | with_reducible apply segCtl_kept (hal.mono rfl)
    | with_reducible apply ringAWrite_kept (hal.mono rfl)
    | with_reducible apply modTen_kept (hal.mono rfl) | with_reducible apply connOpen_kept (hal.mono rfl)
    | with_reducible apply connClose_kept (hal.mono rfl)
    | with_reducible apply keyInstall_kept (hal.mono rfl) | with_reducible apply keySwitch_kept (hal.mono rfl)
    | with_reducible apply keyRetire_kept (hal.mono rfl)
    | with_reducible apply connErrCmd_kept (hal.mono rfl) | with_reducible apply connQuery_kept (hal.mono rfl)
    | with_reducible apply rkeyCreate_kept (hal.mono rfl)
    | with_reducible apply rkeyRevoke_kept (hal.mono rfl) | with_reducible apply rkeyQuery_kept (hal.mono rfl) | split

theorem trigArm_kept
    (hal : Allow al [.csr, .evt, .jrn, .ports, .ntc, .adm, .tt, .results, .map, .vnr, .chans, .cure, .tier, .conns, .ten, .arm, .fw, .pwr, .dram]) (h : Kept al s0 s) (mid : BitVec 12) (h : RegHit) (v : Word64) : Kept al s0 (trigArm s mid h v) := by
  unfold trigArm
  try dsimp only
  repeat' first
    | exact hal.mono rfl
    | with_reducible assumption
    | with_reducible apply doIf_kept
    | with_reducible apply armRestart_kept (hal.mono rfl)
    | with_reducible apply armReady_kept (hal.mono rfl)
    | with_reducible apply armUpdate_kept (hal.mono rfl)
    | with_reducible apply imgBlock_kept (hal.mono rfl)
    | with_reducible apply imgWinWrite_kept (hal.mono rfl)
    | with_reducible apply mbxReqWrite_kept (hal.mono rfl)
    | with_reducible apply doorbell_kept (hal.mono rfl)
    | with_reducible apply stateCmd_kept (hal.mono rfl)
    | intro _
    | with_reducible apply kept_ite
    | split
    | dsimp only

theorem codeMark_kept (hal : Allow al [.csr, .evt, .jrn, .chans]) (h : Kept al s0 s) (c : Fin 16) (i : Nat) (v : Word64) :
    Kept al s0 (codeMark s c i v) := by
  unfold codeMark
  repeat' first
    | exact hal.mono rfl | with_reducible assumption | with_reducible apply markWrite_kept (hal.mono rfl)
    | with_reducible apply markClear_kept (hal.mono rfl)
    | with_reducible apply kept_ite

theorem sbiCfg_kept (hal : Allow al [.csr]) (h : Kept al s0 s) (c : Fin 16) (h : RegHit) (v : Word64) : Kept al s0
    (sbiCfg s c h v) := by
  unfold sbiCfg
  try dsimp only
  repeat' first
    | exact hal.mono rfl
    | with_reducible assumption
    | with_reducible apply storeRw_kept (hal.mono rfl)
    | intro _
    | with_reducible apply kept_ite
    | split
    | dsimp only

theorem trigChan_kept (hal : Allow al [.csr, .evt, .jrn, .adm, .vnr, .chans, .sbus, .devEnd]) (h : Kept al s0 s)
    (mid : BitVec 12) (h : RegHit) (v : Word64) : Kept al s0 (trigChan s mid h v) := by
  unfold trigChan
  try dsimp only
  repeat' first
    | exact hal.mono rfl
    | with_reducible assumption
    | with_reducible apply doIf_kept
    | with_reducible apply chHoldRelease_kept (hal.mono rfl)
    | with_reducible apply chHold_kept (hal.mono rfl)
    | with_reducible apply trainGo_kept (hal.mono rfl)
    | with_reducible apply takeback_kept (hal.mono rfl)
    | with_reducible apply handover_kept (hal.mono rfl)
    | with_reducible apply clrLost_kept (hal.mono rfl)
    | with_reducible apply discard_kept (hal.mono rfl)
    | with_reducible apply sbiCfg_kept (hal.mono rfl)
    | with_reducible apply sbTransfer_kept (hal.mono rfl)
    | with_reducible apply codeMark_kept (hal.mono rfl)
    | with_reducible apply diagGo_kept (hal.mono rfl)
    | with_reducible apply rawAccess_kept (hal.mono rfl)
    | with_reducible apply inlCopy_kept (hal.mono rfl)
    | with_reducible apply inlPpr_kept (hal.mono rfl)
    | with_reducible apply inlWrite_kept (hal.mono rfl)
    | intro _
    | with_reducible apply kept_ite
    | split
    | dsimp only

theorem trigger_kept
    (hal : Allow al [.csr, .evt, .jrn, .ports, .ntc, .adm, .tt, .results, .map, .vnr, .chans, .sbus, .devEnd, .cure, .tier, .conns, .ten, .arm, .fw, .pwr, .dram]) (h : Kept al s0 s) (mid : BitVec 12) (h : RegHit) (v : Word64) (env : RegEnv) : Kept al s0 (trigger s mid h v env) := by
  unfold trigger
  try dsimp only
  repeat' first
    | exact hal.mono rfl
    | with_reducible assumption
    | with_reducible apply trigTop_kept (hal.mono rfl)
    | with_reducible apply trigMid_kept (hal.mono rfl)
    | with_reducible apply trigTir_kept (hal.mono rfl)
    | with_reducible apply trigTen_kept (hal.mono rfl)
    | with_reducible apply trigArm_kept (hal.mono rfl)
    | with_reducible apply trigChan_kept (hal.mono rfl)
    | intro _
    | with_reducible apply kept_ite
    | split
    | dsimp only

theorem regWrite_kept
    (hal : Allow al [.csr, .evt, .jrn, .ports, .ntc, .adm, .tt, .results, .map, .vnr, .chans, .sbus, .devEnd, .cure, .tier, .conns, .ten, .arm, .fw, .pwr, .dram]) (h : Kept al s0 s) (mid : BitVec 12) (h : RegHit) (v : Word64) (env : RegEnv) : Kept al s0 (regWrite s mid h v env) := by
  unfold regWrite
  repeat' first
    | exact hal.mono rfl | with_reducible assumption | with_reducible apply doIf_kept
    | with_reducible apply lockViolation_kept (hal.mono rfl)
    | with_reducible apply rpChanged_kept (hal.mono rfl) | with_reducible apply writeRw_kept (hal.mono rfl)
    | with_reducible apply writeRwh_kept (hal.mono rfl)
    | with_reducible apply writeRws_kept (hal.mono rfl) | with_reducible apply trigger_kept (hal.mono rfl)
    | with_reducible apply setReg_kept (hal.mono rfl) | intro _
    | with_reducible apply kept_ite

theorem regWriteAt_kept
    (hal : Allow al [.csr, .evt, .jrn, .ports, .ntc, .adm, .tt, .results, .map, .vnr, .chans, .sbus, .devEnd, .cure, .tier, .conns, .ten, .arm, .fw, .pwr, .dram]) (h : Kept al s0 s) (mid : BitVec 12) (off : Nat) (v : Word64) (env : RegEnv) : Kept al s0 (regWriteAt s mid off v env) := by
  unfold regWriteAt
  repeat' first | exact hal.mono rfl | with_reducible assumption | with_reducible apply regWrite_kept (hal.mono rfl) | split

theorem rcClear_kept (hal : Allow al [.csr, .fw]) (h : Kept al s0 s) (h : RegHit) : Kept al s0 (rcClear s h) := by
  unfold rcClear
  repeat' first
    | exact hal.mono rfl | with_reducible assumption | with_reducible apply modMbx_kept (hal.mono rfl)
    | with_reducible apply setReg_kept (hal.mono rfl)
    | with_reducible apply kept_ite

theorem regRead_kept (hal : Allow al [.csr, .jrn, .fw]) (h : Kept al s0 s) (h : RegHit) (bad : Nat) : Kept al s0
    (regRead s h bad).2 := by
  unfold regRead
  try dsimp only
  repeat' first
    | exact hal.mono rfl
    | with_reducible assumption
    | with_reducible apply jrnPop_kept (hal.mono rfl)
    | with_reducible apply rcClear_kept (hal.mono rfl)
    | intro _
    | with_reducible apply kept_ite
    | split
    | dsimp only

theorem rcRead_kept (hal : Allow al [.csr, .jrn, .fw]) (h : Kept al s0 s) (off : Nat) : Kept al s0 (rcRead s off) := by
  unfold rcRead
  repeat' first | exact hal.mono rfl | with_reducible assumption | with_reducible apply regRead_kept (hal.mono rfl) | split

theorem setLat_kept (hal : Allow al [.csr]) (h : Kept al s0 s) (arm : Bool) (lat buf : Option (Nat × Word32)) :
    Kept al s0 (setLat s arm lat buf) :=
  modCsr_kept (hal.mono rfl) h _ (fun _ => by cases arm <;> rfl) fun _ => by cases arm <;> rfl

theorem wordRead_kept (hal : Allow al [.csr, .jrn, .fw]) (h : Kept al s0 s) (arm : Bool) (off : Nat) (bad : Nat) : Kept al
    s0 (wordRead s arm off bad).2 := by
  unfold wordRead
  repeat' first
    | exact hal.mono rfl | with_reducible assumption | with_reducible apply setLat_kept (hal.mono rfl) | split | dsimp only
    | refine kept_snd (by with_reducible assumption) (regRead_kept (hal.mono rfl) ?_ ..)

theorem wordWrite_kept
    (hal : Allow al [.csr, .evt, .jrn, .ports, .ntc, .adm, .tt, .results, .map, .vnr, .chans, .sbus, .devEnd, .cure, .tier, .conns, .ten, .arm, .fw, .pwr, .dram]) (h : Kept al s0 s) (arm : Bool) (mid : BitVec 12) (off : Nat) (v : Word32) (env : RegEnv) : Kept al s0 (wordWrite s arm mid off v env).2 := by
  unfold wordWrite
  try dsimp only
  repeat' first
    | exact hal.mono rfl
    | with_reducible assumption
    | with_reducible apply setLat_kept (hal.mono rfl)
    | with_reducible apply regWrite_kept (hal.mono rfl)
    | intro _
    | with_reducible apply kept_ite
    | split
    | dsimp only

theorem portRsp_kept (hal : Allow al [.csr]) (h : Kept al s0 s) (r : RegRsp) : Kept al s0 (portRsp s r) :=
    (keptCsr (hal.mono rfl)).2 h

theorem regPort_kept
    (hal : Allow al [.csr, .evt, .jrn, .ports, .ntc, .adm, .tt, .results, .map, .vnr, .chans, .sbus, .devEnd, .cure, .tier, .conns, .ten, .arm, .fw, .pwr, .dram]) (h : Kept al s0 s) (wr : Bool) (off : Nat) (v : Word32) (env : RegEnv) : Kept al s0 (regPort s wr off v env) := by
  unfold regPort
  repeat' first
    | exact hal.mono rfl | with_reducible assumption | with_reducible apply wordWrite_kept (hal.mono rfl)
    | with_reducible apply portRsp_kept (hal.mono rfl)
    | with_reducible apply wordRead_kept (hal.mono rfl) | with_reducible apply kept_ite

end Sys2Proof.Machine
end

