-- ==== Sys2Proof/Laws/KeptMbx.lean ====
section
/-!
SUPPORT. What the operations of Machine/Mbx.lean keep.
-/
namespace Sys2Proof.Machine
set_option linter.all false
set_option Elab.async false
open Sys2Proof

variable {al : Part → Bool} {s0 s : State}

theorem fwOk_kept (_hal : Allow al []) (h : Kept al s0 s) (data : List Byte) : Kept al s0 (fwOk s data).1 := h

theorem fwNo_kept (_hal : Allow al []) (h : Kept al s0 s) (status : Nat) : Kept al s0 (fwNo s status).1 := h

theorem fwWait_kept (_hal : Allow al []) (h : Kept al s0 s) : Kept al s0 (fwWait s).1 := h

theorem mbxAnswer_kept (hal : Allow al [.fw]) (h : Kept al s0 s) (m : Fin 4) (req : List Byte) (status : Nat)
    (data : List Byte) : Kept al s0 (mbxAnswer s m req status data) :=
  (keptFw (s := s) (hal.mono rfl)).2 h

theorem mbxDo_kept (hal : Allow al [.fw]) (h : Kept al s0 s) (m : Fin 4) (op : Nat) (len : Nat → Bool)
    (f : State → List Byte → FwAns) (h_f : ∀ (t : State) (a1 : List Byte), Kept al s0 t → Kept al s0 (f t a1).1) : Kept al
    s0 (mbxDo s m op len f) := by
  unfold mbxDo
  repeat' first
    | exact hal.mono rfl | with_reducible assumption | with_reducible apply mbxAnswer_kept (hal.mono rfl)
    | with_reducible apply kept_ite | split
    | refine kept_fst (by with_reducible assumption) (h_f _ _ ?_)

theorem mbxCmd_kept (hal : Allow al [.fw]) (h : Kept al s0 s) (m : Fin 4) (op n : Nat) (f : State → List Byte → FwAns)
    (h_f : ∀ (t : State) (a1 : List Byte), Kept al s0 t → Kept al s0 (f t a1).1) : Kept al s0 (mbxCmd s m op n f) := by
  unfold mbxCmd
  repeat' first | exact hal.mono rfl | with_reducible assumption | with_reducible apply mbxDo_kept (hal.mono rfl)

theorem fwArgs_kept (hal : Allow al []) (h : Kept al s0 s) (good : Bool) (k : FwAns) (h_k : Kept al s0 k.1) : Kept al s0
    (fwArgs s good k).1 := by
  unfold fwArgs
  repeat' first | exact hal.mono rfl | with_reducible assumption | with_reducible apply fwNo_kept (hal.mono rfl) | split

theorem fwPut_kept
    (hal : Allow al [.csr, .evt, .jrn, .ports, .ntc, .adm, .tt, .results, .map, .vnr, .chans, .sbus, .devEnd, .cure, .tier, .conns, .ten, .arm, .fw, .pwr, .dram]) (h : Kept al s0 s) (r : RegRef) (v : Word64) : Kept al s0 (fwPut s r v) := by
  unfold fwPut
  repeat' first | exact hal.mono rfl | with_reducible assumption | with_reducible apply regWriteAt_kept (hal.mono rfl)

theorem fwSet_kept
    (hal : Allow al [.csr, .evt, .jrn, .ports, .ntc, .adm, .tt, .results, .map, .vnr, .chans, .sbus, .devEnd, .cure, .tier, .conns, .ten, .arm, .fw, .pwr, .dram]) (h : Kept al s0 s) (r : RegRef) (fs : List (Nat × Nat × Nat)) : Kept al s0 (fwSet s r fs) := by
  unfold fwSet
  repeat' first | exact hal.mono rfl | with_reducible assumption | with_reducible apply fwPut_kept (hal.mono rfl)

theorem fwCommit_kept
    (hal : Allow al [.csr, .evt, .jrn, .ports, .ntc, .adm, .tt, .results, .map, .vnr, .chans, .sbus, .devEnd, .cure, .tier, .conns, .ten, .arm, .fw, .pwr, .dram]) (h : Kept al s0 s) (mask at_ : Nat) : Kept al s0 (fwCommit s mask at_) := by
  unfold fwCommit
  try dsimp only
  repeat' first
    | exact hal.mono rfl
    | with_reducible assumption
    | with_reducible apply fwPut_kept (hal.mono rfl)
    | intro _
    | with_reducible apply kept_ite
    | split
    | dsimp only

theorem fwCommitCmd_kept
    (hal : Allow al [.csr, .evt, .jrn, .ports, .ntc, .adm, .tt, .results, .map, .vnr, .chans, .sbus, .devEnd, .cure, .tier, .conns, .ten, .arm, .fw, .pwr, .dram]) (h : Kept al s0 s) (mask at_ : Nat) (put after : State → State) (h_put : ∀ (t : State), Kept al s0 t → Kept al s0 (put t)) (h_after : ∀ (t : State), Kept al s0 t → Kept al s0 (after t)) : Kept al s0 (fwCommitCmd s mask at_ put after).1 := by
  unfold fwCommitCmd
  repeat' first
    | exact hal.mono rfl | with_reducible assumption | with_reducible apply fwNo_kept (hal.mono rfl)
    | with_reducible apply fwCommit_kept (hal.mono rfl)
    | with_reducible apply fwOk_kept (hal.mono rfl) | with_reducible apply confWrite_kept (hal.mono rfl)
    | with_reducible apply h_put
    | with_reducible apply h_after | split | dsimp only

theorem identify_kept (hal : Allow al []) (h : Kept al s0 s) (u0 : List Byte) : Kept al s0 (identify s u0).1 := h

theorem getState_kept (hal : Allow al []) (h : Kept al s0 s) (u0 : List Byte) : Kept al s0 (getState s u0).1 := h

theorem setDeviceId_kept
    (hal : Allow al [.csr, .evt, .jrn, .ports, .ntc, .adm, .tt, .results, .map, .vnr, .chans, .sbus, .devEnd, .cure, .tier, .conns, .ten, .arm, .fw, .pwr, .dram]) (h : Kept al s0 s) (a : List Byte) : Kept al s0 (setDeviceId s a).1 := by
  unfold setDeviceId
  repeat' first
    | exact hal.mono rfl | with_reducible assumption | with_reducible apply fwArgs_kept (hal.mono rfl)
    | with_reducible apply fwNo_kept (hal.mono rfl)
    | with_reducible apply fwOk_kept (hal.mono rfl) | with_reducible apply confWrite_kept (hal.mono rfl)
    | with_reducible apply fwPut_kept (hal.mono rfl) | split

theorem setProfile_kept
    (hal : Allow al [.csr, .evt, .jrn, .ports, .ntc, .adm, .tt, .results, .map, .vnr, .chans, .sbus, .devEnd, .cure, .tier, .conns, .ten, .arm, .fw, .pwr, .dram]) (h : Kept al s0 s) (a : List Byte) : Kept al s0 (setProfile s a).1 := by
  unfold setProfile
  repeat' first
    | exact hal.mono rfl | with_reducible assumption | with_reducible apply fwArgs_kept (hal.mono rfl)
    | with_reducible apply fwCommitCmd_kept (hal.mono rfl)
    | with_reducible apply fwSet_kept (hal.mono rfl) | with_reducible apply modFw_kept (hal.mono rfl)
    | with_reducible apply fwNo_kept (hal.mono rfl)
    | with_reducible apply foldl_kept | intro _ | split

theorem svnAdvance_kept (hal : Allow al [.csr, .evt, .jrn]) (h : Kept al s0 s) (a : List Byte) : Kept al s0
    (svnAdvance s a).1 := by
  unfold svnAdvance
  try dsimp only
  repeat' first
    | exact hal.mono rfl
    | with_reducible assumption
    | with_reducible apply fwArgs_kept (hal.mono rfl)
    | with_reducible apply fwNo_kept (hal.mono rfl)
    | with_reducible apply evd_kept (hal.mono rfl)
    | with_reducible apply setFld_kept (hal.mono rfl)
    | with_reducible apply fwOk_kept (hal.mono rfl)
    | intro _
    | with_reducible apply kept_ite
    | split
    | refine kept_fst (by with_reducible assumption) (fwArgs_kept (hal.mono rfl) ?_ ..)
    | refine kept_fst (by with_reducible assumption) (fwNo_kept (hal.mono rfl) ?_ ..)
    | refine kept_fst (by with_reducible assumption) (fwOk_kept (hal.mono rfl) ?_ ..)
    | exact KeptOpt.none _
    | with_reducible apply KeptOpt.some
    | with_reducible apply KeptOpt.getD
    | with_reducible apply KeptOpt.then
    | with_reducible apply KeptOpt.map
    | with_reducible apply KeptOpt.findSome
    | refine KeptOpt.get (by with_reducible assumption) ?_
    | dsimp only

theorem setAccess_kept (hal : Allow al [.csr, .map, .fw, .dram]) (h : Kept al s0 s) (m : Fin 4) (a : List Byte) : Kept al
    s0 (setAccess m s a).1 := by
  unfold setAccess
  repeat' first
    | exact hal.mono rfl | with_reducible assumption | with_reducible apply fwNo_kept (hal.mono rfl)
    | with_reducible apply fwArgs_kept (hal.mono rfl)
    | with_reducible apply fwOk_kept (hal.mono rfl) | with_reducible apply confWrite_kept (hal.mono rfl)
    | with_reducible apply modFw_kept (hal.mono rfl) | split
    | dsimp only

theorem imgkeyProgram_kept (hal : Allow al [.csr]) (h : Kept al s0 s) (m : Fin 4) (a : List Byte) : Kept al s0
    (imgkeyProgram m s a).1 := by
  unfold imgkeyProgram
  repeat' first
    | exact hal.mono rfl | with_reducible assumption | with_reducible apply fwNo_kept (hal.mono rfl)
    | with_reducible apply fwArgs_kept (hal.mono rfl)
    | with_reducible apply forEach_kept | with_reducible apply setReg_kept (hal.mono rfl)
    | with_reducible apply fwOk_kept (hal.mono rfl)
    | with_reducible apply setFld_kept (hal.mono rfl) | intro _ | split

theorem imgkeyRevoke_kept (hal : Allow al [.csr]) (h : Kept al s0 s) (a : List Byte) : Kept al s0 (imgkeyRevoke s a).1 := by
  unfold imgkeyRevoke
  repeat' first
    | exact hal.mono rfl | with_reducible assumption | with_reducible apply fwArgs_kept (hal.mono rfl)
    | with_reducible apply fwNo_kept (hal.mono rfl)
    | with_reducible apply fwOk_kept (hal.mono rfl) | with_reducible apply setFld_kept (hal.mono rfl) | split

theorem setHoldup_kept (hal : Allow al [.csr, .map, .fw, .dram]) (h : Kept al s0 s) (a : List Byte) : Kept al s0
    (setHoldup s a).1 := by
  unfold setHoldup
  repeat' first
    | exact hal.mono rfl | with_reducible assumption | with_reducible apply modFw_kept (hal.mono rfl)
    | with_reducible apply fwOk_kept (hal.mono rfl)
    | with_reducible apply confWrite_kept (hal.mono rfl) | with_reducible apply fwNo_kept (hal.mono rfl) | split | dsimp only

theorem pwrState_kept
    (hal : Allow al [.csr, .evt, .jrn, .ports, .ntc, .adm, .tt, .results, .map, .vnr, .chans, .sbus, .devEnd, .cure, .tier, .conns, .ten, .arm, .fw, .pwr, .dram]) (h : Kept al s0 s) (a : List Byte) : Kept al s0 (pwrState s a).1 := by
  unfold pwrState
  repeat' first
    | exact hal.mono rfl | with_reducible assumption | with_reducible apply fwArgs_kept (hal.mono rfl)
    | with_reducible apply fwPut_kept (hal.mono rfl)
    | with_reducible apply fwNo_kept (hal.mono rfl) | with_reducible apply fwOk_kept (hal.mono rfl) | split | dsimp only

theorem pwrStatus_kept (_hal : Allow al []) (h : Kept al s0 s) (u0 : List Byte) : Kept al s0 (pwrStatus s u0).1 := h

theorem regReadCmd_kept (hal : Allow al [.csr, .jrn, .fw]) (h : Kept al s0 s) (bad : Nat) (a : List Byte) : Kept al s0
    (regReadCmd bad s a).1 := by
  unfold regReadCmd
  repeat' first
    | exact hal.mono rfl | with_reducible assumption | with_reducible apply fwArgs_kept (hal.mono rfl)
    | with_reducible apply fwOk_kept (hal.mono rfl)
    | with_reducible apply fwNo_kept (hal.mono rfl) | with_reducible apply setLat_kept (hal.mono rfl)
    | with_reducible apply regRead_kept (hal.mono rfl) | split
    | refine kept_snd (by with_reducible assumption) (wordRead_kept (hal.mono rfl) ?_ ..)

theorem regWriteCmd_kept
    (hal : Allow al [.csr, .evt, .jrn, .ports, .ntc, .adm, .tt, .results, .map, .vnr, .chans, .sbus, .devEnd, .cure, .tier, .conns, .ten, .arm, .fw, .pwr, .dram]) (h : Kept al s0 s) (env : RegEnv) (a : List Byte) : Kept al s0 (regWriteCmd env s a).1 := by
  unfold regWriteCmd
  repeat' first
    | exact hal.mono rfl | with_reducible assumption | with_reducible apply fwArgs_kept (hal.mono rfl)
    | with_reducible apply fwNo_kept (hal.mono rfl)
    | with_reducible apply fwOk_kept (hal.mono rfl) | with_reducible apply setLat_kept (hal.mono rfl)
    | with_reducible apply regWrite_kept (hal.mono rfl) | split
    | refine kept_snd (by with_reducible assumption) (wordWrite_kept (hal.mono rfl) ?_ ..)

theorem eventForce_kept
    (hal : Allow al [.csr, .evt, .jrn, .ports, .ntc, .adm, .tt, .results, .map, .vnr, .chans, .sbus, .devEnd, .cure, .tier, .conns, .ten, .arm, .fw, .pwr, .dram]) (h : Kept al s0 s) (a : List Byte) : Kept al s0 (eventForce s a).1 := by
  unfold eventForce
  repeat' first
    | exact hal.mono rfl | with_reducible assumption | with_reducible apply fwArgs_kept (hal.mono rfl)
    | with_reducible apply fwOk_kept (hal.mono rfl)
    | with_reducible apply fwPut_kept (hal.mono rfl)

theorem journalRead_kept (hal : Allow al [.csr, .jrn]) (h : Kept al s0 s) (bads : List (Fin 3)) (a : List Byte) : Kept al
    s0 (journalRead bads s a).1 := by
  unfold journalRead
  repeat' first
    | exact hal.mono rfl | with_reducible assumption | with_reducible apply fwArgs_kept (hal.mono rfl)
    | with_reducible apply jrnPop_kept (hal.mono rfl)
    | with_reducible apply fwOk_kept (hal.mono rfl) | with_reducible apply foldl_kept_fst | intro _ | split

theorem snapshotCmd_kept
    (hal : Allow al [.csr, .evt, .jrn, .ports, .ntc, .adm, .tt, .results, .map, .vnr, .chans, .sbus, .devEnd, .cure, .tier, .conns, .ten, .arm, .fw, .pwr, .dram]) (h : Kept al s0 s) (u0 : List Byte) : Kept al s0 (snapshotCmd s u0).1 := by
  unfold snapshotCmd
  try dsimp only
  repeat' first
    | exact hal.mono rfl
    | with_reducible assumption
    | with_reducible apply fwPut_kept (hal.mono rfl)
    | with_reducible apply fwOk_kept (hal.mono rfl)
    | intro _
    | with_reducible apply kept_ite
    | split
    | refine kept_fst (by with_reducible assumption) (fwOk_kept (hal.mono rfl) ?_ ..)
    | dsimp only

theorem badOpcode_kept (hal : Allow al [.fw]) (h : Kept al s0 s) (m : Fin 4) : Kept al s0 (badOpcode s m) := by
  unfold badOpcode
  repeat' first | exact hal.mono rfl | with_reducible assumption | with_reducible apply mbxAnswer_kept (hal.mono rfl) | split

end Sys2Proof.Machine
end

