-- ==== Sys2Proof/Laws/KeptMbxMem.lean ====
section
/-!
SUPPORT. What the operations of Machine/MbxMem.lean keep.
-/
namespace Sys2Proof.Machine
set_option linter.all false
set_option Elab.async false
open Sys2Proof

variable {al : Part → Bool} {s0 s : State}

theorem fwRead_kept (hal : Allow al [.csr, .jrn, .fw]) (h : Kept al s0 s) (r : RegRef) : Kept al s0 (fwRead s r).2 := by
  unfold fwRead
  repeat' first | exact hal.mono rfl | with_reducible assumption | with_reducible apply regRead_kept (hal.mono rfl) | split

theorem fwStep_kept (hal : Allow al [.fw]) (h : Kept al s0 s) (m : Fin 4) (n : Nat) : Kept al s0 (fwStep s m n) :=
    (keptFw (s := s) (hal.mono rfl)).2 h

theorem holdData_kept (hal : Allow al [.csr, .jrn, .fw]) (h : Kept al s0 s) (c : Fin 16) : Kept al s0 (holdData s c).2 := by
  unfold holdData
  repeat' first | exact hal.mono rfl | with_reducible assumption | with_reducible apply fwRead_kept (hal.mono rfl)

theorem holdCmd_kept
    (hal : Allow al [.csr, .evt, .jrn, .ports, .ntc, .adm, .tt, .results, .map, .vnr, .chans, .sbus, .devEnd, .cure, .tier, .conns, .ten, .arm, .fw, .pwr, .dram]) (h : Kept al s0 s) (m : Fin 4) (c : Fin 16) (change : State → State) (ans : List Byte → List Byte) (h_change : ∀ (t : State), Kept al s0 t → Kept al s0 (change t)) : Kept al s0 (holdCmd s m c change ans).1 := by
  unfold holdCmd
  repeat' first
    | exact hal.mono rfl | with_reducible assumption | with_reducible apply fwNo_kept (hal.mono rfl)
    | with_reducible apply fwWait_kept (hal.mono rfl)
    | with_reducible apply fwStep_kept (hal.mono rfl) | with_reducible apply fwPut_kept (hal.mono rfl)
    | with_reducible apply fwRead_kept (hal.mono rfl)
    | with_reducible apply fwOk_kept (hal.mono rfl) | with_reducible apply h_change | split | dsimp only
    | refine kept_snd (by with_reducible assumption) (holdData_kept (hal.mono rfl) ?_ ..)

theorem getConfig_kept (hal : Allow al []) (h : Kept al s0 s) (u0 : List Byte) : Kept al s0 (getConfig s u0).1 := h

theorem layoutWrite_kept
    (hal : Allow al [.csr, .evt, .jrn, .ports, .ntc, .adm, .tt, .results, .map, .vnr, .chans, .sbus, .devEnd, .cure, .tier, .conns, .ten, .arm, .fw, .pwr, .dram]) (h : Kept al s0 s) (tier : Bool) (top : Nat) : Kept al s0 (layoutWrite s tier top) := by
  unfold layoutWrite
  try dsimp only
  repeat' first
    | exact hal.mono rfl
    | with_reducible assumption
    | with_reducible apply fwSet_kept (hal.mono rfl)
    | with_reducible apply forEach_kept
    | intro _
    | with_reducible apply kept_ite
    | split
    | exact KeptOpt.none _
    | with_reducible apply KeptOpt.some
    | with_reducible apply KeptOpt.getD
    | with_reducible apply KeptOpt.then
    | with_reducible apply KeptOpt.map
    | with_reducible apply KeptOpt.findSome
    | refine KeptOpt.get (by with_reducible assumption) ?_
    | dsimp only

theorem setLayout_kept
    (hal : Allow al [.csr, .evt, .jrn, .ports, .ntc, .adm, .tt, .results, .map, .vnr, .chans, .sbus, .devEnd, .cure, .tier, .conns, .ten, .arm, .fw, .pwr, .dram]) (h : Kept al s0 s) (m : Fin 4) (a : List Byte) : Kept al s0 (setLayout m s a).1 := by
  unfold setLayout
  repeat' first
    | exact hal.mono rfl | with_reducible assumption | with_reducible apply fwArgs_kept (hal.mono rfl)
    | with_reducible apply fwNo_kept (hal.mono rfl)
    | with_reducible apply fwWait_kept (hal.mono rfl) | with_reducible apply fwStep_kept (hal.mono rfl)
    | with_reducible apply fwPut_kept (hal.mono rfl)
    | with_reducible apply layoutWrite_kept (hal.mono rfl) | with_reducible apply fwOk_kept (hal.mono rfl)
    | with_reducible apply confWrite_kept (hal.mono rfl) | split

theorem setTiming_kept
    (hal : Allow al [.csr, .evt, .jrn, .ports, .ntc, .adm, .tt, .results, .map, .vnr, .chans, .sbus, .devEnd, .cure, .tier, .conns, .ten, .arm, .fw, .pwr, .dram]) (h : Kept al s0 s) (m : Fin 4) (a : List Byte) : Kept al s0 (setTiming m s a).1 := by
  unfold setTiming
  repeat' first
    | exact hal.mono rfl | with_reducible assumption | with_reducible apply fwArgs_kept (hal.mono rfl)
    | with_reducible apply holdCmd_kept (hal.mono rfl)
    | with_reducible apply forEach_kept | with_reducible apply fwPut_kept (hal.mono rfl) | intro _

theorem setRegion_kept
    (hal : Allow al [.csr, .evt, .jrn, .ports, .ntc, .adm, .tt, .results, .map, .vnr, .chans, .sbus, .devEnd, .cure, .tier, .conns, .ten, .arm, .fw, .pwr, .dram]) (h : Kept al s0 s) (a : List Byte) : Kept al s0 (setRegion s a).1 := by
  unfold setRegion
  repeat' first
    | exact hal.mono rfl | with_reducible assumption | with_reducible apply fwArgs_kept (hal.mono rfl)
    | with_reducible apply fwCommitCmd_kept (hal.mono rfl)
    | with_reducible apply fwSet_kept (hal.mono rfl) | intro _

theorem getRegion_kept (hal : Allow al []) (h : Kept al s0 s) (a : List Byte) : Kept al s0 (getRegion s a).1 := by
  unfold getRegion
  try dsimp only
  repeat' first
    | exact hal.mono rfl
    | with_reducible assumption
    | with_reducible apply fwArgs_kept (hal.mono rfl)
    | with_reducible apply fwOk_kept (hal.mono rfl)
    | intro _
    | with_reducible apply kept_ite
    | split
    | refine kept_fst (by with_reducible assumption) (fwArgs_kept (hal.mono rfl) ?_ ..)
    | refine kept_fst (by with_reducible assumption) (fwOk_kept (hal.mono rfl) ?_ ..)
    | dsimp only

theorem setRanks_kept
    (hal : Allow al [.csr, .evt, .jrn, .ports, .ntc, .adm, .tt, .results, .map, .vnr, .chans, .sbus, .devEnd, .cure, .tier, .conns, .ten, .arm, .fw, .pwr, .dram]) (h : Kept al s0 s) (a : List Byte) : Kept al s0 (setRanks s a).1 := by
  unfold setRanks
  repeat' first
    | exact hal.mono rfl | with_reducible assumption | with_reducible apply fwArgs_kept (hal.mono rfl)
    | with_reducible apply fwCommitCmd_kept (hal.mono rfl)
    | with_reducible apply fwSet_kept (hal.mono rfl) | intro _

theorem setQos_kept
    (hal : Allow al [.csr, .evt, .jrn, .ports, .ntc, .adm, .tt, .results, .map, .vnr, .chans, .sbus, .devEnd, .cure, .tier, .conns, .ten, .arm, .fw, .pwr, .dram]) (h : Kept al s0 s) (a : List Byte) : Kept al s0 (setQos s a).1 := by
  unfold setQos
  repeat' first
    | exact hal.mono rfl | with_reducible assumption | with_reducible apply fwArgs_kept (hal.mono rfl)
    | with_reducible apply fwCommitCmd_kept (hal.mono rfl)
    | with_reducible apply forEach_kept | with_reducible apply fwPut_kept (hal.mono rfl) | intro _

theorem getForecast_kept (hal : Allow al []) (h : Kept al s0 s) (a : List Byte) : Kept al s0 (getForecast s a).1 := by
  unfold getForecast
  try dsimp only
  repeat' first
    | exact hal.mono rfl
    | with_reducible assumption
    | with_reducible apply fwArgs_kept (hal.mono rfl)
    | with_reducible apply fwOk_kept (hal.mono rfl)
    | intro _
    | with_reducible apply kept_ite
    | split
    | refine kept_fst (by with_reducible assumption) (fwArgs_kept (hal.mono rfl) ?_ ..)
    | refine kept_fst (by with_reducible assumption) (fwOk_kept (hal.mono rfl) ?_ ..)
    | dsimp only

theorem setChoreo_kept
    (hal : Allow al [.csr, .evt, .jrn, .ports, .ntc, .adm, .tt, .results, .map, .vnr, .chans, .sbus, .devEnd, .cure, .tier, .conns, .ten, .arm, .fw, .pwr, .dram]) (h : Kept al s0 s) (a : List Byte) : Kept al s0 (setChoreo s a).1 := by
  unfold setChoreo
  repeat' first
    | exact hal.mono rfl | with_reducible assumption | with_reducible apply fwArgs_kept (hal.mono rfl)
    | with_reducible apply fwCommitCmd_kept (hal.mono rfl)
    | with_reducible apply forEach_kept | with_reducible apply fwSet_kept (hal.mono rfl) | intro _

theorem getHealth_kept (hal : Allow al []) (h : Kept al s0 s) (a : List Byte) : Kept al s0 (getHealth s a).1 := by
  unfold getHealth
  try dsimp only
  repeat' first
    | exact hal.mono rfl
    | with_reducible assumption
    | with_reducible apply fwArgs_kept (hal.mono rfl)
    | with_reducible apply fwOk_kept (hal.mono rfl)
    | intro _
    | with_reducible apply kept_ite
    | split
    | refine kept_fst (by with_reducible assumption) (fwArgs_kept (hal.mono rfl) ?_ ..)
    | refine kept_fst (by with_reducible assumption) (fwOk_kept (hal.mono rfl) ?_ ..)
    | dsimp only

theorem setMarkCmd_kept (hal : Allow al [.csr, .evt, .jrn, .chans]) (h : Kept al s0 s) (a : List Byte) : Kept al s0
    (setMarkCmd s a).1 := by
  unfold setMarkCmd
  repeat' first
    | exact hal.mono rfl | with_reducible assumption | with_reducible apply fwArgs_kept (hal.mono rfl)
    | with_reducible apply markWrite_kept (hal.mono rfl)
    | with_reducible apply fwNo_kept (hal.mono rfl) | with_reducible apply fwOk_kept (hal.mono rfl) | split | dsimp only

theorem clearMarkCmd_kept
    (hal : Allow al [.csr, .evt, .jrn, .ports, .ntc, .adm, .tt, .results, .map, .vnr, .chans, .sbus, .devEnd, .cure, .tier, .conns, .ten, .arm, .fw, .pwr, .dram]) (h : Kept al s0 s) (m : Fin 4) (a : List Byte) : Kept al s0 (clearMarkCmd m s a).1 := by
  unfold clearMarkCmd
  repeat' first
    | exact hal.mono rfl | with_reducible assumption | with_reducible apply fwArgs_kept (hal.mono rfl)
    | with_reducible apply holdCmd_kept (hal.mono rfl)
    | with_reducible apply markClear_kept (hal.mono rfl) | intro _

theorem inlayAdd_kept (hal : Allow al [.csr, .evt, .jrn, .chans]) (h : Kept al s0 s) (a : List Byte) : Kept al s0
    (inlayAdd s a).1 := by
  unfold inlayAdd
  repeat' first
    | exact hal.mono rfl | with_reducible assumption | with_reducible apply fwArgs_kept (hal.mono rfl)
    | with_reducible apply fwNo_kept (hal.mono rfl)
    | with_reducible apply inlWrite_kept (hal.mono rfl) | with_reducible apply fwOk_kept (hal.mono rfl) | split

theorem pprSchedule_kept (hal : Allow al [.csr, .map, .fw, .dram]) (h : Kept al s0 s) (a : List Byte) : Kept al s0
    (pprSchedule s a).1 := by
  unfold pprSchedule
  repeat' first
    | exact hal.mono rfl | with_reducible assumption | with_reducible apply fwArgs_kept (hal.mono rfl)
    | with_reducible apply fwNo_kept (hal.mono rfl)
    | with_reducible apply fwOk_kept (hal.mono rfl) | with_reducible apply pprRecords_kept (hal.mono rfl)
    | with_reducible apply modFw_kept (hal.mono rfl) | split

theorem setScrub_kept
    (hal : Allow al [.csr, .evt, .jrn, .ports, .ntc, .adm, .tt, .results, .map, .vnr, .chans, .sbus, .devEnd, .cure, .tier, .conns, .ten, .arm, .fw, .pwr, .dram]) (h : Kept al s0 s) (a : List Byte) : Kept al s0 (setScrub s a).1 := by
  unfold setScrub
  extract_lets t ns s1
  have h1 : Kept al s0 s1 := by
    refine forEach_kept h _ _ fun s c hs => ?_
    exact kept_ite (fwSet_kept (hal.mono rfl) hs ..) (fwSet_kept (hal.mono rfl) (fwSet_kept (hal.mono rfl) hs ..) ..)
  clear_value s1
  exact fwArgs_kept (hal.mono rfl) h _ _ (fwOk_kept (hal.mono rfl) h1 _)

theorem diagPass_kept
    (hal : Allow al [.csr, .evt, .jrn, .ports, .ntc, .adm, .tt, .results, .map, .vnr, .chans, .sbus, .devEnd, .cure, .tier, .conns, .ten, .arm, .fw, .pwr, .dram]) (h : Kept al s0 s) (a : List Byte) : Kept al s0 (diagPass s a).1 := by
  unfold diagPass
  repeat' first
    | exact hal.mono rfl | with_reducible assumption | with_reducible apply fwArgs_kept (hal.mono rfl)
    | with_reducible apply fwRead_kept (hal.mono rfl)
    | with_reducible apply fwOk_kept (hal.mono rfl) | with_reducible apply fwNo_kept (hal.mono rfl)
    | with_reducible apply fwSet_kept (hal.mono rfl)
    | with_reducible apply fwPut_kept (hal.mono rfl) | split | dsimp only

theorem rangeOp_kept
    (hal : Allow al [.csr, .evt, .jrn, .ports, .ntc, .adm, .tt, .results, .map, .vnr, .chans, .sbus, .devEnd, .cure, .tier, .conns, .ten, .arm, .fw, .pwr, .dram]) (h : Kept al s0 s) (a : List Byte) : Kept al s0 (rangeOp s a).1 := by
  unfold rangeOp
  repeat' first
    | exact hal.mono rfl | with_reducible assumption | with_reducible apply fwArgs_kept (hal.mono rfl)
    | with_reducible apply fwNo_kept (hal.mono rfl)
    | with_reducible apply fwSet_kept (hal.mono rfl) | with_reducible apply fwPut_kept (hal.mono rfl)
    | with_reducible apply fwOk_kept (hal.mono rfl) | split
    | dsimp only

theorem vnrEnable_kept
    (hal : Allow al [.csr, .evt, .jrn, .ports, .ntc, .adm, .tt, .results, .map, .vnr, .chans, .sbus, .devEnd, .cure, .tier, .conns, .ten, .arm, .fw, .pwr, .dram]) (h : Kept al s0 s) (a : List Byte) : Kept al s0 (vnrEnable s a).1 := by
  unfold vnrEnable
  repeat' first
    | exact hal.mono rfl | with_reducible assumption | with_reducible apply fwArgs_kept (hal.mono rfl)
    | with_reducible apply fwOk_kept (hal.mono rfl)
    | with_reducible apply fwPut_kept (hal.mono rfl)

theorem vnrStatus_kept (hal : Allow al []) (h : Kept al s0 s) (u0 : List Byte) : Kept al s0 (vnrStatus s u0).1 := h

theorem setDirtyBudget_kept
    (hal : Allow al [.csr, .evt, .jrn, .ports, .ntc, .adm, .tt, .results, .map, .vnr, .chans, .sbus, .devEnd, .cure, .tier, .conns, .ten, .arm, .fw, .pwr, .dram]) (h : Kept al s0 s) (a : List Byte) : Kept al s0 (setDirtyBudget s a).1 := by
  unfold setDirtyBudget
  repeat' first
    | exact hal.mono rfl | with_reducible assumption | with_reducible apply fwArgs_kept (hal.mono rfl)
    | with_reducible apply fwCommitCmd_kept (hal.mono rfl)
    | with_reducible apply fwSet_kept (hal.mono rfl) | with_reducible apply modFw_kept (hal.mono rfl)
    | with_reducible apply fwNo_kept (hal.mono rfl) | intro _ | split

end Sys2Proof.Machine
end

