-- ==== Sys2Proof/Laws/KeptMbxCure.lean ====
section
/-!
SUPPORT. What the operations of Machine/MbxCure.lean keep.
-/
namespace Sys2Proof.Machine
set_option linter.all false
set_option Elab.async false
open Sys2Proof

variable {al : Part → Bool} {s0 s : State}

theorem setTwin_kept
    (hal : Allow al [.csr, .evt, .jrn, .ports, .ntc, .adm, .tt, .results, .map, .vnr, .chans, .sbus, .devEnd, .cure, .tier, .conns, .ten, .arm, .fw, .pwr, .dram]) (h : Kept al s0 s) (a : List Byte) : Kept al s0 (setTwin s a).1 := by
  unfold setTwin
  repeat' first
    | exact hal.mono rfl | with_reducible assumption | with_reducible apply fwArgs_kept (hal.mono rfl)
    | with_reducible apply fwNo_kept (hal.mono rfl)
    | with_reducible apply fwCommitCmd_kept (hal.mono rfl) | with_reducible apply fwSet_kept (hal.mono rfl)
    | with_reducible apply modFw_kept (hal.mono rfl) | intro _
    | split

theorem curCtl_kept
    (hal : Allow al [.csr, .evt, .jrn, .ports, .ntc, .adm, .tt, .results, .map, .vnr, .chans, .sbus, .devEnd, .cure, .tier, .conns, .ten, .arm, .fw, .pwr, .dram]) (h : Kept al s0 s) (v : Nat) : Kept al s0 (curCtl s v) := by
  unfold curCtl
  repeat' first | exact hal.mono rfl | with_reducible assumption | with_reducible apply fwPut_kept (hal.mono rfl)

theorem attachCmd_kept
    (hal : Allow al [.csr, .evt, .jrn, .ports, .ntc, .adm, .tt, .results, .map, .vnr, .chans, .sbus, .devEnd, .cure, .tier, .conns, .ten, .arm, .fw, .pwr, .dram]) (h : Kept al s0 s) (u0 : List Byte) : Kept al s0 (attachCmd s u0).1 := by
  unfold attachCmd
  repeat' first
    | exact hal.mono rfl | with_reducible assumption | with_reducible apply fwNo_kept (hal.mono rfl)
    | with_reducible apply curCtl_kept (hal.mono rfl)
    | with_reducible apply fwOk_kept (hal.mono rfl) | split | dsimp only

theorem degradeCmd_kept
    (hal : Allow al [.csr, .evt, .jrn, .ports, .ntc, .adm, .tt, .results, .map, .vnr, .chans, .sbus, .devEnd, .cure, .tier, .conns, .ten, .arm, .fw, .pwr, .dram]) (h : Kept al s0 s) (u0 : List Byte) : Kept al s0 (degradeCmd s u0).1 := by
  unfold degradeCmd
  repeat' first
    | exact hal.mono rfl | with_reducible assumption | with_reducible apply curCtl_kept (hal.mono rfl)
    | with_reducible apply fwOk_kept (hal.mono rfl)
    | with_reducible apply fwNo_kept (hal.mono rfl) | split | dsimp only

theorem getCure_kept (hal : Allow al []) (h : Kept al s0 s) (u0 : List Byte) : Kept al s0 (getCure s u0).1 := h

theorem fencePut_kept
    (hal : Allow al [.csr, .evt, .jrn, .ports, .ntc, .adm, .tt, .results, .map, .vnr, .chans, .sbus, .devEnd, .cure, .tier, .conns, .ten, .arm, .fw, .pwr, .dram]) (h : Kept al s0 s) (c op : Nat) : Kept al s0 (fencePut s c op) := by
  unfold fencePut
  repeat' first | exact hal.mono rfl | with_reducible assumption | with_reducible apply fwPut_kept (hal.mono rfl)

theorem fenceMbx_kept
    (hal : Allow al [.csr, .evt, .jrn, .ports, .ntc, .adm, .tt, .results, .map, .vnr, .chans, .sbus, .devEnd, .cure, .tier, .conns, .ten, .arm, .fw, .pwr, .dram]) (h : Kept al s0 s) (a : List Byte) : Kept al s0 (fenceMbx s a).1 := by
  unfold fenceMbx
  repeat' first
    | exact hal.mono rfl | with_reducible assumption | with_reducible apply fwArgs_kept (hal.mono rfl)
    | with_reducible apply fencePut_kept (hal.mono rfl)
    | with_reducible apply fwNo_kept (hal.mono rfl) | with_reducible apply fwOk_kept (hal.mono rfl) | split | dsimp only

theorem setCure_kept
    (hal : Allow al [.csr, .evt, .jrn, .ports, .ntc, .adm, .tt, .results, .map, .vnr, .chans, .sbus, .devEnd, .cure, .tier, .conns, .ten, .arm, .fw, .pwr, .dram]) (h : Kept al s0 s) (a : List Byte) : Kept al s0 (setCure s a).1 := by
  unfold setCure
  repeat' first
    | exact hal.mono rfl | with_reducible assumption | with_reducible apply fwArgs_kept (hal.mono rfl)
    | with_reducible apply fwCommitCmd_kept (hal.mono rfl)
    | with_reducible apply fwSet_kept (hal.mono rfl) | intro _

theorem blankLineGet_kept (hal : Allow al []) (h : Kept al s0 s) (a : List Byte) : Kept al s0 (blankLineGet s a).1 := by
  unfold blankLineGet
  try dsimp only
  repeat' first
    | exact hal.mono rfl
    | with_reducible assumption
    | with_reducible apply fwArgs_kept (hal.mono rfl)
    | with_reducible apply fwOk_kept (hal.mono rfl)
    | intro _
    | with_reducible apply kept_ite
    | split
    | refine kept_fst (by with_reducible assumption) (fwArgs_kept (hal.mono rfl) ?_ ..)
    | refine kept_fst (by with_reducible assumption) (fwOk_kept (hal.mono rfl) ?_ ..)
    | dsimp only

theorem blankRepair_kept (hal : Allow al [.adm]) (h : Kept al s0 s) (x : Nat) (line : LineData) : Kept al s0
    (blankRepair s x line) := by
  unfold blankRepair
  repeat' first
    | exact hal.mono rfl | with_reducible assumption | with_reducible apply forEach_kept
    | with_reducible apply armReq_kept (hal.mono rfl) | intro _
    | with_reducible apply kept_ite

theorem placeRepair_kept
    (hal : Allow al [.csr, .evt, .jrn, .ports, .ntc, .adm, .tt, .results, .map, .vnr, .chans, .sbus, .devEnd, .cure, .tier, .conns, .ten, .arm, .fw, .pwr, .dram]) (h : Kept al s0 s) (m : Fin 4) (x : Nat) : Kept al s0 (placeRepair m s x).1 := by
  unfold placeRepair
  repeat' first
    | exact hal.mono rfl | with_reducible assumption | with_reducible apply fwNo_kept (hal.mono rfl)
    | with_reducible apply fwWait_kept (hal.mono rfl)
    | with_reducible apply fwStep_kept (hal.mono rfl) | with_reducible apply fencePut_kept (hal.mono rfl)
    | with_reducible apply fwOk_kept (hal.mono rfl) | split
    | dsimp only

theorem mapRepair_kept
    (hal : Allow al [.csr, .evt, .jrn, .ports, .ntc, .adm, .tt, .results, .map, .vnr, .chans, .sbus, .devEnd, .cure, .tier, .conns, .ten, .arm, .fw, .pwr, .dram]) (h : Kept al s0 s) (m : Fin 4) (a : List Byte) : Kept al s0 (mapRepair m s a).1 := by
  unfold mapRepair
  repeat' first
    | exact hal.mono rfl | with_reducible assumption | with_reducible apply fwArgs_kept (hal.mono rfl)
    | with_reducible apply fwOk_kept (hal.mono rfl)
    | with_reducible apply blankRepair_kept (hal.mono rfl) | with_reducible apply placeRepair_kept (hal.mono rfl) | split

theorem twinTimeout_kept
    (hal : Allow al [.csr, .evt, .jrn, .ports, .ntc, .adm, .tt, .results, .map, .vnr, .chans, .sbus, .devEnd, .cure, .tier, .conns, .ten, .arm, .fw, .pwr, .dram]) (h : Kept al s0 s) : Kept al s0 (twinTimeout s) := by
  unfold twinTimeout
  repeat' first
    | exact hal.mono rfl | with_reducible assumption | with_reducible apply curCtl_kept (hal.mono rfl)
    | with_reducible apply modFw_kept (hal.mono rfl)
    | with_reducible apply kept_ite

theorem setTier_kept
    (hal : Allow al [.csr, .evt, .jrn, .ports, .ntc, .adm, .tt, .results, .map, .vnr, .chans, .sbus, .devEnd, .cure, .tier, .conns, .ten, .arm, .fw, .pwr, .dram]) (h : Kept al s0 s) (a : List Byte) : Kept al s0 (setTier s a).1 := by
  unfold setTier
  repeat' first
    | exact hal.mono rfl | with_reducible assumption | with_reducible apply fwArgs_kept (hal.mono rfl)
    | with_reducible apply fwCommitCmd_kept (hal.mono rfl)
    | with_reducible apply fwSet_kept (hal.mono rfl) | intro _

theorem setNeighbour_kept
    (hal : Allow al [.csr, .evt, .jrn, .ports, .ntc, .adm, .tt, .results, .map, .vnr, .chans, .sbus, .devEnd, .cure, .tier, .conns, .ten, .arm, .fw, .pwr, .dram]) (h : Kept al s0 s) (a : List Byte) : Kept al s0 (setNeighbour s a).1 := by
  unfold setNeighbour
  repeat' first
    | exact hal.mono rfl | with_reducible assumption | with_reducible apply fwArgs_kept (hal.mono rfl)
    | with_reducible apply fwNo_kept (hal.mono rfl)
    | with_reducible apply fwCommitCmd_kept (hal.mono rfl) | with_reducible apply fwSet_kept (hal.mono rfl) | intro _ | split

theorem grantHoldPut_kept
    (hal : Allow al [.csr, .evt, .jrn, .ports, .ntc, .adm, .tt, .results, .map, .vnr, .chans, .sbus, .devEnd, .cure, .tier, .conns, .ten, .arm, .fw, .pwr, .dram]) (h : Kept al s0 s) (g : Fin 32) (hold : Bool) : Kept al s0 (grantHoldPut s g hold) := by
  unfold grantHoldPut
  repeat' first | exact hal.mono rfl | with_reducible assumption | with_reducible apply fwPut_kept (hal.mono rfl)

theorem setGrant_kept
    (hal : Allow al [.csr, .evt, .jrn, .ports, .ntc, .adm, .tt, .results, .map, .vnr, .chans, .sbus, .devEnd, .cure, .tier, .conns, .ten, .arm, .fw, .pwr, .dram]) (h : Kept al s0 s) (a : List Byte) : Kept al s0 (setGrant s a).1 := by
  unfold setGrant
  try dsimp only
  repeat' first
    | exact hal.mono rfl
    | with_reducible assumption
    | with_reducible apply fwOk_kept (hal.mono rfl)
    | with_reducible apply confWrite_kept (hal.mono rfl)
    | with_reducible apply fwArgs_kept (hal.mono rfl)
    | with_reducible apply fwPut_kept (hal.mono rfl)
    | with_reducible apply fwNo_kept (hal.mono rfl)
    | with_reducible apply fwSet_kept (hal.mono rfl)
    | with_reducible apply grantHoldPut_kept (hal.mono rfl)
    | intro _
    | with_reducible apply kept_ite
    | split
    | refine kept_fst (by with_reducible assumption) (fwOk_kept (hal.mono rfl) ?_ ..)
    | refine kept_fst (by with_reducible assumption) (fwArgs_kept (hal.mono rfl) ?_ ..)
    | refine kept_fst (by with_reducible assumption) (fwNo_kept (hal.mono rfl) ?_ ..)
    | dsimp only

theorem moveMbx_kept
    (hal : Allow al [.csr, .evt, .jrn, .ports, .ntc, .adm, .tt, .results, .map, .vnr, .chans, .sbus, .devEnd, .cure, .tier, .conns, .ten, .arm, .fw, .pwr, .dram]) (h : Kept al s0 s) (a : List Byte) : Kept al s0 (moveMbx s a).1 := by
  unfold moveMbx
  repeat' first
    | exact hal.mono rfl | with_reducible assumption | with_reducible apply fwArgs_kept (hal.mono rfl)
    | with_reducible apply fwPut_kept (hal.mono rfl)
    | with_reducible apply fwNo_kept (hal.mono rfl) | with_reducible apply fwOk_kept (hal.mono rfl) | split | dsimp only

theorem jigStart_kept
    (hal : Allow al [.csr, .evt, .jrn, .ports, .ntc, .adm, .tt, .results, .map, .vnr, .chans, .sbus, .devEnd, .cure, .tier, .conns, .ten, .arm, .fw, .pwr, .dram]) (h : Kept al s0 s) (far : List (Nat × LineData)) (a : List Byte) : Kept al s0 (jigStart far s a).1 := by
  unfold jigStart
  repeat' first
    | exact hal.mono rfl | with_reducible assumption | with_reducible apply fwArgs_kept (hal.mono rfl)
    | with_reducible apply fwNo_kept (hal.mono rfl)
    | with_reducible apply fwPut_kept (hal.mono rfl) | with_reducible apply fwOk_kept (hal.mono rfl)
    | with_reducible apply regWriteAt_kept (hal.mono rfl) | split

theorem jigStatus_kept (hal : Allow al []) (h : Kept al s0 s) (a : List Byte) : Kept al s0 (jigStatus s a).1 := by
  unfold jigStatus
  try dsimp only
  repeat' first
    | exact hal.mono rfl
    | with_reducible assumption
    | with_reducible apply fwArgs_kept (hal.mono rfl)
    | with_reducible apply fwOk_kept (hal.mono rfl)
    | intro _
    | with_reducible apply kept_ite
    | split
    | refine kept_fst (by with_reducible assumption) (fwArgs_kept (hal.mono rfl) ?_ ..)
    | refine kept_fst (by with_reducible assumption) (fwOk_kept (hal.mono rfl) ?_ ..)
    | dsimp only

theorem reclaimMbx_kept
    (hal : Allow al [.csr, .evt, .jrn, .ports, .ntc, .adm, .tt, .results, .map, .vnr, .chans, .sbus, .devEnd, .cure, .tier, .conns, .ten, .arm, .fw, .pwr, .dram]) (h : Kept al s0 s) (twin : List (Nat × LineData)) (frames : List Nat) (a : List Byte) : Kept al s0 (reclaimMbx twin frames s a).1 := by
  unfold reclaimMbx
  repeat' first
    | exact hal.mono rfl | with_reducible assumption | with_reducible apply fwArgs_kept (hal.mono rfl)
    | with_reducible apply fwNo_kept (hal.mono rfl)
    | with_reducible apply regWriteAt_kept (hal.mono rfl) | with_reducible apply fwOk_kept (hal.mono rfl) | split | dsimp only

theorem frameAudit_kept (hal : Allow al [.csr, .evt, .jrn, .map, .tier]) (h : Kept al s0 s) (u0 : List Byte) : Kept al s0
    (frameAudit s u0).1 := by
  unfold frameAudit
  repeat' first
    | exact hal.mono rfl | with_reducible assumption | with_reducible apply forEach_kept
    | with_reducible apply fwOk_kept (hal.mono rfl)
    | with_reducible apply frameLowUpd_kept (hal.mono rfl) | with_reducible apply cacheTrim_kept (hal.mono rfl) | intro _
    | simp only [keptMap (hal.mono rfl)]

theorem heldList_kept (hal : Allow al []) (h : Kept al s0 s) (a : List Byte) : Kept al s0 (heldList s a).1 := by
  unfold heldList
  try dsimp only
  repeat' first
    | exact hal.mono rfl
    | with_reducible assumption
    | with_reducible apply fwArgs_kept (hal.mono rfl)
    | with_reducible apply fwOk_kept (hal.mono rfl)
    | with_reducible apply foldl_kept
    | with_reducible apply foldl_kept_fst
    | with_reducible apply foldl_kept_snd
    | intro _
    | with_reducible apply kept_ite
    | split
    | refine kept_fst (by with_reducible assumption) (fwArgs_kept (hal.mono rfl) ?_ ..)
    | refine kept_fst (by with_reducible assumption) (fwOk_kept (hal.mono rfl) ?_ ..)
    | dsimp only

theorem chainRebuild_kept
    (hal : Allow al [.csr, .evt, .jrn, .ports, .ntc, .adm, .tt, .results, .map, .vnr, .chans, .sbus, .devEnd, .cure, .tier, .conns, .ten, .arm, .fw, .pwr, .dram]) (h : Kept al s0 s) (g : Fin 32) : Kept al s0 (chainRebuild s g) := by
  unfold chainRebuild
  repeat' first
    | exact hal.mono rfl | with_reducible assumption | with_reducible apply forEach_kept
    | with_reducible apply dasPut_kept (hal.mono rfl)
    | with_reducible apply grantHoldPut_kept (hal.mono rfl) | with_reducible apply grantReload_kept (hal.mono rfl) | intro _

theorem grantAudit_kept
    (hal : Allow al [.csr, .evt, .jrn, .ports, .ntc, .adm, .tt, .results, .map, .vnr, .chans, .sbus, .devEnd, .cure, .tier, .conns, .ten, .arm, .fw, .pwr, .dram]) (h : Kept al s0 s) (a : List Byte) : Kept al s0 (grantAudit s a).1 := by
  unfold grantAudit
  try dsimp only
  repeat' first
    | exact hal.mono rfl
    | with_reducible assumption
    | with_reducible apply fwArgs_kept (hal.mono rfl)
    | with_reducible apply fwNo_kept (hal.mono rfl)
    | with_reducible apply modFw_kept (hal.mono rfl)
    | with_reducible apply grantHoldPut_kept (hal.mono rfl)
    | with_reducible apply chainRebuild_kept (hal.mono rfl)
    | with_reducible apply fwOk_kept (hal.mono rfl)
    | with_reducible apply confWrite_kept (hal.mono rfl)
    | intro _
    | with_reducible apply kept_ite
    | split
    | refine kept_fst (by with_reducible assumption) (fwArgs_kept (hal.mono rfl) ?_ ..)
    | refine kept_fst (by with_reducible assumption) (fwNo_kept (hal.mono rfl) ?_ ..)
    | refine kept_fst (by with_reducible assumption) (fwOk_kept (hal.mono rfl) ?_ ..)
    | dsimp only

end Sys2Proof.Machine
end

