-- ==== Sys2Proof/Laws/KeptMbxTen.lean ====
section
/-!
SUPPORT. What the operations of Machine/MbxTen.lean keep.
-/
namespace Sys2Proof.Machine
set_option linter.all false
set_option Elab.async false
open Sys2Proof

variable {al : Part → Bool} {s0 s : State}

theorem selPut_kept
    (hal : Allow al [.csr, .evt, .jrn, .ports, .ntc, .adm, .tt, .results, .map, .vnr, .chans, .sbus, .devEnd, .cure, .tier, .conns, .ten, .arm, .fw, .pwr, .dram]) (h : Kept al s0 s) (a : List Byte) : Kept al s0 (selPut s a) := by
  unfold selPut
  repeat' first | exact hal.mono rfl | with_reducible assumption | with_reducible apply fwPut_kept (hal.mono rfl)

theorem keyPut_kept
    (hal : Allow al [.csr, .evt, .jrn, .ports, .ntc, .adm, .tt, .results, .map, .vnr, .chans, .sbus, .devEnd, .cure, .tier, .conns, .ten, .arm, .fw, .pwr, .dram]) (h : Kept al s0 s) (gen salt : Nat) (a : List Byte) (k : Nat) : Kept al s0 (keyPut s gen salt a k) := by
  unfold keyPut
  try dsimp only
  repeat' first
    | exact hal.mono rfl
    | with_reducible assumption
    | with_reducible apply fwPut_kept (hal.mono rfl)
    | with_reducible apply forEach_kept
    | intro _
    | with_reducible apply kept_ite
    | split
    | dsimp only

theorem connMbx_kept
    (hal : Allow al [.csr, .evt, .jrn, .ports, .ntc, .adm, .tt, .results, .map, .vnr, .chans, .sbus, .devEnd, .cure, .tier, .conns, .ten, .arm, .fw, .pwr, .dram]) (h : Kept al s0 s) (m : Fin 4) (op : Nat) (stage : State → State) (why : State → Nat) (data : State → List Byte) (h_stage : ∀ (t : State), Kept al s0 t → Kept al s0 (stage t)) : Kept al s0 (connMbx m s op stage why data).1 := by
  unfold connMbx
  repeat' first
    | exact hal.mono rfl | with_reducible assumption | with_reducible apply fwWait_kept (hal.mono rfl)
    | with_reducible apply fwOk_kept (hal.mono rfl)
    | with_reducible apply fwNo_kept (hal.mono rfl) | with_reducible apply fwPut_kept (hal.mono rfl)
    | with_reducible apply fwStep_kept (hal.mono rfl)
    | with_reducible apply h_stage | split | dsimp only

theorem connMbx0_kept
    (hal : Allow al [.csr, .evt, .jrn, .ports, .ntc, .adm, .tt, .results, .map, .vnr, .chans, .sbus, .devEnd, .cure, .tier, .conns, .ten, .arm, .fw, .pwr, .dram]) (h : Kept al s0 s) (op : Nat) (data : State → List Byte) (m : Fin 4) (a : List Byte) : Kept al s0 (connMbx0 op data m s a).1 := by
  unfold connMbx0
  try dsimp only
  repeat' first
    | exact hal.mono rfl
    | with_reducible assumption
    | with_reducible apply connMbx_kept (hal.mono rfl)
    | with_reducible apply selPut_kept (hal.mono rfl)
    | intro _
    | with_reducible apply kept_ite
    | split
    | refine kept_fst (by with_reducible assumption) (connMbx_kept (hal.mono rfl) ?_ ..)
    | dsimp only

theorem openStage_kept
    (hal : Allow al [.csr, .evt, .jrn, .ports, .ntc, .adm, .tt, .results, .map, .vnr, .chans, .sbus, .devEnd, .cure, .tier, .conns, .ten, .arm, .fw, .pwr, .dram]) (h : Kept al s0 s) (a : List Byte) : Kept al s0 (openStage s a) := by
  unfold openStage
  repeat' first
    | exact hal.mono rfl | with_reducible assumption | with_reducible apply selPut_kept (hal.mono rfl)
    | with_reducible apply fwPut_kept (hal.mono rfl)
    | with_reducible apply keyPut_kept (hal.mono rfl)

theorem connOpenMbx_kept
    (hal : Allow al [.csr, .evt, .jrn, .ports, .ntc, .adm, .tt, .results, .map, .vnr, .chans, .sbus, .devEnd, .cure, .tier, .conns, .ten, .arm, .fw, .pwr, .dram]) (h : Kept al s0 s) (m : Fin 4) (a : List Byte) : Kept al s0 (connOpenMbx m s a).1 := by
  unfold connOpenMbx
  repeat' first
    | exact hal.mono rfl | with_reducible assumption | with_reducible apply fwArgs_kept (hal.mono rfl)
    | with_reducible apply connMbx_kept (hal.mono rfl)
    | with_reducible apply openStage_kept (hal.mono rfl) | intro _

theorem keyInstallMbx_kept
    (hal : Allow al [.csr, .evt, .jrn, .ports, .ntc, .adm, .tt, .results, .map, .vnr, .chans, .sbus, .devEnd, .cure, .tier, .conns, .ten, .arm, .fw, .pwr, .dram]) (h : Kept al s0 s) (m : Fin 4) (a : List Byte) : Kept al s0 (keyInstallMbx m s a).1 := by
  unfold keyInstallMbx
  repeat' first
    | exact hal.mono rfl | with_reducible assumption | with_reducible apply fwArgs_kept (hal.mono rfl)
    | with_reducible apply connMbx_kept (hal.mono rfl)
    | with_reducible apply keyPut_kept (hal.mono rfl) | with_reducible apply selPut_kept (hal.mono rfl) | intro _

theorem rkeyCreateMbx_kept
    (hal : Allow al [.csr, .evt, .jrn, .ports, .ntc, .adm, .tt, .results, .map, .vnr, .chans, .sbus, .devEnd, .cure, .tier, .conns, .ten, .arm, .fw, .pwr, .dram]) (h : Kept al s0 s) (a : List Byte) : Kept al s0 (rkeyCreateMbx s a).1 := by
  unfold rkeyCreateMbx
  repeat' first
    | exact hal.mono rfl | with_reducible assumption | with_reducible apply fwArgs_kept (hal.mono rfl)
    | with_reducible apply fwPut_kept (hal.mono rfl)
    | with_reducible apply fwOk_kept (hal.mono rfl) | with_reducible apply fwNo_kept (hal.mono rfl) | split | dsimp only

theorem rkeyRevokeMbx_kept
    (hal : Allow al [.csr, .evt, .jrn, .ports, .ntc, .adm, .tt, .results, .map, .vnr, .chans, .sbus, .devEnd, .cure, .tier, .conns, .ten, .arm, .fw, .pwr, .dram]) (h : Kept al s0 s) (m : Fin 4) (late : Bool) (a : List Byte) : Kept al s0 (rkeyRevokeMbx m late s a).1 := by
  unfold rkeyRevokeMbx
  repeat' first
    | exact hal.mono rfl | with_reducible assumption | with_reducible apply fwArgs_kept (hal.mono rfl)
    | with_reducible apply fwPut_kept (hal.mono rfl)
    | with_reducible apply fwWait_kept (hal.mono rfl) | with_reducible apply fwStep_kept (hal.mono rfl)
    | with_reducible apply fwNo_kept (hal.mono rfl)
    | with_reducible apply fwOk_kept (hal.mono rfl) | split | dsimp only

theorem ringSet_kept
    (hal : Allow al [.csr, .evt, .jrn, .ports, .ntc, .adm, .tt, .results, .map, .vnr, .chans, .sbus, .devEnd, .cure, .tier, .conns, .ten, .arm, .fw, .pwr, .dram]) (h : Kept al s0 s) (a : List Byte) : Kept al s0 (ringSet s a).1 := by
  unfold ringSet
  repeat' first
    | exact hal.mono rfl | with_reducible assumption | with_reducible apply fwArgs_kept (hal.mono rfl)
    | with_reducible apply fwPut_kept (hal.mono rfl)
    | with_reducible apply fwOk_kept (hal.mono rfl)

theorem segSet_kept
    (hal : Allow al [.csr, .evt, .jrn, .ports, .ntc, .adm, .tt, .results, .map, .vnr, .chans, .sbus, .devEnd, .cure, .tier, .conns, .ten, .arm, .fw, .pwr, .dram]) (h : Kept al s0 s) (a : List Byte) : Kept al s0 (segSet s a).1 := by
  unfold segSet
  repeat' first
    | exact hal.mono rfl | with_reducible assumption | with_reducible apply fwArgs_kept (hal.mono rfl)
    | with_reducible apply fwPut_kept (hal.mono rfl)
    | with_reducible apply fwOk_kept (hal.mono rfl)

end Sys2Proof.Machine
end

