-- ==== Sys2Proof/Laws/KeptPower.lean ====
section
/-!
SUPPORT. What the operations of Machine/Power.lean keep.
-/
namespace Sys2Proof.Machine
set_option linter.all false
set_option Elab.async false
open Sys2Proof

variable {al : Part → Bool} {s0 s : State}

theorem pinsForced_kept (hal : Allow al [.csr, .chans, .dram]) (h : Kept al s0 s) (c : Fin 16) : Kept al s0
    (pinsForced s c) := by
  unfold pinsForced
  repeat' first
    | exact hal.mono rfl | with_reducible assumption | with_reducible apply doIf_kept
    | with_reducible apply loseDram_kept (hal.mono rfl)
    | with_reducible apply modKeep_kept (hal.mono rfl) | with_reducible apply setFld_kept (hal.mono rfl) | intro _
    | with_reducible apply kept_ite

theorem resetAssert_kept
    (hal : Allow al [.beat, .csr, .evt, .jrn, .ports, .ntc, .adm, .tt, .results, .map, .vnr, .chans, .sbus, .devEnd, .cure, .tier, .conns, .ten, .arm, .fw, .pwr, .dram]) (h : Kept al s0 s) (pin : RstPin) : Kept al s0 (resetAssert s pin) := by
  unfold resetAssert
  extract_lets s1 p
  have k : Kept al s0 s1 := forEach_kept h _ _ fun s c k => pinsForced_kept (hal.mono rfl) k c
  clear_value s1
  refine ⟨k.pending, fun c => ⟨(k.canon c).1, smWf_filter 0 _ (k.canon c).2.1, ?_, rfl⟩, k.fresh, fun q hq => ?_⟩
  case refine_2 =>
    cases q <;> first | exact k.same .dram hq | (rw [hal _ (by decide)] at hq; cases hq)
  dsimp only
  split
  · exact (k.canon c).2.2.1
  · rfl

theorem corePowerLoss_kept
    (hal : Allow al [.beat, .csr, .evt, .jrn, .ports, .ntc, .adm, .tt, .results, .map, .vnr, .chans, .sbus, .devEnd, .cure, .tier, .conns, .ten, .arm, .fw, .pwr, .dram]) (h : Kept al s0 s) : Kept al s0 (corePowerLoss s) := by
  unfold corePowerLoss
  repeat' first | exact hal.mono rfl | with_reducible assumption | with_reducible apply resetAssert_kept (hal.mono rfl)

theorem resetRelease_kept
    (hal : Allow al [.csr, .evt, .jrn, .ports, .ntc, .adm, .tt, .results, .map, .vnr, .chans, .devEnd, .cure, .tier, .conns, .ten, .pwr, .dram]) (h : Kept al s0 s) (pfail : Bool) : Kept al s0 (resetRelease s pfail) := by
  unfold resetRelease
  repeat' first
    | exact hal.mono rfl | with_reducible assumption | with_reducible apply modPwr_kept (hal.mono rfl)
    | with_reducible apply doIf_kept
    | with_reducible apply evd_kept (hal.mono rfl) | with_reducible apply ev_kept (hal.mono rfl)
    | with_reducible apply pfailLow_kept (hal.mono rfl) | intro _
    | with_reducible apply kept_ite

theorem vkeepFail_kept (hal : Allow al [.csr, .evt, .jrn, .pwr, .dram]) (h : Kept al s0 s) : Kept al s0 (vkeepFail s) := by
  unfold vkeepFail
  repeat' first
    | exact hal.mono rfl | with_reducible assumption | with_reducible apply modPwr_kept (hal.mono rfl)
    | with_reducible apply forEach_kept
    | with_reducible apply doIf_kept | with_reducible apply loseDram_kept (hal.mono rfl)
    | with_reducible apply ev_kept (hal.mono rfl) | intro _
    | with_reducible apply kept_ite

theorem vkeepPowerUp_kept (hal : Allow al [.csr, .chans, .pwr, .dram]) (h : Kept al s0 s) : Kept al s0 (vkeepPowerUp s) := by
  unfold vkeepPowerUp
  repeat' first
    | exact hal.mono rfl | with_reducible assumption | with_reducible apply forEach_kept | with_reducible apply doIf_kept
    | with_reducible apply loseDram_kept (hal.mono rfl) | with_reducible apply modKeep_kept (hal.mono rfl)
    | with_reducible apply setReg_kept (hal.mono rfl)
    | with_reducible apply modPwr_kept (hal.mono rfl) | intro _ | with_reducible apply kept_ite

end Sys2Proof.Machine
end

