-- ==== Sys2Proof/Laws/KeptTick.lean ====
section
/-!
SUPPORT. What the operations of Machine/Tick.lean keep.
-/
namespace Sys2Proof.Machine
set_option linter.all false
set_option Elab.async false
open Sys2Proof

variable {al : Part → Bool} {s0 s : State}

theorem idle_kept (hal : Allow al [.beat, .csr, .evt, .jrn, .adm, .chans]) (h : Kept al s0 s) : Kept al s0 (idle s) := by
  unfold idle
  try dsimp only
  repeat' first
    | exact hal.mono rfl
    | with_reducible assumption
    | with_reducible apply maskEdge_kept (hal.mono rfl)
    | with_reducible apply beatFreerun_kept (hal.mono rfl)
    | with_reducible apply doIf_kept
    | with_reducible apply cntInc_kept (hal.mono rfl)
    | with_reducible apply packOne_kept (hal.mono rfl)
    | intro _
    | with_reducible apply kept_ite
    | split
    | simp only [keptBeat (hal.mono rfl)]
    | dsimp only

end Sys2Proof.Machine
end

