-- ==== Sys2Proof/Laws/Memory.lean ====
section
/-!
SUPPORT. The DRAM's bytes: every operation that writes them keeps their canonical form, and the 80 bytes of a line read
back.
-/
namespace Sys2Proof.Machine
set_option linter.all false
set_option Elab.async false
open Sys2Proof

/-- Every operation that writes the DRAM's bytes keeps their canonical form (`Kept.canon` says it of every command). -/
theorem Memory.wf_of_kept {al : Part → Bool} {s t : State} (h : Kept al s t) (c : s.Canonical) : Memory.wf t.dram = true :=
  (h.canon c).1

theorem Memory.wf_reset : Memory.wf State.reset.dram = true := rfl

/-- Bytes put at rising keys keep the canonical form. -/
theorem Memory.wf_fold (f : Nat → Nat) (g : Nat → Byte) (xs : List Nat) (m : SMap Byte) (h : smWf 0 m = true) :
    smWf 0 (xs.foldl (fun m i => smSet 0 m (f i) (g i)) m) = true := by
  induction xs generalizing m with
  | nil => exact h
  | cons x xs ih => exact ih _ (smWf_smSet 0 _ _ h)

/-- A byte put by a fold reads back; the others are left. -/
theorem Memory.get_fold (f : Nat → Nat) (hf : ∀ i j, f i = f j → i = j) (g : Nat → Byte) (xs : List Nat) (m : SMap Byte)
    (h : smWf 0 m = true) (k : Nat) : smGet 0 (xs.foldl (fun m i => smSet 0 m (f i) (g i)) m) k =
      match xs.find? (fun i => decide (f i = k)) with
      | some i => g i
      | none => smGet 0 m k := by
  induction xs generalizing m with
  | nil => rfl
  | cons x xs ih =>
    rw [List.foldl_cons, ih _ (smWf_smSet 0 _ _ h), List.find?_cons]
    by_cases e : f x = k
    · rw [decide_eq_true e]
      dsimp only
      cases hx : xs.find? fun i => decide (f i = k) with
      | none => dsimp only; rw [smGet_smSet (0 : Byte) _ _ _ h, if_pos e.symm]
      | some i =>
        have hi := List.find?_some hx
        rw [hf i x ((of_decide_eq_true hi).trans e.symm)]
    · rw [decide_eq_false e]
      dsimp only
      cases hx : xs.find? fun i => decide (f i = k) with
      | none => dsimp only; rw [smGet_smSet (0 : Byte) _ _ _ h, if_neg fun q => e q.symm]
      | some i => rfl

/-- The bytes of the DRAM after a line is written. -/
theorem setDramLine_dram (s : State) (k : Coord) (r : RawLine) : (setDramLine s k r).dram =
    (List.range 80).foldl (fun m i => smSet 0 m (80 * coordKey k + i)
      (BitVec.ofNat 8 (rawByte r i) ^^^ dramRest s (80 * coordKey k + i))) s.dram := by
  unfold setDramLine
  dsimp only

/-- A line written keeps the canonical form. -/
theorem setDramLine_wf (s : State) (k : Coord) (r : RawLine) (h : Memory.wf s.dram = true) :
    Memory.wf (setDramLine s k r).dram = true := by
  rw [setDramLine_dram]
  exact Memory.wf_fold _ _ _ _ h

theorem dramRest_setDramLine (s : State) (k : Coord) (r : RawLine) (a : Nat) :
    dramRest (setDramLine s k r) a = dramRest s a := by
  unfold dramRest inZero setDramLine
  dsimp only

/-- A byte of DRAM after a line is written. -/
theorem dramByte_setDramLine (s : State) (k : Coord) (r : RawLine) (h : Memory.wf s.dram = true) (a : Nat) :
    dramByte (setDramLine s k r) a = if 80 * coordKey k ≤ a ∧ a < 80 * coordKey k + 80 then
      BitVec.ofNat 8 (rawByte r (a - 80 * coordKey k)) else dramByte s a := by
  unfold dramByte
  rw [dramRest_setDramLine, setDramLine_dram, Memory.get_fold (fun i => 80 * coordKey k + i) (fun i j e => Nat.add_left_cancel e) _ _ _ h]
  generalize 80 * coordKey k = b
  split
  · next i hi =>
    have h0 := List.find?_some hi
    have h1 : b + i = a := of_decide_eq_true h0
    have h2 : i < 80 := List.mem_range.1 (List.mem_of_find?_eq_some hi)
    subst h1
    rw [if_pos ⟨by omega, by omega⟩, BitVec.xor_assoc, BitVec.xor_self, BitVec.xor_zero, Nat.add_sub_cancel_left]
  · next hi =>
    rw [if_neg]
    rintro ⟨h1, h2⟩
    exact List.find?_eq_none.1 hi (a - b) (List.mem_range.2 (by omega)) (decide_eq_true (by omega))

end Sys2Proof.Machine
end

