-- ==== Sys2Proof/Laws/Registers.lean ====
section
/-!
SUPPORT. Registers read back: a write of one register, a counter and an event leave every register at another offset.
-/
namespace Sys2Proof.Machine
set_option linter.all false
set_option Elab.async false
open Sys2Proof

/-- A register reads its value after a write of it. -/
theorem getReg_setReg_self (s : State) (r : RegRef) (v : Word64) (h : smWf 0 s.csr.val = true) : getReg (setReg s r v) r = v := by
  unfold getReg setReg
  dsimp only
  rw [smGet_smSet (0 : Word64) _ _ _ h, if_pos rfl, BitVec.xor_assoc, BitVec.xor_self, BitVec.xor_zero]

/-- A register at another offset is left. -/
theorem getReg_setReg_other {s : State} {r q : RegRef} (v : Word64) (h : smWf 0 s.csr.val = true) (e : q.off ≠ r.off) :
    getReg (setReg s r v) q = getReg s q := by
  unfold getReg setReg
  dsimp only
  rw [smGet_smSet (0 : Word64) _ _ _ h, if_neg e]

/-- From `s` to `t` the registers stay in canonical form, and every register outside `l` is left. -/
structure RegsKept (l : List Nat) (s t : State) : Prop where
  wf  : smWf 0 t.csr.val = true
  reg : ∀ q : RegRef, q.off ∉ l → getReg t q = getReg s q

variable {l : List Nat} {s t : State}

theorem RegsKept.refl (h : smWf 0 s.csr.val = true) : RegsKept l s s := ⟨h, fun _ _ => rfl⟩

/-- A change outside the registers. -/
theorem RegsKept.of_csr {u : State} (h : RegsKept l s t) (e : u.csr = t.csr) : RegsKept l s u := by
  refine ⟨e ▸ h.wf, fun q hq => Eq.trans ?_ (h.reg q hq)⟩
  unfold getReg
  rw [e]

theorem RegsKept.evt (h : RegsKept l s t) (e : EvtSt) : RegsKept l s { t with evt := e } := h.of_csr rfl
theorem RegsKept.jrn (h : RegsKept l s t) (e : JrnSt) : RegsKept l s { t with jrn := e } := h.of_csr rfl

theorem RegsKept.put (h : RegsKept l s t) (r : RegRef) (v : Word64) (hr : r.off ∈ l) : RegsKept l s (setReg t r v) :=
  ⟨smWf_smSet 0 _ _ h.wf, fun q hq => (getReg_setReg_other v h.wf (fun e => hq (e.symm ▸ hr))).trans (h.reg q hq)⟩

theorem RegsKept.cnt (h : RegsKept l s t) (r : RegRef) (hr : r.off ∈ l) : RegsKept l s (cntInc t r) := h.put r _ hr

theorem RegsKept.doIf {f : State → State} (h : RegsKept l s t) (b : Bool) (hf : ∀ u, RegsKept l s u → RegsKept l s (f u)) :
    RegsKept l s (doIf b f t) := by
  unfold Machine.doIf
  split
  · exact hf _ h
  · exact h

theorem RegsKept.forEach {α : Type} {f : State → α → State} (xs : List α) (h : RegsKept l s t)
    (hf : ∀ u x, RegsKept l s u → RegsKept l s (f u x)) : RegsKept l s (forEach xs t f) := by
  unfold Machine.forEach
  induction xs generalizing t with
  | nil => exact h
  | cons x xs ih => exact ih (hf _ _ h)

/-- The counters that an event advances. -/
def evtCounters : List Nat := [0x11800, 0x11808, 0x11810, 0x22600, 0x22608, 0x22610, 0x22618, 0x30110]

theorem jrnEnqueue_regs (h : RegsKept evtCounters s t) (e : JrnEvt) : RegsKept evtCounters s (jrnEnqueue t e) := by
  unfold jrnEnqueue
  split
  · exact h.jrn _
  · exact (h.jrn _).cnt rJrnDropCnt (by decide)

theorem failover_regs (h : RegsKept evtCounters s t) (id : Nat) : RegsKept evtCounters s (failover t id) := by
  unfold failover
  split
  · refine ((RegsKept.forEach _ h fun u c hu => ?_).evt _).cnt rFltFailoverCnt (by decide)
    split
    · exact hu.evt _
    · exact hu
  · exact h.evt _

theorem react_regs (h : RegsKept evtCounters s t) (id mask : Nat) (act : Bool) (e : JrnEvt) :
    RegsKept evtCounters s (react t id mask act e) := by
  unfold react
  extract_lets j1 j2 j3 j4
  have k1 : RegsKept evtCounters s j1 := h.doIf _ fun _ k => jrnEnqueue_regs k _
  have k2 : RegsKept evtCounters s j2 := k1.doIf _ fun _ k => (k.evt _).cnt rEvtIrqCnt (by decide)
  have k3 : RegsKept evtCounters s j3 := k2.doIf _ fun _ k => (k.evt _).cnt rFltFenceCnt (by decide)
  have k4 : RegsKept evtCounters s j4 := k3.doIf _ fun _ k => failover_regs k _
  exact k4.doIf _ fun _ k => k.evt _

/-- An event leaves every register but its counters. -/
theorem raiseEvt_regs (h : RegsKept evtCounters s t) (id : Nat) (ds : List Word32) (o : EvtOrigin) (u f : Bool) :
    RegsKept evtCounters s (raiseEvt t id ds o u f) := by
  unfold raiseEvt
  split
  · extract_lets r beat cfg
    split
    refine react_regs ?_ ..
    refine RegsKept.doIf ?_ _ fun _ k => k.cnt rFltSevereCnt (by decide)
    refine RegsKept.doIf ?_ _ fun _ k => k.cnt rFltSeriousCnt (by decide)
    refine RegsKept.doIf ?_ _ fun _ k => k.cnt rEvtForceCnt (by decide)
    exact (h.evt _).cnt rEvtEventCnt (by decide)
  · exact h

end Sys2Proof.Machine
end

