-- ==== Sys2Proof/Laws/State.lean ====
section
/-!
SUPPORT. What the named updates of State change and what they leave: one lemma for each update and field.
-/
namespace Sys2Proof.Machine
set_option linter.all false
set_option Elab.async false
open Sys2Proof

@[simp] theorem setReg_pending (s : State) (r : RegRef) (v : Word64) : (setReg s r v).pending = s.pending := rfl
@[simp] theorem setReg_beat (s : State) (r : RegRef) (v : Word64) : (setReg s r v).beat = s.beat := rfl
@[simp] theorem setReg_evt (s : State) (r : RegRef) (v : Word64) : (setReg s r v).evt = s.evt := rfl
@[simp] theorem setReg_jrn (s : State) (r : RegRef) (v : Word64) : (setReg s r v).jrn = s.jrn := rfl
@[simp] theorem setReg_ports (s : State) (r : RegRef) (v : Word64) : (setReg s r v).ports = s.ports := rfl
@[simp] theorem setReg_ntc (s : State) (r : RegRef) (v : Word64) : (setReg s r v).ntc = s.ntc := rfl
@[simp] theorem setReg_adm (s : State) (r : RegRef) (v : Word64) : (setReg s r v).adm = s.adm := rfl
@[simp] theorem setReg_tt (s : State) (r : RegRef) (v : Word64) : (setReg s r v).tt = s.tt := rfl
@[simp] theorem setReg_results (s : State) (r : RegRef) (v : Word64) : (setReg s r v).results = s.results := rfl
@[simp] theorem setReg_map (s : State) (r : RegRef) (v : Word64) : (setReg s r v).map = s.map := rfl
@[simp] theorem setReg_vnr (s : State) (r : RegRef) (v : Word64) : (setReg s r v).vnr = s.vnr := rfl
@[simp] theorem setReg_chans (s : State) (r : RegRef) (v : Word64) : (setReg s r v).chans = s.chans := rfl
@[simp] theorem setReg_sbus (s : State) (r : RegRef) (v : Word64) : (setReg s r v).sbus = s.sbus := rfl
@[simp] theorem setReg_devEnd (s : State) (r : RegRef) (v : Word64) : (setReg s r v).devEnd = s.devEnd := rfl
@[simp] theorem setReg_cure (s : State) (r : RegRef) (v : Word64) : (setReg s r v).cure = s.cure := rfl
@[simp] theorem setReg_tier (s : State) (r : RegRef) (v : Word64) : (setReg s r v).tier = s.tier := rfl
@[simp] theorem setReg_conns (s : State) (r : RegRef) (v : Word64) : (setReg s r v).conns = s.conns := rfl
@[simp] theorem setReg_ten (s : State) (r : RegRef) (v : Word64) : (setReg s r v).ten = s.ten := rfl
@[simp] theorem setReg_arm (s : State) (r : RegRef) (v : Word64) : (setReg s r v).arm = s.arm := rfl
@[simp] theorem setReg_fw (s : State) (r : RegRef) (v : Word64) : (setReg s r v).fw = s.fw := rfl
@[simp] theorem setReg_pwr (s : State) (r : RegRef) (v : Word64) : (setReg s r v).pwr = s.pwr := rfl
@[simp] theorem setReg_dram (s : State) (r : RegRef) (v : Word64) : (setReg s r v).dram = s.dram := rfl
@[simp] theorem setReg_dramGen (s : State) (r : RegRef) (v : Word64) : (setReg s r v).dramGen = s.dramGen := rfl
@[simp] theorem setReg_dramZero (s : State) (r : RegRef) (v : Word64) : (setReg s r v).dramZero = s.dramZero := rfl
@[simp] theorem setReg_fresh (s : State) (r : RegRef) (v : Word64) : (setReg s r v).fresh = s.fresh := rfl

@[simp] theorem setFld_pending (s : State) (r : RegRef) (hi lo x : Nat) : (setFld s r hi lo x).pending = s.pending := rfl
@[simp] theorem setFld_beat (s : State) (r : RegRef) (hi lo x : Nat) : (setFld s r hi lo x).beat = s.beat := rfl
@[simp] theorem setFld_evt (s : State) (r : RegRef) (hi lo x : Nat) : (setFld s r hi lo x).evt = s.evt := rfl
@[simp] theorem setFld_jrn (s : State) (r : RegRef) (hi lo x : Nat) : (setFld s r hi lo x).jrn = s.jrn := rfl
@[simp] theorem setFld_ports (s : State) (r : RegRef) (hi lo x : Nat) : (setFld s r hi lo x).ports = s.ports := rfl
@[simp] theorem setFld_ntc (s : State) (r : RegRef) (hi lo x : Nat) : (setFld s r hi lo x).ntc = s.ntc := rfl
@[simp] theorem setFld_adm (s : State) (r : RegRef) (hi lo x : Nat) : (setFld s r hi lo x).adm = s.adm := rfl
@[simp] theorem setFld_tt (s : State) (r : RegRef) (hi lo x : Nat) : (setFld s r hi lo x).tt = s.tt := rfl
@[simp] theorem setFld_results (s : State) (r : RegRef) (hi lo x : Nat) : (setFld s r hi lo x).results = s.results := rfl
@[simp] theorem setFld_map (s : State) (r : RegRef) (hi lo x : Nat) : (setFld s r hi lo x).map = s.map := rfl
@[simp] theorem setFld_vnr (s : State) (r : RegRef) (hi lo x : Nat) : (setFld s r hi lo x).vnr = s.vnr := rfl
@[simp] theorem setFld_chans (s : State) (r : RegRef) (hi lo x : Nat) : (setFld s r hi lo x).chans = s.chans := rfl
@[simp] theorem setFld_sbus (s : State) (r : RegRef) (hi lo x : Nat) : (setFld s r hi lo x).sbus = s.sbus := rfl
@[simp] theorem setFld_devEnd (s : State) (r : RegRef) (hi lo x : Nat) : (setFld s r hi lo x).devEnd = s.devEnd := rfl
@[simp] theorem setFld_cure (s : State) (r : RegRef) (hi lo x : Nat) : (setFld s r hi lo x).cure = s.cure := rfl
@[simp] theorem setFld_tier (s : State) (r : RegRef) (hi lo x : Nat) : (setFld s r hi lo x).tier = s.tier := rfl
@[simp] theorem setFld_conns (s : State) (r : RegRef) (hi lo x : Nat) : (setFld s r hi lo x).conns = s.conns := rfl
@[simp] theorem setFld_ten (s : State) (r : RegRef) (hi lo x : Nat) : (setFld s r hi lo x).ten = s.ten := rfl
@[simp] theorem setFld_arm (s : State) (r : RegRef) (hi lo x : Nat) : (setFld s r hi lo x).arm = s.arm := rfl
@[simp] theorem setFld_fw (s : State) (r : RegRef) (hi lo x : Nat) : (setFld s r hi lo x).fw = s.fw := rfl
@[simp] theorem setFld_pwr (s : State) (r : RegRef) (hi lo x : Nat) : (setFld s r hi lo x).pwr = s.pwr := rfl
@[simp] theorem setFld_dram (s : State) (r : RegRef) (hi lo x : Nat) : (setFld s r hi lo x).dram = s.dram := rfl
@[simp] theorem setFld_dramGen (s : State) (r : RegRef) (hi lo x : Nat) : (setFld s r hi lo x).dramGen = s.dramGen := rfl
@[simp] theorem setFld_dramZero (s : State) (r : RegRef) (hi lo x : Nat) : (setFld s r hi lo x).dramZero = s.dramZero := rfl
@[simp] theorem setFld_fresh (s : State) (r : RegRef) (hi lo x : Nat) : (setFld s r hi lo x).fresh = s.fresh := rfl

@[simp] theorem cntAdd_pending (s : State) (r : RegRef) (k : Nat) : (cntAdd s r k).pending = s.pending := rfl
@[simp] theorem cntAdd_beat (s : State) (r : RegRef) (k : Nat) : (cntAdd s r k).beat = s.beat := rfl
@[simp] theorem cntAdd_evt (s : State) (r : RegRef) (k : Nat) : (cntAdd s r k).evt = s.evt := rfl
@[simp] theorem cntAdd_jrn (s : State) (r : RegRef) (k : Nat) : (cntAdd s r k).jrn = s.jrn := rfl
@[simp] theorem cntAdd_ports (s : State) (r : RegRef) (k : Nat) : (cntAdd s r k).ports = s.ports := rfl
@[simp] theorem cntAdd_ntc (s : State) (r : RegRef) (k : Nat) : (cntAdd s r k).ntc = s.ntc := rfl
@[simp] theorem cntAdd_adm (s : State) (r : RegRef) (k : Nat) : (cntAdd s r k).adm = s.adm := rfl
@[simp] theorem cntAdd_tt (s : State) (r : RegRef) (k : Nat) : (cntAdd s r k).tt = s.tt := rfl
@[simp] theorem cntAdd_results (s : State) (r : RegRef) (k : Nat) : (cntAdd s r k).results = s.results := rfl
@[simp] theorem cntAdd_map (s : State) (r : RegRef) (k : Nat) : (cntAdd s r k).map = s.map := rfl
@[simp] theorem cntAdd_vnr (s : State) (r : RegRef) (k : Nat) : (cntAdd s r k).vnr = s.vnr := rfl
@[simp] theorem cntAdd_chans (s : State) (r : RegRef) (k : Nat) : (cntAdd s r k).chans = s.chans := rfl
@[simp] theorem cntAdd_sbus (s : State) (r : RegRef) (k : Nat) : (cntAdd s r k).sbus = s.sbus := rfl
@[simp] theorem cntAdd_devEnd (s : State) (r : RegRef) (k : Nat) : (cntAdd s r k).devEnd = s.devEnd := rfl
@[simp] theorem cntAdd_cure (s : State) (r : RegRef) (k : Nat) : (cntAdd s r k).cure = s.cure := rfl
@[simp] theorem cntAdd_tier (s : State) (r : RegRef) (k : Nat) : (cntAdd s r k).tier = s.tier := rfl
@[simp] theorem cntAdd_conns (s : State) (r : RegRef) (k : Nat) : (cntAdd s r k).conns = s.conns := rfl
@[simp] theorem cntAdd_ten (s : State) (r : RegRef) (k : Nat) : (cntAdd s r k).ten = s.ten := rfl
@[simp] theorem cntAdd_arm (s : State) (r : RegRef) (k : Nat) : (cntAdd s r k).arm = s.arm := rfl
@[simp] theorem cntAdd_fw (s : State) (r : RegRef) (k : Nat) : (cntAdd s r k).fw = s.fw := rfl
@[simp] theorem cntAdd_pwr (s : State) (r : RegRef) (k : Nat) : (cntAdd s r k).pwr = s.pwr := rfl
@[simp] theorem cntAdd_dram (s : State) (r : RegRef) (k : Nat) : (cntAdd s r k).dram = s.dram := rfl
@[simp] theorem cntAdd_dramGen (s : State) (r : RegRef) (k : Nat) : (cntAdd s r k).dramGen = s.dramGen := rfl
@[simp] theorem cntAdd_dramZero (s : State) (r : RegRef) (k : Nat) : (cntAdd s r k).dramZero = s.dramZero := rfl
@[simp] theorem cntAdd_fresh (s : State) (r : RegRef) (k : Nat) : (cntAdd s r k).fresh = s.fresh := rfl

@[simp] theorem cntInc_pending (s : State) (r : RegRef) : (cntInc s r).pending = s.pending := rfl
@[simp] theorem cntInc_beat (s : State) (r : RegRef) : (cntInc s r).beat = s.beat := rfl
@[simp] theorem cntInc_evt (s : State) (r : RegRef) : (cntInc s r).evt = s.evt := rfl
@[simp] theorem cntInc_jrn (s : State) (r : RegRef) : (cntInc s r).jrn = s.jrn := rfl
@[simp] theorem cntInc_ports (s : State) (r : RegRef) : (cntInc s r).ports = s.ports := rfl
@[simp] theorem cntInc_ntc (s : State) (r : RegRef) : (cntInc s r).ntc = s.ntc := rfl
@[simp] theorem cntInc_adm (s : State) (r : RegRef) : (cntInc s r).adm = s.adm := rfl
@[simp] theorem cntInc_tt (s : State) (r : RegRef) : (cntInc s r).tt = s.tt := rfl
@[simp] theorem cntInc_results (s : State) (r : RegRef) : (cntInc s r).results = s.results := rfl
@[simp] theorem cntInc_map (s : State) (r : RegRef) : (cntInc s r).map = s.map := rfl
@[simp] theorem cntInc_vnr (s : State) (r : RegRef) : (cntInc s r).vnr = s.vnr := rfl
@[simp] theorem cntInc_chans (s : State) (r : RegRef) : (cntInc s r).chans = s.chans := rfl
@[simp] theorem cntInc_sbus (s : State) (r : RegRef) : (cntInc s r).sbus = s.sbus := rfl
@[simp] theorem cntInc_devEnd (s : State) (r : RegRef) : (cntInc s r).devEnd = s.devEnd := rfl
@[simp] theorem cntInc_cure (s : State) (r : RegRef) : (cntInc s r).cure = s.cure := rfl
@[simp] theorem cntInc_tier (s : State) (r : RegRef) : (cntInc s r).tier = s.tier := rfl
@[simp] theorem cntInc_conns (s : State) (r : RegRef) : (cntInc s r).conns = s.conns := rfl
@[simp] theorem cntInc_ten (s : State) (r : RegRef) : (cntInc s r).ten = s.ten := rfl
@[simp] theorem cntInc_arm (s : State) (r : RegRef) : (cntInc s r).arm = s.arm := rfl
@[simp] theorem cntInc_fw (s : State) (r : RegRef) : (cntInc s r).fw = s.fw := rfl
@[simp] theorem cntInc_pwr (s : State) (r : RegRef) : (cntInc s r).pwr = s.pwr := rfl
@[simp] theorem cntInc_dram (s : State) (r : RegRef) : (cntInc s r).dram = s.dram := rfl
@[simp] theorem cntInc_dramGen (s : State) (r : RegRef) : (cntInc s r).dramGen = s.dramGen := rfl
@[simp] theorem cntInc_dramZero (s : State) (r : RegRef) : (cntInc s r).dramZero = s.dramZero := rfl
@[simp] theorem cntInc_fresh (s : State) (r : RegRef) : (cntInc s r).fresh = s.fresh := rfl

@[simp] theorem rcAdd_pending (s : State) (r : RegRef) (k : Nat) : (rcAdd s r k).pending = s.pending := rfl
@[simp] theorem rcAdd_beat (s : State) (r : RegRef) (k : Nat) : (rcAdd s r k).beat = s.beat := rfl
@[simp] theorem rcAdd_evt (s : State) (r : RegRef) (k : Nat) : (rcAdd s r k).evt = s.evt := rfl
@[simp] theorem rcAdd_jrn (s : State) (r : RegRef) (k : Nat) : (rcAdd s r k).jrn = s.jrn := rfl
@[simp] theorem rcAdd_ports (s : State) (r : RegRef) (k : Nat) : (rcAdd s r k).ports = s.ports := rfl
@[simp] theorem rcAdd_ntc (s : State) (r : RegRef) (k : Nat) : (rcAdd s r k).ntc = s.ntc := rfl
@[simp] theorem rcAdd_adm (s : State) (r : RegRef) (k : Nat) : (rcAdd s r k).adm = s.adm := rfl
@[simp] theorem rcAdd_tt (s : State) (r : RegRef) (k : Nat) : (rcAdd s r k).tt = s.tt := rfl
@[simp] theorem rcAdd_results (s : State) (r : RegRef) (k : Nat) : (rcAdd s r k).results = s.results := rfl
@[simp] theorem rcAdd_map (s : State) (r : RegRef) (k : Nat) : (rcAdd s r k).map = s.map := rfl
@[simp] theorem rcAdd_vnr (s : State) (r : RegRef) (k : Nat) : (rcAdd s r k).vnr = s.vnr := rfl
@[simp] theorem rcAdd_chans (s : State) (r : RegRef) (k : Nat) : (rcAdd s r k).chans = s.chans := rfl
@[simp] theorem rcAdd_sbus (s : State) (r : RegRef) (k : Nat) : (rcAdd s r k).sbus = s.sbus := rfl
@[simp] theorem rcAdd_devEnd (s : State) (r : RegRef) (k : Nat) : (rcAdd s r k).devEnd = s.devEnd := rfl
@[simp] theorem rcAdd_cure (s : State) (r : RegRef) (k : Nat) : (rcAdd s r k).cure = s.cure := rfl
@[simp] theorem rcAdd_tier (s : State) (r : RegRef) (k : Nat) : (rcAdd s r k).tier = s.tier := rfl
@[simp] theorem rcAdd_conns (s : State) (r : RegRef) (k : Nat) : (rcAdd s r k).conns = s.conns := rfl
@[simp] theorem rcAdd_ten (s : State) (r : RegRef) (k : Nat) : (rcAdd s r k).ten = s.ten := rfl
@[simp] theorem rcAdd_arm (s : State) (r : RegRef) (k : Nat) : (rcAdd s r k).arm = s.arm := rfl
@[simp] theorem rcAdd_fw (s : State) (r : RegRef) (k : Nat) : (rcAdd s r k).fw = s.fw := rfl
@[simp] theorem rcAdd_pwr (s : State) (r : RegRef) (k : Nat) : (rcAdd s r k).pwr = s.pwr := rfl
@[simp] theorem rcAdd_dram (s : State) (r : RegRef) (k : Nat) : (rcAdd s r k).dram = s.dram := rfl
@[simp] theorem rcAdd_dramGen (s : State) (r : RegRef) (k : Nat) : (rcAdd s r k).dramGen = s.dramGen := rfl
@[simp] theorem rcAdd_dramZero (s : State) (r : RegRef) (k : Nat) : (rcAdd s r k).dramZero = s.dramZero := rfl
@[simp] theorem rcAdd_fresh (s : State) (r : RegRef) (k : Nat) : (rcAdd s r k).fresh = s.fresh := rfl

@[simp] theorem rcOr_pending (s : State) (r : RegRef) (v : Word64) : (rcOr s r v).pending = s.pending := rfl
@[simp] theorem rcOr_beat (s : State) (r : RegRef) (v : Word64) : (rcOr s r v).beat = s.beat := rfl
@[simp] theorem rcOr_evt (s : State) (r : RegRef) (v : Word64) : (rcOr s r v).evt = s.evt := rfl
@[simp] theorem rcOr_jrn (s : State) (r : RegRef) (v : Word64) : (rcOr s r v).jrn = s.jrn := rfl
@[simp] theorem rcOr_ports (s : State) (r : RegRef) (v : Word64) : (rcOr s r v).ports = s.ports := rfl
@[simp] theorem rcOr_ntc (s : State) (r : RegRef) (v : Word64) : (rcOr s r v).ntc = s.ntc := rfl
@[simp] theorem rcOr_adm (s : State) (r : RegRef) (v : Word64) : (rcOr s r v).adm = s.adm := rfl
@[simp] theorem rcOr_tt (s : State) (r : RegRef) (v : Word64) : (rcOr s r v).tt = s.tt := rfl
@[simp] theorem rcOr_results (s : State) (r : RegRef) (v : Word64) : (rcOr s r v).results = s.results := rfl
@[simp] theorem rcOr_map (s : State) (r : RegRef) (v : Word64) : (rcOr s r v).map = s.map := rfl
@[simp] theorem rcOr_vnr (s : State) (r : RegRef) (v : Word64) : (rcOr s r v).vnr = s.vnr := rfl
@[simp] theorem rcOr_chans (s : State) (r : RegRef) (v : Word64) : (rcOr s r v).chans = s.chans := rfl
@[simp] theorem rcOr_sbus (s : State) (r : RegRef) (v : Word64) : (rcOr s r v).sbus = s.sbus := rfl
@[simp] theorem rcOr_devEnd (s : State) (r : RegRef) (v : Word64) : (rcOr s r v).devEnd = s.devEnd := rfl
@[simp] theorem rcOr_cure (s : State) (r : RegRef) (v : Word64) : (rcOr s r v).cure = s.cure := rfl
@[simp] theorem rcOr_tier (s : State) (r : RegRef) (v : Word64) : (rcOr s r v).tier = s.tier := rfl
@[simp] theorem rcOr_conns (s : State) (r : RegRef) (v : Word64) : (rcOr s r v).conns = s.conns := rfl
@[simp] theorem rcOr_ten (s : State) (r : RegRef) (v : Word64) : (rcOr s r v).ten = s.ten := rfl
@[simp] theorem rcOr_arm (s : State) (r : RegRef) (v : Word64) : (rcOr s r v).arm = s.arm := rfl
@[simp] theorem rcOr_fw (s : State) (r : RegRef) (v : Word64) : (rcOr s r v).fw = s.fw := rfl
@[simp] theorem rcOr_pwr (s : State) (r : RegRef) (v : Word64) : (rcOr s r v).pwr = s.pwr := rfl
@[simp] theorem rcOr_dram (s : State) (r : RegRef) (v : Word64) : (rcOr s r v).dram = s.dram := rfl
@[simp] theorem rcOr_dramGen (s : State) (r : RegRef) (v : Word64) : (rcOr s r v).dramGen = s.dramGen := rfl
@[simp] theorem rcOr_dramZero (s : State) (r : RegRef) (v : Word64) : (rcOr s r v).dramZero = s.dramZero := rfl
@[simp] theorem rcOr_fresh (s : State) (r : RegRef) (v : Word64) : (rcOr s r v).fresh = s.fresh := rfl

@[simp] theorem modPort_pending (s : State) (p : Fin 8) (f : Port → Port) : (modPort s p f).pending = s.pending := rfl
@[simp] theorem modPort_beat (s : State) (p : Fin 8) (f : Port → Port) : (modPort s p f).beat = s.beat := rfl
@[simp] theorem modPort_csr (s : State) (p : Fin 8) (f : Port → Port) : (modPort s p f).csr = s.csr := rfl
@[simp] theorem modPort_evt (s : State) (p : Fin 8) (f : Port → Port) : (modPort s p f).evt = s.evt := rfl
@[simp] theorem modPort_jrn (s : State) (p : Fin 8) (f : Port → Port) : (modPort s p f).jrn = s.jrn := rfl
@[simp] theorem modPort_ntc (s : State) (p : Fin 8) (f : Port → Port) : (modPort s p f).ntc = s.ntc := rfl
@[simp] theorem modPort_adm (s : State) (p : Fin 8) (f : Port → Port) : (modPort s p f).adm = s.adm := rfl
@[simp] theorem modPort_tt (s : State) (p : Fin 8) (f : Port → Port) : (modPort s p f).tt = s.tt := rfl
@[simp] theorem modPort_results (s : State) (p : Fin 8) (f : Port → Port) : (modPort s p f).results = s.results := rfl
@[simp] theorem modPort_map (s : State) (p : Fin 8) (f : Port → Port) : (modPort s p f).map = s.map := rfl
@[simp] theorem modPort_vnr (s : State) (p : Fin 8) (f : Port → Port) : (modPort s p f).vnr = s.vnr := rfl
@[simp] theorem modPort_chans (s : State) (p : Fin 8) (f : Port → Port) : (modPort s p f).chans = s.chans := rfl
@[simp] theorem modPort_sbus (s : State) (p : Fin 8) (f : Port → Port) : (modPort s p f).sbus = s.sbus := rfl
@[simp] theorem modPort_devEnd (s : State) (p : Fin 8) (f : Port → Port) : (modPort s p f).devEnd = s.devEnd := rfl
@[simp] theorem modPort_cure (s : State) (p : Fin 8) (f : Port → Port) : (modPort s p f).cure = s.cure := rfl
@[simp] theorem modPort_tier (s : State) (p : Fin 8) (f : Port → Port) : (modPort s p f).tier = s.tier := rfl
@[simp] theorem modPort_conns (s : State) (p : Fin 8) (f : Port → Port) : (modPort s p f).conns = s.conns := rfl
@[simp] theorem modPort_ten (s : State) (p : Fin 8) (f : Port → Port) : (modPort s p f).ten = s.ten := rfl
@[simp] theorem modPort_arm (s : State) (p : Fin 8) (f : Port → Port) : (modPort s p f).arm = s.arm := rfl
@[simp] theorem modPort_fw (s : State) (p : Fin 8) (f : Port → Port) : (modPort s p f).fw = s.fw := rfl
@[simp] theorem modPort_pwr (s : State) (p : Fin 8) (f : Port → Port) : (modPort s p f).pwr = s.pwr := rfl
@[simp] theorem modPort_dram (s : State) (p : Fin 8) (f : Port → Port) : (modPort s p f).dram = s.dram := rfl
@[simp] theorem modPort_dramGen (s : State) (p : Fin 8) (f : Port → Port) : (modPort s p f).dramGen = s.dramGen := rfl
@[simp] theorem modPort_dramZero (s : State) (p : Fin 8) (f : Port → Port) : (modPort s p f).dramZero = s.dramZero := rfl
@[simp] theorem modPort_fresh (s : State) (p : Fin 8) (f : Port → Port) : (modPort s p f).fresh = s.fresh := rfl

@[simp] theorem modChan_pending (s : State) (c : Fin 16) (f : ChanSt → ChanSt) : (modChan s c f).pending = s.pending := rfl
@[simp] theorem modChan_beat (s : State) (c : Fin 16) (f : ChanSt → ChanSt) : (modChan s c f).beat = s.beat := rfl
@[simp] theorem modChan_csr (s : State) (c : Fin 16) (f : ChanSt → ChanSt) : (modChan s c f).csr = s.csr := rfl
@[simp] theorem modChan_evt (s : State) (c : Fin 16) (f : ChanSt → ChanSt) : (modChan s c f).evt = s.evt := rfl
@[simp] theorem modChan_jrn (s : State) (c : Fin 16) (f : ChanSt → ChanSt) : (modChan s c f).jrn = s.jrn := rfl
@[simp] theorem modChan_ports (s : State) (c : Fin 16) (f : ChanSt → ChanSt) : (modChan s c f).ports = s.ports := rfl
@[simp] theorem modChan_ntc (s : State) (c : Fin 16) (f : ChanSt → ChanSt) : (modChan s c f).ntc = s.ntc := rfl
@[simp] theorem modChan_adm (s : State) (c : Fin 16) (f : ChanSt → ChanSt) : (modChan s c f).adm = s.adm := rfl
@[simp] theorem modChan_tt (s : State) (c : Fin 16) (f : ChanSt → ChanSt) : (modChan s c f).tt = s.tt := rfl
@[simp] theorem modChan_results (s : State) (c : Fin 16) (f : ChanSt → ChanSt) : (modChan s c f).results = s.results := rfl
@[simp] theorem modChan_map (s : State) (c : Fin 16) (f : ChanSt → ChanSt) : (modChan s c f).map = s.map := rfl
@[simp] theorem modChan_vnr (s : State) (c : Fin 16) (f : ChanSt → ChanSt) : (modChan s c f).vnr = s.vnr := rfl
@[simp] theorem modChan_sbus (s : State) (c : Fin 16) (f : ChanSt → ChanSt) : (modChan s c f).sbus = s.sbus := rfl
@[simp] theorem modChan_devEnd (s : State) (c : Fin 16) (f : ChanSt → ChanSt) : (modChan s c f).devEnd = s.devEnd := rfl
@[simp] theorem modChan_cure (s : State) (c : Fin 16) (f : ChanSt → ChanSt) : (modChan s c f).cure = s.cure := rfl
@[simp] theorem modChan_tier (s : State) (c : Fin 16) (f : ChanSt → ChanSt) : (modChan s c f).tier = s.tier := rfl
@[simp] theorem modChan_conns (s : State) (c : Fin 16) (f : ChanSt → ChanSt) : (modChan s c f).conns = s.conns := rfl
@[simp] theorem modChan_ten (s : State) (c : Fin 16) (f : ChanSt → ChanSt) : (modChan s c f).ten = s.ten := rfl
@[simp] theorem modChan_arm (s : State) (c : Fin 16) (f : ChanSt → ChanSt) : (modChan s c f).arm = s.arm := rfl
@[simp] theorem modChan_fw (s : State) (c : Fin 16) (f : ChanSt → ChanSt) : (modChan s c f).fw = s.fw := rfl
@[simp] theorem modChan_pwr (s : State) (c : Fin 16) (f : ChanSt → ChanSt) : (modChan s c f).pwr = s.pwr := rfl
@[simp] theorem modChan_dram (s : State) (c : Fin 16) (f : ChanSt → ChanSt) : (modChan s c f).dram = s.dram := rfl
@[simp] theorem modChan_dramGen (s : State) (c : Fin 16) (f : ChanSt → ChanSt) : (modChan s c f).dramGen = s.dramGen := rfl
@[simp] theorem modChan_dramZero (s : State) (c : Fin 16) (f : ChanSt → ChanSt) : (modChan s c f).dramZero = s.dramZero := rfl
@[simp] theorem modChan_fresh (s : State) (c : Fin 16) (f : ChanSt → ChanSt) : (modChan s c f).fresh = s.fresh := rfl

@[simp] theorem modSch_pending (s : State) (c : Fin 16) (f : SchedSt → SchedSt) : (modSch s c f).pending = s.pending := rfl
@[simp] theorem modSch_beat (s : State) (c : Fin 16) (f : SchedSt → SchedSt) : (modSch s c f).beat = s.beat := rfl
@[simp] theorem modSch_csr (s : State) (c : Fin 16) (f : SchedSt → SchedSt) : (modSch s c f).csr = s.csr := rfl
@[simp] theorem modSch_evt (s : State) (c : Fin 16) (f : SchedSt → SchedSt) : (modSch s c f).evt = s.evt := rfl
@[simp] theorem modSch_jrn (s : State) (c : Fin 16) (f : SchedSt → SchedSt) : (modSch s c f).jrn = s.jrn := rfl
@[simp] theorem modSch_ports (s : State) (c : Fin 16) (f : SchedSt → SchedSt) : (modSch s c f).ports = s.ports := rfl
@[simp] theorem modSch_ntc (s : State) (c : Fin 16) (f : SchedSt → SchedSt) : (modSch s c f).ntc = s.ntc := rfl
@[simp] theorem modSch_adm (s : State) (c : Fin 16) (f : SchedSt → SchedSt) : (modSch s c f).adm = s.adm := rfl
@[simp] theorem modSch_tt (s : State) (c : Fin 16) (f : SchedSt → SchedSt) : (modSch s c f).tt = s.tt := rfl
@[simp] theorem modSch_results (s : State) (c : Fin 16) (f : SchedSt → SchedSt) : (modSch s c f).results = s.results := rfl
@[simp] theorem modSch_map (s : State) (c : Fin 16) (f : SchedSt → SchedSt) : (modSch s c f).map = s.map := rfl
@[simp] theorem modSch_vnr (s : State) (c : Fin 16) (f : SchedSt → SchedSt) : (modSch s c f).vnr = s.vnr := rfl
@[simp] theorem modSch_sbus (s : State) (c : Fin 16) (f : SchedSt → SchedSt) : (modSch s c f).sbus = s.sbus := rfl
@[simp] theorem modSch_devEnd (s : State) (c : Fin 16) (f : SchedSt → SchedSt) : (modSch s c f).devEnd = s.devEnd := rfl
@[simp] theorem modSch_cure (s : State) (c : Fin 16) (f : SchedSt → SchedSt) : (modSch s c f).cure = s.cure := rfl
@[simp] theorem modSch_tier (s : State) (c : Fin 16) (f : SchedSt → SchedSt) : (modSch s c f).tier = s.tier := rfl
@[simp] theorem modSch_conns (s : State) (c : Fin 16) (f : SchedSt → SchedSt) : (modSch s c f).conns = s.conns := rfl
@[simp] theorem modSch_ten (s : State) (c : Fin 16) (f : SchedSt → SchedSt) : (modSch s c f).ten = s.ten := rfl
@[simp] theorem modSch_arm (s : State) (c : Fin 16) (f : SchedSt → SchedSt) : (modSch s c f).arm = s.arm := rfl
@[simp] theorem modSch_fw (s : State) (c : Fin 16) (f : SchedSt → SchedSt) : (modSch s c f).fw = s.fw := rfl
@[simp] theorem modSch_pwr (s : State) (c : Fin 16) (f : SchedSt → SchedSt) : (modSch s c f).pwr = s.pwr := rfl
@[simp] theorem modSch_dram (s : State) (c : Fin 16) (f : SchedSt → SchedSt) : (modSch s c f).dram = s.dram := rfl
@[simp] theorem modSch_dramGen (s : State) (c : Fin 16) (f : SchedSt → SchedSt) : (modSch s c f).dramGen = s.dramGen := rfl
@[simp] theorem modSch_dramZero (s : State) (c : Fin 16) (f : SchedSt → SchedSt) : (modSch s c f).dramZero = s.dramZero := rfl
@[simp] theorem modSch_fresh (s : State) (c : Fin 16) (f : SchedSt → SchedSt) : (modSch s c f).fresh = s.fresh := rfl

@[simp] theorem modRef_pending (s : State) (c : Fin 16) (f : RefSt → RefSt) : (modRef s c f).pending = s.pending := rfl
@[simp] theorem modRef_beat (s : State) (c : Fin 16) (f : RefSt → RefSt) : (modRef s c f).beat = s.beat := rfl
@[simp] theorem modRef_csr (s : State) (c : Fin 16) (f : RefSt → RefSt) : (modRef s c f).csr = s.csr := rfl
@[simp] theorem modRef_evt (s : State) (c : Fin 16) (f : RefSt → RefSt) : (modRef s c f).evt = s.evt := rfl
@[simp] theorem modRef_jrn (s : State) (c : Fin 16) (f : RefSt → RefSt) : (modRef s c f).jrn = s.jrn := rfl
@[simp] theorem modRef_ports (s : State) (c : Fin 16) (f : RefSt → RefSt) : (modRef s c f).ports = s.ports := rfl
@[simp] theorem modRef_ntc (s : State) (c : Fin 16) (f : RefSt → RefSt) : (modRef s c f).ntc = s.ntc := rfl
@[simp] theorem modRef_adm (s : State) (c : Fin 16) (f : RefSt → RefSt) : (modRef s c f).adm = s.adm := rfl
@[simp] theorem modRef_tt (s : State) (c : Fin 16) (f : RefSt → RefSt) : (modRef s c f).tt = s.tt := rfl
@[simp] theorem modRef_results (s : State) (c : Fin 16) (f : RefSt → RefSt) : (modRef s c f).results = s.results := rfl
@[simp] theorem modRef_map (s : State) (c : Fin 16) (f : RefSt → RefSt) : (modRef s c f).map = s.map := rfl
@[simp] theorem modRef_vnr (s : State) (c : Fin 16) (f : RefSt → RefSt) : (modRef s c f).vnr = s.vnr := rfl
@[simp] theorem modRef_sbus (s : State) (c : Fin 16) (f : RefSt → RefSt) : (modRef s c f).sbus = s.sbus := rfl
@[simp] theorem modRef_devEnd (s : State) (c : Fin 16) (f : RefSt → RefSt) : (modRef s c f).devEnd = s.devEnd := rfl
@[simp] theorem modRef_cure (s : State) (c : Fin 16) (f : RefSt → RefSt) : (modRef s c f).cure = s.cure := rfl
@[simp] theorem modRef_tier (s : State) (c : Fin 16) (f : RefSt → RefSt) : (modRef s c f).tier = s.tier := rfl
@[simp] theorem modRef_conns (s : State) (c : Fin 16) (f : RefSt → RefSt) : (modRef s c f).conns = s.conns := rfl
@[simp] theorem modRef_ten (s : State) (c : Fin 16) (f : RefSt → RefSt) : (modRef s c f).ten = s.ten := rfl
@[simp] theorem modRef_arm (s : State) (c : Fin 16) (f : RefSt → RefSt) : (modRef s c f).arm = s.arm := rfl
@[simp] theorem modRef_fw (s : State) (c : Fin 16) (f : RefSt → RefSt) : (modRef s c f).fw = s.fw := rfl
@[simp] theorem modRef_pwr (s : State) (c : Fin 16) (f : RefSt → RefSt) : (modRef s c f).pwr = s.pwr := rfl
@[simp] theorem modRef_dram (s : State) (c : Fin 16) (f : RefSt → RefSt) : (modRef s c f).dram = s.dram := rfl
@[simp] theorem modRef_dramGen (s : State) (c : Fin 16) (f : RefSt → RefSt) : (modRef s c f).dramGen = s.dramGen := rfl
@[simp] theorem modRef_dramZero (s : State) (c : Fin 16) (f : RefSt → RefSt) : (modRef s c f).dramZero = s.dramZero := rfl
@[simp] theorem modRef_fresh (s : State) (c : Fin 16) (f : RefSt → RefSt) : (modRef s c f).fresh = s.fresh := rfl

@[simp] theorem modPhy_pending (s : State) (c : Fin 16) (f : PhySt → PhySt) : (modPhy s c f).pending = s.pending := rfl
@[simp] theorem modPhy_beat (s : State) (c : Fin 16) (f : PhySt → PhySt) : (modPhy s c f).beat = s.beat := rfl
@[simp] theorem modPhy_csr (s : State) (c : Fin 16) (f : PhySt → PhySt) : (modPhy s c f).csr = s.csr := rfl
@[simp] theorem modPhy_evt (s : State) (c : Fin 16) (f : PhySt → PhySt) : (modPhy s c f).evt = s.evt := rfl
@[simp] theorem modPhy_jrn (s : State) (c : Fin 16) (f : PhySt → PhySt) : (modPhy s c f).jrn = s.jrn := rfl
@[simp] theorem modPhy_ports (s : State) (c : Fin 16) (f : PhySt → PhySt) : (modPhy s c f).ports = s.ports := rfl
@[simp] theorem modPhy_ntc (s : State) (c : Fin 16) (f : PhySt → PhySt) : (modPhy s c f).ntc = s.ntc := rfl
@[simp] theorem modPhy_adm (s : State) (c : Fin 16) (f : PhySt → PhySt) : (modPhy s c f).adm = s.adm := rfl
@[simp] theorem modPhy_tt (s : State) (c : Fin 16) (f : PhySt → PhySt) : (modPhy s c f).tt = s.tt := rfl
@[simp] theorem modPhy_results (s : State) (c : Fin 16) (f : PhySt → PhySt) : (modPhy s c f).results = s.results := rfl
@[simp] theorem modPhy_map (s : State) (c : Fin 16) (f : PhySt → PhySt) : (modPhy s c f).map = s.map := rfl
@[simp] theorem modPhy_vnr (s : State) (c : Fin 16) (f : PhySt → PhySt) : (modPhy s c f).vnr = s.vnr := rfl
@[simp] theorem modPhy_sbus (s : State) (c : Fin 16) (f : PhySt → PhySt) : (modPhy s c f).sbus = s.sbus := rfl
@[simp] theorem modPhy_devEnd (s : State) (c : Fin 16) (f : PhySt → PhySt) : (modPhy s c f).devEnd = s.devEnd := rfl
@[simp] theorem modPhy_cure (s : State) (c : Fin 16) (f : PhySt → PhySt) : (modPhy s c f).cure = s.cure := rfl
@[simp] theorem modPhy_tier (s : State) (c : Fin 16) (f : PhySt → PhySt) : (modPhy s c f).tier = s.tier := rfl
@[simp] theorem modPhy_conns (s : State) (c : Fin 16) (f : PhySt → PhySt) : (modPhy s c f).conns = s.conns := rfl
@[simp] theorem modPhy_ten (s : State) (c : Fin 16) (f : PhySt → PhySt) : (modPhy s c f).ten = s.ten := rfl
@[simp] theorem modPhy_arm (s : State) (c : Fin 16) (f : PhySt → PhySt) : (modPhy s c f).arm = s.arm := rfl
@[simp] theorem modPhy_fw (s : State) (c : Fin 16) (f : PhySt → PhySt) : (modPhy s c f).fw = s.fw := rfl
@[simp] theorem modPhy_pwr (s : State) (c : Fin 16) (f : PhySt → PhySt) : (modPhy s c f).pwr = s.pwr := rfl
@[simp] theorem modPhy_dram (s : State) (c : Fin 16) (f : PhySt → PhySt) : (modPhy s c f).dram = s.dram := rfl
@[simp] theorem modPhy_dramGen (s : State) (c : Fin 16) (f : PhySt → PhySt) : (modPhy s c f).dramGen = s.dramGen := rfl
@[simp] theorem modPhy_dramZero (s : State) (c : Fin 16) (f : PhySt → PhySt) : (modPhy s c f).dramZero = s.dramZero := rfl
@[simp] theorem modPhy_fresh (s : State) (c : Fin 16) (f : PhySt → PhySt) : (modPhy s c f).fresh = s.fresh := rfl

@[simp] theorem modKeep_pending (s : State) (c : Fin 16) (f : KeepSt → KeepSt) : (modKeep s c f).pending = s.pending := rfl
@[simp] theorem modKeep_beat (s : State) (c : Fin 16) (f : KeepSt → KeepSt) : (modKeep s c f).beat = s.beat := rfl
@[simp] theorem modKeep_csr (s : State) (c : Fin 16) (f : KeepSt → KeepSt) : (modKeep s c f).csr = s.csr := rfl
@[simp] theorem modKeep_evt (s : State) (c : Fin 16) (f : KeepSt → KeepSt) : (modKeep s c f).evt = s.evt := rfl
@[simp] theorem modKeep_jrn (s : State) (c : Fin 16) (f : KeepSt → KeepSt) : (modKeep s c f).jrn = s.jrn := rfl
@[simp] theorem modKeep_ports (s : State) (c : Fin 16) (f : KeepSt → KeepSt) : (modKeep s c f).ports = s.ports := rfl
@[simp] theorem modKeep_ntc (s : State) (c : Fin 16) (f : KeepSt → KeepSt) : (modKeep s c f).ntc = s.ntc := rfl
@[simp] theorem modKeep_adm (s : State) (c : Fin 16) (f : KeepSt → KeepSt) : (modKeep s c f).adm = s.adm := rfl
@[simp] theorem modKeep_tt (s : State) (c : Fin 16) (f : KeepSt → KeepSt) : (modKeep s c f).tt = s.tt := rfl
@[simp] theorem modKeep_results (s : State) (c : Fin 16) (f : KeepSt → KeepSt) : (modKeep s c f).results = s.results := rfl
@[simp] theorem modKeep_map (s : State) (c : Fin 16) (f : KeepSt → KeepSt) : (modKeep s c f).map = s.map := rfl
@[simp] theorem modKeep_vnr (s : State) (c : Fin 16) (f : KeepSt → KeepSt) : (modKeep s c f).vnr = s.vnr := rfl
@[simp] theorem modKeep_sbus (s : State) (c : Fin 16) (f : KeepSt → KeepSt) : (modKeep s c f).sbus = s.sbus := rfl
@[simp] theorem modKeep_devEnd (s : State) (c : Fin 16) (f : KeepSt → KeepSt) : (modKeep s c f).devEnd = s.devEnd := rfl
@[simp] theorem modKeep_cure (s : State) (c : Fin 16) (f : KeepSt → KeepSt) : (modKeep s c f).cure = s.cure := rfl
@[simp] theorem modKeep_tier (s : State) (c : Fin 16) (f : KeepSt → KeepSt) : (modKeep s c f).tier = s.tier := rfl
@[simp] theorem modKeep_conns (s : State) (c : Fin 16) (f : KeepSt → KeepSt) : (modKeep s c f).conns = s.conns := rfl
@[simp] theorem modKeep_ten (s : State) (c : Fin 16) (f : KeepSt → KeepSt) : (modKeep s c f).ten = s.ten := rfl
@[simp] theorem modKeep_arm (s : State) (c : Fin 16) (f : KeepSt → KeepSt) : (modKeep s c f).arm = s.arm := rfl
@[simp] theorem modKeep_fw (s : State) (c : Fin 16) (f : KeepSt → KeepSt) : (modKeep s c f).fw = s.fw := rfl
@[simp] theorem modKeep_pwr (s : State) (c : Fin 16) (f : KeepSt → KeepSt) : (modKeep s c f).pwr = s.pwr := rfl
@[simp] theorem modKeep_dram (s : State) (c : Fin 16) (f : KeepSt → KeepSt) : (modKeep s c f).dram = s.dram := rfl
@[simp] theorem modKeep_dramGen (s : State) (c : Fin 16) (f : KeepSt → KeepSt) : (modKeep s c f).dramGen = s.dramGen := rfl
@[simp] theorem modKeep_dramZero (s : State) (c : Fin 16) (f : KeepSt → KeepSt) : (modKeep s c f).dramZero = s.dramZero := rfl
@[simp] theorem modKeep_fresh (s : State) (c : Fin 16) (f : KeepSt → KeepSt) : (modKeep s c f).fresh = s.fresh := rfl

@[simp] theorem modCode_pending (s : State) (c : Fin 16) (f : CodeSt → CodeSt) : (modCode s c f).pending = s.pending := rfl
@[simp] theorem modCode_beat (s : State) (c : Fin 16) (f : CodeSt → CodeSt) : (modCode s c f).beat = s.beat := rfl
@[simp] theorem modCode_csr (s : State) (c : Fin 16) (f : CodeSt → CodeSt) : (modCode s c f).csr = s.csr := rfl
@[simp] theorem modCode_evt (s : State) (c : Fin 16) (f : CodeSt → CodeSt) : (modCode s c f).evt = s.evt := rfl
@[simp] theorem modCode_jrn (s : State) (c : Fin 16) (f : CodeSt → CodeSt) : (modCode s c f).jrn = s.jrn := rfl
@[simp] theorem modCode_ports (s : State) (c : Fin 16) (f : CodeSt → CodeSt) : (modCode s c f).ports = s.ports := rfl
@[simp] theorem modCode_ntc (s : State) (c : Fin 16) (f : CodeSt → CodeSt) : (modCode s c f).ntc = s.ntc := rfl
@[simp] theorem modCode_adm (s : State) (c : Fin 16) (f : CodeSt → CodeSt) : (modCode s c f).adm = s.adm := rfl
@[simp] theorem modCode_tt (s : State) (c : Fin 16) (f : CodeSt → CodeSt) : (modCode s c f).tt = s.tt := rfl
@[simp] theorem modCode_results (s : State) (c : Fin 16) (f : CodeSt → CodeSt) : (modCode s c f).results = s.results := rfl
@[simp] theorem modCode_map (s : State) (c : Fin 16) (f : CodeSt → CodeSt) : (modCode s c f).map = s.map := rfl
@[simp] theorem modCode_vnr (s : State) (c : Fin 16) (f : CodeSt → CodeSt) : (modCode s c f).vnr = s.vnr := rfl
@[simp] theorem modCode_sbus (s : State) (c : Fin 16) (f : CodeSt → CodeSt) : (modCode s c f).sbus = s.sbus := rfl
@[simp] theorem modCode_devEnd (s : State) (c : Fin 16) (f : CodeSt → CodeSt) : (modCode s c f).devEnd = s.devEnd := rfl
@[simp] theorem modCode_cure (s : State) (c : Fin 16) (f : CodeSt → CodeSt) : (modCode s c f).cure = s.cure := rfl
@[simp] theorem modCode_tier (s : State) (c : Fin 16) (f : CodeSt → CodeSt) : (modCode s c f).tier = s.tier := rfl
@[simp] theorem modCode_conns (s : State) (c : Fin 16) (f : CodeSt → CodeSt) : (modCode s c f).conns = s.conns := rfl
@[simp] theorem modCode_ten (s : State) (c : Fin 16) (f : CodeSt → CodeSt) : (modCode s c f).ten = s.ten := rfl
@[simp] theorem modCode_arm (s : State) (c : Fin 16) (f : CodeSt → CodeSt) : (modCode s c f).arm = s.arm := rfl
@[simp] theorem modCode_fw (s : State) (c : Fin 16) (f : CodeSt → CodeSt) : (modCode s c f).fw = s.fw := rfl
@[simp] theorem modCode_pwr (s : State) (c : Fin 16) (f : CodeSt → CodeSt) : (modCode s c f).pwr = s.pwr := rfl
@[simp] theorem modCode_dram (s : State) (c : Fin 16) (f : CodeSt → CodeSt) : (modCode s c f).dram = s.dram := rfl
@[simp] theorem modCode_dramGen (s : State) (c : Fin 16) (f : CodeSt → CodeSt) : (modCode s c f).dramGen = s.dramGen := rfl
@[simp] theorem modCode_dramZero (s : State) (c : Fin 16) (f : CodeSt → CodeSt) : (modCode s c f).dramZero = s.dramZero := rfl
@[simp] theorem modCode_fresh (s : State) (c : Fin 16) (f : CodeSt → CodeSt) : (modCode s c f).fresh = s.fresh := rfl

@[simp] theorem modTier_pending (s : State) (f : TierSt → TierSt) : (modTier s f).pending = s.pending := rfl
@[simp] theorem modTier_beat (s : State) (f : TierSt → TierSt) : (modTier s f).beat = s.beat := rfl
@[simp] theorem modTier_csr (s : State) (f : TierSt → TierSt) : (modTier s f).csr = s.csr := rfl
@[simp] theorem modTier_evt (s : State) (f : TierSt → TierSt) : (modTier s f).evt = s.evt := rfl
@[simp] theorem modTier_jrn (s : State) (f : TierSt → TierSt) : (modTier s f).jrn = s.jrn := rfl
@[simp] theorem modTier_ports (s : State) (f : TierSt → TierSt) : (modTier s f).ports = s.ports := rfl
@[simp] theorem modTier_ntc (s : State) (f : TierSt → TierSt) : (modTier s f).ntc = s.ntc := rfl
@[simp] theorem modTier_adm (s : State) (f : TierSt → TierSt) : (modTier s f).adm = s.adm := rfl
@[simp] theorem modTier_tt (s : State) (f : TierSt → TierSt) : (modTier s f).tt = s.tt := rfl
@[simp] theorem modTier_results (s : State) (f : TierSt → TierSt) : (modTier s f).results = s.results := rfl
@[simp] theorem modTier_map (s : State) (f : TierSt → TierSt) : (modTier s f).map = s.map := rfl
@[simp] theorem modTier_vnr (s : State) (f : TierSt → TierSt) : (modTier s f).vnr = s.vnr := rfl
@[simp] theorem modTier_chans (s : State) (f : TierSt → TierSt) : (modTier s f).chans = s.chans := rfl
@[simp] theorem modTier_sbus (s : State) (f : TierSt → TierSt) : (modTier s f).sbus = s.sbus := rfl
@[simp] theorem modTier_devEnd (s : State) (f : TierSt → TierSt) : (modTier s f).devEnd = s.devEnd := rfl
@[simp] theorem modTier_cure (s : State) (f : TierSt → TierSt) : (modTier s f).cure = s.cure := rfl
@[simp] theorem modTier_conns (s : State) (f : TierSt → TierSt) : (modTier s f).conns = s.conns := rfl
@[simp] theorem modTier_ten (s : State) (f : TierSt → TierSt) : (modTier s f).ten = s.ten := rfl
@[simp] theorem modTier_arm (s : State) (f : TierSt → TierSt) : (modTier s f).arm = s.arm := rfl
@[simp] theorem modTier_fw (s : State) (f : TierSt → TierSt) : (modTier s f).fw = s.fw := rfl
@[simp] theorem modTier_pwr (s : State) (f : TierSt → TierSt) : (modTier s f).pwr = s.pwr := rfl
@[simp] theorem modTier_dram (s : State) (f : TierSt → TierSt) : (modTier s f).dram = s.dram := rfl
@[simp] theorem modTier_dramGen (s : State) (f : TierSt → TierSt) : (modTier s f).dramGen = s.dramGen := rfl
@[simp] theorem modTier_dramZero (s : State) (f : TierSt → TierSt) : (modTier s f).dramZero = s.dramZero := rfl
@[simp] theorem modTier_fresh (s : State) (f : TierSt → TierSt) : (modTier s f).fresh = s.fresh := rfl

@[simp] theorem modCure_pending (s : State) (f : CureSt → CureSt) : (modCure s f).pending = s.pending := rfl
@[simp] theorem modCure_beat (s : State) (f : CureSt → CureSt) : (modCure s f).beat = s.beat := rfl
@[simp] theorem modCure_csr (s : State) (f : CureSt → CureSt) : (modCure s f).csr = s.csr := rfl
@[simp] theorem modCure_evt (s : State) (f : CureSt → CureSt) : (modCure s f).evt = s.evt := rfl
@[simp] theorem modCure_jrn (s : State) (f : CureSt → CureSt) : (modCure s f).jrn = s.jrn := rfl
@[simp] theorem modCure_ports (s : State) (f : CureSt → CureSt) : (modCure s f).ports = s.ports := rfl
@[simp] theorem modCure_ntc (s : State) (f : CureSt → CureSt) : (modCure s f).ntc = s.ntc := rfl
@[simp] theorem modCure_adm (s : State) (f : CureSt → CureSt) : (modCure s f).adm = s.adm := rfl
@[simp] theorem modCure_tt (s : State) (f : CureSt → CureSt) : (modCure s f).tt = s.tt := rfl
@[simp] theorem modCure_results (s : State) (f : CureSt → CureSt) : (modCure s f).results = s.results := rfl
@[simp] theorem modCure_map (s : State) (f : CureSt → CureSt) : (modCure s f).map = s.map := rfl
@[simp] theorem modCure_vnr (s : State) (f : CureSt → CureSt) : (modCure s f).vnr = s.vnr := rfl
@[simp] theorem modCure_chans (s : State) (f : CureSt → CureSt) : (modCure s f).chans = s.chans := rfl
@[simp] theorem modCure_sbus (s : State) (f : CureSt → CureSt) : (modCure s f).sbus = s.sbus := rfl
@[simp] theorem modCure_devEnd (s : State) (f : CureSt → CureSt) : (modCure s f).devEnd = s.devEnd := rfl
@[simp] theorem modCure_tier (s : State) (f : CureSt → CureSt) : (modCure s f).tier = s.tier := rfl
@[simp] theorem modCure_conns (s : State) (f : CureSt → CureSt) : (modCure s f).conns = s.conns := rfl
@[simp] theorem modCure_ten (s : State) (f : CureSt → CureSt) : (modCure s f).ten = s.ten := rfl
@[simp] theorem modCure_arm (s : State) (f : CureSt → CureSt) : (modCure s f).arm = s.arm := rfl
@[simp] theorem modCure_fw (s : State) (f : CureSt → CureSt) : (modCure s f).fw = s.fw := rfl
@[simp] theorem modCure_pwr (s : State) (f : CureSt → CureSt) : (modCure s f).pwr = s.pwr := rfl
@[simp] theorem modCure_dram (s : State) (f : CureSt → CureSt) : (modCure s f).dram = s.dram := rfl
@[simp] theorem modCure_dramGen (s : State) (f : CureSt → CureSt) : (modCure s f).dramGen = s.dramGen := rfl
@[simp] theorem modCure_dramZero (s : State) (f : CureSt → CureSt) : (modCure s f).dramZero = s.dramZero := rfl
@[simp] theorem modCure_fresh (s : State) (f : CureSt → CureSt) : (modCure s f).fresh = s.fresh := rfl

@[simp] theorem modTen_pending (s : State) (f : TenSt → TenSt) : (modTen s f).pending = s.pending := rfl
@[simp] theorem modTen_beat (s : State) (f : TenSt → TenSt) : (modTen s f).beat = s.beat := rfl
@[simp] theorem modTen_csr (s : State) (f : TenSt → TenSt) : (modTen s f).csr = s.csr := rfl
@[simp] theorem modTen_evt (s : State) (f : TenSt → TenSt) : (modTen s f).evt = s.evt := rfl
@[simp] theorem modTen_jrn (s : State) (f : TenSt → TenSt) : (modTen s f).jrn = s.jrn := rfl
@[simp] theorem modTen_ports (s : State) (f : TenSt → TenSt) : (modTen s f).ports = s.ports := rfl
@[simp] theorem modTen_ntc (s : State) (f : TenSt → TenSt) : (modTen s f).ntc = s.ntc := rfl
@[simp] theorem modTen_adm (s : State) (f : TenSt → TenSt) : (modTen s f).adm = s.adm := rfl
@[simp] theorem modTen_tt (s : State) (f : TenSt → TenSt) : (modTen s f).tt = s.tt := rfl
@[simp] theorem modTen_results (s : State) (f : TenSt → TenSt) : (modTen s f).results = s.results := rfl
@[simp] theorem modTen_map (s : State) (f : TenSt → TenSt) : (modTen s f).map = s.map := rfl
@[simp] theorem modTen_vnr (s : State) (f : TenSt → TenSt) : (modTen s f).vnr = s.vnr := rfl
@[simp] theorem modTen_chans (s : State) (f : TenSt → TenSt) : (modTen s f).chans = s.chans := rfl
@[simp] theorem modTen_sbus (s : State) (f : TenSt → TenSt) : (modTen s f).sbus = s.sbus := rfl
@[simp] theorem modTen_devEnd (s : State) (f : TenSt → TenSt) : (modTen s f).devEnd = s.devEnd := rfl
@[simp] theorem modTen_cure (s : State) (f : TenSt → TenSt) : (modTen s f).cure = s.cure := rfl
@[simp] theorem modTen_tier (s : State) (f : TenSt → TenSt) : (modTen s f).tier = s.tier := rfl
@[simp] theorem modTen_conns (s : State) (f : TenSt → TenSt) : (modTen s f).conns = s.conns := rfl
@[simp] theorem modTen_arm (s : State) (f : TenSt → TenSt) : (modTen s f).arm = s.arm := rfl
@[simp] theorem modTen_fw (s : State) (f : TenSt → TenSt) : (modTen s f).fw = s.fw := rfl
@[simp] theorem modTen_pwr (s : State) (f : TenSt → TenSt) : (modTen s f).pwr = s.pwr := rfl
@[simp] theorem modTen_dram (s : State) (f : TenSt → TenSt) : (modTen s f).dram = s.dram := rfl
@[simp] theorem modTen_dramGen (s : State) (f : TenSt → TenSt) : (modTen s f).dramGen = s.dramGen := rfl
@[simp] theorem modTen_dramZero (s : State) (f : TenSt → TenSt) : (modTen s f).dramZero = s.dramZero := rfl
@[simp] theorem modTen_fresh (s : State) (f : TenSt → TenSt) : (modTen s f).fresh = s.fresh := rfl

@[simp] theorem modEng_pending (s : State) (e : Fin 8) (f : Engine → Engine) : (modEng s e f).pending = s.pending := rfl
@[simp] theorem modEng_beat (s : State) (e : Fin 8) (f : Engine → Engine) : (modEng s e f).beat = s.beat := rfl
@[simp] theorem modEng_csr (s : State) (e : Fin 8) (f : Engine → Engine) : (modEng s e f).csr = s.csr := rfl
@[simp] theorem modEng_evt (s : State) (e : Fin 8) (f : Engine → Engine) : (modEng s e f).evt = s.evt := rfl
@[simp] theorem modEng_jrn (s : State) (e : Fin 8) (f : Engine → Engine) : (modEng s e f).jrn = s.jrn := rfl
@[simp] theorem modEng_ports (s : State) (e : Fin 8) (f : Engine → Engine) : (modEng s e f).ports = s.ports := rfl
@[simp] theorem modEng_ntc (s : State) (e : Fin 8) (f : Engine → Engine) : (modEng s e f).ntc = s.ntc := rfl
@[simp] theorem modEng_adm (s : State) (e : Fin 8) (f : Engine → Engine) : (modEng s e f).adm = s.adm := rfl
@[simp] theorem modEng_tt (s : State) (e : Fin 8) (f : Engine → Engine) : (modEng s e f).tt = s.tt := rfl
@[simp] theorem modEng_results (s : State) (e : Fin 8) (f : Engine → Engine) : (modEng s e f).results = s.results := rfl
@[simp] theorem modEng_map (s : State) (e : Fin 8) (f : Engine → Engine) : (modEng s e f).map = s.map := rfl
@[simp] theorem modEng_vnr (s : State) (e : Fin 8) (f : Engine → Engine) : (modEng s e f).vnr = s.vnr := rfl
@[simp] theorem modEng_chans (s : State) (e : Fin 8) (f : Engine → Engine) : (modEng s e f).chans = s.chans := rfl
@[simp] theorem modEng_sbus (s : State) (e : Fin 8) (f : Engine → Engine) : (modEng s e f).sbus = s.sbus := rfl
@[simp] theorem modEng_devEnd (s : State) (e : Fin 8) (f : Engine → Engine) : (modEng s e f).devEnd = s.devEnd := rfl
@[simp] theorem modEng_cure (s : State) (e : Fin 8) (f : Engine → Engine) : (modEng s e f).cure = s.cure := rfl
@[simp] theorem modEng_tier (s : State) (e : Fin 8) (f : Engine → Engine) : (modEng s e f).tier = s.tier := rfl
@[simp] theorem modEng_conns (s : State) (e : Fin 8) (f : Engine → Engine) : (modEng s e f).conns = s.conns := rfl
@[simp] theorem modEng_arm (s : State) (e : Fin 8) (f : Engine → Engine) : (modEng s e f).arm = s.arm := rfl
@[simp] theorem modEng_fw (s : State) (e : Fin 8) (f : Engine → Engine) : (modEng s e f).fw = s.fw := rfl
@[simp] theorem modEng_pwr (s : State) (e : Fin 8) (f : Engine → Engine) : (modEng s e f).pwr = s.pwr := rfl
@[simp] theorem modEng_dram (s : State) (e : Fin 8) (f : Engine → Engine) : (modEng s e f).dram = s.dram := rfl
@[simp] theorem modEng_dramGen (s : State) (e : Fin 8) (f : Engine → Engine) : (modEng s e f).dramGen = s.dramGen := rfl
@[simp] theorem modEng_dramZero (s : State) (e : Fin 8) (f : Engine → Engine) : (modEng s e f).dramZero = s.dramZero := rfl
@[simp] theorem modEng_fresh (s : State) (e : Fin 8) (f : Engine → Engine) : (modEng s e f).fresh = s.fresh := rfl

@[simp] theorem modConn_pending (s : State) (c : Nat) (f : Conn → Conn) : (modConn s c f).pending = s.pending := rfl
@[simp] theorem modConn_beat (s : State) (c : Nat) (f : Conn → Conn) : (modConn s c f).beat = s.beat := rfl
@[simp] theorem modConn_csr (s : State) (c : Nat) (f : Conn → Conn) : (modConn s c f).csr = s.csr := rfl
@[simp] theorem modConn_evt (s : State) (c : Nat) (f : Conn → Conn) : (modConn s c f).evt = s.evt := rfl
@[simp] theorem modConn_jrn (s : State) (c : Nat) (f : Conn → Conn) : (modConn s c f).jrn = s.jrn := rfl
@[simp] theorem modConn_ports (s : State) (c : Nat) (f : Conn → Conn) : (modConn s c f).ports = s.ports := rfl
@[simp] theorem modConn_ntc (s : State) (c : Nat) (f : Conn → Conn) : (modConn s c f).ntc = s.ntc := rfl
@[simp] theorem modConn_adm (s : State) (c : Nat) (f : Conn → Conn) : (modConn s c f).adm = s.adm := rfl
@[simp] theorem modConn_tt (s : State) (c : Nat) (f : Conn → Conn) : (modConn s c f).tt = s.tt := rfl
@[simp] theorem modConn_results (s : State) (c : Nat) (f : Conn → Conn) : (modConn s c f).results = s.results := rfl
@[simp] theorem modConn_map (s : State) (c : Nat) (f : Conn → Conn) : (modConn s c f).map = s.map := rfl
@[simp] theorem modConn_vnr (s : State) (c : Nat) (f : Conn → Conn) : (modConn s c f).vnr = s.vnr := rfl
@[simp] theorem modConn_chans (s : State) (c : Nat) (f : Conn → Conn) : (modConn s c f).chans = s.chans := rfl
@[simp] theorem modConn_sbus (s : State) (c : Nat) (f : Conn → Conn) : (modConn s c f).sbus = s.sbus := rfl
@[simp] theorem modConn_devEnd (s : State) (c : Nat) (f : Conn → Conn) : (modConn s c f).devEnd = s.devEnd := rfl
@[simp] theorem modConn_cure (s : State) (c : Nat) (f : Conn → Conn) : (modConn s c f).cure = s.cure := rfl
@[simp] theorem modConn_tier (s : State) (c : Nat) (f : Conn → Conn) : (modConn s c f).tier = s.tier := rfl
@[simp] theorem modConn_ten (s : State) (c : Nat) (f : Conn → Conn) : (modConn s c f).ten = s.ten := rfl
@[simp] theorem modConn_arm (s : State) (c : Nat) (f : Conn → Conn) : (modConn s c f).arm = s.arm := rfl
@[simp] theorem modConn_fw (s : State) (c : Nat) (f : Conn → Conn) : (modConn s c f).fw = s.fw := rfl
@[simp] theorem modConn_pwr (s : State) (c : Nat) (f : Conn → Conn) : (modConn s c f).pwr = s.pwr := rfl
@[simp] theorem modConn_dram (s : State) (c : Nat) (f : Conn → Conn) : (modConn s c f).dram = s.dram := rfl
@[simp] theorem modConn_dramGen (s : State) (c : Nat) (f : Conn → Conn) : (modConn s c f).dramGen = s.dramGen := rfl
@[simp] theorem modConn_dramZero (s : State) (c : Nat) (f : Conn → Conn) : (modConn s c f).dramZero = s.dramZero := rfl
@[simp] theorem modConn_fresh (s : State) (c : Nat) (f : Conn → Conn) : (modConn s c f).fresh = s.fresh := rfl

@[simp] theorem modPwr_pending (s : State) (f : PwrSt → PwrSt) : (modPwr s f).pending = s.pending := rfl
@[simp] theorem modPwr_beat (s : State) (f : PwrSt → PwrSt) : (modPwr s f).beat = s.beat := rfl
@[simp] theorem modPwr_csr (s : State) (f : PwrSt → PwrSt) : (modPwr s f).csr = s.csr := rfl
@[simp] theorem modPwr_evt (s : State) (f : PwrSt → PwrSt) : (modPwr s f).evt = s.evt := rfl
@[simp] theorem modPwr_jrn (s : State) (f : PwrSt → PwrSt) : (modPwr s f).jrn = s.jrn := rfl
@[simp] theorem modPwr_ports (s : State) (f : PwrSt → PwrSt) : (modPwr s f).ports = s.ports := rfl
@[simp] theorem modPwr_ntc (s : State) (f : PwrSt → PwrSt) : (modPwr s f).ntc = s.ntc := rfl
@[simp] theorem modPwr_adm (s : State) (f : PwrSt → PwrSt) : (modPwr s f).adm = s.adm := rfl
@[simp] theorem modPwr_tt (s : State) (f : PwrSt → PwrSt) : (modPwr s f).tt = s.tt := rfl
@[simp] theorem modPwr_results (s : State) (f : PwrSt → PwrSt) : (modPwr s f).results = s.results := rfl
@[simp] theorem modPwr_map (s : State) (f : PwrSt → PwrSt) : (modPwr s f).map = s.map := rfl
@[simp] theorem modPwr_vnr (s : State) (f : PwrSt → PwrSt) : (modPwr s f).vnr = s.vnr := rfl
@[simp] theorem modPwr_chans (s : State) (f : PwrSt → PwrSt) : (modPwr s f).chans = s.chans := rfl
@[simp] theorem modPwr_sbus (s : State) (f : PwrSt → PwrSt) : (modPwr s f).sbus = s.sbus := rfl
@[simp] theorem modPwr_devEnd (s : State) (f : PwrSt → PwrSt) : (modPwr s f).devEnd = s.devEnd := rfl
@[simp] theorem modPwr_cure (s : State) (f : PwrSt → PwrSt) : (modPwr s f).cure = s.cure := rfl
@[simp] theorem modPwr_tier (s : State) (f : PwrSt → PwrSt) : (modPwr s f).tier = s.tier := rfl
@[simp] theorem modPwr_conns (s : State) (f : PwrSt → PwrSt) : (modPwr s f).conns = s.conns := rfl
@[simp] theorem modPwr_ten (s : State) (f : PwrSt → PwrSt) : (modPwr s f).ten = s.ten := rfl
@[simp] theorem modPwr_arm (s : State) (f : PwrSt → PwrSt) : (modPwr s f).arm = s.arm := rfl
@[simp] theorem modPwr_fw (s : State) (f : PwrSt → PwrSt) : (modPwr s f).fw = s.fw := rfl
@[simp] theorem modPwr_dram (s : State) (f : PwrSt → PwrSt) : (modPwr s f).dram = s.dram := rfl
@[simp] theorem modPwr_dramGen (s : State) (f : PwrSt → PwrSt) : (modPwr s f).dramGen = s.dramGen := rfl
@[simp] theorem modPwr_dramZero (s : State) (f : PwrSt → PwrSt) : (modPwr s f).dramZero = s.dramZero := rfl
@[simp] theorem modPwr_fresh (s : State) (f : PwrSt → PwrSt) : (modPwr s f).fresh = s.fresh := rfl

@[simp] theorem modArm_pending (s : State) (f : ArmSt → ArmSt) : (modArm s f).pending = s.pending := rfl
@[simp] theorem modArm_beat (s : State) (f : ArmSt → ArmSt) : (modArm s f).beat = s.beat := rfl
@[simp] theorem modArm_csr (s : State) (f : ArmSt → ArmSt) : (modArm s f).csr = s.csr := rfl
@[simp] theorem modArm_evt (s : State) (f : ArmSt → ArmSt) : (modArm s f).evt = s.evt := rfl
@[simp] theorem modArm_jrn (s : State) (f : ArmSt → ArmSt) : (modArm s f).jrn = s.jrn := rfl
@[simp] theorem modArm_ports (s : State) (f : ArmSt → ArmSt) : (modArm s f).ports = s.ports := rfl
@[simp] theorem modArm_ntc (s : State) (f : ArmSt → ArmSt) : (modArm s f).ntc = s.ntc := rfl
@[simp] theorem modArm_adm (s : State) (f : ArmSt → ArmSt) : (modArm s f).adm = s.adm := rfl
@[simp] theorem modArm_tt (s : State) (f : ArmSt → ArmSt) : (modArm s f).tt = s.tt := rfl
@[simp] theorem modArm_results (s : State) (f : ArmSt → ArmSt) : (modArm s f).results = s.results := rfl
@[simp] theorem modArm_map (s : State) (f : ArmSt → ArmSt) : (modArm s f).map = s.map := rfl
@[simp] theorem modArm_vnr (s : State) (f : ArmSt → ArmSt) : (modArm s f).vnr = s.vnr := rfl
@[simp] theorem modArm_chans (s : State) (f : ArmSt → ArmSt) : (modArm s f).chans = s.chans := rfl
@[simp] theorem modArm_sbus (s : State) (f : ArmSt → ArmSt) : (modArm s f).sbus = s.sbus := rfl
@[simp] theorem modArm_devEnd (s : State) (f : ArmSt → ArmSt) : (modArm s f).devEnd = s.devEnd := rfl
@[simp] theorem modArm_cure (s : State) (f : ArmSt → ArmSt) : (modArm s f).cure = s.cure := rfl
@[simp] theorem modArm_tier (s : State) (f : ArmSt → ArmSt) : (modArm s f).tier = s.tier := rfl
@[simp] theorem modArm_conns (s : State) (f : ArmSt → ArmSt) : (modArm s f).conns = s.conns := rfl
@[simp] theorem modArm_ten (s : State) (f : ArmSt → ArmSt) : (modArm s f).ten = s.ten := rfl
@[simp] theorem modArm_fw (s : State) (f : ArmSt → ArmSt) : (modArm s f).fw = s.fw := rfl
@[simp] theorem modArm_pwr (s : State) (f : ArmSt → ArmSt) : (modArm s f).pwr = s.pwr := rfl
@[simp] theorem modArm_dram (s : State) (f : ArmSt → ArmSt) : (modArm s f).dram = s.dram := rfl
@[simp] theorem modArm_dramGen (s : State) (f : ArmSt → ArmSt) : (modArm s f).dramGen = s.dramGen := rfl
@[simp] theorem modArm_dramZero (s : State) (f : ArmSt → ArmSt) : (modArm s f).dramZero = s.dramZero := rfl
@[simp] theorem modArm_fresh (s : State) (f : ArmSt → ArmSt) : (modArm s f).fresh = s.fresh := rfl

@[simp] theorem modFw_pending (s : State) (f : FwSt → FwSt) : (modFw s f).pending = s.pending := rfl
@[simp] theorem modFw_beat (s : State) (f : FwSt → FwSt) : (modFw s f).beat = s.beat := rfl
@[simp] theorem modFw_csr (s : State) (f : FwSt → FwSt) : (modFw s f).csr = s.csr := rfl
@[simp] theorem modFw_evt (s : State) (f : FwSt → FwSt) : (modFw s f).evt = s.evt := rfl
@[simp] theorem modFw_jrn (s : State) (f : FwSt → FwSt) : (modFw s f).jrn = s.jrn := rfl
@[simp] theorem modFw_ports (s : State) (f : FwSt → FwSt) : (modFw s f).ports = s.ports := rfl
@[simp] theorem modFw_ntc (s : State) (f : FwSt → FwSt) : (modFw s f).ntc = s.ntc := rfl
@[simp] theorem modFw_adm (s : State) (f : FwSt → FwSt) : (modFw s f).adm = s.adm := rfl
@[simp] theorem modFw_tt (s : State) (f : FwSt → FwSt) : (modFw s f).tt = s.tt := rfl
@[simp] theorem modFw_results (s : State) (f : FwSt → FwSt) : (modFw s f).results = s.results := rfl
@[simp] theorem modFw_map (s : State) (f : FwSt → FwSt) : (modFw s f).map = s.map := rfl
@[simp] theorem modFw_vnr (s : State) (f : FwSt → FwSt) : (modFw s f).vnr = s.vnr := rfl
@[simp] theorem modFw_chans (s : State) (f : FwSt → FwSt) : (modFw s f).chans = s.chans := rfl
@[simp] theorem modFw_sbus (s : State) (f : FwSt → FwSt) : (modFw s f).sbus = s.sbus := rfl
@[simp] theorem modFw_devEnd (s : State) (f : FwSt → FwSt) : (modFw s f).devEnd = s.devEnd := rfl
@[simp] theorem modFw_cure (s : State) (f : FwSt → FwSt) : (modFw s f).cure = s.cure := rfl
@[simp] theorem modFw_tier (s : State) (f : FwSt → FwSt) : (modFw s f).tier = s.tier := rfl
@[simp] theorem modFw_conns (s : State) (f : FwSt → FwSt) : (modFw s f).conns = s.conns := rfl
@[simp] theorem modFw_ten (s : State) (f : FwSt → FwSt) : (modFw s f).ten = s.ten := rfl
@[simp] theorem modFw_arm (s : State) (f : FwSt → FwSt) : (modFw s f).arm = s.arm := rfl
@[simp] theorem modFw_pwr (s : State) (f : FwSt → FwSt) : (modFw s f).pwr = s.pwr := rfl
@[simp] theorem modFw_dram (s : State) (f : FwSt → FwSt) : (modFw s f).dram = s.dram := rfl
@[simp] theorem modFw_dramGen (s : State) (f : FwSt → FwSt) : (modFw s f).dramGen = s.dramGen := rfl
@[simp] theorem modFw_dramZero (s : State) (f : FwSt → FwSt) : (modFw s f).dramZero = s.dramZero := rfl
@[simp] theorem modFw_fresh (s : State) (f : FwSt → FwSt) : (modFw s f).fresh = s.fresh := rfl

@[simp] theorem modMbx_pending (s : State) (m : Fin 4) (f : Mbx → Mbx) : (modMbx s m f).pending = s.pending := rfl
@[simp] theorem modMbx_beat (s : State) (m : Fin 4) (f : Mbx → Mbx) : (modMbx s m f).beat = s.beat := rfl
@[simp] theorem modMbx_csr (s : State) (m : Fin 4) (f : Mbx → Mbx) : (modMbx s m f).csr = s.csr := rfl
@[simp] theorem modMbx_evt (s : State) (m : Fin 4) (f : Mbx → Mbx) : (modMbx s m f).evt = s.evt := rfl
@[simp] theorem modMbx_jrn (s : State) (m : Fin 4) (f : Mbx → Mbx) : (modMbx s m f).jrn = s.jrn := rfl
@[simp] theorem modMbx_ports (s : State) (m : Fin 4) (f : Mbx → Mbx) : (modMbx s m f).ports = s.ports := rfl
@[simp] theorem modMbx_ntc (s : State) (m : Fin 4) (f : Mbx → Mbx) : (modMbx s m f).ntc = s.ntc := rfl
@[simp] theorem modMbx_adm (s : State) (m : Fin 4) (f : Mbx → Mbx) : (modMbx s m f).adm = s.adm := rfl
@[simp] theorem modMbx_tt (s : State) (m : Fin 4) (f : Mbx → Mbx) : (modMbx s m f).tt = s.tt := rfl
@[simp] theorem modMbx_results (s : State) (m : Fin 4) (f : Mbx → Mbx) : (modMbx s m f).results = s.results := rfl
@[simp] theorem modMbx_map (s : State) (m : Fin 4) (f : Mbx → Mbx) : (modMbx s m f).map = s.map := rfl
@[simp] theorem modMbx_vnr (s : State) (m : Fin 4) (f : Mbx → Mbx) : (modMbx s m f).vnr = s.vnr := rfl
@[simp] theorem modMbx_chans (s : State) (m : Fin 4) (f : Mbx → Mbx) : (modMbx s m f).chans = s.chans := rfl
@[simp] theorem modMbx_sbus (s : State) (m : Fin 4) (f : Mbx → Mbx) : (modMbx s m f).sbus = s.sbus := rfl
@[simp] theorem modMbx_devEnd (s : State) (m : Fin 4) (f : Mbx → Mbx) : (modMbx s m f).devEnd = s.devEnd := rfl
@[simp] theorem modMbx_cure (s : State) (m : Fin 4) (f : Mbx → Mbx) : (modMbx s m f).cure = s.cure := rfl
@[simp] theorem modMbx_tier (s : State) (m : Fin 4) (f : Mbx → Mbx) : (modMbx s m f).tier = s.tier := rfl
@[simp] theorem modMbx_conns (s : State) (m : Fin 4) (f : Mbx → Mbx) : (modMbx s m f).conns = s.conns := rfl
@[simp] theorem modMbx_ten (s : State) (m : Fin 4) (f : Mbx → Mbx) : (modMbx s m f).ten = s.ten := rfl
@[simp] theorem modMbx_arm (s : State) (m : Fin 4) (f : Mbx → Mbx) : (modMbx s m f).arm = s.arm := rfl
@[simp] theorem modMbx_pwr (s : State) (m : Fin 4) (f : Mbx → Mbx) : (modMbx s m f).pwr = s.pwr := rfl
@[simp] theorem modMbx_dram (s : State) (m : Fin 4) (f : Mbx → Mbx) : (modMbx s m f).dram = s.dram := rfl
@[simp] theorem modMbx_dramGen (s : State) (m : Fin 4) (f : Mbx → Mbx) : (modMbx s m f).dramGen = s.dramGen := rfl
@[simp] theorem modMbx_dramZero (s : State) (m : Fin 4) (f : Mbx → Mbx) : (modMbx s m f).dramZero = s.dramZero := rfl
@[simp] theorem modMbx_fresh (s : State) (m : Fin 4) (f : Mbx → Mbx) : (modMbx s m f).fresh = s.fresh := rfl

@[simp] theorem modCsr_pending (s : State) (f : CsrSt → CsrSt) : (modCsr s f).pending = s.pending := rfl
@[simp] theorem modCsr_beat (s : State) (f : CsrSt → CsrSt) : (modCsr s f).beat = s.beat := rfl
@[simp] theorem modCsr_evt (s : State) (f : CsrSt → CsrSt) : (modCsr s f).evt = s.evt := rfl
@[simp] theorem modCsr_jrn (s : State) (f : CsrSt → CsrSt) : (modCsr s f).jrn = s.jrn := rfl
@[simp] theorem modCsr_ports (s : State) (f : CsrSt → CsrSt) : (modCsr s f).ports = s.ports := rfl
@[simp] theorem modCsr_ntc (s : State) (f : CsrSt → CsrSt) : (modCsr s f).ntc = s.ntc := rfl
@[simp] theorem modCsr_adm (s : State) (f : CsrSt → CsrSt) : (modCsr s f).adm = s.adm := rfl
@[simp] theorem modCsr_tt (s : State) (f : CsrSt → CsrSt) : (modCsr s f).tt = s.tt := rfl
@[simp] theorem modCsr_results (s : State) (f : CsrSt → CsrSt) : (modCsr s f).results = s.results := rfl
@[simp] theorem modCsr_map (s : State) (f : CsrSt → CsrSt) : (modCsr s f).map = s.map := rfl
@[simp] theorem modCsr_vnr (s : State) (f : CsrSt → CsrSt) : (modCsr s f).vnr = s.vnr := rfl
@[simp] theorem modCsr_chans (s : State) (f : CsrSt → CsrSt) : (modCsr s f).chans = s.chans := rfl
@[simp] theorem modCsr_sbus (s : State) (f : CsrSt → CsrSt) : (modCsr s f).sbus = s.sbus := rfl
@[simp] theorem modCsr_devEnd (s : State) (f : CsrSt → CsrSt) : (modCsr s f).devEnd = s.devEnd := rfl
@[simp] theorem modCsr_cure (s : State) (f : CsrSt → CsrSt) : (modCsr s f).cure = s.cure := rfl
@[simp] theorem modCsr_tier (s : State) (f : CsrSt → CsrSt) : (modCsr s f).tier = s.tier := rfl
@[simp] theorem modCsr_conns (s : State) (f : CsrSt → CsrSt) : (modCsr s f).conns = s.conns := rfl
@[simp] theorem modCsr_ten (s : State) (f : CsrSt → CsrSt) : (modCsr s f).ten = s.ten := rfl
@[simp] theorem modCsr_arm (s : State) (f : CsrSt → CsrSt) : (modCsr s f).arm = s.arm := rfl
@[simp] theorem modCsr_fw (s : State) (f : CsrSt → CsrSt) : (modCsr s f).fw = s.fw := rfl
@[simp] theorem modCsr_pwr (s : State) (f : CsrSt → CsrSt) : (modCsr s f).pwr = s.pwr := rfl
@[simp] theorem modCsr_dram (s : State) (f : CsrSt → CsrSt) : (modCsr s f).dram = s.dram := rfl
@[simp] theorem modCsr_dramGen (s : State) (f : CsrSt → CsrSt) : (modCsr s f).dramGen = s.dramGen := rfl
@[simp] theorem modCsr_dramZero (s : State) (f : CsrSt → CsrSt) : (modCsr s f).dramZero = s.dramZero := rfl
@[simp] theorem modCsr_fresh (s : State) (f : CsrSt → CsrSt) : (modCsr s f).fresh = s.fresh := rfl

@[simp] theorem modBeat_pending (s : State) (f : BeatSt → BeatSt) : (modBeat s f).pending = s.pending := rfl
@[simp] theorem modBeat_csr (s : State) (f : BeatSt → BeatSt) : (modBeat s f).csr = s.csr := rfl
@[simp] theorem modBeat_evt (s : State) (f : BeatSt → BeatSt) : (modBeat s f).evt = s.evt := rfl
@[simp] theorem modBeat_jrn (s : State) (f : BeatSt → BeatSt) : (modBeat s f).jrn = s.jrn := rfl
@[simp] theorem modBeat_ports (s : State) (f : BeatSt → BeatSt) : (modBeat s f).ports = s.ports := rfl
@[simp] theorem modBeat_ntc (s : State) (f : BeatSt → BeatSt) : (modBeat s f).ntc = s.ntc := rfl
@[simp] theorem modBeat_adm (s : State) (f : BeatSt → BeatSt) : (modBeat s f).adm = s.adm := rfl
@[simp] theorem modBeat_tt (s : State) (f : BeatSt → BeatSt) : (modBeat s f).tt = s.tt := rfl
@[simp] theorem modBeat_results (s : State) (f : BeatSt → BeatSt) : (modBeat s f).results = s.results := rfl
@[simp] theorem modBeat_map (s : State) (f : BeatSt → BeatSt) : (modBeat s f).map = s.map := rfl
@[simp] theorem modBeat_vnr (s : State) (f : BeatSt → BeatSt) : (modBeat s f).vnr = s.vnr := rfl
@[simp] theorem modBeat_chans (s : State) (f : BeatSt → BeatSt) : (modBeat s f).chans = s.chans := rfl
@[simp] theorem modBeat_sbus (s : State) (f : BeatSt → BeatSt) : (modBeat s f).sbus = s.sbus := rfl
@[simp] theorem modBeat_devEnd (s : State) (f : BeatSt → BeatSt) : (modBeat s f).devEnd = s.devEnd := rfl
@[simp] theorem modBeat_cure (s : State) (f : BeatSt → BeatSt) : (modBeat s f).cure = s.cure := rfl
@[simp] theorem modBeat_tier (s : State) (f : BeatSt → BeatSt) : (modBeat s f).tier = s.tier := rfl
@[simp] theorem modBeat_conns (s : State) (f : BeatSt → BeatSt) : (modBeat s f).conns = s.conns := rfl
@[simp] theorem modBeat_ten (s : State) (f : BeatSt → BeatSt) : (modBeat s f).ten = s.ten := rfl
@[simp] theorem modBeat_arm (s : State) (f : BeatSt → BeatSt) : (modBeat s f).arm = s.arm := rfl
@[simp] theorem modBeat_fw (s : State) (f : BeatSt → BeatSt) : (modBeat s f).fw = s.fw := rfl
@[simp] theorem modBeat_pwr (s : State) (f : BeatSt → BeatSt) : (modBeat s f).pwr = s.pwr := rfl
@[simp] theorem modBeat_dram (s : State) (f : BeatSt → BeatSt) : (modBeat s f).dram = s.dram := rfl
@[simp] theorem modBeat_dramGen (s : State) (f : BeatSt → BeatSt) : (modBeat s f).dramGen = s.dramGen := rfl
@[simp] theorem modBeat_dramZero (s : State) (f : BeatSt → BeatSt) : (modBeat s f).dramZero = s.dramZero := rfl
@[simp] theorem modBeat_fresh (s : State) (f : BeatSt → BeatSt) : (modBeat s f).fresh = s.fresh := rfl

@[simp] theorem modJig_pending (s : State) (e : Fin 4) (f : JigSt → JigSt) : (modJig s e f).pending = s.pending := rfl
@[simp] theorem modJig_beat (s : State) (e : Fin 4) (f : JigSt → JigSt) : (modJig s e f).beat = s.beat := rfl
@[simp] theorem modJig_csr (s : State) (e : Fin 4) (f : JigSt → JigSt) : (modJig s e f).csr = s.csr := rfl
@[simp] theorem modJig_evt (s : State) (e : Fin 4) (f : JigSt → JigSt) : (modJig s e f).evt = s.evt := rfl
@[simp] theorem modJig_jrn (s : State) (e : Fin 4) (f : JigSt → JigSt) : (modJig s e f).jrn = s.jrn := rfl
@[simp] theorem modJig_ports (s : State) (e : Fin 4) (f : JigSt → JigSt) : (modJig s e f).ports = s.ports := rfl
@[simp] theorem modJig_ntc (s : State) (e : Fin 4) (f : JigSt → JigSt) : (modJig s e f).ntc = s.ntc := rfl
@[simp] theorem modJig_adm (s : State) (e : Fin 4) (f : JigSt → JigSt) : (modJig s e f).adm = s.adm := rfl
@[simp] theorem modJig_tt (s : State) (e : Fin 4) (f : JigSt → JigSt) : (modJig s e f).tt = s.tt := rfl
@[simp] theorem modJig_results (s : State) (e : Fin 4) (f : JigSt → JigSt) : (modJig s e f).results = s.results := rfl
@[simp] theorem modJig_map (s : State) (e : Fin 4) (f : JigSt → JigSt) : (modJig s e f).map = s.map := rfl
@[simp] theorem modJig_vnr (s : State) (e : Fin 4) (f : JigSt → JigSt) : (modJig s e f).vnr = s.vnr := rfl
@[simp] theorem modJig_chans (s : State) (e : Fin 4) (f : JigSt → JigSt) : (modJig s e f).chans = s.chans := rfl
@[simp] theorem modJig_sbus (s : State) (e : Fin 4) (f : JigSt → JigSt) : (modJig s e f).sbus = s.sbus := rfl
@[simp] theorem modJig_devEnd (s : State) (e : Fin 4) (f : JigSt → JigSt) : (modJig s e f).devEnd = s.devEnd := rfl
@[simp] theorem modJig_cure (s : State) (e : Fin 4) (f : JigSt → JigSt) : (modJig s e f).cure = s.cure := rfl
@[simp] theorem modJig_conns (s : State) (e : Fin 4) (f : JigSt → JigSt) : (modJig s e f).conns = s.conns := rfl
@[simp] theorem modJig_ten (s : State) (e : Fin 4) (f : JigSt → JigSt) : (modJig s e f).ten = s.ten := rfl
@[simp] theorem modJig_arm (s : State) (e : Fin 4) (f : JigSt → JigSt) : (modJig s e f).arm = s.arm := rfl
@[simp] theorem modJig_fw (s : State) (e : Fin 4) (f : JigSt → JigSt) : (modJig s e f).fw = s.fw := rfl
@[simp] theorem modJig_pwr (s : State) (e : Fin 4) (f : JigSt → JigSt) : (modJig s e f).pwr = s.pwr := rfl
@[simp] theorem modJig_dram (s : State) (e : Fin 4) (f : JigSt → JigSt) : (modJig s e f).dram = s.dram := rfl
@[simp] theorem modJig_dramGen (s : State) (e : Fin 4) (f : JigSt → JigSt) : (modJig s e f).dramGen = s.dramGen := rfl
@[simp] theorem modJig_dramZero (s : State) (e : Fin 4) (f : JigSt → JigSt) : (modJig s e f).dramZero = s.dramZero := rfl
@[simp] theorem modJig_fresh (s : State) (e : Fin 4) (f : JigSt → JigSt) : (modJig s e f).fresh = s.fresh := rfl

@[simp] theorem modNbr_pending (s : State) (j : Fin 32) (f : NbrSt → NbrSt) : (modNbr s j f).pending = s.pending := rfl
@[simp] theorem modNbr_beat (s : State) (j : Fin 32) (f : NbrSt → NbrSt) : (modNbr s j f).beat = s.beat := rfl
@[simp] theorem modNbr_csr (s : State) (j : Fin 32) (f : NbrSt → NbrSt) : (modNbr s j f).csr = s.csr := rfl
@[simp] theorem modNbr_evt (s : State) (j : Fin 32) (f : NbrSt → NbrSt) : (modNbr s j f).evt = s.evt := rfl
@[simp] theorem modNbr_jrn (s : State) (j : Fin 32) (f : NbrSt → NbrSt) : (modNbr s j f).jrn = s.jrn := rfl
@[simp] theorem modNbr_ports (s : State) (j : Fin 32) (f : NbrSt → NbrSt) : (modNbr s j f).ports = s.ports := rfl
@[simp] theorem modNbr_ntc (s : State) (j : Fin 32) (f : NbrSt → NbrSt) : (modNbr s j f).ntc = s.ntc := rfl
@[simp] theorem modNbr_adm (s : State) (j : Fin 32) (f : NbrSt → NbrSt) : (modNbr s j f).adm = s.adm := rfl
@[simp] theorem modNbr_tt (s : State) (j : Fin 32) (f : NbrSt → NbrSt) : (modNbr s j f).tt = s.tt := rfl
@[simp] theorem modNbr_results (s : State) (j : Fin 32) (f : NbrSt → NbrSt) : (modNbr s j f).results = s.results := rfl
@[simp] theorem modNbr_map (s : State) (j : Fin 32) (f : NbrSt → NbrSt) : (modNbr s j f).map = s.map := rfl
@[simp] theorem modNbr_vnr (s : State) (j : Fin 32) (f : NbrSt → NbrSt) : (modNbr s j f).vnr = s.vnr := rfl
@[simp] theorem modNbr_chans (s : State) (j : Fin 32) (f : NbrSt → NbrSt) : (modNbr s j f).chans = s.chans := rfl
@[simp] theorem modNbr_sbus (s : State) (j : Fin 32) (f : NbrSt → NbrSt) : (modNbr s j f).sbus = s.sbus := rfl
@[simp] theorem modNbr_devEnd (s : State) (j : Fin 32) (f : NbrSt → NbrSt) : (modNbr s j f).devEnd = s.devEnd := rfl
@[simp] theorem modNbr_cure (s : State) (j : Fin 32) (f : NbrSt → NbrSt) : (modNbr s j f).cure = s.cure := rfl
@[simp] theorem modNbr_conns (s : State) (j : Fin 32) (f : NbrSt → NbrSt) : (modNbr s j f).conns = s.conns := rfl
@[simp] theorem modNbr_ten (s : State) (j : Fin 32) (f : NbrSt → NbrSt) : (modNbr s j f).ten = s.ten := rfl
@[simp] theorem modNbr_arm (s : State) (j : Fin 32) (f : NbrSt → NbrSt) : (modNbr s j f).arm = s.arm := rfl
@[simp] theorem modNbr_fw (s : State) (j : Fin 32) (f : NbrSt → NbrSt) : (modNbr s j f).fw = s.fw := rfl
@[simp] theorem modNbr_pwr (s : State) (j : Fin 32) (f : NbrSt → NbrSt) : (modNbr s j f).pwr = s.pwr := rfl
@[simp] theorem modNbr_dram (s : State) (j : Fin 32) (f : NbrSt → NbrSt) : (modNbr s j f).dram = s.dram := rfl
@[simp] theorem modNbr_dramGen (s : State) (j : Fin 32) (f : NbrSt → NbrSt) : (modNbr s j f).dramGen = s.dramGen := rfl
@[simp] theorem modNbr_dramZero (s : State) (j : Fin 32) (f : NbrSt → NbrSt) : (modNbr s j f).dramZero = s.dramZero := rfl
@[simp] theorem modNbr_fresh (s : State) (j : Fin 32) (f : NbrSt → NbrSt) : (modNbr s j f).fresh = s.fresh := rfl

@[simp] theorem ttMod_pending (s : State) (rid : Nat) (f : TtEntry → TtEntry) : (ttMod s rid f).pending = s.pending := rfl
@[simp] theorem ttMod_beat (s : State) (rid : Nat) (f : TtEntry → TtEntry) : (ttMod s rid f).beat = s.beat := rfl
@[simp] theorem ttMod_csr (s : State) (rid : Nat) (f : TtEntry → TtEntry) : (ttMod s rid f).csr = s.csr := rfl
@[simp] theorem ttMod_evt (s : State) (rid : Nat) (f : TtEntry → TtEntry) : (ttMod s rid f).evt = s.evt := rfl
@[simp] theorem ttMod_jrn (s : State) (rid : Nat) (f : TtEntry → TtEntry) : (ttMod s rid f).jrn = s.jrn := rfl
@[simp] theorem ttMod_ports (s : State) (rid : Nat) (f : TtEntry → TtEntry) : (ttMod s rid f).ports = s.ports := rfl
@[simp] theorem ttMod_ntc (s : State) (rid : Nat) (f : TtEntry → TtEntry) : (ttMod s rid f).ntc = s.ntc := rfl
@[simp] theorem ttMod_adm (s : State) (rid : Nat) (f : TtEntry → TtEntry) : (ttMod s rid f).adm = s.adm := rfl
@[simp] theorem ttMod_results (s : State) (rid : Nat) (f : TtEntry → TtEntry) : (ttMod s rid f).results = s.results := rfl
@[simp] theorem ttMod_map (s : State) (rid : Nat) (f : TtEntry → TtEntry) : (ttMod s rid f).map = s.map := rfl
@[simp] theorem ttMod_vnr (s : State) (rid : Nat) (f : TtEntry → TtEntry) : (ttMod s rid f).vnr = s.vnr := rfl
@[simp] theorem ttMod_chans (s : State) (rid : Nat) (f : TtEntry → TtEntry) : (ttMod s rid f).chans = s.chans := rfl
@[simp] theorem ttMod_sbus (s : State) (rid : Nat) (f : TtEntry → TtEntry) : (ttMod s rid f).sbus = s.sbus := rfl
@[simp] theorem ttMod_devEnd (s : State) (rid : Nat) (f : TtEntry → TtEntry) : (ttMod s rid f).devEnd = s.devEnd := rfl
@[simp] theorem ttMod_cure (s : State) (rid : Nat) (f : TtEntry → TtEntry) : (ttMod s rid f).cure = s.cure := rfl
@[simp] theorem ttMod_tier (s : State) (rid : Nat) (f : TtEntry → TtEntry) : (ttMod s rid f).tier = s.tier := rfl
@[simp] theorem ttMod_conns (s : State) (rid : Nat) (f : TtEntry → TtEntry) : (ttMod s rid f).conns = s.conns := rfl
@[simp] theorem ttMod_ten (s : State) (rid : Nat) (f : TtEntry → TtEntry) : (ttMod s rid f).ten = s.ten := rfl
@[simp] theorem ttMod_arm (s : State) (rid : Nat) (f : TtEntry → TtEntry) : (ttMod s rid f).arm = s.arm := rfl
@[simp] theorem ttMod_fw (s : State) (rid : Nat) (f : TtEntry → TtEntry) : (ttMod s rid f).fw = s.fw := rfl
@[simp] theorem ttMod_pwr (s : State) (rid : Nat) (f : TtEntry → TtEntry) : (ttMod s rid f).pwr = s.pwr := rfl
@[simp] theorem ttMod_dram (s : State) (rid : Nat) (f : TtEntry → TtEntry) : (ttMod s rid f).dram = s.dram := rfl
@[simp] theorem ttMod_dramGen (s : State) (rid : Nat) (f : TtEntry → TtEntry) : (ttMod s rid f).dramGen = s.dramGen := rfl
@[simp] theorem ttMod_dramZero (s : State) (rid : Nat) (f : TtEntry → TtEntry) : (ttMod s rid f).dramZero = s.dramZero := rfl
@[simp] theorem ttMod_fresh (s : State) (rid : Nat) (f : TtEntry → TtEntry) : (ttMod s rid f).fresh = s.fresh := rfl

@[simp] theorem modSlice_pending (s : State) (sl : Fin 16) (f : VSlice → VSlice) : (modSlice s sl f).pending = s.pending := rfl
@[simp] theorem modSlice_beat (s : State) (sl : Fin 16) (f : VSlice → VSlice) : (modSlice s sl f).beat = s.beat := rfl
@[simp] theorem modSlice_csr (s : State) (sl : Fin 16) (f : VSlice → VSlice) : (modSlice s sl f).csr = s.csr := rfl
@[simp] theorem modSlice_evt (s : State) (sl : Fin 16) (f : VSlice → VSlice) : (modSlice s sl f).evt = s.evt := rfl
@[simp] theorem modSlice_jrn (s : State) (sl : Fin 16) (f : VSlice → VSlice) : (modSlice s sl f).jrn = s.jrn := rfl
@[simp] theorem modSlice_ports (s : State) (sl : Fin 16) (f : VSlice → VSlice) : (modSlice s sl f).ports = s.ports := rfl
@[simp] theorem modSlice_ntc (s : State) (sl : Fin 16) (f : VSlice → VSlice) : (modSlice s sl f).ntc = s.ntc := rfl
@[simp] theorem modSlice_adm (s : State) (sl : Fin 16) (f : VSlice → VSlice) : (modSlice s sl f).adm = s.adm := rfl
@[simp] theorem modSlice_tt (s : State) (sl : Fin 16) (f : VSlice → VSlice) : (modSlice s sl f).tt = s.tt := rfl
@[simp] theorem modSlice_results (s : State) (sl : Fin 16) (f : VSlice → VSlice) : (modSlice s sl f).results = s.results := rfl
@[simp] theorem modSlice_map (s : State) (sl : Fin 16) (f : VSlice → VSlice) : (modSlice s sl f).map = s.map := rfl
@[simp] theorem modSlice_chans (s : State) (sl : Fin 16) (f : VSlice → VSlice) : (modSlice s sl f).chans = s.chans := rfl
@[simp] theorem modSlice_sbus (s : State) (sl : Fin 16) (f : VSlice → VSlice) : (modSlice s sl f).sbus = s.sbus := rfl
@[simp] theorem modSlice_devEnd (s : State) (sl : Fin 16) (f : VSlice → VSlice) : (modSlice s sl f).devEnd = s.devEnd := rfl
@[simp] theorem modSlice_cure (s : State) (sl : Fin 16) (f : VSlice → VSlice) : (modSlice s sl f).cure = s.cure := rfl
@[simp] theorem modSlice_tier (s : State) (sl : Fin 16) (f : VSlice → VSlice) : (modSlice s sl f).tier = s.tier := rfl
@[simp] theorem modSlice_conns (s : State) (sl : Fin 16) (f : VSlice → VSlice) : (modSlice s sl f).conns = s.conns := rfl
@[simp] theorem modSlice_ten (s : State) (sl : Fin 16) (f : VSlice → VSlice) : (modSlice s sl f).ten = s.ten := rfl
@[simp] theorem modSlice_arm (s : State) (sl : Fin 16) (f : VSlice → VSlice) : (modSlice s sl f).arm = s.arm := rfl
@[simp] theorem modSlice_fw (s : State) (sl : Fin 16) (f : VSlice → VSlice) : (modSlice s sl f).fw = s.fw := rfl
@[simp] theorem modSlice_pwr (s : State) (sl : Fin 16) (f : VSlice → VSlice) : (modSlice s sl f).pwr = s.pwr := rfl
@[simp] theorem modSlice_dram (s : State) (sl : Fin 16) (f : VSlice → VSlice) : (modSlice s sl f).dram = s.dram := rfl
@[simp] theorem modSlice_dramGen (s : State) (sl : Fin 16) (f : VSlice → VSlice) : (modSlice s sl f).dramGen = s.dramGen := rfl
@[simp] theorem modSlice_dramZero (s : State) (sl : Fin 16) (f : VSlice → VSlice) : (modSlice s sl f).dramZero = s.dramZero := rfl
@[simp] theorem modSlice_fresh (s : State) (sl : Fin 16) (f : VSlice → VSlice) : (modSlice s sl f).fresh = s.fresh := rfl

@[simp] theorem askFence_pending (s : State) (c : Fin 16) (code evt : Nat) : (askFence s c code evt).pending = s.pending := rfl
@[simp] theorem askFence_beat (s : State) (c : Fin 16) (code evt : Nat) : (askFence s c code evt).beat = s.beat := rfl
@[simp] theorem askFence_csr (s : State) (c : Fin 16) (code evt : Nat) : (askFence s c code evt).csr = s.csr := rfl
@[simp] theorem askFence_jrn (s : State) (c : Fin 16) (code evt : Nat) : (askFence s c code evt).jrn = s.jrn := rfl
@[simp] theorem askFence_ports (s : State) (c : Fin 16) (code evt : Nat) : (askFence s c code evt).ports = s.ports := rfl
@[simp] theorem askFence_ntc (s : State) (c : Fin 16) (code evt : Nat) : (askFence s c code evt).ntc = s.ntc := rfl
@[simp] theorem askFence_adm (s : State) (c : Fin 16) (code evt : Nat) : (askFence s c code evt).adm = s.adm := rfl
@[simp] theorem askFence_tt (s : State) (c : Fin 16) (code evt : Nat) : (askFence s c code evt).tt = s.tt := rfl
@[simp] theorem askFence_results (s : State) (c : Fin 16) (code evt : Nat) : (askFence s c code evt).results = s.results := rfl
@[simp] theorem askFence_map (s : State) (c : Fin 16) (code evt : Nat) : (askFence s c code evt).map = s.map := rfl
@[simp] theorem askFence_vnr (s : State) (c : Fin 16) (code evt : Nat) : (askFence s c code evt).vnr = s.vnr := rfl
@[simp] theorem askFence_chans (s : State) (c : Fin 16) (code evt : Nat) : (askFence s c code evt).chans = s.chans := rfl
@[simp] theorem askFence_sbus (s : State) (c : Fin 16) (code evt : Nat) : (askFence s c code evt).sbus = s.sbus := rfl
@[simp] theorem askFence_devEnd (s : State) (c : Fin 16) (code evt : Nat) : (askFence s c code evt).devEnd = s.devEnd := rfl
@[simp] theorem askFence_cure (s : State) (c : Fin 16) (code evt : Nat) : (askFence s c code evt).cure = s.cure := rfl
@[simp] theorem askFence_tier (s : State) (c : Fin 16) (code evt : Nat) : (askFence s c code evt).tier = s.tier := rfl
@[simp] theorem askFence_conns (s : State) (c : Fin 16) (code evt : Nat) : (askFence s c code evt).conns = s.conns := rfl
@[simp] theorem askFence_ten (s : State) (c : Fin 16) (code evt : Nat) : (askFence s c code evt).ten = s.ten := rfl
@[simp] theorem askFence_arm (s : State) (c : Fin 16) (code evt : Nat) : (askFence s c code evt).arm = s.arm := rfl
@[simp] theorem askFence_fw (s : State) (c : Fin 16) (code evt : Nat) : (askFence s c code evt).fw = s.fw := rfl
@[simp] theorem askFence_pwr (s : State) (c : Fin 16) (code evt : Nat) : (askFence s c code evt).pwr = s.pwr := rfl
@[simp] theorem askFence_dram (s : State) (c : Fin 16) (code evt : Nat) : (askFence s c code evt).dram = s.dram := rfl
@[simp] theorem askFence_dramGen (s : State) (c : Fin 16) (code evt : Nat) : (askFence s c code evt).dramGen = s.dramGen := rfl
@[simp] theorem askFence_dramZero (s : State) (c : Fin 16) (code evt : Nat) : (askFence s c code evt).dramZero = s.dramZero := rfl
@[simp] theorem askFence_fresh (s : State) (c : Fin 16) (code evt : Nat) : (askFence s c code evt).fresh = s.fresh := rfl

/-! Reading what was written. -/

@[simp] theorem modTier_tier (s : State) (f : TierSt → TierSt) : (modTier s f).tier = f s.tier := rfl
@[simp] theorem modCure_cure (s : State) (f : CureSt → CureSt) : (modCure s f).cure = f s.cure := rfl
@[simp] theorem modTen_ten (s : State) (f : TenSt → TenSt) : (modTen s f).ten = f s.ten := rfl
@[simp] theorem modPwr_pwr (s : State) (f : PwrSt → PwrSt) : (modPwr s f).pwr = f s.pwr := rfl
@[simp] theorem modArm_arm (s : State) (f : ArmSt → ArmSt) : (modArm s f).arm = f s.arm := rfl
@[simp] theorem modFw_fw (s : State) (f : FwSt → FwSt) : (modFw s f).fw = f s.fw := rfl
@[simp] theorem modCsr_csr (s : State) (f : CsrSt → CsrSt) : (modCsr s f).csr = f s.csr := rfl
@[simp] theorem modBeat_beat (s : State) (f : BeatSt → BeatSt) : (modBeat s f).beat = f s.beat := rfl

@[simp] theorem modPort_port (s : State) (p : Fin 8) (f : Port → Port) : port (modPort s p f) p = f (port s p) := by
  simp [port, modPort]

theorem modPort_port_ne (s : State) (p q : Fin 8) (f : Port → Port) (h : p ≠ q) : port (modPort s p f) q = port s q := by
  have : p.val ≠ q.val := fun e => h (Fin.ext e)
  simp [port, modPort, Vector.getElem_set_ne, this]

@[simp] theorem modChan_chan (s : State) (c : Fin 16) (f : ChanSt → ChanSt) : chan (modChan s c f) c = f (chan s c) := by
  simp [chan, modChan]

theorem modChan_chan_ne (s : State) (c d : Fin 16) (f : ChanSt → ChanSt) (h : c ≠ d) : chan (modChan s c f) d = chan s d := by
  have : c.val ≠ d.val := fun e => h (Fin.ext e)
  simp [chan, modChan, Vector.getElem_set_ne, this]

@[simp] theorem modSch_sch (s : State) (c : Fin 16) (f : SchedSt → SchedSt) : (chan (modSch s c f) c).sch = f (chan s c).sch := by
  simp [modSch]
@[simp] theorem modRef_ref (s : State) (c : Fin 16) (f : RefSt → RefSt) : (chan (modRef s c f) c).ref = f (chan s c).ref := by
  simp [modRef]
@[simp] theorem modPhy_phy (s : State) (c : Fin 16) (f : PhySt → PhySt) : (chan (modPhy s c f) c).phy = f (chan s c).phy := by
  simp [modPhy]
@[simp] theorem modKeep_keep (s : State) (c : Fin 16) (f : KeepSt → KeepSt) : (chan (modKeep s c f) c).keep = f (chan s c).keep := by
  simp [modKeep]
@[simp] theorem modCode_code (s : State) (c : Fin 16) (f : CodeSt → CodeSt) : (chan (modCode s c f) c).code = f (chan s c).code := by
  simp [modCode]

/-- A register reads the value last written, in a canonical state. -/
theorem getReg_setReg (s : State) (h : smWf 0 s.csr.val = true) (r q : RegRef) (v : Word64) (hr : q.off = r.off → q.rst = r.rst) :
    getReg (setReg s r v) q = if q.off = r.off then v else getReg s q := by
  unfold getReg setReg
  simp only [smGet_smSet 0 r.off q.off _ h]
  split
  · rename_i e
    rw [hr e, BitVec.xor_assoc, BitVec.xor_self, BitVec.xor_zero]
  · rfl

theorem chan_of_chans {s t : State} (h : t.chans = s.chans) (c : Fin 16) : chan t c = chan s c := by unfold chan; rw [h]

theorem port_of_ports {s t : State} (h : t.ports = s.ports) (p : Fin 8) : port t p = port s p := by unfold port; rw [h]

/-- From `s` to `t` only the event state, the register fabric and the journal may differ. -/
def EvtOnly (s t : State) : Prop := ∃ x y z, t = { s with evt := x, csr := y, jrn := z }

theorem EvtOnly.refl (s : State) : EvtOnly s s := ⟨_, _, _, rfl⟩

theorem EvtOnly.cnt {s t : State} (h : EvtOnly s t) (r : RegRef) : EvtOnly s (cntInc t r) := by
  obtain ⟨x, y, z, rfl⟩ := h
  exact ⟨_, _, _, rfl⟩

theorem EvtOnly.evt {s t : State} (h : EvtOnly s t) (e : EvtSt) : EvtOnly s { t with evt := e } := by
  obtain ⟨x, y, z, rfl⟩ := h
  exact ⟨_, _, _, rfl⟩

theorem EvtOnly.doIf {s t : State} (h : EvtOnly s t) (c : Bool) (f : State → State) (hf : ∀ u, EvtOnly s u → EvtOnly s (f u)) :
    EvtOnly s (doIf c f t) := by
  unfold Machine.doIf
  split
  · exact hf t h
  · exact h

theorem EvtOnly.forEach {α : Type} {s t : State} (h : EvtOnly s t) (xs : List α) (f : State → α → State)
    (hf : ∀ u x, EvtOnly s u → EvtOnly s (f u x)) : EvtOnly s (forEach xs t f) := by
  unfold Machine.forEach
  induction xs generalizing t with
  | nil => exact h
  | cons x xs ih => exact ih (hf t x h)

theorem jrnEnqueue_only {s t : State} (h : EvtOnly s t) (e : JrnEvt) : EvtOnly s (jrnEnqueue t e) := by
  obtain ⟨x, y, z, rfl⟩ := h
  unfold jrnEnqueue
  split
  · exact ⟨_, _, _, rfl⟩
  · exact ⟨_, _, _, rfl⟩

theorem failover_only {s t : State} (h : EvtOnly s t) (id : Nat) : EvtOnly s (failover t id) := by
  unfold failover
  split
  · refine EvtOnly.cnt (EvtOnly.evt (h.forEach _ _ fun u c hu => ?_) _) _
    split
    · exact hu.evt _
    · exact hu
  · exact h.evt _

theorem react_only {s t : State} (h : EvtOnly s t) (id mask : Nat) (act : Bool) (e : JrnEvt) :
    EvtOnly s (react t id mask act e) := by
  unfold react
  extract_lets j1 j2 j3 j4
  have k1 : EvtOnly s j1 := h.doIf _ _ fun _ k => jrnEnqueue_only k _
  have k2 : EvtOnly s j2 := k1.doIf _ _ fun _ k => (k.evt _).cnt _
  have k3 : EvtOnly s j3 := k2.doIf _ _ fun _ k => (k.evt _).cnt _
  have k4 : EvtOnly s j4 := k3.doIf _ _ fun _ k => failover_only k _
  exact k4.doIf _ _ fun _ k => k.evt _

/-- An event changes the event state, counters and the journal's queue, and nothing else (R467, R473). -/
theorem raiseEvt_only {s t : State} (h : EvtOnly s t) (id : Nat) (ds : List Word32) (o : EvtOrigin) (u f : Bool) :
    EvtOnly s (raiseEvt t id ds o u f) := by
  unfold raiseEvt
  split
  · extract_lets r beat cfg
    split
    refine react_only ?_ ..
    refine EvtOnly.doIf ?_ _ _ fun _ k => k.cnt _
    refine EvtOnly.doIf ?_ _ _ fun _ k => k.cnt _
    refine EvtOnly.doIf ?_ _ _ fun _ k => k.cnt _
    exact EvtOnly.cnt (h.evt _) _
  · exact h

@[simp] theorem raiseEvt_pending (s : State) (id : Nat) (ds : List Word32) (o : EvtOrigin) (u f : Bool) :
    (raiseEvt s id ds o u f).pending = s.pending := by
  obtain ⟨_, _, _, e⟩ := raiseEvt_only (EvtOnly.refl s) id ds o u f
  rw [e]
@[simp] theorem ev_pending (s : State) (id : Nat) : (ev s id).pending = s.pending := raiseEvt_pending ..
@[simp] theorem evd_pending (s : State) (id : Nat) (ds : List Word32) : (evd s id ds).pending = s.pending := raiseEvt_pending ..
@[simp] theorem evo_pending (s : State) (id : Nat) (ds : List Word32) (o : EvtOrigin) : (evo s id ds o).pending = s.pending := raiseEvt_pending ..
@[simp] theorem raiseEvt_beat (s : State) (id : Nat) (ds : List Word32) (o : EvtOrigin) (u f : Bool) :
    (raiseEvt s id ds o u f).beat = s.beat := by
  obtain ⟨_, _, _, e⟩ := raiseEvt_only (EvtOnly.refl s) id ds o u f
  rw [e]
@[simp] theorem ev_beat (s : State) (id : Nat) : (ev s id).beat = s.beat := raiseEvt_beat ..
@[simp] theorem evd_beat (s : State) (id : Nat) (ds : List Word32) : (evd s id ds).beat = s.beat := raiseEvt_beat ..
@[simp] theorem evo_beat (s : State) (id : Nat) (ds : List Word32) (o : EvtOrigin) : (evo s id ds o).beat = s.beat := raiseEvt_beat ..
@[simp] theorem raiseEvt_ports (s : State) (id : Nat) (ds : List Word32) (o : EvtOrigin) (u f : Bool) :
    (raiseEvt s id ds o u f).ports = s.ports := by
  obtain ⟨_, _, _, e⟩ := raiseEvt_only (EvtOnly.refl s) id ds o u f
  rw [e]
@[simp] theorem ev_ports (s : State) (id : Nat) : (ev s id).ports = s.ports := raiseEvt_ports ..
@[simp] theorem evd_ports (s : State) (id : Nat) (ds : List Word32) : (evd s id ds).ports = s.ports := raiseEvt_ports ..
@[simp] theorem evo_ports (s : State) (id : Nat) (ds : List Word32) (o : EvtOrigin) : (evo s id ds o).ports = s.ports := raiseEvt_ports ..
@[simp] theorem raiseEvt_ntc (s : State) (id : Nat) (ds : List Word32) (o : EvtOrigin) (u f : Bool) :
    (raiseEvt s id ds o u f).ntc = s.ntc := by
  obtain ⟨_, _, _, e⟩ := raiseEvt_only (EvtOnly.refl s) id ds o u f
  rw [e]
@[simp] theorem ev_ntc (s : State) (id : Nat) : (ev s id).ntc = s.ntc := raiseEvt_ntc ..
@[simp] theorem evd_ntc (s : State) (id : Nat) (ds : List Word32) : (evd s id ds).ntc = s.ntc := raiseEvt_ntc ..
@[simp] theorem evo_ntc (s : State) (id : Nat) (ds : List Word32) (o : EvtOrigin) : (evo s id ds o).ntc = s.ntc := raiseEvt_ntc ..
@[simp] theorem raiseEvt_adm (s : State) (id : Nat) (ds : List Word32) (o : EvtOrigin) (u f : Bool) :
    (raiseEvt s id ds o u f).adm = s.adm := by
  obtain ⟨_, _, _, e⟩ := raiseEvt_only (EvtOnly.refl s) id ds o u f
  rw [e]
@[simp] theorem ev_adm (s : State) (id : Nat) : (ev s id).adm = s.adm := raiseEvt_adm ..
@[simp] theorem evd_adm (s : State) (id : Nat) (ds : List Word32) : (evd s id ds).adm = s.adm := raiseEvt_adm ..
@[simp] theorem evo_adm (s : State) (id : Nat) (ds : List Word32) (o : EvtOrigin) : (evo s id ds o).adm = s.adm := raiseEvt_adm ..
@[simp] theorem raiseEvt_tt (s : State) (id : Nat) (ds : List Word32) (o : EvtOrigin) (u f : Bool) :
    (raiseEvt s id ds o u f).tt = s.tt := by
  obtain ⟨_, _, _, e⟩ := raiseEvt_only (EvtOnly.refl s) id ds o u f
  rw [e]
@[simp] theorem ev_tt (s : State) (id : Nat) : (ev s id).tt = s.tt := raiseEvt_tt ..
@[simp] theorem evd_tt (s : State) (id : Nat) (ds : List Word32) : (evd s id ds).tt = s.tt := raiseEvt_tt ..
@[simp] theorem evo_tt (s : State) (id : Nat) (ds : List Word32) (o : EvtOrigin) : (evo s id ds o).tt = s.tt := raiseEvt_tt ..
@[simp] theorem raiseEvt_results (s : State) (id : Nat) (ds : List Word32) (o : EvtOrigin) (u f : Bool) :
    (raiseEvt s id ds o u f).results = s.results := by
  obtain ⟨_, _, _, e⟩ := raiseEvt_only (EvtOnly.refl s) id ds o u f
  rw [e]
@[simp] theorem ev_results (s : State) (id : Nat) : (ev s id).results = s.results := raiseEvt_results ..
@[simp] theorem evd_results (s : State) (id : Nat) (ds : List Word32) : (evd s id ds).results = s.results := raiseEvt_results ..
@[simp] theorem evo_results (s : State) (id : Nat) (ds : List Word32) (o : EvtOrigin) : (evo s id ds o).results = s.results := raiseEvt_results ..
@[simp] theorem raiseEvt_map (s : State) (id : Nat) (ds : List Word32) (o : EvtOrigin) (u f : Bool) :
    (raiseEvt s id ds o u f).map = s.map := by
  obtain ⟨_, _, _, e⟩ := raiseEvt_only (EvtOnly.refl s) id ds o u f
  rw [e]
@[simp] theorem ev_map (s : State) (id : Nat) : (ev s id).map = s.map := raiseEvt_map ..
@[simp] theorem evd_map (s : State) (id : Nat) (ds : List Word32) : (evd s id ds).map = s.map := raiseEvt_map ..
@[simp] theorem evo_map (s : State) (id : Nat) (ds : List Word32) (o : EvtOrigin) : (evo s id ds o).map = s.map := raiseEvt_map ..
@[simp] theorem raiseEvt_vnr (s : State) (id : Nat) (ds : List Word32) (o : EvtOrigin) (u f : Bool) :
    (raiseEvt s id ds o u f).vnr = s.vnr := by
  obtain ⟨_, _, _, e⟩ := raiseEvt_only (EvtOnly.refl s) id ds o u f
  rw [e]
@[simp] theorem ev_vnr (s : State) (id : Nat) : (ev s id).vnr = s.vnr := raiseEvt_vnr ..
@[simp] theorem evd_vnr (s : State) (id : Nat) (ds : List Word32) : (evd s id ds).vnr = s.vnr := raiseEvt_vnr ..
@[simp] theorem evo_vnr (s : State) (id : Nat) (ds : List Word32) (o : EvtOrigin) : (evo s id ds o).vnr = s.vnr := raiseEvt_vnr ..
@[simp] theorem raiseEvt_chans (s : State) (id : Nat) (ds : List Word32) (o : EvtOrigin) (u f : Bool) :
    (raiseEvt s id ds o u f).chans = s.chans := by
  obtain ⟨_, _, _, e⟩ := raiseEvt_only (EvtOnly.refl s) id ds o u f
  rw [e]
@[simp] theorem ev_chans (s : State) (id : Nat) : (ev s id).chans = s.chans := raiseEvt_chans ..
@[simp] theorem evd_chans (s : State) (id : Nat) (ds : List Word32) : (evd s id ds).chans = s.chans := raiseEvt_chans ..
@[simp] theorem evo_chans (s : State) (id : Nat) (ds : List Word32) (o : EvtOrigin) : (evo s id ds o).chans = s.chans := raiseEvt_chans ..
@[simp] theorem raiseEvt_devEnd (s : State) (id : Nat) (ds : List Word32) (o : EvtOrigin) (u f : Bool) :
    (raiseEvt s id ds o u f).devEnd = s.devEnd := by
  obtain ⟨_, _, _, e⟩ := raiseEvt_only (EvtOnly.refl s) id ds o u f
  rw [e]
@[simp] theorem ev_devEnd (s : State) (id : Nat) : (ev s id).devEnd = s.devEnd := raiseEvt_devEnd ..
@[simp] theorem evd_devEnd (s : State) (id : Nat) (ds : List Word32) : (evd s id ds).devEnd = s.devEnd := raiseEvt_devEnd ..
@[simp] theorem evo_devEnd (s : State) (id : Nat) (ds : List Word32) (o : EvtOrigin) : (evo s id ds o).devEnd = s.devEnd := raiseEvt_devEnd ..
@[simp] theorem raiseEvt_cure (s : State) (id : Nat) (ds : List Word32) (o : EvtOrigin) (u f : Bool) :
    (raiseEvt s id ds o u f).cure = s.cure := by
  obtain ⟨_, _, _, e⟩ := raiseEvt_only (EvtOnly.refl s) id ds o u f
  rw [e]
@[simp] theorem ev_cure (s : State) (id : Nat) : (ev s id).cure = s.cure := raiseEvt_cure ..
@[simp] theorem evd_cure (s : State) (id : Nat) (ds : List Word32) : (evd s id ds).cure = s.cure := raiseEvt_cure ..
@[simp] theorem evo_cure (s : State) (id : Nat) (ds : List Word32) (o : EvtOrigin) : (evo s id ds o).cure = s.cure := raiseEvt_cure ..
@[simp] theorem raiseEvt_tier (s : State) (id : Nat) (ds : List Word32) (o : EvtOrigin) (u f : Bool) :
    (raiseEvt s id ds o u f).tier = s.tier := by
  obtain ⟨_, _, _, e⟩ := raiseEvt_only (EvtOnly.refl s) id ds o u f
  rw [e]
@[simp] theorem ev_tier (s : State) (id : Nat) : (ev s id).tier = s.tier := raiseEvt_tier ..
@[simp] theorem evd_tier (s : State) (id : Nat) (ds : List Word32) : (evd s id ds).tier = s.tier := raiseEvt_tier ..
@[simp] theorem evo_tier (s : State) (id : Nat) (ds : List Word32) (o : EvtOrigin) : (evo s id ds o).tier = s.tier := raiseEvt_tier ..
@[simp] theorem raiseEvt_conns (s : State) (id : Nat) (ds : List Word32) (o : EvtOrigin) (u f : Bool) :
    (raiseEvt s id ds o u f).conns = s.conns := by
  obtain ⟨_, _, _, e⟩ := raiseEvt_only (EvtOnly.refl s) id ds o u f
  rw [e]
@[simp] theorem ev_conns (s : State) (id : Nat) : (ev s id).conns = s.conns := raiseEvt_conns ..
@[simp] theorem evd_conns (s : State) (id : Nat) (ds : List Word32) : (evd s id ds).conns = s.conns := raiseEvt_conns ..
@[simp] theorem evo_conns (s : State) (id : Nat) (ds : List Word32) (o : EvtOrigin) : (evo s id ds o).conns = s.conns := raiseEvt_conns ..
@[simp] theorem raiseEvt_ten (s : State) (id : Nat) (ds : List Word32) (o : EvtOrigin) (u f : Bool) :
    (raiseEvt s id ds o u f).ten = s.ten := by
  obtain ⟨_, _, _, e⟩ := raiseEvt_only (EvtOnly.refl s) id ds o u f
  rw [e]
@[simp] theorem ev_ten (s : State) (id : Nat) : (ev s id).ten = s.ten := raiseEvt_ten ..
@[simp] theorem evd_ten (s : State) (id : Nat) (ds : List Word32) : (evd s id ds).ten = s.ten := raiseEvt_ten ..
@[simp] theorem evo_ten (s : State) (id : Nat) (ds : List Word32) (o : EvtOrigin) : (evo s id ds o).ten = s.ten := raiseEvt_ten ..
@[simp] theorem raiseEvt_arm (s : State) (id : Nat) (ds : List Word32) (o : EvtOrigin) (u f : Bool) :
    (raiseEvt s id ds o u f).arm = s.arm := by
  obtain ⟨_, _, _, e⟩ := raiseEvt_only (EvtOnly.refl s) id ds o u f
  rw [e]
@[simp] theorem ev_arm (s : State) (id : Nat) : (ev s id).arm = s.arm := raiseEvt_arm ..
@[simp] theorem evd_arm (s : State) (id : Nat) (ds : List Word32) : (evd s id ds).arm = s.arm := raiseEvt_arm ..
@[simp] theorem evo_arm (s : State) (id : Nat) (ds : List Word32) (o : EvtOrigin) : (evo s id ds o).arm = s.arm := raiseEvt_arm ..
@[simp] theorem raiseEvt_fw (s : State) (id : Nat) (ds : List Word32) (o : EvtOrigin) (u f : Bool) :
    (raiseEvt s id ds o u f).fw = s.fw := by
  obtain ⟨_, _, _, e⟩ := raiseEvt_only (EvtOnly.refl s) id ds o u f
  rw [e]
@[simp] theorem ev_fw (s : State) (id : Nat) : (ev s id).fw = s.fw := raiseEvt_fw ..
@[simp] theorem evd_fw (s : State) (id : Nat) (ds : List Word32) : (evd s id ds).fw = s.fw := raiseEvt_fw ..
@[simp] theorem evo_fw (s : State) (id : Nat) (ds : List Word32) (o : EvtOrigin) : (evo s id ds o).fw = s.fw := raiseEvt_fw ..
@[simp] theorem raiseEvt_pwr (s : State) (id : Nat) (ds : List Word32) (o : EvtOrigin) (u f : Bool) :
    (raiseEvt s id ds o u f).pwr = s.pwr := by
  obtain ⟨_, _, _, e⟩ := raiseEvt_only (EvtOnly.refl s) id ds o u f
  rw [e]
@[simp] theorem ev_pwr (s : State) (id : Nat) : (ev s id).pwr = s.pwr := raiseEvt_pwr ..
@[simp] theorem evd_pwr (s : State) (id : Nat) (ds : List Word32) : (evd s id ds).pwr = s.pwr := raiseEvt_pwr ..
@[simp] theorem evo_pwr (s : State) (id : Nat) (ds : List Word32) (o : EvtOrigin) : (evo s id ds o).pwr = s.pwr := raiseEvt_pwr ..
@[simp] theorem raiseEvt_dram (s : State) (id : Nat) (ds : List Word32) (o : EvtOrigin) (u f : Bool) :
    (raiseEvt s id ds o u f).dram = s.dram := by
  obtain ⟨_, _, _, e⟩ := raiseEvt_only (EvtOnly.refl s) id ds o u f
  rw [e]
@[simp] theorem ev_dram (s : State) (id : Nat) : (ev s id).dram = s.dram := raiseEvt_dram ..
@[simp] theorem evd_dram (s : State) (id : Nat) (ds : List Word32) : (evd s id ds).dram = s.dram := raiseEvt_dram ..
@[simp] theorem evo_dram (s : State) (id : Nat) (ds : List Word32) (o : EvtOrigin) : (evo s id ds o).dram = s.dram := raiseEvt_dram ..
@[simp] theorem raiseEvt_dramGen (s : State) (id : Nat) (ds : List Word32) (o : EvtOrigin) (u f : Bool) :
    (raiseEvt s id ds o u f).dramGen = s.dramGen := by
  obtain ⟨_, _, _, e⟩ := raiseEvt_only (EvtOnly.refl s) id ds o u f
  rw [e]
@[simp] theorem ev_dramGen (s : State) (id : Nat) : (ev s id).dramGen = s.dramGen := raiseEvt_dramGen ..
@[simp] theorem evd_dramGen (s : State) (id : Nat) (ds : List Word32) : (evd s id ds).dramGen = s.dramGen := raiseEvt_dramGen ..
@[simp] theorem evo_dramGen (s : State) (id : Nat) (ds : List Word32) (o : EvtOrigin) : (evo s id ds o).dramGen = s.dramGen := raiseEvt_dramGen ..
@[simp] theorem raiseEvt_dramZero (s : State) (id : Nat) (ds : List Word32) (o : EvtOrigin) (u f : Bool) :
    (raiseEvt s id ds o u f).dramZero = s.dramZero := by
  obtain ⟨_, _, _, e⟩ := raiseEvt_only (EvtOnly.refl s) id ds o u f
  rw [e]
@[simp] theorem ev_dramZero (s : State) (id : Nat) : (ev s id).dramZero = s.dramZero := raiseEvt_dramZero ..
@[simp] theorem evd_dramZero (s : State) (id : Nat) (ds : List Word32) : (evd s id ds).dramZero = s.dramZero := raiseEvt_dramZero ..
@[simp] theorem evo_dramZero (s : State) (id : Nat) (ds : List Word32) (o : EvtOrigin) : (evo s id ds o).dramZero = s.dramZero := raiseEvt_dramZero ..
@[simp] theorem raiseEvt_fresh (s : State) (id : Nat) (ds : List Word32) (o : EvtOrigin) (u f : Bool) :
    (raiseEvt s id ds o u f).fresh = s.fresh := by
  obtain ⟨_, _, _, e⟩ := raiseEvt_only (EvtOnly.refl s) id ds o u f
  rw [e]
@[simp] theorem ev_fresh (s : State) (id : Nat) : (ev s id).fresh = s.fresh := raiseEvt_fresh ..
@[simp] theorem evd_fresh (s : State) (id : Nat) (ds : List Word32) : (evd s id ds).fresh = s.fresh := raiseEvt_fresh ..
@[simp] theorem evo_fresh (s : State) (id : Nat) (ds : List Word32) (o : EvtOrigin) : (evo s id ds o).fresh = s.fresh := raiseEvt_fresh ..
@[simp] theorem raiseEvt_sbus (s : State) (id : Nat) (ds : List Word32) (o : EvtOrigin) (u f : Bool) :
    (raiseEvt s id ds o u f).sbus = s.sbus := by
  obtain ⟨_, _, _, e⟩ := raiseEvt_only (EvtOnly.refl s) id ds o u f
  rw [e]
@[simp] theorem ev_sbus (s : State) (id : Nat) : (ev s id).sbus = s.sbus := raiseEvt_sbus ..
@[simp] theorem evd_sbus (s : State) (id : Nat) (ds : List Word32) : (evd s id ds).sbus = s.sbus := raiseEvt_sbus ..
@[simp] theorem evo_sbus (s : State) (id : Nat) (ds : List Word32) (o : EvtOrigin) : (evo s id ds o).sbus = s.sbus := raiseEvt_sbus ..
end Sys2Proof.Machine
end

