-- ==== Sys2Proof/Laws/Touch.lean ====
section
/-!
SUPPORT. What every command keeps: one lemma per command, from the lemmas of the operations its meaning uses.
-/
namespace Sys2Proof.Machine
set_option linter.all false
set_option Elab.async false
open Sys2Proof
variable {s t : State}

theorem Allow.of {m l : List Part} (e : l.all m.contains = true) : Allow m.contains l := fun k hk => List.all_eq_true.1 e k hk

/-- A command's next state is kept if the state its meaning names is. -/
theorem Kept.run {c : Instr} {u : State} (h : exec c s = .next t) (k : Kept (touches c).contains s u) (e : exec c s = .next u) :
    Kept (touches c).contains s t := by
  rw [e] at h
  injection h with h
  exact h ▸ k

theorem nop_touches (a0 : Fin 8) (a1 : FrpReq) (h : exec (.nop a0 a1) s = .next t) :
    Kept (touches (.nop a0 a1)).contains s t := .run h (acceptNop_kept (.of rfl) (.refl s) ..) rfl

theorem rdLine_touches (a0 : Fin 8) (a1 : FrpReq) (a2 : RawLine) (h : exec (.rdLine a0 a1 a2) s = .next t) :
    Kept (touches (.rdLine a0 a1 a2)).contains s t := .run h (acceptReq_kept (.of rfl) (.refl s) ..) rfl

theorem rdPart_touches (a0 : Fin 8) (a1 : FrpReq) (a2 : RawLine) (h : exec (.rdPart a0 a1 a2) s = .next t) :
    Kept (touches (.rdPart a0 a1 a2)).contains s t := .run h (acceptReq_kept (.of rfl) (.refl s) ..) rfl

theorem wrLine_touches (a0 : Fin 8) (a1 : FrpReq) (h : exec (.wrLine a0 a1) s = .next t) :
    Kept (touches (.wrLine a0 a1)).contains s t := .run h (acceptReq_kept (.of rfl) (.refl s) ..) rfl

theorem wrPart_touches (a0 : Fin 8) (a1 : FrpReq) (h : exec (.wrPart a0 a1) s = .next t) :
    Kept (touches (.wrPart a0 a1)).contains s t := .run h (acceptReq_kept (.of rfl) (.refl s) ..) rfl

theorem atomAdd8_touches (a0 : Fin 8) (a1 : FrpReq) (h : exec (.atomAdd8 a0 a1) s = .next t) :
    Kept (touches (.atomAdd8 a0 a1)).contains s t := .run h (acceptReq_kept (.of rfl) (.refl s) ..) rfl

theorem atomCas8_touches (a0 : Fin 8) (a1 : FrpReq) (h : exec (.atomCas8 a0 a1) s = .next t) :
    Kept (touches (.atomCas8 a0 a1)).contains s t := .run h (acceptReq_kept (.of rfl) (.refl s) ..) rfl

theorem trim_touches (a0 : Fin 8) (a1 : FrpReq) (h : exec (.trim a0 a1) s = .next t) :
    Kept (touches (.trim a0 a1)).contains s t := .run h (acceptReq_kept (.of rfl) (.refl s) ..) rfl

theorem cureFence_touches (a0 : Fin 8) (a1 : FrpReq) (h : exec (.cureFence a0 a1) s = .next t) :
    Kept (touches (.cureFence a0 a1)).contains s t := .run h (acceptFence_kept (.of rfl) (.refl s) ..) rfl

theorem prefetch_touches (a0 : Fin 8) (a1 : FrpReq) (a2 : RawLine) (h : exec (.prefetch a0 a1 a2) s = .next t) :
    Kept (touches (.prefetch a0 a1 a2)).contains s t := .run h (acceptReq_kept (.of rfl) (.refl s) ..) rfl

theorem reservedOpcode_touches (a0 : Fin 8) (a1 : Fin 6) (a2 : FrpReq) (h : exec (.reservedOpcode a0 a1 a2) s = .next t) :
    Kept (touches (.reservedOpcode a0 a1 a2)).contains s t := .run h (acceptReserved_kept (.of rfl) (.refl s) ..) rfl

theorem wdBeat_touches (a0 : Fin 8) (a1 : LineData) (a2 : LineMask) (h : exec (.wdBeat a0 a1 a2) s = .next t) :
    Kept (touches (.wdBeat a0 a1 a2)).contains s t := .run h (wdBeat_kept (.of rfl) (.refl s) ..) rfl

theorem rdBeatTransfer_touches (a0 : Fin 8) (h : exec (.rdBeatTransfer a0) s = .next t) :
    Kept (touches (.rdBeatTransfer a0)).contains s t := .run h (rdTransfer_kept (.of rfl) (.refl s) ..) rfl

theorem cmpTransfer_touches (a0 : Fin 8) (h : exec (.cmpTransfer a0) s = .next t) :
    Kept (touches (.cmpTransfer a0)).contains s t := .run h (cmpTransfer_kept (.of rfl) (.refl s) ..) rfl

theorem ntcTransfer_touches (h : exec .ntcTransfer s = .next t) : Kept (touches .ntcTransfer).contains s t :=
    .run h (ntcTransfer_kept (.of rfl) (.refl s) ..) rfl

theorem frpLiveLow_touches (a0 : Fin 8) (h : exec (.frpLiveLow a0) s = .next t) :
    Kept (touches (.frpLiveLow a0)).contains s t := .run h (liveLow_kept (.of rfl) (.refl s) ..) rfl

theorem frpLiveHigh_touches (a0 : Fin 8) (h : exec (.frpLiveHigh a0) s = .next t) :
    Kept (touches (.frpLiveHigh a0)).contains s t := .run h (liveHigh_kept (.of rfl) (.refl s) ..) rfl

theorem portQuiesceDone_touches (a0 : Fin 8) (h : exec (.portQuiesceDone a0) s = .next t) :
    Kept (touches (.portQuiesceDone a0)).contains s t := .run h (quiesceDone_kept (.of rfl) (.refl s) ..) rfl

theorem frpCtlWrite_touches (a0 : Fin 8) (a1 : BitVec 12) (a2 : Word32) (h : exec (.frpCtlWrite a0 a1 a2) s = .next t) :
    Kept (touches (.frpCtlWrite a0 a1 a2)).contains s t := .run h (regWriteAt_kept (.of rfl) (.refl s) ..) rfl

theorem poolSelect_touches (a0 : Fin 16) (a1 : RawLine) (a2 : RawLine) (h : exec (.poolSelect a0 a1 a2) s = .next t) :
    Kept (touches (.poolSelect a0 a1 a2)).contains s t := .run h (poolSelect_kept (.of rfl) (.refl s) ..) rfl

theorem lockCeiling_touches (a0 : Fin 8) (h : exec (.lockCeiling a0) s = .next t) :
    Kept (touches (.lockCeiling a0)).contains s t := .run h (lockCeiling_kept (.of rfl) (.refl s) ..) rfl

theorem prefetchDrop_touches (a0 : Fin 20) (a1 : Fin 16) (h : exec (.prefetchDrop a0 a1) s = .next t) :
    Kept (touches (.prefetchDrop a0 a1)).contains s t := .run h (prefetchDrop_kept (.of rfl) (.refl s) ..) rfl

theorem waitLong_touches (a0 : Fin 20) (a1 : Fin 16) (h : exec (.waitLong a0 a1) s = .next t) :
    Kept (touches (.waitLong a0 a1)).contains s t := .run h (waitLong_kept (.of rfl) (.refl s) ..) rfl

theorem hwClr_touches (h : exec .hwClr s = .next t) : Kept (touches .hwClr).contains s t :=
    .run h (hwClr_kept (.of rfl) (.refl s) ..) rfl

theorem schedIssue_touches (a0 : Fin 16) (h : exec (.schedIssue a0) s = .next t) :
    Kept (touches (.schedIssue a0)).contains s t := .run h (schedIssue_kept (.of rfl) (.refl s) ..) rfl

theorem wdrainEval_touches (a0 : Fin 16) (h : exec (.wdrainEval a0) s = .next t) :
    Kept (touches (.wdrainEval a0)).contains s t := .run h (wdrainEval_kept (.of rfl) (.refl s) ..) rfl

theorem urgencyTick_touches (a0 : Fin 16) (h : exec (.urgencyTick a0) s = .next t) :
    Kept (touches (.urgencyTick a0)).contains s t := .run h (urgencyTick_kept (.of rfl) (.refl s) ..) rfl

theorem idleWrite_touches (a0 : Fin 16) (a1 : Fin 2) (h : exec (.idleWrite a0 a1) s = .next t) :
    Kept (touches (.idleWrite a0 a1)).contains s t := .run h (idleWrite_kept (.of rfl) (.refl s) ..) rfl

theorem pageIdleClose_touches (a0 : Fin 16) (a1 : BankId) (h : exec (.pageIdleClose a0 a1) s = .next t) :
    Kept (touches (.pageIdleClose a0 a1)).contains s t := .run h (pageIdleClose_kept (.of rfl) (.refl s) ..) rfl

theorem queueEntry_touches (a0 : Fin 16) (h : exec (.queueEntry a0) s = .next t) :
    Kept (touches (.queueEntry a0)).contains s t := .run h (queueEntry_kept (.of rfl) (.refl s) ..) rfl

theorem rankPowerDown_touches (a0 : Fin 16) (a1 : Fin 32) (h : exec (.rankPowerDown a0 a1) s = .next t) :
    Kept (touches (.rankPowerDown a0 a1)).contains s t := .run h (rankPowerDown_kept (.of rfl) (.refl s) ..) rfl

theorem channelSrEntry_touches (a0 : Fin 16) (h : exec (.channelSrEntry a0) s = .next t) :
    Kept (touches (.channelSrEntry a0)).contains s t := .run h (channelSrEntry_kept (.of rfl) (.refl s) ..) rfl

theorem srWake_touches (a0 : Fin 16) (h : exec (.srWake a0) s = .next t) : Kept (touches (.srWake a0)).contains s t :=
    .run h (srWake_kept (.of rfl) (.refl s) ..) rfl

theorem chHold_touches (a0 : Fin 16) (h : exec (.chHold a0) s = .next t) : Kept (touches (.chHold a0)).contains s t :=
    .run h (chHold_kept (.of rfl) (.refl s) ..) rfl

theorem chHoldRelease_touches (a0 : Fin 16) (h : exec (.chHoldRelease a0) s = .next t) :
    Kept (touches (.chHoldRelease a0)).contains s t := .run h (chHoldRelease_kept (.of rfl) (.refl s) ..) rfl

theorem chHeld_touches (a0 : Fin 16) (h : exec (.chHeld a0) s = .next t) : Kept (touches (.chHeld a0)).contains s t :=
    .run h (chHeld_kept (.of rfl) (.refl s) ..) rfl

theorem holdExpired_touches (a0 : Fin 16) (h : exec (.holdExpired a0) s = .next t) :
    Kept (touches (.holdExpired a0)).contains s t := .run h (holdExpired_kept (.of rfl) (.refl s) ..) rfl

theorem chReleased_touches (a0 : Fin 16) (h : exec (.chReleased a0) s = .next t) :
    Kept (touches (.chReleased a0)).contains s t := .run h (chReleased_kept (.of rfl) (.refl s) ..) rfl

theorem devHold_touches (h : exec .devHold s = .next t) : Kept (touches .devHold).contains s t :=
    .run h (devHold_kept (.of rfl) (.refl s) ..) rfl

theorem devRelease_touches (h : exec .devRelease s = .next t) : Kept (touches .devRelease).contains s t :=
    .run h (devRelease_kept (.of rfl) (.refl s) ..) rfl

theorem refreshSlot_touches (a0 : Fin 16) (a1 : Nat) (h : exec (.refreshSlot a0 a1) s = .next t) :
    Kept (touches (.refreshSlot a0 a1)).contains s t := .run h (refreshSlot_kept (.of rfl) (.refl s) ..) rfl

theorem catchupRefresh_touches (a0 : Fin 16) (a1 : RefTgt) (h : exec (.catchupRefresh a0 a1) s = .next t) :
    Kept (touches (.catchupRefresh a0 a1)).contains s t := .run h (catchup_kept (.of rfl) (.refl s) ..) rfl

theorem backstopTick_touches (a0 : Fin 16) (a1 : RefTgt) (h : exec (.backstopTick a0 a1) s = .next t) :
    Kept (touches (.backstopTick a0 a1)).contains s t := .run h (backstopTick_kept (.of rfl) (.refl s) ..) rfl

theorem refBackstop_touches (a0 : Fin 16) (a1 : RefTgt) (h : exec (.refBackstop a0 a1) s = .next t) :
    Kept (touches (.refBackstop a0 a1)).contains s t := .run h (refBackstop_kept (.of rfl) (.refl s) ..) rfl

theorem tempPoll_touches (a0 : Fin 16) (a1 : PollRead) (h : exec (.tempPoll a0 a1) s = .next t) :
    Kept (touches (.tempPoll a0 a1)).contains s t := .run h (tempPoll_kept (.of rfl) (.refl s) ..) rfl

theorem tempRate_touches (a0 : Fin 16) (h : exec (.tempRate a0) s = .next t) : Kept (touches (.tempRate a0)).contains s t :=
    .run h (tempRate_kept (.of rfl) (.refl s) ..) rfl

theorem granChanged_touches (a0 : Fin 16) (h : exec (.granChanged a0) s = .next t) :
    Kept (touches (.granChanged a0)).contains s t := .run h (granChanged_kept (.of rfl) (.refl s) ..) rfl

theorem windowStart_touches (a0 : Fin 16) (a1 : Nat) (a2 : Nat) (a3 : Bool) (h : exec (.windowStart a0 a1 a2 a3) s = .next t) :
    Kept (touches (.windowStart a0 a1 a2 a3)).contains s t := .run h (windowStart_kept (.of rfl) (.refl s) ..) rfl

theorem neighbourRefresh_touches (a0 : Fin 16) (h : exec (.neighbourRefresh a0) s = .next t) :
    Kept (touches (.neighbourRefresh a0)).contains s t := .run h (neighbourRefresh_kept (.of rfl) (.refl s) ..) rfl

theorem dstTableClear_touches (a0 : Fin 16) (h : exec (.dstTableClear a0) s = .next t) :
    Kept (touches (.dstTableClear a0)).contains s t := .run h (dstTableClear_kept (.of rfl) (.refl s) ..) rfl

theorem rfmIssue_touches (a0 : Fin 16) (a1 : BankId) (h : exec (.rfmIssue a0 a1) s = .next t) :
    Kept (touches (.rfmIssue a0 a1)).contains s t := .run h (rfmIssue_kept (.of rfl) (.refl s) ..) rfl

theorem trainCold_touches (a0 : Fin 16) (h : exec (.trainCold a0) s = .next t) : Kept (touches (.trainCold a0)).contains s t :=
    .run h (trainGo_kept (.of rfl) (.refl s) ..) rfl

theorem trainWarm_touches (a0 : Fin 16) (h : exec (.trainWarm a0) s = .next t) : Kept (touches (.trainWarm a0)).contains s t :=
    .run h (trainGo_kept (.of rfl) (.refl s) ..) rfl

theorem trainRetrain_touches (a0 : Fin 16) (h : exec (.trainRetrain a0) s = .next t) :
    Kept (touches (.trainRetrain a0)).contains s t := .run h (trainGo_kept (.of rfl) (.refl s) ..) rfl

theorem trainDone_touches (a0 : Fin 16) (a1 : TrainEnd) (h : exec (.trainDone a0 a1) s = .next t) :
    Kept (touches (.trainDone a0 a1)).contains s t := .run h (trainDone_kept (.of rfl) (.refl s) ..) rfl

theorem trainAbort_touches (a0 : Fin 16) (a1 : BitVec 4) (a2 : List LaneFound) (a3 : List VrefFound) (h : exec (.trainAbort a0 a1 a2 a3) s = .next t) :
    Kept (touches (.trainAbort a0 a1 a2 a3)).contains s t := .run h (trainAbort_kept (.of rfl) (.refl s) ..) rfl

theorem handover_touches (a0 : Fin 16) (h : exec (.handover a0) s = .next t) : Kept (touches (.handover a0)).contains s t :=
    .run h (handover_kept (.of rfl) (.refl s) ..) rfl

theorem takeback_touches (a0 : Fin 16) (h : exec (.takeback a0) s = .next t) : Kept (touches (.takeback a0)).contains s t :=
    .run h (takeback_kept (.of rfl) (.refl s) ..) rfl

theorem discard_touches (a0 : Fin 16) (h : exec (.discard a0) s = .next t) : Kept (touches (.discard a0)).contains s t :=
    .run h (discard_kept (.of rfl) (.refl s) ..) rfl

theorem clrLost_touches (a0 : Fin 16) (h : exec (.clrLost a0) s = .next t) : Kept (touches (.clrLost a0)).contains s t :=
    .run h (clrLost_kept (.of rfl) (.refl s) ..) rfl

theorem phyAlert_touches (a0 : Fin 16) (a1 : Bool) (h : exec (.phyAlert a0 a1) s = .next t) :
    Kept (touches (.phyAlert a0 a1)).contains s t := .run h (phyAlert_kept (.of rfl) (.refl s) ..) rfl

theorem retrainWindow_touches (a0 : Fin 16) (a1 : List OscRead) (a2 : List SweepRead) (a3 : Bool) (a4 : Bool) (h : exec (.retrainWindow a0 a1 a2 a3 a4) s = .next t) :
    Kept (touches (.retrainWindow a0 a1 a2 a3 a4)).contains s t := .run h (retrainWindow_kept (.of rfl) (.refl s) ..) rfl

theorem probeDwell_touches (a0 : Fin 16) (h : exec (.probeDwell a0) s = .next t) :
    Kept (touches (.probeDwell a0)).contains s t := .run h (probeDwell_kept (.of rfl) (.refl s) ..) rfl

theorem probeDwellEnd_touches (a0 : Fin 16) (h : exec (.probeDwellEnd a0) s = .next t) :
    Kept (touches (.probeDwellEnd a0)).contains s t := .run h (probeDwellEnd_kept (.of rfl) (.refl s) ..) rfl

theorem prbAbort_touches (a0 : Fin 16) (a1 : PrbCause) (h : exec (.prbAbort a0 a1) s = .next t) :
    Kept (touches (.prbAbort a0 a1)).contains s t := .run h (probeAbort_kept (.of rfl) (.refl s) ..) rfl

theorem sbTransfer_touches (a0 : Fin 16) (a1 : BitVec 12) (a2 : Word32) (h : exec (.sbTransfer a0 a1 a2) s = .next t) :
    Kept (touches (.sbTransfer a0 a1 a2)).contains s t := .run h (regWriteAt_kept (.of rfl) (.refl s) ..) rfl

theorem sbDone_touches (a0 : Fin 16) (a1 : SbEnd) (h : exec (.sbDone a0 a1) s = .next t) :
    Kept (touches (.sbDone a0 a1)).contains s t := .run h (sbDone_kept (.of rfl) (.refl s) ..) rfl

theorem markSlotSet_touches (a0 : Fin 16) (a1 : Fin 8) (a2 : Fin 2) (a3 : Fin 16) (h : exec (.markSlotSet a0 a1 a2 a3) s = .next t) :
    Kept (touches (.markSlotSet a0 a1 a2 a3)).contains s t := .run h (markWrite_kept (.of rfl) (.refl s) ..) rfl

theorem markSlotClear_touches (a0 : Fin 16) (a1 : Fin 8) (a2 : Fin 2) (h : exec (.markSlotClear a0 a1 a2) s = .next t) :
    Kept (touches (.markSlotClear a0 a1 a2)).contains s t := .run h (markClear_kept (.of rfl) (.refl s) ..) rfl

theorem ceWindowEnd_touches (a0 : Fin 16) (h : exec (.ceWindowEnd a0) s = .next t) :
    Kept (touches (.ceWindowEnd a0)).contains s t := .run h (ceWindowEnd_kept (.of rfl) (.refl s) ..) rfl

theorem dramDecode_touches (a0 : Fin 16) (a1 : RawLine) (h : exec (.dramDecode a0 a1) s = .next t) :
    Kept (touches (.dramDecode a0 a1)).contains s t := .run h (dramDecode_kept (.of rfl) (.refl s) ..) rfl

theorem x8Trial_touches (a0 : Fin 16) (a1 : RawLine) (a2 : RawLine) (h : exec (.x8Trial a0 a1 a2) s = .next t) :
    Kept (touches (.x8Trial a0 a1 a2)).contains s t := .run h (x8Trial_kept (.of rfl) (.refl s) ..) rfl

theorem glueWindowEnd_touches (a0 : Fin 16) (a1 : Nat) (h : exec (.glueWindowEnd a0 a1) s = .next t) :
    Kept (touches (.glueWindowEnd a0 a1)).contains s t := .run h (glueWindowEnd_kept (.of rfl) (.refl s) ..) rfl

theorem glueMerge_touches (a0 : Fin 16) (a1 : Nat) (a2 : RawLine) (h : exec (.glueMerge a0 a1 a2) s = .next t) :
    Kept (touches (.glueMerge a0 a1 a2)).contains s t := .run h (glueMerge_kept (.of rfl) (.refl s) ..) rfl

theorem raspUnit_touches (a0 : Fin 4) (h : exec (.raspUnit a0) s = .next t) : Kept (touches (.raspUnit a0)).contains s t :=
    .run h (raspUnit_kept (.of rfl) (.refl s) ..) rfl

theorem scrubSliceDue_touches (a0 : Fin 16) (h : exec (.scrubSliceDue a0) s = .next t) :
    Kept (touches (.scrubSliceDue a0)).contains s t := .run h (scrubDue_kept (.of rfl) (.refl s) ..) rfl

theorem ecsPoll_touches (a0 : Fin 16) (a1 : List EcsRead) (h : exec (.ecsPoll a0 a1) s = .next t) :
    Kept (touches (.ecsPoll a0 a1)).contains s t := .run h (ecsPoll_kept (.of rfl) (.refl s) ..) rfl

theorem inlayEntryWrite_touches (a0 : Fin 16) (a1 : Fin 4096) (a2 : BitVec 12) (a3 : Word64) (h : exec (.inlayEntryWrite a0 a1 a2 a3) s = .next t) :
    Kept (touches (.inlayEntryWrite a0 a1 a2 a3)).contains s t := .run h (inlWrite_kept (.of rfl) (.refl s) ..) rfl

theorem inlCopy_touches (a0 : Fin 16) (a1 : Word64) (h : exec (.inlCopy a0 a1) s = .next t) :
    Kept (touches (.inlCopy a0 a1)).contains s t := .run h (inlCopy_kept (.of rfl) (.refl s) ..) rfl

theorem rowCopyDone_touches (a0 : Fin 16) (a1 : List (Nat × RawLine)) (h : exec (.rowCopyDone a0 a1) s = .next t) :
    Kept (touches (.rowCopyDone a0 a1)).contains s t := .run h (rowCopyDone_kept (.of rfl) (.refl s) ..) rfl

theorem inlPpr_touches (a0 : Fin 16) (a1 : Word64) (h : exec (.inlPpr a0 a1) s = .next t) :
    Kept (touches (.inlPpr a0 a1)).contains s t := .run h (inlPpr_kept (.of rfl) (.refl s) ..) rfl

theorem pprDone_touches (a0 : Fin 16) (a1 : PprEnd) (h : exec (.pprDone a0 a1) s = .next t) :
    Kept (touches (.pprDone a0 a1)).contains s t := .run h (pprNote_kept (.of rfl) (.refl s) ..) rfl

theorem rawRead_touches (a0 : Fin 16) (h : exec (.rawRead a0) s = .next t) : Kept (touches (.rawRead a0)).contains s t :=
    .run h (rawAccess_kept (.of rfl) (.refl s) ..) rfl

theorem rawWrite_touches (a0 : Fin 16) (h : exec (.rawWrite a0) s = .next t) : Kept (touches (.rawWrite a0)).contains s t :=
    .run h (rawAccess_kept (.of rfl) (.refl s) ..) rfl

theorem sramErr_touches (a0 : Fin 16) (a1 : SramWhere) (a2 : Bool) (h : exec (.sramErr a0 a1 a2) s = .next t) :
    Kept (touches (.sramErr a0 a1 a2)).contains s t := .run h (sramErr_kept (.of rfl) (.refl s) ..) rfl

theorem diagRead_touches (a0 : Fin 16) (h : exec (.diagRead a0) s = .next t) : Kept (touches (.diagRead a0)).contains s t :=
    .run h (diagGo_kept (.of rfl) (.refl s) ..) rfl

theorem diagWriteZero_touches (a0 : Fin 16) (h : exec (.diagWriteZero a0) s = .next t) :
    Kept (touches (.diagWriteZero a0)).contains s t := .run h (diagGo_kept (.of rfl) (.refl s) ..) rfl

theorem diagWriteAddr_touches (a0 : Fin 16) (h : exec (.diagWriteAddr a0) s = .next t) :
    Kept (touches (.diagWriteAddr a0)).contains s t := .run h (diagGo_kept (.of rfl) (.refl s) ..) rfl

theorem diagCompare_touches (a0 : Fin 16) (h : exec (.diagCompare a0) s = .next t) :
    Kept (touches (.diagCompare a0)).contains s t := .run h (diagGo_kept (.of rfl) (.refl s) ..) rfl

theorem vnrFillLand_touches (a0 : Fin 16) (h : exec (.vnrFillLand a0) s = .next t) :
    Kept (touches (.vnrFillLand a0)).contains s t := .run h (vnrFillLand_kept (.of rfl) (.refl s) ..) rfl

theorem vnrSramErr_touches (a0 : Fin 16) (a1 : Fin 8192) (a2 : Fin 16) (a3 : Bool) (h : exec (.vnrSramErr a0 a1 a2 a3) s = .next t) :
    Kept (touches (.vnrSramErr a0 a1 a2 a3)).contains s t := .run h (vnrSramErr_kept (.of rfl) (.refl s) ..) rfl

theorem cleaner_touches (a0 : Fin 16) (h : exec (.cleaner a0) s = .next t) : Kept (touches (.cleaner a0)).contains s t :=
    .run h (cleaner_kept (.of rfl) (.refl s) ..) rfl

theorem victimWriteback_touches (a0 : Fin 16) (h : exec (.victimWriteback a0) s = .next t) :
    Kept (touches (.victimWriteback a0)).contains s t := .run h (victimWriteback_kept (.of rfl) (.refl s) ..) rfl

theorem ropClean_touches (h : exec .ropClean s = .next t) : Kept (touches .ropClean).contains s t := by
  refine .run h ?_ rfl
  have hal : Allow (touches .ropClean).contains (touches .ropClean) := fun k hk => List.contains_iff_mem.2 hk
  have h0 := Kept.refl (al := (touches .ropClean).contains) s
  repeat' first
    | with_reducible assumption | with_reducible apply ropCmd_kept (hal.mono rfl)
    | with_reducible apply setFld_kept (hal.mono rfl)

theorem ropCleanInvalidate_touches (h : exec .ropCleanInvalidate s = .next t) : Kept (touches .ropCleanInvalidate).contains s t := by
  refine .run h ?_ rfl
  have hal : Allow (touches .ropCleanInvalidate).contains (touches .ropCleanInvalidate) := fun k hk => List.contains_iff_mem.2 hk
  have h0 := Kept.refl (al := (touches .ropCleanInvalidate).contains) s
  repeat' first
    | with_reducible assumption | with_reducible apply ropCmd_kept (hal.mono rfl)
    | with_reducible apply setFld_kept (hal.mono rfl)

theorem ropInvalidate_touches (h : exec .ropInvalidate s = .next t) : Kept (touches .ropInvalidate).contains s t := by
  refine .run h ?_ rfl
  have hal : Allow (touches .ropInvalidate).contains (touches .ropInvalidate) := fun k hk => List.contains_iff_mem.2 hk
  have h0 := Kept.refl (al := (touches .ropInvalidate).contains) s
  repeat' first
    | with_reducible assumption | with_reducible apply ropCmd_kept (hal.mono rfl)
    | with_reducible apply setFld_kept (hal.mono rfl)

theorem ropUnpin_touches (h : exec .ropUnpin s = .next t) : Kept (touches .ropUnpin).contains s t := by
  refine .run h ?_ rfl
  have hal : Allow (touches .ropUnpin).contains (touches .ropUnpin) := fun k hk => List.contains_iff_mem.2 hk
  have h0 := Kept.refl (al := (touches .ropUnpin).contains) s
  repeat' first
    | with_reducible assumption | with_reducible apply ropCmd_kept (hal.mono rfl)
    | with_reducible apply setFld_kept (hal.mono rfl)

theorem ropRefused_touches (h : exec .ropRefused s = .next t) : Kept (touches .ropRefused).contains s t :=
    .run h (ropRefuse_kept (.of rfl) (.refl s) ..) rfl

theorem ropDone_touches (h : exec .ropDone s = .next t) : Kept (touches .ropDone).contains s t := by
  refine .run h ?_ rfl
  have hal : Allow (touches .ropDone).contains (touches .ropDone) := fun k hk => List.contains_iff_mem.2 hk
  have h0 := Kept.refl (al := (touches .ropDone).contains) s
  repeat' first
    | with_reducible assumption | with_reducible apply drainTry_kept (hal.mono rfl)
    | with_reducible apply ropDone_kept (hal.mono rfl)

theorem vnrCtlEnWrite_touches (a0 : Bool) (h : exec (.vnrCtlEnWrite a0) s = .next t) :
    Kept (touches (.vnrCtlEnWrite a0)).contains s t := .run h (vnrCtlEn_kept (.of rfl) (.refl s) ..) rfl

theorem vnrClearingDone_touches (h : exec .vnrClearingDone s = .next t) : Kept (touches .vnrClearingDone).contains s t :=
    .run h (vnrClearingDone_kept (.of rfl) (.refl s) ..) rfl

theorem vnrDrainDone_touches (h : exec .vnrDrainDone s = .next t) : Kept (touches .vnrDrainDone).contains s t :=
    .run h (vnrDrainDone_kept (.of rfl) (.refl s) ..) rfl

theorem epochAdvance_touches (h : exec .epochAdvance s = .next t) : Kept (touches .epochAdvance).contains s t := by
  refine .run h ?_ rfl
  have hal : Allow (touches .epochAdvance).contains (touches .epochAdvance) := fun k hk => List.contains_iff_mem.2 hk
  have h0 := Kept.refl (al := (touches .epochAdvance).contains) s
  repeat' first
    | with_reducible assumption | with_reducible apply epochAdvance_kept (hal.mono rfl) | with_reducible apply kept_ite

theorem fenceEpochAdvance_touches (h : exec .fenceEpochAdvance s = .next t) : Kept (touches .fenceEpochAdvance).contains s t := by
  refine .run h ?_ rfl
  have hal : Allow (touches .fenceEpochAdvance).contains (touches .fenceEpochAdvance) := fun k hk => List.contains_iff_mem.2 hk
  have h0 := Kept.refl (al := (touches .fenceEpochAdvance).contains) s
  repeat' first
    | with_reducible assumption | with_reducible apply epochAdvance_kept (hal.mono rfl) | with_reducible apply kept_ite

theorem mirrorCapture_touches (h : exec .mirrorCapture s = .next t) : Kept (touches .mirrorCapture).contains s t :=
    .run h (mirrorCapture_kept (.of rfl) (.refl s) ..) rfl

theorem twinSilent_touches (a0 : Fin 8) (h : exec (.twinSilent a0) s = .next t) :
    Kept (touches (.twinSilent a0)).contains s t := .run h (twinSilent_kept (.of rfl) (.refl s) ..) rfl

theorem curAttach_touches (h : exec .curAttach s = .next t) : Kept (touches .curAttach).contains s t :=
    .run h (curAttach_kept (.of rfl) (.refl s) ..) rfl

theorem curDegrade_touches (h : exec .curDegrade s = .next t) : Kept (touches .curDegrade).contains s t :=
    .run h (curDegrade_kept (.of rfl) (.refl s) ..) rfl

theorem staleSideWrite_touches (a0 : Bool) (h : exec (.staleSideWrite a0) s = .next t) :
    Kept (touches (.staleSideWrite a0)).contains s t := .run h (staleSideWrite_kept (.of rfl) (.refl s) ..) rfl

theorem attachPush_touches (a0 : List (Nat × LineData)) (h : exec (.attachPush a0) s = .next t) :
    Kept (touches (.attachPush a0)).contains s t := .run h (attachPush_kept (.of rfl) (.refl s) ..) rfl

theorem mirrorAttached_touches (h : exec .mirrorAttached s = .next t) : Kept (touches .mirrorAttached).contains s t :=
    .run h (mirrorAttached_kept (.of rfl) (.refl s) ..) rfl

theorem mirrorResend_touches (a0 : Fin 8) (a1 : List (Nat × LineData)) (h : exec (.mirrorResend a0 a1) s = .next t) :
    Kept (touches (.mirrorResend a0 a1)).contains s t := .run h (mirrorResend_kept (.of rfl) (.refl s) ..) rfl

theorem repairAnswer_touches (h : exec .repairAnswer s = .next t) : Kept (touches .repairAnswer).contains s t :=
    .run h (repairAnswer_kept (.of rfl) (.refl s) ..) rfl

theorem fenceCmdFence_touches (a0 : Fin 16) (h : exec (.fenceCmdFence a0) s = .next t) :
    Kept (touches (.fenceCmdFence a0)).contains s t := .run h (fenceCmd_kept (.of rfl) (.refl s) ..) rfl

theorem chFenced_touches (a0 : Fin 16) (h : exec (.chFenced a0) s = .next t) : Kept (touches (.chFenced a0)).contains s t :=
    .run h (chFenced_kept (.of rfl) (.refl s) ..) rfl

theorem fenceSweepDone_touches (a0 : Fin 16) (h : exec (.fenceSweepDone a0) s = .next t) :
    Kept (touches (.fenceSweepDone a0)).contains s t := .run h (fenceSweepDone_kept (.of rfl) (.refl s) ..) rfl

theorem unfenceStale_touches (a0 : Fin 16) (h : exec (.unfenceStale a0) s = .next t) :
    Kept (touches (.unfenceStale a0)).contains s t := .run h (unfence_kept (.of rfl) (.refl s) ..) rfl

theorem unfenceFull_touches (a0 : Fin 16) (h : exec (.unfenceFull a0) s = .next t) :
    Kept (touches (.unfenceFull a0)).contains s t := .run h (unfence_kept (.of rfl) (.refl s) ..) rfl

theorem recastPanel_touches (a0 : List (Option LineData)) (h : exec (.recastPanel a0) s = .next t) :
    Kept (touches (.recastPanel a0)).contains s t := .run h (recastPanel_kept (.of rfl) (.refl s) ..) rfl

theorem recastDone_touches (h : exec .recastDone s = .next t) : Kept (touches .recastDone).contains s t :=
    .run h (recastDone_kept (.of rfl) (.refl s) ..) rfl

theorem drainStart_touches (h : exec .drainStart s = .next t) : Kept (touches .drainStart).contains s t :=
    .run h (pfailLow_kept (.of rfl) (.refl s) ..) rfl

theorem drainRecords_touches (h : exec .drainRecords s = .next t) : Kept (touches .drainRecords).contains s t :=
    .run h (drainRecords_kept (.of rfl) (.refl s) ..) rfl

theorem drainComplete_touches (h : exec .drainComplete s = .next t) : Kept (touches .drainComplete).contains s t :=
    .run h (drainComplete_kept (.of rfl) (.refl s) ..) rfl

theorem epochSet_touches (a0 : BitVec 12) (a1 : Word32) (h : exec (.epochSet a0 a1) s = .next t) :
    Kept (touches (.epochSet a0 a1)).contains s t := .run h (epochSet_kept (.of rfl) (.refl s) ..) rfl

theorem mirrorLines_touches (a0 : Fin 8) (h : exec (.mirrorLines a0) s = .next t) :
    Kept (touches (.mirrorLines a0)).contains s t := .run h (mirrorLines_kept (.of rfl) (.refl s) ..) rfl

theorem mirrorMasked_touches (a0 : Fin 8) (h : exec (.mirrorMasked a0) s = .next t) :
    Kept (touches (.mirrorMasked a0)).contains s t := .run h (mirrorMasked_kept (.of rfl) (.refl s) ..) rfl

theorem mirrorPoison_touches (a0 : Fin 8) (h : exec (.mirrorPoison a0) s = .next t) :
    Kept (touches (.mirrorPoison a0)).contains s t := .run h (mirrorPoison_kept (.of rfl) (.refl s) ..) rfl

theorem mirrorTrim_touches (a0 : Fin 8) (h : exec (.mirrorTrim a0) s = .next t) :
    Kept (touches (.mirrorTrim a0)).contains s t := .run h (mirrorTrim_kept (.of rfl) (.refl s) ..) rfl

theorem mirrorMark_touches (a0 : Fin 8) (h : exec (.mirrorMark a0) s = .next t) :
    Kept (touches (.mirrorMark a0)).contains s t := .run h (mirrorMark_kept (.of rfl) (.refl s) ..) rfl

theorem mirrorLinesMarked_touches (a0 : Fin 8) (h : exec (.mirrorLinesMarked a0) s = .next t) :
    Kept (touches (.mirrorLinesMarked a0)).contains s t := .run h (mirrorMarked_kept (.of rfl) (.refl s) ..) rfl

theorem heatDecay_touches (h : exec .heatDecay s = .next t) : Kept (touches .heatDecay).contains s t :=
    .run h (heatDecay_kept (.of rfl) (.refl s) ..) rfl

theorem promotion_touches (a0 : Fin 4) (h : exec (.promotion a0) s = .next t) : Kept (touches (.promotion a0)).contains s t :=
    .run h (promotion_kept (.of rfl) (.refl s) ..) rfl

theorem demotionHandStep_touches (a0 : RawLine) (h : exec (.demotionHandStep a0) s = .next t) :
    Kept (touches (.demotionHandStep a0)).contains s t := .run h (handStep_kept (.of rfl) (.refl s) ..) rfl

theorem demotion_touches (a0 : Fin 4) (h : exec (.demotion a0) s = .next t) : Kept (touches (.demotion a0)).contains s t :=
    .run h (demotion_kept (.of rfl) (.refl s) ..) rfl

theorem moveStepDone_touches (a0 : BitVec 32) (h : exec (.moveStepDone a0) s = .next t) :
    Kept (touches (.moveStepDone a0)).contains s t := .run h (moveStepDone_kept (.of rfl) (.refl s) ..) rfl

theorem moveAbandon_touches (a0 : BitVec 32) (h : exec (.moveAbandon a0) s = .next t) :
    Kept (touches (.moveAbandon a0)).contains s t := .run h (moveAbandon_kept (.of rfl) (.refl s) ..) rfl

theorem frameRefill_touches (h : exec .frameRefill s = .next t) : Kept (touches .frameRefill).contains s t :=
    .run h (frameRefill_kept (.of rfl) (.refl s) ..) rfl

theorem nbrRttProbe_touches (a0 : Fin 32) (a1 : BitVec 28) (h : exec (.nbrRttProbe a0 a1) s = .next t) :
    Kept (touches (.nbrRttProbe a0 a1)).contains s t := .run h (nbrProbe_kept (.of rfl) (.refl s) ..) rfl

theorem nbrStateChange_touches (a0 : Fin 32) (a1 : Option (BitVec 16)) (h : exec (.nbrStateChange a0 a1) s = .next t) :
    Kept (touches (.nbrStateChange a0 a1)).contains s t := .run h (nbrStateChange_kept (.of rfl) (.refl s) ..) rfl

theorem lendAccess_touches (a0 : Fin 8) (h : exec (.lendAccess a0) s = .next t) :
    Kept (touches (.lendAccess a0)).contains s t := .run h (lendAccess_kept (.of rfl) (.refl s) ..) rfl

theorem lendAlloc_touches (a0 : Fin 8) (h : exec (.lendAlloc a0) s = .next t) : Kept (touches (.lendAlloc a0)).contains s t :=
    .run h (lendAlloc_kept (.of rfl) (.refl s) ..) rfl

theorem lendFree_touches (a0 : Fin 8) (h : exec (.lendFree a0) s = .next t) : Kept (touches (.lendFree a0)).contains s t :=
    .run h (lendFree_kept (.of rfl) (.refl s) ..) rfl

theorem grantEnable_touches (a0 : Fin 32) (a1 : Word64) (h : exec (.grantEnable a0 a1) s = .next t) :
    Kept (touches (.grantEnable a0 a1)).contains s t := .run h (grantEnable_kept (.of rfl) (.refl s) ..) rfl

theorem grantDisable_touches (a0 : Fin 32) (h : exec (.grantDisable a0) s = .next t) :
    Kept (touches (.grantDisable a0)).contains s t := .run h (grantDisable_kept (.of rfl) (.refl s) ..) rfl

theorem grantHold_touches (a0 : Fin 32) (a1 : Bool) (h : exec (.grantHold a0 a1) s = .next t) :
    Kept (touches (.grantHold a0 a1)).contains s t := .run h (grantHold_kept (.of rfl) (.refl s) ..) rfl

theorem grantReload_touches (a0 : Fin 32) (h : exec (.grantReload a0) s = .next t) :
    Kept (touches (.grantReload a0)).contains s t := .run h (grantReload_kept (.of rfl) (.refl s) ..) rfl

theorem reclaimCmd_touches (a0 : Fin 32) (a1 : List (Nat × LineData)) (a2 : List Nat) (h : exec (.reclaimCmd a0 a1 a2) s = .next t) :
    Kept (touches (.reclaimCmd a0 a1 a2)).contains s t := .run h (reclaimCmd_kept (.of rfl) (.refl s) ..) rfl

theorem reclaimDone_touches (a0 : List (Nat × LineData)) (a1 : List Nat) (h : exec (.reclaimDone a0 a1) s = .next t) :
    Kept (touches (.reclaimDone a0 a1)).contains s t := .run h (reclaimDone_kept (.of rfl) (.refl s) ..) rfl

theorem frameCmd_touches (h : exec .frameCmd s = .next t) : Kept (touches .frameCmd).contains s t :=
    .run h (frameCmd_kept (.of rfl) (.refl s) ..) rfl

theorem moveCmd_touches (a0 : Word64) (h : exec (.moveCmd a0) s = .next t) : Kept (touches (.moveCmd a0)).contains s t :=
    .run h (moveCmd_kept (.of rfl) (.refl s) ..) rfl

theorem jigGo_touches (a0 : Fin 4) (a1 : List (Nat × LineData)) (h : exec (.jigGo a0 a1) s = .next t) :
    Kept (touches (.jigGo a0 a1)).contains s t := .run h (jigGo_kept (.of rfl) (.refl s) ..) rfl

theorem jigStop_touches (a0 : Fin 4) (h : exec (.jigStop a0) s = .next t) : Kept (touches (.jigStop a0)).contains s t :=
    .run h (jigStop_kept (.of rfl) (.refl s) ..) rfl

theorem jigStepStart_touches (a0 : Fin 4) (h : exec (.jigStepStart a0) s = .next t) :
    Kept (touches (.jigStepStart a0)).contains s t := .run h (jigStepStart_kept (.of rfl) (.refl s) ..) rfl

theorem jigStepStaged_touches (a0 : Fin 4) (a1 : List (Nat × LineData)) (h : exec (.jigStepStaged a0 a1) s = .next t) :
    Kept (touches (.jigStepStaged a0 a1)).contains s t := .run h (jigStepStaged_kept (.of rfl) (.refl s) ..) rfl

theorem jigLate_touches (a0 : Fin 4) (h : exec (.jigLate a0) s = .next t) : Kept (touches (.jigLate a0)).contains s t :=
    .run h (jigLate_kept (.of rfl) (.refl s) ..) rfl

theorem jigUnpinStep_touches (a0 : Fin 4) (h : exec (.jigUnpinStep a0) s = .next t) :
    Kept (touches (.jigUnpinStep a0)).contains s t := .run h (jigUnpin_kept (.of rfl) (.refl s) ..) rfl

theorem jigDone_touches (a0 : Fin 4) (h : exec (.jigDone a0) s = .next t) : Kept (touches (.jigDone a0)).contains s t :=
    .run h (jigDone_kept (.of rfl) (.refl s) ..) rfl

theorem segLiveChange_touches (a0 : Fin 4) (a1 : Bool) (h : exec (.segLiveChange a0 a1) s = .next t) :
    Kept (touches (.segLiveChange a0 a1)).contains s t := .run h (segLive_kept (.of rfl) (.refl s) ..) rfl

theorem segCtlWrite_touches (a0 : Fin 4) (a1 : Bool) (h : exec (.segCtlWrite a0 a1) s = .next t) :
    Kept (touches (.segCtlWrite a0 a1)).contains s t := .run h (segCtl_kept (.of rfl) (.refl s) ..) rfl

theorem txDatagram_touches (a0 : Fin 4) (a1 : List (Nat × LineData)) (h : exec (.txDatagram a0 a1) s = .next t) :
    Kept (touches (.txDatagram a0 a1)).contains s t := .run h (txDatagram_kept (.of rfl) (.refl s) ..) rfl

theorem rxDatagram_touches (a0 : Fin 4) (a1 : RxBeats) (a2 : Datagram) (h : exec (.rxDatagram a0 a1 a2) s = .next t) :
    Kept (touches (.rxDatagram a0 a1 a2)).contains s t := .run h (rxDatagram_kept (.of rfl) (.refl s) ..) rfl

theorem tenonWrite_touches (a0 : Fin 8) (h : exec (.tenonWrite a0) s = .next t) :
    Kept (touches (.tenonWrite a0)).contains s t := .run h (tenWrite_kept (.of rfl) (.refl s) ..) rfl

theorem tenonWriteImm_touches (a0 : Fin 8) (h : exec (.tenonWriteImm a0) s = .next t) :
    Kept (touches (.tenonWriteImm a0)).contains s t := .run h (tenWriteImm_kept (.of rfl) (.refl s) ..) rfl

theorem tenonReadReq_touches (a0 : Fin 8) (h : exec (.tenonReadReq a0) s = .next t) :
    Kept (touches (.tenonReadReq a0)).contains s t := .run h (tenRead_kept (.of rfl) (.refl s) ..) rfl

theorem tenonReadResp_touches (a0 : Fin 8) (h : exec (.tenonReadResp a0) s = .next t) :
    Kept (touches (.tenonReadResp a0)).contains s t := .run h (tenResp_kept (.of rfl) (.refl s) ..) rfl

theorem tenonAtomAdd8_touches (a0 : Fin 8) (h : exec (.tenonAtomAdd8 a0) s = .next t) :
    Kept (touches (.tenonAtomAdd8 a0)).contains s t := .run h (tenAtom_kept (.of rfl) (.refl s) ..) rfl

theorem tenonAtomCas8_touches (a0 : Fin 8) (h : exec (.tenonAtomCas8 a0) s = .next t) :
    Kept (touches (.tenonAtomCas8 a0)).contains s t := .run h (tenAtom_kept (.of rfl) (.refl s) ..) rfl

theorem tenonCureWrite_touches (a0 : Fin 8) (h : exec (.tenonCureWrite a0) s = .next t) :
    Kept (touches (.tenonCureWrite a0)).contains s t := .run h (tenCureWrite_kept (.of rfl) (.refl s) ..) rfl

theorem tenonAck_touches (a0 : Fin 8) (h : exec (.tenonAck a0) s = .next t) : Kept (touches (.tenonAck a0)).contains s t :=
    .run h (tenAck_kept (.of rfl) (.refl s) ..) rfl

theorem tenonNak_touches (a0 : Fin 8) (h : exec (.tenonNak a0) s = .next t) : Kept (touches (.tenonNak a0)).contains s t :=
    .run h (tenNak_kept (.of rfl) (.refl s) ..) rfl

theorem tenonContextNotReady_touches (a0 : Fin 8) (h : exec (.tenonContextNotReady a0) s = .next t) :
    Kept (touches (.tenonContextNotReady a0)).contains s t := .run h (tenNotReady_kept (.of rfl) (.refl s) ..) rfl

theorem ackSend_touches (a0 : BitVec 16) (a1 : Bool) (h : exec (.ackSend a0 a1) s = .next t) :
    Kept (touches (.ackSend a0 a1)).contains s t := .run h (ackSend_kept (.of rfl) (.refl s) ..) rfl

theorem rtoExpiry_touches (a0 : BitVec 16) (h : exec (.rtoExpiry a0) s = .next t) :
    Kept (touches (.rtoExpiry a0)).contains s t := .run h (rtoExpiry_kept (.of rfl) (.refl s) ..) rfl

theorem noticePost_touches (a0 : Fin 32) (a1 : List (Nat × LineData)) (h : exec (.noticePost a0 a1) s = .next t) :
    Kept (touches (.noticePost a0 a1)).contains s t := .run h (noticePost_kept (.of rfl) (.refl s) ..) rfl

theorem ringAWrite_touches (a0 : Fin 32) (a1 : Word64) (h : exec (.ringAWrite a0 a1) s = .next t) :
    Kept (touches (.ringAWrite a0 a1)).contains s t := .run h (ringAWrite_kept (.of rfl) (.refl s) ..) rfl

theorem connCmdOpen_touches (h : exec .connCmdOpen s = .next t) : Kept (touches .connCmdOpen).contains s t :=
    .run h (connOpen_kept (.of rfl) (.refl s) ..) rfl

theorem connCmdClose_touches (h : exec .connCmdClose s = .next t) : Kept (touches .connCmdClose).contains s t :=
    .run h (connClose_kept (.of rfl) (.refl s) ..) rfl

theorem connCmdInstall_touches (h : exec .connCmdInstall s = .next t) : Kept (touches .connCmdInstall).contains s t :=
    .run h (keyInstall_kept (.of rfl) (.refl s) ..) rfl

theorem connCmdSwitch_touches (h : exec .connCmdSwitch s = .next t) : Kept (touches .connCmdSwitch).contains s t :=
    .run h (keySwitch_kept (.of rfl) (.refl s) ..) rfl

theorem connCmdRetire_touches (h : exec .connCmdRetire s = .next t) : Kept (touches .connCmdRetire).contains s t :=
    .run h (keyRetire_kept (.of rfl) (.refl s) ..) rfl

theorem connCmdError_touches (h : exec .connCmdError s = .next t) : Kept (touches .connCmdError).contains s t :=
    .run h (connErrCmd_kept (.of rfl) (.refl s) ..) rfl

theorem connCmdQuery_touches (h : exec .connCmdQuery s = .next t) : Kept (touches .connCmdQuery).contains s t :=
    .run h (connQuery_kept (.of rfl) (.refl s) ..) rfl

theorem connError_touches (a0 : BitVec 16) (a1 : ErrCause) (h : exec (.connError a0 a1) s = .next t) :
    Kept (touches (.connError a0 a1)).contains s t := .run h (connError_kept (.of rfl) (.refl s) ..) rfl

theorem ctxLoadDone_touches (a0 : Fin 8) (h : exec (.ctxLoadDone a0) s = .next t) :
    Kept (touches (.ctxLoadDone a0)).contains s t := .run h (ctxLoadDone_kept (.of rfl) (.refl s) ..) rfl

theorem ctxEvict_touches (a0 : Fin 8) (h : exec (.ctxEvict a0) s = .next t) : Kept (touches (.ctxEvict a0)).contains s t :=
    .run h (ctxEvict_kept (.of rfl) (.refl s) ..) rfl

theorem rkeyCmdCreate_touches (h : exec .rkeyCmdCreate s = .next t) : Kept (touches .rkeyCmdCreate).contains s t :=
    .run h (rkeyCreate_kept (.of rfl) (.refl s) ..) rfl

theorem rkeyCmdRevoke_touches (h : exec .rkeyCmdRevoke s = .next t) : Kept (touches .rkeyCmdRevoke).contains s t :=
    .run h (rkeyRevoke_kept (.of rfl) (.refl s) ..) rfl

theorem rkeyCmdQuery_touches (h : exec .rkeyCmdQuery s = .next t) : Kept (touches .rkeyCmdQuery).contains s t :=
    .run h (rkeyQuery_kept (.of rfl) (.refl s) ..) rfl

theorem regionRevoked_touches (h : exec .regionRevoked s = .next t) : Kept (touches .regionRevoked).contains s t :=
    .run h (regionRevoked_kept (.of rfl) (.refl s) ..) rfl

theorem armDiverge_touches (a0 : Fin 3) (a1 : BitVec 48) (h : exec (.armDiverge a0 a1) s = .next t) :
    Kept (touches (.armDiverge a0 a1)).contains s t := .run h (armStop_kept (.of rfl) (.refl s) ..) rfl

theorem armTcmErr_touches (a0 : Bool) (a1 : BitVec 48) (h : exec (.armTcmErr a0 a1) s = .next t) : Kept (touches (.armTcmErr a0 a1)).contains s t := by
  refine .run h ?_ rfl
  have hal : Allow (touches (.armTcmErr a0 a1)).contains (touches (.armTcmErr a0 a1)) := fun k hk => List.contains_iff_mem.2 hk
  have h0 := Kept.refl (al := (touches (.armTcmErr a0 a1)).contains) s
  repeat' first
    | with_reducible assumption | with_reducible apply armStop_kept (hal.mono rfl)
    | with_reducible apply cntInc_kept (hal.mono rfl) | with_reducible apply kept_ite

theorem imgBlockDone_touches (h : exec .imgBlockDone s = .next t) : Kept (touches .imgBlockDone).contains s t :=
    .run h (imgBlock_kept (.of rfl) (.refl s) ..) rfl

theorem imgFetchTimeout_touches (h : exec .imgFetchTimeout s = .next t) : Kept (touches .imgFetchTimeout).contains s t :=
    .run h (imgTimeout_kept (.of rfl) (.refl s) ..) rfl

theorem bootRomStart_touches (h : exec .bootRomStart s = .next t) : Kept (touches .bootRomStart).contains s t :=
    .run h (bootStart_kept (.of rfl) (.refl s) ..) rfl

theorem armRestart_touches (h : exec .armRestart s = .next t) : Kept (touches .armRestart).contains s t :=
    .run h (armRestart_kept (.of rfl) (.refl s) ..) rfl

theorem armUpdate_touches (h : exec .armUpdate s = .next t) : Kept (touches .armUpdate).contains s t :=
    .run h (armUpdate_kept (.of rfl) (.refl s) ..) rfl

theorem armReady_touches (h : exec .armReady s = .next t) : Kept (touches .armReady).contains s t :=
    .run h (armReady_kept (.of rfl) (.refl s) ..) rfl

theorem mbxRing_touches (a0 : Fin 4) (h : exec (.mbxRing a0) s = .next t) : Kept (touches (.mbxRing a0)).contains s t :=
    .run h (mbxRing_kept (.of rfl) (.refl s) ..) rfl

theorem mbxAck_touches (a0 : Fin 4) (h : exec (.mbxAck a0) s = .next t) : Kept (touches (.mbxAck a0)).contains s t :=
    .run h (mbxAck_kept (.of rfl) (.refl s) ..) rfl

theorem mbxTake_touches (h : exec .mbxTake s = .next t) : Kept (touches .mbxTake).contains s t :=
    .run h (mbxTake_kept (.of rfl) (.refl s) ..) rfl

theorem mbxRespond_touches (a0 : Fin 4) (h : exec (.mbxRespond a0) s = .next t) :
    Kept (touches (.mbxRespond a0)).contains s t := .run h (mbxRespond_kept (.of rfl) (.refl s) ..) rfl

theorem identify_touches (a0 : Fin 4) (h : exec (.identify a0) s = .next t) : Kept (touches (.identify a0)).contains s t := by
  refine .run h ?_ rfl
  have hal : Allow (touches (.identify a0)).contains (touches (.identify a0)) := fun k hk => List.contains_iff_mem.2 hk
  have h0 := Kept.refl (al := (touches (.identify a0)).contains) s
  repeat' first
    | with_reducible assumption | with_reducible apply mbxCmd_kept (hal.mono rfl)
    | with_reducible apply identify_kept (hal.mono rfl) | (intro _)

theorem getState_touches (a0 : Fin 4) (h : exec (.getState a0) s = .next t) : Kept (touches (.getState a0)).contains s t := by
  refine .run h ?_ rfl
  have hal : Allow (touches (.getState a0)).contains (touches (.getState a0)) := fun k hk => List.contains_iff_mem.2 hk
  have h0 := Kept.refl (al := (touches (.getState a0)).contains) s
  repeat' first
    | with_reducible assumption | with_reducible apply mbxCmd_kept (hal.mono rfl)
    | with_reducible apply getState_kept (hal.mono rfl) | (intro _)

theorem setDeviceId_touches (a0 : Fin 4) (h : exec (.setDeviceId a0) s = .next t) : Kept (touches (.setDeviceId a0)).contains s t := by
  refine .run h ?_ rfl
  have hal : Allow (touches (.setDeviceId a0)).contains (touches (.setDeviceId a0)) := fun k hk => List.contains_iff_mem.2 hk
  have h0 := Kept.refl (al := (touches (.setDeviceId a0)).contains) s
  repeat' first
    | with_reducible assumption | with_reducible apply mbxCmd_kept (hal.mono rfl)
    | with_reducible apply setDeviceId_kept (hal.mono rfl) | (intro _)

theorem setProfile_touches (a0 : Fin 4) (h : exec (.setProfile a0) s = .next t) : Kept (touches (.setProfile a0)).contains s t := by
  refine .run h ?_ rfl
  have hal : Allow (touches (.setProfile a0)).contains (touches (.setProfile a0)) := fun k hk => List.contains_iff_mem.2 hk
  have h0 := Kept.refl (al := (touches (.setProfile a0)).contains) s
  repeat' first
    | with_reducible assumption | with_reducible apply mbxCmd_kept (hal.mono rfl)
    | with_reducible apply setProfile_kept (hal.mono rfl) | (intro _)

theorem imgUpdate_touches (a0 : Fin 4) (h : exec (.imgUpdate a0) s = .next t) : Kept (touches (.imgUpdate a0)).contains s t := by
  refine .run h ?_ rfl
  have hal : Allow (touches (.imgUpdate a0)).contains (touches (.imgUpdate a0)) := fun k hk => List.contains_iff_mem.2 hk
  have h0 := Kept.refl (al := (touches (.imgUpdate a0)).contains) s
  repeat' first
    | with_reducible assumption | with_reducible apply mbxCmd_kept (hal.mono rfl)
    | with_reducible apply fwOk_kept (hal.mono rfl) | with_reducible apply armUpdate_kept (hal.mono rfl)
    | with_reducible apply mbxRespond_kept (hal.mono rfl) | (intro _) | with_reducible apply kept_ite

theorem svnAdvance_touches (a0 : Fin 4) (h : exec (.svnAdvance a0) s = .next t) : Kept (touches (.svnAdvance a0)).contains s t := by
  refine .run h ?_ rfl
  have hal : Allow (touches (.svnAdvance a0)).contains (touches (.svnAdvance a0)) := fun k hk => List.contains_iff_mem.2 hk
  have h0 := Kept.refl (al := (touches (.svnAdvance a0)).contains) s
  repeat' first
    | with_reducible assumption | with_reducible apply mbxCmd_kept (hal.mono rfl)
    | with_reducible apply svnAdvance_kept (hal.mono rfl) | (intro _)

theorem setAccess_touches (a0 : Fin 4) (h : exec (.setAccess a0) s = .next t) : Kept (touches (.setAccess a0)).contains s t := by
  refine .run h ?_ rfl
  have hal : Allow (touches (.setAccess a0)).contains (touches (.setAccess a0)) := fun k hk => List.contains_iff_mem.2 hk
  have h0 := Kept.refl (al := (touches (.setAccess a0)).contains) s
  repeat' first
    | with_reducible assumption | with_reducible apply mbxCmd_kept (hal.mono rfl)
    | with_reducible apply setAccess_kept (hal.mono rfl) | (intro _)

theorem imgkeyProgram_touches (a0 : Fin 4) (h : exec (.imgkeyProgram a0) s = .next t) : Kept (touches (.imgkeyProgram a0)).contains s t := by
  refine .run h ?_ rfl
  have hal : Allow (touches (.imgkeyProgram a0)).contains (touches (.imgkeyProgram a0)) := fun k hk => List.contains_iff_mem.2 hk
  have h0 := Kept.refl (al := (touches (.imgkeyProgram a0)).contains) s
  repeat' first
    | with_reducible assumption | with_reducible apply mbxCmd_kept (hal.mono rfl)
    | with_reducible apply imgkeyProgram_kept (hal.mono rfl) | (intro _)

theorem imgkeyRevoke_touches (a0 : Fin 4) (h : exec (.imgkeyRevoke a0) s = .next t) : Kept (touches (.imgkeyRevoke a0)).contains s t := by
  refine .run h ?_ rfl
  have hal : Allow (touches (.imgkeyRevoke a0)).contains (touches (.imgkeyRevoke a0)) := fun k hk => List.contains_iff_mem.2 hk
  have h0 := Kept.refl (al := (touches (.imgkeyRevoke a0)).contains) s
  repeat' first
    | with_reducible assumption | with_reducible apply mbxCmd_kept (hal.mono rfl)
    | with_reducible apply imgkeyRevoke_kept (hal.mono rfl) | (intro _)

theorem getConfig_touches (a0 : Fin 4) (h : exec (.getConfig a0) s = .next t) : Kept (touches (.getConfig a0)).contains s t := by
  refine .run h ?_ rfl
  have hal : Allow (touches (.getConfig a0)).contains (touches (.getConfig a0)) := fun k hk => List.contains_iff_mem.2 hk
  have h0 := Kept.refl (al := (touches (.getConfig a0)).contains) s
  repeat' first
    | with_reducible assumption | with_reducible apply mbxCmd_kept (hal.mono rfl)
    | with_reducible apply getConfig_kept (hal.mono rfl) | (intro _)

theorem setLayout_touches (a0 : Fin 4) (h : exec (.setLayout a0) s = .next t) : Kept (touches (.setLayout a0)).contains s t := by
  refine .run h ?_ rfl
  have hal : Allow (touches (.setLayout a0)).contains (touches (.setLayout a0)) := fun k hk => List.contains_iff_mem.2 hk
  have h0 := Kept.refl (al := (touches (.setLayout a0)).contains) s
  repeat' first
    | with_reducible assumption | with_reducible apply mbxCmd_kept (hal.mono rfl)
    | with_reducible apply setLayout_kept (hal.mono rfl) | (intro _)

theorem setTiming_touches (a0 : Fin 4) (h : exec (.setTiming a0) s = .next t) : Kept (touches (.setTiming a0)).contains s t := by
  refine .run h ?_ rfl
  have hal : Allow (touches (.setTiming a0)).contains (touches (.setTiming a0)) := fun k hk => List.contains_iff_mem.2 hk
  have h0 := Kept.refl (al := (touches (.setTiming a0)).contains) s
  repeat' first
    | with_reducible assumption | with_reducible apply mbxCmd_kept (hal.mono rfl)
    | with_reducible apply setTiming_kept (hal.mono rfl) | (intro _)

theorem setRegion_touches (a0 : Fin 4) (h : exec (.setRegion a0) s = .next t) : Kept (touches (.setRegion a0)).contains s t := by
  refine .run h ?_ rfl
  have hal : Allow (touches (.setRegion a0)).contains (touches (.setRegion a0)) := fun k hk => List.contains_iff_mem.2 hk
  have h0 := Kept.refl (al := (touches (.setRegion a0)).contains) s
  repeat' first
    | with_reducible assumption | with_reducible apply mbxCmd_kept (hal.mono rfl)
    | with_reducible apply setRegion_kept (hal.mono rfl) | (intro _)

theorem getRegion_touches (a0 : Fin 4) (h : exec (.getRegion a0) s = .next t) : Kept (touches (.getRegion a0)).contains s t := by
  refine .run h ?_ rfl
  have hal : Allow (touches (.getRegion a0)).contains (touches (.getRegion a0)) := fun k hk => List.contains_iff_mem.2 hk
  have h0 := Kept.refl (al := (touches (.getRegion a0)).contains) s
  repeat' first
    | with_reducible assumption | with_reducible apply mbxCmd_kept (hal.mono rfl)
    | with_reducible apply getRegion_kept (hal.mono rfl) | (intro _)

theorem setRanks_touches (a0 : Fin 4) (h : exec (.setRanks a0) s = .next t) : Kept (touches (.setRanks a0)).contains s t := by
  refine .run h ?_ rfl
  have hal : Allow (touches (.setRanks a0)).contains (touches (.setRanks a0)) := fun k hk => List.contains_iff_mem.2 hk
  have h0 := Kept.refl (al := (touches (.setRanks a0)).contains) s
  repeat' first
    | with_reducible assumption | with_reducible apply mbxCmd_kept (hal.mono rfl)
    | with_reducible apply setRanks_kept (hal.mono rfl) | (intro _)

theorem setQos_touches (a0 : Fin 4) (h : exec (.setQos a0) s = .next t) : Kept (touches (.setQos a0)).contains s t := by
  refine .run h ?_ rfl
  have hal : Allow (touches (.setQos a0)).contains (touches (.setQos a0)) := fun k hk => List.contains_iff_mem.2 hk
  have h0 := Kept.refl (al := (touches (.setQos a0)).contains) s
  repeat' first
    | with_reducible assumption | with_reducible apply mbxCmd_kept (hal.mono rfl)
    | with_reducible apply setQos_kept (hal.mono rfl) | (intro _)

theorem getForecast_touches (a0 : Fin 4) (h : exec (.getForecast a0) s = .next t) : Kept (touches (.getForecast a0)).contains s t := by
  refine .run h ?_ rfl
  have hal : Allow (touches (.getForecast a0)).contains (touches (.getForecast a0)) := fun k hk => List.contains_iff_mem.2 hk
  have h0 := Kept.refl (al := (touches (.getForecast a0)).contains) s
  repeat' first
    | with_reducible assumption | with_reducible apply mbxCmd_kept (hal.mono rfl)
    | with_reducible apply getForecast_kept (hal.mono rfl) | (intro _)

theorem setChoreo_touches (a0 : Fin 4) (h : exec (.setChoreo a0) s = .next t) : Kept (touches (.setChoreo a0)).contains s t := by
  refine .run h ?_ rfl
  have hal : Allow (touches (.setChoreo a0)).contains (touches (.setChoreo a0)) := fun k hk => List.contains_iff_mem.2 hk
  have h0 := Kept.refl (al := (touches (.setChoreo a0)).contains) s
  repeat' first
    | with_reducible assumption | with_reducible apply mbxCmd_kept (hal.mono rfl)
    | with_reducible apply setChoreo_kept (hal.mono rfl) | (intro _)

theorem getHealth_touches (a0 : Fin 4) (h : exec (.getHealth a0) s = .next t) : Kept (touches (.getHealth a0)).contains s t := by
  refine .run h ?_ rfl
  have hal : Allow (touches (.getHealth a0)).contains (touches (.getHealth a0)) := fun k hk => List.contains_iff_mem.2 hk
  have h0 := Kept.refl (al := (touches (.getHealth a0)).contains) s
  repeat' first
    | with_reducible assumption | with_reducible apply mbxCmd_kept (hal.mono rfl)
    | with_reducible apply getHealth_kept (hal.mono rfl) | (intro _)

theorem setMark_touches (a0 : Fin 4) (h : exec (.setMark a0) s = .next t) : Kept (touches (.setMark a0)).contains s t := by
  refine .run h ?_ rfl
  have hal : Allow (touches (.setMark a0)).contains (touches (.setMark a0)) := fun k hk => List.contains_iff_mem.2 hk
  have h0 := Kept.refl (al := (touches (.setMark a0)).contains) s
  repeat' first
    | with_reducible assumption | with_reducible apply mbxCmd_kept (hal.mono rfl)
    | with_reducible apply setMarkCmd_kept (hal.mono rfl) | (intro _)

theorem clearMark_touches (a0 : Fin 4) (h : exec (.clearMark a0) s = .next t) : Kept (touches (.clearMark a0)).contains s t := by
  refine .run h ?_ rfl
  have hal : Allow (touches (.clearMark a0)).contains (touches (.clearMark a0)) := fun k hk => List.contains_iff_mem.2 hk
  have h0 := Kept.refl (al := (touches (.clearMark a0)).contains) s
  repeat' first
    | with_reducible assumption | with_reducible apply mbxCmd_kept (hal.mono rfl)
    | with_reducible apply clearMarkCmd_kept (hal.mono rfl) | (intro _)

theorem inlayAdd_touches (a0 : Fin 4) (h : exec (.inlayAdd a0) s = .next t) : Kept (touches (.inlayAdd a0)).contains s t := by
  refine .run h ?_ rfl
  have hal : Allow (touches (.inlayAdd a0)).contains (touches (.inlayAdd a0)) := fun k hk => List.contains_iff_mem.2 hk
  have h0 := Kept.refl (al := (touches (.inlayAdd a0)).contains) s
  repeat' first
    | with_reducible assumption | with_reducible apply mbxCmd_kept (hal.mono rfl)
    | with_reducible apply inlayAdd_kept (hal.mono rfl) | (intro _)

theorem pprSchedule_touches (a0 : Fin 4) (h : exec (.pprSchedule a0) s = .next t) : Kept (touches (.pprSchedule a0)).contains s t := by
  refine .run h ?_ rfl
  have hal : Allow (touches (.pprSchedule a0)).contains (touches (.pprSchedule a0)) := fun k hk => List.contains_iff_mem.2 hk
  have h0 := Kept.refl (al := (touches (.pprSchedule a0)).contains) s
  repeat' first
    | with_reducible assumption | with_reducible apply mbxCmd_kept (hal.mono rfl)
    | with_reducible apply pprSchedule_kept (hal.mono rfl) | (intro _)

theorem setScrub_touches (a0 : Fin 4) (h : exec (.setScrub a0) s = .next t) : Kept (touches (.setScrub a0)).contains s t := by
  refine .run h ?_ rfl
  have hal : Allow (touches (.setScrub a0)).contains (touches (.setScrub a0)) := fun k hk => List.contains_iff_mem.2 hk
  have h0 := Kept.refl (al := (touches (.setScrub a0)).contains) s
  repeat' first
    | with_reducible assumption | with_reducible apply mbxCmd_kept (hal.mono rfl)
    | with_reducible apply setScrub_kept (hal.mono rfl) | (intro _)

theorem diagPass_touches (a0 : Fin 4) (h : exec (.diagPass a0) s = .next t) : Kept (touches (.diagPass a0)).contains s t := by
  refine .run h ?_ rfl
  have hal : Allow (touches (.diagPass a0)).contains (touches (.diagPass a0)) := fun k hk => List.contains_iff_mem.2 hk
  have h0 := Kept.refl (al := (touches (.diagPass a0)).contains) s
  repeat' first
    | with_reducible assumption | with_reducible apply mbxCmd_kept (hal.mono rfl)
    | with_reducible apply diagPass_kept (hal.mono rfl) | (intro _)

theorem rangeOp_touches (a0 : Fin 4) (h : exec (.rangeOp a0) s = .next t) : Kept (touches (.rangeOp a0)).contains s t := by
  refine .run h ?_ rfl
  have hal : Allow (touches (.rangeOp a0)).contains (touches (.rangeOp a0)) := fun k hk => List.contains_iff_mem.2 hk
  have h0 := Kept.refl (al := (touches (.rangeOp a0)).contains) s
  repeat' first
    | with_reducible assumption | with_reducible apply mbxCmd_kept (hal.mono rfl)
    | with_reducible apply rangeOp_kept (hal.mono rfl) | (intro _)

theorem vnrEnable_touches (a0 : Fin 4) (h : exec (.vnrEnable a0) s = .next t) : Kept (touches (.vnrEnable a0)).contains s t := by
  refine .run h ?_ rfl
  have hal : Allow (touches (.vnrEnable a0)).contains (touches (.vnrEnable a0)) := fun k hk => List.contains_iff_mem.2 hk
  have h0 := Kept.refl (al := (touches (.vnrEnable a0)).contains) s
  repeat' first
    | with_reducible assumption | with_reducible apply mbxCmd_kept (hal.mono rfl)
    | with_reducible apply vnrEnable_kept (hal.mono rfl) | (intro _)

theorem vnrStatus_touches (a0 : Fin 4) (h : exec (.vnrStatus a0) s = .next t) : Kept (touches (.vnrStatus a0)).contains s t := by
  refine .run h ?_ rfl
  have hal : Allow (touches (.vnrStatus a0)).contains (touches (.vnrStatus a0)) := fun k hk => List.contains_iff_mem.2 hk
  have h0 := Kept.refl (al := (touches (.vnrStatus a0)).contains) s
  repeat' first
    | with_reducible assumption | with_reducible apply mbxCmd_kept (hal.mono rfl)
    | with_reducible apply vnrStatus_kept (hal.mono rfl) | (intro _)

theorem setDirtyBudget_touches (a0 : Fin 4) (h : exec (.setDirtyBudget a0) s = .next t) : Kept (touches (.setDirtyBudget a0)).contains s t := by
  refine .run h ?_ rfl
  have hal : Allow (touches (.setDirtyBudget a0)).contains (touches (.setDirtyBudget a0)) := fun k hk => List.contains_iff_mem.2 hk
  have h0 := Kept.refl (al := (touches (.setDirtyBudget a0)).contains) s
  repeat' first
    | with_reducible assumption | with_reducible apply mbxCmd_kept (hal.mono rfl)
    | with_reducible apply setDirtyBudget_kept (hal.mono rfl) | (intro _)

theorem setTwin_touches (a0 : Fin 4) (h : exec (.setTwin a0) s = .next t) : Kept (touches (.setTwin a0)).contains s t := by
  refine .run h ?_ rfl
  have hal : Allow (touches (.setTwin a0)).contains (touches (.setTwin a0)) := fun k hk => List.contains_iff_mem.2 hk
  have h0 := Kept.refl (al := (touches (.setTwin a0)).contains) s
  repeat' first
    | with_reducible assumption | with_reducible apply mbxCmd_kept (hal.mono rfl)
    | with_reducible apply setTwin_kept (hal.mono rfl) | (intro _)

theorem attach_touches (a0 : Fin 4) (h : exec (.attach a0) s = .next t) : Kept (touches (.attach a0)).contains s t := by
  refine .run h ?_ rfl
  have hal : Allow (touches (.attach a0)).contains (touches (.attach a0)) := fun k hk => List.contains_iff_mem.2 hk
  have h0 := Kept.refl (al := (touches (.attach a0)).contains) s
  repeat' first
    | with_reducible assumption | with_reducible apply mbxCmd_kept (hal.mono rfl)
    | with_reducible apply attachCmd_kept (hal.mono rfl) | (intro _)

theorem degrade_touches (a0 : Fin 4) (h : exec (.degrade a0) s = .next t) : Kept (touches (.degrade a0)).contains s t := by
  refine .run h ?_ rfl
  have hal : Allow (touches (.degrade a0)).contains (touches (.degrade a0)) := fun k hk => List.contains_iff_mem.2 hk
  have h0 := Kept.refl (al := (touches (.degrade a0)).contains) s
  repeat' first
    | with_reducible assumption | with_reducible apply mbxCmd_kept (hal.mono rfl)
    | with_reducible apply degradeCmd_kept (hal.mono rfl) | (intro _)

theorem getCure_touches (a0 : Fin 4) (h : exec (.getCure a0) s = .next t) : Kept (touches (.getCure a0)).contains s t := by
  refine .run h ?_ rfl
  have hal : Allow (touches (.getCure a0)).contains (touches (.getCure a0)) := fun k hk => List.contains_iff_mem.2 hk
  have h0 := Kept.refl (al := (touches (.getCure a0)).contains) s
  repeat' first
    | with_reducible assumption | with_reducible apply mbxCmd_kept (hal.mono rfl)
    | with_reducible apply getCure_kept (hal.mono rfl) | (intro _)

theorem fence_touches (a0 : Fin 4) (h : exec (.fence a0) s = .next t) : Kept (touches (.fence a0)).contains s t := by
  refine .run h ?_ rfl
  have hal : Allow (touches (.fence a0)).contains (touches (.fence a0)) := fun k hk => List.contains_iff_mem.2 hk
  have h0 := Kept.refl (al := (touches (.fence a0)).contains) s
  repeat' first
    | with_reducible assumption | with_reducible apply mbxCmd_kept (hal.mono rfl)
    | with_reducible apply fenceMbx_kept (hal.mono rfl) | (intro _)

theorem setCure_touches (a0 : Fin 4) (h : exec (.setCure a0) s = .next t) : Kept (touches (.setCure a0)).contains s t := by
  refine .run h ?_ rfl
  have hal : Allow (touches (.setCure a0)).contains (touches (.setCure a0)) := fun k hk => List.contains_iff_mem.2 hk
  have h0 := Kept.refl (al := (touches (.setCure a0)).contains) s
  repeat' first
    | with_reducible assumption | with_reducible apply mbxCmd_kept (hal.mono rfl)
    | with_reducible apply setCure_kept (hal.mono rfl) | (intro _)

theorem blankLineGet_touches (a0 : Fin 4) (h : exec (.blankLineGet a0) s = .next t) : Kept (touches (.blankLineGet a0)).contains s t := by
  refine .run h ?_ rfl
  have hal : Allow (touches (.blankLineGet a0)).contains (touches (.blankLineGet a0)) := fun k hk => List.contains_iff_mem.2 hk
  have h0 := Kept.refl (al := (touches (.blankLineGet a0)).contains) s
  repeat' first
    | with_reducible assumption | with_reducible apply mbxCmd_kept (hal.mono rfl)
    | with_reducible apply blankLineGet_kept (hal.mono rfl) | (intro _)

theorem mapRepair_touches (a0 : Fin 4) (h : exec (.mapRepair a0) s = .next t) : Kept (touches (.mapRepair a0)).contains s t := by
  refine .run h ?_ rfl
  have hal : Allow (touches (.mapRepair a0)).contains (touches (.mapRepair a0)) := fun k hk => List.contains_iff_mem.2 hk
  have h0 := Kept.refl (al := (touches (.mapRepair a0)).contains) s
  repeat' first
    | with_reducible assumption | with_reducible apply mbxDo_kept (hal.mono rfl)
    | with_reducible apply mapRepair_kept (hal.mono rfl) | (intro _)

theorem setTier_touches (a0 : Fin 4) (h : exec (.setTier a0) s = .next t) : Kept (touches (.setTier a0)).contains s t := by
  refine .run h ?_ rfl
  have hal : Allow (touches (.setTier a0)).contains (touches (.setTier a0)) := fun k hk => List.contains_iff_mem.2 hk
  have h0 := Kept.refl (al := (touches (.setTier a0)).contains) s
  repeat' first
    | with_reducible assumption | with_reducible apply mbxCmd_kept (hal.mono rfl)
    | with_reducible apply setTier_kept (hal.mono rfl) | (intro _)

theorem setNeighbour_touches (a0 : Fin 4) (h : exec (.setNeighbour a0) s = .next t) : Kept (touches (.setNeighbour a0)).contains s t := by
  refine .run h ?_ rfl
  have hal : Allow (touches (.setNeighbour a0)).contains (touches (.setNeighbour a0)) := fun k hk => List.contains_iff_mem.2 hk
  have h0 := Kept.refl (al := (touches (.setNeighbour a0)).contains) s
  repeat' first
    | with_reducible assumption | with_reducible apply mbxCmd_kept (hal.mono rfl)
    | with_reducible apply setNeighbour_kept (hal.mono rfl) | (intro _)

theorem setGrant_touches (a0 : Fin 4) (h : exec (.setGrant a0) s = .next t) : Kept (touches (.setGrant a0)).contains s t := by
  refine .run h ?_ rfl
  have hal : Allow (touches (.setGrant a0)).contains (touches (.setGrant a0)) := fun k hk => List.contains_iff_mem.2 hk
  have h0 := Kept.refl (al := (touches (.setGrant a0)).contains) s
  repeat' first
    | with_reducible assumption | with_reducible apply mbxCmd_kept (hal.mono rfl)
    | with_reducible apply setGrant_kept (hal.mono rfl) | (intro _)

theorem move_touches (a0 : Fin 4) (h : exec (.move a0) s = .next t) : Kept (touches (.move a0)).contains s t := by
  refine .run h ?_ rfl
  have hal : Allow (touches (.move a0)).contains (touches (.move a0)) := fun k hk => List.contains_iff_mem.2 hk
  have h0 := Kept.refl (al := (touches (.move a0)).contains) s
  repeat' first
    | with_reducible assumption | with_reducible apply mbxCmd_kept (hal.mono rfl)
    | with_reducible apply moveMbx_kept (hal.mono rfl) | (intro _)

theorem jigStart_touches (a0 : Fin 4) (a1 : List (Nat × LineData)) (h : exec (.jigStart a0 a1) s = .next t) : Kept (touches (.jigStart a0 a1)).contains s t := by
  refine .run h ?_ rfl
  have hal : Allow (touches (.jigStart a0 a1)).contains (touches (.jigStart a0 a1)) := fun k hk => List.contains_iff_mem.2 hk
  have h0 := Kept.refl (al := (touches (.jigStart a0 a1)).contains) s
  repeat' first
    | with_reducible assumption | with_reducible apply mbxCmd_kept (hal.mono rfl)
    | with_reducible apply jigStart_kept (hal.mono rfl) | (intro _)

theorem jigStatus_touches (a0 : Fin 4) (h : exec (.jigStatus a0) s = .next t) : Kept (touches (.jigStatus a0)).contains s t := by
  refine .run h ?_ rfl
  have hal : Allow (touches (.jigStatus a0)).contains (touches (.jigStatus a0)) := fun k hk => List.contains_iff_mem.2 hk
  have h0 := Kept.refl (al := (touches (.jigStatus a0)).contains) s
  repeat' first
    | with_reducible assumption | with_reducible apply mbxCmd_kept (hal.mono rfl)
    | with_reducible apply jigStatus_kept (hal.mono rfl) | (intro _)

theorem reclaim_touches (a0 : Fin 4) (a1 : List (Nat × LineData)) (a2 : List Nat) (h : exec (.reclaim a0 a1 a2) s = .next t) : Kept (touches (.reclaim a0 a1 a2)).contains s t := by
  refine .run h ?_ rfl
  have hal : Allow (touches (.reclaim a0 a1 a2)).contains (touches (.reclaim a0 a1 a2)) := fun k hk => List.contains_iff_mem.2 hk
  have h0 := Kept.refl (al := (touches (.reclaim a0 a1 a2)).contains) s
  repeat' first
    | with_reducible assumption | with_reducible apply mbxCmd_kept (hal.mono rfl)
    | with_reducible apply reclaimMbx_kept (hal.mono rfl) | (intro _)

theorem frameAudit_touches (a0 : Fin 4) (h : exec (.frameAudit a0) s = .next t) : Kept (touches (.frameAudit a0)).contains s t := by
  refine .run h ?_ rfl
  have hal : Allow (touches (.frameAudit a0)).contains (touches (.frameAudit a0)) := fun k hk => List.contains_iff_mem.2 hk
  have h0 := Kept.refl (al := (touches (.frameAudit a0)).contains) s
  repeat' first
    | with_reducible assumption | with_reducible apply mbxCmd_kept (hal.mono rfl)
    | with_reducible apply frameAudit_kept (hal.mono rfl) | (intro _)

theorem heldList_touches (a0 : Fin 4) (h : exec (.heldList a0) s = .next t) : Kept (touches (.heldList a0)).contains s t := by
  refine .run h ?_ rfl
  have hal : Allow (touches (.heldList a0)).contains (touches (.heldList a0)) := fun k hk => List.contains_iff_mem.2 hk
  have h0 := Kept.refl (al := (touches (.heldList a0)).contains) s
  repeat' first
    | with_reducible assumption | with_reducible apply mbxCmd_kept (hal.mono rfl)
    | with_reducible apply heldList_kept (hal.mono rfl) | (intro _)

theorem grantAudit_touches (a0 : Fin 4) (h : exec (.grantAudit a0) s = .next t) : Kept (touches (.grantAudit a0)).contains s t := by
  refine .run h ?_ rfl
  have hal : Allow (touches (.grantAudit a0)).contains (touches (.grantAudit a0)) := fun k hk => List.contains_iff_mem.2 hk
  have h0 := Kept.refl (al := (touches (.grantAudit a0)).contains) s
  repeat' first
    | with_reducible assumption | with_reducible apply mbxCmd_kept (hal.mono rfl)
    | with_reducible apply grantAudit_kept (hal.mono rfl) | (intro _)

theorem connOpen_touches (a0 : Fin 4) (h : exec (.connOpen a0) s = .next t) : Kept (touches (.connOpen a0)).contains s t := by
  refine .run h ?_ rfl
  have hal : Allow (touches (.connOpen a0)).contains (touches (.connOpen a0)) := fun k hk => List.contains_iff_mem.2 hk
  have h0 := Kept.refl (al := (touches (.connOpen a0)).contains) s
  repeat' first
    | with_reducible assumption | with_reducible apply mbxCmd_kept (hal.mono rfl)
    | with_reducible apply connOpenMbx_kept (hal.mono rfl) | (intro _)

theorem connClose_touches (a0 : Fin 4) (h : exec (.connClose a0) s = .next t) : Kept (touches (.connClose a0)).contains s t := by
  refine .run h ?_ rfl
  have hal : Allow (touches (.connClose a0)).contains (touches (.connClose a0)) := fun k hk => List.contains_iff_mem.2 hk
  have h0 := Kept.refl (al := (touches (.connClose a0)).contains) s
  repeat' first
    | with_reducible assumption | with_reducible apply mbxCmd_kept (hal.mono rfl)
    | with_reducible apply connMbx0_kept (hal.mono rfl) | (intro _)

theorem keyInstall_touches (a0 : Fin 4) (h : exec (.keyInstall a0) s = .next t) : Kept (touches (.keyInstall a0)).contains s t := by
  refine .run h ?_ rfl
  have hal : Allow (touches (.keyInstall a0)).contains (touches (.keyInstall a0)) := fun k hk => List.contains_iff_mem.2 hk
  have h0 := Kept.refl (al := (touches (.keyInstall a0)).contains) s
  repeat' first
    | with_reducible assumption | with_reducible apply mbxCmd_kept (hal.mono rfl)
    | with_reducible apply keyInstallMbx_kept (hal.mono rfl) | (intro _)

theorem keySwitch_touches (a0 : Fin 4) (h : exec (.keySwitch a0) s = .next t) : Kept (touches (.keySwitch a0)).contains s t := by
  refine .run h ?_ rfl
  have hal : Allow (touches (.keySwitch a0)).contains (touches (.keySwitch a0)) := fun k hk => List.contains_iff_mem.2 hk
  have h0 := Kept.refl (al := (touches (.keySwitch a0)).contains) s
  repeat' first
    | with_reducible assumption | with_reducible apply mbxCmd_kept (hal.mono rfl)
    | with_reducible apply connMbx0_kept (hal.mono rfl) | (intro _)

theorem keyRetire_touches (a0 : Fin 4) (h : exec (.keyRetire a0) s = .next t) : Kept (touches (.keyRetire a0)).contains s t := by
  refine .run h ?_ rfl
  have hal : Allow (touches (.keyRetire a0)).contains (touches (.keyRetire a0)) := fun k hk => List.contains_iff_mem.2 hk
  have h0 := Kept.refl (al := (touches (.keyRetire a0)).contains) s
  repeat' first
    | with_reducible assumption | with_reducible apply mbxCmd_kept (hal.mono rfl)
    | with_reducible apply connMbx0_kept (hal.mono rfl) | (intro _)

theorem connQuery_touches (a0 : Fin 4) (h : exec (.connQuery a0) s = .next t) : Kept (touches (.connQuery a0)).contains s t := by
  refine .run h ?_ rfl
  have hal : Allow (touches (.connQuery a0)).contains (touches (.connQuery a0)) := fun k hk => List.contains_iff_mem.2 hk
  have h0 := Kept.refl (al := (touches (.connQuery a0)).contains) s
  repeat' first
    | with_reducible assumption | with_reducible apply mbxCmd_kept (hal.mono rfl)
    | with_reducible apply connMbx0_kept (hal.mono rfl) | (intro _)

theorem rkeyCreate_touches (a0 : Fin 4) (h : exec (.rkeyCreate a0) s = .next t) : Kept (touches (.rkeyCreate a0)).contains s t := by
  refine .run h ?_ rfl
  have hal : Allow (touches (.rkeyCreate a0)).contains (touches (.rkeyCreate a0)) := fun k hk => List.contains_iff_mem.2 hk
  have h0 := Kept.refl (al := (touches (.rkeyCreate a0)).contains) s
  repeat' first
    | with_reducible assumption | with_reducible apply mbxCmd_kept (hal.mono rfl)
    | with_reducible apply rkeyCreateMbx_kept (hal.mono rfl) | (intro _)

theorem rkeyRevoke_touches (a0 : Fin 4) (a1 : Bool) (h : exec (.rkeyRevoke a0 a1) s = .next t) : Kept (touches (.rkeyRevoke a0 a1)).contains s t := by
  refine .run h ?_ rfl
  have hal : Allow (touches (.rkeyRevoke a0 a1)).contains (touches (.rkeyRevoke a0 a1)) := fun k hk => List.contains_iff_mem.2 hk
  have h0 := Kept.refl (al := (touches (.rkeyRevoke a0 a1)).contains) s
  repeat' first
    | with_reducible assumption | with_reducible apply mbxCmd_kept (hal.mono rfl)
    | with_reducible apply rkeyRevokeMbx_kept (hal.mono rfl) | (intro _)

theorem ringSet_touches (a0 : Fin 4) (h : exec (.ringSet a0) s = .next t) : Kept (touches (.ringSet a0)).contains s t := by
  refine .run h ?_ rfl
  have hal : Allow (touches (.ringSet a0)).contains (touches (.ringSet a0)) := fun k hk => List.contains_iff_mem.2 hk
  have h0 := Kept.refl (al := (touches (.ringSet a0)).contains) s
  repeat' first
    | with_reducible assumption | with_reducible apply mbxCmd_kept (hal.mono rfl)
    | with_reducible apply ringSet_kept (hal.mono rfl) | (intro _)

theorem segSet_touches (a0 : Fin 4) (h : exec (.segSet a0) s = .next t) : Kept (touches (.segSet a0)).contains s t := by
  refine .run h ?_ rfl
  have hal : Allow (touches (.segSet a0)).contains (touches (.segSet a0)) := fun k hk => List.contains_iff_mem.2 hk
  have h0 := Kept.refl (al := (touches (.segSet a0)).contains) s
  repeat' first
    | with_reducible assumption | with_reducible apply mbxCmd_kept (hal.mono rfl)
    | with_reducible apply segSet_kept (hal.mono rfl) | (intro _)

theorem setHoldup_touches (a0 : Fin 4) (h : exec (.setHoldup a0) s = .next t) : Kept (touches (.setHoldup a0)).contains s t := by
  refine .run h ?_ rfl
  have hal : Allow (touches (.setHoldup a0)).contains (touches (.setHoldup a0)) := fun k hk => List.contains_iff_mem.2 hk
  have h0 := Kept.refl (al := (touches (.setHoldup a0)).contains) s
  repeat' first
    | with_reducible assumption | with_reducible apply mbxCmd_kept (hal.mono rfl)
    | with_reducible apply setHoldup_kept (hal.mono rfl) | (intro _)

theorem pwrStateMbx_touches (a0 : Fin 4) (h : exec (.pwrStateMbx a0) s = .next t) : Kept (touches (.pwrStateMbx a0)).contains s t := by
  refine .run h ?_ rfl
  have hal : Allow (touches (.pwrStateMbx a0)).contains (touches (.pwrStateMbx a0)) := fun k hk => List.contains_iff_mem.2 hk
  have h0 := Kept.refl (al := (touches (.pwrStateMbx a0)).contains) s
  repeat' first
    | with_reducible assumption | with_reducible apply mbxCmd_kept (hal.mono rfl)
    | with_reducible apply pwrState_kept (hal.mono rfl) | (intro _)

theorem pwrStatus_touches (a0 : Fin 4) (h : exec (.pwrStatus a0) s = .next t) : Kept (touches (.pwrStatus a0)).contains s t := by
  refine .run h ?_ rfl
  have hal : Allow (touches (.pwrStatus a0)).contains (touches (.pwrStatus a0)) := fun k hk => List.contains_iff_mem.2 hk
  have h0 := Kept.refl (al := (touches (.pwrStatus a0)).contains) s
  repeat' first
    | with_reducible assumption | with_reducible apply mbxCmd_kept (hal.mono rfl)
    | with_reducible apply pwrStatus_kept (hal.mono rfl) | (intro _)

theorem regRead_touches (a0 : Fin 4) (a1 : Fin 3) (h : exec (.regRead a0 a1) s = .next t) : Kept (touches (.regRead a0 a1)).contains s t := by
  refine .run h ?_ rfl
  have hal : Allow (touches (.regRead a0 a1)).contains (touches (.regRead a0 a1)) := fun k hk => List.contains_iff_mem.2 hk
  have h0 := Kept.refl (al := (touches (.regRead a0 a1)).contains) s
  repeat' first
    | with_reducible assumption | with_reducible apply mbxCmd_kept (hal.mono rfl)
    | with_reducible apply regReadCmd_kept (hal.mono rfl) | (intro _)

theorem regWrite_touches (a0 : Fin 4) (a1 : RegEnv) (h : exec (.regWrite a0 a1) s = .next t) : Kept (touches (.regWrite a0 a1)).contains s t := by
  refine .run h ?_ rfl
  have hal : Allow (touches (.regWrite a0 a1)).contains (touches (.regWrite a0 a1)) := fun k hk => List.contains_iff_mem.2 hk
  have h0 := Kept.refl (al := (touches (.regWrite a0 a1)).contains) s
  repeat' first
    | with_reducible assumption | with_reducible apply mbxCmd_kept (hal.mono rfl)
    | with_reducible apply regWriteCmd_kept (hal.mono rfl) | (intro _)

theorem eventForce_touches (a0 : Fin 4) (h : exec (.eventForce a0) s = .next t) : Kept (touches (.eventForce a0)).contains s t := by
  refine .run h ?_ rfl
  have hal : Allow (touches (.eventForce a0)).contains (touches (.eventForce a0)) := fun k hk => List.contains_iff_mem.2 hk
  have h0 := Kept.refl (al := (touches (.eventForce a0)).contains) s
  repeat' first
    | with_reducible assumption | with_reducible apply mbxCmd_kept (hal.mono rfl)
    | with_reducible apply eventForce_kept (hal.mono rfl) | (intro _)

theorem journalRead_touches (a0 : Fin 4) (a1 : List (Fin 3)) (h : exec (.journalRead a0 a1) s = .next t) : Kept (touches (.journalRead a0 a1)).contains s t := by
  refine .run h ?_ rfl
  have hal : Allow (touches (.journalRead a0 a1)).contains (touches (.journalRead a0 a1)) := fun k hk => List.contains_iff_mem.2 hk
  have h0 := Kept.refl (al := (touches (.journalRead a0 a1)).contains) s
  repeat' first
    | with_reducible assumption | with_reducible apply mbxCmd_kept (hal.mono rfl)
    | with_reducible apply journalRead_kept (hal.mono rfl) | (intro _)

theorem snapshot_touches (a0 : Fin 4) (h : exec (.snapshot a0) s = .next t) : Kept (touches (.snapshot a0)).contains s t := by
  refine .run h ?_ rfl
  have hal : Allow (touches (.snapshot a0)).contains (touches (.snapshot a0)) := fun k hk => List.contains_iff_mem.2 hk
  have h0 := Kept.refl (al := (touches (.snapshot a0)).contains) s
  repeat' first
    | with_reducible assumption | with_reducible apply mbxCmd_kept (hal.mono rfl)
    | with_reducible apply snapshotCmd_kept (hal.mono rfl) | (intro _)

theorem echo_touches (a0 : Fin 4) (h : exec (.echo a0) s = .next t) : Kept (touches (.echo a0)).contains s t := by
  refine .run h ?_ rfl
  have hal : Allow (touches (.echo a0)).contains (touches (.echo a0)) := fun k hk => List.contains_iff_mem.2 hk
  have h0 := Kept.refl (al := (touches (.echo a0)).contains) s
  repeat' first
    | with_reducible assumption | with_reducible apply mbxDo_kept (hal.mono rfl)
    | with_reducible apply fwOk_kept (hal.mono rfl) | (intro _)

theorem badOpcode_touches (a0 : Fin 4) (h : exec (.badOpcode a0) s = .next t) : Kept (touches (.badOpcode a0)).contains s t :=
    .run h (badOpcode_kept (.of rfl) (.refl s) ..) rfl

theorem twinTimeout_touches (h : exec .twinTimeout s = .next t) : Kept (touches .twinTimeout).contains s t :=
    .run h (twinTimeout_kept (.of rfl) (.refl s) ..) rfl

theorem registerWrite_touches (a0 : BitVec 12) (a1 : BitVec 24) (a2 : Word64) (a3 : RegEnv) (h : exec (.registerWrite a0 a1 a2 a3) s = .next t) :
    Kept (touches (.registerWrite a0 a1 a2 a3)).contains s t := .run h (regWriteAt_kept (.of rfl) (.refl s) ..) rfl

theorem rcRead_touches (a0 : BitVec 24) (h : exec (.rcRead a0) s = .next t) : Kept (touches (.rcRead a0)).contains s t :=
    .run h (rcRead_kept (.of rfl) (.refl s) ..) rfl

theorem sqAck_touches (a0 : Fin 1024) (a1 : Word32) (h : exec (.sqAck a0 a1) s = .next t) :
    Kept (touches (.sqAck a0 a1)).contains s t := .run h (sqAck_kept (.of rfl) (.refl s) ..) rfl

theorem regPortAccess_touches (a0 : Bool) (a1 : BitVec 22) (a2 : Word32) (a3 : RegEnv) (h : exec (.regPortAccess a0 a1 a2 a3) s = .next t) :
    Kept (touches (.regPortAccess a0 a1 a2 a3)).contains s t := .run h (regPort_kept (.of rfl) (.refl s) ..) rfl

theorem commitNow_touches (a0 : BitVec 16) (h : exec (.commitNow a0) s = .next t) :
    Kept (touches (.commitNow a0)).contains s t := .run h (commitNow_kept (.of rfl) (.refl s) ..) rfl

theorem commitSchedule_touches (a0 : BitVec 16) (h : exec (.commitSchedule a0) s = .next t) :
    Kept (touches (.commitSchedule a0)).contains s t := .run h (commitSchedule_kept (.of rfl) (.refl s) ..) rfl

theorem commitCancel_touches (a0 : BitVec 16) (h : exec (.commitCancel a0) s = .next t) :
    Kept (touches (.commitCancel a0)).contains s t := .run h (commitCancel_kept (.of rfl) (.refl s) ..) rfl

theorem commitApplied_touches (h : exec .commitApplied s = .next t) : Kept (touches .commitApplied).contains s t :=
    .run h (commitDue_kept (.of rfl) (.refl s) ..) rfl

theorem topSnapshot_touches (h : exec .topSnapshot s = .next t) : Kept (touches .topSnapshot).contains s t :=
    .run h (snapshot_kept (.of rfl) (.refl s) ..) rfl

theorem cntClr_touches (h : exec .cntClr s = .next t) : Kept (touches .cntClr).contains s t :=
    .run h (cntClear_kept (.of rfl) (.refl s) ..) rfl

theorem beatSync_touches (a0 : Word64) (h : exec (.beatSync a0) s = .next t) : Kept (touches (.beatSync a0)).contains s t :=
    .run h (beatSync_kept (.of rfl) (.refl s) ..) rfl

theorem beatFreerun_touches (h : exec .beatFreerun s = .next t) : Kept (touches .beatFreerun).contains s t :=
    .run h (beatFreerun_kept (.of rfl) (.refl s) ..) rfl

theorem eventSignal_touches (a0 : Fin 1024) (a1 : List Word32) (a2 : EvtOrigin) (a3 : Bool) (h : exec (.eventSignal a0 a1 a2 a3) s = .next t) :
    Kept (touches (.eventSignal a0 a1 a2 a3)).contains s t := .run h (raiseEvt_kept (.of rfl) (.refl s) ..) rfl

theorem faultWindowEnd_touches (a0 : Fin 1024) (h : exec (.faultWindowEnd a0) s = .next t) :
    Kept (touches (.faultWindowEnd a0)).contains s t := .run h (faultWindowEnd_kept (.of rfl) (.refl s) ..) rfl

theorem evtForce_touches (a0 : Fin 1024) (a1 : BitVec 12) (h : exec (.evtForce a0 a1) s = .next t) :
    Kept (touches (.evtForce a0 a1)).contains s t := .run h (evtForce_kept (.of rfl) (.refl s) ..) rfl

theorem levelClr_touches (a0 : Bool) (a1 : Bool) (a2 : Fin 1024) (h : exec (.levelClr a0 a1 a2) s = .next t) :
    Kept (touches (.levelClr a0 a1 a2)).contains s t := .run h (levelClr_kept (.of rfl) (.refl s) ..) rfl

theorem sevClr_touches (h : exec .sevClr s = .next t) : Kept (touches .sevClr).contains s t :=
    .run h (sevClr_kept (.of rfl) (.refl s) ..) rfl

theorem foClr_touches (h : exec .foClr s = .next t) : Kept (touches .foClr).contains s t :=
    .run h (foClr_kept (.of rfl) (.refl s) ..) rfl

theorem fecClr_touches (a0 : Fin 32) (h : exec (.fecClr a0) s = .next t) : Kept (touches (.fecClr a0)).contains s t :=
    .run h (fecClr_kept (.of rfl) (.refl s) ..) rfl

theorem journalRecord_touches (h : exec .journalRecord s = .next t) : Kept (touches .journalRecord).contains s t :=
    .run h (journalRecord_kept (.of rfl) (.refl s) ..) rfl

theorem packetCloseTime_touches (h : exec .packetCloseTime s = .next t) : Kept (touches .packetCloseTime).contains s t :=
    .run h (packetCloseTime_kept (.of rfl) (.refl s) ..) rfl

theorem jrnFlush_touches (h : exec .jrnFlush s = .next t) : Kept (touches .jrnFlush).contains s t :=
    .run h (jrnFlush_kept (.of rfl) (.refl s) ..) rfl

theorem jrnClear_touches (h : exec .jrnClear s = .next t) : Kept (touches .jrnClear).contains s t :=
    .run h (jrnClear_kept (.of rfl) (.refl s) ..) rfl

theorem jrnPop_touches (a0 : Fin 3) (h : exec (.jrnPop a0) s = .next t) : Kept (touches (.jrnPop a0)).contains s t :=
    .run h (jrnPop_kept (.of rfl) (.refl s) ..) rfl

theorem stateCmdActive_touches (h : exec .stateCmdActive s = .next t) : Kept (touches .stateCmdActive).contains s t :=
    .run h (stateCmd_kept (.of rfl) (.refl s) ..) rfl

theorem stateCmdPowerDown_touches (h : exec .stateCmdPowerDown s = .next t) : Kept (touches .stateCmdPowerDown).contains s t :=
    .run h (stateCmd_kept (.of rfl) (.refl s) ..) rfl

theorem stateCmdSelfRefresh_touches (h : exec .stateCmdSelfRefresh s = .next t) :
    Kept (touches .stateCmdSelfRefresh).contains s t := .run h (stateCmd_kept (.of rfl) (.refl s) ..) rfl

theorem stateCmdOffRetention_touches (h : exec .stateCmdOffRetention s = .next t) :
    Kept (touches .stateCmdOffRetention).contains s t := .run h (stateCmd_kept (.of rfl) (.refl s) ..) rfl

theorem cureWaitEnd_touches (a0 : Bool) (h : exec (.cureWaitEnd a0) s = .next t) :
    Kept (touches (.cureWaitEnd a0)).contains s t := .run h (cureWaitEnd_kept (.of rfl) (.refl s) ..) rfl

theorem pfailReturn_touches (h : exec .pfailReturn s = .next t) : Kept (touches .pfailReturn).contains s t :=
    .run h (pfailReturn_kept (.of rfl) (.refl s) ..) rfl

theorem porstAssert_touches (h : exec .porstAssert s = .next t) : Kept (touches .porstAssert).contains s t :=
    .run h (resetAssert_kept (.of rfl) (.refl s) ..) rfl

theorem srstAssert_touches (h : exec .srstAssert s = .next t) : Kept (touches .srstAssert).contains s t :=
    .run h (resetAssert_kept (.of rfl) (.refl s) ..) rfl

theorem resetRelease_touches (a0 : Bool) (h : exec (.resetRelease a0) s = .next t) :
    Kept (touches (.resetRelease a0)).contains s t := .run h (resetRelease_kept (.of rfl) (.refl s) ..) rfl

theorem vkeepFail_touches (h : exec .vkeepFail s = .next t) : Kept (touches .vkeepFail).contains s t :=
    .run h (vkeepFail_kept (.of rfl) (.refl s) ..) rfl

theorem vkeepPowerUp_touches (h : exec .vkeepPowerUp s = .next t) : Kept (touches .vkeepPowerUp).contains s t :=
    .run h (vkeepPowerUp_kept (.of rfl) (.refl s) ..) rfl

theorem corePowerLoss_touches (h : exec .corePowerLoss s = .next t) : Kept (touches .corePowerLoss).contains s t :=
    .run h (corePowerLoss_kept (.of rfl) (.refl s) ..) rfl

theorem fwHalt_touches (a0 : Word32) (h : exec (.fwHalt a0) s = .next t) : Kept (touches (.fwHalt a0)).contains s t :=
    .run h (fwHalt_kept (.of rfl) (.refl s) ..) rfl

theorem bcmdInit_touches (h : exec .bcmdInit s = .next t) : Kept (touches .bcmdInit).contains s t :=
    .run h (bcmdInit_kept (.of rfl) (.refl s) ..) rfl

theorem bcmdRebuild_touches (h : exec .bcmdRebuild s = .next t) : Kept (touches .bcmdRebuild).contains s t :=
    .run h (bcmdRebuild_kept (.of rfl) (.refl s) ..) rfl

theorem bcmdPcInv_touches (h : exec .bcmdPcInv s = .next t) : Kept (touches .bcmdPcInv).contains s t :=
    .run h (bcmdPcInv_kept (.of rfl) (.refl s) ..) rfl

theorem pllLockLoss_touches (a0 : Fin 16) (h : exec (.pllLockLoss a0) s = .next t) :
    Kept (touches (.pllLockLoss a0)).contains s t := .run h (pllLoss_kept (.of rfl) (.refl s) ..) rfl

theorem retrainingWindowEnd_touches (a0 : Fin 16) (h : exec (.retrainingWindowEnd a0) s = .next t) :
    Kept (touches (.retrainingWindowEnd a0)).contains s t := .run h (retrainEnd_kept (.of rfl) (.refl s) ..) rfl

end Sys2Proof.Machine
end

