-- ==== Sys2Proof/WellFormed.lean ====
section
/-!
DEFINITION. Which commands are well formed: the operands that are not bounded by their types lie in the ranges the spec gives
what they stand for.
-/
namespace Sys2Proof

/-- Lines by LMS line number: each within the 48-bit address space, none given twice. -/
def linesOk (ls : List (Nat × LineData)) : Bool :=
  (ls.all fun x => decide (x.1 < 2 ^ 42)) && decide (ls.map Prod.fst).Nodup

/-- Frames of a lender: 28-bit numbers (R100, R350), none given twice. -/
def framesOk (fs : List Nat) : Bool := (fs.all fun f => decide (f < 2 ^ 28)) && decide fs.Nodup

/-- What the world presents with a register access. -/
def envOk (e : RegEnv) : Bool := linesOk e.far && framesOk e.frames

/-- A command is well formed. -/
def Instr.wf : Instr → Bool
  | .nop .. | .rdLine .. | .rdPart .. | .wrLine .. | .wrPart .. | .atomAdd8 .. | .atomCas8 .. | .trim ..
  | .cureFence .. | .prefetch .. | .reservedOpcode .. | .wdBeat .. | .rdBeatTransfer .. | .cmpTransfer ..
  | .ntcTransfer .. | .frpLiveLow .. | .frpLiveHigh .. | .portQuiesceDone .. | .frpCtlWrite .. | .poolSelect ..
  | .lockCeiling .. | .prefetchDrop .. | .waitLong .. | .hwClr .. | .schedIssue .. | .wdrainEval .. | .urgencyTick ..
  | .idleWrite .. | .pageIdleClose .. | .queueEntry .. | .rankPowerDown .. | .channelSrEntry .. | .srWake ..
  | .chHold .. | .chHoldRelease .. | .chHeld .. | .holdExpired .. | .chReleased .. | .devHold .. | .devRelease ..
  | .refreshSlot .. | .catchupRefresh .. | .backstopTick .. | .refBackstop .. => true
  | .tempPoll _ r => decide (r.fails.length ≤ r.xfers) && decide (r.mr4.length ≤ 32)
  | .tempRate .. | .granChanged .. => true
  | .windowStart _ beat len _ => decide (beat < 2 ^ 64) && decide (len < 2 ^ 32)
  | .neighbourRefresh .. | .dstTableClear .. | .rfmIssue .. | .trainCold .. | .trainWarm .. | .trainRetrain .. => true
  | .trainDone _ e => decide (e.lanes.length ≤ 320) && decide (e.vrefs.length ≤ 80)
  | .trainAbort _ _ lanes vrefs => decide (lanes.length ≤ 320) && decide (vrefs.length ≤ 80)
  | .handover .. | .takeback .. | .discard .. | .clrLost .. | .phyAlert .. => true
  | .retrainWindow _ osc sweep _ _ => decide (osc.length ≤ 20) && sweep.all fun r => decide (r.misses ≤ r.bits)
  | .probeDwell .. | .probeDwellEnd .. | .prbAbort .. | .sbTransfer .. | .sbDone .. | .markSlotSet ..
  | .markSlotClear .. | .ceWindowEnd .. | .dramDecode .. | .x8Trial .. | .glueWindowEnd .. | .glueMerge .. => true
  | .raspUnit .. | .scrubSliceDue .. => true
  | .ecsPoll _ r => decide (r.length ≤ 640)
  | .inlayEntryWrite .. | .inlCopy .. => true
  | .rowCopyDone _ errs => errs.all fun e => decide (e.1 < 128)
  | .inlPpr .. | .pprDone .. | .rawRead .. | .rawWrite .. | .sramErr .. | .diagRead .. | .diagWriteZero ..
  | .diagWriteAddr .. | .diagCompare .. | .vnrFillLand .. | .vnrSramErr .. | .cleaner .. | .victimWriteback ..
  | .ropClean .. | .ropCleanInvalidate .. | .ropInvalidate .. | .ropUnpin .. | .ropRefused .. | .ropDone ..
  | .vnrCtlEnWrite .. | .vnrClearingDone .. | .vnrDrainDone .. | .epochAdvance .. | .fenceEpochAdvance ..
  | .mirrorCapture .. | .twinSilent .. | .curAttach .. | .curDegrade .. | .staleSideWrite .. => true
  | .attachPush far => linesOk far
  | .mirrorAttached .. => true
  | .mirrorResend _ far => linesOk far
  | .repairAnswer .. | .fenceCmdFence .. | .chFenced .. | .fenceSweepDone .. | .unfenceStale .. | .unfenceFull .. => true
  | .recastPanel lines => decide (lines.length ≤ 1024)
  | .recastDone .. | .drainStart .. | .drainRecords .. | .drainComplete .. | .epochSet .. | .mirrorLines ..
  | .mirrorMasked .. | .mirrorPoison .. | .mirrorTrim .. | .mirrorMark .. | .mirrorLinesMarked .. | .heatDecay ..
  | .promotion .. | .demotionHandStep .. | .demotion .. | .moveStepDone .. | .moveAbandon .. | .frameRefill .. | .nbrRttProbe .. | .nbrStateChange .. | .lendAccess .. | .lendAlloc ..
  | .lendFree .. | .grantEnable .. | .grantDisable .. | .grantHold .. | .grantReload .. => true
  | .reclaimCmd _ twin frames => linesOk twin && framesOk frames
  | .reclaimDone twin frames => linesOk twin && framesOk frames
  | .frameCmd .. | .moveCmd .. => true
  | .jigGo _ far => linesOk far
  | .jigStepStaged _ far => linesOk far
  | .jigStop .. | .jigStepStart .. | .jigLate .. | .jigUnpinStep .. | .jigDone ..
  | .segLiveChange .. | .segCtlWrite .. => true
  | .txDatagram _ far => linesOk far
  | .rxDatagram _ _ d => decide (d.udpLen < 2 ^ 16) && decide (d.body.length ≤ 4192)
  | .tenonWrite .. | .tenonWriteImm .. | .tenonReadReq .. | .tenonReadResp .. | .tenonAtomAdd8 .. | .tenonAtomCas8 ..
  | .tenonCureWrite .. | .tenonAck .. | .tenonNak .. | .tenonContextNotReady .. | .ackSend .. | .rtoExpiry .. => true
  | .noticePost _ far => linesOk far
  | .ringAWrite .. | .connCmdOpen .. | .connCmdClose .. | .connCmdInstall .. | .connCmdSwitch .. | .connCmdRetire ..
  | .connCmdError .. | .connCmdQuery .. | .connError .. | .ctxLoadDone .. | .ctxEvict .. | .rkeyCmdCreate ..
  | .rkeyCmdRevoke .. | .rkeyCmdQuery .. | .regionRevoked .. | .armDiverge .. | .armTcmErr .. | .imgBlockDone ..
  | .imgFetchTimeout .. | .bootRomStart .. | .armRestart .. | .armUpdate .. | .armReady .. | .mbxRing .. | .mbxAck ..
  | .mbxTake .. | .mbxRespond .. | .identify .. | .getState .. | .setDeviceId .. | .setProfile .. | .imgUpdate ..
  | .svnAdvance .. | .setAccess .. | .imgkeyProgram .. | .imgkeyRevoke .. | .getConfig .. | .setLayout ..
  | .setTiming .. | .setRegion .. | .getRegion .. | .setRanks .. | .setQos .. | .getForecast .. | .setChoreo ..
  | .getHealth .. | .setMark .. | .clearMark .. | .inlayAdd .. | .pprSchedule .. | .setScrub .. | .diagPass ..
  | .rangeOp .. | .vnrEnable .. | .vnrStatus .. | .setDirtyBudget .. | .setTwin .. | .attach .. | .degrade ..
  | .getCure .. | .fence .. | .setCure .. | .blankLineGet .. | .mapRepair .. | .setTier .. | .setNeighbour ..
  | .setGrant .. | .move .. => true
  | .jigStart _ far => linesOk far
  | .jigStatus .. => true
  | .reclaim _ twin frames => linesOk twin && framesOk frames
  | .frameAudit .. | .heldList .. | .grantAudit .. | .connOpen .. | .connClose .. | .keyInstall .. | .keySwitch ..
  | .keyRetire .. | .connQuery .. | .rkeyCreate .. | .rkeyRevoke .. | .ringSet .. | .segSet .. | .setHoldup ..
  | .pwrStateMbx .. | .pwrStatus .. | .regRead .. => true
  | .regWrite _ env => envOk env
  | .eventForce .. => true
  | .journalRead _ bads => decide (bads.length ≤ 15)
  | .snapshot .. | .echo .. | .badOpcode .. | .twinTimeout .. => true
  | .registerWrite _ _ _ env => envOk env
  | .rcRead .. | .sqAck .. => true
  | .regPortAccess _ _ _ env => envOk env
  | .commitNow .. | .commitSchedule .. | .commitCancel .. | .commitApplied .. | .topSnapshot .. | .cntClr ..
  | .beatSync .. | .beatFreerun .. | .eventSignal .. | .faultWindowEnd .. | .evtForce .. | .levelClr .. | .sevClr ..
  | .foClr .. | .fecClr .. | .journalRecord .. | .packetCloseTime .. | .jrnFlush .. | .jrnClear .. | .jrnPop ..
  | .stateCmdActive .. | .stateCmdPowerDown .. | .stateCmdSelfRefresh .. | .stateCmdOffRetention .. | .cureWaitEnd ..
  | .pfailReturn .. | .porstAssert .. | .srstAssert .. | .resetRelease .. | .vkeepFail .. | .vkeepPowerUp ..
  | .corePowerLoss .. | .fwHalt .. | .bcmdInit .. | .bcmdRebuild .. | .bcmdPcInv .. | .pllLockLoss ..
  | .retrainingWindowEnd .. => true

end Sys2Proof
end

