-- ==== Sys2Proof/Tests/Slice0.lean ====
section
/-!
SUPPORT. Tests of the model, and a state for every case the statements speak of.
-/
namespace Sys2Proof.Tests
set_option Elab.async false
open Sys2Proof Sys2Proof.Machine

/-- The block after reset, with a valid Beat. -/
def beatUp : State := { State.reset with beat := { State.reset.beat with valid := true } }

/-- Ready, and reset with one part changed. -/
def readyState : State := setFld State.reset rArmCtl 31 31 1
def withPwr (f : PwrSt → PwrSt) : State := modPwr State.reset f
def withCure (f : CureSt → CureSt) : State := modCure State.reset f

/-- A port that is UP, over a space of 16 MiB whose panels are written. -/
def portUp : State :=
  modPort { setFld State.reset rMapLmsTop 22 0 1 with map := { State.reset.map with
    blank := { fill := false, ex := [] }, summary := { fill := false, ex := [] } } } 0 fun x => { x with mode := .up }
def plainReq : FrpReq :=
  { tag := 5, addr := 64, mask := 0xFF, mid := 3, qos := 1, rt := false, lock := false, lockEnd := false, poison := false }

theorem witness_requests : reqReady portUp 0 = true ∧ (port portUp 0).tags.contains plainReq.tag.val = false ∧
    plainReq.mid.getLsbD 11 = false ∧ inDrain portUp = false ∧ (port portUp 0).wdBuf = [] ∧ flagsBad none plainReq = false ∧
    flagsBad (some .rdLine) plainReq = false ∧ flagsBad (some .wrPart) plainReq = false ∧
    flagsBad (some .trim) plainReq = false ∧ addrBad (requestTaken portUp 0 plainReq) .rdLine 64 = false ∧
    addrBad (requestTaken portUp 0 plainReq) .cas8 64 = false ∧
    addrBad (requestTaken portUp 0 { plainReq with addr := 65536 }) .trim 65536 = false ∧
    servedAtPort (requestTaken portUp 0 plainReq) (mkReq (requestTaken portUp 0 plainReq) 0 .rdPart plainReq) = false := by
  decide

def withPort (f : Port → Port) : State := modPort portUp 0 f
def oneNotice : Notice :=
  { overflow := false, ring := 0, ownerMid := 0, srcDev := 0, index := 0, imm := 0, conn := 0 }

theorem witness_transfers : (port (withPort fun x => { x with creds := 1 }) 0).mode = .up ∧
    (port (withPort fun x => { x with creds := 1 }) 0).creds ≠ 0 ∧ (port portUp 0).wdWait = [] ∧
    (port (withPort fun x => { x with creds := 1, wdWait := [none] }) 0).wdWait = [none] ∧
    (port (withPort fun x => { x with creds := 1, wdWait := [some 7] }) 0).wdWait = [some 7] ∧
    (port (withPort fun x => { x with cmpBuf := [⟨3, .ok⟩] }) 0).cmpBuf = [⟨3, .ok⟩] ∧
    (port (withPort fun x => { x with cmpBuf := [⟨3, .ok⟩] }) 0).rdBuf.any (fun b => b.tag = 3) = false := by decide
theorem witness_rd_beat : (port (withPort fun x => { x with rdBuf := [⟨3, 1, false⟩] }) 0).mode = .up ∧
    (port (withPort fun x => { x with rdBuf := [⟨3, 1, false⟩] }) 0).rdBuf = [⟨3, 1, false⟩] := ⟨rfl, rfl⟩
/-- Ready, port 0 down and enabled, its link about to rise. -/
def portRise : State := setFld readyState (rFrpCtl 0) 0 0 1
theorem witness_rise : (port portRise 0).mode = .down ∧
    isReady (maskNote (modPort portRise 0 fun x => { x with live := true }) 0) = true ∧
    rbit (maskNote (modPort portRise 0 fun x => { x with live := true }) 0) (rFrpCtl 0) 0 = true ∧
    portRise.cure.drain ≠ .complete := by decide +kernel
theorem witness_lines :
    (port (withPort fun x => { x with mode := .quiesce }) 0).mode = .quiesce ∧
    (tagsInside (withPort fun x => { x with mode := .quiesce }) 0).isEmpty = true ∧
    (port (withPort fun x => { x with mode := .quiesce }) 0).live = false ∧
    ({ State.reset with ntc := [oneNotice] } : State).ntc = [oneNotice] := by decide
theorem witness_frp_ctl : ∀ p : Fin 8, (regFind (rFrpCtl p.val).off).any (fun h => !h.high) = true := by decide

/-- A request waiting before the pools. -/
def waiting (op : MemOp) : Req :=
  { rid := 0, src := 0, eng := 0, op := op, addr := 64, mask := 0, data := 0, hasData := true, poison := false, mid := 3, qos := 0
    rt := false, lock := false, lockEnd := false, pool := 0, dest := .drop, kind := .access, since := none }
def withWait (op : MemOp) : State :=
  setFld { portUp with adm := { portUp.adm with wait := [waiting op] } } rAdmWaitAlarm 23 0 1

theorem witness_admission_head : headOf (withWait .prefetch) 0 0 = some (waiting .prefetch) := rfl
theorem witness_admission : eligible (withWait .prefetch) 0 (waiting .prefetch) = true ∧
    0 < fld (withWait .prefetch) rAdmWaitAlarm 23 0 ∧
    (port (withPort fun x => { x with lock := { x.lock with mode := .inLock, held := true } }) 0).lock.held = true := by decide
theorem witness_pool_none : choose (poolPrep State.reset 0 0) 0 (candidates (poolPrep State.reset 0 0) 0) = none := by decide +kernel
theorem witness_pool_some : (choose (poolPrep (withWait .rdLine) 0 0) 0 (candidates (poolPrep (withWait .rdLine) 0 0) 0)).any
    (fun r => decide (ttClassFor (poolChosen (poolPrep (withWait .rdLine) 0 0)
      0 (candidates (poolPrep (withWait .rdLine) 0 0) 0) r) 0 0 = some .shared)) = true := by decide +kernel

/-- Channel 2, which the PHY drives, with its scheduler changed, and the settings that its timed commands ask for. -/
def withSch (f : SchedSt → SchedSt) : State :=
  modKeep (modSch (setFld (setFld (setFld (setFld State.reset (rSchCtl 2) 7 0 1) (rSchPage 2) 1 0 2) (rSchPwr 2) 15 0 1)
    (rSchSridle 2) 19 0 1) 2 f) 2 fun k => { k with owner := false }
def someRead : RdEnt :=
  { arr := 0, coord := ⟨2, 0, 0, 0, 0, 0, 0⟩, das := 0, dest := .scrub 0 false, stamp := 0, who := ⟨17, 0⟩, urg := 0, rt := false
    noProbe := false }

theorem witness_issue : mayIssue (mclkEdge (modPhy State.reset 2 fun p => { p with run := some .cold }) 2) 2 = false ∧
    mayIssue (mclkEdge (withSch id) 2) 2 = true ∧ (chan (mclkEdge (withSch id) 2) 2).sch.sr = .active ∧
    (exitPowerDown (mclkEdge (withSch id) 2) 2).1 = false := by decide +kernel
theorem witness_issue_wakes : (let s := modRank (withSch fun q => { q with rq := [someRead] }) 2 0 fun r => { r with pwr := .powerDown }
    mayIssue (mclkEdge s 2) 2 = true ∧ (chan (mclkEdge s 2) 2).sch.sr = .active ∧ (exitPowerDown (mclkEdge s 2) 2).1 = true) := by
  decide +kernel
theorem witness_issue_sr : (let s := withSch fun q => { q with sr := .entry }
    mayIssue (mclkEdge s 2) 2 = true ∧ (chan (mclkEdge s 2) 2).sch.sr = .entry ∧ hasRequest (chan (mclkEdge s 2) 2).sch = false) ∧
    (let s := withSch fun q => { q with sr := .entry, rq := [someRead] }
    mayIssue (mclkEdge s 2) 2 = true ∧ (chan (mclkEdge s 2) 2).sch.sr = .entry ∧ hasRequest (chan (mclkEdge s 2) 2).sch = true) ∧
    (let s := withSch fun q => { q with sr := .selfRefresh, rq := [someRead] }
    mayIssue (mclkEdge s 2) 2 = true ∧ (chan (mclkEdge s 2) 2).sch.sr = .selfRefresh ∧ hasRequest (chan s 2).sch = true ∧
      hasRequest (chan (mclkEdge s 2) 2).sch = true) := by decide +kernel
theorem witness_scheduler : (let s := withSch fun q => { q with hold := .holding }; let q := (chan s 2).sch;
      wstateNext q.wstate q.wq.length (fld s (rSchWdrain 2) 22 16) (fld s (rSchWdrain 2) 6 0) (decide (q.hold = .holding))
        (inDrain s) (q.wq.isEmpty && q.glue.isEmpty) (decide (q.hold = .run)) ≠ q.wstate) ∧
    (chan (withSch id) 2).sch.wstate = .read ∧ 0 < fld (withSch id) (rSchCtl 2) 7 0 ∧ readQueued (withSch id) 2 0 = false ∧
    (enterOne (withSch fun q => { q with arrive := [⟨none, .inl someRead, false⟩] }) 2 ⟨none, .inl someRead, false⟩).isSome = true ∧
    pdEnabled (withSch id) 2 = true ∧ (rankAt (withSch id) 2 0).pwr = .active ∧
    schedUp (withSch id) 2 = true ∧ rankWanted (chan (withSch id) 2).sch 0 = false ∧ rankBusy (withSch id) 2 0 = false ∧
    rankBusy (modRef (withSch id) 2 fun r => { r with busy := [(0, 1000)] }) 2 0 = true ∧
    (chan (withSch id) 2).phy.window = none ∧ (chan (withSch id) 2).sch.sr = .active ∧ hasRequest (chan (withSch id) 2).sch = false ∧
    rankOk (withSch id) 0 = true ∧ srEnabled (withSch id) 2 = true ∧ (chan (withSch id) 2).sch.hold = .run := by decide
theorem witness_page : let b : BankId := { sub := 1, rank := 0, bg := 3, ba := 2 }
    let k : Coord := ⟨2, 1, 0, 3, 2, 0, 0⟩
    let s := withSch fun q => { q with banks := smSet BankSt.idle [] (bankKey k) { BankSt.idle with row := some 9 } }
    k = ⟨2, b.sub.val, b.rank.val, b.bg.val, b.ba.val, 0, 0⟩ ∧ (bankAt s 2 (bankKey k)).row = some 9 ∧
      fld s (rSchPage 2) 1 0 = 2 ∧ mayIssue s 2 = true ∧ bankFree s 2 k (nowCk s 2) = true ∧ earliestPre s 2 (bankKey k) ≤ nowCk s 2 + 3 ∧ rowDone (chan s 2).sch { k with row := 9 } = true := by decide

theorem witness_hold : (chan State.reset 2).sch.hold = .run ∧ devHolding State.reset = false ∧ State.reset.pwr.pfail = false ∧
    (let s := withPwr fun x => { x with pfail := true };
      (chan s 2).sch.hold = .run ∧ devHolding s = false ∧ s.pwr.pfail = true) ∧
    (let s := withSch fun q => { q with hold := .holding };
      (chan s 2).sch.hold = .holding ∧ devHolding s = false ∧ (chan s 2).sch.devNext = false ∧ (chan s 2).sch.inDev = false ∧
        drained s 2 = true) ∧
    (let s := withSch fun q => { q with hold := .held };
      (chan s 2).sch.hold = .held ∧ devHolding s = false ∧ (schRelease s 2 none).2 = false) ∧
    (let s := withSch fun q => { q with hold := .held, inDev := true };
      (chan s 2).sch.hold = .held ∧ (chan s 2).sch.inDev = true) ∧
    (let s := withSch fun q => { q with hold := .releasing };
      (chan s 2).sch.hold = .releasing ∧ (chan s 2).sch.devNext = false) ∧
    (let s := withSch fun q => { q with hold := .releasing, devNext := true };
      (chan s 2).sch.hold = .releasing ∧ (chan s 2).sch.devNext = true) ∧
    devState (withSch fun q => { q with hold := .holding, inDev := true }) = 1 ∧
    devState (forEach allChans State.reset fun s c => modSch s c fun q => { q with hold := .held, inDev := true }) = 2 := by
  decide +kernel

def withRef (f : RefSt → RefSt) : State := modRef beatUp 2 f
def tgt0 : RefTgt := { rank := 0, bank := 0 }
def coolPoll : PollRead := { mr4 := [.x1], temps := [40], xfers := 2, fails := [] }
def row0 : NbrRow := { sub := 0, rank := 0, bg := 0, ba := 0, row := 5 }

/-- Beat 0, refresh running. -/
def refUp : State := modKeep { beatUp with sbus := beatUp.sbus.set 0 { beatUp.sbus[0] with on := true } } 2 fun k => { k with owner := false }
/-- A neighbour refresh that waits on a channel the PHY drives. -/
def withNbr : State := modRef (modKeep State.reset 2 fun k => { k with owner := false }) 2 fun r => { r with nbrQ := [row0] }
theorem witness_refresh_slot : slotDue (firstSlot refUp 2) 2 0 = true := by decide +kernel
theorem witness_refresh : refUp.sbus[busOf 2].on = true ∧
    0 < smGet 0 (chan (withRef fun r => { r with owed := smSet 0 [] (tgtKey beatUp 2 tgt0) 1 }) 2).ref.owed (tgtKey beatUp 2 tgt0) ∧
    rtQueued beatUp 2 0 = false ∧ windowOn beatUp 2 = false ∧
    tgtKey beatUp 2 tgt0 ∈ (chan (withRef fun r => { r with backstop := [tgtKey beatUp 2 tgt0] }) 2).ref.backstop ∧
    coolPoll.fails = [] ∧ (chan (withRef fun r => { r with mNext := some 2 }) 2).ref.mNext = some 2 ∧
    (chan (withRef fun r => { r with granNext := some 1 }) 2).ref.granNext = some 1 ∧
    (chan (withRef fun r => { r with granNext := some 1 }) 2).ref.owed = [] ∧
    ((chan (withNbr) 2).ref.nbrQ.find? fun x => mitigates withNbr 2 ⟨2, x.sub, x.rank, x.bg, x.ba, x.row, 0⟩ &&
      !raaFull withNbr 2 (bankKey ⟨2, x.sub, x.rank, x.bg, x.ba, x.row, 0⟩)) = some row0 := by decide +kernel
theorem witness_window : refQ State.reset 2 < 4000000 + quietLen State.reset 2 ∧ (let s := setReg State.reset (rRefTrfc 2) 0
      8 + quietLen s 2 ≤ refQ s 2 ∧ (chan s 2).ref.nextRetrain ≠ some ⟨0, 8⟩ ∧ windowAt s 2 0 8 = 0 ∧ windowAt s 2 2000 8 ≠ 2000) := by
  decide +kernel
theorem witness_rfm : (let s := modRef (modKeep State.reset 2 fun k => { k with owner := false }) 2 fun r => { r with rfmDue := [0], rfmReq := true }
    let r := (chan s 2).ref
    (decide (0 ∈ r.rfmDue) || r.rfmReq && decide (r.raaimt ≤ smGet 0 r.raa 0)) = true ∧ r.rfmReq = true ∧
    bankKey ⟨2, 0, 0, 0, 0, 0, 0⟩ = 0 ∧ mitigates s 2 ⟨2, 0, 0, 0, 0, 0, 0⟩ = true) := by decide +kernel

def withPhy (f : PhySt → PhySt) : State := modPhy State.reset 2 f
def sbXfer (n : Nat) : SbXfer := { write := false, slot := false, lid := 0, len := 1, addr := 0, tries := n }

theorem witness_training : trainAccepted State.reset 2 = true ∧ (chan State.reset 2).keep.retained = false ∧
    trainAccepted (modKeep State.reset 2 fun k => { k with retained := true }) 2 = true ∧
    (chan (trainOpen (modKeep State.reset 2 fun k => { k with retained := true }) 2) 2).keep.retained = true ∧
    (chan State.reset 2).keep.owner = true ∧ (chan (modKeep State.reset 2 fun k => { k with owner := false }) 2).keep.owner = false ∧
    (chan (withPhy fun p => { p with run := some .cold }) 2).phy.run = some .cold ∧
    (chan (withPhy fun p => { p with run := some .retrain }) 2).phy.run = some .retrain ∧
    (chan State.reset 2).sch.hold ≠ .held := by decide
theorem witness_pins : allSr (withSch fun q => { q with sr := .selfRefresh }) 2 = true ∧
    (chan (withSch fun q => { q with sr := .selfRefresh }) 2).keep.owner = false ∧
    (chan (withPhy fun p => { p with pllLock := true }) 2).phy.pllLock = true ∧
    devHeld (forEach allChans State.reset fun s c => modSch s c fun q => { q with hold := .held, inDev := true }) = true ∧
    rbit (setFld State.reset (rPhyRtCfg 2) 31 31 1) (rPhyRtCfg 2) 31 = true ∧
    (chan (withPhy fun p => { p with window := some 0 }) 2).phy.window.isSome = true := by decide
/-- Channel 2 in RUN with a valid Beat, its PHY changed, and with a refresh grid that leaves room for windows. -/
def probeOk (f : PhySt → PhySt) : State := 
  modPhy (modRef (setReg beatUp (rRefTrfc 2) 0) 2 fun r => { r with m := 1, gran := 0 }) 2 f
theorem witness_probe : (probeOk id).beat.valid = true ∧ probeRun (probeOk id) 2 = true ∧ (chan (probeOk id) 2).phy.dwelling = false ∧
    (tgtFrom (setReg (probeOk id) (rPrbCfg 2) 0xFFFFFFFF) 2 (tgtIdx (chan State.reset 2).phy.target)).isSome = true ∧
    (chan (probeOk id) 2).phy.dwell = 0 ∧
    tgtOk (setReg (probeOk fun p => { p with dwell := 1 }) (rPrbCfg 2) 0xFFFFFFFF) 2 (chan State.reset 2).phy.target = true ∧
    (windowCheck (probeOk id) 2 (4 * fld (probeOk id) (rPrbCfg 2) 18 10) none true).1 = true ∧
    (windowCheck (probeOk id) 2 (4 * fld (probeOk id) (rPrbCfg 2) 18 10) (some ⟨5, 5⟩) true).1 = false ∧
    (chan (withPhy fun p => { p with dwelling := true }) 2).phy.dwelling = true ∧
    0 + 1 < fld (cntInc State.reset (rPrbDwellCnt 2)) (rPrbCfg 2) 30 27 ∧
    fld (cntInc (setReg State.reset (rPrbCfg 2) 0) (rPrbDwellCnt 2)) (rPrbCfg 2) 30 27 ≤ 0 + 1 := by decide +kernel
theorem witness_retrain_window : (let s := setFld (probeOk id) (rPhyRtCfg 2) 31 31 1
    s.beat.valid = true ∧ rbit s (rPhyRtCfg 2) 31 = true ∧ (chan s 2).sch.sr = .active ∧ windowOn s 2 = false ∧
    (windowCheck s 2 (4 * fld s (rPhyRtCfg 2) 9 0) none false).1 = true ∧
    (windowCheck s 2 (4 * fld s (rPhyRtCfg 2) 9 0) (some ⟨5, 5⟩) false).1 = false) := by decide +kernel
theorem witness_sideband : (∀ c : Fin 16, (regFind (rSbiCmd c.val).off).any (fun h => !h.high) = true) ∧
    (chan (withPhy fun p => { p with sb := some (sbXfer 0) }) 2).phy.sb = some (sbXfer 0) ∧
    ({ State.reset with sbus := State.reset.sbus.set 0 { State.reset.sbus[0] with cur := some 2 } } : State).sbus[busOf 2].cur = some 2 ∧ (sbXfer 0).tries < 3 ∧
    3 ≤ (sbXfer 3).tries := by decide

def withCode (f : CodeSt → CodeSt) : State := modCode (setFld beatUp (rScrCfg 2) 0 0 1) 2 f
def trial0 : TrialReq := { rank := 0, sub := 0, bg := 0, ba := 0 }

theorem witness_marks : (3 : Fin 16).val < (if isX8 State.reset 2 then 5 else 10) ∧ (marksAt State.reset 2 0).m0 = none ∧
    (marksAt State.reset 2 0).m1 = none ∧ (chan (withSch fun q => { q with hold := .held }) 2).sch.hold = .held ∧
    beatUp.beat.valid = true ∧ rbit (withCode id) (rScrCfg 2) 0 = true ∧ (chan (withCode id) 2).code.owed < 64 ∧
    64 ≤ (chan (withCode fun x => { x with owed := 64 }) 2).code.owed := by decide
theorem witness_trial : (chan (withCode fun x => { x with trials := [trial0] }) 2).code.trials = [trial0] ∧
    trialSoon beatUp 2 0 = false ∧
    trialSoon (withCode fun x => { x with lastTrial := smSet none [] 0 (some 0) }) 2 0 = true := by decide
/-- A read in flight whose stored line is `raw`, sent with or without a probe. -/
def withFlight (probe : Option Nat) : State := withSch fun q => { q with flight := [⟨someRead, probe, encodeLine 0 false, false⟩] }
theorem witness_decode : readyFlight (withFlight none) 2 = some ⟨someRead, none, encodeLine 0 false, false⟩ := rfl
theorem witness_decode_probe : readyFlight (withFlight (some 3)) 2 = some ⟨someRead, some 3, encodeLine 0 false, false⟩ := rfl
/-- A merge whose read is in flight, for a write of some bytes of a line or of all of them. -/
def glue0 (mask : LineMask) : GlueEnt :=
  { gid := 4, arr := 0, coord := someRead.coord, das := 0, lms := 0, data := 0, mask := mask, poison := false, full := false
    closed := true, issued := true, byRead := false, repair := false, stamp := 0, who := ⟨0, 0⟩, rt := false }
def mergeRead : Flight := ⟨{ someRead with dest := .merge 4 }, none, encodeLine 0 false, false⟩
def withMerge (mask : LineMask) : State := withSch fun q => { q with glue := [glue0 mask], flight := [mergeRead] }
theorem witness_merge_flight : (chan (withMerge 1) 2).sch.flight.find? (fun f => f.ent.dest = .merge 4 && !f.again) = some mergeRead := rfl
theorem witness_merge_entry (mask : LineMask) :
    (chan (withMerge mask) 2).sch.glue.find? (fun g => g.gid = 4) = some (glue0 mask) := rfl
theorem witness_merge : (chan (withMerge 1) 2).sch.wq.length < 96 ∧ logHolds (withMerge 1) 2 (glue0 1).coord = false ∧ mergeCopy (withMerge 1) 0 = none ∧
    vnrLooks (withMerge 1) = false ∧ halfFull (glue0 1).mask 0 = false ∧ halfFull (glue0 (BitVec.allOnes 64)).mask 0 = true ∧
    halfFull (glue0 (BitVec.allOnes 64)).mask 1 = true := by decide
def withBcmd (b : Option BcmdRun) : State :=
  { setFld State.reset rMapLmsTop 22 0 1024 with map := { State.reset.map with bcmd := b, das := 1024 } }
def withFill : State := { State.reset with map := { State.reset.map with fill := [⟨0, BitVec.allOnes 1024 - 1⟩] } }
theorem witness_units : inDrain State.reset = false ∧ raspBusy State.reset 1 = false ∧
    (withBcmd (some .init)).map.bcmd = some .init ∧ (withBcmd (some .init)).map.bprog < bmapLines (withBcmd (some .init)) ∧
    State.reset.map.bcmd = none ∧ recastReady State.reset = false ∧ State.reset.map.fill = [] ∧ scrubChan State.reset = none ∧
    scrubChan (withCode fun x => { x with owed := 1 }) = some 2 ∧
    (let s := setReg (withCode fun x => { x with diag := some ⟨0, 0, false⟩ }) (rScrDiagEnd 2) 0xFFFF
     allChans.find? (fun c => (diagWork s c).isSome) = some 2) := by decide +kernel

/-- An Inlay entry to write, with or without the copy of its row; a DAS of one panel, of any geometry. -/
def inl0 (copy : Bool) : Word64 := packFields [(63, 1), (62, flag copy)]
def withDas (f : CodeSt → CodeSt) : State :=
  modCode (modPhy { setFld State.reset rMapGeom 31 0 0x0FFFFFFF with map := { State.reset.map with das := 1, excl := 1 } } 2
    fun p => { p with train := .trained }) 2 f
def withReady (f : CodeSt → CodeSt) : State := modCode readyState 2 f
def copy0 : RowCopy := { sub := 0, rank := 0, bg := 0, ba := 0, src := 0, dst := 1, entry := some 3 }
def ppr0 : PprRun := { hard := false, sub := 0, rank := 0, bg := 0, ba := 0, row := 0 }

theorem witness_inlay : (smGet InlEnt.none (chan (withDas id) 2).code.inl 3).valid = false ∧ (inlOf (inl0 false)).valid = true ∧
    (inlOf (inl0 false)).copy = false ∧ (inlOf (inl0 true)).copy = true ∧
    inlReason (withDas id) 2 3 (inlOf (inl0 false)) = none ∧ inlReason (withDas id) 2 3 (inlOf (inl0 true)) = none := by decide
theorem witness_repair : copyBusy (setReg State.reset (rInlCopy 2) 0) 2 = false ∧ offService State.reset 2 = true ∧
    (chan (withDas fun x => { x with copy := some copy0 }) 2).code.copy = some copy0 ∧
    (chan (withReady fun x => { x with ppr := some ppr0 }) 2).code.ppr = some ppr0 ∧ isReady (withReady id) = true ∧
    (chan State.reset 2).code.diag = none ∧ isReady (setFld State.reset (rScrDiagCmd 2) 3 2 1) = false ∧
    rbit (setFld State.reset (rScrDiagCmd 2) 3 2 1) (rCodeCfg 2) 31 = false := by decide
theorem witness_raw : ∃ c : Fin 16, (chan (withDas id) c).code.raw = none ∧ (∀ n : Fin 2,
    rawRefused (setFld (withDas id) (rCodeRawCmd c.val) 1 1 n.val) c
      (fld (setFld (withDas id) (rCodeRawCmd c.val) 1 1 n.val) (rCodeRawAddr c.val) 47 6 * 64) = false) := by decide

def withVnr (f : VnrSt → VnrSt) : State := { State.reset with vnr := f State.reset.vnr }
def withSlice (f : VSlice → VSlice) : State := modSlice (withVnr fun v => { v with mode := .enabled }) 3 f
def miss0 : MissEnt := { line := 0, das := none, waits := [], snap := false, data := some (0, false), repair := false, how := .byAttr }
def vict0 : VictEnt := { line := 0, das := 0, raw := 0 }
def rop0 (drain : Bool) : RopRun := { op := .clean, lo := 0, hi := 4, bySet := false, drain := drain, abort := false, left := [] }
/-- A range to work on, with the Veneer in a state. -/
def withRange (mode : VnrMode) : State := setFld (withVnr fun v => { v with mode := mode }) rVnrRopEnd 47 6 4

theorem witness_fill : (withSlice fun x => { x with miss := [miss0] }).vnr.slices[(3 : Fin 16)].miss.find? (fun m => m.data.isSome) =
    some miss0 := rfl
theorem witness_victim : nextVictim (withSlice fun x => { x with vict := [vict0] }) 3 = some vict0 := by decide +kernel
theorem witness_veneer : vnrLooks (withSlice id) = true ∧ (withSlice id).vnr.slices[(3 : Fin 16)].vict.length + 0 ≤ 32 ∧
    (getSet (withSlice id) 3 0).countP (fun w => match w with | .line l => l.dirty | _ => false) = 0 ∧
    (enterWrite (withSlice fun x => { x with vict := [vict0] }) 0 ⟨0, posOf (withSlice id) 0, 0, 0, false, false⟩).isSome = true ∧
    Machine.ropRefused (setFld (withRange .enabled) rVnrRopCmd 2 0 1) (some .clean) = false ∧
    Machine.ropRefused (setFld (withRange .enabled) rVnrRopCmd 2 0 3) (some .inv) = false := by decide
theorem witness_veneer_states : (withVnr fun v => { v with rop := some (rop0 false) }).vnr.rop = some (rop0 false) ∧
    ropPending (withVnr fun v => { v with rop := some (rop0 false) }) (rop0 false) = false ∧
    (withVnr fun v => { v with rop := some (rop0 false) }).vnr.mode ≠ .draining ∧
    ropPending (withVnr fun v => { v with mode := .draining, rop := some (rop0 true) }) (rop0 true) = false ∧
    (withRange .disabled).vnr.mode = .disabled ∧ (withRange .draining).vnr.mode = .draining ∧
    (withRange .clearing).vnr.mode = .clearing := by decide

/-- A state with the mirror in a state, and every outbound mirror connection OPEN. -/
def mirState (m : MState) (f : CureSt → CureSt) : State :=
  { withCure (fun x => f { x with mstate := m }) with
    conns := (List.range 8).foldl (fun t k => smSet Conn.none t (8 + k) { Conn.none with mode := .opened }) State.reset.conns }
def mirTt (m : MirWhat) : TtEntry :=
  { req := waiting .wrLine, cls := .shared, epoch := some 5, mode := .sync, stage := .left, stamp := 0, das := some 64,
    cmp := none, capt := false, mir := some m, parts := 0, held := none, full := none }
def withTt (t : TtEntry) : State := { mirState .mirrored id with tt := [t] }
def someRepair (w : RepWho) : Repair := { num := 1, lms := 64, das := 64, who := w, ans := some .failed }

theorem witness_epochs : epochFull State.reset = false ∧ epochFull beatUp = false ∧ beatUp.beat.valid = true ∧ isReady State.reset = false ∧ State.reset.cure.mstate = .detached ∧
    State.reset.cure.staleSide = false ∧ State.reset.cure.mstate ≠ .degraded ∧ noFence State.reset = true ∧
    fenceOnE (withPort fun x => { x with fences := [{ tag := 3, waits := [], eps := [], epoch := some 1, mirEp := none }] }) = true ∧
    epochFull (withPort fun x => { x with fences := [{ tag := 3, waits := [], eps := [], epoch := some 1, mirEp := none }] }) = false := by decide
theorem witness_silent : (mirState .mirrored fun x => { x with markOut := x.markOut.set 2 (some 1) }).cure.mstate = .mirrored ∧
    ((mirState .mirrored fun x => { x with markOut := x.markOut.set 2 (some 1) }).cure.markOut[2]).isSome = true ∧
    (mirState .mirrored fun x => { x with markOut := x.markOut.set 2 (some 1) }).cure.markAt[2] ≠ some State.reset.beat.fclk := by decide
def pushing : State := { mirState .attaching (fun x => { x with staleSide := true }) with
  map := { State.reset.map with stale := { fill := false, ex := [(3, true)] } } }
theorem witness_push : pushing.cure.mstate = .attaching ∧ pushing.cure.staleSide = true ∧ pushing.cure.pushWait = none ∧
    allOutOpen pushing = true ∧ nextStale pushing pushing.cure.pushPos = some 3 ∧ panelMoving pushing 3 = false := by decide
theorem witness_push_reads : panelMay pushing 3 = true := by decide +kernel
theorem witness_resend : ((mirState .mirrored fun x => { x with resend := 4 }).cure.pend.map Prod.fst).all (panelMay (mirState .mirrored fun x => { x with resend := 4 })) = true ∧
    (mirState .mirrored fun x => { x with resend := 4 }).cure.resend.getLsbD 2 = true ∧
    outOpen (mirState .mirrored fun x => { x with resend := 4 }) 2 = true ∧
    mirrorOn (mirState .mirrored fun x => { x with resend := 4 }) = true := by decide
theorem witness_capture : ((withTt (mirTt .poison)).tt.filter fun t => !t.capt && capReady (withTt (mirTt .poison)) t).find?
    (fun t => capRoom (withTt (mirTt .poison)) t) = some (mirTt .poison) := by decide +kernel
theorem witness_attached : (mirState .attaching fun x => { x with staleSide := true }).cure.pushWait = none ∧
    nextStale (mirState .attaching fun x => { x with staleSide := true }) 0 = none ∧
    (mirState .attaching fun x => { x with attachAck := 255 }).cure.attachAck = BitVec.allOnes 8 := by decide
theorem witness_repairs : (∀ w, (withCure fun x => { x with repairs := [someRepair w] }).cure.repairs.find?
    (fun r => r.ans.isSome) = some (someRepair w)) ∧
    (chan (withCure fun x => { x with repairs := [someRepair (.merge 2 0)] }) 2).sch.wq.length < 96 := ⟨fun _ => rfl, by decide⟩

def fenced2 (m : MState) (f : CureSt → CureSt) : State :=
  modPhy (mirState m fun x => f { x with fence := x.fence.set 2 .fenced }) 2 fun p => { p with train := .trained }
def recasting (p : Nat) : State := { mirState .mirrored (fun x => { x with recast := some ⟨2, p, false, none⟩ }) with
  map := { State.reset.map with stale := { fill := false, ex := [(3, true)] } } }

theorem witness_fence : State.reset.cure.fence[(2 : Fin 16)] = .inService ∧
    ({ State.reset.evt with trigs := [⟨2, 1, 5⟩] } : EvtSt).trigs.find? (fun t => t.chan = (2 : Fin 16)) = some ⟨2, 1, 5⟩ ∧
    2 < chanCount State.reset ∧
    (withCure fun x => { x with sweep := x.sweep.set 2 true }).cure.sweep[(2 : Fin 16)] = true := by decide
theorem witness_unfence : (∀ m, inDrain (fenced2 m id) = false ∧ (fenced2 m id).cure.fence[(2 : Fin 16)] = .fenced ∧
    (fenced2 m id).cure.sweep[(2 : Fin 16)] = false ∧ (chan (fenced2 m id) 2).phy.train = .trained ∧
    (fenced2 m id).cure.mstate = m ∧ (fenced2 m id).cure.recast = none) ∧
    (fenced2 .detached fun x => { x with staleSide := true }).cure.staleSide = true := ⟨fun m => by cases m <;> decide, by decide⟩
theorem witness_recast : allOutOpen (recasting 4) = true ∧ recastNext (recasting 3) 3 = some 3 ∧ panelMoving (recasting 3) 3 = false ∧
    recastNext (recasting 4) 4 = none ∧ (chan (recasting 4) 2).sch.hold = .run ∧ inDrain (recasting 4) = false := by decide

/-- A state with a segment at the front of engine 0, on connection 0 of a kind, and region key 0 in the engine's cache. -/
def segOn (kind : ConnKind) (g : Seg) : State :=
  { setFld portUp rCurCfg 1 0 3 with
    conns := smSet Conn.none portUp.conns 0 { Conn.none with mode := .opened, kind := kind }
    ten := { portUp.ten with engines := portUp.ten.engines.set 0 { Engine.idle with
      exec := [(0, g)]
      rkeys := [⟨0, false, { mode := .valid, perm := 15, ring := 0, gen := 0, peer := 0, base := 0, size := 4096 }⟩] } } }
/-- A request segment without flags. -/
def segOf (op : BitVec 8) (rkey : Word32) (off : BitVec 48) (len : BitVec 16) (data : List Byte) : Seg :=
  { hdr := { version := 1, typ := 1, try_ := 0, solicit := false, zero := 0, dstConn := 0, psn := 0, opcode := op, ackPsn := 0,
             keyGen := 0, rkey := rkey, offset := off, length := len, imm := 0, srcDev := 0 }, data := data, wrap := 0, dup := false }
def mirSeg (kind : Nat) : Seg :=
  segOf 1 (BitVec.ofNat 32 (kind * 2 ^ 28)) 0 (match kind with | 1 => 64 | 2 => 72 | 6 => 8 | _ => 0) (1 :: List.replicate 71 0)

theorem segAccepted_mirror (s : State) (e : Fin 8) (row : TenRow) (wr : Bool) (len : Seg → Nat) (c : Nat) (g : Seg)
    (hk : (connOf (tenTurn s e) c).kind = .mirror) (hf : frontSeg (tenTurn s e) e = some (c, g, row))
    (hj : jobsFull (tenTurn s e) e = false) (hr : row ≠ .readReq)
    (hm : (mirrorOk (tenTurn s e) g.hdr wr (len g)).1 = true)
    (hl : g.hdr.offset.toNat + len g ≤ lmsTop (popSeg (mirrorOk (tenTurn s e) g.hdr wr (len g)).2 e)) :
    SegAccepted s e row wr len c g none (popSeg (mirrorOk (tenTurn s e) g.hdr wr (len g)).2 e) := by
  refine ⟨hf, hj, hl, ?_⟩
  rw [hk]
  exact ⟨fun x => absurd x hr, hm, rfl, rfl⟩
theorem witness_mirror_lines : ∃ k u, SegAccepted (segOn .mirror (mirSeg 1)) 0 (.mirror 1) true segLen 0 (mirSeg 1) k u :=
  ⟨_, _, segAccepted_mirror _ _ _ _ _ _ _ (by decide +kernel) (by decide +kernel) (by decide +kernel) (by decide) (by decide +kernel) (by decide +kernel)⟩
theorem witness_mirror_masked : ∃ k u, SegAccepted (segOn .mirror (mirSeg 2)) 0 (.mirror 2) true (fun _ => 64) 0 (mirSeg 2) k u :=
  ⟨_, _, segAccepted_mirror _ _ _ _ _ _ _ (by decide +kernel) (by decide +kernel) (by decide +kernel) (by decide) (by decide +kernel) (by decide +kernel)⟩
theorem witness_mirror_poison : ∃ k u, SegAccepted (segOn .mirror (mirSeg 3)) 0 (.mirror 3) true (fun _ => 64) 0 (mirSeg 3) k u :=
  ⟨_, _, segAccepted_mirror _ _ _ _ _ _ _ (by decide +kernel) (by decide +kernel) (by decide +kernel) (by decide) (by decide +kernel) (by decide +kernel)⟩
theorem witness_mirror_trim : ∃ k u, SegAccepted (segOn .mirror (mirSeg 4)) 0 (.mirror 4) true (fun _ => 65536) 0 (mirSeg 4) k u :=
  ⟨_, _, segAccepted_mirror _ _ _ _ _ _ _ (by decide +kernel) (by decide +kernel) (by decide +kernel) (by decide) (by decide +kernel) (by decide +kernel)⟩
theorem witness_mirror_mark : ∃ k u, SegAccepted (segOn .mirror (mirSeg 5)) 0 (.mirror 5) false (fun _ => 0) 0 (mirSeg 5) k u :=
  ⟨_, _, segAccepted_mirror _ _ _ _ _ _ _ (by decide +kernel) (by decide +kernel) (by decide +kernel) (by decide) (by decide +kernel) (by decide +kernel)⟩
theorem witness_mirror_marked : ∃ k u,
    SegAccepted (segOn .mirror (mirSeg 6)) 0 (.mirror 6) true (fun g => 64 * markedLines g) 0 (mirSeg 6) k u :=
  ⟨_, _, segAccepted_mirror _ _ _ _ _ _ _ (by decide +kernel) (by decide +kernel) (by decide +kernel) (by decide) (by decide +kernel) (by decide +kernel)⟩

/-- Tiered mode over 256 panels, with panel 3 in a placement state, a local frame count of 256 and neighbour 0 in a state. -/
def tierOn (st : Nat) (n : NbrMode) (f : TierSt → TierSt) : State :=
  let s := setFld (setFld (setFld (setFld portUp rMapCfg 0 0 1) rMapRsvBase 20 0 1) (rTirNbr 0) 63 63 1) rTirFrameFloor 27 0 16
  modTier { s with map := { s.map with pmap := fmSet s.map.pmap 3 (pePut 0 st 0 7) } } fun t =>
    f { t with nbrs := t.nbrs.set 0 { t.nbrs[0] with mode := n } }
def someMove (up : Bool) (st : MoveStage) : MoveRec :=
  { num := 1, left := [], panel := 3, up := up, who := .policy, eng := 1, stage := st, pick := none, tried := [], acks := [], lframe := 9, nbr := 0,
    rframe := 7, defer := none }
def moving (up : Bool) (st : MoveStage) : State :=
  tierOn (if up then 2 else 1) .ok fun t => { t with moves := [someMove up st] }
def queued : State := tierOn 2 .ok fun t => { t with promoQ := [3] }
def handAt : State :=
  let s := setFld (setFld (tierOn 1 .ok fun t => { t with hand := 3 }) rTirCtl 30 30 1) rTirFrameFloor 27 0 200
  { s with map := { s.map with pcache := smSet [] s.map.pcache 0 [(0, false)] } }

theorem witness_promotion : jigNext queued 1 = none ∧ mayMove queued = true ∧ queued.tier.promoQ = [3] ∧
    queued.tier.moves.find? (fun m => decide (m.eng = 1) && decide (m.stage = .decided) && m.up && panelFree queued m.panel) = none ∧
    panelMoving queued 3 = false ∧ peState (pmapGet queued 3) = 2 ∧ lenderLost queued 3 = false ∧ moveOf queued 3 = none ∧
    panelFree queued 3 = true ∧ engMoves queued 1 < 4 ∧ frameFloor queued < framesFree queued ∧
    (moveOf (moveAdd (modTier queued fun t => { t with promoQ := [] }) 3 1 ⟨true, .policy, none⟩) 3).isSome = true := by decide +kernel
theorem witness_promotion_decided : let s := moving true .decided; jigNext s 1 = none ∧ mayMove s = true ∧
    s.tier.moves.find? (fun m => decide (m.eng = 1) && decide (m.stage = .decided) && m.up && panelFree s m.panel) =
      some (someMove true .decided) ∧ peState (pmapGet s 3) = 2 ∧ lenderLost s 3 = false := by decide +kernel
theorem witness_promotion_jig : jigNext (tierOn 2 .ok fun t => { t with jigs := t.jigs.set 1 { JigSt.idle with
    busy := true, begun := true, steps := [{ panel := 3, count := 1, tgt := 0, rel := false, dl := 0, ok := true }] } }) 1 = some 3 := by
  decide +kernel
theorem witness_hand : mayMove handAt = true ∧ rbit handAt rTirCtl 30 = true ∧ framesFree handAt < 2 * frameFloor handAt ∧
    0 < mapPanels handAt ∧ (nbrBest handAt []).isSome = true ∧ handAt.tier.hand = 3 ∧
    (let u := mapLookup (modTier handAt fun t => { t with handOff := false }) (3 * 65536) 0
     demotable u 3 = true ∧ heatOf u 3 ≤ fld u rTirThresh 15 0 ∧ moveOf u 3 = none ∧ (moveRoom u).isSome = true ∧
     demotable u 4 = false ∧ panelMoving u 4 = false) := by decide +kernel
theorem witness_demotion : let s := moving false .decided; mayMove s = true ∧
    s.tier.moves.find? (fun m => decide (m.eng = 1) && decide (m.stage = .decided) && !m.up && panelFree s m.panel) =
      some (someMove false .decided) ∧ peState (pmapGet s 3) = 1 ∧ fillOf s 3 = none ∧ retFind s 3 = none ∧
    (retFind (modTier s fun t => { t with ret := smSet [] t.ret 3 [{ panel := 3, nbr := 0, frame := 7, dirty := false }] }) 3).isSome =
      true := by decide +kernel
theorem witness_move_step : (let s := moving false .begin; moveOf s 3 = some (someMove false .begin) ∧ panelFree s 3 = true ∧
      mayMove s = true) ∧
    (let s := moving true .copy; moveOf s 3 = some (someMove true .copy) ∧ lendWaiting s 3 = false ∧ frameWaiting s 9 = false) := by
  decide +kernel
theorem witness_abandon : abandonCause (modCure (moving true .copy) fun x => { x with fence := x.fence.set 2 .fenced })
      (someMove true .copy) = 1 ∧
    abandonCause (modCure (moving true .copy) fun x => { x with drain := .started }) (someMove true .copy) = 2 ∧
    abandonCause (tierOn 2 .lost id) (someMove true .copy) = 3 := by decide +kernel
theorem witness_frames : tiered queued = true ∧ (frameTake queued).isSome = true := by decide +kernel
theorem witness_neighbours : nbrOn (tierOn 2 .ok id) 0 = true ∧ (tierOn 2 .ok id).tier.nbrs[(0 : Fin 32)].mode ≠ .lost ∧
    (tierOn 2 .ok id).tier.nbrs[(0 : Fin 32)].rdAt + 1000000 ≤ beatNs { tierOn 2 .ok id with
      beat := { State.reset.beat with valid := true, half := 4000000 } } := by decide +kernel
theorem witness_move_cmd : (∀ b : Bool, let s := tierOn (if b then 1 else 2) .ok id
     let v : Word64 := if b then 0x0800_0000_0000_0003 else 3
     let u := setReg s rTirMoveCmd (v &&& ~~~ fieldMask 63 60 &&& ~~~ fieldMask 58 53 &&& ~~~ fieldMask 46 32)
     mayMove u = true ∧ fieldOf v 31 0 = 3 ∧ 3 < mapPanels u ∧ panelMoving u 3 = false ∧ moveOf u 3 = none ∧ bitOf v 59 = b ∧
     (bitOf v 59 = false → peState (pmapGet u 3) = 2 ∧ lenderLost u 3 = false) ∧ (bitOf v 59 = true → demotable u 3 = true) ∧
     (moveRoom u).isSome = true) := by decide +kernel

/-- A grant of frames 8 to 15 to device 0, with frame 9 at the head of its chain, and a lending segment at engine 0. -/
def lending (op : BitVec 8) (kind : Nat) (len : BitVec 16) (imm : Word32) : Seg :=
  { segOf op (BitVec.ofNat 32 (kind * 2 ^ 28)) (9 * 65536) len [] with
    hdr := { (segOf op (BitVec.ofNat 32 (kind * 2 ^ 28)) (9 * 65536) len []).hdr with imm := imm } }
def lendOn (g : Seg) : State :=
  let s := setFld (setFld (setFld (setFld (segOn .lending g) rMapCfg 0 0 1) rMapRsvBase 20 0 1) (rTirGrantA 0) 27 0 8) (rTirGrantB 0) 27 0 8
  modTier { s with map := { s.map with das := 256 } } fun t => { t with
    grantEn := 1, grantRdy := 1, grantFree := t.grantFree.set 0 7, grantHead := t.grantHead.set 0 9 }
def granting (f : TierSt → TierSt) : State :=
  modTier (setFld (setFld (tierOn 1 .ok id) (rTirGrantA 0) 27 0 8) (rTirGrantB 0) 27 0 8) f

theorem witness_lend_access : (∀ x : Fin 3, let op : BitVec 8 := [1, 3, 5][x]; let len : BitVec 16 := if op = 5 then 8 else 64
    let g := lending op 1 len 0; let p := tenTurn (lendOn g) 0; let u := popSeg p 0
    frontSeg p 0 = some (0, g, .lendAccess) ∧ jobsFull p 0 = false ∧ grantHolds u 0 9 1 = true ∧
    9 * 65536 + 64 ≤ dasTop u) := by decide +kernel
theorem witness_lend_alloc : let g := lending 3 2 0 0; let p := tenTurn (lendOn g) 0; let u := popSeg p 0
    frontSeg p 0 = some (0, g, .lendAlloc) ∧ chainMay p 0 g.hdr .lendAlloc = true ∧ grantOf u 0 = some 0 ∧ inDrain u = false ∧ grantHeld u 0 = false ∧ u.tier.grantFree[(0 : Fin 32)] ≠ 0 ∧
    (chainRead (apertureTaken u 0 [9 * 65536, 8 * 65536]) u.tier.grantHead[(0 : Fin 32)]).isSome = true := by decide +kernel
theorem witness_lend_free : let g := lending 1 3 0 9; let p := tenTurn (lendOn g) 0; let u := popSeg p 0
    frontSeg p 0 = some (0, g, .lendFree) ∧ jobsFull p 0 = false ∧ chainMay p 0 g.hdr .lendFree = true ∧
    inDrain u = false ∧ grantHeld u 0 = false ∧ grantOfFrame u 0 9 = some 0 := by decide +kernel
theorem witness_grant : grantOn (granting id) 0 = false ∧
    grantOk (setReg (granting id) (rTirGrantA 0) (packFields [(61, 0), (32, 0), (0, fieldOf (8 : Word64) 27 0)])) 0 = true ∧
    grantOn (granting fun t => { t with grantEn := 1 }) 0 = true ∧
    (granting fun t => { t with grantFree := t.grantFree.set 0 7 }).tier.grantFree[(0 : Fin 32)] + 1 = grantCount (granting id) 0 ∧
    ((dasNow (granting id) (8 * 65536)).getD none).isSome = true := by decide +kernel
def reclaiming : State := modCure (tierOn 1 .lost id) fun x => { x with mstate := .mirrored }
theorem witness_reclaim : reclaiming.tier.reclaim = none ∧ reclaiming.cure.staleSide = false ∧ reclaiming.cure.recast = none ∧
    reclaiming.tier.nbrs[(0 : Fin 32)].mode = .lost ∧ tiered (setFld reclaiming rTirReclaimCmd 4 0 0) = true ∧
    inDrain reclaiming = false ∧ inDrain (modCure reclaiming fun x => { x with drain := .started }) = true := by decide +kernel
theorem witness_reclaim_done : let s := modTier reclaiming fun t => { t with reclaim := some ⟨0, 256⟩ }
    let u := reclaimWalk 0 [] (s.map.pmap.ex.length + 1) s 256 []
    u.tier.reclaim.isSome = true ∧ u.tier.reclaim.all (fun r => (reclaimNext u r.nbr r.next).isNone) = true := by decide +kernel

def jigOn (f : JigSt → JigSt) : State := modJig portUp 1 fun g => f { g with busy := true, steps := [
  { panel := 3, count := 1, tgt := 1, rel := false, dl := 0, ok := true },
  { panel := 3, count := 1, tgt := 3, rel := false, dl := 0, ok := true },
  { panel := 3, count := 1, tgt := 0, rel := false, dl := 0, ok := true }] }
/-- A list at a panel whose lender answers its first line. -/
def listState : State := setFld (tierOn 2 .ok id) (rTirJigAddr 1) 47 6 (3 * 1024)
def listHead : LineData := 0x1_0000_0001
theorem witness_jig_go : listState.tier.jigs[(1 : Fin 4)].busy = false ∧ inDrain listState = false ∧
    engineMay listState 16 (fld listState (rTirJigAddr 1) 47 6 * 64) = true ∧
    listLine listState [(3 * 1024, listHead)] (fld listState (rTirJigAddr 1) 47 6 * 64) = some listHead ∧
    lineNum listHead 0 4 = 1 ∧ lineNum listHead 4 2 = 1 ∧ lineNum listHead 6 2 = 0 ∧ lineNum listHead 12 4 = 0 ∧
    lineNum listHead 24 8 = 0 := by decide +kernel
theorem witness_jig_start : (let g := (jigOn id).tier.jigs[(1 : Fin 4)]; g.busy = true ∧ g.begun = false ∧ g.stop = false ∧
    (g.steps[g.step]?).any (fun x => x.ok && decide (x.dl ≤ beatNs (jigOn id) + g.lead) && decide (x.tgt ≠ 0)) = true) ∧
    (let g := (jigOn fun g => { g with step := 2 }).tier.jigs[(1 : Fin 4)]
     (g.steps[g.step]?).any (fun x => x.ok && decide (x.tgt = 0)) = true) ∧
    (let g := (jigOn fun g => { g with steps := g.steps.map fun x => { x with ok := false } }).tier.jigs[(1 : Fin 4)]
     (g.steps[g.step]?).any (fun x => !x.ok) = true) := by decide +kernel
theorem witness_jig_steps : (let s := jigOn fun g => { g with begun := true, pos := 1 }
      stepStaged s 1 = true ∧ s.tier.jigs[(1 : Fin 4)].stop = false ∧
      (jigLines s.tier.jigs[(1 : Fin 4)]).all (engineMay s 16) = true) ∧
    lateStep (jigOn id) 1 = some 0 ∧ unpinStep (jigOn id) 1 = some 1 ∧
    (let g := (jigOn fun g => { g with step := 3, unpins := [1] }).tier.jigs[(1 : Fin 4)]
     g.busy = true ∧ g.stop = false ∧ g.count ≤ g.steps.length ∧ g.steps.length ≤ g.step ∧
     (List.range 3).all (fun k => (g.steps[k]?).all fun x => decide (x.tgt ≠ 3) || decide (k ∈ g.unpins)) = true) := by
  decide +kernel

def okKey : Word32 := (Config.rkeyCheck 0 0 0).setWidth 32
def dataSeg (op : BitVec 8) (len : BitVec 16) : Seg := segOf op okKey 0 len (List.replicate 16 1)
/-- The region key of `segOn` passes for these opcodes. -/
theorem dataSeg_key (s : State) (op : BitVec 8) (len : BitVec 16) (he : s.ten.keyEra = 0)
    (hr : (eng s 0).rkeys = [⟨0, false, { mode := .valid, perm := 15, ring := 0, gen := 0, peer := 0, base := 0, size := 4096 }⟩])
    (h : (op = 1 ∨ op = 2 ∨ op = 3 ∨ op = 5 ∨ op = 6 ∨ op = 7) ∧ len.toNat ≤ 4096) :
    ∃ k, keyCheck s 0 (dataSeg op len).hdr = some (true, k) ∧ k.ring = 0 := by
  refine ⟨{ mode := .valid, perm := 15, ring := 0, gen := 0, peer := 0, base := 0, size := 4096 }, ?_, rfl⟩
  have hq : ∀ q : BitVec 9, (q.setWidth 32).toNat / 2 ^ 17 = 0 ∧ (q.setWidth 32).toNat / 512 % 256 = 0 ∧
      q.toNat = (q.setWidth 32).toNat % 512 := by
    intro q
    have := q.isLt
    rw [BitVec.toNat_setWidth]
    omega
  obtain ⟨a, b, c⟩ := hq (Config.rkeyCheck 0 0 0)
  have a' : (dataSeg op len).hdr.rkey.toNat / 2 ^ 17 = 0 := a
  unfold keyCheck
  rw [a']
  have hl : 0 + (dataSeg op len).hdr.length.toNat ≤ 4096 := by show 0 + len.toNat ≤ 4096; omega
  have hf : ∀ ks : List RkeyEnt, ks = [⟨0, false, { mode := .valid, perm := 15, ring := 0, gen := 0, peer := 0, base := 0, size := 4096 }⟩] →
      ks.find? (fun y => decide (y.idx = 0) && !y.load) = some ⟨0, false, { mode := .valid, perm := 15, ring := 0, gen := 0, peer := 0, base := 0, size := 4096 }⟩ := by
    intro ks h; rw [h]; rfl
  dsimp only
  rw [hf _ hr]
  have b' : (dataSeg op len).hdr.rkey.toNat / 512 % 256 = 0 := b
  have c' : (Config.rkeyCheck s.ten.keyEra 0 0).toNat = (dataSeg op len).hdr.rkey.toNat % 512 := by rw [he]; exact c
  dsimp only
  rw [b', show (0 : BitVec 8).toNat = 0 from rfl, show (dataSeg op len).hdr.offset.toNat = 0 from rfl,
    show (dataSeg op len).hdr.opcode = op from rfl, show (dataSeg op len).hdr.srcDev = 0 from rfl]
  rw [decide_eq_true c', decide_eq_true hl]
  rcases h with ⟨rfl | rfl | rfl | rfl | rfl | rfl, _⟩ <;> rfl

theorem tenTurn_still (s : State) (e : Fin 8) (c : BitVec 16) (g : Seg) (h1 : s.results = []) (h2 : (eng s e).jobs = [])
    (h3 : s.ten.closing = []) (h4 : (eng s e).pend = []) (h5 : (eng s e).exec = [(c, g)])
    (h6 : rowOf (connOf s c.toNat) c.toNat g ≠ .invalid) : tenTurn s e = s := by
  have a : takeResults s e = s := by
    obtain ⟨⟩ := s
    simp only at h1
    subst h1
    rfl
  have b : tenPump s e = s := by
    unfold tenPump
    simp only [a, h2, h3, forEach, List.foldl_nil, List.filter_nil]
  have d : nakInvalid s e = s := by
    unfold nakInvalid nakFront
    rw [show frontSeg s e = some (c.toNat, g, rowOf (connOf s c.toNat) c.toNat g) by unfold frontSeg; rw [h5]; rfl]
    split
    · rename_i h
      simp only [Option.some.injEq, Prod.mk.injEq] at h
      exact absurd h.2.2 h6
    · rfl
  unfold tenTurn segsGo
  rw [b, d]
  unfold pendGo
  rw [h4]
  rfl
theorem segAccepted_data (s : State) (e : Fin 8) (row : TenRow) (wr : Bool) (len : Seg → Nat) (c : Nat) (g : Seg) (k : Rkey)
    (hk : (connOf (tenTurn s e) c).kind = .data)
    (hf : frontSeg (tenTurn s e) e = some (c, g, row))
    (hj : jobsFull (tenTurn s e) e = false)
    (hm : keyCheck (tenTurn s e) e g.hdr = some (true, k))
    (hl : g.hdr.offset.toNat + len g ≤ lmsTop (popSeg (tenTurn s e) e)) :
    SegAccepted s e row wr len c g (some (g.hdr.rkey.toNat / 2 ^ 17, k)) (popSeg (tenTurn s e) e) := by
  refine ⟨hf, hj, hl, ?_⟩
  rw [hk]
  exact ⟨k, hm, rfl, rfl⟩
theorem witness_tenon_write : ∃ k u, SegAccepted (segOn .data (dataSeg 1 64)) 0 .write true segLen 0 (dataSeg 1 64) k u := by
  obtain ⟨k, h, _⟩ := dataSeg_key (segOn .data (dataSeg 1 64)) 1 64 rfl rfl (by decide)
  have e := tenTurn_still (segOn .data (dataSeg 1 64)) 0 0 (dataSeg 1 64) rfl rfl rfl rfl rfl (by decide)
  rw [← e] at h
  exact ⟨_, _, segAccepted_data _ _ _ _ _ _ _ k (by rw [e]; rfl) (by rw [e]; rfl) (by rw [e]; decide) h (by rw [e]; decide)⟩
theorem witness_tenon_read : ∃ k u, SegAccepted (segOn .data (dataSeg 3 64)) 0 .readReq false segLen 0 (dataSeg 3 64) k u := by
  obtain ⟨k, h, _⟩ := dataSeg_key (segOn .data (dataSeg 3 64)) 3 64 rfl rfl (by decide)
  have e := tenTurn_still (segOn .data (dataSeg 3 64)) 0 0 (dataSeg 3 64) rfl rfl rfl rfl rfl (by decide)
  rw [← e] at h
  exact ⟨_, _, segAccepted_data _ _ _ _ _ _ _ k (by rw [e]; rfl) (by rw [e]; rfl) (by rw [e]; decide) h (by rw [e]; decide)⟩
theorem witness_tenon_add : ∃ k u, SegAccepted (segOn .data (dataSeg 5 8)) 0 .add8 true (fun _ => 8) 0 (dataSeg 5 8) k u := by
  obtain ⟨k, h, _⟩ := dataSeg_key (segOn .data (dataSeg 5 8)) 5 8 rfl rfl (by decide)
  have e := tenTurn_still (segOn .data (dataSeg 5 8)) 0 0 (dataSeg 5 8) rfl rfl rfl rfl rfl (by decide)
  rw [← e] at h
  exact ⟨_, _, segAccepted_data _ _ _ _ _ _ _ k (by rw [e]; rfl) (by rw [e]; rfl) (by rw [e]; decide) h (by rw [e]; decide)⟩
theorem witness_tenon_cas : ∃ k u, SegAccepted (segOn .data (dataSeg 6 16)) 0 .cas8 true (fun _ => 8) 0 (dataSeg 6 16) k u := by
  obtain ⟨k, h, _⟩ := dataSeg_key (segOn .data (dataSeg 6 16)) 6 16 rfl rfl (by decide)
  have e := tenTurn_still (segOn .data (dataSeg 6 16)) 0 0 (dataSeg 6 16) rfl rfl rfl rfl rfl (by decide)
  rw [← e] at h
  exact ⟨_, _, segAccepted_data _ _ _ _ _ _ _ k (by rw [e]; rfl) (by rw [e]; rfl) (by rw [e]; decide) h (by rw [e]; decide)⟩
theorem witness_tenon_cure : ∃ k u, SegAccepted (segOn .data (dataSeg 7 64)) 0 .cureWrite true segLen 0 (dataSeg 7 64) k u := by
  obtain ⟨k, h, _⟩ := dataSeg_key (segOn .data (dataSeg 7 64)) 7 64 rfl rfl (by decide)
  have e := tenTurn_still (segOn .data (dataSeg 7 64)) 0 0 (dataSeg 7 64) rfl rfl rfl rfl rfl (by decide)
  rw [← e] at h
  exact ⟨_, _, segAccepted_data _ _ _ _ _ _ _ k (by rw [e]; rfl) (by rw [e]; rfl) (by rw [e]; decide) h (by rw [e]; decide)⟩
theorem witness_tenon_imm : ∃ k u, SegAccepted (setFld (segOn .data (dataSeg 2 64)) (rTenRingA 0) 63 63 1) 0 .writeImm true segLen 0
    (dataSeg 2 64) k u ∧ rbit u (rTenRingA ((k.map fun x : Nat × Rkey => x.2.ring).getD 0).val) 63 = true := by
  obtain ⟨k, h, r⟩ := dataSeg_key (setFld (segOn .data (dataSeg 2 64)) (rTenRingA 0) 63 63 1) 2 64 rfl rfl (by decide)
  have e := tenTurn_still (setFld (segOn .data (dataSeg 2 64)) (rTenRingA 0) 63 63 1) 0 0 (dataSeg 2 64) rfl rfl rfl rfl rfl (by decide)
  rw [← e] at h
  refine ⟨_, _, segAccepted_data _ _ _ _ _ _ _ k (by rw [e]; rfl) (by rw [e]; rfl) (by rw [e]; decide) h (by rw [e]; decide), ?_⟩
  rw [show (Option.map (fun x : Nat × Rkey => x.2.ring) (some ((dataSeg 2 64).hdr.rkey.toNat / 2 ^ 17, k))).getD 0 = 0 from r]
  decide +kernel
/-- An answer at the front of engine 0, naming psn 0, which is outstanding. -/
def ansOn (typ : BitVec 4) (op : BitVec 8) (imm : Word32) : State :=
  modConn (segOn .data { segOf op 0 0 0 [] with hdr := { (segOf op 0 0 0 []).hdr with typ := typ, imm := imm } }) 0 fun x =>
    { x with outst := [{ psn := 0, wrap := 0, tries := 0, seg := segBare .readReq 1 0 1 0 .probe, acked := false, retx := false }] }
def ansSeg (typ : BitVec 4) (op : BitVec 8) (imm : Word32) : Seg :=
  { segOf op 0 0 0 [] with hdr := { (segOf op 0 0 0 []).hdr with typ := typ, imm := imm } }
theorem witness_answers :
    frontSeg (segsGo (nakInvalid (ansOn 2 4 0) 0) 0) 0 = some (0, ansSeg 2 4 0, .readResp) ∧
    frontSeg (segsGo (nakInvalid (ansOn 3 0x10 0) 0) 0) 0 = some (0, ansSeg 3 0x10 0, .ack) ∧
    (∀ i : Fin 9, frontSeg (segsGo (nakInvalid (ansOn 3 0x11 (BitVec.ofNat 32 i.val)) 0) 0) 0 =
      some (0, ansSeg 3 0x11 (BitVec.ofNat 32 i.val), .nak)) ∧
    frontSeg (segsGo (nakInvalid (ansOn 3 0x12 0) 0) 0) 0 = some (0, ansSeg 3 0x12 0, .notReady) ∧
    (fatalSyn 2 = true ∧ (2 : BitVec 8) ≠ 1) ∧ fatalSyn 4 = false := by decide +kernel
theorem witness_outstanding : ((connOf (popSeg (segsGo (nakInvalid (ansOn 2 4 0) 0) 0) 0) 0).outst.find?
      (fun o => decide (o.psn = (ansSeg 2 4 0).hdr.psn) && wantsData o.seg)).isSome = true ∧
    ((connOf (popSeg (segsGo (nakInvalid (ansOn 3 0x11 1) 0) 0) 0) 0).outst.find? (fun o => o.psn = (ansSeg 3 0x11 1).hdr.ackPsn)).isSome = true ∧
    (connOf (popSeg (segsGo (nakInvalid (ansOn 3 0x12 0) 0) 0) 0) 0).outst.any (fun o => o.psn = (ansSeg 3 0x12 0).hdr.ackPsn) = true := by
  decide +kernel

/-- Segment Port 0 UP, and outbound mirror connection 8 OPEN with a segment queued. -/
def sending (f : State → State) : State :=
  let s := f (mirState .mirrored fun x => { x with out := smSet [] x.out 8 [segBare .write 5 0 0 0 .resend] })
  modSeg s 0 fun p => { p with up := true }
theorem witness_tx : (forEach (List.finRange 8) (sending id) tenPump).ten.segs[(0 : Fin 4)].up = true ∧
    castDue (forEach (List.finRange 8) (sending id) tenPump) 0 = true ∧
    (trySend (forEach (List.finRange 8) (sending id) tenPump) 0 true []).isSome = true ∧
    (let s := forEach (List.finRange 8) (sending fun s => modTen s fun t => { t with winCast := t.winCast.set 0 1 }) tenPump
     castDue s 0 = false ∧ (trySend s 0 false []).isSome = true) := by decide +kernel
def rawDatagram : Datagram :=
  { v6 := false, ecn := 0, df := true, ident := 0, frag := false, ext := false, proto := 17, ipSum := 0, udpSum := 0, srcIp := 0, dstIp := segAddr (sending id) 0 false, ttl := 1, dscp := 0, flow := 0, nh := 0, srcPort := 0,
    dstPort := BitVec.ofNat 16 (fld (sending id) rTenUdp 15 0), udpLen := 56, hdr := (segOf 1 0 0 0 []).hdr, body := [], tag := 0 }
/-- The same datagram with its checksums. -/
def someDatagram : Datagram :=
  { rawDatagram with udpSum := udpSumOf rawDatagram, ipSum := ipSumOf { rawDatagram with udpSum := udpSumOf rawDatagram } }
theorem witness_rx : (sending id).ten.segs[(0 : Fin 4)].up = true ∧ datagramOk (cntInc (sending id) (rTenRxCnt 0)) 0 someDatagram = true ∧
    hdrGood someDatagram.hdr = true ∧ isOpen (cntInc (sending id) (rTenRxCnt 0)) someDatagram.hdr.dstConn.toNat = false := by
  decide +kernel
theorem witness_ack : let u := tenPump (modConn (segOn .data (segOf 0x20 0 0 0 [])) 0 fun x => { x with owedNow := true, timer := true }) 0;
    (connOf u 0).mode = .opened ∧ (connOf u 0).owedNow = true ∧ (connOf u 0).timer = true := by decide
theorem witness_rto : let x := connOf (modConn (ansOn 2 4 0) 0 fun x => { x with timer := true }) 0
    x.mode = .opened ∧ x.outst ≠ [] ∧ x.timer = true ∧ x.ackAt ≠ some (ansOn 2 4 0).beat.fclk ∧
    x.rxAt ≠ some (ansOn 2 4 0).beat.fclk := by decide
/-- A WRITE_IMM whose lines are done waits for ring 0. -/
def noticing (prod : Nat) : State :=
  let s := setFld (modEng portUp 0 fun g => { g with jobs := [{ num := 0, stamp := 0, conn := 0, seg := segOf 2 0 0 0 [], rkey := none, rids := [], lines := 0, res := [], epoch := none, wait := .notice 0, met := false, snap := false, mute := false }] }) (rTenRingA 0) 4 0 4
  modTen s fun t => { t with rings := t.rings.set 0 { t.rings[0] with prod := prod } }
theorem witness_notice : (∀ d : Bool, let s := noticing 0
      let p := forEach (List.finRange 8) (if d then modCure s fun x => { x with drain := .started } else s) tenPump
      ringPosting p 0 = false ∧ (noticeNext p 0).isSome = true ∧ inDrain p = d) ∧
    (let p := forEach (List.finRange 8) (noticing 0) tenPump
     ringFull p 0 = false ∧ engineBad p (ringAddr p 0) = false) ∧
    (let p := forEach (List.finRange 8) (noticing 15) tenPump
     ringFull p 0 = true ∧ engineMay p 8 (ringCtl p 0) = true ∧
     ringFull (ringRead (engineRead p 8 (ringCtl p 0)) 0 []) 0 = true) := by decide +kernel
theorem witness_ring : rbit portUp (rTenRingA 0) 63 = false ∧ 4 ≤ fieldOf (4 : Word64) 4 0 ∧ fieldOf (4 : Word64) 4 0 ≤ 16 := by decide
def loading : State := modEng portUp 2 fun g => { g with ctx := [⟨16, true, false⟩] }
theorem witness_ctx_load : (eng loading 2).ctx.find? (fun x => x.load) = some ⟨16, true, false⟩ ∧
    apertureMay loading 2 (ctxLines loading 16) = true := by decide +kernel
def keyLoading : State := modEng portUp 2 fun g => { g with rkeys := [⟨0, true, { mode := .valid, perm := 0, ring := 0, gen := 0, peer := 0, base := 0, size := 0 }⟩] }
theorem witness_key_load : (eng keyLoading 2).ctx.find? (fun x => x.load) = none ∧
    ((eng keyLoading 2).rkeys.find? (fun x => x.load)).map (fun x => x.idx) = some 0 ∧
    apertureMay keyLoading 2 [rkeyBase keyLoading 0] = true ∧
    (rkeyRead (apertureTaken keyLoading 2 [rkeyBase keyLoading 0]) 0).isSome = true := by decide +kernel
/-- Eight unpinned idle contexts fill a set of engine 2, and a segment waits for a ninth. -/
def crowded : State := modEng portUp 2 fun g => { g with
  ctx := (List.range 8).map fun k => ⟨BitVec.ofNat 16 (16 + k), false, true⟩
  pend := [⟨{ (segOf 1 0 0 0 []).hdr with dstConn := 528 }, [], 0, 0⟩] }
theorem witness_evict : ((eng crowded 2).pend.findSome? (fun p =>
    if (ctxFind crowded p.hdr.dstConn.toNat).isNone ∧ 8 ≤ setUsed crowded 2 (ctxSet p.hdr.dstConn.toNat) then
      ctxVictim crowded 2 (ctxSet p.hdr.dstConn.toNat) else none)).any (fun v => apertureMay crowded 2 (ctxLines crowded v.conn.toNat)) = true := by decide +kernel

/-- Data connection 16 in a state, held in its engine's cache, with slot 1 in a state. -/
def connAt (m : ConnMode) (k : KeyMode) : State :=
  let s := setReg (setReg (setReg portUp rTenConnSel 16) rTenKeyCfg 5) rTenConnCfg0 0
  let s := setReg (setReg (setReg (setReg s (rMapRb 5) 1) (rMapRb 6) 64) rTenRkeyAttr 1) rTenRkeySize 64
  modEng (modConn { s with map := { s.map with das := 4096 } } 16 fun x =>
    { x with mode := m, slot1 := { x.slot1 with mode := k } }) 0 fun g => { g with ctx := [⟨16, false, false⟩] }
theorem witness_conn_open : let s := modTen (connAt .free .empty) fun t => { t with keyGot := 15 }
    let u := modTen (setFld s rTenConnCmd 3 0 1) fun t => { t with connRes := 0 }
    s.ten.closing = [] ∧ connSel s = 16 ∧ cfgKind u = some .data ∧ openBad u 16 (connStaged u .data) = false ∧
    pinFull u 16 (connStaged u .data) = false ∧ (ctxPlace u 16).isSome = true := by decide +kernel
theorem witness_conn_keys : connSel (connAt .opened .empty) = 16 ∧ (∀ k : Fin 3, let m : KeyMode := [.empty, .ready, .draining][k]
    let s := connAt .opened m; ctxHeld s 16 = true ∧ (connOf s 16).mode = .opened ∧ (slotOther (connOf s 16)).mode = m) ∧
    (let s := modTen (setFld (connAt .opened .empty) rTenConnCmd 3 0 3) fun t => { t with connRes := 0 }
     (keyStaged s).gen ≠ (keyActive (connOf s 16)).gen ∧ (keyStaged s).gen ∉ (connOf s 16).retired) := by decide +kernel
theorem witness_rkeys : (∀ op : Fin 4, (rkeyRead (setFld (connAt .free .empty) rTenRkeyCmd 1 0 op.val) 0).all
      (fun k => decide (k.mode = .invalid)) = true ∧ (rkeyRead (setFld (connAt .free .empty) rTenRkeyCmd 1 0 op.val) 0).isSome = true) ∧
    rkeySel (connAt .free .empty) = 0 ∧
    (let u := setFld (connAt .free .empty) rTenRkeyCmd 1 0 1; let n := rkeyStaged u 1
     n.base + n.size ≤ lmsTop u ∧ n.perm.getLsbD 3 = false ∧ n.perm ≠ 0) ∧
    (rkeyRead (setFld (rkeyPut (connAt .free .empty) 0 { Rkey.zero with mode := .valid }) rTenRkeyCmd 1 0 2) 0).map
      (fun k => k.mode) = some .valid := by decide +kernel

def withArm (f : ArmSt → ArmSt) : State := modArm State.reset f
def bootRun : BootRun := ⟨.cold, 1, 0, [], false, 1⟩

theorem witness_armature : (withArm fun a => { a with mode := .running }).arm.mode = .running ∧
    (withArm fun a => { a with boot := some bootRun }).arm.boot = some bootRun ∧ bootRun.asked ≠ (withArm fun a => { a with boot := some bootRun }).beat.fclk ∧
    (modPwr State.reset fun p => { p with rst := none }).arm.mode = .bootRom ∧
    (modPwr State.reset fun p => { p with rst := none }).arm.boot = none ∧
    (withArm fun a => { a with mode := .tcmError }).arm.mode = .tcmError ∧
    isReady (withArm fun a => { a with mode := .running }) = false ∧
    State.reset.map.bcmd = none ∧ State.reset.arm.mode ≠ .running ∧
    (popChans State.reset).all (fun c => decide ((chan State.reset c).sch.hold = .run)) = true := by decide +kernel

/-- A mailbox of a running Armature. -/
def withMbx (f : Mbx → Mbx) : State := modMbx (withArm fun a => { a with mode := .running }) 2 f

theorem witness_mailbox : (mbx State.reset 2).mode = .idle ∧ (mbx (withMbx fun b => { b with mode := .pending }) 2).mode = .pending ∧
    (let s := withMbx fun b => { b with mode := .done, doneAt := 1 }
     (mbx s 2).mode = .done ∧ (mbx s 2).doneAt ≠ s.beat.fclk) ∧
    mbxNext (withMbx fun b => { b with mode := .pending }) = some 2 ∧
    (mbx (withMbx fun b => { b with mode := .busy, ans := some [1] }) 2).ans = some [1] ∧
    mbxCur (withMbx fun b => { b with mode := .busy, cur := some [0xFF, 0xFF] }) 2 = some [0xFF, 0xFF] ∧
    mbxOps.contains (argN [0xFF, 0xFF] 0 2) = false ∧
    (modCure (withArm fun a => { a with mode := .running }) fun x => { x with mstate := .stalled }).cure.mstate = .stalled := by
  decide +kernel

/-- A request with its arguments, and a state in which firmware has taken it from mailbox `m`. -/
def mbxReq (op : Nat) (args : List Byte) : List Byte := leBytes 2 op ++ [7, BitVec.ofNat 8 args.length] ++ args
def heldIn (s : State) (m : Fin 4) (op : Nat) (args : List Byte) : State :=
  let s : State := { s with arm := { s.arm with mode := .running } }
  modFw (modMbx s m fun b => { b with mode := .busy, cur := some (mbxReq op args) }) fun f =>
    { f with masks := Vector.replicate 4 (BitVec.allOnes 16) }
def held (m : Fin 4) (op : Nat) (args : List Byte) : State := heldIn portUp m op args
/-- The requests of the witnesses: mailbox, opcode, arguments. -/
def deviceReqs : List (Fin 4 × Nat × List Byte) :=
  [(0, 0x0101, []), (0, 0x0102, []), (0, 0x0103, [1, 0]), (0, 0x0104, [1, 0, 0, 0, 0, 0, 0, 0, 1, 0, 0, 0, 0, 0, 0, 0]), (0, 0x0105, []), (0, 0x0106, [0, 0]),
   (0, 0x0107, [1, 0, 0, 0]), (3, 0x0108, 1 :: List.replicate 55 0), (0, 0x0109, [1]), (0, 0x0801, [0, 16, 0, 0]), (0, 0x0802, [1]),
   (0, 0x0803, []), (0, 0x0F01, [0, 0, 0, 0, 4]), (0, 0x0F01, [0x10, 0, 0, 0, 8]), (0, 0x0F02, [0x20, 0, 0, 0, 4] ++ List.replicate 11 0),
   (0, 0x0F02, [0x10, 0, 0, 0, 8] ++ List.replicate 11 0), (0, 0x0F03, [0, 3]), (0, 0x0F04, [1]), (0, 0x0F05, []), (0, 0x0F06, [1, 2])]
theorem witness_device_requests : ∀ x ∈ deviceReqs, RequestHeld (held x.1 x.2.1 x.2.2) x.1 x.2.1 x.2.2.length (mbxReq x.2.1 x.2.2) ∧
    reqArgs (mbxReq x.2.1 x.2.2) = x.2.2 := by
  unfold RequestHeld
  decide +kernel
theorem witness_device_profile : ∃ u, CommitsTo (held 0 0x0104 [1, 0, 0, 0, 0, 0, 0, 0, 1, 0, 0, 0, 0, 0, 0, 0]) 0x1E 1
    (fun s => (profileFields s 1).foldl (fun s f => fwSet s f.1 [(f.2.1, f.2.2.1, f.2.2.2)]) s) u := by
  refine ⟨_, ?_, rfl, ?_⟩ <;> decide +kernel
theorem witness_device_args : budgetOk (held 0 0x0104 []) ([64, 32, 16, 64].getD 1 0) = true ∧ isReady (held 3 0x0108 []) = false ∧
    rbit (held 3 0x0108 []) rArmIkeyState 1 = false ∧ (held 0 0x0109 [1]).arm.img.any (fun i => decide (i.slot = 1)) = false := by
  decide
theorem witness_diagnostic_args : (budgetMax 4096).any (fun b => decide (fld (held 0 0x0801 [0, 16, 0, 0]) rVnrDirty 23 16 ≤ b)) = true ∧
    (fwPut (heldIn (setFld portUp rArmCtl 31 31 1) 0 0x0802 [1]) rPwrStateCmd (BitVec.ofNat 64 (2 ^ 31 + 1))).pwr.cmdRes ≠ 2 ∧
    evtUsed 768 = true ∧ ((wordRead (held 0 0x0F01 [0, 0, 0, 0, 4]) true 0 0).1).isSome = true ∧ holdIdx 0x10 = none ∧
    (regFind 0x10).any (fun h => h.desc.wide) = true ∧ (wordWrite (held 0 0x0F02 []) true 0x800 0x20 0 noEnv).1 = true ∧
    mbxCur (held 0 0xFFF []) 0 = some (mbxReq 0xFFF []) ∧ mbxOps.contains (argN (mbxReq 0xFFF []) 0 2) = false := by decide +kernel

def atOne (args : List Byte) (n : Nat) : List Byte := args ++ List.replicate (n - args.length) 0 ++ [1, 0, 0, 0, 0, 0, 0, 0]
def memoryReqs : List (Nat × List Byte) :=
  [(0x0201, []), (0x0202, [0, 0, 0, 0, 1, 0, 0, 0]), (0x0203, List.replicate 28 0), (0x0204, atOne [] 24), (0x0205, [0]),
   (0x0206, atOne [] 24), (0x0207, atOne [] 16), (0x0208, [0, 0, 1]), (0x0209, atOne [] 8), (0x0301, [0]), (0x0302, [0, 0, 0, 1]),
   (0x0303, [0, 0, 0, 0]), (0x0304, List.replicate 12 0), (0x0305, [0, 0, 0, 0]), (0x0306, [0, 0, 0, 0]),
   (0x0307, [0, 0xFF] ++ List.replicate 22 0), (0x0307, List.replicate 24 0), (0x0401, 1 :: List.replicate 15 0 ++ [64, 0, 0, 0, 0, 0, 0, 0]), (0x0402, [1]), (0x0403, []),
   (0x0404, atOne [32, 50] 8)]
theorem witness_memory_requests : ∀ x ∈ memoryReqs, RequestHeld (held 0 x.1 x.2) 0 x.1 x.2.length (mbxReq x.1 x.2) ∧
    reqArgs (mbxReq x.1 x.2) = x.2 := by
  unfold RequestHeld
  decide +kernel
theorem witness_commit_region : ∃ u, CommitsTo (held 0 0x0204 (atOne [] 24)) 0x14 1 (fun s => fwSet (fwSet (fwSet s (rVnrRgnA 0)
    [(63, 63, 0), (58, 56, 0), (47, 12, 0)]) (rVnrRgnB 0) [(47, 12, 0)]) (rCurRgnMode 0) [(1, 0, 0)]) u := by
  refine ⟨_, ?_, rfl, ?_⟩ <;> decide +kernel
theorem witness_commit_ranks : ∃ u, CommitsTo (held 0 0x0206 (atOne [] 24)) 0x1 1 (fun s => fwSet (fwSet s rAdmRank0
    ((List.range 10).map fun i => (3 * i + 2, 3 * i, 0))) rAdmRank1 ((List.range 10).map fun i => (3 * i + 2, 3 * i, 0))) u := by
  refine ⟨_, ?_, rfl, ?_⟩ <;> decide +kernel
theorem witness_commit_qos : ∃ u, CommitsTo (held 0 0x0207 (atOne [] 16)) 0x2 1
    (fun s => forEach (popChans s) s fun s c => fwPut s (rSchTgtFrp c.val 0) 0) u := by
  refine ⟨_, ?_, rfl, ?_⟩ <;> decide +kernel
theorem witness_commit_choreo : ∃ u, CommitsTo (held 0 0x0209 (atOne [] 8)) 0x8 1 (fun s => forEach (popChans s) s fun s c =>
    fwSet (fwSet s (rRefPhase c.val) [(11, 0, 0)]) (rRefCfg c.val) [(8, 8, 0), (1, 0, 0)]) u := by
  refine ⟨_, ?_, rfl, ?_⟩ <;> decide +kernel
theorem witness_commit_budget : budgetOk (held 0 0x0404 (atOne [32, 50] 8)) 32 = true ∧
    ∃ u, CommitsTo (held 0 0x0404 (atOne [32, 50] 8)) 0x4 1 (fun s => fwSet s rVnrDirty [(23, 16, 32), (6, 0, 50)]) u := by
  refine ⟨by decide, _, ?_, rfl, ?_⟩ <;> decide +kernel
def stepped (f : State → State) (op n : Nat) (args : List Byte) : State :=
  modMbx (heldIn (f portUp) 0 op args) 0 fun b => { b with step := n }
def chanHold (h : HoldMode) (s : State) : State := modSch s 0 fun q => { q with hold := h, lastEnd := 1 }
theorem witness_hold_steps : ∀ x ∈ [((0x0203 : Nat), List.replicate 28 (0 : Byte)), (0x0303, [0, 0, 0, 0])],
    (let s := stepped id x.1 0 x.2; RequestHeld s 0 x.1 x.2.length (mbxReq x.1 x.2) ∧ 0 < chanCount s ∧ (mbx s 0).step = 0 ∧
      (chan s 0).sch.hold = .run ∧ devHolding s = false) ∧
    (let s := stepped (chanHold .held) x.1 1 x.2; RequestHeld s 0 x.1 x.2.length (mbxReq x.1 x.2) ∧ (mbx s 0).step = 1 ∧
      (chan s 0).sch.hold = .held) ∧
    (let s := stepped (chanHold .run) x.1 2 x.2; RequestHeld s 0 x.1 x.2.length (mbxReq x.1 x.2) ∧ (mbx s 0).step = 2 ∧
      (chan s 0).sch.hold = .run ∧ (chan (holdData s 0).2 0).sch.lastEnd = 1) := by
  unfold RequestHeld
  decide +kernel
theorem witness_layout_steps : let args : List Byte := [0, 0, 0, 0, 1, 0, 0, 0]
    (let s := stepped id 0x0202 0 args; isReady s = false ∧ startCold s = true ∧ (mbx s 0).step = 0 ∧ devState s = 0) ∧
    (let s := stepped (fun s => forEach allChans s fun s c => modSch s c fun q => { q with hold := .held, inDev := true }) 0x0202 1 args
     (mbx s 0).step = 1 ∧ devState s = 2) ∧
    (let s := stepped (fun s => { s with devEnd := 1 }) 0x0202 2 args; (mbx s 0).step = 2 ∧ devState s = 0 ∧ s.devEnd = 1) := by
  decide +kernel
theorem witness_set_mark : let s := held 0 0x0302 [0, 0, 0, 1]
    marksAt (markWrite s 0 0 (if (marksAt s 0 0).m0.isNone then 0 else 1) 1) 0 0 ≠ marksAt s 0 0 := by decide +kernel
/-- The geometry is set. -/
def geomUp : State := { portUp with map := { portUp.map with das := 4096 } }
theorem witness_inlay_add : let s := heldIn geomUp 0 0x0304 (List.replicate 12 0)
    (List.range 4096).find? (fun i => inlFcount ≤ i && !(smGet InlEnt.none (chan s 0).code.inl i).valid) = some 0 ∧
    inlReason s 0 0 { valid := true, active := false, copy := false, sub := 0, rank := 0, bg := 0, ba := 0, row := 0, spare := 0 } = none := by
  decide +kernel
def oneInlay : State := modCode portUp 0 fun x => { x with inl := smSet InlEnt.none x.inl 0 { InlEnt.none with valid := true } }
theorem witness_ppr_schedule : let s := heldIn oneInlay 0 0x0305 [0, 0, 0, 0];
    (smGet InlEnt.none (chan s 0).code.inl 0).valid = true ∧ s.fw.pprs.length < 14335 := by decide +kernel
theorem witness_set_scrub : 0 * 10 ^ 9 / sliceCount (held 0 0x0306 [0, 0, 0, 0]) < 2 ^ 32 := by decide +kernel
theorem witness_diag_pass : let s := heldIn geomUp 0 0x0307 (List.replicate 24 0); (chan s 0).code.diag.isSome = false ∧
    (chan (fwPut (fwSet (fwSet s (rScrDiagStart 0) [(47, 6, 0)]) (rScrDiagEnd 0) [(47, 6, 0)]) (rScrDiagCmd 0) 1) 0).code.diagRes ≠
      2 := by decide +kernel
def ropOn : State := { portUp with vnr := { portUp.vnr with mode := .enabled } }
theorem witness_range_op : let s := heldIn ropOn 0 0x0401 (1 :: List.replicate 15 0 ++ [64, 0, 0, 0, 0, 0, 0, 0]);
    s.vnr.rop.isSome = false ∧
    (fwPut (fwSet (fwSet s rVnrRopStart [(47, 6, 0)]) rVnrRopEnd [(47, 6, 1)]) rVnrRopCmd (BitVec.ofNat 64 (2 ^ 31 + 1))).vnr.ropRes ≠ 2 := by
  decide +kernel

def twinArgs : List Byte := [0, 0, 0, 0, 1, 0, 0, 0, 0, 1, 0, 0]
def cureArgs : List Byte := atOne [0xFF, 0, 50, 1, 1, 0, 0, 0] 8
def tierArgs : List Byte := atOne [1, 100, 1, 0, 0, 0, 0, 0, 1, 0, 0, 0, 0, 0, 0, 0] 16
def grantArgs (op : Byte) : List Byte := [0, op, 0, 0, 8, 0, 0, 0, 8, 0, 0, 0]
def cureReqs : List (Nat × List Byte) :=
  [(0x0501, twinArgs), (0x0502, []), (0x0503, []), (0x0504, []), (0x0505, [2, 0]), (0x0506, cureArgs), (0x0507, List.replicate 8 0),
   (0x0508, List.replicate 80 0), (0x0508, 1 :: List.replicate 15 0), (0x0601, tierArgs), (0x0602, atOne [] 8), (0x0603, grantArgs 0),
   (0x0603, grantArgs 1), (0x0603, grantArgs 2), (0x0603, grantArgs 3), (0x0604, [1, 0, 0, 0, 3, 0, 0, 0]),
   (0x0605, 1 :: List.replicate 15 0), (0x0606, [1]), (0x0607, [0]), (0x0608, []), (0x0609, List.replicate 8 0),
   (0x060A, List.replicate 248 0), (0x060A, [0, 1] ++ List.replicate 246 0)]
theorem witness_cure_requests : ∀ x ∈ cureReqs, RequestHeld (held 0 x.1 x.2) 0 x.1 x.2.length (mbxReq x.1 x.2) ∧
    reqArgs (mbxReq x.1 x.2) = x.2 := by
  unfold RequestHeld
  decide +kernel
theorem witness_set_twin : ∃ u, CommitsTo (held 0 0x0501 twinArgs) 0x10 0 (fun s => fwSet s rCurTwin [(31, 16, 0), (15, 0, 1)]) u := by
  refine ⟨_, ?_, rfl, ?_⟩ <;> decide +kernel
theorem witness_attach_cmd : let s := heldIn (mirState .detached id) 0 0x0502 []
    RequestHeld s 0 0x0502 0 (mbxReq 0x0502 []) ∧ allOutOpen s = true ∧ s.cure.mstate = .detached ∧
    (curCtl s 1).cure.mstate = .attaching := by unfold RequestHeld; decide +kernel
theorem witness_degrade_cmd : let s := heldIn (mirState .mirrored id) 0 0x0503 []
    RequestHeld s 0 0x0503 0 (mbxReq 0x0503 []) ∧ (curCtl s 2).cure.mstate = .degraded := by unfold RequestHeld; decide +kernel
theorem witness_fence_cmd : let s := held 0 0x0505 [2, 0]; 2 < chanCount s ∧ (fencePut s 2 0).cure.cmdRes ≠ 2 := by decide +kernel
theorem witness_set_cure : ∃ u, CommitsTo (held 0 0x0506 cureArgs) 0x10 1 (fun s =>
    fwSet (fwSet s rCurCfg [(31, 16, 255), (14, 8, 50), (1, 0, 1)]) rCurRecastCfg [(6, 0, 1)]) u := by
  refine ⟨_, ?_, rfl, ?_⟩ <;> decide +kernel
theorem witness_blank : 0 < lmsTop (held 0 0x0507 (List.replicate 8 0)) := by decide +kernel
def repairArgs : List Byte := 1 :: List.replicate 15 0
/-- MIRRORED, with every channel trained; `f` says how it is fenced. -/
def repairing (n : Nat) (f : ChFence) : State :=
  stepped (fun s => modCure (modPhy s 0 fun p => { p with train := .trained }) fun x =>
    { x with mstate := .mirrored, fence := x.fence.set 0 f }) 0x0508 n repairArgs
theorem witness_map_repair :
    (let s := repairing 0 .inService; RequestHeld s 0 0x0508 16 (mbxReq 0x0508 repairArgs) ∧ 0 < lmsTop s ∧ (mbx s 0).step = 0 ∧
      s.cure.mstate = .mirrored ∧ (let c := chanOf s (compBase s 2 + panelOf 0 / 8 * 64); (fencePut s c.val 0).cure.cmdRes ≠ 2)) ∧
    (let s := repairing 1 .fenced; let c := chanOf s (compBase s 2 + panelOf 0 / 8 * 64)
     RequestHeld s 0 0x0508 16 (mbxReq 0x0508 repairArgs) ∧ 0 < lmsTop s ∧ (mbx s 0).step ≠ 0 ∧ s.cure.sweep[c] = false ∧
      (fencePut s c.val 1).cure.cmdRes ≠ 2) := by unfold RequestHeld; decide +kernel
theorem witness_twin_timeout : let s : State := { mirState .stalled id with arm := { State.reset.arm with mode := .running } }
    s.arm.mode = .running ∧ s.cure.mstate = .stalled := by decide +kernel

theorem witness_set_tier : ∃ u, CommitsTo (held 0 0x0601 tierArgs) 0x20 1 (fun s =>
    let s := fwSet s rTirCtl [(31, 31, 1), (30, 30, 0), (7, 0, 100)]
    let s := fwSet s rTirNlb [(15, 0, 1)]
    let s := fwSet s rTirThresh [(31, 16, 0), (15, 0, 0)]
    let s := fwSet s rTirHeatCfg [(31, 16, 1), (7, 4, 0), (3, 0, 0)]
    fwSet s rTirFrameFloor [(27, 0, 0)]) u := by
  refine ⟨_, ?_, rfl, ?_⟩ <;> decide +kernel
theorem witness_set_neighbour : ∃ u, CommitsTo (held 0 0x0602 (atOne [] 8)) 0x20 1 (fun s =>
    fwSet s (rTirNbr 0) [(63, 63, 0), (47, 32, 0), (31, 19, 0)]) u := by
  refine ⟨_, ?_, rfl, ?_⟩ <;> decide +kernel
theorem witness_set_grant :
    (let s := held 0 0x0603 (grantArgs 0); grantOn (fwPut s (rTirGrantA 0) (putField (setting s (rTirGrantA 0)) 63 63 0)) 0 = false) ∧
    (let s := heldIn (tierOn 1 .ok id) 0 0x0603 (grantArgs 1); grantOn (fwPut (fwSet s (rTirGrantB 0) [(27, 0, 8)]) (rTirGrantA 0)
      (packFields [(63, 1), (32, 0), (0, 8)])) 0 = true) := by decide +kernel
theorem witness_move_request : let s := heldIn (tierOn 1 .ok id) 0 0x0604 [1, 0, 0, 0, 3, 0, 0, 0]
    (fwPut s rTirMoveCmd (packFields [(63, 1), (59, 1), (48, 0), (47, flag (decide (0 = 255))), (0, 3)])).tier.moveRes ≠ 2 := by
  decide +kernel
theorem witness_jig_request : (held 0 0x0605 (1 :: List.replicate 15 0)).tier.jigs[(1 : Fin 4)].busy = false := by decide +kernel
theorem witness_reclaim_cmd : let s := heldIn reclaiming 0 0x0607 [0]; s.tier.reclaim.isSome = false ∧
    (regWriteAt s 0x800 rTirReclaimCmd.off (BitVec.ofNat 64 (2 ^ 31)) { noEnv with far := [], frames := [] }).tier.reclRes ≠ 2 := by
  decide +kernel
theorem witness_grant_audit : grantOn (heldIn (granting fun t => { t with grantEn := 1 }) 0 0x060A (List.replicate 248 0)) 0 = true := by
  decide +kernel

def openArgs : List Byte := [16] ++ List.replicate 10 0 ++ [5] ++ List.replicate 68 0
def installArgs : List Byte := [16, 0, 6] ++ List.replicate 37 0
def connReqs : List (Nat × List Byte) :=
  [(0x0701, openArgs), (0x0702, [16, 0]), (0x0703, installArgs), (0x0704, [16, 0]), (0x0705, [16, 0]), (0x0706, [16, 0]),
   (0x0707, [0, 0, 0, 0, 1, 0, 0, 0] ++ List.replicate 8 0 ++ [64] ++ List.replicate 7 0), (0x0708, [0, 0]),
   (0x0709, [0, 0, 4] ++ List.replicate 21 0), (0x070A, List.replicate 24 0)]
theorem witness_tenon_requests : ∀ x ∈ connReqs, RequestHeld (held 0 x.1 x.2) 0 x.1 x.2.length (mbxReq x.1 x.2) ∧
    reqArgs (mbxReq x.1 x.2) = x.2 := by
  unfold RequestHeld
  decide +kernel
/-- Firmware holds the request, in its step `n`, with connection 16 in a mode. -/
def connHeld (m : ConnMode) (k : KeyMode) (op n : Nat) (args : List Byte) : State :=
  modMbx (heldIn (connAt m k) 0 op args) 0 fun b => { b with step := n }
def connPut (s : State) (op : Nat) : State := fwPut s rTenConnCmd (BitVec.ofNat 64 (2 ^ 31 + op))
def connGoes (s u : State) : Prop := (mbx s 0).step = 0 ∧ s.ten.closing = [] ∧ u.ten.closing = [] ∧ u.ten.connRes = 1
theorem witness_open_request : let s := connHeld .free .empty 0x0701 0 openArgs
    connGoes s (connPut (openStage s openArgs) 1) := by unfold connGoes; decide +kernel
theorem witness_install_request : let s := connHeld .opened .empty 0x0703 0 installArgs
    connGoes s (connPut (keyPut (selPut s installArgs) 6 0 installArgs 8) 3) := by unfold connGoes; decide +kernel
theorem witness_key_requests : ∀ x ∈ [(KeyMode.ready, 0x0704, 4), (.draining, 0x0705, 5), (.empty, 0x0706, 7)],
    let s := connHeld .opened x.1 x.2.1 0 [16, 0]
    connGoes s (connPut (selPut s [16, 0]) x.2.2) := by unfold connGoes; decide +kernel
theorem witness_close_request :
    (let s := modEng (connHeld .opened .empty 0x0702 0 [16, 0]) 0 fun g => { g with exec := [(16, mirSeg 0)] }
     (mbx s 0).step = 0 ∧ s.ten.closing = [] ∧
      (connPut (selPut s [16, 0]) 2).ten.closing ≠ []) ∧
    (let s := modTen (connHeld .free .empty 0x0702 1 [16, 0]) fun t => { t with connRes := 1 }
     (mbx s 0).step ≠ 0 ∧ s.ten.connRes = 1) := by decide +kernel
theorem witness_rkey_requests :
    (let s := connHeld .free .empty 0x0707 0 (connReqs[6].2)
     let u := fwPut s rTenRkeySel 0
     let u := fwPut u rTenRkeyBase 0
     let u := fwPut u rTenRkeySize 64
     let u := fwPut u rTenRkeyAttr (packFields [(16, 0), (8, 0), (0, 1)])
     (fwPut u rTenRkeyCmd (BitVec.ofNat 64 (2 ^ 31 + 1))).ten.rkeyRes = 1) ∧
    (let s := rkeyPut (connHeld .free .empty 0x0708 0 [0, 0]) 0 { Rkey.zero with mode := .valid }
     (mbx s 0).step = 0 ∧ (fwPut (fwPut s rTenRkeySel 0) rTenRkeyCmd (BitVec.ofNat 64 (2 ^ 31 + 2))).ten.rkeyRes = 1) ∧
    (let s := connHeld .free .empty 0x0708 1 [0, 0]; (mbx s 0).step ≠ 0 ∧
      ((rkeyRead s 0).any fun k => decide (k.mode = .invalid)) = true) := by decide +kernel

theorem witness_registers : (regFind 0x0).isSome = true ∧ (withPwr fun p => { p with rst := none }).pwr.rst = none ∧
    ((1 : BitVec 16) ≠ 0 ∧ (maskGroups 0xFFFF).any (isSched State.reset) = false) ∧
    (maskGroups 1).all (isSched (modCsr State.reset fun c => { c with sched := [(0, some 5)] })) = true ∧
    schedDue (modCsr beatUp fun c => { c with sched := [(0, some 0)] }) = some 0 := by decide

/-- Out of reset, with a valid Beat at a number of half nanoseconds. -/
def beatAt (n : Nat) : State := { withPwr (fun p => { p with rst := none }) with
  beat := { State.reset.beat with valid := true, half := n } }

theorem witness_beat : (withPwr fun p => { p with rst := none }).beat.valid = false ∧ (beatAt 0).beat.valid = true ∧
    (beatAt 0).pwr.rst = none ∧ (beatAt 0).beat.freerun = false ∧
    (2 * ((0 : Word64).toNat : Int) - ((beatAt 2049).beat.half : Int) < -2048) ∧
    (-2048 ≤ 2 * ((0 : Word64).toNat : Int) - ((beatAt 2048).beat.half : Int)) ∧
    (2 * ((0 : Word64).toNat : Int) - ((beatAt 5).beat.half : Int) < -4) ∧
    (-4 ≤ 2 * ((0 : Word64).toNat : Int) - ((beatAt 4).beat.half : Int)) ∧
    (2 * ((2 : Word64).toNat : Int) - ((beatAt 0).beat.half : Int) ≤ 4) ∧
    (4 < 2 * ((3 : Word64).toNat : Int) - ((beatAt 0).beat.half : Int)) := by decide
theorem witness_freerun : (beatAt 32001).beat.sync + 32000 < (beatAt 32001).beat.half ∧ (beatAt 32001).beat.freerun = false ∧
    (let s : State := { withPwr (fun p => { p with rst := none }) with beat := { State.reset.beat with fclk := 32001 } }
     s.beat.valid = false ∧ 32000 < s.beat.fclk ∧ s.beat.freerun = false) := by decide

theorem witness_events : evtUsed (1007 : Fin 1024).val = true ∧ beatUp.beat.valid = true ∧
    fieldOf (0 : Word32) 15 0 = sqSeq (smGet 0 State.reset.evt.sq 1023) := by decide

/-- An event of one record, and a state in which it waits for the journal. -/
def oneEvt : JrnEvt := { beat := 0, level := .normal, forced := false, src := 0, count := 1, details := [] }
def oneWaits : State := { State.reset with jrn := { State.reset.jrn with queue := [oneEvt] } }

/-- An open packet, within an event or not. -/
def openAt (mid : Bool) : OpenPkt :=
  { start := 0, part := [], words := 0, records := 0, level := .normal, midEvt := mid, closing := none, anchor := 0, opened := 0 }
def packetOpen (mid : Bool) : State := { State.reset with jrn := { State.reset.jrn with cur := some (openAt mid) } }

/-- A journal that holds one packet of one word. -/
def onePacket : State := { State.reset with
  jrn := { State.reset.jrn with pkts := [{ start := 0, words := 1, read := 0, records := 0, lenBad := false }] } }

theorem witness_journal : (oneWaits.jrn.queue = [oneEvt] ∧ oneWaits.jrn.chain.length + (chainOf oneEvt).length ≤ 16) ∧
    (packetOpen false).jrn.cur = some (openAt false) ∧ (openAt false).midEvt = false ∧
    (packetOpen true).jrn.cur = some (openAt true) ∧ (openAt true).midEvt = true ∧
    onePacket.jrn.pkts = [{ start := 0, words := 1, read := 0, records := 0, lenBad := false }] ∧
    State.reset.jrn.pkts = [] := by decide
theorem witness_close : closeDue { packetOpen false with beat := { State.reset.beat with valid := true, half := 200000000 } } = true ∧
    closeDue { packetOpen true with beat := { State.reset.beat with valid := true, half := 200000000 } } = true := by decide

theorem witness_power : stateRefusal (setFld (modPwr readyState fun p => { p with rst := none }) rPwrStateCmd 1 0 1) .powerDown = 0 ∧
    stateRefusal (setFld readyState rPwrStateCmd 1 0 3) .off = 0 ∧
    (withPwr fun p => { p with pfail := true, rst := none }).pwr.pfail = true ∧
    (withPwr fun p => { p with pfail := false, rst := none }).cure.drain = .none ∧
    (withCure fun x => { x with drain := .complete }).cure.drain = .complete ∧
    (modPwr (withCure fun x => { x with drain := .recorded }) fun p => { p with asked := true }).pwr.asked = true ∧
    (withPwr fun p => { p with cureWait := true }).pwr.cureWait = true ∧
    (withPwr fun p => { p with rst := some .porst }).pwr.rst ≠ none ∧ (withPwr fun p => { p with vkeep := false }).pwr.vkeep = false := by decide

theorem witness_drain : (pwrArm (pfailChans (cntInc (withPwr fun p => { p with pfail := true }) rPwrPfailCnt))).cure.drain = .none ∧
    (withCure fun x => { x with drain := .started }).pwr.cureWait = false ∧
    drainQuiet (vnrClean (withCure fun x => { x with drain := .started })) = true ∧
    allChans.all (fun c => (chan (withCure fun x => { x with drain := .recorded }) c).phy.run.isNone && (!drainChan (withCure fun x => { x with drain := .recorded }) c
      || chanEmpty (withCure fun x => { x with drain := .recorded }) c)) = true := by decide +kernel

theorem witness_front : ({ State.reset with pending := [.idleWrite 0 0, .cntClr] } : State).pending = .idleWrite 0 0 :: [.cntClr] := by decide
theorem witness_idle : State.reset.pending = [] ∧ State.reset.pwr.rst = none ∧ beatUp.beat.valid = true ∧ beatUp.beat.holdFor = 0 ∧
    (let s : State := { beatUp with beat := { beatUp.beat with holdFor := 4 } }
     s.pending = [] ∧ s.pwr.rst = none ∧ s.beat.valid = true ∧ 0 < s.beat.holdFor) ∧
    (withPwr fun p => { p with rst := some .srst }).pwr.rst.isSome = true := by decide
theorem witness_idle_freerun : freerunDue State.reset = false ∧ freerunDue beatUp = false ∧
    (let s : State := { State.reset with beat := { State.reset.beat with fclk := 32001 } }
     freerunDue s = true ∧ s.pwr.rst = none ∧ s.pending = []) := by decide
theorem witness_step_canonical : State.reset.Canonical ∧ step State.reset = .next (idle State.reset) := ⟨by unfold State.Canonical; decide, rfl⟩
theorem witness_frame : ∃ t, exec .cntClr State.reset = .next t := ⟨_, rfl⟩
theorem witness_positions : let j : Coord := ⟨15, 1, 31, 7, 3, 2 ^ 18 - 1, 127⟩; let k : Coord := ⟨0, 0, 0, 0, 0, 0, 0⟩
    j ≠ k ∧ j.chan < 16 ∧ j.sub < 2 ∧ j.rank < 32 ∧ j.bg < 8 ∧ j.ba < 4 ∧ j.row < 2 ^ 18 ∧ j.col < 128 := by decide
theorem witness_address_decode : lineIdxOf State.reset 0x1234567AC0 < chanLines State.reset := by decide +kernel

theorem witness_bad_address : ∀ x ∈ [(({ plainReq with addr := 1 } : FrpReq), MemOp.rdLine), ({ plainReq with addr := 2 ^ 47 }, .wrLine),
    ({ plainReq with addr := 12 }, .add8), ({ plainReq with addr := 64 }, .trim), ({ plainReq with addr := 1 }, .prefetch)],
    reqReady portUp 0 = true ∧ (port portUp 0).tags.contains x.1.tag.val = false ∧ x.1.mid.getLsbD 11 = false ∧
    flagsBad (some x.2) x.1 = false ∧ inDrain portUp = false ∧ x.1.lock = false ∧
    (x.1.addr.toNat % (match x.2 with | .add8 | .cas8 => 8 | .trim => 65536 | _ => 64) ≠ 0 ∨ lmsTop portUp ≤ x.1.addr.toNat) := by decide
theorem witness_masked : reqMasked State.reset 19 = true ∧ reqMasked State.reset 8 = true ∧ reqMasked portUp 0 = false ∧
    reqMasked State.reset 16 = false ∧ (port portUp 0).mode = .up ∧ (port portUp 1).mode = .down := by decide
theorem witness_line_outcomes : (decodeCw false [] (rawCw (encodeLine 5 true) 0)).kind = .poison ∧
    (decodeCw false [] (rawCw (encodeLine 5 false) 0)).kind = .clean ∧
    (decodeCw false [] (rawCw (encodeLine 5 false ^^^ 1) 0)).kind = .corrected ∧
    (decodeCw false [] (rawCw (encodeLine 5 false ^^^ (1 ||| (1 <<< 40) ||| (1 <<< 80) ||| (1 <<< 120) ||| (1 <<< 160))) 0)).kind = .uncorr := by
  decide +kernel
theorem witness_mailbox_layout : (2 : Nat) ≤ 252 ∧ 4 ≤ (mbxReq 0x0103 [1, 0]).length ∧ (3 : Nat) < 256 := by decide
theorem witness_canonical : State.reset.Canonical ∧ portUp.Canonical := by unfold State.Canonical; decide
/-- A write of ADM.LOCK_CFG above both ceilings, and one within them (R126). -/
theorem test_lock_ceilings : (let t := regWriteAt State.reset 0x800 0x40018 0x00FB0101 noEnv
    fld t rAdmLockCfg 23 16 = 250 ∧ fld t rAdmLockCfg 8 0 = 256) ∧
    (let t := regWriteAt State.reset 0x800 0x40018 0xFF0AFE05 noEnv; fld t rAdmLockCfg 23 16 = 10 ∧ fld t rAdmLockCfg 8 0 = 5) := by
  decide +kernel
/-- A write of SCH.TIM2 of channel 1 in HELD is pending (R166). -/
theorem test_pending_write : let s := modSch State.reset 1 fun q => { q with hold := .held }
    let t := regWriteAt s 0x800 0x140118 0x01020304 noEnv
    (smGet none t.csr.pendH 0x140118).map (·.setWidth 32) = some (0x01020304 : Word32) ∧ t.csr.val = s.csr.val ∧ chanPend t 1 = true ∧
    regWriteAt State.reset 0x800 0x140118 0x01020304 noEnv = ev State.reset (chEv 1 4) := by decide +kernel
theorem witness_cured : (∀ m : MState, ∃ s : State, s.cure.mstate = m) := fun m => ⟨mirState m id, rfl⟩

theorem witness_rc : ∃ h, regFind 0x48008 = some h ∧ regActs State.reset h = true ∧ accBits .rc h.desc ≠ 0 ∧
    (∃ g, regFind 0xA1204 = some g ∧ regActs State.reset g = true) := by
  exact ⟨_, rfl, by decide, by decide, _, rfl, by decide⟩
theorem witness_power_fail : let s : State := { portUp with pwr := { portUp.pwr with pfail := true } }
    reqReady s 0 = true ∧ (port s 0).tags.contains plainReq.tag.val = false ∧ plainReq.mid.getLsbD 11 = false ∧
    flagsBad (some .rdLine) plainReq = false ∧ flagsBad none plainReq = false ∧ inDrain s = true := by decide
theorem witness_collector : (withPwr fun p => { p with rst := some .srst }).pwr.rst.isSome = true ∧ State.reset.pwr.rst = none := by decide

theorem witness_retained : let s := modKeep portUp 2 fun k => { k with retained := true }
    trainAccepted s 2 = true ∧ (chan s 2).keep.retained = true ∧ devState s ≠ 2 ∧
    trainAccepted portUp 2 = true ∧ (chan portUp 2).keep.retained = false ∧
    devState (forEach allChans s fun s c => modSch s c fun q => { q with hold := .held, inDev := true }) = 2 := by decide
theorem witness_promote : let s := setFld (setFld (tierOn 2 .ok id) rTirCtl 31 31 1) rTirThresh 31 16 0
    rbit s rTirCtl 31 = true ∧ peState (pmapGet s 3) = 2 ∧ fld s rTirThresh 31 16 ≤ heatOf s 3 ∧ 3 ∉ s.tier.promoQ ∧
    s.tier.promoQ.length < 64 ∧ (modTier s fun t => { t with promoQ := [3] }).tier.promoQ = [3] := by decide

/-! Each check of WellFormed.lean refuses a command whose operand is out of range. -/

def noEnv : RegEnv := { far := [], frames := [], bad := 0 }
def noPoll : PollRead := { mr4 := [.x1], temps := [40], xfers := 0, fails := [] }
def noTrain : TrainEnd := { fail := none, pranks := 0, xfers := 0, lanes := [], vrefs := [], rfmReq := false, raaimt := 0, raammt := 0 }

theorem wf_polls_fail_within_transfers : Instr.wf (.tempPoll 0 noPoll) = true ∧
    Instr.wf (.tempPoll 0 { noPoll with fails := [⟨false, 0, 0⟩] }) = false ∧
    Instr.wf (.tempPoll 0 { noPoll with mr4 := List.replicate 33 .x1 }) = false := by decide
theorem wf_window_operands : Instr.wf (.windowStart 0 (2 ^ 64) 1 false) = false ∧
    Instr.wf (.windowStart 0 1 (2 ^ 32) false) = false := by decide
theorem wf_training_lanes : Instr.wf (.trainDone 0 { noTrain with lanes := List.replicate 321 ⟨0, 0, 0, 0, 0, 0, 0, 0, 0⟩ }) = false ∧
    Instr.wf (.trainDone 0 { noTrain with vrefs := List.replicate 81 ⟨0, 0, 0, 0⟩ }) = false ∧
    Instr.wf (.trainAbort 0 9 [] (List.replicate 81 ⟨0, 0, 0, 0⟩)) = false := by decide +kernel
theorem wf_retraining_reads : Instr.wf (.retrainWindow 0 (List.replicate 21 ⟨0, 0, 0⟩) [] false false) = false ∧
    Instr.wf (.retrainWindow 0 [] [⟨0, 0, false, 4, 5⟩] false false) = false := by decide
theorem wf_ecs_length : Instr.wf (.ecsPoll 0 (List.replicate 641 ⟨0, 0, 0, .none⟩)) = false := by decide +kernel
theorem wf_row_copy_columns : Instr.wf (.rowCopyDone 0 [(128, (0 : RawLine))]) = false := rfl
theorem wf_far_lines : Instr.wf (.attachPush [(2 ^ 42, 0)]) = false ∧ Instr.wf (.mirrorResend 0 [(1, 0), (1, 1)]) = false ∧
    Instr.wf (.jigStepStaged 0 [(2 ^ 42, 0)]) = false ∧ Instr.wf (.jigGo 0 [(1, 0), (1, 1)]) = false ∧
    Instr.wf (.jigStart 0 [(1, 0), (1, 1)]) = false ∧ Instr.wf (.txDatagram 0 [(1, 0), (1, 1)]) = false ∧
    Instr.wf (.noticePost 0 [(2 ^ 42, 0)]) = false := by decide
theorem wf_lent_frames : Instr.wf (.reclaimCmd 0 [] [2 ^ 28]) = false ∧ Instr.wf (.reclaimDone [] [7, 7]) = false ∧
    Instr.wf (.reclaim 0 [(1, 0), (1, 1)] []) = false := by decide
theorem wf_recast_lines : Instr.wf (.recastPanel (List.replicate 1025 none)) = false := by decide +kernel
theorem wf_datagrams : Instr.wf (.rxDatagram 0 .whole { someDatagram with udpLen := 2 ^ 16 }) = false ∧
    Instr.wf (.rxDatagram 0 .whole { someDatagram with body := List.replicate 4193 0 }) = false := by decide +kernel
theorem wf_journal_read : Instr.wf (.journalRead 0 (List.replicate 16 0)) = false := by decide
theorem wf_register_accesses : Instr.wf (.registerWrite 0 0 0 { noEnv with frames := [2 ^ 28] }) = false ∧
    Instr.wf (.regWrite 0 { noEnv with far := [(2 ^ 42, 0)] }) = false ∧
    Instr.wf (.regPortAccess true 0 0 { noEnv with frames := [7, 7] }) = false := by decide

end Sys2Proof.Tests
end

section
/-!
PROOFS. Requests of a port refused at their acceptance (R54): the address checks see the registers as they were before the
request was counted, a request refused changes no waiting queue and no Transaction Table entry, and its completion is placed in
the return buffer or kept until that has room.
-/
namespace Sys2Proof.Machine
open Sys2Proof

/-! Registers at other offsets, whatever the form of the register map. -/

/-- A write leaves the other keys of a sparse map that need not be canonical. -/
theorem smGet_smSet_ne {α : Type} [DecidableEq α] (d : α) (m : SMap α) {i j : Nat} (v : α) (h : j ≠ i) :
    smGet d (smSet d m i v) j = smGet d m j := by
  induction m with
  | nil =>
    unfold smSet
    split <;> simp [smGet, h]
  | cons e m ih =>
    obtain ⟨k, w⟩ := e
    unfold smSet
    split
    · split <;> simp [smGet, h]
    · split
      · next hik =>
        subst hik
        split <;> simp [smGet, h]
      · simp [smGet, ih]

theorem getReg_cntInc_ne (s : State) {r q : RegRef} (h : q.off ≠ r.off) : getReg (cntInc s r) q = getReg s q := by
  simp [getReg, cntInc, cntAdd, setReg, smGet_smSet_ne _ _ _ h]

theorem getReg_of_csr {s t : State} (h : t.csr = s.csr) (r : RegRef) : getReg t r = getReg s r := by
  unfold getReg
  rw [h]

/-! A request taken, and the checks that follow. -/

/-- The count of requests is no register of the address map. -/
theorem lmsTop_requestTaken (s : State) (p : Fin 8) (q : FrpReq) : lmsTop (requestTaken s p q) = lmsTop s := by
  have hoff : rMapLmsTop.off ≠ (rFrpReqCnt p.val).off := by
    simp only [rMapLmsTop, rFrpReqCnt]
    omega
  have hcsr : (requestTaken s p q).csr = (cntInc s (rFrpReqCnt p.val)).csr := modPort_csr ..
  unfold lmsTop fld
  rw [getReg_of_csr hcsr, getReg_cntInc_ne s hoff]

theorem requestTaken_mode (s : State) (p : Fin 8) (q : FrpReq) : (port (requestTaken s p q) p).mode = (port s p).mode := by
  unfold requestTaken
  rw [modPort_port]
  rfl

theorem addrBad_requestTaken (s : State) (p : Fin 8) (q : FrpReq) (op : MemOp) (a : Nat) :
    addrBad (requestTaken s p q) op a = addrBad s op a := by
  simp only [addrBad, lmsTop_requestTaken]

/-- A request whose tag is not outstanding is taken (R60). -/
theorem takeReq_of_tag_free {s : State} {p : Fin 8} (wr : Bool) {q : FrpReq}
    (h : (port s p).tags.contains q.tag.val = false) : takeReq s p wr q = (true, requestTaken s p q) := by
  have hp : port (cntInc s (rFrpReqCnt p.val)) p = port s p := port_of_ports (by simp) p
  simp only [takeReq, requestTaken, hp, h]
  rfl

theorem firstChecks_pass {s : State} (p : Fin 8) {op : Option MemOp} (nop : Bool) {q : FrpReq} (hmid : q.mid.getLsbD 11 = false)
    (hflags : flagsBad op q = false) (hdrain : inDrain s = false) : firstChecks s p op nop q = (none, s) := by
  simp only [firstChecks, hmid, hflags, hdrain, Bool.false_eq_true, if_false, Bool.false_and]

/-- A request that its port takes and that passes the first checks goes on to the checks of its address and its lock. -/
theorem acceptReq_eq_acceptMem {s : State} {p : Fin 8} {op : MemOp} {q : FrpReq} (err : RawLine) (hready : reqReady s p = true)
    (htag : (port s p).tags.contains q.tag.val = false) (hmid : q.mid.getLsbD 11 = false) (hflags : flagsBad (some op) q = false)
    (hdrain : inDrain s = false) : acceptReq s p op q err =
      acceptMem (requestTaken s p q) p (mkReq (requestTaken s p q) p op q) q.tag.val err := by
  simp only [acceptReq, hready, if_true, takeReq_of_tag_free _ htag,
    firstChecks_pass (s := requestTaken s p q) p false hmid hflags hdrain]

/-- A PREFETCH with a bad address completes OK at its acceptance and goes no further (R54, R55). -/
theorem acceptMem_bad_prefetch {s : State} (p : Fin 8) {r : Req} (tag : Nat) (err : RawLine)
    (hop : r.op = .prefetch) (hbad : addrBad s r.op r.addr.toNat = true) :
    acceptMem s p r tag err = portDone s p tag false .ok 0 := by
  simp only [acceptMem, hbad, if_true]
  simp [hop]

/-- Any other request with a bad address, outside a locked sequence, is refused with ERR_RANGE (R54). -/
theorem acceptMem_bad {s : State} (p : Fin 8) {r : Req} (tag : Nat) (err : RawLine) (hop : r.op ≠ .prefetch)
    (hlock : r.lock = false) (hbad : addrBad s r.op r.addr.toNat = true) :
    acceptMem s p r tag err = refuseAtPort (cntInc s rMapRangeErrCnt) p (isWriteOp r.op) tag .errRange := by
  simp [acceptMem, hbad, hop, hlock]

/-! The completion of a request that holds no Transaction Table entry. -/

/-- Port `p` has completed `tag` with `code`: the completion is in the return buffer, or is due once that has room. -/
def Completed (s : State) (p : Fin 8) (tag : Nat) (code : Code) : Prop :=
  (∃ c ∈ (port s p).cmpBuf, c.tag = tag ∧ c.code = code) ∨ (∃ d ∈ (port s p).due, d.tag = tag ∧ d.code = code)

/-- An event counted leaves the ports. -/
theorem port_doIf_cntInc (s : State) (b : Bool) (r : RegRef) (p : Fin 8) : port (doIf b (fun s => cntInc s r) s) p = port s p :=
  port_of_ports (by cases b <;> rfl) p

/-- Placing a completion adds it to the end of the return buffer. -/
theorem portPlace_cmpBuf (s : State) (p : Fin 8) (tag : Nat) (read : Bool) (code : Code) (data : LineData) :
    (port (portPlace s p tag read code data) p).cmpBuf = (port s p).cmpBuf ++ [⟨tag, code⟩] := by
  unfold portPlace
  simp only [modPort_port]
  split
  · rw [port_of_ports (ev_ports _ _), modPort_port, port_doIf_cntInc]
  · rw [port_doIf_cntInc]

/-- The NOPs that complete leave the completions before theirs in the return buffer. -/
theorem mem_cmpBuf_nopPump {s : State} {p : Fin 8} {c : Cmp} (h : c ∈ (port s p).cmpBuf) :
    c ∈ (port (nopPump s p) p).cmpBuf := by
  unfold nopPump forEach
  generalize (port s p).nops = ns
  induction ns generalizing s with
  | nil => exact h
  | cons n ns ih =>
    refine ih ?_
    dsimp only
    split
    · split
      · simp [portPlace_cmpBuf, h]
      · exact h
    · exact h

/-- While its port is UP, a request that completes without an entry has its completion placed or due (R52, R54). -/
theorem completed_portDone {s : State} {p : Fin 8} (tag : Nat) (read : Bool) (code : Code) (data : LineData)
    (hup : (port s p).mode = .up) : Completed (portDone s p tag read code data) p tag code := by
  by_cases hroom : portRoom s p (hasBeat read code) = true
  · have hplaced : portDone s p tag read code data = nopPump (portPlace s p tag read code data) p := by
      simp [portDone, portComplete, hup, hroom]
    rw [hplaced]
    exact .inl ⟨⟨tag, code⟩, mem_cmpBuf_nopPump (by simp [portPlace_cmpBuf]), rfl, rfl⟩
  · have hkept : portDone s p tag read code data = modPort s p fun x => { x with due := x.due ++ [⟨tag, read, code, data⟩] } := by
      simp [portDone, portComplete, hup, hroom]
    rw [hkept]
    exact .inr ⟨⟨tag, read, code, data⟩, by simp, rfl, rfl⟩

theorem dropBeat_mode (s : State) (p : Fin 8) : (port (dropBeat s p) p).mode = (port s p).mode := by
  unfold dropBeat
  split
  · unfold beatOut
    split <;> simp
  · simp

/-- A request refused while its port is UP completes with the code of its refusal. -/
theorem completed_refuseAtPort {s : State} {p : Fin 8} (wr : Bool) (tag : Nat) (code : Code) (hup : (port s p).mode = .up) :
    Completed (refuseAtPort s p wr tag code) p tag code := by
  refine completed_portDone _ _ _ _ ?_
  rw [port_doIf_cntInc]
  cases wr with
  | true => exact (dropBeat_mode s p).trans hup
  | false => exact hup

/-! A completion at the port leaves admission and the Transaction Table alone. -/

/-- The parts that a request refused by its port can change. -/
def refusalParts : Part → Bool := [Part.csr, .evt, .jrn, .ports].contains

theorem allow_refusalParts : Allow refusalParts [.csr, .evt, .jrn, .ports] := fun _ hk => List.contains_iff_mem.2 hk

theorem requestTaken_kept (s : State) (p : Fin 8) (q : FrpReq) : Kept refusalParts s (requestTaken s p q) :=
  modPort_kept (allow_refusalParts.mono rfl) (cntInc_kept (allow_refusalParts.mono rfl) (.refl s) _) p _

/-! The requests of the obligation. -/

/-- The requests of a port that carry an address: the command, its operation and the alignment of the address (R53). -/
def addressedRequests (p : Fin 8) (q : FrpReq) (err : RawLine) : List (Instr × MemOp × Nat) :=
  [(.rdLine p q err, .rdLine, 64), (.rdPart p q err, .rdPart, 64), (.wrLine p q, .wrLine, 64),
    (.wrPart p q, .wrPart, 64), (.atomAdd8 p q, .add8, 8), (.atomCas8 p q, .cas8, 8), (.trim p q, .trim, 65536),
    (.prefetch p q err, .prefetch, 64)]

/-- Each of them is presented to its port as its operation, and is checked against its own alignment. -/
theorem exec_addressedRequests {p : Fin 8} {q : FrpReq} {err : RawLine} {i : Instr} {op : MemOp} {align : Nat}
    (h : (i, op, align) ∈ addressedRequests p q err) (s : State) :
    (∃ e, exec i s = .next (acceptReq s p op q e)) ∧
      ∀ a, addrBad s op a = (decide (a % align ≠ 0) || decide (lmsTop s ≤ a)) := by
  simp only [addressedRequests, List.mem_cons, Prod.mk.injEq, List.not_mem_nil, or_false] at h
  rcases h with ⟨rfl, rfl, rfl⟩ | ⟨rfl, rfl, rfl⟩ | ⟨rfl, rfl, rfl⟩ | ⟨rfl, rfl, rfl⟩ | ⟨rfl, rfl, rfl⟩ | ⟨rfl, rfl, rfl⟩ |
    ⟨rfl, rfl, rfl⟩ | ⟨rfl, rfl, rfl⟩ <;> exact ⟨⟨_, rfl⟩, fun _ => rfl⟩

/-- What a request with a bad address, taken by its port, leaves: its completion, with nothing admitted and nothing queued. -/
theorem acceptMem_bad_completes {s : State} {p : Fin 8} {r : Req} (tag : Nat) (err : RawLine) (hup : (port s p).mode = .up)
    (hlock : r.lock = false) (hbad : addrBad s r.op r.addr.toNat = true) :
    Kept refusalParts s (acceptMem s p r tag err) ∧
      Completed (acceptMem s p r tag err) p tag (if r.op = .prefetch then .ok else .errRange) := by
  by_cases hop : r.op = .prefetch
  · rw [acceptMem_bad_prefetch p tag err hop hbad, if_pos hop]
    exact ⟨portDone_kept allow_refusalParts (.refl s) .., completed_portDone _ _ _ _ hup⟩
  · rw [acceptMem_bad p tag err hop hlock hbad, if_neg hop]
    exact ⟨refuseAtPort_kept allow_refusalParts (cntInc_kept (allow_refusalParts.mono rfl) (.refl s) _) ..,
      completed_refuseAtPort _ _ _ hup⟩

/-- Settles O47: whichever condition makes the address bad, the check of R54 sees it after the request is counted; the request
then completes at its port, which works on the registers, the events, the journal and the ports alone. -/
theorem badAddressesAreRefused : Obligations.BadAddressesAreRefused := by
  unfold Obligations.BadAddressesAreRefused
  intro s p q err i op align hi hready htag hmid hflags hdrain hlock haddr code
  obtain ⟨⟨e, hexec⟩, halign⟩ := exec_addressedRequests hi s
  have hup : (port s p).mode = .up := by
    simp only [reqReady, Bool.and_eq_true, decide_eq_true_eq] at hready
    exact hready.1
  have hbad : addrBad (requestTaken s p q) op q.addr.toNat = true := by
    rw [addrBad_requestTaken, halign]
    simp only [Bool.or_eq_true, decide_eq_true_eq]
    omega
  obtain ⟨hkept, hdone⟩ := acceptMem_bad_completes (r := mkReq (requestTaken s p q) p op q) q.tag.val e
    ((requestTaken_mode s p q).trans hup) hlock hbad
  rw [acceptReq_eq_acceptMem e hready htag hmid hflags hdrain] at hexec
  have hall := (requestTaken_kept s p q).trans hkept
  exact ⟨_, hexec, congrArg AdmSt.wait (hall.same .adm rfl), hall.same .tt rfl, hdone⟩

end Sys2Proof.Machine
end

section
/-!
PROOFS. Panels, lines and regions of LMS addresses (R87): the shifts and remainders that the model computes are the bit fields
that the rule names, and the panels of a region are 256 in a row.
-/
namespace Sys2Proof.Machine
open Sys2Proof

/-- The field from bit `lo` up to the top bit of an address is the address shifted; nothing is cut off above. -/
theorem toNat_extractLsb_msb {w : Nat} (a : BitVec (w + 1)) {lo : Nat} (h : lo ≤ w) :
    (a.extractLsb w lo).toNat = a.toNat >>> lo := by
  have hlt : a.toNat >>> lo < 2 ^ (w - lo + 1) := by
    have hwidth : w - lo + 1 + lo = w + 1 := by omega
    rw [Nat.shiftRight_eq_div_pow, Nat.div_lt_iff_lt_mul (Nat.two_pow_pos lo), ← Nat.pow_add, hwidth]
    exact a.isLt
  rw [BitVec.extractLsb_toNat, Nat.mod_eq_of_lt hlt]

theorem panelOf_toNat (a : BitVec 48) : panelOf a.toNat = (a.extractLsb 47 16).toNat :=
  (toNat_extractLsb_msb a (by decide)).symm

theorem panelLine_toNat (a : BitVec 48) : panelLine a.toNat = (a.extractLsb 15 6).toNat :=
  (BitVec.extractLsb_toNat 15 6 a).symm

theorem panelLine_lt (a : Nat) : panelLine a < 1024 :=
  Nat.mod_lt _ (by decide)

/-- The region of an address is 16 MiB large. -/
theorem regionOf16_panelOf (a : Nat) : regionOf16 (panelOf a) = a >>> 24 := by
  unfold regionOf16 panelOf
  exact (Nat.shiftRight_eq_div_pow (a >>> 16) 8).symm.trans (Nat.shiftRight_add a 16 8).symm

theorem regionOf16_panelOf_toNat (a : BitVec 48) : regionOf16 (panelOf a.toNat) = (a.extractLsb 47 24).toNat :=
  (regionOf16_panelOf _).trans (toNat_extractLsb_msb a (by decide)).symm

/-- A region holds the 256 panels that follow its first. -/
theorem regionOf16_eq_iff (p r : Nat) : regionOf16 p = r ↔ ∃ k < 256, p = 256 * r + k := by
  unfold regionOf16
  constructor
  · rintro rfl
    exact ⟨p % 256, Nat.mod_lt _ (by decide), (Nat.div_add_mod p 256).symm⟩
  · rintro ⟨k, hk, rfl⟩
    omega

/-- Settles O51: the fields of an address are its shifts and remainders, and the worked example is computed. -/
theorem panelsAndLines : Obligations.PanelsAndLines := by
  unfold Obligations.PanelsAndLines
  have hexample : panelOf 0x1234567AC0 = 0x123456 ∧ panelLine 0x1234567AC0 = 0x1EB ∧
      regionOf16 (panelOf 0x1234567AC0) = 0x1234 := by decide
  exact ⟨fun a => ⟨panelOf_toNat a, panelLine_toNat a, panelLine_lt _, regionOf16_panelOf_toNat a⟩, regionOf16_eq_iff, hexample⟩

end Sys2Proof.Machine
end

section
/-!
PROOFS. Liveness masking (R119): when each requester is masked, and that a masked requester's request is not eligible.
-/
namespace Sys2Proof.Machine
open Sys2Proof

/-- A port is masked while it is in QUIESCE or DOWN. -/
theorem reqMasked_port_iff (s : State) {r : Fin 20} (h : r.val < 8) :
    reqMasked s r = true ↔ (port s ⟨r.val, h⟩).mode = .quiesce ∨ (port s ⟨r.val, h⟩).mode = .down := by
  simp only [reqMasked, h, dif_pos, decide_eq_true_eq]
  cases (port s ⟨r.val, h⟩).mode <;> decide

/-- A Tenon engine is masked while no Segment Port is up. -/
theorem reqMasked_tenon_iff (s : State) {e : Fin 20} (hlo : 8 ≤ e.val) (hhi : e.val < 16) :
    reqMasked s e = true ↔ ∀ g : Fin 4, s.ten.segs[g].up = false := by
  have hport : ¬ e.val < 8 := by omega
  simp only [reqMasked, hport, hhi, dif_neg, if_pos, not_false_eq_true]
  rw [Vector.all_toList]
  simp [Fin.forall_iff]

/-- Of the block's own engines the Armature alone is masked, and only while it does not run. -/
theorem reqMasked_engine (s : State) {e : Fin 20} (h : 16 ≤ e.val) :
    reqMasked s e = (decide (e = 19) && decide (s.arm.mode ≠ .running)) := by
  have hport : ¬ e.val < 8 := by omega
  have htenon : ¬ e.val < 16 := by omega
  simp only [reqMasked, hport, htenon, dif_neg, if_neg, not_false_eq_true]

theorem reqMasked_armature_iff (s : State) : reqMasked s 19 = true ↔ s.arm.mode ≠ .running := by
  rw [reqMasked_engine s (by decide)]
  simp

/-- Joiner, Rasp and Casting are never masked. -/
theorem not_reqMasked_joiner_rasp_casting (s : State) {e : Fin 20} (hlo : 16 ≤ e.val) (hhi : e.val < 19) :
    reqMasked s e = false := by
  have harm : e ≠ 19 := by rintro rfl; exact absurd hhi (by decide)
  simp [reqMasked_engine s hlo, harm]

/-- The masking is one of the conditions of eligibility, and a masked requester's access or raw access fails it. -/
theorem eligible_false_of_masked {s : State} {r : Req} (pool : Fin 16) (hsrc : 8 ≤ r.src.val)
    (hmasked : reqMasked s r.src = true) (hkind : r.kind = .access ∨ r.kind = .raw) : eligible s pool r = false := by
  have hport : ¬ r.src.val < 8 := Nat.not_lt.mpr hsrc
  have hown : ¬ (r.kind ≠ .access ∧ r.kind ≠ .raw) := fun hother => hkind.elim hother.1 hother.2
  have hmask : (!reqMasked s r.src || decide (r.src.val < 8) || decide (r.kind ≠ .access ∧ r.kind ≠ .raw)) = false := by
    rw [hmasked, decide_eq_false hport, decide_eq_false hown]
    rfl
  simp only [eligible, hmask, Bool.and_false, Bool.false_and]

/-- A read of the Armature's. -/
def armatureRead : Req :=
  { rid := 0, src := 19, eng := 0, op := .rdLine, addr := 64, mask := 0, data := 0, hasData := true, poison := false, mid := 3
    qos := 0, rt := false, lock := false, lockEnd := false, pool := 0, dest := .drop, kind := .access, since := none }

/-- Masking alone decides: the Armature's read becomes eligible when the Armature runs. -/
theorem witness_armature_masked :
    reqMasked State.reset 19 = true ∧ eligible State.reset 0 armatureRead = false ∧
    (let running : State := { State.reset with arm := { State.reset.arm with mode := .running } }
     reqMasked running 19 = false ∧ eligible running 0 armatureRead = true) := by decide

/-- A write whose beat has arrived is eligible while its port is DOWN (R71). -/
theorem witness_port_write_stays :
    reqMasked State.reset 0 = true ∧ eligible State.reset 0 { armatureRead with src := 0, op := .wrLine } = true := by decide

/-- Settles O48: the requesters in four groups, and the masking among the conditions of eligibility (R119). -/
theorem maskedRequesters : Obligations.MaskedRequesters := by
  unfold Obligations.MaskedRequesters
  intro s
  exact ⟨fun p => reqMasked_port_iff s p.isLt, fun _ hlo hhi => reqMasked_tenon_iff s hlo hhi, reqMasked_armature_iff s,
    fun _ hlo hhi => not_reqMasked_joiner_rasp_casting s hlo hhi,
    fun _ pool hsrc hmasked hkind => eligible_false_of_masked pool hsrc hmasked hkind⟩

end Sys2Proof.Machine
end

section
/-!
PROOFS. A line's outcome (R238): the order in which the outcomes of its two codewords decide it, and a codeword in which
erasures alone were filled.
-/
namespace Sys2Proof.Machine
open Sys2Proof

/-! The outcome of a line, in the order of R238. -/

theorem lineKind_of_poison {a b : DecKind} (h : a = .poison ∨ b = .poison) : lineKind a b = .poison :=
  if_pos h

theorem lineKind_of_uncorr {a b : DecKind} (ha : a ≠ .poison) (hb : b ≠ .poison) (h : a = .uncorr ∨ b = .uncorr) :
    lineKind a b = .uncorr := by
  unfold lineKind
  rw [if_neg (not_or.2 ⟨ha, hb⟩), if_pos h]

/-- With neither codeword poisoned or uncorrectable, a correction in either one decides. -/
theorem lineKind_of_readable {a b : DecKind} (ha : a ≠ .poison) (hb : b ≠ .poison) (ha' : a ≠ .uncorr) (hb' : b ≠ .uncorr) :
    lineKind a b = if a = .corrected ∨ b = .corrected then .corrected else .clean := by
  unfold lineKind
  rw [if_neg (not_or.2 ⟨ha, hb⟩), if_neg (not_or.2 ⟨ha', hb'⟩)]

theorem lineKind_eq_corrected_iff {a b : DecKind} (ha : a ≠ .poison) (hb : b ≠ .poison) (ha' : a ≠ .uncorr) (hb' : b ≠ .uncorr) :
    lineKind a b = .corrected ↔ a = .corrected ∨ b = .corrected := by
  rw [lineKind_of_readable ha hb ha' hb']
  by_cases h : a = .corrected ∨ b = .corrected
  · rw [if_pos h]
    exact iff_of_true rfl h
  · rw [if_neg h]
    exact iff_of_false (by decide) h

/-- A readable codeword that was not corrected is clean. -/
theorem eq_clean_iff_ne_corrected {a : DecKind} (ha : a ≠ .poison) (ha' : a ≠ .uncorr) : a = .clean ↔ a ≠ .corrected := by
  cases a with
  | clean | corrected => decide
  | poison => exact absurd rfl ha
  | uncorr => exact absurd rfl ha'

theorem lineKind_eq_clean_iff {a b : DecKind} (ha : a ≠ .poison) (hb : b ≠ .poison) (ha' : a ≠ .uncorr) (hb' : b ≠ .uncorr) :
    lineKind a b = .clean ↔ a = .clean ∧ b = .clean := by
  rw [lineKind_of_readable ha hb ha' hb', eq_clean_iff_ne_corrected ha ha', eq_clean_iff_ne_corrected hb hb', ← not_or]
  by_cases h : a = .corrected ∨ b = .corrected
  · rw [if_pos h]
    exact iff_of_false (by decide) (not_not_intro h)
  · rw [if_neg h]
    exact iff_of_true rfl h

theorem decodeLine_kind (x8 : Bool) (marks : List Nat) (raw : RawLine) : (decodeLine x8 marks raw).kind =
    lineKind (decodeCw x8 marks (rawCw raw 0)).kind (decodeCw x8 marks (rawCw raw 1)).kind := rfl

/-! The outcome of a codeword decoded within the bounds. -/

/-- Only corrected symbols outside the erasures count as a correction (R236, R238). -/
theorem decodeCw_kind_of_rsBounded {x8 : Bool} {marks cw c us : List Nat} (h : rsBounded x8 marks cw = some (c, us)) :
    (decodeCw x8 marks cw).kind = if us.isEmpty then .clean else .corrected := by
  simp only [decodeCw, h]

/-- A line whose symbol 0 of codeword 0, of chip 0, is wrong. -/
def wrongInChip0 : RawLine := encodeLine 5 false ^^^ 1

/-- The wrong symbol is filled as an erasure once chip 0 is marked, and is a correction while it is not. -/
theorem witness_erasures_filled :
    rawCw wrongInChip0 0 ≠ rawCw (encodeLine 5 false) 0 ∧
    rsBounded false [0] (rawCw wrongInChip0 0) = some (rawCw (encodeLine 5 false) 0, []) ∧
    (decodeLine false [0] wrongInChip0).kind = .clean ∧ (decodeLine false [] wrongInChip0).kind = .corrected := by decide +kernel

/-- Settles O49: a line takes the first of R238's outcomes that either codeword has, and a codeword with no corrected symbol
outside the erasures is clean. -/
theorem lineOutcomes : Obligations.LineOutcomes := by
  unfold Obligations.LineOutcomes
  intro x8 marks raw a b line
  have hline : line.kind = lineKind a.kind b.kind := decodeLine_kind x8 marks raw
  rw [hline]
  exact ⟨lineKind_of_poison, lineKind_of_uncorr,
    fun ha hb ha' hb' => ⟨lineKind_eq_corrected_iff ha hb ha' hb', lineKind_eq_clean_iff ha hb ha' hb'⟩,
    fun _ _ h => decodeCw_kind_of_rsBounded h⟩

end Sys2Proof.Machine
end

section
/-!
PROOFS. The layouts of mailbox requests and responses (R424): a number's bytes read back as the number, and a field of a buffer
built of parts is read from the part it lies in.
-/
namespace Sys2Proof.Machine
open Sys2Proof

/-! A number and its bytes. -/

/-- Bytes that stand `k` places further up weigh `256 ^ k` times as much. -/
theorem sum_zipIdx (bs : List Byte) (k : Nat) : ((bs.zipIdx k).map fun x => x.1.toNat * 256 ^ x.2).sum = 256 ^ k * leNum bs := by
  induction bs generalizing k with
  | nil => rfl
  | cons b bs ih =>
    rw [leNum]
    simp only [List.zipIdx_cons, List.map_cons, List.sum_cons, ih]
    rw [Nat.pow_succ, Nat.zero_add, Nat.pow_one, Nat.pow_zero, Nat.mul_one, Nat.mul_add, Nat.mul_assoc, Nat.mul_comm b.toNat]

theorem leNum_singleton (b : Byte) : leNum [b] = b.toNat :=
  Nat.mul_one b.toNat

theorem leNum_append (xs ys : List Byte) : leNum (xs ++ ys) = leNum xs + 256 ^ xs.length * leNum ys := by
  rw [leNum, List.zipIdx_append, List.map_append, List.sum_append, sum_zipIdx ys, Nat.zero_add, ← leNum]

theorem length_leBytes (n x : Nat) : (leBytes n x).length = n := by
  rw [leBytes, List.length_map, List.length_range]

theorem leBytes_succ (n x : Nat) : leBytes (n + 1) x = leBytes n x ++ [BitVec.ofNat 8 (x / 256 ^ n)] := by
  simp only [leBytes, List.range_succ, List.map_append, List.map_singleton]

/-- The bytes of a number hold it as far as they reach. -/
theorem leNum_leBytes (n x : Nat) : leNum (leBytes n x) = x % 256 ^ n := by
  induction n with
  | zero => exact (Nat.mod_one x).symm
  | succ n ih =>
    rw [leBytes_succ, leNum_append, ih, length_leBytes, leNum_singleton, BitVec.toNat_ofNat]
    exact Nat.mod_pow_succ.symm

/-! Fields of a buffer. -/

theorem argN_append_left {xs : List Byte} {off n : Nat} (ys : List Byte) (h : off + n ≤ xs.length) :
    argN (xs ++ ys) off n = argN xs off n := by
  rw [argN, argN, List.drop_append_of_le_length (by omega), List.take_append_of_le_length (by rw [List.length_drop]; omega)]

theorem argN_append_right {xs : List Byte} {off : Nat} (ys : List Byte) (n : Nat) (h : xs.length ≤ off) :
    argN (xs ++ ys) off n = argN ys (off - xs.length) n := by
  rw [argN, argN, List.drop_append, List.drop_eq_nil_of_le h, List.nil_append]

theorem argN_take {off n k : Nat} (bs : List Byte) (h : off + n ≤ k) : argN (bs.take k) off n = argN bs off n := by
  rw [argN, argN, List.drop_take, List.take_take, Nat.min_eq_left (by omega)]

theorem argN_leBytes (n x : Nat) : argN (leBytes n x) 0 n = x % 256 ^ n := by
  rw [argN, List.drop_zero, List.take_of_length_le (Nat.le_of_eq (length_leBytes n x)), leNum_leBytes]

theorem argN_head (b : Byte) (bs : List Byte) : argN (b :: bs) 0 1 = b.toNat :=
  leNum_singleton b

theorem argN_cons (b : Byte) (bs : List Byte) (off n : Nat) : argN (b :: bs) (off + 1) n = argN bs off n := rfl

/-! The request. -/

section Request
variable (op : BitVec 16) (tag len : Byte) (body : List Byte)

theorem argN_request_opcode : argN (leBytes 2 op.toNat ++ (tag :: len :: body)) 0 2 = op.toNat := by
  rw [argN_append_left _ (Nat.le_of_eq (length_leBytes 2 _).symm), argN_leBytes]
  exact Nat.mod_eq_of_lt op.isLt

/-- A field after the opcode is a field of the bytes that follow it. -/
theorem argN_request_rest (off n : Nat) : argN (leBytes 2 op.toNat ++ body) (off + 2) n = argN body off n := by
  rw [argN_append_right _ _ (by have := length_leBytes 2 op.toNat; omega), length_leBytes, Nat.add_sub_cancel]

theorem argN_request_tag : argN (leBytes 2 op.toNat ++ (tag :: len :: body)) 2 1 = tag.toNat := by
  rw [argN_request_rest op _ 0, argN_head]

theorem argN_request_length : argN (leBytes 2 op.toNat ++ (tag :: len :: body)) 3 1 = len.toNat := by
  rw [argN_request_rest op _ 1, argN_cons, argN_head]

theorem reqArgs_request : reqArgs (leBytes 2 op.toNat ++ (tag :: len :: body)) = body.take len.toNat := by
  rw [reqArgs, argN_request_length, List.drop_append, List.drop_eq_nil_of_le (by have := length_leBytes 2 op.toNat; omega),
    length_leBytes]
  rfl

end Request

/-! The response. -/

section Response
variable {req : List Byte} (status : Nat) (data : List Byte) (h : 4 ≤ req.length)
include h

theorem length_echo : (req.take 3).length = 3 := by
  rw [List.length_take]
  omega

/-- The first three bytes are the request's. -/
theorem argN_mbxBytes_echo {off n : Nat} (hn : off + n ≤ 3) : argN (mbxBytes req status data) off n = argN req off n := by
  rw [mbxBytes, List.append_assoc, argN_append_left _ (by have := length_echo h; omega), argN_take _ hn]

/-- A field after the echo is a field of the rest. -/
theorem argN_mbxBytes_rest (off n : Nat) : argN (mbxBytes req status data) (off + 3) n =
    argN (BitVec.ofNat 8 status :: BitVec.ofNat 8 data.length :: 0 :: 0 :: 0 :: data) off n := by
  rw [mbxBytes, List.append_assoc, argN_append_right _ _ (by have := length_echo h; omega), length_echo h, Nat.add_sub_cancel]
  rfl

theorem argN_mbxBytes_status : argN (mbxBytes req status data) 3 1 = status % 256 := by
  rw [argN_mbxBytes_rest status data h 0, argN_head, BitVec.toNat_ofNat]

theorem argN_mbxBytes_length : argN (mbxBytes req status data) 4 1 = data.length % 256 := by
  rw [argN_mbxBytes_rest status data h 1, argN_cons, argN_head, BitVec.toNat_ofNat]

theorem argN_mbxBytes_zero : argN (mbxBytes req status data) 5 3 = 0 := by
  rw [argN_mbxBytes_rest status data h 2, argN_cons, argN_cons]
  rfl

theorem drop_mbxBytes : (mbxBytes req status data).drop 8 = data := by
  rw [mbxBytes, List.append_assoc, List.drop_append, List.drop_eq_nil_of_le (by have := length_echo h; omega), length_echo h]
  rfl

theorem length_mbxBytes : (mbxBytes req status data).length = 8 + data.length := by
  rw [mbxBytes, List.length_append, List.length_append, length_echo h]
  rfl

end Response

/-- Settles O50: the opcode's two bytes and each byte of the header read back, the arguments are as many bytes as their length
says, and a response repeats its request's first three bytes. -/
theorem mailboxLayouts : Obligations.MailboxLayouts := by
  unfold Obligations.MailboxLayouts
  constructor
  · intro op tag args tail hargs req
    have hreq : req = leBytes 2 op.toNat ++ (tag :: BitVec.ofNat 8 args.length :: (args ++ tail)) := by
      simp only [req, List.append_assoc, List.cons_append, List.nil_append]
    have hlen : (BitVec.ofNat 8 args.length).toNat = args.length := by
      rw [BitVec.toNat_ofNat]
      omega
    rw [hreq]
    refine ⟨argN_request_opcode .., argN_request_tag .., (argN_request_length ..).trans hlen, ?_⟩
    rw [reqArgs_request, hlen, List.take_left]
  · intro req status data hreq hstatus hdata rsp
    refine ⟨argN_mbxBytes_echo status data hreq (by decide), argN_mbxBytes_echo status data hreq (by decide), ?_, ?_,
      argN_mbxBytes_zero status data hreq, drop_mbxBytes status data hreq, ?_⟩
    · rw [argN_mbxBytes_status status data hreq, Nat.mod_eq_of_lt hstatus]
    · rw [argN_mbxBytes_length status data hreq, Nat.mod_eq_of_lt (by omega)]
    · rw [length_mbxBytes status data hreq]
      omega

end Sys2Proof.Machine
end

section
/-!
PROOFS. The machine as a whole: every command answers a next state and keeps what is not its own, and so does the idle step; the
stored maps stay canonical.
-/
namespace Sys2Proof.Machine
open Sys2Proof

/-! One step. -/

theorem step_cons {s : State} {c : Instr} {rest : List Instr} (h : s.pending = c :: rest) :
    step s = exec c { s with pending := rest } := by
  unfold step
  rw [h]

theorem step_nil {s : State} (h : s.pending = []) : step s = .next (idle s) := by
  unfold step
  rw [h]

/-- Every arm of the dispatch answers a next state. -/
theorem exec_next (c : Instr) (s : State) : ∃ t, exec c s = .next t := by
  cases c <;> exact ⟨_, rfl⟩

theorem step_next (s : State) : ∃ t, step s = .next t := by
  cases h : s.pending with
  | nil => exact ⟨_, step_nil h⟩
  | cons c rest => exact step_cons h ▸ exec_next c _

/-- Every command keeps what its own lemma of Laws/Touch.lean says. -/
theorem exec_kept {c : Instr} {s t : State} (h : exec c s = .next t) : Kept (touches c).contains s t := by
  cases c with
  | nop => exact nop_touches _ _ h
  | rdLine => exact rdLine_touches _ _ _ h
  | rdPart => exact rdPart_touches _ _ _ h
  | wrLine => exact wrLine_touches _ _ h
  | wrPart => exact wrPart_touches _ _ h
  | atomAdd8 => exact atomAdd8_touches _ _ h
  | atomCas8 => exact atomCas8_touches _ _ h
  | trim => exact trim_touches _ _ h
  | cureFence => exact cureFence_touches _ _ h
  | prefetch => exact prefetch_touches _ _ _ h
  | reservedOpcode => exact reservedOpcode_touches _ _ _ h
  | wdBeat => exact wdBeat_touches _ _ _ h
  | rdBeatTransfer => exact rdBeatTransfer_touches _ h
  | cmpTransfer => exact cmpTransfer_touches _ h
  | ntcTransfer => exact ntcTransfer_touches h
  | frpLiveLow => exact frpLiveLow_touches _ h
  | frpLiveHigh => exact frpLiveHigh_touches _ h
  | portQuiesceDone => exact portQuiesceDone_touches _ h
  | frpCtlWrite => exact frpCtlWrite_touches _ _ _ h
  | poolSelect => exact poolSelect_touches _ _ _ h
  | lockCeiling => exact lockCeiling_touches _ h
  | prefetchDrop => exact prefetchDrop_touches _ _ h
  | waitLong => exact waitLong_touches _ _ h
  | hwClr => exact hwClr_touches h
  | schedIssue => exact schedIssue_touches _ h
  | wdrainEval => exact wdrainEval_touches _ h
  | urgencyTick => exact urgencyTick_touches _ h
  | idleWrite => exact idleWrite_touches _ _ h
  | pageIdleClose => exact pageIdleClose_touches _ _ h
  | queueEntry => exact queueEntry_touches _ h
  | rankPowerDown => exact rankPowerDown_touches _ _ h
  | channelSrEntry => exact channelSrEntry_touches _ h
  | srWake => exact srWake_touches _ h
  | chHold => exact chHold_touches _ h
  | chHoldRelease => exact chHoldRelease_touches _ h
  | chHeld => exact chHeld_touches _ h
  | holdExpired => exact holdExpired_touches _ h
  | chReleased => exact chReleased_touches _ h
  | devHold => exact devHold_touches h
  | devRelease => exact devRelease_touches h
  | refreshSlot => exact refreshSlot_touches _ _ h
  | catchupRefresh => exact catchupRefresh_touches _ _ h
  | backstopTick => exact backstopTick_touches _ _ h
  | refBackstop => exact refBackstop_touches _ _ h
  | tempPoll => exact tempPoll_touches _ _ h
  | tempRate => exact tempRate_touches _ h
  | granChanged => exact granChanged_touches _ h
  | windowStart => exact windowStart_touches _ _ _ _ h
  | neighbourRefresh => exact neighbourRefresh_touches _ h
  | dstTableClear => exact dstTableClear_touches _ h
  | rfmIssue => exact rfmIssue_touches _ _ h
  | trainCold => exact trainCold_touches _ h
  | trainWarm => exact trainWarm_touches _ h
  | trainRetrain => exact trainRetrain_touches _ h
  | trainDone => exact trainDone_touches _ _ h
  | trainAbort => exact trainAbort_touches _ _ _ _ h
  | handover => exact handover_touches _ h
  | takeback => exact takeback_touches _ h
  | discard => exact discard_touches _ h
  | clrLost => exact clrLost_touches _ h
  | phyAlert => exact phyAlert_touches _ _ h
  | retrainWindow => exact retrainWindow_touches _ _ _ _ _ h
  | probeDwell => exact probeDwell_touches _ h
  | probeDwellEnd => exact probeDwellEnd_touches _ h
  | prbAbort => exact prbAbort_touches _ _ h
  | sbTransfer => exact sbTransfer_touches _ _ _ h
  | sbDone => exact sbDone_touches _ _ h
  | markSlotSet => exact markSlotSet_touches _ _ _ _ h
  | markSlotClear => exact markSlotClear_touches _ _ _ h
  | ceWindowEnd => exact ceWindowEnd_touches _ h
  | dramDecode => exact dramDecode_touches _ _ h
  | x8Trial => exact x8Trial_touches _ _ _ h
  | glueWindowEnd => exact glueWindowEnd_touches _ _ h
  | glueMerge => exact glueMerge_touches _ _ _ h
  | raspUnit => exact raspUnit_touches _ h
  | scrubSliceDue => exact scrubSliceDue_touches _ h
  | ecsPoll => exact ecsPoll_touches _ _ h
  | inlayEntryWrite => exact inlayEntryWrite_touches _ _ _ _ h
  | inlCopy => exact inlCopy_touches _ _ h
  | rowCopyDone => exact rowCopyDone_touches _ _ h
  | inlPpr => exact inlPpr_touches _ _ h
  | pprDone => exact pprDone_touches _ _ h
  | rawRead => exact rawRead_touches _ h
  | rawWrite => exact rawWrite_touches _ h
  | sramErr => exact sramErr_touches _ _ _ h
  | diagRead => exact diagRead_touches _ h
  | diagWriteZero => exact diagWriteZero_touches _ h
  | diagWriteAddr => exact diagWriteAddr_touches _ h
  | diagCompare => exact diagCompare_touches _ h
  | vnrFillLand => exact vnrFillLand_touches _ h
  | vnrSramErr => exact vnrSramErr_touches _ _ _ _ h
  | cleaner => exact cleaner_touches _ h
  | victimWriteback => exact victimWriteback_touches _ h
  | ropClean => exact ropClean_touches h
  | ropCleanInvalidate => exact ropCleanInvalidate_touches h
  | ropInvalidate => exact ropInvalidate_touches h
  | ropUnpin => exact ropUnpin_touches h
  | ropRefused => exact ropRefused_touches h
  | ropDone => exact ropDone_touches h
  | vnrCtlEnWrite => exact vnrCtlEnWrite_touches _ h
  | vnrClearingDone => exact vnrClearingDone_touches h
  | vnrDrainDone => exact vnrDrainDone_touches h
  | epochAdvance => exact epochAdvance_touches h
  | fenceEpochAdvance => exact fenceEpochAdvance_touches h
  | mirrorCapture => exact mirrorCapture_touches h
  | twinSilent => exact twinSilent_touches _ h
  | curAttach => exact curAttach_touches h
  | curDegrade => exact curDegrade_touches h
  | staleSideWrite => exact staleSideWrite_touches _ h
  | attachPush => exact attachPush_touches _ h
  | mirrorAttached => exact mirrorAttached_touches h
  | mirrorResend => exact mirrorResend_touches _ _ h
  | repairAnswer => exact repairAnswer_touches h
  | fenceCmdFence => exact fenceCmdFence_touches _ h
  | chFenced => exact chFenced_touches _ h
  | fenceSweepDone => exact fenceSweepDone_touches _ h
  | unfenceStale => exact unfenceStale_touches _ h
  | unfenceFull => exact unfenceFull_touches _ h
  | recastPanel => exact recastPanel_touches _ h
  | recastDone => exact recastDone_touches h
  | drainStart => exact drainStart_touches h
  | drainRecords => exact drainRecords_touches h
  | drainComplete => exact drainComplete_touches h
  | epochSet => exact epochSet_touches _ _ h
  | mirrorLines => exact mirrorLines_touches _ h
  | mirrorMasked => exact mirrorMasked_touches _ h
  | mirrorPoison => exact mirrorPoison_touches _ h
  | mirrorTrim => exact mirrorTrim_touches _ h
  | mirrorMark => exact mirrorMark_touches _ h
  | mirrorLinesMarked => exact mirrorLinesMarked_touches _ h
  | heatDecay => exact heatDecay_touches h
  | promotion => exact promotion_touches _ h
  | demotionHandStep => exact demotionHandStep_touches _ h
  | demotion => exact demotion_touches _ h
  | moveStepDone => exact moveStepDone_touches _ h
  | moveAbandon => exact moveAbandon_touches _ h
  | frameRefill => exact frameRefill_touches h
  | nbrRttProbe => exact nbrRttProbe_touches _ _ h
  | nbrStateChange => exact nbrStateChange_touches _ _ h
  | lendAccess => exact lendAccess_touches _ h
  | lendAlloc => exact lendAlloc_touches _ h
  | lendFree => exact lendFree_touches _ h
  | grantEnable => exact grantEnable_touches _ _ h
  | grantDisable => exact grantDisable_touches _ h
  | grantHold => exact grantHold_touches _ _ h
  | grantReload => exact grantReload_touches _ h
  | reclaimCmd => exact reclaimCmd_touches _ _ _ h
  | reclaimDone => exact reclaimDone_touches _ _ h
  | frameCmd => exact frameCmd_touches h
  | moveCmd => exact moveCmd_touches _ h
  | jigGo => exact jigGo_touches _ _ h
  | jigStop => exact jigStop_touches _ h
  | jigStepStart => exact jigStepStart_touches _ h
  | jigStepStaged => exact jigStepStaged_touches _ _ h
  | jigLate => exact jigLate_touches _ h
  | jigUnpinStep => exact jigUnpinStep_touches _ h
  | jigDone => exact jigDone_touches _ h
  | segLiveChange => exact segLiveChange_touches _ _ h
  | segCtlWrite => exact segCtlWrite_touches _ _ h
  | txDatagram => exact txDatagram_touches _ _ h
  | rxDatagram => exact rxDatagram_touches _ _ _ h
  | tenonWrite => exact tenonWrite_touches _ h
  | tenonWriteImm => exact tenonWriteImm_touches _ h
  | tenonReadReq => exact tenonReadReq_touches _ h
  | tenonReadResp => exact tenonReadResp_touches _ h
  | tenonAtomAdd8 => exact tenonAtomAdd8_touches _ h
  | tenonAtomCas8 => exact tenonAtomCas8_touches _ h
  | tenonCureWrite => exact tenonCureWrite_touches _ h
  | tenonAck => exact tenonAck_touches _ h
  | tenonNak => exact tenonNak_touches _ h
  | tenonContextNotReady => exact tenonContextNotReady_touches _ h
  | ackSend => exact ackSend_touches _ _ h
  | rtoExpiry => exact rtoExpiry_touches _ h
  | noticePost => exact noticePost_touches _ _ h
  | ringAWrite => exact ringAWrite_touches _ _ h
  | connCmdOpen => exact connCmdOpen_touches h
  | connCmdClose => exact connCmdClose_touches h
  | connCmdInstall => exact connCmdInstall_touches h
  | connCmdSwitch => exact connCmdSwitch_touches h
  | connCmdRetire => exact connCmdRetire_touches h
  | connCmdError => exact connCmdError_touches h
  | connCmdQuery => exact connCmdQuery_touches h
  | connError => exact connError_touches _ _ h
  | ctxLoadDone => exact ctxLoadDone_touches _ h
  | ctxEvict => exact ctxEvict_touches _ h
  | rkeyCmdCreate => exact rkeyCmdCreate_touches h
  | rkeyCmdRevoke => exact rkeyCmdRevoke_touches h
  | rkeyCmdQuery => exact rkeyCmdQuery_touches h
  | regionRevoked => exact regionRevoked_touches h
  | armDiverge => exact armDiverge_touches _ _ h
  | armTcmErr => exact armTcmErr_touches _ _ h
  | imgBlockDone => exact imgBlockDone_touches h
  | imgFetchTimeout => exact imgFetchTimeout_touches h
  | bootRomStart => exact bootRomStart_touches h
  | armRestart => exact armRestart_touches h
  | armUpdate => exact armUpdate_touches h
  | armReady => exact armReady_touches h
  | mbxRing => exact mbxRing_touches _ h
  | mbxAck => exact mbxAck_touches _ h
  | mbxTake => exact mbxTake_touches h
  | mbxRespond => exact mbxRespond_touches _ h
  | identify => exact identify_touches _ h
  | getState => exact getState_touches _ h
  | setDeviceId => exact setDeviceId_touches _ h
  | setProfile => exact setProfile_touches _ h
  | imgUpdate => exact imgUpdate_touches _ h
  | svnAdvance => exact svnAdvance_touches _ h
  | setAccess => exact setAccess_touches _ h
  | imgkeyProgram => exact imgkeyProgram_touches _ h
  | imgkeyRevoke => exact imgkeyRevoke_touches _ h
  | getConfig => exact getConfig_touches _ h
  | setLayout => exact setLayout_touches _ h
  | setTiming => exact setTiming_touches _ h
  | setRegion => exact setRegion_touches _ h
  | getRegion => exact getRegion_touches _ h
  | setRanks => exact setRanks_touches _ h
  | setQos => exact setQos_touches _ h
  | getForecast => exact getForecast_touches _ h
  | setChoreo => exact setChoreo_touches _ h
  | getHealth => exact getHealth_touches _ h
  | setMark => exact setMark_touches _ h
  | clearMark => exact clearMark_touches _ h
  | inlayAdd => exact inlayAdd_touches _ h
  | pprSchedule => exact pprSchedule_touches _ h
  | setScrub => exact setScrub_touches _ h
  | diagPass => exact diagPass_touches _ h
  | rangeOp => exact rangeOp_touches _ h
  | vnrEnable => exact vnrEnable_touches _ h
  | vnrStatus => exact vnrStatus_touches _ h
  | setDirtyBudget => exact setDirtyBudget_touches _ h
  | setTwin => exact setTwin_touches _ h
  | attach => exact attach_touches _ h
  | degrade => exact degrade_touches _ h
  | getCure => exact getCure_touches _ h
  | fence => exact fence_touches _ h
  | setCure => exact setCure_touches _ h
  | blankLineGet => exact blankLineGet_touches _ h
  | mapRepair => exact mapRepair_touches _ h
  | setTier => exact setTier_touches _ h
  | setNeighbour => exact setNeighbour_touches _ h
  | setGrant => exact setGrant_touches _ h
  | move => exact move_touches _ h
  | jigStart => exact jigStart_touches _ _ h
  | jigStatus => exact jigStatus_touches _ h
  | reclaim => exact reclaim_touches _ _ _ h
  | frameAudit => exact frameAudit_touches _ h
  | heldList => exact heldList_touches _ h
  | grantAudit => exact grantAudit_touches _ h
  | connOpen => exact connOpen_touches _ h
  | connClose => exact connClose_touches _ h
  | keyInstall => exact keyInstall_touches _ h
  | keySwitch => exact keySwitch_touches _ h
  | keyRetire => exact keyRetire_touches _ h
  | connQuery => exact connQuery_touches _ h
  | rkeyCreate => exact rkeyCreate_touches _ h
  | rkeyRevoke => exact rkeyRevoke_touches _ _ h
  | ringSet => exact ringSet_touches _ h
  | segSet => exact segSet_touches _ h
  | setHoldup => exact setHoldup_touches _ h
  | pwrStateMbx => exact pwrStateMbx_touches _ h
  | pwrStatus => exact pwrStatus_touches _ h
  | regRead => exact regRead_touches _ _ h
  | regWrite => exact regWrite_touches _ _ h
  | eventForce => exact eventForce_touches _ h
  | journalRead => exact journalRead_touches _ _ h
  | snapshot => exact snapshot_touches _ h
  | echo => exact echo_touches _ h
  | badOpcode => exact badOpcode_touches _ h
  | twinTimeout => exact twinTimeout_touches h
  | registerWrite => exact registerWrite_touches _ _ _ _ h
  | rcRead => exact rcRead_touches _ h
  | sqAck => exact sqAck_touches _ _ h
  | regPortAccess => exact regPortAccess_touches _ _ _ _ h
  | commitNow => exact commitNow_touches _ h
  | commitSchedule => exact commitSchedule_touches _ h
  | commitCancel => exact commitCancel_touches _ h
  | commitApplied => exact commitApplied_touches h
  | topSnapshot => exact topSnapshot_touches h
  | cntClr => exact cntClr_touches h
  | beatSync => exact beatSync_touches _ h
  | beatFreerun => exact beatFreerun_touches h
  | eventSignal => exact eventSignal_touches _ _ _ _ h
  | faultWindowEnd => exact faultWindowEnd_touches _ h
  | evtForce => exact evtForce_touches _ _ h
  | levelClr => exact levelClr_touches _ _ _ h
  | sevClr => exact sevClr_touches h
  | foClr => exact foClr_touches h
  | fecClr => exact fecClr_touches _ h
  | journalRecord => exact journalRecord_touches h
  | packetCloseTime => exact packetCloseTime_touches h
  | jrnFlush => exact jrnFlush_touches h
  | jrnClear => exact jrnClear_touches h
  | jrnPop => exact jrnPop_touches _ h
  | stateCmdActive => exact stateCmdActive_touches h
  | stateCmdPowerDown => exact stateCmdPowerDown_touches h
  | stateCmdSelfRefresh => exact stateCmdSelfRefresh_touches h
  | stateCmdOffRetention => exact stateCmdOffRetention_touches h
  | cureWaitEnd => exact cureWaitEnd_touches _ h
  | pfailReturn => exact pfailReturn_touches h
  | porstAssert => exact porstAssert_touches h
  | srstAssert => exact srstAssert_touches h
  | resetRelease => exact resetRelease_touches _ h
  | vkeepFail => exact vkeepFail_touches h
  | vkeepPowerUp => exact vkeepPowerUp_touches h
  | corePowerLoss => exact corePowerLoss_touches h
  | fwHalt => exact fwHalt_touches _ h
  | bcmdInit => exact bcmdInit_touches h
  | bcmdRebuild => exact bcmdRebuild_touches h
  | bcmdPcInv => exact bcmdPcInv_touches h
  | pllLockLoss => exact pllLockLoss_touches _ h
  | retrainingWindowEnd => exact retrainingWindowEnd_touches _ h

/-- What is kept from the state with the queue's rest is kept but for the queue. -/
theorem step_kept {c : Instr} {s t : State} {rest : List Instr} (hq : s.pending = c :: rest) (h : step s = .next t) :
    Kept (touches c).contains { s with pending := rest } t :=
  exec_kept (step_cons hq ▸ h)

theorem not_contains_of_not_mem {l : List Part} {k : Part} (h : k ∉ l) : l.contains k = false :=
  Bool.eq_false_iff.2 fun e => h (List.contains_iff_mem.1 e)

/-- The queue is no part of the state that `Part.Same` compares. -/
theorem same_of_same_pending {s t : State} {rest : List Instr} {k : Part} (h : Part.Same { s with pending := rest } t k) :
    Part.Same s t k := by
  cases k <;> exact h

/-- Settles O39: a command keeps the canonical form by its lemma, and the idle step by its own. -/
theorem stepsKeepCanonicalForm : Obligations.StepsKeepCanonicalForm := by
  unfold Obligations.StepsKeepCanonicalForm
  intro s t hs hstep
  cases hq : s.pending with
  | nil =>
    obtain rfl : idle s = t := Host.Outcome.next.inj ((step_nil hq).symm.trans hstep)
    exact (idle_kept (al := fun _ => true) (fun _ _ => rfl) (.refl s)).canon hs
  | cons c rest => exact (step_kept hq hstep).canon hs

/-- Settles O40: both halves are what `Kept` holds of the command's parts. -/
theorem commandsKeepTheRest : Obligations.CommandsKeepTheRest := by
  unfold Obligations.CommandsKeepTheRest
  intro c s t
  constructor
  · intro h
    obtain ⟨hpend, _, hfresh, hsame⟩ := exec_kept h
    exact ⟨hpend, hfresh, fun k hk => hsame k (not_contains_of_not_mem hk)⟩
  · intro rest hq h
    obtain ⟨hpend, _, hfresh, hsame⟩ := step_kept hq h
    exact ⟨hpend, hfresh, fun k hk => same_of_same_pending (hsame k (not_contains_of_not_mem hk))⟩

/-- Settles O35. -/
theorem commandAtFrontRuns : Obligations.CommandAtFrontRuns := by
  unfold Obligations.CommandAtFrontRuns
  intro c s rest hq
  exact step_cons hq

/-- Settles O37, by induction on the number of steps. -/
theorem everyStateIsSafe : Obligations.EveryStateIsSafe := by
  unfold Obligations.EveryStateIsSafe
  intro s n
  induction n generalizing s with
  | zero => trivial
  | succ n ih =>
    obtain ⟨t, ht⟩ := step_next s
    exact ⟨t, ht, ih t⟩

/-- Settles O38: three of the maps are empty, and the bytes of the DRAM are none. -/
theorem resetIsCanonical : Obligations.ResetIsCanonical :=
  ⟨rfl, rfl, rfl, rfl⟩

end Sys2Proof.Machine
end

section
/-!
PROOFS. The idle step: what one FCLK does to the Beat unit (R31 to R35), and what it leaves.
-/
namespace Sys2Proof.Machine
open Sys2Proof

/-! What the parts of an idle step do to the Beat unit. -/

theorem maskEdge_beat (s : State) : (maskEdge s).beat = s.beat :=
  (maskEdge_kept (.but (p := .beat) rfl) (.refl s)).but

theorem packOne_beat (s : State) : (packOne s).beat = s.beat :=
  (packOne_kept (.but (p := .beat) rfl) (.refl s)).but

theorem doIf_cntInc_beat (b : Bool) (s : State) (r : RegRef) : (doIf b (fun s => cntInc s r) s).beat = s.beat := by
  cases b <;> rfl

theorem genAll_beat (s : State) : (genAll s).beat = s.beat :=
  (genAll_kept (.but (p := .beat) rfl) (.refl s)).but

theorem slotsSkip_beat (s : State) : (slotsSkip s).beat = s.beat :=
  (slotsSkip_kept (.but (p := .beat) rfl) (.refl s)).but

theorem freerunEnter_beat (s : State) : (freerunEnter s).beat = { s.beat with freerun := true, holdFor := 0 } := by
  rw [freerunEnter, genAll_beat, ev_beat, modBeat_beat]

/-- Where free-run is due, the Beat runs free from its value, or from 0 where it was invalid. -/
theorem beatFreerun_beat_of_due {s : State} (h : freerunDue s = true) : (beatFreerun s).beat =
    { (if s.beat.valid then s.beat else { s.beat with half := 0, valid := true, sync := 0 }) with freerun := true, holdFor := 0 } := by
  cases hv : s.beat.valid <;> simp [beatFreerun, h, hv, freerunEnter_beat, slotsSkip_beat]

theorem beatFreerun_of_not_due {s : State} (h : freerunDue s = false) : beatFreerun s = s := by
  simp [beatFreerun, h]

theorem idle_of_reset {s : State} (h : s.pwr.rst.isSome = true) : idle s = s := by
  simp [idle, h]

theorem idle_beat {s : State} (h : s.pwr.rst = none) : (idle s).beat = beatIdle (beatFreerun s).beat := by
  simp [idle, h, packOne_beat, doIf_cntInc_beat, maskEdge_beat]

/-! What one FCLK does to the Beat. -/

theorem beatIdle_fclk (b : BeatSt) : (beatIdle b).fclk = b.fclk + 1 := by
  unfold beatIdle
  dsimp only
  split
  · rfl
  · split <;> rfl

theorem beatIdle_of_invalid {b : BeatSt} (h : b.valid = false) : beatIdle b = { b with fclk := b.fclk + 1 } := by
  simp [beatIdle, h]

theorem beatIdle_of_held {b : BeatSt} (h : b.valid = true) (hh : 0 < b.holdFor) :
    beatIdle b = { b with fclk := b.fclk + 1, holdFor := b.holdFor - 1 } := by
  simp [beatIdle, h, hh]

theorem beatIdle_of_running {b : BeatSt} (h : b.valid = true) (hh : b.holdFor = 0) :
    beatIdle b = { b with fclk := b.fclk + 1, half := b.half + 1 } := by
  simp [beatIdle, h, hh]

theorem beatFreerun_fclk (s : State) : (beatFreerun s).beat.fclk = s.beat.fclk := by
  cases h : freerunDue s with
  | false => rw [beatFreerun_of_not_due h]
  | true =>
    rw [beatFreerun_beat_of_due h]
    cases s.beat.valid <;> rfl

/-- Settles O36: outside reset the Beat unit takes the free-run step and then the FCLK, and the other parts of the idle step
leave it. -/
theorem emptyQueueIdles : Obligations.EmptyQueueIdles := by
  unfold Obligations.EmptyQueueIdles
  intro s hq
  refine ⟨fun hr => (step_nil hq).trans (congrArg _ (idle_of_reset hr)), fun hr => ⟨idle s, step_nil hq, ?_⟩⟩
  obtain ⟨hpend, _, _, hsame⟩ := idle_kept (al := [Part.beat, .csr, .evt, .jrn, .adm, .chans].contains) (.of rfl) (.refl s)
  refine ⟨hpend.trans hq, ?_, fun hd => ?_, fun hd => ?_, fun k hk => hsame k (not_contains_of_not_mem hk)⟩
  · rw [idle_beat hr, beatIdle_fclk, beatFreerun_fclk]
  · rw [idle_beat hr, beatFreerun_beat_of_due hd]
    cases hv : s.beat.valid <;> simp [beatIdle, hv]
  · rw [idle_beat hr, beatFreerun_of_not_due hd]
    cases hv : s.beat.valid with
    | false => simp [beatIdle_of_invalid hv, hv]
    | true =>
      rcases Nat.eq_zero_or_pos s.beat.holdFor with hh | hh
      · simp [beatIdle_of_running hv hh, hv, hh]
      · simp [beatIdle_of_held hv hh, hv, Nat.pos_iff_ne_zero.1 hh]

end Sys2Proof.Machine
end

section
/-!
PROOFS. What holds after reset: the Reset columns of the register maps (R19), the worked example of the decode (R85) and the
units that start invalid, down or empty.
-/
namespace Sys2Proof.Machine
open Sys2Proof

/-- The first registers of the headings whose reset value is not stated: pins, factory values and factory minima. -/
def unstatedBases : List Nat :=
  [0xB0008, 0xA0040, 0x100130, 0x100134, 0x100138, 0x10013C, 0x100140, 0x100144, 0x100428, 0x101040, 0x108000, 0xA000C, 0xA0010]

/-- The lookup finds a heading's first register, and it reads its Reset value after reset. -/
def readsReset (d : RegDesc) : Bool :=
  (regFind d.base).any fun h => decide (h.desc = d) && decide (regValue State.reset h = h.ref.rst)

theorem readsReset_iff (d : RegDesc) :
    readsReset d = true ↔ ∃ h, regFind d.base = some h ∧ h.desc = d ∧ regValue State.reset h = h.ref.rst := by
  simp [readsReset, Option.any_eq_true]

/-- The first registers of a map's headings read their Reset value, but for those not stated. -/
def columnHolds (l : List RegDesc) : Bool := l.all fun d => unstatedBases.contains d.base || readsReset d

theorem readsReset_of_columnHolds {l : List RegDesc} {d : RegDesc} (h : columnHolds l = true) (hd : d ∈ l)
    (hb : d.base ∉ unstatedBases) : readsReset d = true := by
  have hor := List.all_eq_true.1 h d hd
  rw [Bool.or_eq_true, List.contains_iff_mem] at hor
  exact hor.resolve_left hb

/-- The maps of the chip's units, but for the channels'. -/
theorem columnHolds_units : ∀ l ∈ [regsTop, regsEvt, regsFlt, regsJrn, regsAdm, regsFrp, regsNtc, regsMap, regsVnr, regsCur,
    regsTir, regsTen, regsArm, regsMbx, regsPwr], columnHolds l = true := by
  decide +kernel

/-- The maps of a channel. -/
theorem columnHolds_channel : ∀ l ∈ [regsSch, regsRef, regsDst, regsPhy, regsPrb, regsSbi, regsCode, regsGlu, regsScr, regsInl],
    columnHolds l = true := by
  decide +kernel

/-- Settles O45: the lookup and the reads are computed for every heading. -/
theorem registersResetToTheirColumn : Obligations.RegistersResetToTheirColumn := by
  unfold Obligations.RegistersResetToTheirColumn
  intro l hl d hd hb
  have hcol : columnHolds l = true := by
    rcases List.mem_append.1 (show l ∈ [regsTop, regsEvt, regsFlt, regsJrn, regsAdm, regsFrp, regsNtc, regsMap, regsVnr, regsCur,
      regsTir, regsTen, regsArm, regsMbx, regsPwr] ++ [regsSch, regsRef, regsDst, regsPhy, regsPrb, regsSbi, regsCode, regsGlu,
      regsScr, regsInl] from hl) with h | h
    · exact columnHolds_units l h
    · exact columnHolds_channel l h
  exact (readsReset_iff d).1 (readsReset_of_columnHolds hcol hd hb)

/-- Settles O44: the decode is computed. -/
theorem decodeExample : Obligations.DecodeExample := by
  unfold Obligations.DecodeExample
  decide

/-- Settles O46: the fields of `State.reset`. -/
theorem resetLeaves : Obligations.ResetLeaves := by
  unfold Obligations.ResetLeaves
  refine ⟨rfl, rfl, ?_, ?_, ?_, rfl, rfl, rfl, rfl, rfl, ?_, rfl⟩ <;> decide

end Sys2Proof.Machine
end

section
/-!
PROOFS. The cured epoch and the registers that show it (R299), the collector's outputs (R475, R476, R486) and promotion
candidates (R337).
-/
namespace Sys2Proof.Machine
open Sys2Proof

/-! The cured epoch. -/

/-- A register whose 32 bits are all live. -/
def liveWord (old : Word64) (e : BitVec 32) : Word64 :=
  (old &&& ~~~ 0xFFFFFFFF) ||| (packFields [(0, e.toNat)] &&& 0xFFFFFFFF)

theorem setWidth_packFields_low (e : BitVec 32) : (packFields [(0, e.toNat)]).setWidth 32 = e := by
  simp [packFields]

theorem setWidth_liveWord (old : Word64) (e : BitVec 32) : (liveWord old e).setWidth 32 = e := by
  have hmask : (0xFFFFFFFF : Word64).setWidth 32 = BitVec.allOnes 32 := rfl
  have hrest : (~~~(0xFFFFFFFF : Word64)).setWidth 32 = 0#32 := rfl
  rw [liveWord, BitVec.setWidth_or, BitVec.setWidth_and, BitVec.setWidth_and, hmask, hrest, setWidth_packFields_low,
    BitVec.and_allOnes, BitVec.and_zero, BitVec.zero_or]

theorem fwGet_curEpoch (s : State) : fwGet s rCurEpoch = liveWord (getReg s rCurEpoch) s.cure.e := rfl

theorem fwGet_curLocal (s : State) : fwGet s rCurLocal = liveWord (getReg s rCurLocal) (curLc s) := rfl

theorem fwGet_curTwinAck (s : State) : fwGet s rCurTwinAck = liveWord (getReg s rCurTwinAck) (curT s) := rfl

theorem fwGet_curCured (s : State) : fwGet s rCurCured = liveWord (getReg s rCurCured) (curC s) := rfl

/-- Settles O54: the cases of `curC`, and the four registers as words that are live throughout. -/
theorem curedEpoch : Obligations.CuredEpoch := by
  unfold Obligations.CuredEpoch
  intro s lc tw
  refine ⟨?_, ?_, ?_, ?_, ?_⟩
  · rintro (h | h) <;> simp [curC, h, lc, tw]
  · intro h
    simp [curC, h, lc, tw]
  · intro h
    simp [curC, h, lc]
  · intro h
    simp [curC, h]
  · intro x hx
    simp only [List.mem_cons, List.not_mem_nil, or_false] at hx
    rcases hx with rfl | rfl | rfl | rfl
    · rw [fwGet_curEpoch, setWidth_liveWord]
    · rw [fwGet_curLocal, setWidth_liveWord]
    · rw [fwGet_curTwinAck, setWidth_liveWord]
    · rw [fwGet_curCured, setWidth_liveWord]

/-! The collector's outputs. -/

theorem faultSevere_of_reset {s : State} (h : s.pwr.rst.isSome = true) : faultSevere s = false := by
  cases hr : s.pwr.rst <;> simp_all [faultSevere]

theorem irqLine_of_reset {s : State} (h : s.pwr.rst.isSome = true) (l : Nat) : irqLine s l = false := by
  cases hr : s.pwr.rst <;> simp_all [irqLine]

theorem irqArm_of_reset {s : State} (h : s.pwr.rst.isSome = true) : irqArm s = false := by
  cases hr : s.pwr.rst <;> simp_all [irqArm]

theorem jrnNotice_iff (s : State) : jrnNotice s = true ↔ s.jrn.pkts ≠ [] := by
  cases h : s.jrn.pkts <;> simp [jrnNotice, h]

theorem routeLine_iff (x l : Nat) : routeLine x l = true ↔ x / 4 % 2 = 1 ∧ x % 4 = l := by
  simp [routeLine]

/-- A route is met by a pending source, or by the notice. -/
theorem routed_iff (s : State) (p : Nat → Bool) : routed s p = true ↔
    (∃ i < 1024, s.evt.ipend.getLsbD i = true ∧ p (routeOf s i) = true) ∨
      (s.jrn.pkts ≠ [] ∧ p (fld s rJrnNotice 3 0) = true) := by
  unfold routed
  rw [Bool.or_eq_true, Bool.and_eq_true, jrnNotice_iff, List.any_eq_true]
  simp only [List.mem_range, Bool.and_eq_true]

theorem irqLine_iff {s : State} (h : s.pwr.rst = none) (l : Nat) :
    irqLine s l = true ↔ rbit s rEvtLineEn l = true ∧ routed s (fun x => routeLine x l) = true := by
  simp [irqLine, h]

/-- Settles O57. -/
theorem collectorOutputs : Obligations.CollectorOutputs := by
  unfold Obligations.CollectorOutputs
  intro s
  refine ⟨fun h => ⟨faultSevere_of_reset h, irqLine_of_reset h, irqArm_of_reset h⟩, fun h => by simp [faultSevere, h],
    fun id => ⟨rfl, ?_⟩, ⟨_, rfl, rfl, rfl⟩, jrnNotice_iff s, fun h l _ => ?_⟩
  · cases hs : s.evt.sevSrc <;> simp [assertSevere, hs]
  · simp only [irqLine_iff h, routed_iff, routeLine_iff]

/-! Promotion candidates. -/

/-- A panel that R337 would promote. -/
def PromoHot (s : State) (p : Nat) : Prop :=
  rbit s rTirCtl 31 = true ∧ peState (pmapGet s p) = 2 ∧ fld s rTirThresh 31 16 ≤ heatOf s p

theorem promoCheck_queues {s : State} {p : Nat} (h : PromoHot s p) (hq : p ∉ s.tier.promoQ) (hlen : s.tier.promoQ.length < 64) :
    promoCheck s p = modTier s fun t => { t with promoQ := s.tier.promoQ ++ [p] } := by
  obtain ⟨hen, hstate, hheat⟩ := h
  simp [promoCheck, hen, hstate, hheat, hq, hlen, modTier]

theorem promoCheck_leaves {s : State} {p : Nat} (h : ¬ PromoHot s p ∨ p ∈ s.tier.promoQ ∨ 64 ≤ s.tier.promoQ.length) :
    promoCheck s p = s := by
  unfold promoCheck
  rw [if_neg]
  simp only [Bool.and_eq_true, decide_eq_true_eq, Bool.not_eq_true', List.contains_eq_mem, decide_eq_false_iff_not]
  rintro ⟨⟨⟨⟨hen, hstate⟩, hheat⟩, hq⟩, hlen⟩
  rcases h with h | h | h
  · exact h ⟨hen, hstate, hheat⟩
  · exact hq h
  · omega

/-- The queue stays within its 64 places: a panel is queued only where fewer stand in it. -/
theorem promoCheck_length_le {s : State} (p : Nat) (h : s.tier.promoQ.length ≤ 64) :
    (promoCheck s p).tier.promoQ.length ≤ 64 := by
  by_cases hc : PromoHot s p ∧ p ∉ s.tier.promoQ ∧ s.tier.promoQ.length < 64
  · obtain ⟨hhot, hq, hlen⟩ := hc
    rw [promoCheck_queues hhot hq hlen]
    simp only [modTier_tier, List.length_append, List.length_cons, List.length_nil]
    omega
  · rw [promoCheck_leaves]
    · exact h
    · by_cases hhot : PromoHot s p
      · by_cases hq : p ∈ s.tier.promoQ
        · exact .inr (.inl hq)
        · exact .inr (.inr (Nat.le_of_not_lt fun hlen => hc ⟨hhot, hq, hlen⟩))
      · exact .inl hhot

/-- Settles O59. -/
theorem promotionCandidates : Obligations.PromotionCandidates := by
  unfold Obligations.PromotionCandidates
  intro s p
  exact ⟨promoCheck_queues, promoCheck_leaves, promoCheck_length_le p⟩

end Sys2Proof.Machine
end

section
/-!
PROOFS. The event collector (R467 to R477): an event advances the SQ record of its source, which nothing else in its path
writes.
-/
namespace Sys2Proof.Machine
open Sys2Proof

/-! What leaves the SQ records. -/

theorem doIf_sq {m : SMap Word32} {f : State → State} {b : Bool} {s : State} (hs : s.evt.sq = m)
    (h : ∀ u, u.evt.sq = m → (f u).evt.sq = m) : (doIf b f s).evt.sq = m := by
  cases b
  · exact hs
  · exact h s hs

theorem forEach_sq {α : Type} {m : SMap Word32} {f : State → α → State} {xs : List α} {s : State} (hs : s.evt.sq = m)
    (h : ∀ u x, u.evt.sq = m → (f u x).evt.sq = m) : (forEach xs s f).evt.sq = m := by
  unfold forEach
  induction xs generalizing s with
  | nil => exact hs
  | cons x xs ih => exact ih (h s x hs)

theorem jrnEnqueue_sq (s : State) (e : JrnEvt) : (jrnEnqueue s e).evt.sq = s.evt.sq := by
  unfold jrnEnqueue
  split <;> rfl

theorem failover_sq (s : State) (id : Nat) : (failover s id).evt.sq = s.evt.sq := by
  unfold failover
  split
  · simp only [cntInc_evt]
    refine forEach_sq rfl fun u c hu => ?_
    split
    · exact hu
    · exact hu
  · rfl

theorem react_sq (s : State) (id mask : Nat) (act : Bool) (e : JrnEvt) : (react s id mask act e).evt.sq = s.evt.sq := by
  unfold react
  dsimp only
  refine doIf_sq (doIf_sq (doIf_sq (doIf_sq (doIf_sq rfl ?_) ?_) ?_) ?_) ?_ <;> intro u hu
  · exact (jrnEnqueue_sq u e).trans hu
  · exact hu
  · exact hu
  · exact (failover_sq u id).trans hu
  · exact hu

/-- A record after an event is pending, so that its map lists it. -/
theorem sqAdvance_ne_zero (v : Word32) : sqAdvance v ≠ 0 := by
  have hcount : satInc 255 (sqCount v) ≤ 255 := by
    unfold satInc
    omega
  intro h
  have hnat : (2 ^ 31 + (satInc 255 (sqCount v)) <<< 16 + (sqSeq v + 1) % 2 ^ 16) % 2 ^ 32 = 0 := congrArg BitVec.toNat h
  rw [Nat.shiftLeft_eq] at hnat
  omega

/-- An event of a source in use advances its SQ record. -/
theorem raiseEvt_sq {s : State} {id : Nat} (ds : List Word32) (o : EvtOrigin) (u f : Bool) (h : evtUsed id = true) :
    smGet 0 (raiseEvt s id ds o u f).evt.sq id = sqAdvance (smGet 0 s.evt.sq id) := by
  unfold raiseEvt
  rw [if_pos h]
  extract_lets rec' beat cfg
  split
  rw [react_sq, doIf_sq (m := smSet 0 s.evt.sq id rec')]
  · exact smGet_smSet_self 0 _ _ (sqAdvance_ne_zero _)
  · exact doIf_sq (doIf_sq rfl fun _ hu => hu) fun _ hu => hu
  · exact fun _ hu => hu

/-- Settles O32: an event advances its record, and each clear and acknowledgement is its definition. -/
theorem eventsComplete : Obligations.EventsComplete := by
  unfold Obligations.EventsComplete
  intro s
  refine ⟨fun src ds o u h => ⟨_, rfl, raiseEvt_sq ds o u false h⟩, fun src mid h => ⟨_, rfl, raiseEvt_sq _ _ false true h⟩,
    fun src h => ?_, fun _ => rfl, fun _ _ => rfl, fun _ => rfl, rfl, rfl, fun src v h => ?_⟩
  · simp [exec, execFaultWindowEnd, ok, faultWindowEnd, h]
  · simp [exec, execSqAck, ok, sqAck, h]

end Sys2Proof.Machine
end

section
/-!
PROOFS. Registers and DRAM lines read back (R83, R85, R234), and the address decode is undone (R81 to R85).
-/
namespace Sys2Proof.Machine
open Sys2Proof

/-- Settles O41: the reads after a write, and that `setReg` keeps the canonical form. -/
theorem registersReadBack : Obligations.RegistersReadBack := by
  unfold Obligations.RegistersReadBack
  intro s r q v hs
  have hval : smWf 0 s.csr.val = true := hs.2.1
  exact ⟨getReg_setReg_self s r v hval, getReg_setReg_other v hval,
    (setReg_kept (al := fun _ => true) (fun _ _ => rfl) (.refl s) r v).canon hs⟩

/-! The bytes of a line. -/

theorem bytesNat_cons (b : Nat) (bs : List Nat) : bytesNat (b :: bs) = bytesNat bs * 256 + b := rfl

/-- The lowest `n` bytes of a number, put together. -/
theorem bytesNat_digits (n x : Nat) : bytesNat ((List.range n).map fun i => x / 256 ^ i % 256) = x % 256 ^ n := by
  induction n generalizing x with
  | zero => simp [bytesNat, Nat.mod_one]
  | succ n ih =>
    have htail : ((List.range n).map fun i => x / 256 ^ (i + 1) % 256) = (List.range n).map fun i => x / 256 / 256 ^ i % 256 := by
      refine List.map_congr_left fun i _ => ?_
      rw [Nat.div_div_eq_div_mul, ← Nat.pow_succ']
    rw [List.range_succ_eq_map, List.map_cons, List.map_map, bytesNat_cons]
    simp only [Function.comp_def, Nat.succ_eq_add_one, Nat.pow_zero, Nat.div_one]
    rw [htail, ih, Nat.pow_succ', Nat.mod_mul, Nat.mul_comm, Nat.add_comm]

theorem rawByte_eq (r : RawLine) (i : Nat) : rawByte r i = r.toNat / 256 ^ i % 256 := by
  unfold rawByte
  rw [BitVec.toNat_ushiftRight, Nat.shiftRight_eq_div_pow, Nat.pow_mul]

/-- A raw line is the number of its 80 bytes. -/
theorem ofNat_bytesNat_rawByte (r : RawLine) : BitVec.ofNat 640 (bytesNat ((List.range 80).map (rawByte r))) = r := by
  have hdigits : (List.range 80).map (rawByte r) = (List.range 80).map fun i => r.toNat / 256 ^ i % 256 :=
    List.map_congr_left fun i _ => rawByte_eq r i
  have hlt : r.toNat < 256 ^ 80 := by
    rw [show 256 = 2 ^ 8 from rfl, ← Nat.pow_mul, show 8 * 80 = 640 from rfl]
    exact r.isLt
  rw [hdigits, bytesNat_digits, Nat.mod_eq_of_lt hlt, BitVec.ofNat_toNat, BitVec.setWidth_eq]

/-- The coordinates lie within the widths of their fields. -/
def CoordFits (k : Coord) : Prop :=
  k.chan < 16 ∧ k.sub < 2 ∧ k.rank < 32 ∧ k.bg < 8 ∧ k.ba < 4 ∧ k.row < 2 ^ 18 ∧ k.col < 128

/-- Positions within their widths have indices of their own. -/
theorem coordKey_inj {j k : Coord} (hj : CoordFits j) (hk : CoordFits k) (h : coordKey j = coordKey k) : j = k := by
  obtain ⟨_, hsub, hrank, hbg, hba, hrow, hcol⟩ := hj
  obtain ⟨_, ksub, krank, kbg, kba, krow, kcol⟩ := hk
  cases j
  cases k
  simp only [coordKey, Nat.shiftLeft_eq] at h
  simp only [Coord.mk.injEq]
  dsimp only at *
  omega

theorem dramLine_setDramLine_self {s : State} (k : Coord) (r : RawLine) (hs : s.Canonical) :
    dramLine (setDramLine s k r) k = r := by
  have hbytes : ((List.range 80).map fun i => (dramByte (setDramLine s k r) (80 * coordKey k + i)).toNat) =
      (List.range 80).map (rawByte r) := by
    refine List.map_congr_left fun i hi => ?_
    have hlt : rawByte r i < 256 := Nat.mod_lt _ (by decide)
    have hi80 : i < 80 := List.mem_range.1 hi
    rw [dramByte_setDramLine s k r hs.1, if_pos (by omega), Nat.add_sub_cancel_left, BitVec.toNat_ofNat, Nat.mod_eq_of_lt hlt]
  rw [dramLine, hbytes, ofNat_bytesNat_rawByte]

theorem dramLine_setDramLine_other {s : State} {k j : Coord} (r : RawLine) (hs : s.Canonical) (h : coordKey j ≠ coordKey k) :
    dramLine (setDramLine s k r) j = dramLine s j := by
  unfold dramLine
  refine congrArg (fun bs => BitVec.ofNat 640 (bytesNat bs)) (List.map_congr_left fun i hi => ?_)
  have hi80 : i < 80 := List.mem_range.1 hi
  rw [dramByte_setDramLine s k r hs.1, if_neg (by omega)]

/-- Settles O42: the bytes of the line written are its own, and another position has another index. -/
theorem dramLinesReadBack : Obligations.DramLinesReadBack := by
  unfold Obligations.DramLinesReadBack
  intro fits s k j r hs hk hj
  exact ⟨dramLine_setDramLine_self k r hs, fun hjk => dramLine_setDramLine_other r hs fun h => hjk (coordKey_inj hj hk h),
    (setDramLine_kept (al := fun _ => true) (fun _ _ => rfl) (.refl s) k r).canon hs⟩

/-! The decode undone: fields split off the low end of a number, and put back. -/

theorem shiftLeft_add_mod (x n : Nat) : (x >>> n) <<< n + x % 2 ^ n = x := by
  rw [Nat.shiftLeft_eq, Nat.shiftRight_eq_div_pow, Nat.mul_comm]
  exact Nat.div_add_mod x (2 ^ n)

theorem shiftRight_lt_of_lt_pow_add {x n m : Nat} (h : x < 2 ^ (n + m)) : x >>> n < 2 ^ m := by
  rw [Nat.shiftRight_eq_div_pow, Nat.div_lt_iff_lt_mul (Nat.two_pow_pos n), ← Nat.pow_add, Nat.add_comm]
  exact h

/-- The position of a line gives back the line index, whether or not the bank is hashed (R83, R84). -/
theorem dasOfCoord_coordOf (s : State) (c : Fin 16) (a : Nat) (h : lineIdxOf s a < chanLines s) :
    dasOfCoord s c (coordOf s a) = dasOfLine s c (a / 64 % 2) (lineIdxOf s a) := by
  have hrow : ((((lineIdxOf s a >>> colBits s) >>> bgBits s) >>> baBits s) >>> rankBits s) % 2 ^ rowBits s =
      (((lineIdxOf s a >>> colBits s) >>> bgBits s) >>> baBits s) >>> rankBits s := by
    refine Nat.mod_eq_of_lt (shiftRight_lt_of_lt_pow_add (shiftRight_lt_of_lt_pow_add (shiftRight_lt_of_lt_pow_add
      (shiftRight_lt_of_lt_pow_add ?_))))
    simpa only [chanLines, Nat.add_assoc] using h
  unfold dasOfCoord coordOf
  rw [Nat.shiftRight_eq_div_pow a 6]
  cases rbit s rMapCfg 2 <;>
    simp only [Nat.xor_assoc, Nat.xor_self, Nat.xor_zero, if_true, if_false, Bool.false_eq_true, hrow, shiftLeft_add_mod,
      Nat.reducePow]

/-! The channel bits. -/

theorem parity_lt (x : Nat) : parity x < 2 := by
  have hbits : ∀ (l : List Nat) (acc : Nat), acc < 2 → l.foldl (fun acc i => acc ^^^ (x >>> i) % 2) acc < 2 := by
    intro l
    induction l with
    | nil => exact fun _ h => h
    | cons i l ih => exact fun acc h => ih _ (Nat.xor_lt_two_pow (n := 1) h (Nat.mod_lt _ (by decide)))
  exact hbits _ 0 (by decide)

theorem chanHash_lt (s : State) (a i : Nat) : chanHash s a i < 2 := by
  unfold chanHash
  dsimp only
  split
  · decide
  · exact parity_lt _

/-- An even mask does not see the lowest bit. -/
theorem and_even_congr {x y : Nat} (m : Nat) (h : x / 2 = y / 2) : x &&& m / 2 * 2 = y &&& m / 2 * 2 := by
  refine Nat.eq_of_testBit_eq fun i => ?_
  rw [Nat.testBit_and, Nat.testBit_and]
  cases i with
  | zero => simp [Nat.mul_mod_left]
  | succ i => rw [Nat.testBit_succ x, Nat.testBit_succ y, h]

theorem chanCount_cases (s : State) : chanCount s = 16 ∨ chanCount s = 8 := by
  unfold chanCount
  cases rbit s rMapCfg 1 <;> simp

/-- With 16 channels the hash depends on the address from bit 12 on. -/
theorem chanHash_congr16 {s : State} {a b : Nat} (hc : chanCount s = 16) (h : a >>> 12 = b >>> 12) (i : Nat) :
    chanHash s a i = chanHash s b i := by
  have hhalf : (a >>> 11) / 2 = (b >>> 11) / 2 := by
    simp only [Nat.shiftRight_eq_div_pow] at *
    omega
  simp only [chanHash, hc, if_true, and_even_congr _ hhalf]

/-- With 8 channels it depends on the address from bit 11 on. -/
theorem chanHash_congr8 {s : State} {a b : Nat} (h : a >>> 11 = b >>> 11) (i : Nat) : chanHash s a i = chanHash s b i := by
  simp only [chanHash, h]

theorem hashedBit_lt (s : State) (a i x : Nat) : (x % 2 ^^^ chanHash s a i) < 2 :=
  Nat.xor_lt_two_pow (n := 1) (Nat.mod_lt _ (by decide)) (chanHash_lt s a i)

/-- The number whose lowest `n` bits are `x`. -/
def bitSum (n : Nat) (x : Nat → Nat) : Nat := (List.range n).foldl (fun acc i => acc + x i <<< i) 0

theorem bitSum_succ (n : Nat) (x : Nat → Nat) : bitSum (n + 1) x = bitSum n x + 2 ^ n * x n := by
  rw [bitSum, List.range_succ, List.foldl_append, List.foldl_cons, List.foldl_nil, Nat.shiftLeft_eq, Nat.mul_comm]
  rfl

theorem bitSum_lt {n : Nat} {x : Nat → Nat} (h : ∀ i, x i < 2) : bitSum n x < 2 ^ n := by
  induction n with
  | zero => exact Nat.one_pos
  | succ n ih =>
    have hle : 2 ^ n * x n ≤ 2 ^ n * 1 := Nat.mul_le_mul_left _ (Nat.le_of_lt_succ (h n))
    rw [bitSum_succ, Nat.pow_succ]
    omega

theorem bitSum_bit {n i : Nat} {x : Nat → Nat} (h : ∀ i, x i < 2) (hi : i < n) : bitSum n x >>> i % 2 = x i := by
  induction n with
  | zero => omega
  | succ n ih =>
    rw [bitSum_succ, Nat.shiftRight_eq_div_pow]
    rcases Nat.lt_succ_iff_lt_or_eq.1 hi with hlt | rfl
    · obtain ⟨k, rfl⟩ := Nat.exists_eq_add_of_lt hlt
      rw [show i + k + 1 = i + (k + 1) from rfl, Nat.pow_add, Nat.mul_assoc, Nat.add_mul_div_left _ _ (Nat.two_pow_pos i),
        Nat.pow_succ, Nat.mul_comm (2 ^ k), Nat.mul_assoc, Nat.add_mul_mod_self_left, ← Nat.shiftRight_eq_div_pow]
      exact ih hlt
    · rw [Nat.add_mul_div_left _ _ (Nat.two_pow_pos i), Nat.div_eq_of_lt (bitSum_lt h), Nat.zero_add,
        Nat.mod_eq_of_lt (h i)]

/-- The lowest bits of a number, put together. -/
theorem bitSum_bits (n a : Nat) : bitSum n (fun i => a >>> i % 2) = a % 2 ^ n := by
  induction n with
  | zero => simp [bitSum, Nat.mod_one]
  | succ n ih => rw [bitSum_succ, ih, Nat.mod_pow_succ, Nat.shiftRight_eq_div_pow]

/-- Bits put into an address from bit 8 on. -/
theorem foldl_chanBits (n base : Nat) (y : Nat → Nat) :
    (List.range n).foldl (fun acc i => acc + y i <<< (8 + i)) base = base + 256 * bitSum n y := by
  induction n with
  | zero => rfl
  | succ n ih =>
    rw [List.range_succ, List.foldl_append, ih, bitSum_succ, List.foldl_cons, List.foldl_nil, Nat.shiftLeft_eq, Nat.pow_add,
      Nat.mul_add, Nat.mul_comm (y n), Nat.mul_assoc, Nat.add_assoc]

/-- How many address bits name the channel (R82). -/
def chanBits (s : State) : Nat := if chanCount s = 16 then 4 else 3

theorem chanOf_val (s : State) (a : Nat) :
    (chanOf s a).val = bitSum (chanBits s) fun i => (a >>> (8 + i)) % 2 ^^^ chanHash s a i := by
  have hlt := bitSum_lt (n := chanBits s) fun i => hashedBit_lt s a i (a >>> (8 + i))
  have hle : 2 ^ chanBits s ≤ 16 := by
    unfold chanBits
    split <;> decide
  exact Nat.mod_eq_of_lt (Nat.lt_of_lt_of_le hlt hle)

/-- The address of a line but for its channel bits. -/
def lineBase (s : State) (sub cl : Nat) : Nat := (cl / 2) <<< (8 + chanBits s) + (cl % 2) <<< 7 + sub <<< 6

theorem chanHash_lineBase (s : State) (a i : Nat) :
    chanHash s (lineBase s (a / 64 % 2) (lineIdxOf s a)) i = chanHash s a i := by
  rcases chanCount_cases s with h | h
  · refine chanHash_congr16 h ?_ i
    simp only [lineBase, chanBits, lineIdxOf, h, if_true, Nat.shiftLeft_eq, Nat.shiftRight_eq_div_pow]
    omega
  · refine chanHash_congr8 ?_ i
    simp only [lineBase, chanBits, lineIdxOf, h, Nat.reduceEqDiff, if_false, Nat.shiftLeft_eq, Nat.shiftRight_eq_div_pow]
    omega

/-- The channel bits, the hash taken off them again, complete the address (R81, R82). -/
theorem lineBase_add_chanBits (s : State) (a : Nat) :
    lineBase s (a / 64 % 2) (lineIdxOf s a) + 256 * ((a >>> 8) % 2 ^ chanBits s) = a / 64 * 64 := by
  rcases chanCount_cases s with h | h
  · simp only [lineBase, chanBits, lineIdxOf, h, if_true, Nat.shiftLeft_eq, Nat.shiftRight_eq_div_pow]
    omega
  · simp only [lineBase, chanBits, lineIdxOf, h, Nat.reduceEqDiff, if_false, Nat.shiftLeft_eq, Nat.shiftRight_eq_div_pow]
    omega

theorem bitSum_congr {n : Nat} {x y : Nat → Nat} (h : ∀ i < n, x i = y i) : bitSum n x = bitSum n y := by
  induction n with
  | zero => rfl
  | succ n ih => rw [bitSum_succ, bitSum_succ, ih fun i hi => h i (Nat.lt_succ_of_lt hi), h n (Nat.lt_succ_self n)]

theorem dasOfLine_lineIdxOf (s : State) (a : Nat) : dasOfLine s (chanOf s a) (a / 64 % 2) (lineIdxOf s a) = a / 64 * 64 := by
  have hbits : bitSum (chanBits s) (fun i => (chanOf s a).val >>> i % 2 ^^^
      chanHash s (lineBase s (a / 64 % 2) (lineIdxOf s a)) i) = (a >>> 8) % 2 ^ chanBits s := by
    rw [← bitSum_bits]
    refine bitSum_congr fun i hi => ?_
    rw [chanOf_val, bitSum_bit (fun i => hashedBit_lt s a i _) hi, chanHash_lineBase, Nat.xor_assoc, Nat.xor_self,
      Nat.xor_zero, Nat.shiftRight_add]
  rw [← lineBase_add_chanBits s a, ← hbits]
  exact foldl_chanBits (chanBits s) _ _

/-- Settles O43: the line index and the channel bits are put together again. -/
theorem addressDecodeInverts : Obligations.AddressDecodeInverts := by
  unfold Obligations.AddressDecodeInverts
  intro s a h
  exact ⟨rfl, (dasOfCoord_coordOf s _ a h).trans (dasOfLine_lineIdxOf s a)⟩

end Sys2Proof.Machine
end

section
/-!
PROOFS. The journal's commands (R478, R479, R484, R485, R487).
-/
namespace Sys2Proof.Machine
open Sys2Proof

/-- A packet whose next word has been read, with what the word's check reports of it. -/
def pktChecked (p : Pkt) (bad : Nat) : Pkt := { p with lenBad := p.lenBad || decide (p.read = 0 ∧ bad = 2) }

/-- What a read of JRN.POP leaves of the journal: the counters of R485 and the free value of an uncorrectable word are no part
of it. -/
theorem jrnPop_jrn {s : State} {p : Pkt} {ps : List Pkt} (h : s.jrn.pkts = p :: ps) (bad : Nat) : (jrnPop s bad).jrn =
    { s.jrn with
      tag := popTag (pktChecked p bad) s.jrn.lost bad
      latch := if bad = 2 then (jrnPop s bad).jrn.latch else smGet 0 s.jrn.ring ((p.start + p.read) % ringSize)
      lost := false
      pkts := if p.read + 1 = p.words then ps else { pktChecked p bad with read := p.read + 1 } :: ps } := by
  by_cases h1 : bad = 1
  · subst h1
    simp [jrnPop, h, doIf, pktChecked]
  · by_cases h2 : bad = 2
    · subst h2
      simp [jrnPop, h, doIf, drawFree, pktChecked]
    · simp [jrnPop, h, doIf, h1, h2, pktChecked]

theorem jrnPop_of_empty {s : State} (h : s.jrn.pkts = []) (bad : Nat) :
    jrnPop s bad = { s with jrn := { s.jrn with tag := 0, latch := 0 } } := by
  unfold jrnPop
  rw [h]

theorem journalRecord_enters {s : State} {e : JrnEvt} {q : List JrnEvt} (h : s.jrn.queue = e :: q)
    (hroom : s.jrn.chain.length + (chainOf e).length ≤ 16) :
    journalRecord s = { s with jrn := { s.jrn with queue := q, chain := s.jrn.chain ++ chainOf e } } := by
  unfold journalRecord
  rw [h]
  exact if_pos hroom

theorem closePkt_cur {s : State} {o : OpenPkt} (h : s.jrn.cur = some o) (cause : CloseCause) : (closePkt s cause).jrn.cur = none := by
  unfold closePkt
  rw [h]
  rfl

theorem closeFor_between_events {s : State} {o : OpenPkt} (h : s.jrn.cur = some o) (hm : o.midEvt = false) (cause : CloseCause) :
    closeFor s cause = closePkt s cause := by
  simp [closeFor, h, hm]

theorem closeFor_within_event {s : State} {o : OpenPkt} (h : s.jrn.cur = some o) (hm : o.midEvt = true) (cause : CloseCause) :
    closeFor s cause = { s with jrn := { s.jrn with cur := some { o with closing := some (o.closing.getD cause) } } } := by
  simp [closeFor, h, hm]

theorem packetCloseTime_of_due {s : State} (h : closeDue s = true) : packetCloseTime s = closeFor s .time := by
  simp [packetCloseTime, h]

/-- Settles O33. -/
theorem journalComplete : Obligations.JournalComplete := by
  unfold Obligations.JournalComplete
  intro s
  refine ⟨fun e q hq hroom => congrArg _ (journalRecord_enters hq hroom), fun o ho hm => ?_, fun o ho hm => ?_, rfl,
    fun bad p ps hp => ⟨_, rfl, ?_⟩, fun bad hp => congrArg _ (jrnPop_of_empty hp _)⟩
  · exact ⟨fun hd => congrArg _ ((packetCloseTime_of_due hd).trans (closeFor_between_events ho hm _)),
      congrArg _ (closeFor_between_events ho hm _), closePkt_cur ho _, closePkt_cur ho _⟩
  · exact ⟨fun hd => congrArg _ ((packetCloseTime_of_due hd).trans (closeFor_within_event ho hm _)),
      congrArg _ (closeFor_within_event ho hm _)⟩
  · dsimp only
    rw [jrnPop_jrn hp]
    exact ⟨rfl, fun hb => if_neg hb, rfl, rfl⟩

end Sys2Proof.Machine
end

section
/-!
PROOFS. Power states, the drain and the reset pins (R202, R204, R322, R496, R498 to R510).
-/
namespace Sys2Proof.Machine
open Sys2Proof

/-- A command that answers the next state `u` answers every state that `u` is. -/
theorem next_of_eq {u t : State} (h : u = t) : (Host.Outcome.next u : Host.Outcome State Fault Refusal) = .next t :=
  congrArg _ h

theorem doIf_false (f : State → State) (s : State) : doIf false f s = s := rfl

theorem doIf_pwr {m : PwrSt} {f : State → State} {b : Bool} {s : State} (hs : s.pwr = m)
    (h : ∀ u, u.pwr = m → (f u).pwr = m) : (doIf b f s).pwr = m := by
  cases b
  · exact hs
  · exact h s hs

/-! Power states. -/

theorem pwrSet_pwr (s : State) (x : PwrState) : (pwrSet s x).pwr = { s.pwr with state := x } := by
  unfold pwrSet
  split
  · next h => rw [← h]
  · simp

theorem stateCmd_accepted {s : State} {x : PwrState} (hx : x ≠ .off) (h : stateRefusal (setFld s rPwrStateCmd 1 0 (pwrNo x)) x = 0) :
    (stateCmd s x).pwr.state = x ∧ (stateCmd s x).pwr.cmdRes = 1 := by
  unfold stateCmd
  simp only [h, ne_eq, not_true_eq_false, if_false, hx]
  split
  · next hst => exact ⟨hst, rfl⟩
  · rw [pwrSet_pwr]
    exact ⟨rfl, rfl⟩

theorem stateCmd_off {s : State} (h : stateRefusal (setFld s rPwrStateCmd 1 0 3) .off = 0) : stateCmd s .off =
    drainBegin (modPwr (setFld s rPwrStateCmd 1 0 3) fun p => { p with cmdRes := 1, cmdWhy := 0 }) true := by
  unfold stateCmd
  simp only [pwrNo, h, ne_eq, not_true_eq_false, if_false, if_true]

/-! PFAIL_N. -/

theorem pfailReturn_low {s : State} (h : s.pwr.pfail = true) (hr : s.pwr.rst = none) :
    (pfailReturn s).pwr.pfail = false ∧ (pfailReturn s).cure.drain = s.cure.drain := by
  simp only [pfailReturn, h, hr, Option.isNone_none, and_self, if_true]
  split <;> simp

/-- A fall of PFAIL_N that is seen, by what the drain does in the state `u` that it has left. -/
theorem pfailLow_seen {s u : State} (hr : s.pwr.rst = none) (hp : s.pwr.pfail = false)
    (hu : u = pwrArm (pfailChans (cntInc (modPwr s fun p => { p with pfail := true, seen := true }) rPwrPfailCnt))) :
    (u.cure.drain = .none → pfailLow s = drainBegin (ev u 782) false) ∧
    (u.cure.drain = .complete → pfailLow s = u) ∧
    (u.cure.drain ≠ .none → u.cure.drain ≠ .complete → pfailLow s =
      if u.pwr.asked then ev (modPwr u fun p => { p with
        asked := false, cureWait := false, cureMet := if u.pwr.cureWait then epLe u.pwr.e1 (curC u) else u.pwr.cureMet }) 782
      else u) := by
  unfold pfailLow
  rw [if_neg (by simp [hr, hp])]
  dsimp only
  rw [← hu]
  clear hu
  refine ⟨fun h => by rw [h], fun h => by rw [h], fun hn hc => ?_⟩
  cases h : u.cure.drain with
  | none => exact absurd h hn
  | complete => exact absurd h hc
  | started => rfl
  | recorded => rfl

theorem cureWaitEnd_ends {s : State} {late : Bool} (hw : s.pwr.cureWait = true) (h : late = true ∨ epLe s.pwr.e1 (curC s) = true ∨
    s.cure.mstate = .degraded ∨ s.cure.mstate = .detached) :
    cureWaitEnd s late = modPwr s fun p => { p with cureWait := false, cureMet := epLe s.pwr.e1 (curC s) } := by
  unfold cureWaitEnd
  rw [if_pos hw]
  refine if_pos ?_
  simp only [Bool.or_eq_true, decide_eq_true_eq]
  rcases h with h | h | h | h <;> simp only [h, true_or, or_true]

/-! The drain. -/

theorem drainRecords_records {s : State} (h : s.cure.drain = .started) (hw : s.pwr.cureWait = false)
    (hq : drainQuiet (vnrClean s) = true) : (drainRecords s).cure.drain = .recorded := by
  unfold drainRecords
  simp only [h, hw, hq, Bool.not_false, and_self, if_true]
  rfl

theorem drainComplete_off {s : State} (h : s.cure.drain = .recorded)
    (hc : allChans.all (fun c => (chan s c).phy.run.isNone && (!drainChan s c || chanEmpty s c)) = true) :
    (drainComplete s).pwr.state = .off := by
  unfold drainComplete
  rw [if_pos ⟨h, hc⟩]
  dsimp only
  rw [pwrSet_pwr]

/-! The reset pins. -/

theorem pinsForced_rest (s : State) : (forEach allChans s pinsForced).pending = s.pending ∧
    (forEach allChans s pinsForced).pwr = s.pwr ∧ (forEach allChans s pinsForced).vnr = s.vnr := by
  have h := forEach_kept (al := [Part.csr, .chans, .dram].contains) (.refl s) allChans pinsForced
    fun _ c k => pinsForced_kept (.of rfl) k c
  exact ⟨h.pending, h.same .pwr rfl, h.same .vnr rfl⟩

/-- The pin a reset is in: PORST_N stays where it is low already. -/
def resetPin (s : State) (pin : RstPin) : RstPin := if s.pwr.rst = some .porst then .porst else pin

theorem resetAssert_fields (s : State) (pin : RstPin) :
    let t := resetAssert s pin
    t.pwr.rst = some (resetPin s pin) ∧ t.pending = s.pending ∧ t.conns = [] ∧ t.tt = [] ∧ t.ports = State.reset.ports ∧
    t.evt = State.reset.evt ∧ t.jrn = State.reset.jrn ∧
    t.vnr = { State.reset.vnr with slices := s.vnr.slices.map (sliceReset (resetPin s pin)) } ∧ t.cure = State.reset.cure ∧
    t.tier = State.reset.tier ∧ t.arm = State.reset.arm := by
  obtain ⟨hpend, hpwr, hvnr⟩ := pinsForced_rest s
  unfold resetAssert resetPin
  dsimp only
  rw [hpend, hpwr, hvnr]
  exact ⟨rfl, rfl, rfl, rfl, rfl, rfl, rfl, rfl, rfl, rfl, rfl⟩

theorem resetPin_porst (s : State) : resetPin s .porst = .porst := ite_self _

theorem resetRelease_seen {s : State} (h : s.pwr.rst ≠ none) :
    (resetRelease s false).pwr = { s.pwr with rst := none } ∧ resetRelease s true = pfailLow (resetRelease s false) := by
  have hsome : s.pwr.rst.isSome = true := Option.isSome_iff_ne_none.2 h
  unfold resetRelease
  rw [if_pos hsome, if_pos hsome]
  refine ⟨?_, rfl⟩
  rw [doIf_false]
  exact doIf_pwr (doIf_pwr rfl fun _ hu => (evd_pwr ..).trans hu) fun _ hu => (ev_pwr ..).trans hu

/-! The Keeper's supply. -/

theorem forEach_pwr {α : Type} {m : PwrSt} {f : State → α → State} {xs : List α} {s : State} (hs : s.pwr = m)
    (h : ∀ u x, u.pwr = m → (f u x).pwr = m) : (forEach xs s f).pwr = m := by
  unfold forEach
  induction xs generalizing s with
  | nil => exact hs
  | cons x xs ih => exact ih (h s x hs)

theorem forEach_chans {α : Type} {m : Vector ChanSt 16} {f : State → α → State} {xs : List α} {s : State} (hs : s.chans = m)
    (h : ∀ u x, u.chans = m → (f u x).chans = m) : (forEach xs s f).chans = m := by
  unfold forEach
  induction xs generalizing s with
  | nil => exact hs
  | cons x xs ih => exact ih (h s x hs)

theorem doIf_chans {m : Vector ChanSt 16} {f : State → State} {b : Bool} {s : State} (hs : s.chans = m)
    (h : ∀ u, u.chans = m → (f u).chans = m) : (doIf b f s).chans = m := by
  cases b
  · exact hs
  · exact h s hs

theorem vkeepFail_fields {s : State} (h : s.pwr.vkeep = true) :
    (vkeepFail s).pwr = { s.pwr with vkeep := false } ∧ (vkeepFail s).chans = s.chans := by
  unfold vkeepFail
  rw [if_pos h]
  constructor
  · exact doIf_pwr (forEach_pwr rfl fun _ _ hu => doIf_pwr hu fun _ hv => hv) fun _ hu => (ev_pwr ..).trans hu
  · exact doIf_chans (forEach_chans rfl fun _ _ hu => doIf_chans hu fun _ hv => hv) fun _ hu => (ev_chans ..).trans hu

/-- A walk that sets the Keeper's state of each channel it meets has set those it has met. -/
theorem forEach_modKeep_const {k : KeepSt} {c : Fin 16} {xs : List (Fin 16)} {s : State} (h : c ∈ xs ∨ (chan s c).keep = k) :
    (chan (forEach xs s fun s d => modKeep s d fun _ => k) c).keep = k := by
  unfold forEach
  induction xs generalizing s with
  | nil => exact h.resolve_left List.not_mem_nil
  | cons d xs ih =>
    refine ih ?_
    by_cases hd : d = c
    · subst hd
      exact .inr (congrArg ChanSt.keep (modChan_chan ..))
    · rcases h with h | h
      · exact .inl ((List.mem_cons.1 h).resolve_left fun e => hd e.symm)
      · exact .inr ((congrArg ChanSt.keep (modChan_chan_ne s d c _ hd)).trans h)

theorem vkeepPowerUp_fields {s : State} (h : s.pwr.vkeep = false) :
    (vkeepPowerUp s).pwr = { s.pwr with vkeep := true } ∧ ∀ c, (chan (vkeepPowerUp s) c).keep = ChanSt.reset.keep := by
  unfold vkeepPowerUp
  rw [if_neg (by simp [h])]
  refine ⟨?_, fun c => ?_⟩
  · rw [modPwr_pwr, setReg_pwr, setReg_pwr, forEach_pwr (m := s.pwr)]
    · exact forEach_pwr rfl fun _ _ hu => doIf_pwr hu fun _ hv => hv
    · exact fun _ _ hu => hu
  · rw [chan_of_chans (modPwr_chans ..), chan_of_chans (setReg_chans ..), chan_of_chans (setReg_chans ..)]
    exact forEach_modKeep_const (.inl (List.mem_finRange c))

/-- Settles O34. -/
theorem powerComplete : Obligations.PowerComplete := by
  unfold Obligations.PowerComplete
  intro s
  refine ⟨?_, fun h => next_of_eq (stateCmd_off h), fun h hr => ⟨_, rfl, pfailReturn_low h hr⟩, fun hr hp => ?_,
    fun late hw h => next_of_eq (cureWaitEnd_ends hw h), fun h hw hq => ⟨_, rfl, drainRecords_records h hw hq⟩,
    fun h hc => ⟨_, rfl, drainComplete_off h hc⟩, ?_, ⟨_, rfl, resetAssert_fields s .srst⟩,
    fun h => ⟨_, rfl, (resetRelease_seen h).1, next_of_eq (resetRelease_seen h).2⟩, fun h => ⟨_, rfl, vkeepFail_fields h⟩,
    fun h => ⟨_, rfl, vkeepPowerUp_fields h⟩⟩
  · intro c x hcx h
    simp only [List.mem_cons, Prod.mk.injEq, List.not_mem_nil, or_false] at hcx
    rcases hcx with ⟨rfl, rfl⟩ | ⟨rfl, rfl⟩ | ⟨rfl, rfl⟩ <;> exact ⟨_, rfl, stateCmd_accepted (by decide) h⟩
  · intro u
    obtain ⟨hnone, hcomplete, hrun⟩ := pfailLow_seen (u := u) hr hp rfl
    refine ⟨fun h => next_of_eq (hnone h), fun h => ?_, fun hn hc ha => next_of_eq ((hrun hn hc).trans (if_pos ha))⟩
    by_cases hc : u.cure.drain = .complete
    · exact next_of_eq (hcomplete hc)
    · obtain ⟨hn, ha⟩ := h.resolve_left hc
      exact next_of_eq ((hrun hn hc).trans (if_neg (by simp [ha])))
  · intro c hc
    have h := resetAssert_fields s .porst
    rw [resetPin_porst] at h
    simp only [List.mem_cons, List.not_mem_nil, or_false] at hc
    rcases hc with rfl | rfl <;> exact ⟨_, rfl, h⟩

end Sys2Proof.Machine
end


section
/-!
PROOFS. Retained data (O58), the PHY, training, probing and the sideband (O7).
-/
namespace Sys2Proof.Machine
open Sys2Proof

/-! What a conditional change and a repeated one keep. -/

theorem doIf_keeps (P : State → Prop) {b : Bool} {f : State → State} {s : State} (hs : P s) (hf : ∀ u, P u → P (f u)) :
    P (doIf b f s) := by
  unfold doIf
  split
  · exact hf s hs
  · exact hs

theorem forEach_keeps {α : Type} (P : State → Prop) {xs : List α} {f : State → α → State} {s : State} (hs : P s)
    (hf : ∀ u x, P u → P (f u x)) : P (forEach xs s f) :=
  List.foldlRecOn xs f hs fun u hu x _ => hf u x hu

/-! A channel after a change of one of its parts. -/

@[simp] theorem chan_ev (s : State) (id : Nat) (c : Fin 16) : chan (ev s id) c = chan s c := chan_of_chans (ev_chans s id) c
@[simp] theorem chan_evd (s : State) (id : Nat) (ds : List Word32) (c : Fin 16) : chan (evd s id ds) c = chan s c :=
  chan_of_chans (evd_chans s id ds) c
@[simp] theorem chan_evo (s : State) (id : Nat) (ds : List Word32) (o : EvtOrigin) (c : Fin 16) :
    chan (evo s id ds o) c = chan s c := chan_of_chans (evo_chans s id ds o) c
@[simp] theorem chan_cntInc (s : State) (r : RegRef) (c : Fin 16) : chan (cntInc s r) c = chan s c := rfl
@[simp] theorem chan_cntAdd (s : State) (r : RegRef) (k : Nat) (c : Fin 16) : chan (cntAdd s r k) c = chan s c := rfl
@[simp] theorem chan_rcOr (s : State) (r : RegRef) (m : Word64) (c : Fin 16) : chan (rcOr s r m) c = chan s c := rfl
@[simp] theorem chan_setFld (s : State) (r : RegRef) (hi lo x : Nat) (c : Fin 16) : chan (setFld s r hi lo x) c = chan s c := rfl
@[simp] theorem chan_setReg (s : State) (r : RegRef) (v : Word64) (c : Fin 16) : chan (setReg s r v) c = chan s c := rfl
@[simp] theorem chan_askFence (s : State) (d : Fin 16) (code evt : Nat) (c : Fin 16) : chan (askFence s d code evt) c = chan s c := rfl
@[simp] theorem chan_modPhy (s : State) (c : Fin 16) (f : PhySt → PhySt) :
    chan (modPhy s c f) c = { chan s c with phy := f (chan s c).phy } := modChan_chan s c _
@[simp] theorem chan_modKeep (s : State) (c : Fin 16) (f : KeepSt → KeepSt) :
    chan (modKeep s c f) c = { chan s c with keep := f (chan s c).keep } := modChan_chan s c _
@[simp] theorem chan_modSch (s : State) (c : Fin 16) (f : SchedSt → SchedSt) :
    chan (modSch s c f) c = { chan s c with sch := f (chan s c).sch } := modChan_chan s c _
@[simp] theorem chan_modRef (s : State) (c : Fin 16) (f : RefSt → RefSt) :
    chan (modRef s c f) c = { chan s c with ref := f (chan s c).ref } := modChan_chan s c _
@[simp] theorem chan_modCode (s : State) (c : Fin 16) (f : CodeSt → CodeSt) :
    chan (modCode s c f) c = { chan s c with code := f (chan s c).code } := modChan_chan s c _

/-! Training (R206 to R210). -/

theorem trainGo_started {s : State} {c : Fin 16} {m : TrainMode} (ha : trainAccepted s c = true)
    (h : m ≠ .cold ∨ (chan (if m = .retrain then s else trainOpen s c) c).keep.retained = false) :
    trainGo s c m = modPhy (if m = .retrain then s else trainOpen s c) c fun p => { p with
      run := some m, train := .training, info := ⟨false, if m = .retrain then 5 else 3, 0, false, 15⟩ } := by
  have hk : ¬ (m = .cold ∧ (chan (if m = .retrain then s else trainOpen s c) c).keep.retained = true) := by
    rintro ⟨hm, hr⟩
    exact h.elim (· hm) fun h => by simp [hr] at h
  unfold trainGo
  simp only [if_pos ha, if_neg hk]

theorem trainGo_guarded {s : State} {c : Fin 16} (ha : trainAccepted s c = true)
    (hr : (chan (trainOpen s c) c).keep.retained = true) :
    trainGo s c .cold = ev (trainFail (trainOpen s c) c ⟨true, 3, 0, false, 15⟩) (chEv c 20) := by
  unfold trainGo
  simp [ha, hr]

@[simp] theorem chan_trainOpen (s : State) (c : Fin 16) : chan (trainOpen s c) c =
    { chan s c with phy := { (chan s c).phy with pllLock := true }, keep := { (chan s c).keep with owner := false } } := by
  simp [trainOpen]

@[simp] theorem chan_trainFail (s : State) (c : Fin 16) (i : TrainInfo) : chan (trainFail s c i) c =
    { chan s c with phy := { (chan s c).phy with train := .failed, run := none, info := { i with fail := true } } } := by
  simp [trainFail]

/-- The device is HELD exactly where the device Hold lasts and every populated channel is HELD (R167). -/
theorem devHeld_iff (s : State) : devHeld s = true ↔ devState s = 2 := by
  have hh : devHeld s = (devHolding s && (popChans s).all fun c => decide ((chan s c).sch.hold = .held)) := by
    unfold devHeld devHolding popChans
    rw [List.any_filter, List.all_filter]
    congr 2
    funext c
    by_cases hc : c.val < chanCount s <;> simp [hc, Nat.not_le.mpr, Nat.not_lt.mp]
  have hr (hall : (popChans s).all (fun c => decide ((chan s c).sch.hold = .held)) = true) :
      (popChans s).any (fun c => decide ((chan s c).sch.hold = .releasing) && (chan s c).sch.inDev) = false := by
    simp only [List.all_eq_true, decide_eq_true_eq] at hall
    simp only [List.any_eq_false]
    intro c hc
    simp [hall c hc]
  rw [hh]
  unfold devState
  cases hd : devHolding s
  · simp
  · cases ha : (popChans s).all fun c => decide ((chan s c).sch.hold = .held)
    · simp only [Bool.and_false, Bool.false_eq_true, false_iff]
      split
      · simp
      · split <;> simp
    · simp [hr ha]

theorem discard_held {s : State} (c : Fin 16) (h : devHeld s = true) :
    discard s c = ev (modKeep s c fun k => { k with retained := false }) (chEv c 20) := if_pos h

theorem discard_other {s : State} (c : Fin 16) (h : ¬ devHeld s = true) : discard s c = s := if_neg h

/-- Settles O58: a cold run meets the guard at step 3, and the discard is taken where the device is HELD. -/
theorem retainedDataIsGuarded : Obligations.RetainedDataIsGuarded := by
  unfold Obligations.RetainedDataIsGuarded
  intro s c
  refine ⟨fun ha hr => ⟨_, next_of_eq (trainGo_guarded ha (by simpa using hr)), ?_, ?_, ?_⟩,
    fun ha hr => ⟨_, next_of_eq (trainGo_started ha (.inr (by simpa using hr))), ?_, ?_⟩,
    fun h => next_of_eq (discard_held c ((devHeld_iff s).mpr h)),
    fun h => next_of_eq (discard_other c fun hd => h ((devHeld_iff s).mp hd))⟩
  · simpa using hr
  · simp
  · simp
  · simp
  · simp

end Sys2Proof.Machine
end


section
/-!
PROOFS. The PHY, training, probing and the sideband (O7).
-/
namespace Sys2Proof.Machine
open Sys2Proof

/-! A run's end (R209, R210). -/

theorem trainDone_succeeds {s : State} {c : Fin 16} {m : TrainMode} {e : TrainEnd} (hr : (chan s c).phy.run = some m)
    (he : e.fail = none) : ∃ u, trainDone s c e = modPhy u c fun p => { p with
      run := none, train := .trained, pranks := BitVec.ofNat 4 (2 ^ prankCount u - 1), streak := 0, oscFail := [], carry := []
      info := ⟨false, 14, 0, false, 15⟩ } := by
  unfold trainDone
  simp only [hr, he]
  exact ⟨_, rfl⟩

theorem trainDone_fails {s : State} {c : Fin 16} {m : TrainMode} {e : TrainEnd} {i : TrainInfo}
    (hr : (chan s c).phy.run = some m) (he : e.fail = some i) (hm : m = .cold ∨ m = .warm ∧ i.step.toNat < 7) :
    ∃ u, trainDone s c e = trainFail u c i := by
  have hn : ¬ (m = .retrain ∨ m = .warm ∧ 7 ≤ i.step.toNat) := by
    rcases hm with rfl | ⟨rfl, h⟩
    · simp
    · simp [Nat.not_le.mpr h]
  unfold trainDone
  simp only [hr, he, if_neg hn]
  exact ⟨_, rfl⟩

theorem trainAbort_left {s : State} {c : Fin 16} (hr : (chan s c).phy.run = some .retrain) (hh : (chan s c).sch.hold ≠ .held)
    (step : BitVec 4) (lanes : List LaneFound) (vrefs : List VrefFound) : trainAbort s c step lanes vrefs = fenceIfInService
      (trainFail (trainApply s c (min 14 (step.toNat + 1)) lanes vrefs) c ⟨true, step, 0, false, 15⟩) c 1 := by
  unfold trainAbort
  rw [if_pos ⟨hr, hh⟩]

/-! The Keeper (R203, R205). -/

theorem handover_done {s : State} {c : Fin 16} (hs : allSr s c = true) (ho : (chan s c).keep.owner = false) :
    handover s c = modKeep s c fun k => { k with owner := true, handovers := k.handovers + 1, retained := true } := by
  unfold handover
  rw [if_pos (by simp [hs, ho])]
  rfl

theorem takeback_done {s : State} {c : Fin 16} (h : (chan s c).phy.pllLock = true) :
    takeback s c = modKeep s c fun k => { k with owner := false } := if_pos h

/-! Alerts (R214, R216). -/

theorem phyAlert_ignored {s : State} {c : Fin 16} (h : (chan s c).keep.owner = true) (crc : Bool) : phyAlert s c crc = s := if_pos h

/-- What the replay leaves: the registers, the Beat, and the alert's own record. -/
def AlertKept (s u : State) (c : Fin 16) : Prop :=
  u.csr = s.csr ∧ u.beat = s.beat ∧ (chan u c).phy.lastAlert = (chan s c).phy.lastAlert ∧
    (chan u c).phy.streak = (chan s c).phy.streak

theorem AlertKept.refl (s : State) (c : Fin 16) : AlertKept s s c := ⟨rfl, rfl, rfl, rfl⟩

theorem AlertKept.modSch {s u : State} {c : Fin 16} (h : AlertKept s u c) (f : SchedSt → SchedSt) :
    AlertKept s (modSch u c f) c := by
  obtain ⟨hc, hb, hl, hs⟩ := h
  exact ⟨hc, hb, by simpa using hl, by simpa using hs⟩

theorem alertKept_setDramLine {s u : State} {c : Fin 16} (h : AlertKept s u c) (k : Coord) (r : RawLine) :
    AlertKept s (setDramLine u k r) c := by
  have kept := setDramLine_kept (al := [Part.dram].contains) (.of rfl) (.refl u) k r
  have hk : chan (setDramLine u k r) c = chan u c := chan_of_chans (kept.same .chans rfl) c
  have hr : (setDramLine u k r).csr = u.csr := kept.same .csr rfl
  have hn : (setDramLine u k r).beat = u.beat := kept.same .beat rfl
  obtain ⟨hc, hb, hl, hs⟩ := h
  exact ⟨hr.trans hc, hn.trans hb, by rw [hk]; exact hl, by rw [hk]; exact hs⟩

theorem probeAbort_alert (s : State) (c : Fin 16) (cause : Nat) : (probeAbort s c cause).beat = s.beat ∧
    (chan (probeAbort s c cause) c).phy.lastAlert = (chan s c).phy.lastAlert ∧
    (chan (probeAbort s c cause) c).phy.streak = (chan s c).phy.streak := by
  unfold probeAbort
  split
  · simp
  · simp

theorem fenceIfInService_chan (s : State) (c : Fin 16) (code : Nat) (d : Fin 16) : chan (fenceIfInService s c code) d = chan s d := by
  unfold fenceIfInService
  split <;> rfl

theorem linkFail_alert (s : State) (c : Fin 16) : (chan (linkFail s c) c).phy.lastAlert = (chan s c).phy.lastAlert ∧
    (chan (linkFail s c) c).phy.streak = (chan s c).phy.streak := by
  unfold linkFail
  simp [fenceIfInService_chan]

theorem phyAlert_counted {s : State} {c : Fin 16} (h : (chan s c).keep.owner = false) (crc : Bool) :
    (chan (phyAlert s c crc) c).phy.lastAlert = some s.beat.fclk ∧
    (chan (phyAlert s c crc) c).phy.streak = if (chan s c).phy.lastAlert.any (fun u => decide (s.beat.fclk < u +
        alertFclk (probeAbort s c 4) c + alertFclk (probeAbort s c 4) c))
      then (chan s c).phy.streak + 1 else 1 := by
  unfold phyAlert
  rw [if_neg (by simp [h])]
  extract_lets a log b u p again n v w old x y z
  obtain ⟨hb, hl, hs⟩ : a.beat = s.beat ∧ (chan a c).phy.lastAlert = (chan s c).phy.lastAlert ∧
    (chan a c).phy.streak = (chan s c).phy.streak := probeAbort_alert s c 4
  have hu : AlertKept a u c := by
    refine forEach_keeps (AlertKept a · c) ((AlertKept.refl a c).modSch _) fun t e ht => ?_
    split
    · exact alertKept_setDramLine ht _ _
    · exact ht.modSch _
  obtain ⟨huc, hub, hul, hus⟩ := hu
  have hf : alertFclk u c = alertFclk a c := by unfold alertFclk fld getReg; rw [huc]
  have hn : n = if (chan s c).phy.lastAlert.any (fun t => decide (s.beat.fclk < t + alertFclk a c + alertFclk a c))
      then (chan s c).phy.streak + 1 else 1 := by
    have hag : again = (chan s c).phy.lastAlert.any (fun t => decide (s.beat.fclk < t + alertFclk a c + alertFclk a c)) := by
      simp only [again, p, hul, hl, hf, hub, hb]
      cases (chan s c).phy.lastAlert <;> rfl
    simp only [n, p, hag, hus, hs]
  have hz : (chan z c).phy.lastAlert = some s.beat.fclk ∧ (chan z c).phy.streak = n := by
    simp [z, y, x, w, v, hub, hb]
  rw [← hn]
  split
  · rw [(linkFail_alert z c).1, (linkFail_alert z c).2]; exact hz
  · exact hz

/-! Retraining windows (R217, R218). -/

theorem retrainWindow_eq {s : State} {c : Fin 16} (hv : s.beat.valid = true) (he : rbit s (rPhyRtCfg c.val) 31 = true)
    (hs : (chan s c).sch.sr = .active) (hw : windowOn s c = false) (osc : List OscRead) (sweep : List SweepRead)
    (failed cut : Bool) {go : Bool} {t : State}
    (hg : windowCheck s c (4 * fld s (rPhyRtCfg c.val) 9 0) (chan s c).ref.nextRetrain false = (go, t)) :
    retrainWindow s c osc sweep failed cut =
      if go then
        let u := retrainOpen t c failed
        let v := if cut then cutWindow u c else retrainAdjust u c (chan t c).phy.nextPrank osc sweep
        if smGet 0 (chan u c).phy.oscFail (chan t c).phy.nextPrank = 3 then linkFail v c else v
      else t := by
  unfold retrainWindow
  rw [if_pos (by simp [hv, he, hs, hw]), hg]

theorem chan_retrainOpen (s : State) (c : Fin 16) (failed : Bool) : 
    (chan (retrainOpen s c failed) c).phy.window = some (chan s c).phy.nextPrank ∧
    (chan (retrainOpen s c failed) c).ref.nextRetrain = none ∧
    (chan (retrainOpen s c failed) c).phy.oscFail = smSet 0 (chan s c).phy.oscFail (chan s c).phy.nextPrank
      (if failed then smGet 0 (chan s c).phy.oscFail (chan s c).phy.nextPrank + 1 else 0) := by
  simp [retrainOpen]

/-! Probing (R219 to R225). -/

theorem probeDwell_eq {s : State} {c : Fin 16} (hv : s.beat.valid = true) (hr : probeRun s c = true)
    (hd : (chan s c).phy.dwelling = false) : probeDwell s c =
      match (if decide (0 < (chan s c).phy.dwell) && tgtOk s c (chan s c).phy.target then some (chan s c).phy.target
        else tgtFrom s c (tgtIdx (chan s c).phy.target)) with
      | none => s
      | some t =>
        let go := windowCheck s c (4 * fld s (rPrbCfg c.val) 18 10) (chan s c).ref.nextDwell true
        if go.1 then
          modPhy (modRef go.2 c fun r => { r with nextDwell := none }) c fun p =>
            if decide (0 < (chan s c).phy.dwell) && tgtOk s c (chan s c).phy.target then
              { p with dwelling := true, dBits := Vector.replicate 4 0, dMisses := Vector.replicate 4 0 }
            else { p with
              dwelling := true, target := t, dwell := 0, bits := Vector.replicate 4 0, misses := Vector.replicate 4 0
              dBits := Vector.replicate 4 0, dMisses := Vector.replicate 4 0 }
        else go.2 := by
  unfold probeDwell
  rw [if_pos (by simp [hv, hr, hd])] <;> rfl

theorem probeDwellEnd_inside {s : State} {c : Fin 16} (hd : (chan s c).phy.dwelling = true)
    (h : (chan s c).phy.dwell + 1 < fld (cntInc s (rPrbDwellCnt c.val)) (rPrbCfg c.val) 30 27) :
    probeDwellEnd s c = modPhy (cntInc s (rPrbDwellCnt c.val)) c fun p => { p with
      dwelling := false, dwell := (chan s c).phy.dwell + 1
      bits := addV (chan s c).phy.bits (chan s c).phy.dBits, misses := addV (chan s c).phy.misses (chan s c).phy.dMisses
      dBits := Vector.replicate 4 0, dMisses := Vector.replicate 4 0 } := by
  unfold probeDwellEnd
  simp only [if_pos hd, if_neg (Nat.not_le.mpr h)]

theorem probeDwellEnd_last {s : State} {c : Fin 16} (hd : (chan s c).phy.dwelling = true)
    (h : fld (cntInc s (rPrbDwellCnt c.val)) (rPrbCfg c.val) 30 27 ≤ (chan s c).phy.dwell + 1) :
    ∃ u, probeDwellEnd s c = modPhy u c fun q => { q with
      dwelling := false, dwell := 0, bits := Vector.replicate 4 0, misses := Vector.replicate 4 0
      dBits := Vector.replicate 4 0, dMisses := Vector.replicate 4 0
      target := tgtOf ((tgtIdx (chan s c).phy.target + 1) % 160) } := by
  unfold probeDwellEnd
  simp only [if_pos hd, if_pos h]
  exact ⟨_, rfl⟩

theorem probeAbort_dwelling {s : State} {c : Fin 16} (h : (chan s c).phy.dwelling = true) (cause : Nat) :
    probeAbort s c cause = evd (cntInc (modPhy s c fun p => { p with
      dwelling := false, dwell := 0, bits := Vector.replicate 4 0, misses := Vector.replicate 4 0
      dBits := Vector.replicate 4 0, dMisses := Vector.replicate 4 0 }) (rPrbAbortCnt c.val)) (chEv c 18) (detail32 cause) :=
  if_pos h

/-! The sideband (R226, R229). -/

theorem regWriteAt_low {off : Nat} {h : RegHit} (hf : regFind off = some h) (hl : h.high = false) (s : State) (mid : BitVec 12)
    (v : Word64) (env : RegEnv) : regWriteAt s mid off v env = regWrite s mid h v env := by
  unfold regWriteAt
  simp [hf, hl]

theorem sbDone_eq {s : State} {c : Fin 16} {y : SbXfer} (h : (chan s c).phy.sb = some y) (hb : s.sbus[busOf c].cur = some c)
    (e : SbEnd) : sbDone s c e =
      let stop (k : BitVec 3) := modPhy s c fun p => { p with sb := none, sbResult := k }
      let again (k : BitVec 3) :=
        if y.tries < 3 then modPhy s c fun p => { p with sb := some { y with tries := y.tries + 1 } }
        else sbFailed (stop k) c k y.slot y.lid
      busFree (match e with
        | .ok d => if y.write then stop 0 else setReg (stop 0) (rSbiData c.val)
            (d.setWidth 64 &&& if y.len = 0 then 0xFF else if y.len = 1 then 0xFFFF else 0xFFFF_FFFF)
        | .absent => stop 4
        | .nack => again 1
        | .timeout => again 2) c := by
  have hm (l : BitVec 2) : (match l with | 0 => (0xFF : Word64) | 1 => 0xFFFF | _ => 0xFFFF_FFFF) =
      if l = 0 then 0xFF else if l = 1 then 0xFFFF else 0xFFFF_FFFF := by
    revert l; decide
  unfold sbDone
  simp only [h, hb, decide_true, Option.filter_some, if_true]
  rw [← hm] <;> rfl

theorem retrainEnd_open {s : State} {c : Fin 16} (h : (chan s c).phy.window.isSome = true) :
    retrainEnd s c = cntInc (modPhy s c fun p => { p with window := none }) (rPhyRtCnt c.val) := if_pos h

/-- Settles O7, a clause per command from the lemma about its operation. -/
theorem phyComplete : Obligations.PhyComplete := by
  unfold Obligations.PhyComplete
  intro s c
  dsimp only
  refine ⟨?_, ?_, ?_, ?_, ?_, ?_, ?_, ?_, ?_, ?_, ?_, ?_, ?_, ?_, ?_, ?_⟩
  case refine_1 =>
    intro i m hi ha
    have he : exec i s = .next (trainGo s c m) := by
      simp only [List.mem_cons, Prod.mk.injEq, List.not_mem_nil, or_false] at hi
      rcases hi with ⟨rfl, rfl⟩ | ⟨rfl, rfl⟩ | ⟨rfl, rfl⟩ <;> rfl
    refine ⟨fun h => he.trans (next_of_eq (trainGo_started ha h)), ?_⟩
    rintro rfl hr
    refine ⟨_, he.trans (next_of_eq (trainGo_guarded ha hr)), ?_, ?_, ?_⟩ <;> simp
  case refine_2 =>
    refine fun m e hr => ⟨fun he => ?_, fun i he hm => ?_⟩
    · obtain ⟨u, hu⟩ := trainDone_succeeds hr he
      refine ⟨_, next_of_eq hu, ?_, ?_, ?_, ?_⟩
      · simp
      · simp
      · simp only [chan_modPhy]; rfl
      · simp
    · obtain ⟨u, hu⟩ := trainDone_fails hr he hm
      refine ⟨_, next_of_eq hu, ?_, ?_, ?_⟩ <;> simp
  case refine_3 => exact fun step lanes vrefs hr hh => next_of_eq (trainAbort_left hr hh step lanes vrefs)
  case refine_4 => exact fun hs ho => next_of_eq (handover_done hs ho)
  case refine_5 => exact fun h => next_of_eq (takeback_done h)
  case refine_6 => exact fun h => next_of_eq (discard_held c h)
  case refine_7 => rfl
  case refine_8 => exact fun crc h => next_of_eq (phyAlert_ignored h crc)
  case refine_9 => exact fun crc h => ⟨_, rfl, phyAlert_counted h crc⟩
  case refine_10 =>
    intro osc sweep failed cut hv he hs hw
    rcases hw' : windowCheck s c (4 * fld s (rPhyRtCfg c.val) 9 0) (chan s c).ref.nextRetrain false with ⟨go, t⟩
    have key := retrainWindow_eq hv he hs hw osc sweep failed cut hw'
    refine ⟨fun hg => next_of_eq (key.trans (if_neg (Bool.eq_false_iff.mp hg))), fun hg => ?_⟩
    rw [if_pos hg] at key
    obtain ⟨h1, h2, h3⟩ := chan_retrainOpen t c failed
    exact ⟨h1, h2, h3, fun h => next_of_eq (key.trans (if_pos h)), fun h => next_of_eq (key.trans (if_neg h))⟩
  case refine_11 =>
    intro hv hr hd t
    have key := probeDwell_eq hv hr hd
    refine ⟨fun hp ht => ?_, fun hz ht => ?_⟩
    · simp only [hp, ht, decide_true, Bool.and_self, if_true] at key
      exact ⟨fun hg => next_of_eq (key.trans (by rw [if_neg (by simp [hg])])), fun hg => next_of_eq (key.trans (if_pos hg))⟩
    · simp only [hz, ht, Nat.lt_irrefl, decide_false, Bool.false_and, Bool.false_eq_true, if_false] at key
      exact ⟨fun hg => next_of_eq (key.trans (by rw [if_neg (by simp [hg])])), fun hg => next_of_eq (key.trans (if_pos hg))⟩
  case refine_12 =>
    refine fun hd => ⟨fun h => next_of_eq (probeDwellEnd_inside hd h), fun h => ?_,
      fun k => next_of_eq (probeAbort_dwelling hd (causeNo k))⟩
    obtain ⟨u, hu⟩ := probeDwellEnd_last hd h
    refine ⟨_, next_of_eq hu, ?_, ?_, ?_⟩ <;> simp
  case refine_13 => exact fun mid v h hf hl => next_of_eq (regWriteAt_low hf hl s mid _ noEnv)
  case refine_14 =>
    intro y hy hb
    have key := sbDone_eq hy hb
    refine ⟨fun d => next_of_eq (key (.ok d)), next_of_eq (key .absent), fun ht e he => ?_, fun ht => ?_⟩
    · refine next_of_eq ((key e).trans ?_)
      rcases he with rfl | rfl <;> simp [ht]
    · have ht' := Nat.not_lt.mpr ht
      exact ⟨next_of_eq ((key .nack).trans (by simp [ht'])), next_of_eq ((key .timeout).trans (by simp [ht']))⟩
  case refine_15 => rfl
  case refine_16 => exact fun h => next_of_eq (retrainEnd_open h)

end Sys2Proof.Machine
end


section
/-!
PROOFS. Requests presented on REQ (O1), and those accepted at a power failure (O56).
-/
namespace Sys2Proof.Machine
open Sys2Proof

theorem port_requestTaken (s : State) (p : Fin 8) (q : FrpReq) :
    port (requestTaken s p q) p = { port s p with tags := (port s p).tags ++ [q.tag.val] } := modPort_port ..

theorem requestTaken_adm (s : State) (p : Fin 8) (q : FrpReq) : (requestTaken s p q).adm = s.adm := rfl

/-- A port that takes a request is UP. -/
theorem mode_of_reqReady {s : State} {p : Fin 8} (h : reqReady s p = true) : (port s p).mode = .up := by
  simp only [reqReady, Bool.and_eq_true, decide_eq_true_eq] at h
  exact h.1

/-! At a power failure (R65). -/

theorem firstChecks_power {s : State} (p : Fin 8) {op : Option MemOp} {q : FrpReq} (hmid : q.mid.getLsbD 11 = false)
    (hflags : flagsBad op q = false) (hdrain : inDrain s = true) : firstChecks s p op false q = (some .errPower, s) := by
  simp only [firstChecks, hmid, hflags, hdrain, Bool.false_eq_true, if_false, Bool.not_false, Bool.and_self, if_true]

theorem acceptReq_power {s : State} {p : Fin 8} {op : MemOp} {q : FrpReq} (err : RawLine) (hready : reqReady s p = true)
    (htag : (port s p).tags.contains q.tag.val = false) (hmid : q.mid.getLsbD 11 = false) (hflags : flagsBad (some op) q = false)
    (hdrain : inDrain s = true) :
    acceptReq s p op q err = refuseAtPort (requestTaken s p q) p (isWriteOp op) q.tag.val .errPower := by
  simp only [acceptReq, hready, if_true, takeReq_of_tag_free _ htag,
    firstChecks_power (s := requestTaken s p q) p hmid hflags hdrain]

theorem acceptFence_power {s : State} {p : Fin 8} {q : FrpReq} (hready : reqReady s p = true)
    (htag : (port s p).tags.contains q.tag.val = false) (hmid : q.mid.getLsbD 11 = false) (hflags : flagsBad none q = false)
    (hdrain : inDrain s = true) :
    acceptFence s p q = refuseAtPort (requestTaken s p q) p false q.tag.val .errPower := by
  simp only [acceptFence, hready, if_true, takeReq_of_tag_free _ htag,
    firstChecks_power (s := requestTaken s p q) p hmid hflags hdrain]

/-- Settles O56: the check of PFAIL_N precedes those of the address and the lock, and the refusal completes at the port. -/
theorem powerFailRefusals : Obligations.PowerFailRefusals := by
  unfold Obligations.PowerFailRefusals
  intro s p q err i op hi hready htag hmid hflags hdrain
  have hup : (port (requestTaken s p q) p).mode = .up := (requestTaken_mode s p q).trans (mode_of_reqReady hready)
  have hrun : ∃ wr, exec i s = .next (refuseAtPort (requestTaken s p q) p wr q.tag.val .errPower) := by
    have hreq (o : MemOp) (e : RawLine) (ho : flagsBad (some o) q = false) := acceptReq_power e hready htag hmid ho hdrain
    simp only [List.mem_cons, Prod.mk.injEq, List.not_mem_nil, or_false] at hi
    rcases hi with ⟨rfl, rfl⟩ | ⟨rfl, rfl⟩ | ⟨rfl, rfl⟩ | ⟨rfl, rfl⟩ | ⟨rfl, rfl⟩ | ⟨rfl, rfl⟩ | ⟨rfl, rfl⟩ | ⟨rfl, rfl⟩ | ⟨rfl, rfl⟩
    case inr.inr.inr.inr.inr.inr.inr.inr => exact ⟨false, next_of_eq (acceptFence_power hready htag hmid hflags hdrain)⟩
    all_goals exact ⟨_, next_of_eq (hreq _ _ hflags)⟩
  obtain ⟨wr, hrun⟩ := hrun
  have hkept := refuseAtPort_kept allow_refusalParts (requestTaken_kept s p q) p wr q.tag.val .errPower
  exact ⟨_, hrun, congrArg AdmSt.wait (hkept.same .adm rfl), hkept.same .tt rfl, completed_refuseAtPort _ _ _ hup⟩

/-! A request that takes its place in its queue (R37, R51). -/

theorem retDirty_ports (s : State) (b : Bool) (p : Nat) : (doIf b (fun s => retDirty s p) s).ports = s.ports := by cases b <;> rfl
theorem retDirty_adm (s : State) (b : Bool) (p : Nat) : (doIf b (fun s => retDirty s p) s).adm = s.adm := by cases b <;> rfl

/-- A request joins the queue; a write without its beat waits for it. -/
theorem enqueue_joins {s : State} {p : Fin 8} {r : Req} (h : isWriteOp r.op = true → (port s p).wdBuf = []) :
    (enqueue s p r).adm.wait = s.adm.wait ++ [r] ∧ (port (enqueue s p r) p).places = (port s p).places + 1 ∧
      (port (enqueue s p r) p).tags = (port s p).tags := by
  unfold enqueue
  extract_lets m a b d
  have hdp : port d p = { port s p with places := (port s p).places + 1 } :=
    (port_of_ports (retDirty_ports b _ _) p).trans (modPort_port a p _)
  have hda : d.adm.wait = s.adm.wait ++ [r] := congrArg AdmSt.wait (retDirty_adm b _ _)
  by_cases hw : isWriteOp r.op = true
  · rw [if_pos hw, hdp]
    dsimp only
    rw [h hw]
    simp [hdp, hda]
  · rw [if_neg hw, hdp]
    exact ⟨hda, rfl, rfl⟩

/-- Outside a locked sequence a request with a good address that the port does not serve itself joins its queue (R54, R109). -/
theorem acceptMem_joins {s : State} {p : Fin 8} {r : Req} (tag : Nat) (err : RawLine) (hop : r.op ≠ .prefetch)
    (hlock : r.lock = false) (hend : r.lockEnd = false) (hbad : addrBad s r.op r.addr.toNat = false)
    (hserved : servedAtPort s r = false) : acceptMem s p r tag err = enqueue s p { r with pool := poolOf s r } := by
  obtain ⟨-, hzero⟩ := Bool.or_eq_false_iff.mp hserved
  have hlook : zeroLookup s r err = s := by simp [zeroLookup, hzero, doIf_false]
  unfold acceptMem
  simp only [hbad, Bool.false_eq_true, if_false, hlook, if_neg hop, hlock, hserved, Bool.or_self, hend, Bool.and_false,
    reduceCtorEq, decide_false]

/-- The flag rules leave no sequence end without a lock (R64). -/
theorem lockEnd_of_flags {op : Option MemOp} {q : FrpReq} (h : flagsBad op q = false) (hl : q.lock = false) : q.lockEnd = false := by
  have h2 := (Bool.or_eq_false_iff.mp h).2
  rwa [hl, Bool.not_false, Bool.and_true] at h2

/-! NOP, CURE_FENCE and the reserved opcodes (R53, R63). -/

theorem firstChecks_nop {s : State} (p : Fin 8) {q : FrpReq} (hmid : q.mid.getLsbD 11 = false)
    (hflags : flagsBad none q = false) : firstChecks s p none true q = (none, s) := by
  simp only [firstChecks, hmid, hflags, Bool.false_eq_true, if_false, Bool.not_true, Bool.and_false]

theorem acceptNop_taken {s : State} {p : Fin 8} {q : FrpReq} (hready : reqReady s p = true)
    (htag : (port s p).tags.contains q.tag.val = false) (hmid : q.mid.getLsbD 11 = false) (hflags : flagsBad none q = false) :
    acceptNop s p q = nopPump (modPort (requestTaken s p q) p fun x => { x with nops := x.nops ++
      [⟨q.tag.val, (port s p).tags.filter fun t => !((port s p).cmpBuf.any fun c => c.tag = t)⟩] }) p := by
  simp only [acceptNop, hready, if_true, takeReq_of_tag_free _ htag,
    firstChecks_nop (s := requestTaken s p q) p hmid hflags, port_requestTaken]

theorem acceptFence_taken {s : State} {p : Fin 8} {q : FrpReq} (hready : reqReady s p = true)
    (htag : (port s p).tags.contains q.tag.val = false) (hmid : q.mid.getLsbD 11 = false) (hflags : flagsBad none q = false)
    (hdrain : inDrain s = false) :
    acceptFence s p q = fencePump (modPort (requestTaken s p q) p fun x => { x with fences := x.fences ++
      [⟨q.tag.val, fenceCovers (requestTaken s p q) p, (port s p).eps, (port s p).lastEp, (port s p).lastMir⟩] }) p := by
  simp only [acceptFence, hready, if_true, takeReq_of_tag_free _ htag,
    firstChecks_pass (s := requestTaken s p q) p false hmid hflags hdrain, port_requestTaken]

theorem acceptReserved_taken {s : State} {p : Fin 8} {q : FrpReq} (hready : reqReady s p = true)
    (htag : (port s p).tags.contains q.tag.val = false) : acceptReserved s p q = refuseAtPort (lockCounted
      (perr (requestTaken s p q) p 21 q.tag.val { EvtOrigin.none with mid := q.mid }) p q) p false q.tag.val .errRange := by
  simp only [acceptReserved, hready, if_true, takeReq_of_tag_free _ htag]

/-- Settles O1: a request taken passes the first checks, and one that its port does not complete itself joins its queue. -/
theorem requestsComplete : Obligations.RequestsComplete := by
  unfold Obligations.RequestsComplete
  intro s p q hready htag hmid u
  refine ⟨fun c op far err hi hflags hdrain => ?_, fun hflags => next_of_eq (acceptNop_taken hready htag hmid hflags),
    fun hflags hdrain => next_of_eq (acceptFence_taken hready htag hmid hflags hdrain),
    fun op => next_of_eq (acceptReserved_taken hready htag)⟩
  have hrun : exec c s = .next (acceptMem u p (mkReq u p op q) q.tag.val err) := by
    have hc : exec c s = .next (acceptReq s p op q err) := by
      simp only [List.mem_cons, Prod.mk.injEq, List.not_mem_nil, or_false] at hi
      rcases hi with ⟨rfl, rfl, rfl⟩ | ⟨rfl, rfl, rfl⟩ | ⟨rfl, rfl, rfl⟩ | ⟨rfl, rfl, rfl⟩ | ⟨rfl, rfl, rfl⟩ | ⟨rfl, rfl, rfl⟩ |
        ⟨rfl, rfl, rfl⟩ | ⟨rfl, rfl, rfl⟩ <;> rfl
    exact hc.trans (next_of_eq (acceptReq_eq_acceptMem err hready htag hmid hflags hdrain))
  refine ⟨hrun, fun hop hlock hbad hserved hw => ⟨_, hrun, ?_⟩⟩
  rw [acceptMem_joins (r := mkReq u p op q) q.tag.val err hop hlock (lockEnd_of_flags hflags hlock) hbad hserved]
  obtain ⟨hwait, hplaces, htags⟩ := enqueue_joins (s := u) (p := p)
    (r := { mkReq u p op q with pool := poolOf u (mkReq u p op q) }) (by rw [port_requestTaken]; exact hw)
  refine ⟨hwait, hplaces.trans ?_, htags.trans ?_⟩ <;> rw [port_requestTaken]

end Sys2Proof.Machine
end


section
/-!
PROOFS. Transfers of a port's channels, its lines, and the notice channel (O2).
-/
namespace Sys2Proof.Machine
open Sys2Proof

/-! What the note of a requester's masking leaves (R134). -/

@[simp] theorem maskNote_ports (s : State) (r : Fin 20) : (maskNote s r).ports = s.ports :=
  (maskNote_kept (al := [Part.csr, .evt, .jrn, .adm].contains) (.of rfl) (.refl s) r).same .ports rfl

@[simp] theorem maskNote_cure (s : State) (r : Fin 20) : (maskNote s r).cure = s.cure :=
  (maskNote_kept (al := [Part.csr, .evt, .jrn, .adm].contains) (.of rfl) (.refl s) r).same .cure rfl

@[simp] theorem port_maskNote (s : State) (r : Fin 20) (p : Fin 8) : port (maskNote s r) p = port s p :=
  port_of_ports (maskNote_ports s r) p

@[simp] theorem port_ev (s : State) (id : Nat) (p : Fin 8) : port (ev s id) p = port s p := port_of_ports (ev_ports s id) p

/-! The channels of a port (R50, R51, R58 to R60). -/

theorem wdBeat_taken {s : State} {p : Fin 8} (hup : (port s p).mode = .up) (hcred : (port s p).creds ≠ 0) (d : LineData)
    (be : LineMask) : wdBeat s p d be =
      let u := modPort (cntInc s (rFrpWdCnt p.val)) p fun x => { x with creds := x.creds - 1 }
      match (port s p).wdWait with
      | some rid :: rest => giveData (modPort u p fun x => { x with wdWait := rest }) rid ⟨d, be⟩
      | none :: rest => beatOut (modPort u p fun x => { x with wdWait := rest }) p
      | [] => modPort u p fun x => { x with wdBuf := x.wdBuf ++ [⟨d, be⟩] } := by
  have hp : port (cntInc s (rFrpWdCnt p.val)) p = port s p := port_of_ports (cntInc_ports ..) p
  unfold wdBeat
  simp only [if_pos hup, modPort_port, hp, if_neg hcred] <;> rfl

theorem rdTransfer_front {s : State} {p : Fin 8} {b : RdBeat} {rest : List RdBeat} (hup : (port s p).mode = .up)
    (h : (port s p).rdBuf = b :: rest) :
    rdTransfer s p = portPump (cntInc (modPort s p fun x => { x with rdBuf := rest }) (rFrpRdCnt p.val)) p := by
  unfold rdTransfer
  rw [hup, h]

theorem cmpTransfer_front {s : State} {p : Fin 8} {c : Cmp} {rest : List Cmp} (hup : (port s p).mode = .up)
    (h : (port s p).cmpBuf = c :: rest) (hrd : (port s p).rdBuf.any (fun b => b.tag = c.tag) = false) : cmpTransfer s p =
      portPump (modPort s p fun x => { x with cmpBuf := rest, tags := x.tags.filter fun t => t ≠ c.tag }) p := by
  unfold cmpTransfer
  rw [hup, h]
  simp only [hrd, Bool.false_eq_true, if_false]

theorem ntcTransfer_front {s : State} {n : Notice} {rest : List Notice} (h : s.ntc = n :: rest) :
    ntcTransfer s = cntInc { s with ntc := rest } rNtcMsgCnt := by
  unfold ntcTransfer
  rw [h]

/-! The states of a port (R69 to R72). -/

theorem portQuiesce_not_up {s : State} {p : Fin 8} (h : (port s p).mode ≠ .up) : portQuiesce s p = s := if_neg h

/-- A DOWN port that meets its conditions enters UP. -/
theorem portUpTry_enters {s v : State} {p : Fin 8} (hv : v = maskNote s (Fin.castLE (by decide) p))
    (hmode : (port s p).mode = .down) (hlive : (port s p).live = true) (hready : isReady v = true)
    (hen : rbit v (rFrpCtl p.val) 0 = true) (hdrain : s.cure.drain ≠ .complete) :
    (port (portUpTry s p) p).mode = .up ∧ (port (portUpTry s p) p).live = true ∧
      (port (portUpTry s p) p).creds = fld v (rFrpCtl p.val) 15 8 ∧ (port (portUpTry s p) p).tags = [] := by
  have hp : port v p = port s p := by rw [hv, port_maskNote]
  have hc : v.cure.drain ≠ .complete := by rwa [hv, maskNote_cure]
  unfold portUpTry
  rw [← hv]
  simp only [hp, hmode, hlive, hready, hen, ne_eq, hc, not_false_eq_true, and_self, if_true, port_maskNote, port_ev, modPort_port]

/-- A port that is not seen live stays DOWN. -/
theorem portUpTry_not_live {s : State} {p : Fin 8} (h : (port s p).live = false) :
    portUpTry s p = maskNote s (Fin.castLE (by decide) p) := by
  unfold portUpTry
  rw [if_neg]
  rw [port_maskNote, h]
  simp

theorem quiesceDone_down {s : State} {p : Fin 8} (hm : (port s p).mode = .quiesce) (ht : (tagsInside s p).isEmpty = true) :
    quiesceDone s p = portUpTry (modPort s p fun x => { x with mode := .down, tags := [], places := 0 }) p := if_pos ⟨hm, ht⟩

/-- Settles O2, a clause per command from the lemma about its operation. -/
theorem transfersComplete : Obligations.TransfersComplete := by
  unfold Obligations.TransfersComplete
  intro s p
  refine ⟨fun hup hcred d be => ?_, fun hup b rest h => next_of_eq (rdTransfer_front hup h),
    fun hup c rest h hrd => next_of_eq (cmpTransfer_front hup h hrd), ⟨rfl, fun hm => next_of_eq (portQuiesce_not_up ?_)⟩,
    fun hmode hready hen hdrain => ⟨_, rfl, portUpTry_enters rfl ?_ ?_ hready hen hdrain⟩, fun hm ht => ?_,
    fun mid v h hf hl => next_of_eq (regWriteAt_low hf hl s mid _ noEnv), fun n rest h => next_of_eq (ntcTransfer_front h)⟩
  · have key := wdBeat_taken hup hcred d be
    exact ⟨fun h => next_of_eq (by rw [key, h]), fun rest h => next_of_eq (by rw [key, h]),
      fun rid rest h => next_of_eq (by rw [key, h])⟩
  · rw [modPort_port]; exact hm
  · rw [modPort_port]; exact hmode
  · rw [modPort_port]
  · have key := quiesceDone_down hm ht
    refine ⟨next_of_eq key, fun hl => next_of_eq (key.trans (portUpTry_not_live ?_))⟩
    rw [modPort_port]; exact hl

end Sys2Proof.Machine
end


section
/-!
PROOFS. Admission (O3).
-/
namespace Sys2Proof.Machine
open Sys2Proof

theorem poolSelect_none {s u : State} {pool : Fin 16} (err : RawLine) {far : RawLine} (hu : u = poolPrep s pool far)
    (h : choose u pool (candidates u pool) = none) : poolSelect s pool err far = u := by
  unfold poolSelect
  simp only [← hu, h]

theorem poolSelect_some {s u : State} {pool : Fin 16} (err : RawLine) {far : RawLine} (hu : u = poolPrep s pool far) {r : Req}
    {k : TtClass} (h : choose u pool (candidates u pool) = some r)
    (hk : ttClassFor (poolChosen u pool (candidates u pool) r) pool r.src = some k) :
    poolSelect s pool err far = admitReq (poolChosen u pool (candidates u pool) r) pool r k err far := by
  unfold poolSelect
  simp only [← hu, h, hk]

theorem lockCeiling_held {s : State} {p : Fin 8} (h : (port s p).lock.held = true) :
    lockCeiling s p = lockCeilingEv (lockBreak s p .errLock false) (port s p).lock := if_pos h

theorem prefetchDrop_head {s : State} {src : Fin 20} {pool : Fin 16} {r : Req} (h : headOf s pool src = some r)
    (hop : r.op = .prefetch) (he : eligible s pool r = true) :
    prefetchDrop s src pool = cntInc (unqueue s r) rAdmPfDropCnt := by
  unfold prefetchDrop
  simp only [h]
  exact if_pos ⟨hop, he⟩

theorem waitLong_head {s : State} {src : Fin 20} {pool : Fin 16} {r : Req} (h : headOf s pool src = some r)
    (he : eligible s pool r = true) (ha : 0 < fld s rAdmWaitAlarm 23 0) : waitLong s src pool =
      evo s 135 [BitVec.ofNat 32 src.val, BitVec.ofNat 32 pool.val] (reqOrigin r) := by
  unfold waitLong
  simp only [h]
  exact if_pos ⟨he, ha⟩

/-- Settles O3: selection follows the choice made after the pool's edge is prepared. -/
theorem admissionComplete : Obligations.AdmissionComplete := by
  unfold Obligations.AdmissionComplete
  exact fun s => ⟨fun pool err far => ⟨fun h => next_of_eq (poolSelect_none err rfl h),
      fun r k h hk => next_of_eq (poolSelect_some err rfl h hk)⟩,
    fun p h => next_of_eq (lockCeiling_held h),
    fun src pool r h he => ⟨fun hop => next_of_eq (prefetchDrop_head h hop he), fun ha => next_of_eq (waitLong_head h he ha)⟩, rfl⟩

end Sys2Proof.Machine
end


section
/-!
PROOFS. The channel scheduler (O4).
-/
namespace Sys2Proof.Machine
open Sys2Proof

/-! One MCLK of a channel (R137, R147, R160). -/

theorem schedIssue_not_may {s u : State} {c : Fin 16} (hu : u = mclkEdge s c) (h : mayIssue u c = false) :
    schedIssue s c = seqSlot (seqSlot u c 0) c 1 := by
  unfold schedIssue
  rw [← hu]
  exact if_neg (by rw [h]; decide)

theorem schedIssue_active {s u : State} {c : Fin 16} (hu : u = mclkEdge s c) (h : mayIssue u c = true)
    (hs : (chan u c).sch.sr = .active) : schedIssue s c = glueAdvance
      (if (exitPowerDown u c).1 then noteRfmWait (exitPowerDown u c).2 c
        else issueSub (issueSub (noteRfmWait (exitPowerDown u c).2 c) c 0) c 1) c := by
  unfold schedIssue
  simp only [← hu, if_pos h, hs]

theorem schedIssue_entry {s u : State} {c : Fin 16} (hu : u = mclkEdge s c) (h : mayIssue u c = true)
    (hs : (chan u c).sch.sr = .entry) : schedIssue s c =
      seqSlot (seqSlot (if hasRequest (chan u c).sch then srWake u c else srStep u c) c 0) c 1 := by
  unfold schedIssue
  simp only [← hu, if_pos h, hs]

theorem schedIssue_selfRefresh {s u : State} {c : Fin 16} (hu : u = mclkEdge s c) (h : mayIssue u c = true)
    (hs : (chan u c).sch.sr = .selfRefresh) : schedIssue s c = seqSlot (seqSlot (srWake u c) c 0) c 1 := by
  unfold schedIssue
  simp only [← hu, if_pos h, hs]

/-! Write drain, pages and queue entry (R136, R140, R142, R149). -/

/-- The write path in a new state, with its runs begun anew. -/
def wstateEnter (s : State) (c : Fin 16) (w : WState) : State :=
  modSch s c fun q => { q with
    wstate := w, runA := 0, runB := 0, breakA := none, breakB := none, wrNowA := none, wrNowB := none, idleA := false, idleB := false }

theorem wdrainEval_changes {s : State} {c : Fin 16} {w : WState} (hw : w = wstateNext (chan s c).sch.wstate
      (chan s c).sch.wq.length (fld s (rSchWdrain c.val) 22 16) (fld s (rSchWdrain c.val) 6 0)
      (decide ((chan s c).sch.hold = .holding)) (inDrain s) ((chan s c).sch.wq.isEmpty && (chan s c).sch.glue.isEmpty)
      (decide ((chan s c).sch.hold = .run))) (h : w ≠ (chan s c).sch.wstate) :
    wdrainEval s c = match (generalizing := false) w with
      | .drain => cntInc (wstateEnter s c w) (rSchDrainCnt c.val)
      | .flush => glueClose (wstateEnter s c w) c (fun _ => true) false
      | .read => wstateEnter s c w := by
  unfold wdrainEval
  simp only [← hw, if_neg h]
  cases w <;> rfl

theorem idleWrite_starts {s : State} {c : Fin 16} {sub : Fin 2} (hw : (chan s c).sch.wstate = .read)
    (hc : 0 < fld s (rSchCtl c.val) 7 0) (hr : readQueued s c sub.val = false) : idleWrite s c sub =
      modSch s c fun q => if sub = 0 then { q with idleA := true } else { q with idleB := true } :=
  if_pos (by simp [hw, hc, hr])

theorem pageIdleClose_closes {s : State} {c : Fin 16} {b : BankId} {row : Nat} {k : Coord}
    (hk : k = ⟨c.val, b.sub.val, b.rank.val, b.bg.val, b.ba.val, 0, 0⟩) (hrow : (bankAt s c (bankKey k)).row = some row)
    (hpol : fld s (rSchPage c.val) 1 0 = 2) (hdone : rowDone (chan s c).sch { k with row := row } = true)
    (hmay : mayIssue s c = true) (hfree : bankFree s c k (nowCk s c) = true)
    (hpre : earliestPre s c (bankKey k) ≤ nowCk s c + 3) :
    pageIdleClose s c b = seqTake (closeBanks s c (· = bankKey k)) c k.sub 1 := by
  unfold pageIdleClose
  subst hk
  simp only [hrow]
  exact if_pos ⟨hpol, hdone, hmay, hfree, hpre⟩

theorem queueEntry_enters {s t : State} {c : Fin 16} {a : Arrival} {rest : List Arrival} (ha : (chan s c).sch.arrive = a :: rest)
    (ht : enterOne s c a = some t) : queueEntry s c =
      arrivalLeft (modSch t c fun q => { q with arrive := eraseFirst (fun x => x = a) q.arrive }) a := by
  unfold queueEntry
  rw [ha, queueEntryFrom, if_neg List.not_mem_nil, ht]

/-! Low power (R158 to R160). -/

theorem rankPowerDown_idle {s : State} {c : Fin 16} {rank : Nat} (he : pdEnabled s c = true) (hu : schedUp s c = true)
    (hp : (rankAt s c rank).pwr = .active) (hs : (chan s c).sch.sr = .active) (hr : rankOk s rank = true)
    (hw : rankWanted (chan s c).sch rank = false) (hwin : (chan s c).phy.window ≠ some (prankOf s rank)) :
    rankPowerDown s c rank =
      if rankBusy s c rank then modRank s c rank fun x => { x with back := true } else enterPowerDown s c rank :=
  if_pos (by simp [he, hu, hp, hs, hr, hw, hwin])

theorem channelSrEntry_enters {s : State} {c : Fin 16} (he : srEnabled s c = true) (hu : schedUp s c = true)
    (hh : (chan s c).sch.hold = .run) (hs : (chan s c).sch.sr = .active) (hq : hasRequest (chan s c).sch = false)
    (hw : (chan s c).phy.window = none) : channelSrEntry s c =
      modRef (modSch s c fun q => { q with sr := .entry, sreDone := 0 }) c fun r => { r with gen := r.gen + 1 } :=
  if_pos (by simp [he, hu, hh, hs, hq, hw])

theorem srWake_entry {s : State} {c : Fin 16} (hr : hasRequest (chan s c).sch = true) (hs : (chan s c).sch.sr = .entry) :
    srWake s c = cntInc (modRef (srExit s c) c fun r => { r with gen := r.gen + 1 }) (rSchSreAbandonCnt c.val) := by
  unfold srWake srLeave
  rw [if_pos hr, hs]

theorem srWake_selfRefresh {s : State} {c : Fin 16} (hr : hasRequest (chan s c).sch = true)
    (hs : (chan s c).sch.sr = .selfRefresh) : srWake s c = cntInc (refSrExit (srExit s c) c) (rSchSrxCnt c.val) := by
  unfold srWake srLeave
  rw [if_pos hr, hs]

/-- Settles O4, a clause per command from the lemma about its operation. -/
theorem schedulerComplete : Obligations.SchedulerComplete := by
  unfold Obligations.SchedulerComplete
  intro s c
  dsimp only
  refine ⟨fun h => next_of_eq (schedIssue_not_may rfl h), fun h => ⟨fun hs => ?_, fun hs => ?_, fun hs => ?_⟩, fun hw => ?_, rfl,
    fun sub hw hc hr => next_of_eq (idleWrite_starts hw hc hr),
    fun b row hrow hpol hdone hmay hfree hpre => next_of_eq (pageIdleClose_closes rfl hrow hpol hdone hmay hfree hpre),
    fun a rest t ha ht => next_of_eq (queueEntry_enters ha ht), fun rank he hu hp hs hr hw hwin => ?_,
    fun he hu hh hs hq hw => ?_, fun hr => ⟨fun hs => next_of_eq (srWake_entry hr hs), fun hs => next_of_eq (srWake_selfRefresh hr hs)⟩⟩
  · have key := schedIssue_active rfl h hs
    refine ⟨fun hp => next_of_eq (key.trans ?_), fun hp => next_of_eq (key.trans ?_)⟩ <;> simp [hp]
  · have key := schedIssue_entry rfl h hs
    refine ⟨fun hq => next_of_eq (key.trans ?_), fun hq => next_of_eq (key.trans ?_)⟩ <;> simp [hq]
  · exact next_of_eq (schedIssue_selfRefresh rfl h hs)
  · exact ⟨wstateEnter s c _, modSch_sch .., next_of_eq (wdrainEval_changes rfl hw)⟩
  · have key := rankPowerDown_idle he hu hp hs hr hw hwin
    exact ⟨fun hb => next_of_eq (key.trans (if_neg (by simp [hb]))), fun hb => next_of_eq (key.trans (if_pos hb))⟩
  · refine ⟨_, next_of_eq (channelSrEntry_enters he hu hh hs hq hw), ?_, ?_⟩ <;> simp

end Sys2Proof.Machine
end


section
/-!
PROOFS. Channel Hold and device Hold (O5).
-/
namespace Sys2Proof.Machine
open Sys2Proof

/-! A channel enters and leaves its Hold (R162, R163). -/

/-- The channel in HOLDING of its own Hold, its windows closed and its dwell aborted. -/
def chHolding (s : State) (c : Fin 16) : State :=
  probeAbort (glueClose (modSch s c fun q => { q with
    hold := .holding, inDev := false, devNext := false, wstate := .flush, runA := 0, runB := 0, breakA := none, breakB := none
    wrNowA := none, wrNowB := none, idleA := false, idleB := false }) c (fun _ => true) false) c 6

theorem chHolding_pwr (s : State) (c : Fin 16) : (chHolding s c).pwr = s.pwr :=
  (probeAbort_kept (al := [Part.csr, .evt, .jrn, .chans].contains) (.of rfl)
    (glueClose_kept (.of rfl) (modSch_kept (.of rfl) (.refl s) ..) ..) ..).same .pwr rfl

theorem chHold_run {s : State} {c : Fin 16} (h : (chan s c).sch.hold = .run) (hd : devHolding s = false) :
    chHold s c = if s.pwr.pfail then holdAbort (chHolding s c) c 4 else chHolding s c := by
  have hs : holdStart s c false = if (chHolding s c).pwr.pfail then holdAbort (chHolding s c) c 4 else chHolding s c := by
    unfold holdStart
    rw [h] <;> rfl
  unfold chHold
  rw [if_pos ⟨h, by simp [hd]⟩, hs, chHolding_pwr]

theorem toRun_free {s : State} {c : Fin 16} (h : (chan s c).sch.devNext = false) :
    toRun s c = evd (modSch s c fun q => { q with
      hold := .run, inDev := false
      wstate := wstateNext .flush (chan s c).sch.wq.length (fld s (rSchWdrain c.val) 22 16) (fld s (rSchWdrain c.val) 6 0) false
        (inDrain s) ((chan s c).sch.wq.isEmpty && (chan s c).sch.glue.isEmpty) true }) (chEv c 1)
      (detail32 (chan s c).sch.lastEnd) := by
  unfold toRun
  exact if_neg (by rw [h]; decide)

theorem toRun_joins {s : State} {c : Fin 16} (h : (chan s c).sch.devNext = true) :
    toRun s c = holdStart (evd (modSch s c fun q => { q with
      hold := .run, inDev := false
      wstate := wstateNext .flush (chan s c).sch.wq.length (fld s (rSchWdrain c.val) 22 16) (fld s (rSchWdrain c.val) 6 0) false
        (inDrain s) ((chan s c).sch.wq.isEmpty && (chan s c).sch.glue.isEmpty) true }) (chEv c 1)
      (detail32 (chan s c).sch.lastEnd)) c true := by
  unfold toRun
  exact if_pos h

theorem chHoldRelease_holding {s : State} {c : Fin 16} (hd : devHolding s = false) (h : (chan s c).sch.hold = .holding) :
    chHoldRelease s c = toRun (modSch s c fun q => { q with lastEnd := 5 }) c := by
  unfold chHoldRelease
  rw [if_neg (by rw [hd]; decide), h]

theorem chHoldRelease_held {s : State} {c : Fin 16} (hd : devHolding s = false) (h : (chan s c).sch.hold = .held) :
    chHoldRelease s c = setReleasing (chanPendDrop (forecastNote s (trfcRelease (schRelease s c none).1 c) c) c) c
      (if (schRelease s c none).2 then 2 else 1) := by
  unfold chHoldRelease
  rw [if_neg (by rw [hd]; decide), h]
  rfl

theorem chHeld_enters {s : State} {c : Fin 16} (h : (chan s c).sch.hold = .holding) (hd : drained s c = true) :
    chHeld s c = ev (modSch (closeBanks s c fun _ => true) c fun q => { q with hold := .held }) (chEv c 0) :=
  if_pos ⟨h, hd⟩

/-- Precharging every bank leaves none open. -/
theorem closeBanks_all_closed (s : State) (c : Fin 16) :
    ∀ x ∈ (chan (closeBanks s c fun _ => true) c).sch.banks, x.2.row = none := by
  unfold closeBanks
  rw [modSch_sch]
  intro x hx
  obtain ⟨e, -, rfl⟩ := List.mem_map.mp hx
  cases hrow : e.2.row <;> simp [hrow]

theorem holdExpired_own {s : State} {c : Fin 16} (h : (chan s c).sch.hold = .holding ∨ (chan s c).sch.hold = .held)
    (hi : (chan s c).sch.inDev = false) : holdExpired s c = ev (setReleasing (chanPendDrop s c) c 3) (chEv c 2) := by
  have ha : holdAbort s c 3 = setReleasing (chanPendDrop s c) c 3 := by
    unfold holdAbort
    simp only [if_pos h, hi, Bool.false_eq_true, if_false]
  unfold holdExpired
  simp only [if_pos h, hi, Bool.false_eq_true, if_false, doIf_false, forEach, List.foldl_cons, List.foldl_nil, ha]

theorem holdExpired_device {s : State} {c : Fin 16} (h : (chan s c).sch.hold = .holding ∨ (chan s c).sch.hold = .held)
    (hi : (chan s c).sch.inDev = true) : holdExpired s c = forEach (popChans s) (devForget s) fun s d =>
      if (chan s d).sch.hold = .holding ∨ (chan s d).sch.hold = .held then ev (holdAbort s d 3) (chEv d 2) else s := by
  unfold holdExpired
  simp only [if_pos h, hi, if_true, doIf]

theorem chReleased_releasing {s : State} {c : Fin 16} (h : (chan s c).sch.hold = .releasing) : chReleased s c = toRun s c :=
  if_pos h

/-! The device Hold (R167). -/

theorem devHold_starts {s : State} (h : devHolding s = false) :
    devHold s = forEach (popChans s) s fun s c => holdStart s c true := if_neg (by rw [h]; decide)

theorem devRelease_held {s : State} (h : devState s = 2) : devRelease s = devApply s := by
  unfold devRelease
  rw [h]
  rfl

/-- What the Release of a device Hold in HOLDING does to one channel. -/
def devReleaseChan (s : State) (c : Fin 16) : State :=
  match (chan s c).sch.hold with
  | .holding => toRun (modSch s c fun q => { q with lastEnd := 5 }) c
  | .held => chanRelease s c
  | _ => s

theorem devRelease_holding {s : State} (h : devState s = 1) :
    devRelease s = { devForget (forEach (popChans s) s devReleaseChan) with devEnd := 5 } := by
  unfold devRelease
  rw [h]
  rfl

/-- Settles O5, a clause per command from the lemma about its operation. -/
theorem holdComplete : Obligations.HoldComplete := by
  unfold Obligations.HoldComplete
  intro s c
  dsimp only
  refine ⟨fun h hd => ⟨fun hp => ?_, fun hp => ?_⟩, fun hd hn h => ?_, fun hd h => ⟨fun hv => ?_, fun hv => ?_⟩, fun h hd => ?_,
    fun h => ⟨fun hi => next_of_eq (holdExpired_own h hi), fun hi => next_of_eq (holdExpired_device h hi)⟩,
    fun h => ⟨fun hn => ?_, fun hn => next_of_eq ((chReleased_releasing h).trans (toRun_joins hn))⟩,
    fun h => next_of_eq (devHold_starts h), fun h => next_of_eq (devRelease_held h), fun h => next_of_eq (devRelease_holding h)⟩
  · exact next_of_eq ((chHold_run h hd).trans (if_neg (by simp [hp])))
  · exact next_of_eq ((chHold_run h hd).trans (if_pos hp))
  · refine ⟨_, next_of_eq ((chHoldRelease_holding hd h).trans (toRun_free (by simpa using hn))), ?_⟩
    simp only [chan_evd, chan_modSch]
    rfl
  · exact next_of_eq ((chHoldRelease_held hd h).trans (by rw [if_pos hv]))
  · exact next_of_eq ((chHoldRelease_held hd h).trans (by rw [if_neg (by simp [hv])]))
  · refine ⟨_, next_of_eq (chHeld_enters h hd), ?_, ?_⟩
    · simp [closeBanks]
    · simpa using closeBanks_all_closed s c
  · refine ⟨_, next_of_eq ((chReleased_releasing h).trans (toRun_free hn)), ?_⟩
    simp only [chan_evd, chan_modSch]

end Sys2Proof.Machine
end


section
/-!
PROOFS. Refresh and the disturbance table (O6).
-/
namespace Sys2Proof.Machine
open Sys2Proof

/-! Slots, catch-up and backstop refreshes (R173 to R182). -/

theorem refreshSlot_due {s u : State} {c : Fin 16} {k : Nat} (hu : u = rtNote (firstSlot s c) c)
    (h : slotDue (firstSlot s c) c k = true) : refreshSlot s c k =
      forEach (slotKeys (modRef (slotDecide u c k) c fun r => { r with lastSlot := slotStart u c k }) c k)
        (modRef (slotDecide u c k) c fun r => { r with lastSlot := slotStart u c k }) fun v key =>
          let d : Int := slotStart u c k + (key / 4 * fld v (rRefCfg c.val) 29 20 : Nat) - (beatNs v : Nat)
          slotTarget v c (decide (key ∈ slotPostponed u c k)) key (nowCk v c + nsToCk v c d.toNat) := by
  subst hu
  exact if_pos h

theorem catchup_done {s : State} {c : Fin 16} {t : RefTgt} (hp : 0 < smGet 0 (chan s c).ref.owed (tgtKey s c t))
    (hr : rtQueued s c (tgtKey s c t) = false) (hw : windowOn s c = false) :
    catchup s c t = cntInc (modRef (refreshTarget s c (tgtKey s c t) (nowCk s c)) c fun r => { r with
      owed := smSet 0 r.owed (tgtKey s c t) (smGet 0 (chan s c).ref.owed (tgtKey s c t) - 1) }) (rRefCatchupCnt c.val) :=
  if_pos ⟨hp, by simp [hr], by simp [hw]⟩

theorem refBackstop_due {s : State} {c : Fin 16} {t : RefTgt} (h : tgtKey s c t ∈ (chan s c).ref.backstop) :
    refBackstop s c t = evd (cntInc (modRef (refreshTarget (probeAbort (cutWindow s c) c 3) c (tgtKey s c t)
      (nowCk (probeAbort (cutWindow s c) c 3) c)) c fun r => { r with
      backstop := r.backstop.filter (fun x => x ≠ tgtKey s c t) }) (rRefBackstopCnt c.val)) (chEv c 6) (detail32 t.rank.val) :=
  if_pos h

/-! Temperature and granularity (R176 to R178). -/

theorem tempPoll_read {s : State} {c : Fin 16} {p : PollRead} (hon : s.sbus[busOf c].on = true) (hf : p.fails = []) :
    tempPoll s c p =
      let u := cntAdd s (rSbiXferCnt c.val) p.xfers
      let v := if p.mr4.contains .beyond then ev u (chEv c 9) else u
      modRef v c fun x => pollNext x (pollM (fld v (rRefTemp c.val) 15 8) p) := by
  unfold tempPoll
  simp only [if_pos hon, hf, forEach, List.foldl_nil, doIf]

theorem tempRate_next {s : State} {c : Fin 16} {m : Nat} (h : (chan s c).ref.mNext = some m) : tempRate s c =
    evd (modRef s c fun r => { r with m := m, mNext := none, lowPolls := 0, gen := r.gen + 1 }) (chEv c 8)
      (detail32 (mCode m)) := by
  unfold tempRate
  rw [h]

theorem granChanged_next {s : State} {c : Fin 16} {g : Nat} (h : (chan s c).ref.granNext = some g)
    (ho : (chan s c).ref.owed = []) : granChanged s c =
      ev (modRef s c fun r => { r with gran := g, granNext := none, owed := [], gen := r.gen + 1 }) (chEv c 13) := by
  unfold granChanged
  rw [h]
  exact if_pos (by rw [ho]; rfl)

/-! Sequencer windows (R186). -/

theorem windowStart_never {s : State} {c : Fin 16} {d : Nat} (h : refQ s c < d + quietLen s c) (b : Nat) (probe : Bool) :
    windowStart s c b d probe = ev (refErr s c 5) (chEv c 12) := if_pos h

theorem windowStart_slips {s : State} {c : Fin 16} {b d : Nat} (h : d + quietLen s c ≤ refQ s c) (hb : windowAt s c b d ≠ b)
    (probe : Bool) : windowStart s c b d probe = windowSlip s c ⟨windowAt s c b d, d⟩ probe := by
  unfold windowStart
  rw [if_neg (Nat.not_lt.mpr h)]
  exact if_pos hb

theorem windowStart_fits {s : State} {c : Fin 16} {b d : Nat} (h : d + quietLen s c ≤ refQ s c) (hb : windowAt s c b d = b)
    (probe : Bool) : windowStart s c b d probe = modRef s c fun r =>
      if probe then { r with nextDwell := some ⟨b, d⟩ }
      else if r.nextRetrain = some ⟨b, d⟩ then r else { r with nextRetrain := some ⟨b, d⟩, gen := r.gen + 1 } := by
  unfold windowStart
  rw [if_neg (Nat.not_lt.mpr h)]
  simp only [hb, ne_eq, not_true_eq_false, if_false]

/-! The disturbance table (R188 to R192). -/

/-- The position of a row queued for a neighbour refresh. -/
def nbrCoord (c : Fin 16) (x : NbrRow) : Coord := ⟨c.val, x.sub, x.rank, x.bg, x.ba, x.row, 0⟩

theorem neighbourRefresh_first {s : State} {c : Fin 16} {x : NbrRow} (h : ((chan s c).ref.nbrQ.find? fun x =>
      mitigates s c (nbrCoord c x) && !raaFull s c (bankKey (nbrCoord c x))) = some x) : neighbourRefresh s c =
      nbrStart (modRef s c fun r => { r with nbrQ := eraseFirst (fun y => y = x) r.nbrQ }) c (nbrCoord c x)
        (([-2, -1, 1, 2] : List Int).countP fun o =>
          decide (0 ≤ (x.row : Int) + o ∧ (x.row : Int) + o < (2 ^ rowBits s : Int))) := by
  unfold nbrCoord at h
  unfold neighbourRefresh
  simp only [h]
  rfl

theorem rfmIssue_due {s : State} {c : Fin 16} {b : BankId} {k : Coord}
    (hk : k = ⟨c.val, b.sub.val, b.rank.val, b.bg.val, b.ba.val, 0, 0⟩) (hd : (decide (bankKey k ∈ (chan s c).ref.rfmDue) ||
      (chan s c).ref.rfmReq && decide ((chan s c).ref.raaimt ≤ smGet 0 (chan s c).ref.raa (bankKey k))) = true)
    (hm : mitigates s c k = true) : rfmIssue s c b =
      if Config.rfmSupported c.val || (chan s c).ref.rfmReq then
        rfmBank (modRef s c fun r => { r with rfmDue := eraseFirst (fun x => x = bankKey k) r.rfmDue }) c (bankKey k)
      else refreshRank (modRef s c fun r => { r with rfmDue := eraseFirst (fun x => x = bankKey k) r.rfmDue }) c b.rank.val := by
  subst hk
  exact if_pos (by rw [hd, hm]; rfl)

/-- Settles O6, a clause per command from the lemma about its operation. -/
theorem refreshComplete : Obligations.RefreshComplete := by
  unfold Obligations.RefreshComplete
  intro s c
  dsimp only
  refine ⟨fun k h => next_of_eq (refreshSlot_due rfl h), fun t hp hr hw => next_of_eq (catchup_done hp hr hw),
    fun t => ⟨_, rfl, ?_⟩, fun t h => next_of_eq (refBackstop_due h), fun p hon hf => next_of_eq (tempPoll_read hon hf),
    fun m h => ⟨_, next_of_eq (tempRate_next h), ?_⟩, fun g h ho => ⟨_, next_of_eq (granChanged_next h ho), ?_⟩,
    fun b d probe => ⟨fun h => next_of_eq (windowStart_never h b probe), fun h hb => next_of_eq (windowStart_slips h hb probe),
      fun h hb => ⟨_, next_of_eq (windowStart_fits h hb probe), ?_, ?_⟩⟩,
    fun x h => next_of_eq (neighbourRefresh_first h), rfl, fun b hd hm => ?_⟩
  · unfold backstopTick
    simp only [chan_modRef]
  · simp
  · simp
  · rintro rfl
    simp
  · rintro rfl hn
    simp [hn]
  · have key := rfmIssue_due rfl hd hm
    exact ⟨fun h => next_of_eq (key.trans (if_pos h)), fun h => next_of_eq (key.trans (if_neg (Bool.eq_false_iff.mp h)))⟩

end Sys2Proof.Machine
end


section
/-!
PROOFS. The code, Glue-up and the maintenance engines (O8).
-/
namespace Sys2Proof.Machine
open Sys2Proof

@[simp] theorem chan_setDramLine (s : State) (k : Coord) (r : RawLine) (c : Fin 16) : chan (setDramLine s k r) c = chan s c :=
  chan_of_chans ((setDramLine_kept (al := [Part.dram].contains) (.of rfl) (.refl s) k r).same .chans rfl) c

/-! Chip marks (R240 to R243). -/

theorem markWrite_sets {s : State} {c : Fin 16} {i slot chip : Nat} (hc : chip < if isX8 s c then 5 else 10)
    (hm : (if slot = 0 then (marksAt s c i).m0 else (marksAt s c i).m1) = none)
    (ho : (if slot = 0 then (marksAt s c i).m1 else (marksAt s c i).m0).map Mark.chip ≠ some chip)
    (h8 : isX8 s c = false ∨ (if slot = 0 then (marksAt s c i).m1 else (marksAt s c i).m0) = none) :
    markWrite s c i slot chip = setMark s c i slot chip false := by
  have hfree : (isX8 s c && (if slot = 0 then (marksAt s c i).m1 else (marksAt s c i).m0).isSome) = false := by
    rcases h8 with h | h <;> simp [h]
  unfold markWrite
  simp only [hm, hfree, decide_eq_false (Nat.not_le.mpr hc), decide_eq_false ho, Option.isSome_none, Bool.or_self,
    Bool.false_eq_true, if_false]

theorem markClear_held {s : State} {c : Fin 16} (h : (chan s c).sch.hold = .held) (i slot : Nat) : markClear s c i slot =
    putMarks s c i (if slot = 0 then { marksAt s c i with m0 := none } else { marksAt s c i with m1 := none }) := if_pos h

theorem ceWindowEnd_valid {s : State} (h : s.beat.valid = true) (c : Fin 16) :
    ceWindowEnd s c = modCode s c fun x => { x with winCnt := [] } := if_pos h

theorem probeAbort_code (s : State) (c : Fin 16) (cause : Nat) : (chan (probeAbort s c cause) c).code = (chan s c).code := by
  unfold probeAbort
  split <;> simp

/-- Setting a mark leaves the trials. -/
theorem setMark_trials (s : State) (c : Fin 16) (i slot chip : Nat) (hw : Bool) :
    (chan (setMark s c i slot chip hw) c).code.trials = (chan s c).code.trials ∧
      (chan (setMark s c i slot chip hw) c).code.lastTrial = (chan s c).code.lastTrial := by
  have habort (b : Bool) (u : State) : (chan (doIf b (fun s => probeAbort s c 2) u) c).code = (chan u c).code := by
    unfold doIf
    split
    · exact probeAbort_code u c 2
    · rfl
  unfold setMark
  extract_lets m x was u v p w
  have hw' : (chan w c).code.trials = (chan s c).code.trials ∧ (chan w c).code.lastTrial = (chan s c).code.lastTrial := by
    simp only [w, habort, v, chan_evd, u, putMarks, chan_modCode, and_self]
  split
  · rw [chan_ev]; exact hw'
  · exact hw'

/-! Decoding a line read (R221, R222, R236 to R239). -/

theorem dramDecode_raw {s : State} {c : Fin 16} {f : Flight} {rid : Nat} (h : readyFlight s c = some f)
    (hd : f.ent.dest = .raw rid) (err : RawLine) :
    dramDecode s c err = ttLeave (rawReturn (dropFlight s c f) c (f.raw ^^^ err)) rid none := by
  unfold dramDecode
  simp only [h, hd]

theorem dramDecode_other {s : State} {c : Fin 16} {f : Flight} (h : readyFlight s c = some f)
    (hd : ∀ rid : Nat, f.ent.dest ≠ .raw rid) (err : RawLine) : dramDecode s c err =
      let r := decodeAt s c f.ent.coord f.probe (f.raw ^^^ err)
      if f.probe.isSome && (decide (r.kind = .uncorr) || decide (r.kind = .poison)) then reread s c f
      else
        let p := match f.probe with
          | some chip => countProbe s c chip (f.raw ^^^ err) r.data
          | none => s
        let u := countLine p c r.kind
        let v := countChips u c (markIdx u f.ent.coord) r.chips f.probe
        readReturn (dropFlight (doIf (decide (r.kind = .uncorr)) (fun s => askTrial s c f.ent.coord) v) c f) c f.ent r := by
  unfold dramDecode
  -- `simp` skips the arm of a raw read, which `hd` excludes.
  simp only [h] <;> rfl

/-! Trials of x8 channels (R244, R245). -/

/-- The waiting trials play no part in when the last one ran. -/
theorem trialSoon_trials (s : State) (c : Fin 16) (ts : List TrialReq) (i : Nat) :
    trialSoon (modCode s c fun x => { x with trials := ts }) c i = trialSoon s c i := by
  unfold trialSoon
  rw [chan_modCode]
  rfl

theorem x8Trial_soon {s : State} {c : Fin 16} {t : TrialReq} {rest : List TrialReq} (h : (chan s c).code.trials = t :: rest)
    (ht : trialSoon s c (markIdx s (trialCoord s c t)) = true) (errA errB : RawLine) :
    x8Trial s c errA errB = modCode s c fun x => { x with trials := rest } := by
  unfold x8Trial
  rw [h]
  exact if_pos ((trialSoon_trials ..).trans ht)

theorem x8Trial_runs {s : State} {c : Fin 16} {t : TrialReq} {rest : List TrialReq} (h : (chan s c).code.trials = t :: rest)
    (ht : trialSoon s c (markIdx s (trialCoord s c t)) = false) (errA errB : RawLine) :
    x8Trial s c errA errB = trialRun (modCode s c fun x => { x with trials := rest }) c (trialCoord s c t) errA errB := by
  unfold x8Trial
  rw [h]
  exact if_neg (by rw [trialSoon_trials]; exact Bool.eq_false_iff.mp ht)

/-- A trial notes its time, and takes no other trial. -/
theorem trialRun_trials (s : State) (c : Fin 16) (k : Coord) (errA errB : RawLine) :
    (chan (trialRun s c k errA errB) c).code.trials = (chan s c).code.trials ∧
      (chan (trialRun s c k errA errB) c).code.lastTrial =
        smSet none (chan s c).code.lastTrial (markIdx s k) (some s.beat.fclk) := by
  unfold trialRun
  extract_lets i u a b ra rb v w da db found out z
  have hz : (chan z c).code.trials = (chan s c).code.trials ∧
      (chan z c).code.lastTrial = smSet none (chan s c).code.lastTrial i (some s.beat.fclk) := by
    simp only [z, chan_evd, w, closeBanks, chan_modSch, v, chan_setDramLine, u, chan_modCode, and_self]
  clear_value z found
  cases found with
  | none => exact hz
  | some j =>
    dsimp only
    split
    · rw [(setMark_trials z c i 0 j true).1, (setMark_trials z c i 0 j true).2]
      exact hz
    · exact hz

/-! Merging (R250, R251). -/

theorem glueMerge_read {s : State} {c : Fin 16} {gid : Nat} {f : Flight} {g : GlueEnt}
    (hf : (chan s c).sch.flight.find? (fun f => f.ent.dest = .merge gid && !f.again) = some f) (hl : logHolds s c g.coord = false)
    (hg : (chan s c).sch.glue.find? (fun g => g.gid = gid) = some g) (hw : (chan s c).sch.wq.length < 96) (hp : f.probe = none)
    (hm : mergeCopy s g.lms.toNat = none) (hv : vnrLooks s = false) (err : RawLine) {a b : CwRes}
    (ha : a = decodeCw (isX8 s c) (markChips (marksAt s c (markIdx s g.coord))) (rawCw (f.raw ^^^ err) 0))
    (hb : b = decodeCw (isX8 s c) (markChips (marksAt s c (markIdx s g.coord))) (rawCw (f.raw ^^^ err) 1)) :
    glueMerge s c gid err =
      let fa := halfFull g.mask 0
      let fb := halfFull g.mask 1
      let u := cntAdd (dropFlight s c f) (rGluHalfCnt c.val) (flag fa + flag fb)
      if fa && fb then mergeOut u c g g.data (decide (a.kind = .poison))
      else
        let kind := lineKind (if fa then .clean else a.kind) (if fb then .clean else b.kind)
        let v := countChips (countLine u c kind) c (markIdx s g.coord)
          ((if fa then [] else attributed (isX8 s c) a) ++ (if fb then [] else attributed (isX8 s c) b)) none
        let merged := mergeLine g.mask g.data (BitVec.ofNat 512 (bytesNat (a.data ++ b.data)))
        match kind with
        | .uncorr =>
          let v := codeUe (askTrial v c g.coord) c g.das g.coord 1
          if mirroredAt v g.lms.toNat then
            askRepair (modSch v c fun q => { q with
              glue := q.glue.map fun x => if x.gid = gid then { x with repair := true } else x }) g.lms.toNat g.das (.merge c gid)
          else ev (mergeOut v c g merged true) (chEv c 28)
        | .poison => mergeOut v c g merged true
        | _ => mergeOut v c g merged false := by
  have hlog : ¬ (96 ≤ (chan s c).sch.wq.length ∨ logHolds s c g.coord = true) := by simp [hl, hw]
  subst ha hb
  unfold glueMerge
  simp only [hf, hg, if_neg hlog, hp, hm, hv, Bool.false_eq_true, if_false, Option.isSome_none, Bool.false_and,
    Option.isNone_none, Bool.true_and, Option.getD_none] <;> rfl

/-! The Rasp engines (R252). -/

theorem raspUnit_bcmd {s : State} {eng : Fin 4} (hd : inDrain s = false) (hb : raspBusy s eng = false) {b : BcmdRun}
    (h : s.map.bcmd = some b) (hp : s.map.bprog < bmapLines s) : raspUnit s eng = bcmdUnit s eng b := by
  have hsome : (s.map.bcmd.filter fun _ => decide (s.map.bprog < bmapLines s)) = some b := by
    simp [h, Option.filter, hp]
  unfold raspUnit
  simp only [hd, hb, hsome, Bool.or_self, Bool.false_eq_true, if_false]

theorem raspUnit_rest {s : State} {eng : Fin 4} (hd : inDrain s = false) (hb : raspBusy s eng = false)
    (h : s.map.bcmd = none ∨ bmapLines s ≤ s.map.bprog) (hr : recastReady s = false) : raspUnit s eng =
      match s.map.fill.find? (fun f => !(fillTodo s f).isEmpty) with
      | some f => forEach ((fillTodo s f).take 16) s fun s n => fillWrite s eng (f.panel * 65536 + 64 * n)
      | none =>
        match scrubChan s with
        | some c => scrubSlice s eng c
        | none =>
          match allChans.find? (fun c => (diagWork s c).isSome) with
          | some c => match diagWork s c with
            | some r => diagUnit s eng c r
            | none => s
          | none => s := by
  have hnone : (s.map.bcmd.filter fun _ => decide (s.map.bprog < bmapLines s)) = none := by
    rcases h with h | h
    · rw [h]; rfl
    · simp [Nat.not_lt.mpr h]
  unfold raspUnit
  simp only [hd, hb, hnone, hr, Bool.or_self, Bool.false_eq_true, if_false] <;> rfl

/-! Patrol scrub (R253). -/

theorem scrubDue_code {s : State} {c : Fin 16} (he : rbit s (rScrCfg c.val) 0 = true) (hv : s.beat.valid = true) :
    (chan (scrubDue s c) c).code = if (chan s c).code.owed < 64 then
        { (chan s c).code with
          owed := (chan s c).code.owed + 1, passBeat := (chan s c).code.passBeat.orElse fun _ => some (beatNs s) }
      else { (chan s c).code with late := true, passBeat := (chan s c).code.passBeat.orElse fun _ => some (beatNs s) } := by
  unfold scrubDue
  simp only [he, hv, Bool.and_self, if_true, modCode_code]
  split <;> simp

/-- Settles O8, a clause per command from the lemma about its operation. -/
theorem codeComplete : Obligations.CodeComplete := by
  unfold Obligations.CodeComplete
  intro s c
  dsimp only
  refine ⟨fun i slot chip => ⟨fun hc hm ho h8 => next_of_eq (markWrite_sets hc hm ho h8), fun h => next_of_eq (markClear_held h ..)⟩,
    fun h => next_of_eq (ceWindowEnd_valid h c), fun err f h => ⟨fun rid hd => next_of_eq (dramDecode_raw h hd err), fun hd => ?_⟩,
    fun errA errB t rest h => ⟨fun ht => next_of_eq (x8Trial_soon h ht errA errB), fun ht => ?_⟩, fun gid => rfl,
    fun gid err f g hf hl hg hw hp hm hv => ?_, fun eng hd hb => ⟨fun b h hp => next_of_eq (raspUnit_bcmd hd hb h hp), fun h hr => ?_⟩,
    fun he hv => ⟨fun ho => ⟨_, rfl, ?_⟩, fun ho => ⟨_, rfl, ?_⟩⟩⟩
  · have key := dramDecode_other h hd err
    refine ⟨fun hp => next_of_eq (key.trans ?_), fun chip hp => ⟨fun hk => next_of_eq (key.trans ?_),
      fun hu hk => next_of_eq (key.trans ?_)⟩⟩
    · simp [hp, doIf]
    · exact if_pos (by rcases hk with hk | hk <;> rw [hk, hp] <;> rfl)
    · simp only [hp] at hu hk ⊢
      simp [hu, hk, doIf_false]
  · have key := x8Trial_runs h ht errA errB
    refine ⟨next_of_eq key, _, next_of_eq key, ?_⟩
    obtain ⟨htr, hlast⟩ := trialRun_trials (modCode s c fun x => { x with trials := rest }) c (trialCoord s c t) errA errB
    rw [htr, hlast]
    exact ⟨by simp, smGet_smSet_self none _ _ (by simp)⟩
  · have key := glueMerge_read hf hl hg hw hp hm hv err rfl rfl
    refine ⟨fun ha hb => next_of_eq (key.trans (if_pos (by rw [ha, hb]; rfl))), fun hfull hu hk => next_of_eq (key.trans ?_)⟩
    refine (if_neg (by rcases hfull with h | h <;> simp [h])).trans ?_
    dsimp only
    split
    · exact absurd ‹_› hu
    · exact absurd ‹_› hk
    · rfl
  · have key := raspUnit_rest hd hb h hr
    refine ⟨fun f hf => next_of_eq (by rw [key, hf]), fun hf => ⟨fun d hs => next_of_eq (by rw [key, hf, hs]),
      fun hs d r hd' hr' => next_of_eq (by rw [key, hf, hs, hd']; simp only [hr'])⟩⟩
  · exact (scrubDue_code he hv).trans (if_pos ho)
  · exact (scrubDue_code he hv).trans (if_neg (Nat.not_lt.mpr ho))

end Sys2Proof.Machine
end


section
/-!
PROOFS. Repair and diagnostics (O9).
-/
namespace Sys2Proof.Machine
open Sys2Proof

@[simp] theorem chan_remapQueues_code (s : State) (c : Fin 16) : (chan (remapQueues s c) c).code = (chan s c).code := by
  unfold remapQueues
  rw [chan_modSch]

/-- Each device's reading is recorded in turn, whatever events are raised (R257). -/
theorem ecsPoll_ecs (s : State) (c : Fin 16) (r : List EcsRead) : (chan (ecsPoll s c r) c).code.ecs = r.foldl (fun m e =>
    smSet EcsRec.none m ((e.rank.val * 2 + e.sub.val) * 16 + e.chip.val) { e.val with polled := true }) (chan s c).code.ecs := by
  unfold ecsPoll forEach
  induction r generalizing s with
  | nil => rfl
  | cons e r ih =>
    rw [List.foldl_cons, List.foldl_cons, ih]
    congr 1
    dsimp only
    split <;> simp

/-! The Inlay Map and row copies (R259, R261). -/

theorem inlWrite_accepted {s u : State} {c : Fin 16} {i : Nat} {v : Word64} {e : InlEnt} (he : e = inlOf v)
    (hold : (smGet InlEnt.none (chan s c).code.inl i).valid = false) (hv : (inlOf v).valid = true)
    (hr : inlReason s c i (inlOf v) = none)
    (hu : u = modCode s c fun x => { x with inl := smSet InlEnt.none x.inl i { e with active := !e.copy } }) (mid : BitVec 12) :
    inlWrite s c i mid v = if e.copy then copyWake (modCode u c fun x => { x with
      copy := some ⟨e.sub, e.rank, e.bg, e.ba, e.row, 2 ^ rowBits u - 18 + e.spare, some i⟩ }) c e.rank
    else remapQueues u c := by
  subst he hu
  unfold inlWrite
  simp only [hold, hv, hr, Bool.false_eq_true, if_false, Bool.not_true]

theorem inlCopy_starts {s u : State} {c : Fin 16} {v : Word64}
    (hu : u = setReg s (rInlCopy c.val) (v &&& ~~~ fieldMask 63 61 &&& ~~~ fieldMask 31 18)) (hb : copyBusy u c = false)
    (ho : offService u c = true ∨ (chan s c).sch.hold = .held) : inlCopy s c v =
      copyWake (modCode u c fun x => { x with
        copyRes := 0
        copy := some ⟨fieldOf v 60 60, fieldOf v 59 55, fieldOf v 54 52, fieldOf v 51 50, fieldOf v 17 0, fieldOf v 49 32, none⟩ })
        c (fieldOf v 59 55) := by
  have hok : (offService u c || decide ((chan u c).sch.hold = .held)) = true := by
    rw [hu, chan_setReg]
    rw [hu] at ho
    rcases ho with h | h <;> simp [h]
  unfold inlCopy
  simp only [← hu, hb, hok, Bool.false_eq_true, if_false, if_true]

/-- The end of a row copy: the copy is over, and an entry that it was made for is active. -/
theorem rowCopyDone_code {s : State} {c : Fin 16} {r : RowCopy} (h : (chan s c).code.copy = some r)
    (errs : List (Nat × RawLine)) : (chan (rowCopyDone s c errs) c).code.copy = none ∧ ∀ i : Nat, r.entry = some i →
      (smGet InlEnt.none (chan (rowCopyDone s c errs) c).code.inl i).active = true ∧
      (smGet InlEnt.none (chan (rowCopyDone s c errs) c).code.inl i).copy = false := by
  unfold rowCopyDone
  simp only [h]
  cases he : r.entry with
  | none => exact ⟨by simp, fun i hi => by simp at hi⟩
  | some i =>
    refine ⟨by simp, fun j hj => ?_⟩
    cases hj
    simp only [chan_remapQueues_code, chan_modCode]
    rw [smGet_smSet_self _ _ _ (by intro hn; simpa [InlEnt.none] using congrArg InlEnt.active hn)]
    exact ⟨rfl, rfl⟩

/-! Post-package repair (R262). -/

theorem inlPpr_starts {s u : State} {c : Fin 16} {v : Word64}
    (hu : u = setReg s (rInlPpr c.val) (v &&& ~~~ fieldMask 63 60 &&& ~~~ fieldMask 58 41 &&& ~~~ fieldMask 11 0))
    (hb : copyBusy u c = false) (ho : offService u c = true ∨ bitOf v 59 = false ∧ rowSpared u c
      ⟨c.val, fieldOf v 40 40, fieldOf v 39 35, fieldOf v 34 32, fieldOf v 31 30, fieldOf v 29 12, 0⟩ = true) :
    inlPpr s c v = modCode u c fun x => { x with
      ppr := some ⟨bitOf v 59, fieldOf v 40 40, fieldOf v 39 35, fieldOf v 34 32, fieldOf v 31 30, fieldOf v 29 12⟩ } := by
  have hok : (offService u c || (!bitOf v 59 && rowSpared u c
      ⟨c.val, fieldOf v 40 40, fieldOf v 39 35, fieldOf v 34 32, fieldOf v 31 30, fieldOf v 29 12, 0⟩)) = true := by
    rcases ho with h | ⟨h, hs⟩
    · simp [h]
    · simp [h, hs]
  unfold inlPpr
  simp only [← hu, hb, hok, Bool.false_eq_true, if_false, if_true]

/-- The result of a PPR, whatever the repaired row then holds. -/
theorem pprDone_code {s : State} {c : Fin 16} {r : PprRun} (h : (chan s c).code.ppr = some r) (e : PprEnd) :
    (chan (pprDone s c e) c).code.ppr = none ∧
      (chan (pprDone s c e) c).code.pprRes = match e with | .ok => 0 | .noResource => 2 | .dramFail => 3 := by
  unfold pprDone
  simp only [h]
  cases e with
  | ok =>
    dsimp only
    rw [chan_of_chans (forEach_chans rfl fun u col hu => ?_)]
    · simp
    · have hd := setDramLine_kept (al := [Part.dram].contains) (.of rfl) (drawFree_kept (.refl u) 640)
      exact Eq.trans ((hd _ _).same .chans rfl) hu
  | noResource => simp
  | dramFail => simp

/-- After Ready no pending record of firmware's is made done (R442). -/
theorem pprNote_ready {s : State} (h : isReady s = true) (c : Fin 16) (e : PprEnd) : pprNote s c e = pprDone s c e := by
  unfold pprNote
  split
  · next hx => simp [pprDone, hx]
  · exact if_neg (by simp [h])

/-! Raw accesses, on-die word errors and diagnostic passes (R263 to R265). -/

theorem rawAccess_asks {s u v : State} {c : Fin 16} {wr : Bool} {das : Nat} (hx : (chan s c).code.raw = none)
    (hu : u = setFld s (rCodeRawCmd c.val) 1 1 (flag wr)) (hdas : das = fld u (rCodeRawAddr c.val) 47 6 * 64)
    (hv : v = modCode u c fun x => { x with raw := some ⟨das, wr, rawData u c⟩ }) (hr : rawRefused u c das = false) :
    rawAccess s c wr = engPut (match rawLms v das with | some a => lineFlush v a | none => v) 19 0 0x800
      (if wr then .wrLine else .rdLine) (apertureAddr das) 0 .drop .raw := by
  subst hu hdas hv
  unfold rawAccess
  simp only [hx, Option.isSome_none, Bool.false_eq_true, if_false, hr] <;> rfl

theorem diagGo_starts {s u : State} {c : Fin 16} {op : Nat} (hu : u = setFld s (rScrDiagCmd c.val) 3 2 op)
    (hx : (chan s c).code.diag = none) (hop : op = 0 ∨ op = 3 ∨ isReady u = false ∧ rbit u (rCodeCfg c.val) 31 = false) :
    diagGo s c op = diagEnd (modCode u c fun x => { x with
      diag := some ⟨op, fld u (rScrDiagStart c.val) 47 6 * 64, false⟩ }) c := by
  have hx' : (chan u c).code.diag = none := by rw [hu, chan_setFld]; exact hx
  have hok : ((chan u c).code.diag.isSome || ((decide (op = 1) || decide (op = 2)) &&
      (isReady u || rbit u (rCodeCfg c.val) 31))) = false := by
    rcases hop with rfl | rfl | ⟨h, h'⟩
    · simp [hx']
    · simp [hx']
    · simp [hx', h, h']
  unfold diagGo
  simp only [← hu, hok, Bool.false_eq_true, if_false]

/-- Settles O9, a clause per command from the lemma about its operation. -/
theorem repairComplete : Obligations.RepairComplete := by
  unfold Obligations.RepairComplete
  intro s c
  dsimp only
  refine ⟨fun r => ⟨_, rfl, ecsPoll_ecs s c r⟩, fun i mid v hold hv hr => ?_, fun v hb ho => next_of_eq (inlCopy_starts rfl hb ho),
    fun errs r h => ⟨_, rfl, rowCopyDone_code h errs⟩, fun v hb ho => next_of_eq (inlPpr_starts rfl hb ho),
    fun e r h hready => ⟨_, next_of_eq (pprNote_ready hready c e), pprDone_code h e⟩, fun i wr hi hx hr => ?_, fun w => ⟨rfl, rfl⟩, fun i op hi hx hop => ?_⟩
  · have key := inlWrite_accepted rfl hold hv hr rfl mid
    exact ⟨fun h => next_of_eq (key.trans (if_neg (Bool.eq_false_iff.mp h))), fun h => next_of_eq (key.trans (if_pos h))⟩
  · have hrun : exec i s = .next (rawAccess s c wr) := by
      simp only [List.mem_cons, Prod.mk.injEq, List.not_mem_nil, or_false] at hi
      rcases hi with ⟨rfl, rfl⟩ | ⟨rfl, rfl⟩ <;> rfl
    have key := rawAccess_asks hx rfl rfl rfl hr
    exact ⟨fun a h => hrun.trans (next_of_eq (by rw [key, h])), fun h => hrun.trans (next_of_eq (by rw [key, h]))⟩
  · have hrun : exec i s = .next (diagGo s c op) := by
      simp only [List.mem_cons, Prod.mk.injEq, List.not_mem_nil, or_false] at hi
      rcases hi with ⟨rfl, rfl⟩ | ⟨rfl, rfl⟩ | ⟨rfl, rfl⟩ | ⟨rfl, rfl⟩ <;> rfl
    exact hrun.trans (next_of_eq (diagGo_starts rfl hx hop))

end Sys2Proof.Machine
end


section
/-!
PROOFS. The Veneer (O10).
-/
namespace Sys2Proof.Machine
open Sys2Proof

/-! Fills, the cleaner and write-backs (R271, R274, R282). -/

theorem vnrFillLand_room {s : State} {sl : Fin 16} {m : MissEnt} {d : LineData} {p : Bool}
    (hm : s.vnr.slices[sl].miss.find? (fun m => m.data.isSome) = some m) (hd : m.data = some (d, p))
    (hv : s.vnr.slices[sl].vict.length < 32) : vnrFillLand s sl = slotPump (fillLand s sl m d p) := by
  unfold vnrFillLand
  rw [hm]
  simp only [hd, if_pos hv]

theorem cleaner_passes {s : State} {sl : Fin 16} {p : VLine → Bool} (hp : p = fun l => l.dirty && chanRuns s l.das &&
      (decide (budget s < charged s) || (decide (budget s * fld s rVnrDirty 6 0 ≤ 100 * charged s) && !l.pin && decide (l.age ≤ 1))))
    (hl : vnrLooks s = true) (hv : s.vnr.slices[sl].vict.length + (getSet s sl s.vnr.slices[sl].clean).countP
      (fun w => match w with | .line l => p l | _ => false) ≤ 32) :
    cleaner s sl = modSlice (cleanSet s sl s.vnr.slices[sl].clean p false) sl fun x => { x with
      clean := (s.vnr.slices[sl].clean + 1) % 8192 } := by
  subst hp
  unfold cleaner
  rw [if_pos hl]
  exact if_pos hv

theorem victimWriteback_enters {s u : State} {sl : Fin 16} {v : VictEnt} (hv : nextVictim s sl = some v)
    (hu : enterWrite s (chanOf s v.das) ⟨0, posOf s v.das, v.das, v.raw, false, false⟩ = some u) : victimWriteback s sl =
      let w := overUpd (cntInc (modSlice u sl fun x => { x with vict := eraseFirst (fun y => y = v) x.vict }) rVnrWbCnt)
      if inDrain w then vnrClean w else ropGo w := by
  unfold victimWriteback
  simp only [hv, hu]

theorem vnrSramErr_uncorr (s : State) (sl : Fin 16) (st way : Nat) :
    (vnrSramErr s sl st way true).vnr = (putSet s sl st ((getSet s sl st).set way .off)).vnr := raiseEvt_vnr ..

/-! Range operations (R285 to R289). -/

theorem ropCmd_starts {s : State} {op : RopOp} (h : ropRefused s (some op) = false) :
    ropCmd s op = ropStart s op (fld s rVnrRopStart 47 6) (fld s rVnrRopEnd 47 6) false := if_neg (by rw [h]; decide)

theorem ropRefuse_vnr (s : State) : (ropRefuse s).vnr = { s.vnr with ropRes := 2 } := ev_vnr ..

/-- A walk with no line left to wait at does not go on. -/
theorem ropGo_done {s : State} {r : RopRun} (h : s.vnr.rop = some r) (hl : r.left = []) : ropGo s = s := by
  unfold ropGo
  simp [h, hl]

theorem ropEnd_mode (s : State) (r : RopRun) : (ropEnd s r).vnr.mode = s.vnr.mode := by
  unfold ropEnd
  rw [evd_vnr]
  rfl

theorem ropDone_ends {s : State} {r : RopRun} (h : s.vnr.rop = some r) (hl : r.left = []) (hd : r.drain = false)
    (hp : ropPending s r = false) (hm : s.vnr.mode ≠ .draining) : drainTry (ropDone s) = ropEnd s r := by
  have hdone : ropDone s = ropEnd s r := by
    unfold ropDone
    simp only [ropGo_done h hl, h, hd, hp, Bool.false_eq_true, or_self, if_false]
  rw [hdone]
  exact if_neg fun hc => hm ((ropEnd_mode s r).symm.trans hc.1)

/-! States (R290, R291). -/

theorem vnrCtlEn_disabled {s : State} (h : s.vnr.mode = .disabled) : vnrCtlEn s true =
    ev { setFld s rVnrCtl 0 0 1 with vnr := { s.vnr with mode := .enabled } } 704 := by
  unfold vnrCtlEn
  simp only [setFld_vnr, h]
  rfl

theorem vnrCtlEn_draining {s : State} (h : s.vnr.mode = .draining) : (vnrCtlEn s true).vnr.mode = .enabled := by
  unfold vnrCtlEn
  simp only [setFld_vnr, h, ev_vnr]

theorem vnrCtlEn_off {s : State} (h : s.vnr.mode = .enabled) : vnrCtlEn s false = drainTry
    (ev { setFld s rVnrCtl 0 0 0 with vnr := { s.vnr with mode := .draining } } 705) := by
  unfold vnrCtlEn
  simp only [setFld_vnr, h]
  rfl

theorem vnrClearingDone_vnr {s : State} (h : s.vnr.mode = .clearing) :
    (vnrClearingDone s).vnr = { s.vnr with mode := if rbit s rVnrCtl 0 then .enabled else .disabled } := by
  unfold vnrClearingDone
  rw [if_pos h]
  split <;> exact ev_vnr ..

theorem vnrDrainDone_ends {s : State} {r : RopRun} (hm : s.vnr.mode = .draining) (h : s.vnr.rop = some r) (hl : r.left = [])
    (hd : r.drain = true) (hp : ropPending s r = false) : vnrDrainDone s =
      ev (snapClear { s with vnr := { s.vnr with mode := .disabled, rop := none } }) 706 := by
  have htry : drainTry s = s := if_neg fun hc => by simp [h] at hc
  unfold vnrDrainDone
  simp only [if_pos hm, htry, ropGo_done h hl, h]
  exact if_pos ⟨hd, by simp [hp]⟩

/-- Settles O10, a clause per command from the lemma about its operation. -/
theorem veneerComplete : Obligations.VeneerComplete := by
  unfold Obligations.VeneerComplete
  intro s
  refine ⟨fun sl m d p hm hd hv => next_of_eq (vnrFillLand_room hm hd hv),
    fun sl st way => ⟨rfl, _, rfl, vnrSramErr_uncorr ..⟩, fun sl => fun hl hv => next_of_eq (cleaner_passes rfl hl hv),
    fun sl v u hv hu => next_of_eq (victimWriteback_enters hv hu), fun i n op hi => fun h => ?_, ⟨_, rfl, ropRefuse_vnr s⟩,
    fun r h hl hd hp hm => next_of_eq (ropDone_ends h hl hd hp hm),
    ⟨fun h => ⟨_, next_of_eq (vnrCtlEn_disabled h), ev_vnr ..⟩, fun h => ⟨_, rfl, vnrCtlEn_draining h⟩,
      fun h => next_of_eq (vnrCtlEn_off h)⟩,
    fun h => ⟨_, rfl, vnrClearingDone_vnr h⟩, fun r hm h hl hd hp => ⟨_, next_of_eq (vnrDrainDone_ends hm h hl hd hp), ?_⟩⟩
  · have hrun : exec i s = .next (ropCmd (setFld s rVnrRopCmd 2 0 n) op) := by
      simp only [List.mem_cons, Prod.mk.injEq, List.not_mem_nil, or_false] at hi
      rcases hi with ⟨rfl, rfl, rfl⟩ | ⟨rfl, rfl, rfl⟩ | ⟨rfl, rfl, rfl⟩ | ⟨rfl, rfl, rfl⟩ <;> rfl
    exact hrun.trans (next_of_eq (ropCmd_starts h))
  · dsimp only
    rw [ev_vnr]
    exact ⟨rfl, rfl⟩

end Sys2Proof.Machine
end


section
/-!
PROOFS. Epochs, the mirror and the attach (O11), fences and Recast (O12).
-/
namespace Sys2Proof.Machine
open Sys2Proof

/-! Epochs (R295, R296, R330). -/

theorem epochAdvance_room {s : State} (h : epochFull s = false) :
    epochAdvance s = stallNote (curePump (markPump (modCure s fun x => { x with e := x.e + 1 }))) := if_neg (by rw [h]; decide)

theorem epochSet_before_ready {s : State} (h : isReady s = false) (mid : BitVec 12) (v : Word32) :
    (epochSet s mid v).cure = { s.cure with
      e := v, marks := Vector.replicate 8 (v - 1), markSent := Vector.replicate 8 (v - 1), cDet := v - 1 } := by
  unfold epochSet
  rw [if_neg (by rw [h]; decide)]
  rfl

/-! Mirror states and the attach (R304, R310, R311, R529). -/

theorem twinSilent_stalls {s : State} {k : Fin 8} (hm : s.cure.mstate = .mirrored) (ho : (s.cure.markOut[k]).isSome = true)
    (ha : s.cure.markAt[k] ≠ some s.beat.fclk) :
    (twinSilent s k).cure = { s.cure with mstate := .stalled, stallAck := 0 } := by
  unfold twinSilent
  rw [if_pos ⟨hm, ho, ha⟩]
  exact evd_cure ..

theorem staleSideWrite_detached {s : State} (h : s.cure.mstate = .detached) (v : Bool) :
    staleSideWrite s v = modCure s fun x => { x with staleSide := v } := if_pos h

theorem attachPush_sends {s : State} {p : Nat} (hm : s.cure.mstate = .attaching) (hs : s.cure.staleSide = true)
    (hw : s.cure.pushWait = none) (ho : allOutOpen s = true) (hp : nextStale s s.cure.pushPos = some p)
    (hmv : panelMoving s p = false) (hmay : panelMay s p = true) (far : List (Nat × LineData)) :
    attachPush s far = pushSend p (panelSegs (panelReads s p) p (s.cure.attachE - 1) far (.push p false)) := by
  unfold attachPush
  rw [if_pos ⟨hm, hs, by rw [hw]; rfl, ho⟩]
  simp only [hp, hmv, hmay, Bool.not_true, Bool.or_self, Bool.false_eq_true, if_false]

/-- The segments of a pushed panel before the last are buffered, its lines counted. -/
def pushBuffered (p : Nat) (x : List OutSeg × State) : State :=
  forEach x.1.dropLast (cntAdd x.2 rCurPushLineCnt (x.1.map fun g => g.lines.length).sum) fun t g => outPush t (mirConn p) g

theorem pushSend_some {p : Nat} {x : List OutSeg × State} {g : OutSeg} (h : x.1.getLast? = some g) : pushSend p x =
    modCure (outPush (pushBuffered p x) (mirConn p) { g with why := .push p true }) fun x => { x with
      pushPos := p, pushWait := some p } := by
  unfold pushSend
  rw [h]
  rfl

theorem pushSend_none {p : Nat} {x : List OutSeg × State} (h : x.1.getLast? = none) : pushSend p x =
    modCure (staleClear (pushBuffered p x) p) fun x => { x with pushPos := p, pushWait := none } := by
  unfold pushSend
  rw [h]
  rfl

theorem mirrorResend_sends {s : State} {k : Fin 8} (hr : s.cure.resend.getLsbD k.val = true) (ho : outOpen s k.val = true)
    (hm : mirrorOn s = true) (hp : ((s.cure.pend.filter fun x => x.1 % 8 = k.val).map Prod.fst).all (panelMay s) = true)
    (far : List (Nat × LineData)) : mirrorResend s k far =
      let sent := resendSegs s (s.cure.pend.filter fun x => x.1 % 8 = k.val) far
      markPump (modCure sent.2 fun x => { x with
        out := smSet [] x.out (8 + k.val) (sent.1 ++ smGet [] x.out (8 + k.val))
        resend := x.resend &&& ~~~ ((1 : BitVec 8) <<< k.val) }) := if_pos ⟨hr, ho, hm, hp⟩

/-- The write captured first has its segment queued, and its panel is pending. -/
theorem mirrorCapture_first {s u : State} {t : TtEntry} (hu : u = forEach ((s.tt.filter fun t => !t.capt && capReady s t).filter
      fun t => !capRoom s t) s capBlocked) (ht : (s.tt.filter fun t => !t.capt && capReady s t).find? (fun t => capRoom u t) = some t) :
    mirrorCapture s =
      let a := if t.req.op = .trim then t.req.addr.toNat else lineAddr t.req.addr.toNat
      let e := t.epoch.getD u.cure.e
      let w := match t.mir with
        | some m => mirPush u (mirConn (panelOf a)) (segMir a m e .mirror)
        | none => u
      markPump (fwdPump (ttSettle (ttMod (modCure w fun x => { x with
        pend := pendPut x.pend (panelOf a) e
        capWait := x.capWait.filter fun r => r ≠ t.req.rid }) t.req.rid fun x => { x with capt := true }) t.req.rid)) := by
  unfold mirrorCapture
  simp only [← hu, ht] <;> rfl

theorem curAttach_starts {s : State} (hm : s.cure.mstate = .detached ∨ s.cure.mstate = .degraded)
    (hs : s.cure.staleSide = false ∨ noFence s = true) : curAttach s = curePump (markPump (modCure s fun x => { x with
      mstate := .attaching, attachE := x.e, attachAck := 0, stallAck := 0, pushPos := 0, pushWait := none
      markSent := Vector.replicate 8 (x.e - 2) })) := by
  unfold curAttach
  rw [if_pos hm, if_neg]
  rintro ⟨h1, h2⟩
  rcases hs with h | h
  · simp [h] at h1
  · simp [h] at h2

theorem curDegrade_enters {s : State} (hm : s.cure.mstate ≠ .degraded) (hf : noFence s = true) :
    curDegrade s = enterDegraded s := by
  unfold curDegrade
  rw [if_neg hm, if_pos hf]

/-- The state after an attach is complete. -/
def attachedState (s : State) : State :=
  curePump (ev (modCure { s with
    conns := (s.conns.map fun e => (e.1, { e.2 with degr := false })).filter fun e => e.2 ≠ Conn.none }
    fun x => { x with mstate := .mirrored, staleSide := false }) 772)

theorem mirrorAttached_pushed {s : State} (hm : s.cure.mstate = .attaching) (hs : s.cure.staleSide = true)
    (hw : s.cure.pushWait = none) (hn : nextStale s 0 = none) : mirrorAttached s = attachedState s := by
  unfold mirrorAttached
  exact if_pos ⟨hm, by simp [hs, hw, hn]⟩

theorem mirrorAttached_acked {s : State} (hm : s.cure.mstate = .attaching) (hs : s.cure.staleSide = false)
    (ha : s.cure.attachAck = BitVec.allOnes 8) : mirrorAttached s = attachedState s := by
  unfold mirrorAttached
  exact if_pos ⟨hm, by simp [hs, ha]⟩

theorem repairAnswer_room {s : State} {r : Repair} {ans : RepAns} (h : s.cure.repairs.find? (fun r => r.ans.isSome) = some r)
    (ha : r.ans = some ans) (hroom : ∀ c line, r.who = .merge c line → (chan s c).sch.wq.length < 96) : repairAnswer s =
      repairEnd { s with cure := { s.cure with repairs := s.cure.repairs.filter (fun x => x.num ≠ r.num) } } r ans := by
  unfold repairAnswer
  simp only [h, ha]
  refine if_pos ?_
  split
  · next c line hw => exact decide_eq_true (hroom c line hw)
  · rfl

/-- Settles O11, a clause per command from the lemma about its operation. -/
theorem cureComplete : Obligations.CureComplete := by
  unfold Obligations.CureComplete
  intro s
  dsimp only
  refine ⟨fun h i hi => ?_, fun h mid v => ⟨_, rfl, ?_⟩, fun k hm ho ha => ⟨_, rfl, ?_⟩,
    fun v h => next_of_eq (staleSideWrite_detached h v), fun far p hm hs hw ho hp hmv hmay => ?_,
    fun k far hr ho hm hp => next_of_eq (mirrorResend_sends hr ho hm hp far), fun t ht => next_of_eq (mirrorCapture_first rfl ht),
    fun hm hs => next_of_eq (curAttach_starts hm hs), fun hm hf => next_of_eq (curDegrade_enters hm hf),
    fun hm => ⟨fun hs hw hn => next_of_eq (mirrorAttached_pushed hm hs hw hn),
      fun hs ha => next_of_eq (mirrorAttached_acked hm hs ha)⟩,
    fun r ans h ha => ⟨fun hw => next_of_eq (repairAnswer_room h ha fun c line hc => absurd hc (hw c line)),
      fun c line hc hl => next_of_eq (repairAnswer_room h ha fun d line' hd => ?_)⟩⟩
  · rcases hi with ⟨rfl, hv⟩ | ⟨rfl, hf⟩
    · exact next_of_eq ((if_pos hv).trans (epochAdvance_room h))
    · exact next_of_eq ((if_pos hf).trans (epochAdvance_room h))
  · dsimp only
    rw [epochSet_before_ready h mid v]
    exact ⟨rfl, rfl, rfl, rfl⟩
  · dsimp only
    rw [twinSilent_stalls hm ho ha]
    exact ⟨rfl, rfl⟩
  · have key := attachPush_sends hm hs hw ho hp hmv hmay far
    exact ⟨fun g hg => next_of_eq (key.trans (pushSend_some hg)), fun hg => next_of_eq (key.trans (pushSend_none hg))⟩
  · rw [hc] at hd
    cases hd
    exact hl

/-! Channel fences (R314, R315). -/

theorem fenceCmd_asks {s : State} {c : Fin 16} (h : s.cure.fence[c] = .inService) : fenceCmd s c = askFence
    (modCure (setFld (setFld s rCurFenceCmd 5 4 0) rCurFenceCmd 3 0 c.val) fun x => { x with cmdRes := 1 }) c 4 0xFFFF_FFFF :=
  if_pos h

theorem chFenced_trigger {s : State} {c : Fin 16} {g : FenceTrig} (hg : s.evt.trigs.find? (fun t => t.chan = c) = some g)
    (hf : s.cure.fence[c] = .inService) (hc : c.val < chanCount s) : chFenced s c =
      fenceChan { s with evt := { s.evt with trigs := s.evt.trigs.filter fun x => x.chan ≠ c } } c g.code g.evt := by
  unfold chFenced
  rw [hg]
  exact if_pos ⟨hf, hc⟩

theorem fenceSweepDone_sweeping {s : State} {c : Fin 16} (h : s.cure.sweep[c] = true) : fenceSweepDone s c = overUpd
    (modCure (victimsDrop (forEach allChans s fun s sl => sweepSlice s c sl) c) fun x => { x with
      sweep := x.sweep.set c false }) := if_pos h

theorem doIf_true (f : State → State) (s : State) : doIf true f s = f s := rfl

/-! Unfencing (R319, R329). -/

theorem unfence_mirrored {s u : State} {c : Fin 16} {full : Bool}
    (hu : u = setFld (setFld s rCurFenceCmd 5 4 (if full then 2 else 1)) rCurFenceCmd 3 0 c.val)
    (hd : inDrain s = false) (hf : s.cure.fence[c] = .fenced) (hs : s.cure.sweep[c] = false)
    (ht : (chan s c).phy.train = .trained) (hm : s.cure.mstate = .mirrored) (hr : s.cure.recast = none) : unfence s c full =
      ev (modCure (doIf full fullStale (placeRebuild (mapsRewrite u c) c)) fun x => { x with
        cmdRes := 1, fence := x.fence.set c .recovering, recast := some ⟨c, 0, full, none⟩ }) 774 := by
  unfold unfence
  simp only [← hu]
  have hd' : ¬ inDrain u = true := by subst hu; show ¬ inDrain s = true; simp [hd]
  have hf' : ¬ (u.cure.fence[c] ≠ .fenced ∨ u.cure.sweep[c] = true ∨ (!decide ((chan u c).phy.train = .trained)) = true) := by
    simp [hu, hf, hs, ht]
  have hm' : u.cure.mstate = .mirrored ∧ u.cure.recast.isNone = true := ⟨by simp [hu, hm], by simp [hu, hr]⟩
  rw [if_neg hd', if_neg hf', if_pos hm']
  rfl

theorem unfence_degraded {s u : State} {c : Fin 16} (hu : u = setFld (setFld s rCurFenceCmd 5 4 1) rCurFenceCmd 3 0 c.val)
    (hd : inDrain s = false) (hf : s.cure.fence[c] = .fenced) (hs : s.cure.sweep[c] = false)
    (ht : (chan s c).phy.train = .trained)
    (hm : s.cure.mstate = .degraded ∨ (s.cure.mstate = .detached ∧ s.cure.staleSide = true)) : unfence s c false =
      ev (modCure u fun x => { x with cmdRes := 1, fence := x.fence.set c .inService }) 775 := by
  unfold unfence
  simp only [Bool.false_eq_true, if_false, ← hu]
  have hd' : ¬ inDrain u = true := by subst hu; show ¬ inDrain s = true; simp [hd]
  have hf' : ¬ (u.cure.fence[c] ≠ .fenced ∨ u.cure.sweep[c] = true ∨ (!decide ((chan u c).phy.train = .trained)) = true) := by
    simp [hu, hf, hs, ht]
  have hcure : u.cure = s.cure := by simp [hu]
  have hm' : ¬ (u.cure.mstate = .mirrored ∧ u.cure.recast.isNone = true) := by
    rintro ⟨h, -⟩
    rcases hm with hm | ⟨hm, -⟩ <;> simp [hcure, hm] at h
  rw [if_neg hd', if_neg hf', if_neg hm', if_pos ⟨rfl, hcure ▸ hm⟩]
  rfl

/-! Recast (R320, R321). -/

theorem recastPanel_copies {s : State} {r : RecastRun} {p : Nat} (h : s.cure.recast = some r) (hp : r.panel = none)
    (hh : (chan s r.chan).sch.hold = .run) (hn : recastNext s r.next = some p) (ho : allOutOpen s = true)
    (hm : panelMoving s p = false) (hd : inDrain s = false) (lines : List (Option LineData)) : recastPanel s lines =
      let todo := panelLinesOn s r.chan p
      let u := modCure s fun x => { x with recast := some { r with next := p, panel := some p } }
      recastNote ((todo.zip (List.range todo.length)).foldl (fun s x => recastLine s x.2 x.1 (lines.getD x.2 none)) u) := by
  unfold recastPanel
  simp [h, hp, hh, hn, ho, hm, hd]

theorem recastDone_ends {s : State} {r : RecastRun} (h : s.cure.recast = some r) (hp : r.panel = none)
    (hh : (chan s r.chan).sch.hold = .run) (hn : recastNext s r.next = none) : recastDone s =
      ev (ev (modCure s fun x => { x with fence := x.fence.set r.chan .inService, recast := none }) 776) 775 := by
  unfold recastDone
  simp [h, hp, hh, hn]

/-- Settles O12, a clause per command from the lemma about its operation. -/
theorem fenceComplete : Obligations.FenceComplete := by
  unfold Obligations.FenceComplete
  intro s c
  dsimp only
  refine ⟨fun h => next_of_eq (fenceCmd_asks h), fun g hg hf hc => next_of_eq (chFenced_trigger hg hf hc),
    fun h => next_of_eq (fenceSweepDone_sweeping h), fun hd hf hs ht => ⟨fun hm hr => ?_, fun hm => ?_⟩,
    fun r h hp hh => ⟨fun lines p hn ho hm hd => next_of_eq (recastPanel_copies h hp hh hn ho hm hd lines), fun hn => ?_⟩⟩
  · have stale := unfence_mirrored (full := false) rfl hd hf hs ht hm hr
    have full := unfence_mirrored (full := true) rfl hd hf hs ht hm hr
    rw [doIf_false, if_neg Bool.false_ne_true] at stale
    rw [doIf_true, if_pos rfl] at full
    exact ⟨next_of_eq stale, next_of_eq full⟩
  · exact next_of_eq (unfence_degraded rfl hd hf hs ht hm)
  · refine ⟨_, next_of_eq (recastDone_ends h hp hh hn), ?_, ?_⟩ <;> simp

end Sys2Proof.Machine
end


section
/-!
PROOFS. Received segments: requests of the mirror stream (O13), requests and answers of Tenon (O17).
-/
namespace Sys2Proof.Machine
open Sys2Proof

/-- A command carries out the request accepted at its engine's front. -/
theorem takeReq8_accepted {s : State} {e : Fin 8} {row : TenRow} {wr : Bool} {len : Seg → Nat} {c : Nat} {g : Seg}
    {k : Option (Nat × Rkey)} {u : State} (h : SegAccepted s e row wr len c g k u)
    (f : State → Nat → Seg → Option (Nat × Rkey) → State) :
    takeReq8 s e row wr len f = segServed (f u c g k) e := by
  unfold SegAccepted at h
  unfold takeReq8 segServed
  cases hc : (connOf (tenTurn s e) c).kind with
  | data =>
    simp only [hc] at h
    obtain ⟨hfront, hfull, hin, key, hkey, rfl, rfl⟩ := h
    simp only [hfront, hfull, hc, hkey, ne_eq, not_true_eq_false, Bool.false_eq_true, or_self, if_false,
      if_neg (Nat.not_lt.mpr hin)]
  | mirror =>
    simp only [hc] at h
    obtain ⟨hfront, hfull, hin, hread, hok, rfl, rfl⟩ := h
    have hwait : ¬ (row = .readReq ∧ earlierJobs (tenTurn s e) e c = true) := fun ⟨hr, he⟩ => by simp [hread hr] at he
    simp only [hfront, hfull, hc, hok, ne_eq, not_true_eq_false, Bool.false_eq_true, or_self, if_false, if_true,
      if_neg hwait, if_neg (Nat.not_lt.mpr hin)]
  | lending =>
    simp only [hc, and_false] at h

/-- Settles O13: each command is `takeReq8` with its row's job. -/
theorem mirrorSegmentsComplete : Obligations.MirrorSegmentsComplete := by
  unfold Obligations.MirrorSegmentsComplete
  intro s e c g k u
  dsimp only
  exact ⟨fun h => next_of_eq (takeReq8_accepted h _), fun h => next_of_eq (takeReq8_accepted h _),
    fun h => next_of_eq (takeReq8_accepted h _), fun h => next_of_eq (takeReq8_accepted h _),
    fun h => next_of_eq (takeReq8_accepted h _), fun h => next_of_eq (takeReq8_accepted h _)⟩

/-- A command takes the answer or control segment at its engine's front. -/
theorem takeFront_own {s : State} {e : Fin 8} {row : TenRow} {c : Nat} {g : Seg}
    (h : frontSeg (segsGo (nakInvalid s e) e) e = some (c, g, row)) (f : State → Nat → Seg → State) :
    takeFront s e row f = segsGo (nakInvalid (f (popSeg (segsGo (nakInvalid s e) e) e) c g) e) e := by
  unfold takeFront
  simp only [h, if_true]

section
variable {s v : State} {e : Fin 8} {c : Nat} {g : Seg}

theorem tenResp_matched {o : OutReq} (hv : v = popSeg (segsGo (nakInvalid s e) e) e)
    (h : frontSeg (segsGo (nakInvalid s e) e) e = some (c, g, .readResp))
    (ho : (connOf v c).outst.find? (fun o => decide (o.psn = g.hdr.psn) && wantsData o.seg) = some o) :
    tenResp s e = segsGo (nakInvalid (retire v c [(o, respAns (connOf v c) g o)]) e) e := by
  unfold tenResp
  rw [takeFront_own h, ← hv]
  simp only [ho]

/-- What a NAK that names an outstanding request does, by its syndrome. -/
theorem tenNak_matched {o : OutReq} {w : State} (hw : w = cntInc (popSeg (segsGo (nakInvalid s e) e) e) rTenNakRxCnt)
    (h : frontSeg (segsGo (nakInvalid s e) e) e = some (c, g, .nak))
    (ho : (connOf w c).outst.find? (fun o => o.psn = g.hdr.ackPsn) = some o) :
    tenNak s e = segsGo (nakInvalid
      (if (g.hdr.imm.setWidth 8 : BitVec 8) = 1 then goBack (modConn w c fun x => { x with ackAt := some w.beat.fclk }) c g.hdr.ackPsn
        else if fatalSyn (g.hdr.imm.setWidth 8) then connError (nakFatalEv w c (g.hdr.imm.setWidth 8)) c .nakRecv
        else if (g.hdr.imm.setWidth 8 : BitVec 8) = 4 ∨ (g.hdr.imm.setWidth 8 : BitVec 8) = 5 ∨ (g.hdr.imm.setWidth 8 : BitVec 8) = 6 ∨
          (g.hdr.imm.setWidth 8 : BitVec 8) = 8 then retire w c [(o, .nak (g.hdr.imm.setWidth 8))]
        else w) e) e := by
  unfold tenNak
  rw [takeFront_own h]
  simp only [← hw, ho]

theorem tenNotReady_matched {w : State} (hw : w = cntInc (popSeg (segsGo (nakInvalid s e) e) e) rTenCnrRxCnt)
    (h : frontSeg (segsGo (nakInvalid s e) e) e = some (c, g, .notReady))
    (ho : (connOf w c).outst.any (fun o => o.psn = g.hdr.ackPsn) = true) :
    tenNotReady s e = segsGo (nakInvalid (modConn w c fun x => { x with
      stopAt := some g.hdr.ackPsn, outst := x.outst.map fun o => { o with retx := false } }) e) e := by
  unfold tenNotReady
  rw [takeFront_own h]
  simp only [← hw, ho, if_true]

end

@[simp] theorem connOf_cntInc (s : State) (r : RegRef) (c : Nat) : connOf (cntInc s r) c = connOf s c := by
  simp [connOf]

/-- Settles O17: the requests as `takeReq8`, the answers and control segments as `takeFront`. -/
theorem tenonRequestsComplete : Obligations.TenonRequestsComplete := by
  unfold Obligations.TenonRequestsComplete
  intro s e c g k u
  dsimp only
  refine ⟨fun h => next_of_eq (takeReq8_accepted h _), fun h hring => next_of_eq ((takeReq8_accepted h _).trans ?_),
    fun h => next_of_eq (takeReq8_accepted h _), fun h => next_of_eq (takeReq8_accepted h _),
    fun h => next_of_eq (takeReq8_accepted h _), fun h => next_of_eq (takeReq8_accepted h _),
    fun o h ho => next_of_eq (tenResp_matched rfl h ho), fun h => next_of_eq (takeFront_own h _), fun o h ho => ?_,
    fun h ho => next_of_eq (tenNotReady_matched rfl h (by rw [connOf_cntInc]; exact ho))⟩
  · dsimp only
    rw [if_pos hring]
  · have key := tenNak_matched (w := cntInc (popSeg (segsGo (nakInvalid s e) e) e) rTenNakRxCnt) rfl h
      (by rw [connOf_cntInc]; exact ho)
    refine ⟨fun h1 => next_of_eq (key.trans ?_), fun h1 hf => next_of_eq (key.trans ?_), fun hf hs => next_of_eq (key.trans ?_)⟩
    · rw [if_pos h1]
    · rw [if_neg h1, if_pos hf]
    · have h1 : (g.hdr.imm.setWidth 8 : BitVec 8) ≠ 1 := by
        rintro h1
        rw [h1] at hs
        exact absurd hs (by decide)
      rw [if_neg h1, hf, if_neg (by decide), if_pos hs]

end Sys2Proof.Machine
end


section
/-!
PROOFS. Tiering (O14).
-/
namespace Sys2Proof.Machine
open Sys2Proof

/-! Promotions and the demotion hand (R337, R338, R345). -/

section
variable {s : State} {e : Fin 4}

theorem promotion_jig {p : Nat} (h : jigNext s e = some p) : promotion s e = jigLocal s e p := by
  unfold promotion
  simp only [h]

theorem promotion_decided {m : MoveRec} (hj : jigNext s e = none) (hm : mayMove s = true)
    (hf : s.tier.moves.find? (fun m => decide (m.eng = e) && decide (m.stage = .decided) && m.up && panelFree s m.panel) = some m)
    (hp : peState (pmapGet s m.panel) = 2) (hl : lenderLost s m.panel = false) : promotion s e = promoteStart s m := by
  unfold promotion
  simp only [hj, hm, hf, hp, hl, if_true, Bool.not_false, and_self]

/-- The front panel of the promotion queue is taken where it is REMOTE, free, and a frame and a record are free. -/
theorem promotion_queued {u : State} {q : Nat} {rest : List Nat} {m : MoveRec}
    (hu : u = moveAdd (modTier s fun t => { t with promoQ := rest }) q e ⟨true, .policy, none⟩)
    (hj : jigNext s e = none) (hm : mayMove s = true)
    (hf : s.tier.moves.find? (fun m => decide (m.eng = e) && decide (m.stage = .decided) && m.up && panelFree s m.panel) = none)
    (hq : s.tier.promoQ = q :: rest) (hmv : panelMoving s q = false) (hp : peState (pmapGet s q) = 2)
    (hl : lenderLost s q = false) (hno : moveOf s q = none) (hfree : panelFree s q = true) (hroom : engMoves s e < 4)
    (hframe : frameFloor s < framesFree s) (hu' : moveOf u q = some m) : promotion s e = promoteStart u m := by
  unfold promotion
  simp only [hj, hm, hf, hq, hmv, hp, hl, hno, hfree, if_true, Bool.false_eq_true, if_false, ne_eq, not_true_eq_false,
    Option.isSome_none, or_self, Bool.not_true, Nat.not_le.mpr hroom, Nat.not_le.mpr hframe, ← hu, hu']

end

section
variable {s u : State} {err : RawLine}
  (hu : u = mapLookup (modTier s fun t => { t with handOff := false }) (s.tier.hand * 65536) err)
  (hm : mayMove s = true) (hen : rbit s rTirCtl 30 = true) (hlow : framesFree s < 2 * frameFloor s)
  (hpan : 0 < mapPanels s) (hn : (nbrBest s []).isSome = true)
include hu hm hen hlow hpan hn

theorem handStep_decides {d : Fin 4} (hd : demotable u s.tier.hand = true) (hh : heatOf u s.tier.hand ≤ fld u rTirThresh 15 0)
    (hno : moveOf u s.tier.hand = none) (hr : moveRoom u = some d) :
    handStep s err = handOn (moveAdd u s.tier.hand d ⟨false, .policy, none⟩) := by
  unfold handStep
  rw [if_pos (by simp only [hm, hen, hlow, hpan, Bool.and_self, decide_true])]
  have hand : (modTier s fun t => { t with handOff := false }).tier.hand = s.tier.hand := rfl
  simp only [hn, Bool.not_true, Bool.and_false, Bool.false_eq_true, if_false, hand, ← hu]
  rw [if_pos (by simp only [hd, hh, hno, Option.isNone_none, Bool.and_self, decide_true])]
  simp only [hr]

theorem handStep_passes (hd : demotable u s.tier.hand = false) (hmv : panelMoving u s.tier.hand = false) :
    handStep s err = handOn u := by
  unfold handStep
  rw [if_pos (by simp only [hm, hen, hlow, hpan, Bool.and_self, decide_true])]
  have hand : (modTier s fun t => { t with handOff := false }).tier.hand = s.tier.hand := rfl
  simp only [hn, Bool.not_true, Bool.and_false, Bool.false_eq_true, if_false, hand, ← hu]
  rw [if_neg (by simp only [hd, Bool.false_and, Bool.false_eq_true, not_false_eq_true]), if_neg (by simp only [hmv, Bool.false_eq_true, false_and, not_false_eq_true])]

end

/-- A demotion decided starts: the panel's Return Table entry says how. -/
theorem demotion_decided {s : State} {e : Fin 4} {m : MoveRec} (hm : mayMove s = true)
    (hf : s.tier.moves.find? (fun m => decide (m.eng = e) && decide (m.stage = .decided) && !m.up && panelFree s m.panel) = some m)
    (hp : peState (pmapGet s m.panel) = 1) (hfill : fillOf s m.panel = none) :
    (retFind s m.panel = none → demotion s e = allocSend s m) ∧
    (∀ r : RetEnt, retFind s m.panel = some r →
      demotion s e = if r.dirty then allocSend (retFree s m.panel) m else remap s m) := by
  refine ⟨fun h => ?_, fun r h => ?_⟩ <;>
  · unfold demotion
    simp only [hm, hf, hp, hfill, h, if_true, Option.isNone_none, and_self]

/-! A move's steps and its end (R340 to R342, R347). -/

section
variable {s : State} {p : Nat} {m : MoveRec} (h : moveOf s p = some m)
include h

theorem moveStepDone_remap (hs : m.stage = .remap) : moveStepDone s p = remap s m := by
  unfold moveStepDone
  simp only [h, hs]

theorem moveStepDone_flush (hs : m.stage = .flush ∨ (m.stage = .begin ∧ panelFree s p = true)) (hm : mayMove s = true) :
    moveStepDone s p = demoteFlush s m := by
  unfold moveStepDone
  rcases hs with hs | ⟨hs, hf⟩
  · simp only [h, hs, hm, if_true]
  · simp only [h, hs, hf, hm, Bool.and_self, if_true]

theorem moveStepDone_copying {u : State} {k : MoveRec} (hs : m.stage = .copy) (hu : u = panelPump (copyWork s m))
    (hk : moveOf u p = some k) (hw : k.left ≠ [] ∨ k.acks ≠ []) : moveStepDone s p = u := by
  unfold moveStepDone
  simp only [h, hs, ← hu, hk]
  exact if_pos (by rcases hw with hw | hw <;> simp [hw])

theorem moveStepDone_copied {u : State} {k : MoveRec} (hs : m.stage = .copy) (hu : u = panelPump (copyWork s m))
    (hk : moveOf u p = some k) (hf : panelFree u p = true) (hm : mayMove u = true) (hleft : k.left = []) (hacks : k.acks = [])
    (hl : lendWaiting u p = false) (hfr : frameWaiting u k.lframe = false) :
    moveStepDone s p = if k.up then promoteEnd u k else demoteEnd u k := by
  unfold moveStepDone
  simp only [h, hs, ← hu, hk]
  exact if_neg (by simp [hf, hm, hleft, hacks, hl, hfr])

theorem moveAbandon_fenced (hc : abandonCause s m = 1) : moveAbandon s p = abandon s m true := by
  unfold moveAbandon
  simp only [h, hc]

theorem moveAbandon_lost (hc : abandonCause s m = 2 ∨ abandonCause s m = 3) : moveAbandon s p = abandon s m false := by
  unfold moveAbandon
  rcases hc with hc | hc <;> simp only [h, hc]

end

/-! Frames, neighbours and firmware's command (R332, R333, R340, R348). -/

theorem nbrProbe_due {s : State} {j : Fin 32} (hon : nbrOn s j = true) (hm : s.tier.nbrs[j].mode ≠ .lost)
    (ht : s.tier.nbrs[j].rdAt + 1000000 ≤ beatNs s) (frame : BitVec 28) : nbrProbe s j frame =
      outPush (modNbr s j fun n => { n with rdAt := beatNs s }) (lendConn s j 0)
        (segBare .readReq 1 (frame.toNat * 65536) 1 0 .probe) := if_pos ⟨hon, hm, ht⟩

theorem nbrStateChange_sample {s : State} {j : Fin 32} (hon : nbrOn s j = true) (x : BitVec 16) :
    nbrStateChange s j (some x) = nbrUpdate (rttSample s j x.toNat) j := by
  unfold nbrStateChange
  simp only [hon, if_true]

theorem frameCmd_takes {s u : State} {f : Nat} (ht : tiered s = true) (hf : frameFloor s < framesFree s)
    (h : frameTake s = some (f, u)) : frameCmd s = modTier u fun t => { t with frameRes := 1, frameVal := f } := by
  unfold frameCmd
  simp only [ht, hf, h, and_self, if_true]

theorem moveCmd_decides {s u : State} {v : Word64} {d : MoveDec} {x : Fin 4}
    (hu : u = setReg s rTirMoveCmd (v &&& ~~~ fieldMask 63 60 &&& ~~~ fieldMask 58 53 &&& ~~~ fieldMask 46 32))
    (hd : d = ⟨!bitOf v 59, .firmware, if bitOf v 47 then none else some (Fin.ofNat 32 (fieldOf v 52 48))⟩)
    (hm : mayMove u = true) (hq : fieldOf v 31 0 < mapPanels u) (hmv : panelMoving u (fieldOf v 31 0) = false)
    (hno : moveOf u (fieldOf v 31 0) = none)
    (hup : bitOf v 59 = false → peState (pmapGet u (fieldOf v 31 0)) = 2 ∧ lenderLost u (fieldOf v 31 0) = false)
    (hdown : bitOf v 59 = true → demotable u (fieldOf v 31 0) = true) (hr : moveRoom u = some x) :
    moveCmd s v = modTier (moveAdd u (fieldOf v 31 0) x d) fun t => { t with moveRes := 1 } := by
  have hfit : (if (!bitOf v 59) = true then decide (peState (pmapGet u (fieldOf v 31 0)) = 2) && !lenderLost u (fieldOf v 31 0)
      else demotable u (fieldOf v 31 0)) = true := by
    cases hb : bitOf v 59 with
    | false => simp [hup hb]
    | true => simp [hdown hb]
  unfold moveCmd
  simp only [← hu, ← hd]
  rw [if_neg (by simp [hm, hq]), if_neg (by simp [hmv])]
  simp only [hr, hno, Option.isNone_none, Bool.true_and]
  exact if_pos hfit

/-- Settles O14, a clause per command from the lemma about its operation. -/
theorem tieringComplete : Obligations.TieringComplete := by
  unfold Obligations.TieringComplete
  intro s e p err
  dsimp only
  refine ⟨rfl, fun q rest hj hm hf hq hmv hp hl hno hfree hroom hframe m hu =>
      next_of_eq (promotion_queued rfl hj hm hf hq hmv hp hl hno hfree hroom hframe hu),
    fun m hj hm hf hp hl => next_of_eq (promotion_decided hj hm hf hp hl), fun q h => next_of_eq (promotion_jig h),
    fun hm hen hlow hpan hn => ⟨fun hd hh hno d hr => next_of_eq (handStep_decides rfl hm hen hlow hpan hn hd hh hno hr),
      fun hd hmv => next_of_eq (handStep_passes rfl hm hen hlow hpan hn hd hmv)⟩,
    fun m hm hf hp hfill => ⟨fun h => next_of_eq ((demotion_decided hm hf hp hfill).1 h),
      fun r h => next_of_eq ((demotion_decided hm hf hp hfill).2 r h)⟩,
    fun m h => ⟨fun hs => next_of_eq (moveStepDone_remap h hs), fun hs hm => next_of_eq (moveStepDone_flush h hs hm),
      fun k hs hk hf hm => ⟨fun hw => next_of_eq (moveStepDone_copying h hs rfl hk hw),
        fun hleft hacks hl hfr => next_of_eq (moveStepDone_copied h hs rfl hk hf hm hleft hacks hl hfr)⟩⟩,
    fun m h => ⟨fun hc => next_of_eq (moveAbandon_fenced h hc), fun hc => next_of_eq (moveAbandon_lost h hc)⟩,
    fun ht => next_of_eq (if_pos ht), fun j frame hon hm ht => next_of_eq (nbrProbe_due hon hm ht frame),
    fun j x hon => ⟨next_of_eq (nbrStateChange_sample hon x), rfl⟩, fun f u ht hf h => next_of_eq (frameCmd_takes ht hf h),
    fun v hm hq hmv hno hup hdown x hr => next_of_eq (moveCmd_decides rfl rfl hm hq hmv hno hup hdown hr)⟩

end Sys2Proof.Machine
end


section
/-!
PROOFS. Lending, grants and Reclaim (O15), jig lists (O16).
-/
namespace Sys2Proof.Machine
open Sys2Proof

/-- A line put by its DAS address leaves the grants. -/
theorem dasPut_tier (s : State) (das : Nat) (d : LineData) : (dasPut s das d).tier = s.tier :=
  (dasPut_kept (al := [Part.csr, .map, .chans].contains) (.of rfl) (.refl s) das d).same .tier rfl

/-! The lender's segments (R350 to R352). -/

/-- A command carries out the lending segment at its engine's front. -/
theorem takeLend_own {s : State} {e : Fin 8} {row : TenRow} {c : Nat} {g : Seg}
    (h : frontSeg (tenTurn s e) e = some (c, g, row)) (hfull : jobsFull (tenTurn s e) e = false)
    (hmay : chainMay (tenTurn s e) e g.hdr row = true) (f : State → Nat → Seg → State) :
    takeLend s e row f = segServed (f (popSeg (tenTurn s e) e) c g) e := by
  unfold takeLend
  simp only [h, hfull, hmay, ne_eq, not_true_eq_false, Bool.false_eq_true, Bool.not_true, or_self, if_false]
  rfl

section
variable {s u : State} {e : Fin 8} {c : Nat} {g : Seg} (hu : u = popSeg (tenTurn s e) e)
include hu

/-- An access inside a grant, or a probe, is performed at its DAS address. -/
theorem lendAccess_granted {at' len : Nat} (hat : at' = g.hdr.offset.toNat)
    (hlen : len = if g.hdr.opcode = 6 then 8 else g.hdr.length.toNat)
    (h : frontSeg (tenTurn s e) e = some (c, g, .lendAccess)) (hfull : jobsFull (tenTurn s e) e = false)
    (hin : grantHolds u g.hdr.srcDev.toNat (at' / 65536) ((at' + len - 1) / 65536 - at' / 65536 + 1) = true ∨ isProbe u g.hdr = true)
    (htop : at' + len ≤ dasTop u) : lendAccess s e = segServed
      (if g.hdr.opcode = 1 then jobStart u e c g none .lines false (writeReqs u e (2 ^ 47) at' g.data)
        else if g.hdr.opcode = 3 then jobStart u e c g none .read false (readReqs u e (2 ^ 47) at' len)
        else atomStart u e (2 ^ 47) c g none) e := by
  unfold lendAccess
  rw [takeLend_own h hfull rfl, ← hu]
  simp only [← hat, ← hlen]
  rw [if_pos (by simpa only [Bool.or_eq_true] using hin), if_neg (Nat.not_lt.mpr htop)]

theorem lendAlloc_taken {q : Fin 32} {d : LineData} {w v : State}
    (h : frontSeg (tenTurn s e) e = some (c, g, .lendAlloc)) (hfull : jobsFull (tenTurn s e) e = false)
    (hmay : chainMay (tenTurn s e) e g.hdr .lendAlloc = true) (hq : grantOf u g.hdr.srcDev.toNat = some q)
    (hd : inDrain u = false) (hheld : grantHeld u q = false) (hfree : u.tier.grantFree[q] ≠ 0)
    (hw : w = apertureTaken u e [u.tier.grantHead[q] * 65536, grantFirst u q * 65536])
    (hread : chainRead w u.tier.grantHead[q] = some d)
    (hv : v = respPush (grantHeader (modGrant w q true true ((lineWord d 0).toNat % 2 ^ 32) (w.tier.grantFree[q] - 1)) q)
      c g 0 (BitVec.ofNat 32 u.tier.grantHead[q]) []) :
    lendAlloc s e = segServed (if g.dup then v else jobStart v e c g none .lines true []) e := by
  unfold lendAlloc
  rw [takeLend_own h hfull hmay, ← hu]
  simp only [hq, hd, hheld, hfree, decide_false, Bool.or_self, Bool.false_eq_true, if_false, ← hw, hread, ← hv]

theorem lendFree_pushed {q : Fin 32} {w : State}
    (h : frontSeg (tenTurn s e) e = some (c, g, .lendFree)) (hfull : jobsFull (tenTurn s e) e = false)
    (hmay : chainMay (tenTurn s e) e g.hdr .lendFree = true) (hq : grantOfFrame u g.hdr.srcDev.toNat g.hdr.imm.toNat = some q)
    (hd : inDrain u = false) (hheld : grantHeld u q = false)
    (hw : w = apertureTaken u e [g.hdr.imm.toNat * 65536, grantFirst u q * 65536]) :
    lendFree s e = segServed (jobStart (grantHeader (modGrant
      (dasPut w (g.hdr.imm.toNat * 65536) (chainLine w.tier.grantHead[q] 0)) q true true g.hdr.imm.toNat (w.tier.grantFree[q] + 1)) q)
      e c g none .lines true []) e := by
  unfold lendFree
  rw [takeLend_own h hfull hmay, ← hu]
  simp only [hq, hd, hheld, Bool.false_eq_true, if_false, ← hw, dasPut_tier]

end

/-! Grants and Reclaim (R352, R354). -/

theorem grantEnable_enables {s w x : State} {q : Fin 32} {v : Word64} (hoff : grantOn s q = false)
    (hw : w = setReg s (rTirGrantA q.val) (packFields [(61, fieldOf v 61 61), (32, fieldOf v 47 32), (0, fieldOf v 27 0)]))
    (hok : grantOk w q = true)
    (hx : x = forEach (List.range (grantCount w q - 1)) (cacheTrim (grantBits w q true)) fun s i =>
      dasPut s ((grantFirst w q + 1 + i) * 65536)
        (chainLine (if i + 2 = grantCount w q then chainEnd else grantFirst w q + 2 + i) 0)) :
    grantEnable s q v =
      frameLowUpd (ev (grantHeader (modGrant x q true true (grantFirst w q + 1) (grantCount w q - 1)) q) 852) := by
  unfold grantEnable
  rw [if_neg (by simp [hoff])]
  simp only [← hw, hok, if_true, ← hx]

theorem grantDisable_whole {s : State} {q : Fin 32} (hon : grantOn s q = true)
    (h : s.tier.grantFree[q] + 1 = grantCount s q) :
    grantDisable s q = frameLowUpd (modGrant (grantBits s q false) q false false 0 0) := by
  unfold grantDisable
  rw [if_pos hon, if_pos h]

theorem grantReload_read {s : State} {q : Fin 32} {d : LineData} (hon : grantOn s q = true)
    (h : dasNow s (grantFirst s q * 65536) = some (some d)) : grantReload s q =
      modGrant s q true true ((lineWord d 0).toNat % 2 ^ 32) ((lineWord d 1).toNat % 2 ^ 28) := by
  unfold grantReload
  rw [if_pos hon, h]

theorem reclaimCmd_walks {s u : State} {j : Fin 32} {twin : List (Nat × LineData)} {frames : List Nat}
    (hu : u = setFld s rTirReclaimCmd 4 0 j.val) (hr : s.tier.reclaim = none) (hm : s.cure.mstate = .mirrored)
    (hs : s.cure.staleSide = false) (hrec : s.cure.recast = none) (hl : s.tier.nbrs[j].mode = .lost)
    (ht : tiered u = true) (hd : inDrain s = false) : reclaimCmd s j twin frames = reclaimWalk j twin (s.map.pmap.ex.length + 1)
      (modTier u fun t => { t with reclRes := 0 }) 0 frames := by
  have htier : u.tier = s.tier := by simp [hu]
  have hcure : u.cure = s.cure := by simp [hu]
  have hmap : u.map = s.map := by simp [hu]
  have hdrain : inDrain u = false := by subst hu; exact hd
  unfold reclaimCmd
  simp only [← hu, htier, hcure, hr, hm, hs, hrec, hl, ht, hdrain, Option.isNone_none, and_self, if_true]
  have : (modTier u fun t => { t with reclRes := 0 }).map = s.map := hmap
  rw [this]

theorem reclaimDone_aborts {s : State} {r : ReclaimRun} (hr : s.tier.reclaim = some r) (hd : inDrain s = true)
    (twin : List (Nat × LineData)) (frames : List Nat) :
    reclaimDone s twin frames = modTier s fun t => { t with reclaim := none, reclRes := 3 } := by
  unfold reclaimDone
  simp only [hr, hd, if_true]

theorem reclaimDone_ends {s u : State} {r r' : ReclaimRun} {twin : List (Nat × LineData)} {frames : List Nat}
    (hr : s.tier.reclaim = some r) (hd : inDrain s = false)
    (hu : u = reclaimWalk r.nbr twin (s.map.pmap.ex.length + 1) s r.next frames) (hr' : u.tier.reclaim = some r')
    (hn : (reclaimNext u r'.nbr r'.next).isNone = true) : reclaimDone s twin frames =
      modTier (retForget u r'.nbr) fun t => { t with
        nbrs := t.nbrs.set r'.nbr { t.nbrs[r'.nbr] with use := 0 }, reclaim := none, reclRes := 1 } := by
  unfold reclaimDone
  simp only [hr, hd, Bool.false_eq_true, if_false, ← hu, hr', hn, if_true]
  rfl

/-- Settles O15, a clause per command from the lemma about its operation. -/
theorem lendingComplete : Obligations.LendingComplete := by
  unfold Obligations.LendingComplete
  intro s e c g
  dsimp only
  refine ⟨fun h hfull hin htop => ?_,
    fun q d h hfull hmay hq hd hheld hfree hread => next_of_eq (lendAlloc_taken rfl h hfull hmay hq hd hheld hfree rfl hread rfl),
    fun q h hfull hmay hq hd hheld => next_of_eq (lendFree_pushed rfl h hfull hmay hq hd hheld rfl),
    fun q v hoff hok => next_of_eq (grantEnable_enables hoff rfl hok rfl),
    fun q hon => ⟨fun h => next_of_eq (grantDisable_whole hon h), fun d h => next_of_eq (grantReload_read hon h)⟩,
    fun q hold => rfl,
    fun j twin frames hr hm hs hrec hl ht hd => next_of_eq (reclaimCmd_walks rfl hr hm hs hrec hl ht hd),
    fun r r' twin frames hr => ⟨fun hd => next_of_eq (reclaimDone_aborts hr hd twin frames),
      fun hd hr' hn => next_of_eq (reclaimDone_ends hr hd rfl hr' hn)⟩⟩
  have key := lendAccess_granted rfl rfl rfl h hfull hin htop
  refine ⟨fun h1 => next_of_eq (key.trans ?_), fun h3 => next_of_eq (key.trans ?_), fun h1 h3 => next_of_eq (key.trans ?_)⟩
  · rw [if_pos h1]
  · rw [if_neg (by rw [h3]; decide), if_pos h3]
  · rw [if_neg h1, if_neg h3]

/-! Jig lists (R356 to R360). -/

section
variable {s : State} {e : Fin 4}

theorem jigGo_reads {far : List (Nat × LineData)} {a count : Nat} {head : LineData} {u : State}
    (hb : s.tier.jigs[e].busy = false) (hd : inDrain s = false) (ha : a = fld s (rTirJigAddr e.val) 47 6 * 64)
    (hmay : engineMay s 16 a = true) (hhead : head = (listLine s far a).getD 0) (hcount : count = lineNum head 4 2)
    (hu : u = modJig (engineRead s 16 a) e fun _ => { JigSt.idle with
      busy := true, lead := lineNum head 8 4, addr := a, count := count, prev := lineNum head 16 8 }) :
    jigGo s e far = if lineNum head 0 4 = 1 ∧ 1 ≤ count ∧ count ≤ 4096 ∧ lineNum head 6 2 = 0 ∧
      lineNum head 12 4 = 0 ∧ lineNum head 24 8 = 0 then jigAhead e far 0 count u else jigFault u e 0 := by
  unfold jigGo
  rw [if_neg (by simp only [hb, hd, Bool.false_eq_true, or_self, not_false_eq_true])]
  simp only [← ha, hmay, if_true, ← hhead, ← hcount, ← hu, Bool.and_eq_true, decide_eq_true_eq, and_assoc]

theorem jigStepStart_faulty {x : JigStep} (hx : s.tier.jigs[e].steps[s.tier.jigs[e].step]? = some x)
    (hb : s.tier.jigs[e].busy = true) (hg : s.tier.jigs[e].begun = false) (hs : s.tier.jigs[e].stop = false)
    (hok : x.ok = false) : jigStepStart s e = jigFault s e s.tier.jigs[e].step := by
  unfold jigStepStart
  simp only [hx, hb, hg, hs, hok, Bool.not_false, Bool.and_self, if_true]

/-- A good step begins from its deadline less the lead: a Local step at its first panel, a Veneer step with its reads. -/
theorem jigStepStart_due {x : JigStep} (hx : s.tier.jigs[e].steps[s.tier.jigs[e].step]? = some x)
    (hb : s.tier.jigs[e].busy = true) (hg : s.tier.jigs[e].begun = false) (hs : s.tier.jigs[e].stop = false)
    (hok : x.ok = true) (hdue : x.dl ≤ beatNs s + s.tier.jigs[e].lead) : jigStepStart s e =
      if x.tgt = 0 then modJig s e fun g => { g with begun := true, pos := 0 }
      else forEach (List.range x.count)
        (modJig (modJig s e fun g => { g with begun := true, pos := 0 }) e fun g => { g with pos := x.count })
        fun s i => forEach (writtenLines s (x.panel + i)) s fun s a => joinerReq s e .rdLine a 0 false (.joiner e 0) .access := by
  unfold jigStepStart
  simp only [hx, hb, hg, hs, hok, hdue, Bool.not_false, Bool.and_self, if_true, Bool.not_true, Bool.false_eq_true, if_false]

theorem jigStepStaged_stopped (h : s.tier.jigs[e].stop = true) (far : List (Nat × LineData)) :
    jigStepStaged s e far = jigStopEnd s e := if_pos h

theorem jigStepStaged_staged {far : List (Nat × LineData)} (hs : s.tier.jigs[e].stop = false) (hst : stepStaged s e = true)
    (hmay : (jigLines s.tier.jigs[e]).all (engineMay s 16) = true) : jigStepStaged s e far =
      jigAhead e far (s.tier.jigs[e].step + 1) s.tier.jigs[e].count (modJig s e fun g => { g with begun := false, pos := 0 }) := by
  have hjig : (modJig s e fun g => { g with begun := false, pos := 0 }).tier.jigs[e] =
      { s.tier.jigs[e] with begun := false, pos := 0 } := by simp [modJig, modTier]
  unfold jigStepStaged
  rw [if_neg (by simp only [hs, Bool.false_eq_true, not_false_eq_true]), if_pos (by simp only [hst, hmay, Bool.and_self])]
  simp only [hjig]

theorem jigLate_step {k : Nat} (h : lateStep s e = some k) : jigLate s e =
    evd (cntInc (modJig s e fun g => { g with lateK := g.lateK ++ [k], late := g.late + 1 }) rTirJigLateCnt) 848
      [BitVec.ofNat 32 e.val, BitVec.ofNat 32 k] := by
  unfold jigLate
  simp only [h]

theorem jigUnpin_step {k : Nat} {x : JigStep} {u : State} (h : unpinStep s e = some k)
    (hx : s.tier.jigs[e].steps[k]? = some x) (hu : u = modJig s e fun g => { g with unpins := g.unpins ++ [k] }) :
    jigUnpin s e = if s.vnr.mode = .enabled then
      ropStart u .unpin (x.panel * 1024) ((x.panel + x.count) * 1024) false else ropRefuse u := by
  have hv : u.vnr = s.vnr := by rw [hu]; rfl
  unfold jigUnpin
  simp only [h, hx, ← hu, hv]

/-- No Unpin step is left once each of them has been issued. -/
theorem jigDone_all (hb : s.tier.jigs[e].busy = true) (hs : s.tier.jigs[e].stop = false)
    (hc : s.tier.jigs[e].count ≤ s.tier.jigs[e].steps.length) (hp : s.tier.jigs[e].steps.length ≤ s.tier.jigs[e].step)
    (hun : ∀ k x, s.tier.jigs[e].steps[k]? = some x → x.tgt = 3 → k ∈ s.tier.jigs[e].unpins) :
    jigDone s e = ev (jigEnd s e 1) 849 := by
  unfold jigDone
  extract_lets g left
  have hleft : left = [] := by
    refine List.filter_eq_nil_iff.mpr fun k _ => ?_
    rcases hx : g.steps[k]? with _ | x
    · exact Bool.false_ne_true
    · by_cases ht : x.tgt = 3
      · have hk : g.unpins.contains k = true := List.contains_iff_mem.mpr (hun k x hx ht)
        simp only [ht, hk, decide_true, Bool.not_true, Bool.and_false, Bool.false_eq_true, not_false_eq_true]
      · simp [ht]
  rw [if_pos (by simp only [g, hb, hs, hc, hp, Bool.not_false, decide_true, Bool.and_self])]
  simp only [hleft, List.find?_nil, List.isEmpty_nil, if_true]

end

/-- Settles O16, a clause per command from the lemma about its operation. -/
theorem jigsComplete : Obligations.JigsComplete := by
  unfold Obligations.JigsComplete
  intro s e
  dsimp only
  refine ⟨fun far hb hd hmay => next_of_eq (jigGo_reads hb hd rfl hmay rfl rfl rfl), fun hb => next_of_eq (if_pos hb),
    fun x hx hb hg hs => ⟨fun hok => next_of_eq (jigStepStart_faulty hx hb hg hs hok), fun hok hdue => ?_⟩,
    fun far => ⟨fun h => next_of_eq (jigStepStaged_stopped h far),
      fun hs hst hmay => next_of_eq (jigStepStaged_staged hs hst hmay)⟩,
    fun k h => next_of_eq (jigLate_step h), fun k x h hx => next_of_eq (jigUnpin_step h hx rfl),
    fun hb hs hc hp hun => next_of_eq (jigDone_all hb hs hc hp hun)⟩
  have key := jigStepStart_due hx hb hg hs hok hdue
  exact ⟨fun h0 => next_of_eq (key.trans (if_pos h0)), fun h0 => next_of_eq (key.trans (if_neg h0))⟩

end Sys2Proof.Machine
end


section
/-!
PROOFS. Segment Ports, timers, rings and the context cache (O18).
-/
namespace Sys2Proof.Machine
open Sys2Proof

/-! Datagrams sent and received (R366 to R369, R376). -/

section
variable {s p t : State} {n : Fin 4} {far : List (Nat × LineData)}

theorem txDatagram_cast (hp : p = forEach (List.finRange 8) s tenPump) (hup : p.ten.segs[n].up = true)
    (hdue : castDue p n = true) (h : trySend p n true far = some t) : txDatagram s n far = t := by
  unfold txDatagram
  simp only [← hp, hup, hdue, if_true, h]

theorem txDatagram_other (hp : p = forEach (List.finRange 8) s tenPump) (hup : p.ten.segs[n].up = true)
    (hno : castDue p n = false ∨ trySend p n true far = none) (h : trySend p n false far = some t) : txDatagram s n far = t := by
  have hnone : (if castDue p n then trySend p n true far else none) = none := by
    rcases hno with hno | hno <;> simp [hno]
  unfold txDatagram
  simp only [← hp, hup, if_true, hnone, h, Option.getD_some]

end

theorem rxDatagram_good {s u : State} {n : Fin 4} {d : Datagram} (hu : u = cntInc s (rTenRxCnt n.val))
    (hup : s.ten.segs[n].up = true) (hok : datagramOk u n d = true) (hg : hdrGood d.hdr = true)
    (hr : isOpen u d.hdr.dstConn.toNat = true → respGood (connOf u d.hdr.dstConn.toNat) d.hdr = true) :
    rxDatagram s n .whole d = segDispatch u ⟨d.hdr, d.body, d.tag, d.srcPort⟩ := by
  have hbad : (isOpen u d.hdr.dstConn.toNat && !respGood (connOf u d.hdr.dstConn.toNat) d.hdr) = false := by
    cases ho : isOpen u d.hdr.dstConn.toNat with
    | false => rfl
    | true => rw [hr ho]; rfl
  unfold rxDatagram
  rw [if_neg (by simp only [hup, Bool.not_true, Bool.false_eq_true, not_false_eq_true])]
  simp only [← hu, hok, hg, hbad, ne_eq, not_true_eq_false, Bool.not_true, Bool.or_self, Bool.false_eq_true, or_self, if_false]

/-! Acknowledging, the timer and ERROR (R381, R386, R387, R405). -/

theorem ackSend_due {s u : State} {c : Nat} {late : Bool} (hu : u = tenPump s (engOf c))
    (ho : (connOf u c).mode = .opened)
    (hdue : (connOf u c).owedNow = true ∨ 0 < (connOf u c).owed ∧ (late = true ∨ fld u rTenAck 23 16 ≤ (connOf u c).owed)) :
    ackSend s c late = ctlPush (modConn u c fun x => { x with owed := 0, owedNow := false, degr := degrBit u x }) c 0x10
      (connOf u c).ackPt (BitVec.ofNat 32 (flag (degrBit
        (modConn u c fun x => { x with owed := 0, owedNow := false, degr := degrBit u x }) (connOf u c)))) := by
  unfold ackSend
  simp only [← hu]
  rw [if_pos ⟨ho, by simpa only [Bool.or_eq_true, Bool.and_eq_true, decide_eq_true_eq] using hdue⟩]

theorem rtoExpiry_due {s : State} {c : Nat} {p : BitVec 24}
    (hp : p = ((connOf s c).stopAt.filter fun p => (connOf s c).outst.any fun o => o.psn = p).getD (connOf s c).una)
    (ho : (connOf s c).mode = .opened) (ht : (connOf s c).timer = true) (hne : (connOf s c).outst ≠ [])
    (ha : (connOf s c).ackAt ≠ some s.beat.fclk) (hr : retryOver s c p = true → (connOf s c).rxAt ≠ some s.beat.fclk) :
    rtoExpiry s c = goBack (modConn (cntInc s rTenRtoCnt) c fun x => { x with rto := min 1000 (2 * x.rto) }) c p := by
  unfold rtoExpiry
  simp only [← hp]
  rw [if_neg (by simp [ho, ht, hne, ha]), if_neg fun ⟨hover, hrx⟩ => hr hover hrx]

/-- What keeps the connections keeps each of them. -/
theorem connOf_of_kept {s t : State} (h : Kept (fun k => decide (k ≠ .conns)) s t) (c : Nat) : connOf t c = connOf s c :=
  congrArg (fun l => smGet Conn.none l c) h.but

theorem connOf_modConn {s : State} {c : Nat} {f : Conn → Conn} (h : f (connOf s c) ≠ Conn.none) :
    connOf (modConn s c f) c = f (connOf s c) := smGet_smSet_self _ _ _ h

/-- A connection that enters ERROR keeps nothing outstanding and nothing owed. -/
theorem connError_opened {s : State} {c : Nat} (h : (connOf s c).mode = .opened) (cause : ErrCause) :
    connOf (connError s c cause) c = { connOf s c with
      mode := .error, cause := cause, timer := false, outst := [], stopAt := none, owed := 0, owedNow := false } := by
  unfold connError
  extract_lets x id e u v w unsent y z a b
  rw [if_neg (Classical.not_not.mpr h)]
  have hu : connOf u c = { connOf s c with
      mode := .error, cause := cause, timer := false, outst := [], stopAt := none, owed := 0, owedNow := false } :=
    connOf_modConn fun hn => ConnMode.noConfusion (congrArg Conn.mode hn)
  refine Eq.trans (connOf_of_kept ?_ c) hu
  have hw : Kept (fun k => decide (k ≠ .conns)) u w := modEng_kept (.but rfl) (evd_kept (.but rfl)
    (cntInc_kept (.but rfl) (.refl u) rTenConnErrCnt) 912 [BitVec.ofNat 32 c, BitVec.ofNat 32 (errNo cause)]) e _
  have hz : Kept (fun k => decide (k ≠ .conns)) u z :=
    connLost_kept (.but rfl) (ctxTouch_kept (.but rfl) (modCure_kept (.but rfl) hw _) c true) c
  have ha := forEach_kept (cntAdd_kept (.but rfl) hz rTenFlushCnt x.outst.length) x.outst _
    fun _ o hk => segDone_kept (.but rfl) hk c o.seg .failed
  have hb := forEach_kept ha unsent _ fun _ g hk => segDone_kept (.but rfl) hk c g .failed
  exact stallNote_kept (.but rfl) (curePump_kept (.but rfl) (slotPump_kept (.but rfl) hb))

/-! Rings (R388 to R390). -/

section
variable {s p u : State} {r : Fin 32} {far : List (Nat × LineData)} {d : Fin 8} {j : Job}

theorem noticePost_drain (hp : p = forEach (List.finRange 8) s tenPump) (hpost : ringPosting p r = false)
    (hn : noticeNext p r = some (d, j)) (hd : inDrain p = true) : noticePost s r far =
      tenPump (modJob (if j.mute then p else nakSend p j.conn.toNat j.seg.hdr.psn 6) d j.num fun j => { j with met := true }) d := by
  unfold noticePost
  simp only [← hp, hpost, Bool.false_eq_true, if_false, hn, hd, if_true]

/-- The producer serves the oldest WRITE_IMM, the consumer index read again where the ring is full. -/
theorem noticePost_serves (hp : p = forEach (List.finRange 8) s tenPump) (hpost : ringPosting p r = false)
    (hn : noticeNext p r = some (d, j)) (hd : inDrain p = false)
    (hu : u = if ringFull p r = true then ringRead (engineRead p (Fin.ofNat 20 (8 + d.val)) (ringCtl p r)) r far else p)
    (hmay : ringFull p r = true → engineMay p (Fin.ofNat 20 (8 + d.val)) (ringCtl p r) = true) :
    noticePost s r far = tenPump (ringPut u r d j) d := by
  unfold noticePost
  simp only [← hp, hpost, Bool.false_eq_true, if_false, hn, hd]
  cases hf : ringFull p r with
  | false =>
    rw [hf, if_neg Bool.false_ne_true] at hu
    simp only [Bool.not_false, if_true, hu]
  | true =>
    rw [hf, if_pos rfl] at hu
    simp only [Bool.not_true, Bool.false_eq_true, if_false, hmay hf, if_true, ← hu]

theorem ringPut_full (h : ringFull u r = true) : ringPut u r d j = modJob u d j.num fun k => { k with
    wait := .posting (ringNote u r j.seg.hdr true), rids := [] } := if_pos h

theorem ringPut_room (h : ringFull u r = false) (hb : engineBad u (ringAddr u r) = false) : ringPut u r d j =
    modJob { u with adm := { u.adm with wait := u.adm.wait ++ [ringReq u r d j], nextRid := u.adm.nextRid + 1 } } d j.num
      fun k => { k with wait := .posting (ringNote u r j.seg.hdr false), rids := [(ringReq u r d j).rid] } := by
  unfold ringPut
  rw [if_neg (by simp only [h, Bool.false_eq_true, not_false_eq_true]),
    if_neg (by simp only [hb, Bool.false_eq_true, not_false_eq_true])]

theorem ringAWrite_disabled {v : Word64} (hoff : rbit s (rTenRingA r.val) 63 = false) (h4 : 4 ≤ fieldOf v 4 0)
    (h16 : fieldOf v 4 0 ≤ 16) (hu : u = setReg s (rTenRingA r.val)
      (packFields [(63, fieldOf v 63 63), (48, fieldOf v 59 48), (6, fieldOf v 47 6), (0, fieldOf v 4 0)])) :
    ringAWrite s r v = if bitOf v 63 then modTen u fun t => { t with
      rings := t.rings.set r { t.rings[r] with prod := 0, phase := true } } else u := by
  unfold ringAWrite
  simp only [hoff, Bool.false_eq_true, if_false, h4, h16, and_self, if_true, ← hu]

end

/-! The context cache (R399, R400). -/

section
variable {s u : State} {e : Fin 8}

theorem ctxLoadDone_ctx {x : CtxEnt} (hx : (eng s e).ctx.find? (fun x => x.load) = some x)
    (hmay : apertureMay s e (ctxLines s x.conn.toNat) = true) (hu : u = apertureTaken s e (ctxLines s x.conn.toNat)) :
    ctxLoadDone s e = loadTry (if ctxLoads u x.conn.toNat then segsGo (modEng u e fun g => { g with
        ctx := (g.ctx.filter fun y => y.conn ≠ x.conn) ++ [{ x with load := false, dirty := false }] }) e
      else loadFail (ctxDrop u e x.conn) x.conn.toNat) e := by
  unfold ctxLoadDone
  simp only [hx, hmay, Bool.not_true, Bool.false_eq_true, if_false, ← hu]
  cases ctxLoads u x.conn.toNat <;> rfl

theorem ctxLoadDone_rkey {x : RkeyEnt} {k : Rkey} (hn : (eng s e).ctx.find? (fun x => x.load) = none)
    (hx : (eng s e).rkeys.find? (fun x => x.load) = some x) (hmay : apertureMay s e [rkeyBase s x.idx] = true)
    (hu : u = apertureTaken s e [rkeyBase s x.idx]) (hk : rkeyRead u x.idx = some k) : ctxLoadDone s e = modEng u e fun g => { g with
      rkeys := (g.rkeys.filter fun y => y.idx ≠ x.idx) ++ [⟨x.idx, false, k⟩] } := by
  unfold ctxLoadDone
  simp only [hn, hx, hmay, Bool.not_true, Bool.false_eq_true, if_false, ← hu, hk]

theorem ctxEvict_victim {v : CtxEnt} (hv : (eng s e).pend.findSome? (fun p =>
      if (ctxFind s p.hdr.dstConn.toNat).isNone ∧ 8 ≤ setUsed s e (ctxSet p.hdr.dstConn.toNat) then
        ctxVictim s e (ctxSet p.hdr.dstConn.toNat) else none) = some v)
    (hmay : apertureMay s e (ctxLines s v.conn.toNat) = true) :
    ctxEvict s e = loadTry (ctxBack (apertureTaken s e (ctxLines s v.conn.toNat)) e v) e := by
  unfold ctxEvict
  simp only [hv, hmay, if_true]

end

/-- Settles O18, a clause per command from the lemma about its operation. -/
theorem linkComplete : Obligations.LinkComplete := by
  unfold Obligations.LinkComplete
  intro s n c r e
  dsimp only
  refine ⟨fun live => rfl, fun en => rfl, fun far t hup => ⟨fun hdue h => next_of_eq (txDatagram_cast rfl hup hdue h),
      fun hno h => next_of_eq (txDatagram_other rfl hup hno h)⟩,
    fun d hup hok hg hr => next_of_eq (rxDatagram_good rfl hup hok hg hr),
    fun late ho hdue => next_of_eq (ackSend_due rfl ho hdue),
    fun ho => ⟨fun ht hne ha hr => next_of_eq (rtoExpiry_due rfl ho ht hne ha hr),
      fun cause => ⟨_, rfl, connError_opened ho cause⟩⟩,
    fun far d j hpost hn => ⟨fun hd => next_of_eq (noticePost_drain rfl hpost hn hd), fun hd hmay => ?_⟩,
    fun v hoff h4 h16 => next_of_eq (ringAWrite_disabled hoff h4 h16 rfl),
    fun x hx hmay => next_of_eq (ctxLoadDone_ctx hx hmay rfl), fun x k hn hx hmay hk => next_of_eq (ctxLoadDone_rkey hn hx hmay rfl hk),
    fun v hv hmay => next_of_eq (ctxEvict_victim hv hmay)⟩
  have key := noticePost_serves (far := far) rfl hpost hn hd rfl hmay
  refine ⟨fun hfull => next_of_eq (key.trans ?_), fun hfull hbad => next_of_eq (key.trans ?_)⟩
  · rw [ringPut_full hfull]
  · rw [ringPut_room hfull hbad]

end Sys2Proof.Machine
end


section
/-!
PROOFS. Connection and region key commands (O19).
-/
namespace Sys2Proof.Machine
open Sys2Proof

/-! Connection commands (R394, R395, R400, R404). -/

section
variable {s u : State} {c op : Nat}

/-- A command written while none is in progress runs on the connection selected. -/
theorem connCmd_idle (hc : s.ten.closing = []) (op : Nat) (f : State → Nat → State) :
    connCmd s op f = f (modTen (setFld s rTenConnCmd 3 0 op) fun t => { t with connRes := 0 }) (connSel s) := by
  unfold connCmd
  rw [hc]
  rfl

theorem connOf_connCmd (hu : u = modTen (setFld s rTenConnCmd 3 0 op) fun t => { t with connRes := 0 }) :
    connOf u c = connOf s c := by
  rw [hu]
  simp [connOf, modTen]

theorem ctxHeld_connCmd (hu : u = modTen (setFld s rTenConnCmd 3 0 op) fun t => { t with connRes := 0 }) :
    ctxHeld u c = ctxHeld s c := by
  rw [hu]
  simp [ctxHeld, ctxFind, eng, modTen]

theorem withCtx_held (h : ctxHeld s c = true) (f : State → State) : withCtx s c f = f s := if_pos h

/-- A key command that its check allows, on a connection whose context is held. -/
theorem keyCmd_done (hu : u = modTen (setFld s rTenConnCmd 3 0 op) fun t => { t with connRes := 0 })
    (hc : s.ten.closing = []) (hsel : c = connSel s) (hm : (connOf s c).mode ≠ .free) (hheld : ctxHeld s c = true)
    {can : State → Conn → Bool} (hcan : can u (connOf s c) = true) (f : State → Nat → State) :
    keyCmd s op can f = connEnd (ctxTouch (f u c) c true) 1 := by
  unfold keyCmd
  rw [connCmd_idle hc, ← hu, ← hsel]
  rw [connOf_connCmd hu, if_neg hm, withCtx_held ((ctxHeld_connCmd hu).trans hheld), connOf_connCmd hu, if_pos hcan]

theorem connOpen_opens {v w : State} {kind : ConnKind} {x : Conn}
    (hu : u = modTen (setFld s rTenConnCmd 3 0 1) fun t => { t with connRes := 0 }) (hc : s.ten.closing = []) (hsel : c = connSel s)
    (hk : cfgKind u = some kind) (hx : x = connStaged u kind) (hb : openBad u c x = false) (hp : pinFull u c x = false)
    (hv : ctxPlace u c = some v)
    (hw : w = connEnd (modTen (cntInc (ctxWrite (ctxPut (modConn v c fun _ => x) c false) c) rTenCtxWbCnt) fun t =>
      { t with keyVal := 0 }) 1) : connOpen s = nbrOfConn (if 8 ≤ c ∧ c < 16 then markPump w else w) c := by
  unfold connOpen
  rw [connCmd_idle hc, ← hu, ← hsel]
  simp only [hk, ← hx, hb, hp, Bool.false_eq_true, if_false, hv, ← hw]

theorem connClose_closes (hu : u = modTen (setFld s rTenConnCmd 3 0 2) fun t => { t with connRes := 0 })
    (hc : s.ten.closing = []) (hsel : c = connSel s) (hm : (connOf s c).mode ≠ .free) :
    connClose s = closeTry (modTen (connEnd u 0) fun t => { t with closing := t.closing ++ [BitVec.ofNat 16 c] }) (BitVec.ofNat 16 c) := by
  unfold connClose
  rw [connCmd_idle hc, ← hu, ← hsel]
  rw [connOf_connCmd hu, if_neg hm]

theorem connErrCmd_enters (hu : u = modTen (setFld s rTenConnCmd 3 0 6) fun t => { t with connRes := 0 })
    (hc : s.ten.closing = []) (hsel : c = connSel s) (hm : (connOf s c).mode = .opened) (hheld : ctxHeld s c = true) :
    connErrCmd s = connEnd (connError u c .command) 1 := by
  have ho : isOpen u c = true := by unfold isOpen; rw [connOf_connCmd hu, hm]; rfl
  unfold connErrCmd
  rw [connCmd_idle hc, ← hu, ← hsel]
  rw [if_pos ho, withCtx_held ((ctxHeld_connCmd hu).trans hheld)]

theorem connQuery_reports (hu : u = modTen (setFld s rTenConnCmd 3 0 7) fun t => { t with connRes := 0 })
    (hc : s.ten.closing = []) (hsel : c = connSel s) (h : (connOf s c).mode = .free ∨ ctxHeld s c = true) :
    connQuery s = connEnd (modTen u fun t => { t with connStat := connReport u c }) 1 := by
  unfold connQuery
  rw [connCmd_idle hc, ← hu, ← hsel]
  dsimp only
  rw [connOf_connCmd hu, ctxHeld_connCmd hu, if_pos h]

end

/-! Region key commands (R406, R407, R410). -/

section
variable {s u : State} {i : Nat} {k : Rkey}

theorem rkeyCreate_creates {n : Rkey} (hu : u = setFld s rTenRkeyCmd 1 0 1) (hi : i = rkeySel s) (hk : rkeyRead u i = some k)
    (hn : n = rkeyStaged u (k.gen + 1)) (hm : k.mode = .invalid) (htop : n.base + n.size ≤ lmsTop u)
    (hring : n.perm.getLsbD 3 = true → rbit u (rTenRingA n.ring.val) 63 = true) (hp : n.perm ≠ 0) :
    rkeyCreate s = rkeyEnd (modTen (rkeyPut u i n) fun t => { t with rkeyVal := rkeyWord u i n.gen, rkeyLast := some i }) 1 := by
  have hbad : ¬ (k.mode ≠ .invalid ∨ lmsTop u < n.base + n.size ∨
      (n.perm.getLsbD 3 = true ∧ (!rbit u (rTenRingA n.ring.val) 63) = true) ∨ n.perm = 0) := by
    rintro (h | h | ⟨h1, h2⟩ | h)
    · exact h hm
    · omega
    · rw [hring h1] at h2
      exact Bool.false_ne_true h2
    · exact hp h
  unfold rkeyCreate rkeyCmd
  simp only [← hu, ← hi, hk, ← hn, if_neg hbad]

theorem rkeyRevoke_revokes {v : State} (hu : u = setFld s rTenRkeyCmd 1 0 2) (hi : i = rkeySel s) (hk : rkeyRead u i = some k)
    (hm : k.mode = .valid) (hv : v = rkeyPut u i { k with mode := .revoking }) :
    rkeyRevoke s = rkeyEnd (modTen v fun t => { t with
      engines := t.engines.map fun g => { g with
        jobs := g.jobs.map fun j => if j.rkey = some i ∧ jobInFlight v j then { j with snap := true } else j }
      revoke := t.revoke ++ [i], rkeyLast := some i }) 1 := by
  unfold rkeyRevoke rkeyCmd
  simp only [← hu, ← hi, hk, hm, ne_eq, not_true_eq_false, if_false, ← hv]

theorem rkeyQuery_reports (hu : u = setFld s rTenRkeyCmd 1 0 3) (hi : i = rkeySel s) (hk : rkeyRead u i = some k) :
    rkeyQuery s = rkeyEnd (modTen u fun t => { t with rkeyVal := rkeyWord u i k.gen, rkeyLast := some i }) 1 := by
  unfold rkeyQuery rkeyCmd
  simp only [← hu, ← hi, hk]

end

/-- Settles O19, a clause per command from the lemma about its operation. -/
theorem connectionCommandsComplete : Obligations.ConnectionCommandsComplete := by
  unfold Obligations.ConnectionCommandsComplete
  intro s
  dsimp only
  refine ⟨fun hc => ⟨fun kind v hk hb hp hv => next_of_eq (connOpen_opens rfl hc rfl hk rfl hb hp hv rfl),
      fun hm => next_of_eq (connClose_closes rfl hc rfl hm), fun hheld => ⟨fun hm he hg hr => ?_, fun hm hr => ?_, fun hm hr => ?_,
        fun hm => next_of_eq (connErrCmd_enters rfl hc rfl hm hheld)⟩,
      fun h => next_of_eq (connQuery_reports rfl hc rfl h)⟩,
    fun k => ⟨fun hk hm htop hring hp => next_of_eq (rkeyCreate_creates rfl rfl hk rfl hm htop hring hp),
      fun hk hm => next_of_eq (rkeyRevoke_revokes rfl rfl hk hm rfl), fun hk => next_of_eq (rkeyQuery_reports rfl rfl hk)⟩, rfl⟩
  · exact next_of_eq (keyCmd_done rfl hc rfl (by rw [hm]; decide) hheld (by simpa [hm, he] using ⟨hg, hr⟩) _)
  · exact next_of_eq (keyCmd_done rfl hc rfl hm hheld (by simp [hr]) _)
  · exact next_of_eq (keyCmd_done rfl hc rfl hm hheld (by simp [hr]) _)

end Sys2Proof.Machine
end


section
/-!
PROOFS. The Armature (O20) and the mailbox protocol (O21).
-/
namespace Sys2Proof.Machine
open Sys2Proof

/-! The pair stops, boots and restarts (R414, R419 to R422). -/

theorem armHalt_arm (s : State) (m : ArmMode) : (armHalt s m).arm = { s.arm with mode := m } :=
  (maskNote_kept (al := [Part.csr, .evt, .jrn, .ports, .adm, .chans].contains) (.of rfl)
    (withdrawAll_kept (.of rfl) (.refl (modArm s fun a => { a with mode := m })) 19) 19).same .arm rfl

theorem armStop_running {s : State} (h : s.arm.mode = .running) (m : ArmMode) (id unit : Nat) (pc : BitVec 48) :
    (armStop s m id unit pc).arm.mode = m := by
  unfold armStop
  rw [if_pos h, armHalt_arm]

theorem fwHalt_running {s : State} (h : s.arm.mode = .running) (code : Word32) : (fwHalt s code).arm.mode = .halted := by
  unfold fwHalt
  rw [if_pos h, armHalt_arm]

/-- A block taken: the header is checked with the first, and the image once it is whole. -/
theorem imgBlock_boot {s : State} {b : BootRun} {bs : List Byte} (h : s.arm.boot = some b)
    (hbs : bs = b.bytes ++ (List.range 32768).map fun i => smGet 0 s.arm.win i) :
    imgBlock s = if !imgHeader bs then bootFail s 2
      else if imgNum bs 8 4 ≤ bs.length then bootWhole s b (bs.take (imgNum bs 8 4))
      else modArm s fun a => { a with boot := some { b with block := b.block + 1, bytes := bs, asked := s.beat.fclk } } := by
  unfold imgBlock
  simp only [h, ← hbs]

theorem imgTimeout_late {s : State} {b : BootRun} (h : s.arm.boot = some b) (ha : b.asked ≠ s.beat.fclk) :
    imgTimeout s = bootFail s 1 := by
  unfold imgTimeout
  simp only [h, if_neg ha]

theorem bootStart_idle {s : State} (hm : s.arm.mode = .bootRom) (hb : s.arm.boot = none) (hr : s.pwr.rst = none) :
    (bootStart s).arm.tcm = false ∧
      (bootStart s).arm.boot = some ⟨if anyRetained s then .warm else .cold, 1, 0, [], false, s.beat.fclk⟩ := by
  unfold bootStart
  rw [if_pos (by simp [hm, hb, hr])]
  exact ⟨rfl, rfl⟩

theorem armRestart_stopped {s : State} {m : ArmMode} (hm : m ∈ [ArmMode.diverged, .tcmError, .halted, .bootFailed])
    (h : s.arm.mode = m) : armRestart s = armBoot s .resume := by
  simp only [List.mem_cons, List.not_mem_nil, or_false] at hm
  unfold armRestart
  rcases hm with rfl | rfl | rfl | rfl <;> simp only [h]

/-! The commands of MAP.BCMD (R101, R106). -/

theorem bcmdInit_idle {s : State} (hr : isReady s = false) (hb : s.map.bcmd = none)
    (hrun : (popChans s).all (fun c => decide ((chan s c).sch.hold = .run)) = true) :
    (bcmdInit s).map.bcmd = some .init ∧ (bcmdInit s).map.bprog = 0 := by
  unfold bcmdInit
  rw [if_neg (by simp [hr, hb]), if_pos hrun]
  exact ⟨rfl, rfl⟩

theorem bcmdRebuild_idle {s : State} (hb : s.map.bcmd = none)
    (hw : s.arm.mode ≠ .running ∨ (warmRestore s).arm.mode = .running) :
    (bcmdRebuild s).map.bcmd = some .rebuild ∧ (bcmdRebuild s).map.bprog = 0 := by
  unfold bcmdRebuild
  rw [if_neg (by simp [hb])]
  extract_lets warm t
  have hmode : ¬ ((warm && decide (t.arm.mode ≠ .running)) = true) := by
    intro h
    obtain ⟨hwarm, hno⟩ := Bool.and_eq_true_iff.mp h
    have hrun : s.arm.mode = .running := by
      simp only [warm, Bool.and_eq_true, decide_eq_true_eq, and_assoc] at hwarm
      exact hwarm.1
    rw [decide_eq_true_eq, show t = warmRestore s from if_pos hwarm] at hno
    exact hw.elim (fun h => h hrun) hno
  rw [if_neg hmode]
  exact ⟨rfl, rfl⟩

/-- Settles O20, a clause per command from the lemma about its operation. -/
theorem armatureComplete : Obligations.ArmatureComplete := by
  unfold Obligations.ArmatureComplete
  intro s
  dsimp only
  exact ⟨fun h unit pc code => ⟨⟨_, rfl, armStop_running h ..⟩, ⟨_, rfl, armStop_running h ..⟩, ⟨_, rfl, fwHalt_running h code⟩,
      next_of_eq (if_pos h)⟩, fun pc => rfl,
    fun b h => ⟨next_of_eq (imgBlock_boot h rfl), fun ha => next_of_eq (imgTimeout_late h ha)⟩,
    fun hm hb hr => ⟨_, rfl, bootStart_idle hm hb hr⟩, fun m hm h => next_of_eq (armRestart_stopped hm h),
    fun h hr => next_of_eq (if_pos ⟨h, by rw [hr]; rfl⟩), fun hr hb hrun => ⟨_, rfl, bcmdInit_idle hr hb hrun⟩,
    fun hb hw => ⟨_, rfl, bcmdRebuild_idle hb hw⟩, fun hb => next_of_eq (if_neg (by rw [hb]; exact Bool.false_ne_true))⟩

/-! The mailbox protocol (R423, R425). -/

@[simp] theorem mbx_modMbx (s : State) (m : Fin 4) (f : Mbx → Mbx) : mbx (modMbx s m f) m = f (mbx s m) := by
  simp [mbx, modMbx, modFw]

@[simp] theorem mbx_ev (s : State) (id : Nat) (m : Fin 4) : mbx (ev s id) m = mbx s m := by simp [mbx]

@[simp] theorem mbx_evd (s : State) (id : Nat) (ds : List Word32) (m : Fin 4) : mbx (evd s id ds) m = mbx s m := by simp [mbx]

theorem mbxRing_free {s : State} {m : Fin 4} (h : (mbx s m).mode = .idle ∨ (mbx s m).mode = .done) :
    (mbx (mbxRing s m) m).mode = .pending := by
  unfold mbxRing
  rcases h with h | h <;> simp [h]

theorem mbxRing_taken {s : State} {m : Fin 4} (h : (mbx s m).mode = .pending ∨ (mbx s m).mode = .busy) :
    (mbx (mbxRing s m) m).mode = (mbx s m).mode ∧ (mbx (mbxRing s m) m).overrun = true := by
  unfold mbxRing
  rcases h with h | h <;> simp [h]

/-- Firmware takes the next request and zeroes the buffer behind it. -/
theorem mbxTake_next {s : State} {m : Fin 4} (hr : s.arm.mode = .running) (hn : mbxNext s = some m) :
    (mbx (mbxTake s) m).mode = .busy ∧ (mbx (mbxTake s) m).req = [] ∧ (mbxTake s).fw.rr = m ∧
      (mbx (mbxTake s) m).cur = some ((List.range 256).map fun i => smGet 0 (mbx s m).req i) := by
  have htake : ∃ t : State, mbxTake s = cntInc (modFw t fun f => { f with rr := m }) (rMbxCmdCnt m.val) ∧
      (mbx t m).mode = .busy ∧ (mbx t m).req = [] ∧ (mbx t m).cur = some ((List.range 256).map fun i => smGet 0 (mbx s m).req i) := by
    unfold mbxTake
    rw [if_neg (Classical.not_not.mpr hr), hn]
    exact ⟨_, rfl, by rw [mbx_modMbx], by rw [mbx_modMbx], by rw [mbx_modMbx]⟩
  obtain ⟨t, ht, hmode, hreq, hcur⟩ := htake
  rw [ht]
  exact ⟨hmode, hreq, rfl, hcur⟩

theorem mbxRespond_answered {s : State} {m : Fin 4} {bs : List Byte} (hr : s.arm.mode = .running)
    (hb : (mbx s m).mode = .busy) (ha : (mbx s m).ans = some bs) :
    (mbx (mbxRespond s m) m).mode = .done ∧ (mbx (mbxRespond s m) m).ans = none ∧
      (mbx (mbxRespond s m) m).rsp = bs.zipIdx.foldl (fun q x => smSet 0 q x.2 x.1) [] := by
  unfold mbxRespond
  simp [hr, hb, ha]

theorem badOpcode_outside {s : State} {m : Fin 4} {req : List Byte} (h : mbxCur s m = some req)
    (ho : mbxOps.contains (argN req 0 2) = false) : badOpcode s m = mbxAnswer s m req 2 [] := by
  unfold badOpcode
  simp only [h, ho, Bool.false_eq_true, if_false]

/-- Settles O21, a clause per command from the lemma about its operation. -/
theorem mailboxProtocolComplete : Obligations.MailboxProtocolComplete := by
  unfold Obligations.MailboxProtocolComplete
  intro s m
  exact ⟨fun h => ⟨_, rfl, mbxRing_free h⟩, fun h => ⟨_, rfl, mbxRing_taken h⟩, fun h ha => next_of_eq (if_pos ⟨h, ha⟩),
    fun hr hn => ⟨_, rfl, mbxTake_next hr hn⟩, fun bs hr hb ha => ⟨_, rfl, mbxRespond_answered hr hb ha⟩,
    fun req h ho => next_of_eq (badOpcode_outside h ho), fun hr hs => next_of_eq (if_pos ⟨hr, hs⟩)⟩

end Sys2Proof.Machine
end


section
/-!
PROOFS. How a mailbox command is answered, the device commands (O22), the power and diagnostic commands (O23).
-/
namespace Sys2Proof.Machine
open Sys2Proof

/-! A held request (R424 to R426). -/

section
variable {s u : State} {m : Fin 4} {op n status : Nat} {req data : List Byte} (h : RequestHeld s m op n req)
include h

/-- What a step of a command makes of a request that is held, permitted and of a good length. -/
theorem mbxDo_held {len : Nat → Bool} (hl : len n = true) (f : State → List Byte → FwAns) :
    mbxDo s m op len f = match f s (reqArgs req) with
      | (s, some a) => mbxAnswer s m req a.1 a.2
      | (s, none) => s := by
  obtain ⟨hcur, hop, hmay, hn⟩ := h
  unfold mbxDo
  simp only [hcur, hop, ne_eq, not_true_eq_false, if_false, hmay, Bool.not_true, Bool.false_eq_true, hn, hl, reqArgs] <;> rfl

theorem mbxDo_answers {len : Nat → Bool} (hl : len n = true) {f : State → List Byte → FwAns}
    (hf : f s (reqArgs req) = (u, some (status, data))) : mbxDo s m op len f = mbxAnswer u m req status data := by
  rw [mbxDo_held h hl, hf]

theorem mbxDo_waits {len : Nat → Bool} (hl : len n = true) {f : State → List Byte → FwAns}
    (hf : f s (reqArgs req) = fwWait u) : mbxDo s m op len f = u := by
  rw [mbxDo_held h hl, hf]
  rfl

theorem mbxCmd_ok {f : State → List Byte → FwAns} (hf : f s (reqArgs req) = fwOk u data) :
    mbxCmd s m op n f = mbxAnswer u m req 0 data := mbxDo_answers h (decide_eq_true rfl) hf

theorem mbxCmd_waits {f : State → List Byte → FwAns} (hf : f s (reqArgs req) = fwWait u) : mbxCmd s m op n f = u :=
  mbxDo_waits h (decide_eq_true rfl) hf

end

theorem fwArgs_good {s : State} {good : Bool} (h : good = true) (k : FwAns) : fwArgs s good k = k := if_pos h

/-- A commit that is not refused answers OK. -/
theorem fwCommitCmd_ok {s u : State} {mask at_ : Nat} {put : State → State} (h : CommitsTo s mask at_ put u)
    (after : State → State) : fwCommitCmd s mask at_ put after = fwOk (confWrite (after u)) [] := by
  obtain ⟨hfree, rfl, hok⟩ := h
  unfold fwCommitCmd
  simp only [hfree, Bool.false_eq_true, if_false]
  refine if_neg ?_
  rcases hok with hok | hok
  · simp only [hok, Bool.not_true, Bool.false_and, Bool.false_eq_true, not_false_eq_true]
  · simp only [hok, Bool.and_false, Bool.false_eq_true, not_false_eq_true]

/-! Device commands (R418, R428). -/

theorem execImgUpdate_held {s : State} {m : Fin 4} {req : List Byte} (h : RequestHeld s m 0x0105 0 req) :
    execImgUpdate m s = .next (armUpdate (mbxRespond (mbxAnswer s m req 0 []) m)) := by
  have hcmd : mbxCmd s m 0x0105 0 (fun s _ => fwOk s []) = mbxAnswer s m req 0 [] := mbxCmd_ok h rfl
  obtain ⟨hcur, hop, hmay, hn⟩ := h
  unfold execImgUpdate
  simp only [hcmd, hcur, Option.any_some, hop, hmay, hn, decide_true, Bool.and_self, if_true]
  rfl

section
variable {s : State} {a : List Byte}

theorem setDeviceId_ok (hlo : 1 ≤ argN a 0 2) (hhi : argN a 0 2 ≤ 0xFFFE) (hr : isReady s = false) :
    setDeviceId s a = fwOk (confWrite (fwPut s rTopDeviceId (BitVec.ofNat 64 (argN a 0 2)))) [] := by
  unfold setDeviceId
  rw [fwArgs_good (decide_eq_true ⟨hlo, hhi⟩), if_neg (Bool.eq_false_iff.mp hr)]

theorem setProfile_ok {u : State} (hp : argN a 0 1 < 4) (hz : argZ a 1 7 = true)
    (hb : budgetOk s ([64, 32, 16, 64].getD (argN a 0 1) 0) = true)
    (hc : CommitsTo s 0x1E (argN a 8 8)
      (fun s => (profileFields s (argN a 0 1)).foldl (fun s f => fwSet s f.1 [(f.2.1, f.2.2.1, f.2.2.2)]) s) u) :
    setProfile s a = fwOk (confWrite (modFw u fun f => { f with profile := argN a 0 1 })) [] := by
  unfold setProfile
  rw [fwArgs_good (by simp only [hp, hz, decide_true, Bool.and_self]), if_pos hb]
  exact fwCommitCmd_ok hc _

theorem svnAdvance_ok {u : State} (hn : argN a 0 2 ≤ 64) (hs : argN a 0 2 ≤ (s.arm.img.map fun i => i.svn).getD 0)
    (hu : u = if fld s rArmSvn 6 0 < argN a 0 2 then evd (setFld s rArmSvn 6 0 (argN a 0 2)) 1007 (detail32 (argN a 0 2)) else s) :
    svnAdvance s a = fwOk u (leBytes 2 (fld u rArmSvn 6 0)) := by
  unfold svnAdvance
  rw [fwArgs_good (decide_eq_true hn), if_neg (Nat.not_lt.mpr hs)]
  simp only [← hu]

theorem setAccess_ok {m : Fin 4} (hm : m = 0) (hk : argN a 0 1 ∈ [0, 1, 3]) (hz : argZ a 1 1 = true) :
    setAccess m s a = fwOk (confWrite (modFw s fun f => { f with
      masks := f.masks.set (Fin.ofNat 4 (argN a 0 1)) (BitVec.ofNat 16 (argN a 2 2)) })) [] := by
  unfold setAccess
  rw [if_neg (Classical.not_not.mpr hm), fwArgs_good (by rw [List.contains_iff_mem.mpr hk, hz]; rfl)]

theorem imgkeyProgram_ok {m : Fin 4} (hm : m = 3) (hlo : 1 ≤ argN a 0 1) (hhi : argN a 0 1 ≤ 3) (hz : argZ a 1 7 = true)
    (hr : isReady s = false) (hk : rbit s rArmIkeyState (argN a 0 1) = false) :
    imgkeyProgram m s a = fwOk (setFld (forEach (List.range 6) s fun s w =>
      setReg s (rArmIkeyHash w (argN a 0 1)) (BitVec.ofNat 64 (argN a (8 + 8 * w) 8))) rArmIkeyState (argN a 0 1) (argN a 0 1) 1) [] := by
  unfold imgkeyProgram
  rw [if_neg (Classical.not_not.mpr hm), fwArgs_good (by simp only [hlo, hhi, hz, and_self, decide_true, Bool.and_self]),
    if_neg (by simp only [hr, hk, Bool.false_eq_true, or_self, not_false_eq_true])]

theorem imgkeyRevoke_ok (hk : argN a 0 1 < 4) (hi : s.arm.img.any (fun i => decide (i.slot = argN a 0 1)) = false) :
    imgkeyRevoke s a = fwOk (setFld s rArmIkeyState (argN a 0 1 + 4) (argN a 0 1 + 4) 1) [] := by
  unfold imgkeyRevoke
  rw [fwArgs_good (decide_eq_true hk), if_neg (Bool.eq_false_iff.mp hi)]

end

/-- Settles O22: each command answers OK with what its lemma says. -/
theorem deviceCommandsComplete : Obligations.DeviceCommandsComplete := by
  unfold Obligations.DeviceCommandsComplete
  intro s m req
  dsimp only
  exact ⟨fun h => next_of_eq (mbxCmd_ok h rfl), fun h => next_of_eq (mbxCmd_ok h rfl),
    fun h hlo hhi hr => next_of_eq (mbxCmd_ok h (setDeviceId_ok hlo hhi hr)),
    fun u h hp hz hb hc => next_of_eq (mbxCmd_ok h (setProfile_ok hp hz hb hc)), fun h => execImgUpdate_held h,
    fun h hn hs => next_of_eq (mbxCmd_ok h (svnAdvance_ok hn hs rfl)),
    fun h hm hk hz => next_of_eq (mbxCmd_ok h (setAccess_ok hm hk hz)),
    fun h hm hlo hhi hz hr hk => next_of_eq (mbxCmd_ok h (imgkeyProgram_ok hm hlo hhi hz hr hk)),
    fun h hk hi => next_of_eq (mbxCmd_ok h (imgkeyRevoke_ok hk hi))⟩

/-! Power and diagnostic commands (R435 to R437). -/

section
variable {s u : State} {a : List Byte}

theorem setHoldup_ok (hb : (budgetMax (argN a 0 4)).any (fun b => decide (fld s rVnrDirty 23 16 ≤ b)) = true) :
    setHoldup s a = fwOk (confWrite (modFw s fun f => { f with warn := argN a 0 4 }))
      (leBytes 1 ((budgetMax (argN a 0 4)).getD 0)) := if_pos hb

theorem pwrState_ok (hk : argN a 0 1 < 4) (hu : u = fwPut s rPwrStateCmd (BitVec.ofNat 64 (2 ^ 31 + argN a 0 1)))
    (hr : u.pwr.cmdRes ≠ 2) : pwrState s a = fwOk u [] := by
  unfold pwrState
  rw [fwArgs_good (decide_eq_true hk)]
  simp only [← hu, if_neg hr]

theorem regReadCmd_word {bad : Nat} {v : Word32} (ho : argN a 0 4 < 2 ^ 24) (hw : argN a 4 1 = 4) (hal : argN a 0 4 % 4 = 0)
    (hr : wordRead s true (argN a 0 4) bad = (some v, u)) : regReadCmd bad s a = fwOk u (leBytes 8 v.toNat) := by
  unfold regReadCmd
  rw [fwArgs_good (by simp only [hw, hal, ho, true_or, decide_true, Bool.and_self]), if_pos hw, hr]

theorem regReadCmd_wide {bad : Nat} {h : RegHit} (ho : argN a 0 4 < 2 ^ 24) (hw : argN a 4 1 = 8) (hal : argN a 0 4 % 8 = 0)
    (hh : holdIdx (argN a 0 4) = none) (hf : regFind (argN a 0 4) = some h) (hwide : h.desc.wide = true) :
    regReadCmd bad s a = fwOk (regRead (setLat s true none none) h bad).2
      (leBytes 8 (regRead (setLat s true none none) h bad).1.toNat) := by
  unfold regReadCmd
  rw [fwArgs_good (by simp only [hw, hal, ho, or_true, decide_true, Bool.and_self]), if_neg (by rw [hw]; decide)]
  simp only [hh, hf, hwide, if_true]

/-- An offset outside the ARM block and TEN.KEY_STAGE is not denied. -/
theorem regWrite_allowed {n : Nat} (h1 : n < 0xA0000 ∨ 0xB0000 ≤ n) (h2 : n < 0x91040 ∨ 0x91060 ≤ n) :
    ¬ ((0xA0000 ≤ n ∧ n < 0xB0000) ∨ (0x91040 ≤ n ∧ n < 0x91060)) := by omega

theorem regWriteCmd_word {env : RegEnv} (hz : argZ a 5 3 = true) (ho : argN a 0 4 < 2 ^ 24)
    (h1 : argN a 0 4 < 0xA0000 ∨ 0xB0000 ≤ argN a 0 4) (h2 : argN a 0 4 < 0x91040 ∨ 0x91060 ≤ argN a 0 4)
    (hw : argN a 4 1 = 4) (hal : argN a 0 4 % 4 = 0) (hz2 : argZ a 12 4 = true)
    (hr : wordWrite s true 0x800 (argN a 0 4) ((BitVec.ofNat 64 (argN a 8 8)).setWidth 32) env = (true, u)) :
    regWriteCmd env s a = fwOk u [] := by
  unfold regWriteCmd
  rw [fwArgs_good (by simp only [hw, hal, ho, hz, hz2, true_or, decide_true, Bool.or_true, Bool.and_self]),
    if_neg (regWrite_allowed h1 h2), if_pos hw, hr]

theorem regWriteCmd_wide {env : RegEnv} {h : RegHit} (hz : argZ a 5 3 = true) (ho : argN a 0 4 < 2 ^ 24)
    (h1 : argN a 0 4 < 0xA0000 ∨ 0xB0000 ≤ argN a 0 4) (h2 : argN a 0 4 < 0x91040 ∨ 0x91060 ≤ argN a 0 4)
    (hw : argN a 4 1 = 8) (hal : argN a 0 4 % 8 = 0) (hf : regFind (argN a 0 4) = some h) (hwide : h.desc.wide = true) :
    regWriteCmd env s a = fwOk (regWrite (setLat s true none none) 0x800 h (BitVec.ofNat 64 (argN a 8 8)) env) [] := by
  unfold regWriteCmd
  rw [fwArgs_good (by simp only [hw, hal, ho, hz, or_true, decide_true, Bool.true_or, Bool.and_self]),
    if_neg (regWrite_allowed h1 h2), if_neg (by rw [hw]; decide)]
  simp only [hf, hwide, if_true]

theorem eventForce_ok (hn : evtUsed (argN a 0 2) = true) : eventForce s a =
    fwOk (fwPut s (rEvtForce (argN a 0 2 / 32)) ((1 : Word64) <<< (argN a 0 2 % 32))) [] := fwArgs_good hn _

/-- The words of the journal popped by one command. -/
theorem journalRead_ok {bads : List (Fin 3)} {r : State × List (BitVec 128)} (hlo : 1 ≤ argN a 0 1) (hhi : argN a 0 1 ≤ 15)
    (hr : r = (List.range (argN a 0 1)).foldl (fun (x : State × List (BitVec 128)) i => if x.1.jrn.pkts.isEmpty then x
      else (jrnPop x.1 (bads.getD i 0).val, x.2 ++ [(jrnPop x.1 (bads.getD i 0).val).jrn.latch])) (s, [])) :
    journalRead bads s a = fwOk r.1 (leBytes 1 r.2.length ++ leBytes 7 0 ++ r.2.flatMap fun w => leBytes 16 w.toNat) := by
  unfold journalRead
  rw [fwArgs_good (decide_eq_true ⟨hlo, hhi⟩), hr]

end

/-- Settles O23: each command answers OK with what its lemma says. -/
theorem powerAndDiagnosticCommandsComplete : Obligations.PowerAndDiagnosticCommandsComplete := by
  unfold Obligations.PowerAndDiagnosticCommandsComplete
  intro s m req
  dsimp only
  exact ⟨fun h hb => next_of_eq (mbxCmd_ok h (setHoldup_ok hb)), fun h hk hr => next_of_eq (mbxCmd_ok h (pwrState_ok hk rfl hr)),
    fun h => next_of_eq (mbxCmd_ok h rfl),
    fun bad h ho => ⟨fun v u hw hal hr => next_of_eq (mbxCmd_ok h (regReadCmd_word ho hw hal hr)),
      fun r hw hal hh hf hwide => next_of_eq (mbxCmd_ok h (regReadCmd_wide ho hw hal hh hf hwide))⟩,
    fun env h hz ho h1 h2 => ⟨fun u hw hal hz2 hr => next_of_eq (mbxCmd_ok h (regWriteCmd_word hz ho h1 h2 hw hal hz2 hr)),
      fun r hw hal hf hwide => next_of_eq (mbxCmd_ok h (regWriteCmd_wide hz ho h1 h2 hw hal hf hwide))⟩,
    fun h hn => next_of_eq (mbxCmd_ok h (eventForce_ok hn)),
    fun bads h hlo hhi => next_of_eq (mbxCmd_ok h (journalRead_ok hlo hhi rfl)), fun h => next_of_eq (mbxCmd_ok h rfl),
    fun h hn => next_of_eq (mbxDo_answers h (decide_eq_true hn) rfl), fun h ho => next_of_eq (badOpcode_outside h ho)⟩

end Sys2Proof.Machine
end


section
/-!
PROOFS. Mailbox commands under a Hold (O24), configuration (O25), integrity, repair and Veneer (O26).
-/
namespace Sys2Proof.Machine
open Sys2Proof

/-! A change under a channel Hold (R438). -/

section
variable {s : State} {m : Fin 4} {c : Fin 16} {change : State → State} {ans : List Byte → List Byte}

theorem holdCmd_asks (hm : (mbx s m).step = 0) (hq : (chan s c).sch.hold = .run) (hd : devHolding s = false) :
    holdCmd s m c change ans = fwWait (fwStep (fwPut (fwRead s (rSchRelErr c.val)).2 (rSchHold c.val) 1) m 1) := by
  unfold holdCmd
  simp only [hm, hq, hd, Bool.false_eq_true, if_false]

theorem holdCmd_changes (hm : (mbx s m).step = 1) (hq : (chan s c).sch.hold = .held) :
    holdCmd s m c change ans = fwWait (fwStep (fwPut (change s) (rSchHold c.val) 2) m 2) := by
  unfold holdCmd
  simp only [hm, hq]

theorem holdCmd_released (hm : (mbx s m).step = 2) (hq : (chan s c).sch.hold = .run)
    (he : (chan (holdData s c).2 c).sch.lastEnd = 1) : holdCmd s m c change ans = fwOk (holdData s c).2 (ans (holdData s c).1) := by
  unfold holdCmd
  simp only [hm, hq, he, if_true]

end

theorem setTiming_args {s : State} {m : Fin 4} {a : List Byte} {c : Fin 16} (hc : c = Fin.ofNat 16 (argN a 0 1))
    (hn : argN a 0 1 < chanCount s) (hz : argZ a 1 3 = true) : setTiming m s a = holdCmd s m c
      (fun s => forEach [rSchTim0 c.val, rSchTim1 c.val, rSchTim2 c.val, rSchTim3 c.val, rSchTim4 c.val, rSchTim5 c.val].zipIdx s
        fun s r => fwPut s r.1 (BitVec.ofNat 64 (argN a (4 + 4 * r.2) 4))) fun d => d := by
  unfold setTiming
  rw [fwArgs_good (by simp only [argChan, hn, hz, decide_true, Bool.and_self]), hc]

theorem clearMarkCmd_args {s : State} {m : Fin 4} {a : List Byte} {c : Fin 16} (hc : c = Fin.ofNat 16 (argN a 0 1))
    (hn : argN a 0 1 < chanCount s) (h1 : argN a 1 1 < 4) (h2 : argN a 2 1 < 2) (h3 : argN a 3 1 < 2) :
    clearMarkCmd m s a = holdCmd s m c (fun s => markClear s c (argN a 1 1 * 2 + argN a 2 1) (argN a 3 1)) fun _ => [] := by
  unfold clearMarkCmd
  rw [fwArgs_good (by simp only [argChan, hn, h1, h2, h3, and_self, decide_true, Bool.and_self]), hc]

/-- Settles O24: both commands are `holdCmd` with their change. -/
theorem channelHoldCommandsComplete : Obligations.ChannelHoldCommandsComplete := by
  unfold Obligations.ChannelHoldCommandsComplete
  intro s m req a c q step regs i n op change ans hi h hn
  have hc : c = Fin.ofNat 16 (argN a 0 1) := rfl
  clear_value c
  dsimp only [a, q, step, regs] at hi hn hc ⊢
  have hcmd : ∃ f, exec i s = .next (mbxCmd s m op n f) ∧ f s (reqArgs req) = holdCmd s m c change ans := by
    rcases hi with ⟨rfl, rfl, rfl, hz, rfl, rfl⟩ | ⟨rfl, rfl, rfl, h1, h2, h3, rfl, rfl⟩
    · exact ⟨setTiming m, rfl, setTiming_args hc hn hz⟩
    · exact ⟨clearMarkCmd m, rfl, clearMarkCmd_args hc hn h1 h2 h3⟩
  obtain ⟨f, hrun, hf⟩ := hcmd
  rw [hrun]
  exact ⟨fun hm hq hd => next_of_eq (mbxCmd_waits h (hf.trans (holdCmd_asks hm hq hd))),
    fun hm hq => next_of_eq (mbxCmd_waits h (hf.trans (holdCmd_changes hm hq))),
    fun hm hq he => next_of_eq (mbxCmd_ok h (hf.trans (holdCmd_released hm hq he)))⟩

/-! Memory configuration (R429). -/

section
variable {s u : State} {m : Fin 4} {a : List Byte}

/-- SET_LAYOUT on a cold boot before Ready, by the steps made and the device Hold. -/
theorem setLayout_cold (hn : argN a 0 1 < 2) (ht : argN a 4 4 < 2 ^ 23) (hz : argZ a 1 3 = true) (hr : isReady s = false)
    (hcold : startCold s = true) :
    ((mbx s m).step = 0 → devState s = 0 → setLayout m s a = fwWait (fwStep (fwPut s rTopHold 1) m 1)) ∧
    ((mbx s m).step = 1 → devState s = 2 → setLayout m s a =
      fwWait (fwStep (fwPut (layoutWrite s (decide (argN a 0 1 = 1)) (argN a 4 4)) rTopHold 2) m 2)) ∧
    ((mbx s m).step = 2 → devState s = 0 → s.devEnd = 1 → setLayout m s a = fwOk (confWrite s) []) := by
  have hgood : (decide (argN a 0 1 < 2 ∧ argN a 4 4 < 2 ^ 23) && argZ a 1 3) = true := by
    simp only [hn, ht, hz, and_self, decide_true, Bool.and_self]
  have hready : ¬ (isReady s = true ∨ (!startCold s) = true) := by simp [hr, hcold]
  unfold setLayout
  rw [fwArgs_good hgood, if_neg hready]
  refine ⟨fun hm hd => ?_, fun hm hd => ?_, fun hm hd he => ?_⟩
  · simp only [hm, hd]
  · simp only [hm, hd]
  · simp only [hm, hd, he, if_true]

theorem setRegion_ok (hr : argN a 0 1 ≤ 62) (h1 : argN a 1 1 ≤ 1) (h2 : argN a 2 1 ≤ 4) (h3 : argN a 3 1 ≤ 3)
    (hz : argZ a 4 4 = true) (hlo : argN a 8 8 % 4096 = 0) (hhi : argN a 16 8 % 4096 = 0) (hlo' : argN a 8 8 < 2 ^ 48)
    (hhi' : argN a 16 8 < 2 ^ 48)
    (hc : CommitsTo s 0x14 (argN a 24 8) (fun s => fwSet (fwSet (fwSet s (rVnrRgnA (argN a 0 1))
      [(63, 63, argN a 1 1), (58, 56, argN a 2 1), (47, 12, argN a 8 8 / 4096)]) (rVnrRgnB (argN a 0 1))
        [(47, 12, argN a 16 8 / 4096)])
      (rCurRgnMode (argN a 0 1 / 16)) [(2 * (argN a 0 1 % 16) + 1, 2 * (argN a 0 1 % 16), argN a 3 1)]) u) :
    setRegion s a = fwOk (confWrite u) [] := by
  unfold setRegion
  rw [fwArgs_good (by simp only [hr, h1, h2, h3, hz, hlo, hhi, hlo', hhi', and_self, decide_true, Bool.and_self])]
  exact fwCommitCmd_ok hc _

theorem setRanks_ok (hr : ∀ i < 20, argN a i 1 ≤ 7) (hz : argZ a 20 4 = true)
    (hc : CommitsTo s 0x1 (argN a 24 8) (fun s =>
      fwSet (fwSet s rAdmRank0 ((List.range 10).map fun i => (3 * i + 2, 3 * i, argN a (0 + i) 1))) rAdmRank1
        ((List.range 10).map fun i => (3 * i + 2, 3 * i, argN a (10 + i) 1))) u) : setRanks s a = fwOk (confWrite u) [] := by
  have hall : ((List.range 20).all fun i => decide (argN a i 1 ≤ 7)) = true :=
    List.all_eq_true.mpr fun i hi => decide_eq_true (hr i (List.mem_range.mp hi))
  unfold setRanks
  rw [fwArgs_good (by rw [hall, hz]; rfl)]
  exact fwCommitCmd_ok hc _

theorem setQos_ok (hp : argN a 0 1 < 8) (hz : argZ a 1 7 = true)
    (hc : CommitsTo s 0x2 (argN a 16 8)
      (fun s => forEach (popChans s) s fun s c => fwPut s (rSchTgtFrp c.val (argN a 0 1)) (BitVec.ofNat 64 (argN a 8 8))) u) :
    setQos s a = fwOk (confWrite u) [] := by
  unfold setQos
  rw [fwArgs_good (by simp only [hp, hz, decide_true, Bool.and_self])]
  exact fwCommitCmd_ok hc _

theorem setChoreo_ok (h0 : argN a 0 2 ≤ 4095) (h2 : argN a 2 1 ≤ 1) (h3 : argN a 3 1 ≤ 2) (hz : argZ a 4 4 = true)
    (hc : CommitsTo s 0x8 (argN a 8 8) (fun s => forEach (popChans s) s fun s c =>
      fwSet (fwSet s (rRefPhase c.val) [(11, 0, argN a 0 2)]) (rRefCfg c.val) [(8, 8, argN a 2 1), (1, 0, argN a 3 1)]) u) :
    setChoreo s a = fwOk (confWrite u) [] := by
  unfold setChoreo
  rw [fwArgs_good (by simp only [h0, h2, h3, hz, and_self, decide_true, Bool.and_self])]
  exact fwCommitCmd_ok hc _

end

/-- Settles O25, a clause per command from the lemma about what it does. -/
theorem configurationCommandsComplete : Obligations.ConfigurationCommandsComplete := by
  unfold Obligations.ConfigurationCommandsComplete
  intro s m req
  dsimp only
  refine ⟨fun h => next_of_eq (mbxCmd_ok h rfl), fun h hn ht hz hr hcold => ?_,
    fun u h hr h1 h2 h3 hz hlo hhi hlo' hhi' hc => next_of_eq (mbxCmd_ok h (setRegion_ok hr h1 h2 h3 hz hlo hhi hlo' hhi' hc)),
    fun h hr => next_of_eq (mbxCmd_ok h (fwArgs_good (decide_eq_true hr) _)),
    fun u h hr hz hc => next_of_eq (mbxCmd_ok h (setRanks_ok hr hz hc)),
    fun u h hp hz hc => next_of_eq (mbxCmd_ok h (setQos_ok hp hz hc)),
    fun h hn hk h1 h28 hsum => next_of_eq (mbxCmd_ok h (fwArgs_good ?_ _)),
    fun u h h0 h2 h3 hz hc => next_of_eq (mbxCmd_ok h (setChoreo_ok h0 h2 h3 hz hc))⟩
  · obtain ⟨asks, writes, ends⟩ := setLayout_cold (m := m) hn ht hz hr hcold
    exact ⟨fun hm hd => next_of_eq (mbxCmd_waits h (asks hm hd)), fun hm hd => next_of_eq (mbxCmd_waits h (writes hm hd)),
      fun hm hd he => next_of_eq (mbxCmd_ok h (ends hm hd he))⟩
  · simp only [argChan, hn, hk, h1, h28, hsum, and_self, decide_true, Bool.and_self]

/-! Integrity and repair (R430, R442). -/

section
variable {s u : State} {a : List Byte} {n : Nat} {c : Fin 16}

theorem setMarkCmd_ok {i : Nat} (hc : c = Fin.ofNat 16 (argN a 0 1)) (hi : i = argN a 1 1 * 2 + argN a 2 1)
    (hn : argN a 0 1 < chanCount s) (h1 : argN a 1 1 < 4) (h2 : argN a 2 1 < 2) (h3 : argN a 3 1 < 10)
    (hu : u = markWrite s c i (if (marksAt s c i).m0.isNone then 0 else 1) (argN a 3 1))
    (hm : marksAt u c i ≠ marksAt s c i) : setMarkCmd s a = fwOk u [] := by
  unfold setMarkCmd
  rw [fwArgs_good (by simp only [argChan, hn, h1, h2, h3, and_self, decide_true, Bool.and_self])]
  simp only [← hc, ← hi, ← hu, if_neg hm]

theorem inlayAdd_ok {i : Nat} {e : InlEnt} (hc : c = Fin.ofNat 16 (argN a 0 1))
    (he : e = { valid := true, active := false, copy := decide (argN a 6 1 = 1), sub := argN a 1 1, rank := argN a 2 1,
                bg := argN a 3 1, ba := argN a 4 1, row := argN a 8 4, spare := argN a 5 1 })
    (hn : argN a 0 1 < chanCount s) (hz : argZ a 7 1 = true)
    (hgood : e.sub < 2 ∧ e.rank < 32 ∧ e.bg < 8 ∧ e.ba < 4 ∧ e.spare < 16 ∧ argN a 6 1 < 2 ∧ e.row < 2 ^ 18)
    (hf : (List.range 4096).find? (fun i => inlFcount ≤ i && !(smGet InlEnt.none (chan s c).code.inl i).valid) = some i)
    (hr : inlReason s c i e = none) :
    inlayAdd s a = fwOk (inlWrite s c i 0x800 (inlVal e)) (leBytes 2 i ++ leBytes 1 0) := by
  unfold inlayAdd
  simp only [← he, ← hc]
  subst he
  rw [fwArgs_good (by rw [hz, decide_eq_true hgood]; simp only [argChan, hn, decide_true, Bool.and_self]), hf]
  simp only [hr]

theorem pprSchedule_ok {e : InlEnt} (hc : c = Fin.ofNat 16 (argN a 0 1))
    (he : e = smGet InlEnt.none (chan s c).code.inl (argN a 2 2)) (hn : argN a 0 1 < chanCount s) (hz : argZ a 1 1 = true)
    (hi : argN a 2 2 < 4096) (hv : e.valid = true) (hl : s.fw.pprs.length < 14335) :
    pprSchedule s a = fwOk (pprRecords (modFw s fun f => { f with pprs := f.pprs ++
      [{ kind := 1, chan := c, sub := e.sub, rank := e.rank, bg := e.bg, ba := e.ba, idx := argN a 2 2, row := e.row
         beat := BitVec.ofNat 64 (beatNs s) }] })) [] := by
  unfold pprSchedule
  rw [fwArgs_good (by simp only [argChan, hn, hz, hi, decide_true, Bool.and_self])]
  simp only [← hc, ← he, hv, Bool.not_true, Bool.false_eq_true, if_false, if_neg (Nat.not_le.mpr hl)]

theorem setScrub_ok {ns : Nat} (hns : ns = argN a 0 4 * 10 ^ 9 / sliceCount s) (hlt : ns < 2 ^ 32)
    (hg : argN a 0 4 = 0 ∨ geomSet s = true)
    (hu : u = forEach (popChans s) s fun s c => if argN a 0 4 = 0 then fwSet s (rScrCfg c.val) [(0, 0, 0)]
      else fwSet (fwSet s (rScrInterval c.val) [(31, 0, ns)]) (rScrCfg c.val) [(0, 0, 1)]) :
    setScrub s a = fwOk u (leBytes 4 (fld u (rScrInterval 0) 31 0)) := by
  unfold setScrub
  simp only [← hns, ← hu]
  refine fwArgs_good ?_ _
  rw [decide_eq_true hlt, Bool.true_and, Bool.or_eq_true, decide_eq_true_eq]
  exact hg

section
variable (hn : argN a 0 1 < chanCount s) (hz : argZ a 2 6 = true) (hlo : argN a 8 8 % 64 = 0) (hhi : argN a 16 8 % 64 = 0)
  (hlo' : argN a 8 8 < 2 ^ 48) (hhi' : argN a 16 8 < 2 ^ 48)
include hn hz hlo hhi hlo' hhi'

theorem diagPass_reads (hop : argN a 1 1 = 0xFF) : diagPass s a = fwOk (fwRead s (rScrDiagMiss (argN a 0 1))).2
    (leBytes 4 (fwGetN s (rScrDiagCmd (argN a 0 1))) ++ leBytes 4 (fwRead s (rScrDiagMiss (argN a 0 1))).1.toNat) := by
  unfold diagPass
  rw [fwArgs_good (by simp only [argChan, hn, hz, hlo, hhi, hlo', hhi', hop, or_true, and_self, decide_true, Bool.and_self]),
    if_pos hop]

theorem diagPass_starts (hc : c = Fin.ofNat 16 (argN a 0 1)) (hop : argN a 1 1 < 4) (hfree : (chan s c).code.diag.isSome = false)
    (hu : u = fwPut (fwSet (fwSet s (rScrDiagStart (argN a 0 1)) [(47, 6, argN a 8 8 / 64)]) (rScrDiagEnd (argN a 0 1))
      [(47, 6, argN a 16 8 / 64)]) (rScrDiagCmd (argN a 0 1)) (BitVec.ofNat 64 (4 * argN a 1 1 + 1)))
    (hrun : (chan u c).code.diag.isSome = true ∨ (chan u c).code.diagRes ≠ 2) : diagPass s a = fwOk u [] := by
  unfold diagPass
  rw [fwArgs_good (by simp only [argChan, hn, hz, hlo, hhi, hlo', hhi', hop, true_or, and_self, decide_true, Bool.and_self]),
    if_neg (by omega)]
  simp only [← hc, hfree, Bool.false_eq_true, if_false, ← hu]
  exact if_pos (by rw [Bool.or_eq_true, decide_eq_true_eq]; exact hrun)

end

theorem rangeOp_ok (hop : 1 ≤ argN a 0 1) (hop' : argN a 0 1 ≤ 4) (hz : argZ a 1 7 = true) (hlo : argN a 8 8 % 64 = 0)
    (hhi : argN a 16 8 % 64 = 0) (hlo' : argN a 8 8 < 2 ^ 48) (hhi' : argN a 16 8 < 2 ^ 48) (hfree : s.vnr.rop.isSome = false)
    (hu : u = fwPut (fwSet (fwSet s rVnrRopStart [(47, 6, argN a 8 8 / 64)]) rVnrRopEnd [(47, 6, argN a 16 8 / 64)]) rVnrRopCmd
      (BitVec.ofNat 64 (2 ^ 31 + argN a 0 1))) (hr : u.vnr.ropRes ≠ 2) : rangeOp s a = fwOk u [] := by
  unfold rangeOp
  rw [fwArgs_good (by simp only [hop, hop', hz, hlo, hhi, hlo', hhi', and_self, decide_true, Bool.and_self]),
    if_neg (Bool.eq_false_iff.mp hfree)]
  simp only [← hu, if_neg hr]

theorem setDirtyBudget_ok (hb : argN a 0 1 ≤ 128) (hp : 1 ≤ argN a 1 1) (hp' : argN a 1 1 ≤ 100) (hz : argZ a 2 6 = true)
    (hw : budgetOk s (argN a 0 1) = true)
    (hc : CommitsTo s 0x4 (argN a 8 8) (fun s => fwSet s rVnrDirty [(23, 16, argN a 0 1), (6, 0, argN a 1 1)]) u) :
    setDirtyBudget s a = fwOk (confWrite (modFw u fun f => { f with profile := 4 })) [] := by
  unfold setDirtyBudget
  rw [fwArgs_good (by simp only [hb, hp, hp', hz, and_self, decide_true, Bool.and_self]), if_pos hw]
  exact fwCommitCmd_ok hc _

end

/-- Settles O26, a clause per command from the lemma about what it does. -/
theorem integrityCommandsComplete : Obligations.IntegrityCommandsComplete := by
  unfold Obligations.IntegrityCommandsComplete
  intro s m req a ok n c lo hi
  have hc : c = Fin.ofNat 16 (argN a 0 1) := rfl
  clear_value c
  dsimp only [a, ok, n, lo, hi] at hc ⊢
  exact ⟨fun h hn => next_of_eq (mbxCmd_ok h (fwArgs_good (decide_eq_true hn) _)),
    fun h hn h1 h2 h3 hm => next_of_eq (mbxCmd_ok h (setMarkCmd_ok hc rfl hn h1 h2 h3 rfl hm)),
    fun i h hn hz h1 h2 h3 h4 h5 h6 h7 hf hr =>
      next_of_eq (mbxCmd_ok h (inlayAdd_ok hc rfl hn hz ⟨h1, h2, h3, h4, h5, h6, h7⟩ hf hr)),
    fun h hn hz hi hv hl => next_of_eq (mbxCmd_ok h (pprSchedule_ok hc rfl hn hz hi hv hl)),
    fun h hlt hg => next_of_eq (mbxCmd_ok h (setScrub_ok rfl hlt hg rfl)),
    fun h hn hz hlo hhi hlo' hhi' => ⟨fun hop => next_of_eq (mbxCmd_ok h (diagPass_reads hn hz hlo hhi hlo' hhi' hop)),
      fun hop hfree hrun => next_of_eq (mbxCmd_ok h (diagPass_starts hn hz hlo hhi hlo' hhi' hc hop hfree rfl hrun))⟩,
    fun h hop hop' hz hlo hhi hlo' hhi' hfree hr =>
      next_of_eq (mbxCmd_ok h (rangeOp_ok hop hop' hz hlo hhi hlo' hhi' hfree rfl hr)),
    fun h hn => next_of_eq (mbxCmd_ok h (fwArgs_good (decide_eq_true hn) _)), fun h => next_of_eq (mbxCmd_ok h rfl),
    fun u h hb hp hp' hz hw hc => next_of_eq (mbxCmd_ok h (setDirtyBudget_ok hb hp hp' hz hw hc))⟩

end Sys2Proof.Machine
end


section
/-!
PROOFS. Mailbox cure and mirroring commands (O27), tiering, lending and jig commands (O28).
-/
namespace Sys2Proof.Machine
open Sys2Proof

/-! Cure and mirroring (R311, R329, R432, R440). -/

section
variable {s u : State} {m : Fin 4} {a : List Byte}

theorem setTwin_ok (h1 : 1 ≤ argN a 4 2) (h2 : 1 ≤ argN a 8 4) (h3 : argN a 8 4 ≤ 60000) (hz : argZ a 6 2 = true)
    (hm : s.cure.mstate = .detached)
    (hc : CommitsTo s 0x10 0 (fun s => fwSet s rCurTwin [(31, 16, argN a 0 2), (15, 0, argN a 4 2)]) u) :
    setTwin s a = fwOk (confWrite (modFw u fun f => { f with pred := BitVec.ofNat 16 (argN a 2 2), twinMs := argN a 8 4 })) [] := by
  unfold setTwin
  rw [fwArgs_good (by simp only [h1, h2, h3, hz, and_self, decide_true, Bool.and_self]), if_neg (Classical.not_not.mpr hm)]
  exact fwCommitCmd_ok hc _

theorem attachCmd_ok (ho : allOutOpen s = true) (hm : s.cure.mstate = .detached ∨ s.cure.mstate = .degraded)
    (ha : (curCtl s 1).cure.mstate = .attaching) : attachCmd s a = fwOk (curCtl s 1) [] := by
  unfold attachCmd
  rw [if_neg (by rcases hm with hm | hm <;> rw [hm] <;> decide), if_neg (by rcases hm with hm | hm <;> simp [ho, hm])]
  exact if_pos ha

theorem fenceMbx_ok (hn : argN a 0 1 < chanCount s) (ho : argN a 1 1 ≤ 2)
    (hr : (fencePut s (argN a 0 1) (argN a 1 1)).cure.cmdRes ≠ 2) :
    fenceMbx s a = fwOk (fencePut s (argN a 0 1) (argN a 1 1)) [] := by
  unfold fenceMbx
  rw [fwArgs_good (by simp only [argChan, hn, ho, decide_true, Bool.and_self])]
  exact if_neg hr

theorem setCure_ok (h0 : 250 ≤ argN a 0 2) (h2 : argN a 2 1 ≤ 100) (h3 : 1 ≤ argN a 3 1) (h3' : argN a 3 1 ≤ 3)
    (h4 : 1 ≤ argN a 4 1) (h4' : argN a 4 1 ≤ 100) (hz : argZ a 5 3 = true)
    (hc : CommitsTo s 0x10 (argN a 8 8) (fun s =>
      fwSet (fwSet s rCurCfg [(31, 16, argN a 0 2), (14, 8, argN a 2 1), (1, 0, argN a 3 1)]) rCurRecastCfg [(6, 0, argN a 4 1)]) u) :
    setCure s a = fwOk (confWrite u) [] := by
  unfold setCure
  rw [fwArgs_good (by simp only [h0, h2, h3, h3', h4, h4', hz, and_self, decide_true, Bool.and_self])]
  exact fwCommitCmd_ok hc _

theorem mapRepair_blank (hn : argN a 0 1 = 0) (hz : argZ a 1 7 = true) (hx : argN a 8 8 < lmsTop s) (hl : a.length = 80) :
    mapRepair m s a = fwOk (blankRepair s (argN a 8 8) (BitVec.ofNat 512 (argN a 16 64))) [] := by
  unfold mapRepair
  rw [fwArgs_good (by simp only [hn, hl, hz, hx, and_self, true_or, decide_true, Bool.and_self]), if_pos hn]

theorem mapRepair_place (hn : argN a 0 1 = 1) (hz : argZ a 1 7 = true) (hx : argN a 8 8 < lmsTop s) (hl : a.length = 16) :
    mapRepair m s a = placeRepair m s (argN a 8 8) := by
  unfold mapRepair
  rw [fwArgs_good (by simp only [hn, hl, hz, hx, and_self, or_true, decide_true, Bool.and_self]),
    if_neg (by rw [hn]; exact Nat.one_ne_zero)]

section
variable {x : Nat} {c : Fin 16} (hc : c = chanOf s (compBase s 2 + panelOf x / 8 * 64))
include hc

theorem placeRepair_fences (hm : (mbx s m).step = 0) (hs : s.cure.mstate = .mirrored)
    (hr : (fencePut s c.val 0).cure.cmdRes ≠ 2) : placeRepair m s x = fwWait (fwStep (fencePut s c.val 0) m 1) := by
  unfold placeRepair
  simp only [← hc]
  rw [if_pos hm, if_neg (Classical.not_not.mpr hs), if_neg hr]

theorem placeRepair_unfences (hm : (mbx s m).step ≠ 0) (hs : s.cure.sweep[c] = false)
    (hr : (fencePut s c.val 1).cure.cmdRes ≠ 2) : placeRepair m s x = fwOk (fencePut s c.val 1) [] := by
  unfold placeRepair
  simp only [← hc]
  rw [if_neg hm, if_neg (Bool.eq_false_iff.mp hs), if_neg hr]

end

end

/-- Settles O27, a clause per command from the lemma about what it does. -/
theorem cureCommandsComplete : Obligations.CureCommandsComplete := by
  unfold Obligations.CureCommandsComplete
  intro s m req
  dsimp only
  exact ⟨fun u h h1 h2 h3 hz hm hc => next_of_eq (mbxCmd_ok h (setTwin_ok h1 h2 h3 hz hm hc)),
    fun h ho hm ha => next_of_eq (mbxCmd_ok h (attachCmd_ok ho hm ha)), fun h hm => next_of_eq (mbxCmd_ok h (if_pos hm)),
    fun h => next_of_eq (mbxCmd_ok h rfl), fun h hn ho hr => next_of_eq (mbxCmd_ok h (fenceMbx_ok hn ho hr)),
    fun u h h0 h2 h3 h3' h4 h4' hz hc => next_of_eq (mbxCmd_ok h (setCure_ok h0 h2 h3 h3' h4 h4' hz hc)),
    fun h hx => next_of_eq (mbxCmd_ok h (fwArgs_good (decide_eq_true hx) _)),
    fun h hn hz hx hl => next_of_eq (mbxDo_answers h rfl (mapRepair_blank hn hz hx hl)),
    fun h hn hz hx hl =>
      ⟨fun hm hs hr => next_of_eq (mbxDo_waits h rfl ((mapRepair_place hn hz hx hl).trans (placeRepair_fences rfl hm hs hr))),
        fun hm hs hr => next_of_eq (mbxDo_answers h rfl ((mapRepair_place hn hz hx hl).trans (placeRepair_unfences rfl hm hs hr)))⟩,
    fun hr hs => next_of_eq (if_pos ⟨hr, hs⟩)⟩

/-! Tiering and lending (R349, R352, R433). -/

section
variable {s u : State} {a : List Byte} {g : Fin 32}

theorem setTier_ok (h0 : argN a 0 1 < 4) (h1 : 1 ≤ argN a 1 1) (h1' : argN a 1 1 ≤ 200) (h2 : 1 ≤ argN a 2 2)
    (h8 : 1 ≤ argN a 8 2) (h10 : argN a 10 1 ≤ 15) (h11 : argN a 11 1 ≤ 15) (h12 : argN a 12 4 < 2 ^ 28)
    (hc : CommitsTo s 0x20 (argN a 16 8) (fun s =>
      fwSet (fwSet (fwSet (fwSet (fwSet s rTirCtl [(31, 31, argN a 0 1 % 2), (30, 30, argN a 0 1 / 2), (7, 0, argN a 1 1)])
        rTirNlb [(15, 0, argN a 2 2)]) rTirThresh [(31, 16, argN a 4 2), (15, 0, argN a 6 2)])
        rTirHeatCfg [(31, 16, argN a 8 2), (7, 4, argN a 11 1), (3, 0, argN a 10 1)]) rTirFrameFloor [(27, 0, argN a 12 4)]) u) :
    setTier s a = fwOk (confWrite u) [] := by
  unfold setTier
  rw [fwArgs_good (by simp only [h0, h1, h1', h2, h8, h10, h11, h12, and_self, decide_true])]
  exact fwCommitCmd_ok hc _

theorem setNeighbour_ok (hj : argN a 0 1 < 32) (he : argN a 1 1 < 2) (hb : argN a 4 2 < 8192) (hz : argZ a 6 2 = true)
    (ho : argN a 1 1 = 1 → ∀ k < 8, (connOf s (8 * argN a 4 2 + k)).mode = .opened)
    (hc : CommitsTo s 0x20 (argN a 8 8)
      (fun s => fwSet s (rTirNbr (argN a 0 1)) [(63, 63, argN a 1 1), (47, 32, argN a 2 2), (31, 19, argN a 4 2)]) u) :
    setNeighbour s a = fwOk (confWrite u) [] := by
  have hopen : ¬ (argN a 1 1 = 1 ∧
      (!(List.range 8).all fun k => decide ((connOf s (8 * argN a 4 2 + k)).mode = .opened)) = true) := by
    rintro ⟨h1, h2⟩
    rw [List.all_eq_true.mpr fun k hk => decide_eq_true (ho h1 k (List.mem_range.mp hk))] at h2
    exact Bool.false_ne_true h2
  unfold setNeighbour
  rw [fwArgs_good (by simp only [hj, he, hb, hz, and_self, decide_true, Bool.and_self]), if_neg hopen]
  exact fwCommitCmd_ok hc _

section
variable (hg : g = Fin.ofNat 32 (argN a 0 1)) (hn : argN a 0 1 < 32) (h4 : argN a 4 4 < 2 ^ 28) (h8 : argN a 8 4 < 2 ^ 28)
include hg hn h4 h8

theorem setGrant_disables (hop : argN a 1 1 = 0)
    (hu : u = fwPut s (rTirGrantA g.val) (putField (setting s (rTirGrantA g.val)) 63 63 0)) (hoff : grantOn u g = false) :
    setGrant s a = fwOk (confWrite u) (leBytes 4 u.tier.grantFree[g]) := by
  unfold setGrant
  rw [fwArgs_good (by rw [hop]; simp only [hn, h4, h8, Nat.zero_le, and_self, decide_true])]
  simp only [hop, ← hg, ← hu, hoff, Bool.false_eq_true, if_false]

theorem setGrant_enables (hop : argN a 1 1 = 1) (hu : u = fwPut (fwSet s (rTirGrantB g.val) [(27, 0, argN a 8 4)])
      (rTirGrantA g.val) (packFields [(63, 1), (32, argN a 2 2), (0, argN a 4 4)])) (hon : grantOn u g = true) :
    setGrant s a = fwOk (confWrite u) (leBytes 4 u.tier.grantFree[g]) := by
  unfold setGrant
  rw [fwArgs_good (by rw [hop]; simp only [hn, h4, h8, Nat.reduceLeDiff, and_self, decide_true])]
  simp only [hop, ← hg, ← hu, hon, if_true]

theorem setGrant_holds (hold : Bool) (hop : argN a 1 1 = if hold then 2 else 3) :
    setGrant s a = fwOk (confWrite (grantHoldPut s g hold)) (leBytes 4 (grantHoldPut s g hold).tier.grantFree[g]) := by
  unfold setGrant
  cases hold <;>
  · replace hop : argN a 1 1 = _ := hop
    rw [fwArgs_good (by rw [hop]; simp only [hn, h4, h8]; decide)]
    simp only [hop, ← hg]
    rfl

end

theorem moveMbx_ok (hd : argN a 0 1 ≤ 1) (hn : argN a 1 1 < 32 ∨ argN a 1 1 = 255) (hz : argZ a 2 2 = true)
    (hu : u = fwPut s rTirMoveCmd (packFields [(63, 1), (59, argN a 0 1), (48, if argN a 1 1 = 255 then 0 else argN a 1 1),
      (47, flag (decide (argN a 1 1 = 255))), (0, argN a 4 4)])) (hr : u.tier.moveRes ≠ 2) : moveMbx s a = fwOk u [] := by
  unfold moveMbx
  rw [fwArgs_good (by simp only [hd, hn, hz, and_self, decide_true, Bool.and_self])]
  simp only [← hu, if_neg hr]

theorem jigStart_ok {far : List (Nat × LineData)} {e : Fin 4} (he : e = Fin.ofNat 4 (argN a 0 1)) (hn : argN a 0 1 < 4)
    (hx : argN a 8 8 % 64 = 0) (hx' : argN a 8 8 < 2 ^ 48) (hz : argZ a 1 7 = true) (hb : s.tier.jigs[e].busy = false) :
    jigStart far s a = fwOk (regWriteAt (fwPut s (rTirJigAddr e.val) (BitVec.ofNat 64 (argN a 8 8))) 0x800
      (rTirJigCmd e.val).off (BitVec.ofNat 64 (2 ^ 31)) { noEnv with far := far }) [] := by
  unfold jigStart
  rw [fwArgs_good (by simp only [hn, hx, hx', hz, and_self, decide_true, Bool.and_self])]
  simp only [← he, hb, Bool.false_eq_true, if_false]

theorem reclaimMbx_ok {twin : List (Nat × LineData)} {frames : List Nat} (hj : argN a 0 1 < 32)
    (hr : s.tier.reclaim.isSome = false) (hu : u = regWriteAt s 0x800 rTirReclaimCmd.off (BitVec.ofNat 64 (2 ^ 31 + argN a 0 1))
      { noEnv with far := twin, frames := frames }) (hres : u.tier.reclRes ≠ 2) : reclaimMbx twin frames s a = fwOk u [] := by
  unfold reclaimMbx
  rw [fwArgs_good (decide_eq_true hj), if_neg (Bool.eq_false_iff.mp hr)]
  simp only [← hu, if_neg hres]

/-! The audits (R443). -/

theorem heldList_ok (hg : g = Fin.ofNat 32 (argN a 0 1)) (hn : argN a 0 1 < 32) (hz : argZ a 1 3 = true) :
    heldList s a = fwOk s (leBytes 4 (argN a 4 4) ++ leBytes 4 0 ++
      leBytes 240 ((heldFrames s g).foldl (fun (x : BitVec 1920) f =>
        if 1920 * argN a 4 4 ≤ f ∧ f < 1920 * argN a 4 4 + 1920 then x ||| ((1 : BitVec 1920) <<< (f - 1920 * argN a 4 4)) else x)
        0).toNat) := by
  unfold heldList
  rw [fwArgs_good (by simp only [hn, hz, decide_true, Bool.and_self]), ← hg]

/-- A chunk of a grant's audit: the first holds the grant, the last rebuilds its chain. -/
theorem grantAudit_chunk {first : Bool} {v : State} (hg : g = Fin.ofNat 32 (argN a 0 1)) (hn : argN a 0 1 < 32)
    (hl : argN a 1 1 < 2) (hz : argZ a 2 2 = true) (hon : grantOn s g = true)
    (hf : first = (!rbit s (rTirGrantA g.val) 61 || decide (argN a 4 4 = grantFirst s g / 1920)))
    (hu : u = if first then
        modFw (grantHoldPut s g true) fun f => { f with
          held := f.held.filter fun x => decide (x < grantFirst s g) || decide (grantFirst s g + grantCount s g ≤ x) }
      else s)
    (hv : v = modFw u fun f => { f with held := f.held ++ chunkHeld u g (argN a 4 4) (argN a 8 240) }) :
    grantAudit s a = if argN a 1 1 = 1 then fwOk (confWrite (chainRebuild v g)) (leBytes 4 (chainRebuild v g).tier.grantFree[g])
      else fwOk (if first then confWrite v else v) [] := by
  unfold grantAudit
  rw [fwArgs_good (by simp only [hn, hl, hz, and_self, decide_true, Bool.and_self])]
  simp only [← hg, hon, Bool.not_true, Bool.false_eq_true, if_false, ← hf, ← hu, ← hv]

end

/-- Settles O28, a clause per command from the lemma about what it does. -/
theorem tierCommandsComplete : Obligations.TierCommandsComplete := by
  unfold Obligations.TierCommandsComplete
  intro s m req a ok n g
  have hg : g = Fin.ofNat 32 (argN a 0 1) := rfl
  dsimp only [a, ok, n] at hg ⊢
  refine ⟨fun u h h0 h1 h1' h2 h8 h10 h11 h12 hc => next_of_eq (mbxCmd_ok h (setTier_ok h0 h1 h1' h2 h8 h10 h11 h12 hc)),
    fun u h hj he hb hz ho hc => next_of_eq (mbxCmd_ok h (setNeighbour_ok hj he hb hz ho hc)),
    fun h hn h4 h8 => ⟨fun hop hoff => next_of_eq (mbxCmd_ok h (setGrant_disables hg hn h4 h8 hop rfl hoff)),
      fun hop hon => next_of_eq (mbxCmd_ok h (setGrant_enables hg hn h4 h8 hop rfl hon)),
      fun hold hop => next_of_eq (mbxCmd_ok h (setGrant_holds hg hn h4 h8 hold hop))⟩,
    fun h hd hn hz hr => next_of_eq (mbxCmd_ok h (moveMbx_ok hd hn hz rfl hr)),
    fun far h hn hx hx' hz hb => next_of_eq (mbxCmd_ok h (jigStart_ok rfl hn hx hx' hz hb)),
    fun h hn => next_of_eq (mbxCmd_ok h (fwArgs_good (decide_eq_true hn) _)),
    fun twin frames h hj hr hres => next_of_eq (mbxCmd_ok h (reclaimMbx_ok hj hr rfl hres)),
    fun h => next_of_eq (mbxCmd_ok h rfl), fun h hn hz => next_of_eq (mbxCmd_ok h (heldList_ok hg hn hz)),
    fun h hn hl hz hon => ?_⟩
  have key := grantAudit_chunk hg hn hl hz hon rfl rfl rfl
  exact ⟨fun h0 => next_of_eq (mbxCmd_ok h (key.trans (if_neg (by rw [h0]; exact Nat.zero_ne_one)))),
    fun h1 => next_of_eq (mbxCmd_ok h (key.trans (if_pos h1)))⟩

end Sys2Proof.Machine
end


section
/-!
PROOFS. Mailbox connection commands (O29), region key, ring and segment commands (O30).
-/
namespace Sys2Proof.Machine
open Sys2Proof

/-! A connection command of a mailbox (R434). -/

section
variable {s u : State} {m : Fin 4} {op : Nat} {stage : State → State} {why : State → Nat} {data : State → List Byte}

/-- What follows the write of TEN.CONN_CMD: the answer at its result, or a wait while the connection closes. -/
theorem connMbx_starts (hm : (mbx s m).step = 0) (hc : s.ten.closing = [])
    (hu : u = fwPut (stage s) rTenConnCmd (BitVec.ofNat 64 (2 ^ 31 + op))) :
    (u.ten.closing = [] → u.ten.connRes = 1 → connMbx m s op stage why data = fwOk u (data u)) ∧
    (u.ten.closing ≠ [] → connMbx m s op stage why data = fwWait (fwStep u m 1)) := by
  have hstart : connMbx m s op stage why data =
      if u.ten.closing.isEmpty then
        if u.ten.connRes = 0 then fwWait u else if u.ten.connRes = 1 then fwOk u (data u) else fwNo u (why (stage s))
      else fwWait (fwStep u m 1) := by
    unfold connMbx
    rw [if_neg (Classical.not_not.mpr hm), hc, if_neg (by decide)]
    simp only [← hu]
  refine ⟨fun hend hr => ?_, fun hend => ?_⟩
  · rw [hstart, hend, if_pos List.isEmpty_nil, hr, if_neg (by decide), if_pos rfl]
  · rw [hstart, if_neg (by rw [List.isEmpty_iff]; exact hend)]

theorem connMbx_ends (hm : (mbx s m).step ≠ 0) (hr : s.ten.connRes = 1) :
    connMbx m s op stage why data = fwOk s (data s) := by
  unfold connMbx
  rw [if_pos hm]
  dsimp only
  rw [hr, if_neg (by decide), if_pos rfl]

end

theorem connOpenMbx_args {s : State} {m : Fin 4} {a : List Byte} (h6 : argN a 6 1 ≤ 2) (h7 : argN a 7 1 ≤ 3)
    (h8 : argN a 8 1 ≤ 3) (h10 : argN a 10 1 ≤ 63) (h32 : argN a 32 8 < 2 ^ 57) (h40 : argN a 40 8 < 2 ^ 57) :
    connOpenMbx m s a = connMbx m s 1 (fun s => openStage s a) openWhy fun _ => [] :=
  fwArgs_good (decide_eq_true ⟨h6, h7, h8, h10, h32, h40⟩) _

/-- Settles O29: every command is `connMbx` with what it stages and answers. -/
theorem connectionMailboxCommandsComplete : Obligations.ConnectionMailboxCommandsComplete := by
  unfold Obligations.ConnectionMailboxCommandsComplete
  intro s m req
  dsimp only
  intro i mop n op stage data hi h
  have hcmd : ∃ f why, exec i s = .next (mbxCmd s m mop n f) ∧ f s (reqArgs req) = connMbx m s op stage why data := by
    rcases hi with ⟨rfl, rfl, rfl, rfl, rfl, rfl, h6, h7, h8, h10, h32, h40⟩ | ⟨rfl, rfl, rfl, rfl, rfl, rfl⟩ |
      ⟨rfl, rfl, rfl, rfl, rfl, rfl, hz⟩ | ⟨rfl, rfl, rfl, rfl, rfl, rfl⟩ | ⟨rfl, rfl, rfl, rfl, rfl, rfl⟩ |
      ⟨rfl, rfl, rfl, rfl, rfl, rfl⟩
    · exact ⟨connOpenMbx m, openWhy, rfl, connOpenMbx_args h6 h7 h8 h10 h32 h40⟩
    · exact ⟨connMbx0 2 (fun _ => []) m, fun _ => 8, rfl, rfl⟩
    · exact ⟨keyInstallMbx m, fun _ => 8, rfl, fwArgs_good hz _⟩
    · exact ⟨connMbx0 4 (fun _ => []) m, fun _ => 8, rfl, rfl⟩
    · exact ⟨connMbx0 5 (fun _ => []) m, fun _ => 8, rfl, rfl⟩
    · exact ⟨connMbx0 7 (fun s => leBytes 8 (fwGetN s rTenConnStatus)) m, fun _ => 8, rfl, rfl⟩
  obtain ⟨f, why, hrun, hf⟩ := hcmd
  rw [hrun]
  refine ⟨fun hm hc => ?_, fun hm hr => next_of_eq (mbxCmd_ok h (hf.trans (connMbx_ends hm hr)))⟩
  obtain ⟨ends, waits⟩ := connMbx_starts (why := why) (data := data) hm hc rfl
  exact ⟨fun hend hr => next_of_eq (mbxCmd_ok h (hf.trans (ends hend hr))),
    fun hend => next_of_eq (mbxCmd_waits h (hf.trans (waits hend)))⟩

/-! Region keys, rings and segments (R434). -/

section
variable {s u : State} {m : Fin 4} {a : List Byte}

theorem rkeyCreateMbx_ok (h0 : argN a 0 2 < 2 ^ 15) (h4 : argN a 4 1 < 16) (h5 : argN a 5 1 < 32) (hlo : argN a 8 8 % 64 = 0)
    (hhi : argN a 16 8 % 64 = 0) (hlo' : argN a 8 8 < 2 ^ 48) (hhi' : argN a 16 8 < 2 ^ 48) (hz : argZ a 6 2 = true)
    (hu : u = fwPut (fwPut (fwPut (fwPut (fwPut s rTenRkeySel (BitVec.ofNat 64 (argN a 0 2))) rTenRkeyBase
      (BitVec.ofNat 64 (argN a 8 8))) rTenRkeySize (BitVec.ofNat 64 (argN a 16 8))) rTenRkeyAttr
      (packFields [(16, argN a 2 2), (8, argN a 5 1), (0, argN a 4 1)])) rTenRkeyCmd (BitVec.ofNat 64 (2 ^ 31 + 1)))
    (hr : u.ten.rkeyRes = 1) : rkeyCreateMbx s a = fwOk u (leBytes 4 (fwGetN u rTenRkeyVal)) := by
  unfold rkeyCreateMbx
  rw [fwArgs_good (by simp only [h0, h4, h5, hlo, hhi, hlo', hhi', hz, and_self, decide_true, Bool.and_self])]
  simp only [← hu, if_pos hr]

theorem rkeyRevokeMbx_starts {late : Bool} (h0 : argN a 0 2 < 2 ^ 15) (hm : (mbx s m).step = 0)
    (hu : u = fwPut (fwPut s rTenRkeySel (BitVec.ofNat 64 (argN a 0 2))) rTenRkeyCmd (BitVec.ofNat 64 (2 ^ 31 + 2)))
    (hr : u.ten.rkeyRes = 1) : rkeyRevokeMbx m late s a = fwWait (fwStep u m 1) := by
  unfold rkeyRevokeMbx
  rw [fwArgs_good (decide_eq_true h0), if_pos hm]
  simp only [← hu, if_pos hr]

theorem rkeyRevokeMbx_ends {late : Bool} (h0 : argN a 0 2 < 2 ^ 15) (hm : (mbx s m).step ≠ 0)
    (hi : ((rkeyRead s (argN a 0 2)).any fun k => decide (k.mode = .invalid)) = true) : rkeyRevokeMbx m late s a = fwOk s [] := by
  unfold rkeyRevokeMbx
  rw [fwArgs_good (decide_eq_true h0), if_neg hm, if_pos hi]

theorem ringSet_ok (hr : argN a 0 1 < 32) (h1 : argN a 1 1 < 2) (h2 : 4 ≤ argN a 2 1) (h2' : argN a 2 1 ≤ 16)
    (h4 : argN a 4 2 < 4096) (hlo : argN a 8 8 % 64 = 0) (hhi : argN a 16 8 % 64 = 0) (hlo' : argN a 8 8 < 2 ^ 48)
    (hhi' : argN a 16 8 < 2 ^ 48) (hz : argZ a 3 1 = true) (hz' : argZ a 6 2 = true) :
    ringSet s a = fwOk (fwPut (fwPut (fwPut s (rTenRingA (argN a 0 1)) (putField (setting s (rTenRingA (argN a 0 1))) 63 63 0))
      (rTenRingB (argN a 0 1)) (BitVec.ofNat 64 (argN a 16 8))) (rTenRingA (argN a 0 1))
      (packFields [(63, argN a 1 1), (48, argN a 4 2), (6, argN a 8 8 / 64), (0, argN a 2 1)])) [] :=
  fwArgs_good (by simp only [hr, h1, h2, h2', h4, hlo, hhi, hlo', hhi', hz, hz', and_self, decide_true, Bool.and_self]) _

theorem segSet_ok (hn : argN a 0 1 < 4) (h1 : argN a 1 1 < 2) (hz : argZ a 2 2 = true) :
    segSet s a = fwOk (fwPut (fwPut (fwPut (fwPut s (rTenSegIp4 (argN a 0 1)) (BitVec.ofNat 64 (argN a 4 4)))
      (rTenSegIp6l (argN a 0 1)) (BitVec.ofNat 64 (argN a 8 8))) (rTenSegIp6h (argN a 0 1)) (BitVec.ofNat 64 (argN a 16 8)))
      (rTenSegCtl (argN a 0 1)) (BitVec.ofNat 64 (argN a 1 1))) [] :=
  fwArgs_good (by simp only [hn, h1, hz, and_self, decide_true, Bool.and_self]) _

end

/-- Settles O30, a clause per command from the lemma about what it does. -/
theorem tenonTableCommandsComplete : Obligations.TenonTableCommandsComplete := by
  unfold Obligations.TenonTableCommandsComplete
  intro s m req
  dsimp only
  exact ⟨fun h h0 h4 h5 hlo hhi hlo' hhi' hz hr => next_of_eq (mbxCmd_ok h (rkeyCreateMbx_ok h0 h4 h5 hlo hhi hlo' hhi' hz rfl hr)),
    fun h h0 => ⟨fun hm late hr => next_of_eq (mbxCmd_waits h (rkeyRevokeMbx_starts h0 hm rfl hr)),
      fun hm late hi => next_of_eq (mbxCmd_ok h (rkeyRevokeMbx_ends h0 hm hi))⟩,
    fun h hr h1 h2 h2' h4 hlo hhi hlo' hhi' hz hz' =>
      next_of_eq (mbxCmd_ok h (ringSet_ok hr h1 h2 h2' h4 hlo hhi hlo' hhi' hz hz')),
    fun h hn h1 hz => next_of_eq (mbxCmd_ok h (segSet_ok hn h1 hz))⟩

end Sys2Proof.Machine
end


section
/-!
PROOFS. Register accesses, commits, snapshots and the Beat (O31).
-/
namespace Sys2Proof.Machine
open Sys2Proof

/-! Register accesses and commits (R449, R450, R457 to R460). -/

section
variable {s : State}

theorem regWriteAt_hit {off : Nat} {h : RegHit} (hf : regFind off = some h) (mid : BitVec 12) (v : Word64) (env : RegEnv) :
    regWriteAt s mid off v env = regWrite s mid h (if h.high then (v <<< 32) ||| (regValue s h &&& 0xFFFF_FFFF) else v) env := by
  unfold regWriteAt
  simp only [hf]
  cases h.high <;> rfl

theorem rcRead_hit {off : Nat} {h : RegHit} (hf : regFind off = some h) : rcRead s off = (regRead s h 0).2 := by
  unfold rcRead
  rw [hf]

theorem regPort_write (hr : s.pwr.rst = none) (off : Nat) (v : Word32) (env : RegEnv) : regPort s true off v env =
    portRsp (wordWrite s false 0xFFF off v env).2 ⟨0, !(wordWrite s false 0xFFF off v env).1⟩ := by
  unfold regPort
  rw [hr]
  rfl

theorem regPort_read (hr : s.pwr.rst = none) (off : Nat) (v : Word32) (env : RegEnv) : regPort s false off v env =
    portRsp (wordRead s false off env.bad.val).2
      ⟨((wordRead s false off env.bad.val).1).getD 0, (wordRead s false off env.bad.val).1.isNone⟩ := by
  unfold regPort
  rw [hr]
  rfl

section
variable {mask : BitVec 16} (hm : mask ≠ 0) (hs : (maskGroups mask).any (isSched s) = false)
include hm hs

theorem commitNow_free : commitNow s mask = commitApply s mask := by
  unfold commitNow
  rw [if_neg hm, if_neg (Bool.eq_false_iff.mp hs)]

theorem commitSchedule_free : commitSchedule s mask =
    if s.beat.valid ∧ (getReg s rTopCommitAt).toNat ≤ beatNs s then commitApply s mask
    else modCsr s fun c => { c with
      sched := (maskGroups mask).foldl (fun x g => smSet none x g (some (getReg s rTopCommitAt))) c.sched } := by
  unfold commitSchedule
  rw [if_neg hm, if_neg (Bool.eq_false_iff.mp hs)]

end

theorem commitDue_reached {b : Nat} {gs : List Nat} (h : schedDue s = some b)
    (hgs : gs = s.csr.sched.filterMap fun e => if e.2.map BitVec.toNat = some b then some e.1 else none) :
    commitDue s = commitApply (modCsr s fun c => { c with sched := gs.foldl (fun x g => smSet none x g none) c.sched })
      (gs.foldl (fun m g => m ||| ((1 : BitVec 16) <<< g)) 0) := by
  unfold commitDue
  simp only [h, ← hgs]

end

/-! The Beat (R31 to R35). -/

theorem syncMark_beat (s : State) : (syncMark s).beat = { s.beat with sync := s.beat.half } := rfl

theorem freerunLeave_beat (s : State) : (freerunLeave s).beat = { s.beat with freerun := false } := by
  unfold freerunLeave
  cases h : s.beat.freerun with
  | true => simp
  | false =>
    rw [if_neg Bool.false_ne_true, ← h]

section
variable {s : State} {v : Word64} {d : Int} (hr : s.pwr.rst = none) (hd : ((2 * v.toNat : Nat) : Int) - (s.beat.half : Int) = d)
include hr

/-- The first pulse sets the Beat. -/
theorem beatSync_first (hv : s.beat.valid = false) : (beatSync s v).beat.valid = true ∧
    (beatSync s v).beat.half = 2 * v.toNat ∧ (beatSync s v).beat.holdFor = 0 := by
  unfold beatSync
  simp [hr, hv, slotsSkip_beat, genAll_beat, syncMark_beat]

include hd

/-- A pulse far behind the Beat is not accepted: the Beat runs free. -/
theorem beatSync_far_behind (hv : s.beat.valid = true) (h : d < -2048) :
    (beatSync s v).beat.half = s.beat.half ∧ (beatSync s v).beat.freerun = true := by
  unfold beatSync
  cases hf : s.beat.freerun <;> simp only [hr, hv, hf, hd, h, Option.isSome_none, Bool.false_eq_true, if_false, Bool.not_true,
    modBeat_beat, ev_beat, if_true, freerunEnter_beat, and_self]

/-- A pulse slightly behind the Beat holds it. -/
theorem beatSync_behind (hv : s.beat.valid = true) (h1 : -2048 ≤ d) (h2 : d < -4) :
    (beatSync s v).beat.half = s.beat.half ∧ (beatSync s v).beat.holdFor = (-d).toNat ∧ (beatSync s v).beat.freerun = false := by
  unfold beatSync
  simp only [hr, hv, hd, Int.not_lt.mpr h1, h2, Option.isSome_none, Bool.false_eq_true, if_false, Bool.not_true, if_true,
    freerunLeave_beat, syncMark_beat, modBeat_beat, and_self]

/-- A pulse within 2 ns of the Beat leaves it. -/
theorem beatSync_near (hv : s.beat.valid = true) (h1 : -4 ≤ d) (h2 : d ≤ 4) :
    (beatSync s v).beat.half = s.beat.half ∧ (beatSync s v).beat.holdFor = s.beat.holdFor ∧ (beatSync s v).beat.freerun = false := by
  have hfar : ¬ d < -2048 := by omega
  unfold beatSync
  simp only [hr, hv, hd, hfar, Int.not_lt.mpr h1, h2, Option.isSome_none, Bool.false_eq_true, if_false, Bool.not_true, if_true,
    freerunLeave_beat, syncMark_beat, modBeat_beat, and_self]

/-- A pulse ahead of the Beat is accepted, and free-run is left. -/
theorem beatSync_ahead (hv : s.beat.valid = true) (h : 4 < d) : (beatSync s v).beat.freerun = false := by
  have hfar : ¬ d < -2048 := by omega
  unfold beatSync
  simp only [hr, hv, hd, hfar, Option.isSome_none, Bool.false_eq_true, if_false, Bool.not_true, modBeat_beat, freerunLeave_beat]

end

/-- Free-run is entered where it is due; a Beat that was invalid starts at 0. -/
theorem beatFreerun_due {s : State} (h : freerunDue s = true) : (beatFreerun s).beat.freerun = true ∧
    (beatFreerun s).beat.valid = true ∧ (beatFreerun s).beat.half = if s.beat.valid then s.beat.half else 0 := by
  rw [beatFreerun_beat_of_due h]
  cases hv : s.beat.valid <;> simp [hv]

theorem freerunDue_late {s : State} (hr : s.pwr.rst = none) (hf : s.beat.freerun = false)
    (h : (s.beat.valid = true ∧ s.beat.sync + 32000 < s.beat.half) ∨ (s.beat.valid = false ∧ 32000 < s.beat.fclk)) :
    freerunDue s = true := by
  unfold freerunDue
  rcases h with ⟨hv, ht⟩ | ⟨hv, ht⟩ <;> simp [hr, hf, hv, ht]

/-- Settles O31, a clause per command from the lemma about its operation. -/
theorem registerCommandsComplete : Obligations.RegisterCommandsComplete := by
  unfold Obligations.RegisterCommandsComplete
  intro s
  dsimp only
  exact ⟨fun mid off v env h hf => next_of_eq (regWriteAt_hit hf mid v env), fun off h hf => next_of_eq (rcRead_hit hf),
    fun hr addr v env => ⟨next_of_eq (regPort_write hr _ v env), next_of_eq (regPort_read hr _ v env)⟩,
    fun mask hm hs => ⟨next_of_eq (commitNow_free hm hs), next_of_eq (commitSchedule_free hm hs)⟩,
    fun mask h => next_of_eq (if_pos h), fun b h => next_of_eq (commitDue_reached h rfl), ⟨_, rfl, rfl⟩, rfl,
    fun hr v => ⟨fun hv => ⟨_, rfl, beatSync_first hr hv⟩, fun hv h => ⟨_, rfl, beatSync_far_behind hr rfl hv h⟩,
      fun hv h1 h2 => ⟨_, rfl, beatSync_behind hr rfl hv h1 h2⟩, fun hv h1 h2 => ⟨_, rfl, beatSync_near hr rfl hv h1 h2⟩,
      fun hv h => ⟨_, rfl, beatSync_ahead hr rfl hv h⟩⟩,
    fun hr hf h => ⟨_, rfl, beatFreerun_due (freerunDue_late hr hf h)⟩⟩

end Sys2Proof.Machine
end


section
/-!
PROOFS. Writes and reads by access type: ADM.LOCK_CFG (O52), the timing registers (O53) and RC bits (O55).
-/
namespace Sys2Proof.Machine
open Sys2Proof

/-! Reads that clear (R453). -/

section
variable {s : State} {h : RegHit} {off : Nat}

theorem regRead_acts (ha : regActs s h = true) (hj : h.desc.base ≠ 0x30008) (bad : Nat) :
    regRead s h bad = (regValue s h, rcClear s h) := by
  unfold regRead
  rw [if_neg (by simp only [ha, Bool.true_eq_false, not_false_eq_true]), if_neg hj]

theorem rcClear_register (hm : h.desc.base ≠ 0xA1204) (hrc : accBits .rc h.desc ≠ 0) :
    rcClear s h = setReg s h.ref (getReg s h.ref &&& ~~~ accBits .rc h.desc) := by
  unfold rcClear
  rw [if_neg hrc, if_neg hm]

theorem rcClear_mailbox (hm : h.desc.base = 0xA1204) (hrc : accBits .rc h.desc ≠ 0) :
    rcClear s h = modMbx s (Fin.ofNat 4 h.i) fun b => { b with overrun := false } := by
  unfold rcClear
  rw [if_neg hrc, if_pos hm]

theorem rcClear_none (hrc : accBits .rc h.desc = 0) : rcClear s h = s := if_pos hrc

theorem getReg_rcClear_self (hs : s.Canonical) (hm : h.desc.base ≠ 0xA1204) :
    getReg (rcClear s h) h.ref = getReg s h.ref &&& ~~~ accBits .rc h.desc := by
  by_cases hrc : accBits .rc h.desc = 0
  · rw [rcClear_none hrc, hrc]
    exact (BitVec.and_allOnes).symm
  · rw [rcClear_register hm hrc, getReg_setReg_self _ _ _ hs.2.1]

theorem getReg_rcClear_other (hs : s.Canonical) {q : RegRef} (hq : q.off ≠ h.ref.off) : getReg (rcClear s h) q = getReg s q := by
  by_cases hrc : accBits .rc h.desc = 0
  · rw [rcClear_none hrc]
  by_cases hm : h.desc.base = 0xA1204
  · rw [rcClear_mailbox hm hrc]
    rfl
  · rw [rcClear_register hm hrc, getReg_setReg_other _ hs.2.1 hq]

end

/-- Settles O55: the read that returns a register is `rcClear`. -/
theorem readsClearLeafStatus : Obligations.ReadsClearLeafStatus := by
  unfold Obligations.ReadsClearLeafStatus
  intro s off h hs hf ha hj
  have hread := regRead_acts ha hj 0
  refine ⟨by rw [hread], rcClear s h, next_of_eq ((rcRead_hit hf).trans (by rw [hread])), getReg_rcClear_self hs,
    fun hm hrc => ?_, fun q hq => getReg_rcClear_other hs hq, fun k hk => ?_⟩
  · rw [rcClear_mailbox hm hrc, mbx_modMbx]
  · exact (rcClear_kept (al := [Part.csr, .fw].contains) (.of rfl) (.refl s) h).same k (by simpa using hk)

/-! The timing registers (R166): rows with RWH fields alone. -/

/-- The low word of a word is the word. -/
theorem setWidth_and_low (w : Word32) : w.setWidth 64 &&& 0xFFFF_FFFF = w.setWidth 64 := by
  refine BitVec.eq_of_toNat_eq ?_
  rw [BitVec.toNat_and, BitVec.toNat_setWidth, Nat.mod_eq_of_lt (by omega)]
  exact (Nat.and_two_pow_sub_one_eq_mod w.toNat 32).trans (Nat.mod_eq_of_lt w.isLt)

/-- The row of SCH.TIM0, SCH.TIM2, SCH.TIM3 or SCH.TIM4. -/
def timRow (k : Nat) : RegDesc :=
  ⟨["SCH.TIM0", "SCH.TIM1", "SCH.TIM2", "SCH.TIM3", "SCH.TIM4"].getD k "", 0x100110 + 4 * k, 0x40000, 16, 0, 1, false, none,
    0xFFFFFFFF, none, [⟨31, 24, .rwh, 0, 0xFF⟩, ⟨23, 16, .rwh, 0, 0xFF⟩, ⟨15, 8, .rwh, 0, 0xFF⟩, ⟨7, 0, .rwh, 0, 0xFF⟩]⟩

/-- The offset of a channel's timing register. -/
def timOff (k : Nat) (c : Fin 16) : Nat := 0x100110 + 4 * k + 0x40000 * c.val

/-- A channel's timing register. -/
def timHit (k : Nat) (c : Fin 16) : RegHit := ⟨timRow k, c.val, 0, ⟨timOff k c, 0xFFFFFFFF⟩, false⟩

theorem regFind_timOff : ∀ k ∈ [0, 2, 3, 4], ∀ c : Fin 16, regFind (timOff k c) = some (timHit k c) := by decide

section
variable {s : State} {k : Nat} {c : Fin 16} {v : Word64}

theorem hitChan_timHit : hitChan (timHit k c) = c := Fin.ofNat_val_eq_self c

theorem heldFor_timHit : heldFor s (timHit k c) = decide ((chan s c).sch.hold = .held) := by
  unfold heldFor
  rw [if_neg (by simp only [timHit, timRow]; omega), hitChan_timHit]

theorem not_isMap_timHit : isMap (timHit k c) = false := by
  have hb : ¬ (0x100110 + 4 * k < 0x60000) := by omega
  simp only [isMap, timHit, timRow, hb, decide_false, Bool.and_false]

theorem writeRws_timHit : writeRws s (timHit k c) v = s := by
  have hg : groupOf (timHit k c) = none := by
    unfold groupOf
    rw [if_neg (by simp only [timHit, timRow]; omega)]
    rfl
  unfold writeRws
  rw [hg]

theorem writeRw_timHit : writeRw s (timHit k c) v = s := by
  have hrw : accBits .rw (timHit k c).desc = 0 := rfl
  have hlk : accBits .lk (timHit k c).desc = 0 := rfl
  unfold writeRw
  simp [hrw, hlk]

/-- Every value of a field of a timing register is taken. -/
theorem keepReserved_timRow (old : Word64) : keepReserved (timRow k) old v = v := by
  have hin : ∀ lo, fieldOf v (lo + 7) lo ≤ 0xFF := fun lo => by
    have := Nat.mod_lt (v.toNat >>> lo) (Nat.two_pow_pos (lo + 7 + 1 - lo))
    rw [show lo + 7 + 1 - lo = 8 by omega] at this
    unfold fieldOf
    rw [show lo + 7 + 1 - lo = 8 by omega]
    omega
  simp [keepReserved, timRow, hin 24, hin 16, hin 8, hin 0]

theorem writeRwh_timHit_held (hh : (chan s c).sch.hold = .held) : writeRwh s (timHit k c) v = modCsr s fun x => { x with
    pendH := smSet none x.pendH (timOff k c)
      (some ((((smGet none s.csr.pendH (timOff k c)).getD (getReg s (timHit k c).ref)) &&& ~~~ 0xFFFFFFFF) ||| (v &&& 0xFFFFFFFF))) } := by
  have hm : accBits .rwh (timHit k c).desc = 0xFFFFFFFF := rfl
  unfold writeRwh
  simp only [hm, not_isMap_timHit, heldFor_timHit, hh]
  simp [timHit, keepReserved_timRow]

theorem writeRwh_timHit_running (hk : k ≤ 4) (hh : (chan s c).sch.hold ≠ .held) : writeRwh s (timHit k c) v = ev s (chEv c 4) := by
  have hm : accBits .rwh (timHit k c).desc = 0xFFFFFFFF := rfl
  have hb : 0x100000 ≤ (timHit k c).desc.base ∧ (timHit k c).desc.base < 0x100400 := by
    simp only [timHit, timRow]
    omega
  unfold writeRwh
  simp only [hm, not_isMap_timHit, heldFor_timHit, hh, hb, hitChan_timHit]
  simp

theorem trigger_timHit (hk : k ∈ [0, 2, 3, 4]) (mid : BitVec 12) (env : RegEnv) : trigger s mid (timHit k c) v env = s := by
  simp only [List.mem_cons, List.not_mem_nil, or_false] at hk
  rcases hk with rfl | rfl | rfl | rfl <;> rfl

/-- A write of a timing register is a write of its RWH fields. -/
theorem regWrite_timHit (hk : k ∈ [0, 2, 3, 4]) (hc : c.val < chanCount s) (mid : BitVec 12) (w : Word32) (env : RegEnv) :
    regWrite s mid (timHit k c) (w.setWidth 64) env = writeRwh s (timHit k c) (w.setWidth 64) := by
  have ha : regActs s (timHit k c) = true := by
    simp only [regActs, hitChan_timHit, hc, decide_true, Bool.or_true]
  have hrp : rpBits (timHit k c).desc = 0 := show rpBits (timRow 0) = 0 by decide
  have hl : lockedBits s (timHit k c) = 0 := by
    have hotp : accBits .otp (timHit k c).desc = 0 := rfl
    have hlk : accBits .lk (timHit k c).desc = 0 := rfl
    unfold lockedBits
    simp [not_isMap_timHit, hotp, hlk]
  have hnone : ∀ x : Word64, decide (x &&& 0 ≠ 0) = false := fun x => decide_eq_false (Classical.not_not.mpr BitVec.and_zero)
  have hwide : (timHit k c).desc.wide = false := rfl
  unfold regWrite
  simp only [ha, if_true, hwide, Bool.false_eq_true, if_false, setWidth_and_low, hrp, hl, hnone, doIf_false, trigger_timHit hk,
    writeRw_timHit, writeRws_timHit]

/-- A write of a timing register by its offset. -/
theorem exec_timWrite (hk : k ∈ [0, 2, 3, 4]) (hc : c.val < chanCount s) (mid : BitVec 12) (w : Word32) (env : RegEnv) :
    exec (.registerWrite mid (BitVec.ofNat 24 (timOff k c)) (w.setWidth 64) env) s =
      .next (writeRwh s (timHit k c) (w.setWidth 64)) := by
  have hlt : timOff k c < 2 ^ 24 := by
    simp only [List.mem_cons, List.not_mem_nil, or_false] at hk
    unfold timOff
    omega
  have hf : regFind (BitVec.ofNat 24 (timOff k c)).toNat = some (timHit k c) := by
    rw [BitVec.toNat_ofNat, Nat.mod_eq_of_lt hlt]
    exact regFind_timOff k hk c
  exact next_of_eq ((regWriteAt_low hf rfl s mid _ env).trans (regWrite_timHit hk hc mid w env))

end

theorem mem_smSet_self {α : Type} [DecidableEq α] (d : α) (m : SMap α) (i : Nat) {v : α} (hv : v ≠ d) : (i, v) ∈ smSet d m i v := by
  induction m with
  | nil => simp [smSet, hv]
  | cons e m ih =>
    unfold smSet
    rw [if_neg hv, if_neg hv]
    split
    · exact List.mem_cons_self
    · split
      · next heq => simp [heq]
      · exact List.mem_cons_of_mem _ ih

/-- The low word of a value put together from its own high bits and a word is the word. -/
theorem setWidth_low_put (old : Word64) (w : Word32) : ((old &&& ~~~0xFFFF_FFFF) ||| (w.setWidth 64 &&& 0xFFFF_FFFF)).setWidth 32 = w := by
  have hhigh : (~~~(0xFFFF_FFFF : Word64)).setWidth 32 = 0 := by decide
  rw [setWidth_and_low, BitVec.setWidth_or, BitVec.setWidth_and, hhigh, BitVec.setWidth_setWidth_of_le _ (by decide),
    BitVec.setWidth_eq]
  simp

/-- A pending value in a channel's block is pending for it. -/
theorem chanPend_smSet {s : State} {c : Fin 16} {off : Nat} {x : Word64} (hlo : chanLo c ≤ off) (hhi : off < chanLo c + 0x40000) :
    chanPend (modCsr s fun y => { y with pendH := smSet none y.pendH off (some x) }) c = true :=
  List.any_eq_true.mpr ⟨_, mem_smSet_self none _ off (Option.some_ne_none x), by simp [hlo, hhi]⟩

/-- Settles O53: the write is of RWH fields alone, pending in HELD and refused otherwise. -/
theorem holdRegisterWrites : Obligations.HoldRegisterWrites := by
  unfold Obligations.HoldRegisterWrites
  intro s c mid v env k hk hc
  dsimp only
  have hrun := exec_timWrite hk hc mid v env
  have hk4 : k ≤ 4 := by
    simp only [List.mem_cons, List.not_mem_nil, or_false] at hk
    omega
  refine ⟨fun hh => by rw [← writeRwh_timHit_running hk4 hh]; exact hrun, fun hh => ⟨_, hrun, ?_⟩⟩
  rw [writeRwh_timHit_held hh]
  refine ⟨?_, rfl, chanPend_smSet ?_ ?_⟩
  · show Option.map _ (smGet none (smSet none _ (timOff k c) _) (timOff k c)) = _
    rw [smGet_smSet_self _ _ _ (Option.some_ne_none _), Option.map_some, setWidth_low_put]
  · unfold chanLo timOff
    omega
  · unfold chanLo timOff
    omega

end Sys2Proof.Machine
end


section
/-!
PROOFS. Writes of ADM.LOCK_CFG (O52).
-/
namespace Sys2Proof.Machine
open Sys2Proof

/-! Fields by their bits (R15). -/

theorem testBit_fieldOf (v : Word64) (hi lo i : Nat) :
    (fieldOf v hi lo).testBit i = (decide (i < hi + 1 - lo) && v.getLsbD (lo + i)) := by
  rw [fieldOf, Nat.testBit_mod_two_pow, Nat.testBit_shiftRight]
  rfl

/-- A field is told by the bits in its range. -/
theorem fieldOf_congr {v w : Word64} {hi lo : Nat} (h : ∀ i, lo ≤ i → i ≤ hi → v.getLsbD i = w.getLsbD i) :
    fieldOf v hi lo = fieldOf w hi lo := by
  refine Nat.eq_of_testBit_eq fun i => ?_
  rw [testBit_fieldOf, testBit_fieldOf]
  by_cases hi : i < hi + 1 - lo
  · rw [h (lo + i) (by omega) (by omega)]
  · simp [hi]

theorem getLsbD_putField (v : Word64) {hi lo : Nat} (x : Nat) {i : Nat} (h : i < 64) :
    (putField v hi lo x).getLsbD i = if lo ≤ i ∧ i ≤ hi then x.testBit (i - lo) else v.getLsbD i := by
  have hin : (decide (lo ≤ i) && decide (i - lo < hi + 1 - lo)) = decide (lo ≤ i ∧ i ≤ hi) := by
    rw [← Bool.decide_and, decide_eq_decide]
    omega
  simp only [putField, fieldMask, BitVec.getLsbD_or, BitVec.getLsbD_and, BitVec.getLsbD_not, BitVec.getLsbD_ofNat,
    Nat.testBit_shiftLeft, Nat.testBit_two_pow_sub_one, Nat.testBit_mod_two_pow, h, decide_true, Bool.true_and, ge_iff_le,
    ← Bool.and_assoc, hin]
  by_cases hf : lo ≤ i ∧ i ≤ hi <;> simp [hf]

theorem fieldOf_putField_self (v old : Word64) {hi lo : Nat} (h : hi < 64) :
    fieldOf (putField v hi lo (fieldOf old hi lo)) hi lo = fieldOf old hi lo := by
  refine fieldOf_congr fun i h1 h2 => ?_
  rw [getLsbD_putField _ _ (by omega), if_pos ⟨h1, h2⟩, testBit_fieldOf, Nat.add_sub_cancel' h1, decide_eq_true (by omega),
    Bool.true_and]

theorem fieldOf_putField_other (v : Word64) {hi lo a b : Nat} (x : Nat) (hb : a < 64) (h : a < lo ∨ hi < b) :
    fieldOf (putField v hi lo x) a b = fieldOf v a b := by
  refine fieldOf_congr fun i h1 h2 => ?_
  rw [getLsbD_putField _ _ (by omega), if_neg (by omega)]

section
variable {m : Word64} {hi lo : Nat} (x w : Word64)

/-- A field that a mask covers is taken from what the mask selects. -/
theorem fieldOf_put_covered (hm : ∀ i : Fin 64, lo ≤ i.val → i.val ≤ hi → m.getLsbD i.val = true) (h : hi < 64) :
    fieldOf ((x &&& ~~~m) ||| (w &&& m)) hi lo = fieldOf w hi lo := by
  refine fieldOf_congr fun i h1 h2 => ?_
  have hi64 : i < 64 := by omega
  simp only [BitVec.getLsbD_or, BitVec.getLsbD_and, BitVec.getLsbD_not, hm ⟨i, hi64⟩ h1 h2, Bool.not_true, Bool.and_false,
    Bool.and_true, Bool.false_or]

/-- A field that a mask does not touch stays. -/
theorem fieldOf_put_clear (hm : ∀ i : Fin 64, lo ≤ i.val → i.val ≤ hi → m.getLsbD i.val = false) (h : hi < 64) :
    fieldOf ((x &&& ~~~m) ||| (w &&& m)) hi lo = fieldOf x hi lo := by
  refine fieldOf_congr fun i h1 h2 => ?_
  have hi64 : i < 64 := by omega
  simp only [BitVec.getLsbD_or, BitVec.getLsbD_and, BitVec.getLsbD_not, hm ⟨i, hi64⟩ h1 h2, hi64, decide_true, Bool.not_false,
    Bool.and_false, Bool.and_true, Bool.or_false]

/-- A field within the low word is read from it. -/
theorem fieldOf_low (h : hi < 32) : fieldOf (w &&& 0xFFFF_FFFF) hi lo = fieldOf w hi lo := by
  have hones : ∀ i : Fin 64, i.val < 32 → (0xFFFF_FFFF : Word64).getLsbD i.val = true := by decide
  refine fieldOf_congr fun i h1 h2 => ?_
  rw [BitVec.getLsbD_and, hones ⟨i, by omega⟩ (by dsimp only; omega), Bool.and_true]

end

/-! RP_CHANGED (R452). -/

theorem rpChanged_regs {s : State} (hs : smWf 0 s.csr.val = true) (h : RegHit) (mid : BitVec 12) :
    RegsKept (rTopRpInfo.off :: evtCounters) s (rpChanged s h mid) := by
  have hput : RegsKept (rTopRpInfo.off :: evtCounters) s
      (setReg s rTopRpInfo (packFields [(63, 1), (48, mid.toNat), (0, h.ref.off)])) := (RegsKept.refl hs).put _ _ (by simp)
  obtain ⟨hwf, hreg⟩ := raiseEvt_regs (RegsKept.refl hput.wf) 7 [BitVec.ofNat 32 h.ref.off, BitVec.ofNat 32 mid.toNat]
    { EvtOrigin.none with mid := mid } false false
  exact ⟨hwf, fun q hq => (hreg q fun hm => hq (List.mem_cons_of_mem _ hm)).trans (hput.reg q hq)⟩

/-! The register. -/

/-- ADM.LOCK_CFG, as the table gives it. -/
def lockCfgHit : RegHit := ⟨⟨"ADM.LOCK_CFG", 0x40018, 0, 1, 0, 1, false, none, 0xFA0100, none,
  [⟨23, 16, .rw, 1, 0xFA⟩, ⟨8, 0, .rw, 1, 0x100⟩]⟩, 0, 0, rAdmLockCfg, false⟩

theorem regFind_lockCfg : regFind 0x40018 = some lockCfgHit := by decide

/-- The bits of max_time and max_req. -/
def lockCfgMask : Word64 := 0xFF01FF

section
variable (old v : Word64)

theorem keepReserved_lockCfg_time : fieldOf (keepReserved lockCfgHit.desc old v) 23 16 =
    if 1 ≤ fieldOf v 23 16 ∧ fieldOf v 23 16 ≤ 250 then fieldOf v 23 16 else fieldOf old 23 16 := by
  simp only [keepReserved, lockCfgHit, List.foldl]
  split <;> split <;> simp [fieldOf_putField_self, fieldOf_putField_other]

theorem keepReserved_lockCfg_reqs : fieldOf (keepReserved lockCfgHit.desc old v) 8 0 =
    if 1 ≤ fieldOf v 8 0 ∧ fieldOf v 8 0 ≤ 256 then fieldOf v 8 0 else fieldOf old 8 0 := by
  simp only [keepReserved, lockCfgHit, List.foldl]
  split <;> split <;> simp [fieldOf_putField_self, fieldOf_putField_other]

end

section
variable {s : State} {v : Word64}

theorem writeRws_lockCfg : writeRws s lockCfgHit v = s := rfl

theorem writeRwh_lockCfg : writeRwh s lockCfgHit v = s := by
  unfold writeRwh
  exact if_pos (.inl rfl)

theorem trigger_lockCfg (mid : BitVec 12) (env : RegEnv) : trigger s mid lockCfgHit v env = s := rfl

theorem writeRw_lockCfg : writeRw s lockCfgHit v = setReg s rAdmLockCfg
    ((getReg s rAdmLockCfg &&& ~~~lockCfgMask) ||| (keepReserved lockCfgHit.desc (getReg s rAdmLockCfg) v &&& lockCfgMask)) := by
  have hm : accBits .rw lockCfgHit.desc ||| (if lkClosed s lockCfgHit then 0 else accBits .lk lockCfgHit.desc) = lockCfgMask := by
    have hlk : accBits .lk lockCfgHit.desc = 0 := rfl
    rw [hlk, ite_self]
    decide
  unfold writeRw
  simp only [hm]
  exact if_neg (by decide)

/-- A write of ADM.LOCK_CFG: RP_CHANGED where a reserved bit changes, then the fields. -/
theorem regWrite_lockCfg (mid : BitVec 12) (env : RegEnv) : ∃ moved : Bool,
    let w := v &&& 0xFFFF_FFFF
    let rp := rpBits lockCfgHit.desc
    regWrite s mid lockCfgHit v env =
      doIf moved (fun s => setReg s rAdmLockCfg ((getReg s rAdmLockCfg &&& ~~~rp) ||| (w &&& rp)))
        (writeRw (doIf moved (fun s => rpChanged s lockCfgHit mid) s) lockCfgHit w) := by
  have hl : lockedBits s lockCfgHit = 0 := by
    have hotp : accBits .otp lockCfgHit.desc = 0 := rfl
    have hlk : accBits .lk lockCfgHit.desc = 0 := rfl
    have hmap : isMap lockCfgHit = false := rfl
    unfold lockedBits
    simp [hotp, hlk, hmap]
  have hnone : ∀ x : Word64, decide (x &&& 0 ≠ 0) = false := fun x => decide_eq_false (Classical.not_not.mpr BitVec.and_zero)
  have ha : regActs s lockCfgHit = true := rfl
  refine ⟨decide ((v &&& 0xFFFF_FFFF ^^^ regValue s lockCfgHit) &&& rpBits lockCfgHit.desc ≠ 0), ?_⟩
  have hwide : lockCfgHit.desc.wide = false := rfl
  unfold regWrite
  simp only [ha, if_true, hwide, Bool.false_eq_true, if_false, hl, hnone, doIf_false, writeRws_lockCfg, writeRwh_lockCfg,
    trigger_lockCfg]
  rfl

/-- A field of ADM.LOCK_CFG after a write is the field of what the write puts there. -/
theorem fld_regWrite_lockCfg (hs : smWf 0 s.csr.val = true) (mid : BitVec 12) (env : RegEnv) {hi lo : Nat} (h : hi < 64)
    (hm : ∀ i : Fin 64, lo ≤ i.val → i.val ≤ hi → lockCfgMask.getLsbD i.val = true)
    (hrp : ∀ i : Fin 64, lo ≤ i.val → i.val ≤ hi → (rpBits lockCfgHit.desc).getLsbD i.val = false) :
    fld (regWrite s mid lockCfgHit v env) rAdmLockCfg hi lo =
      fieldOf (keepReserved lockCfgHit.desc (getReg s rAdmLockCfg) (v &&& 0xFFFF_FFFF)) hi lo := by
  obtain ⟨moved, hw⟩ := regWrite_lockCfg (s := s) (v := v) mid env
  have hkept : RegsKept (rTopRpInfo.off :: evtCounters) s (doIf moved (fun s => rpChanged s lockCfgHit mid) s) := by
    cases moved with
    | false => exact .refl hs
    | true => exact rpChanged_regs hs lockCfgHit mid
  have hval := fieldOf_put_covered (getReg s rAdmLockCfg)
    (keepReserved lockCfgHit.desc (getReg s rAdmLockCfg) (v &&& 0xFFFF_FFFF)) hm h
  rw [hw, writeRw_lockCfg, hkept.reg rAdmLockCfg (by decide), ← hval]
  generalize doIf moved (fun s => rpChanged s lockCfgHit mid) s = u at hkept ⊢
  have hself := fun x => getReg_setReg_self u rAdmLockCfg x hkept.wf
  unfold fld
  cases moved with
  | false => rw [doIf_false, hself]
  | true => rw [doIf_true, getReg_setReg_self _ _ _ (smWf_smSet 0 _ _ hkept.wf), fieldOf_put_clear _ _ hrp h, hself]

end

/-- Settles O52: the fields after the write, each in its range or as before. -/
theorem lockCeilingWrites : Obligations.LockCeilingWrites := by
  unfold Obligations.LockCeilingWrites
  intro s mid v env hs
  dsimp only
  refine ⟨_, next_of_eq (regWriteAt_low regFind_lockCfg rfl s mid v env), ?_, ?_⟩
  · rw [fld_regWrite_lockCfg hs.2.1 mid env (by decide) (by decide) (by decide), keepReserved_lockCfg_time, fieldOf_low _ (by decide)]
    rfl
  · rw [fld_regWrite_lockCfg hs.2.1 mid env (by decide) (by decide) (by decide), keepReserved_lockCfg_reqs, fieldOf_low _ (by decide)]
    rfl

end Sys2Proof.Machine
end
